-- ==== Sys2Proof/Word.lean ====
section
/-!
DEFINITION. The plainest data of the model: byte and word types, bit ranges of numbers, little-endian joining (R8),
and `Tbl`, the ONE canonical sparse table that memory, registers and every indexed collection of the block are held in.
-/

namespace Sys2Proof

/-- Eight bits of memory (R8). -/
abbrev Byte := BitVec 8
/-- A register is 32 bits (R8). -/
abbrev Word32 := BitVec 32
/-- A word of a descriptor or a record is 64 bits (R8). -/
abbrev Word64 := BitVec 64

/-- Bits `[lo + w - 1 : lo]` of a number (R7). -/
def bits (lo w x : Nat) : Nat := x / 2 ^ lo % 2 ^ w

/-- One bit of a number. -/
def bitAt (i x : Nat) : Bool := x / 2 ^ i % 2 == 1

/-- A number with bits `[lo + w - 1 : lo]` replaced by `v`. -/
def putBits (lo w v x : Nat) : Nat := x - bits lo w x * 2 ^ lo + v % 2 ^ w * 2 ^ lo

/-- The number that bytes spell, lowest address least significant (R8). -/
def leNat : List Byte → Nat
  | [] => 0
  | b :: r => b.toNat + 256 * leNat r

/-- The `n` bytes of a number, least significant first (R8). -/
def leBytes : Nat → Nat → List Byte
  | 0, _ => []
  | n + 1, x => BitVec.ofNat 8 x :: leBytes n (x / 256)

/-- `⌈a / b⌉`. -/
def ceilDiv (a b : Nat) : Nat := (a + b - 1) / b

/-- `a, a+1, …` (`n` numbers). -/
def natsFrom (a : Nat) : Nat → List Nat
  | 0 => []
  | n + 1 => a :: natsFrom (a + 1) n

/-- The smaller of a sum and a maximum: a counter that saturates holds its maximum (R13). -/
def satAdd (max a b : Nat) : Nat := if a + b ≤ max then a + b else max

/-- A sparse table: pairs of key and value, keys strictly rising, no entry equal to the default. -/
abbrev Tbl (α : Type) := List (Nat × α)

namespace Tbl

/-- The value at `k`; an unlisted key reads as the default `d`. -/
def get {α : Type} (d : α) (k : Nat) : Tbl α → α
  | [] => d
  | (j, v) :: r => if j = k then v else if k < j then d else get d k r

/-- Put `v` at `k`, keeping the keys rising (no removal). -/
def put {α : Type} (k : Nat) (v : α) : Tbl α → Tbl α
  | [] => [(k, v)]
  | (j, w) :: r => if k < j then (k, v) :: (j, w) :: r else if j = k then (k, v) :: r else (j, w) :: put k v r

/-- Remove the entry at `k`. -/
def del {α : Type} (k : Nat) : Tbl α → Tbl α
  | [] => []
  | (j, w) :: r => if j = k then r else (j, w) :: del k r

/-- Write `v` at `k` in canonical form: writing the default removes the entry. -/
def set {α : Type} [DecidableEq α] (d : α) (k : Nat) (v : α) (t : Tbl α) : Tbl α :=
  if v = d then del k t else put k v t

/-- Every key of the table is above `n`. -/
def above {α : Type} (n : Nat) : Tbl α → Bool
  | [] => true
  | (j, _) :: r => decide (n < j) && above n r

/-- The entry at `k`, if there is one. -/
def find {α : Type} (k : Nat) : Tbl α → Option α
  | [] => none
  | (j, v) :: r => if j = k then some v else if k < j then none else find k r

/-- Write bytes (or any values) at consecutive keys. -/
def setRun {α : Type} [DecidableEq α] (d : α) (k : Nat) : List α → Tbl α → Tbl α
  | [], t => t
  | v :: r, t => setRun d (k + 1) r (set d k v t)

/-- `n` values from key `k` on. -/
def getRun {α : Type} (d : α) (k n : Nat) (t : Tbl α) : List α := (natsFrom k n).map fun i => get d i t

/-- Remove every entry whose key lies in `lo .. hi−1`. -/
def clear {α : Type} (lo hi : Nat) (t : Tbl α) : Tbl α := t.filter fun e => !(decide (lo ≤ e.1) && decide (e.1 < hi))

/-- Apply a function to the entry at `k`, if there is one. -/
def adjust {α : Type} (k : Nat) (f : α → α) : Tbl α → Tbl α
  | [] => []
  | (j, v) :: r => if j = k then (j, f v) :: r else (j, v) :: adjust k f r

/-- Keys strictly rising: the form of a table whose default differs from key to key, as that of the registers. -/
def rising {α : Type} : Tbl α → Bool
  | [] => true
  | (j, _) :: r => above j r && rising r

/-- The canonical form: keys strictly rising, no entry equal to the default. -/
def wf {α : Type} [DecidableEq α] (d : α) : Tbl α → Bool
  | [] => true
  | (j, v) :: r => decide (v ≠ d) && above j r && wf d r

end Tbl

end Sys2Proof
end

