-- ==== Sys2Proof/Syntax.lean ====
section
/-!
DEFINITION. The commands of the block: one constructor per row of the table of operations and events, with its operands. A row
that delivers a message carries the message; a row that reads the host carries the word the read returned; a row of a pin or a
sensor carries the reading.
-/

namespace Sys2Proof

/-- A message of the span level (R161, R347): word 0 in parts, the words after it, the body. -/
structure Msg where
  /-- bits [15:0] of word 0, less 2^8: the MSG code, and above it what a message puts in bits [15:12]; VERSION 1 adds nothing -/
  kind : Nat
  /-- SRC_DEV of word 0 -/
  src : Nat
  /-- TENANT of word 0 -/
  tenant : Nat
  /-- words 1 to 7 -/
  w : List Nat
  /-- the body -/
  body : List Byte
  deriving DecidableEq, Repr

/-- Word `i` of a message (1 to 7); absent words are zero. -/
def Msg.word (m : Msg) (i : Nat) : Nat := m.w.getD (i - 1) 0

/-- Bits of word `i`. -/
def Msg.fld (m : Msg) (i lo w : Nat) : Nat := bits lo w (m.word i)

/-- The ports a register access arrives on (R327): the host's PCIe port and Porter's management ports. -/
inductive BusPort where
  /-- host PCIe -/
  | host
  /-- Porter: SMBus, SPI, UART -/
  | porter
  deriving DecidableEq, Repr

/-- A field packet as it arrives, behind the checks of R400 (R401, R402). -/
structure FIn where
  /-- DST_CONN -/
  dstConn : Nat
  /-- SRC_CONN -/
  srcConn : Nat
  /-- TENANT -/
  tenant : Nat
  /-- IPv6 source address, byte 0 least significant -/
  ip : Nat
  /-- PSN -/
  psn : Nat
  /-- FIRST -/
  first : Bool
  /-- LAST -/
  last : Bool
  /-- ACK_REQ -/
  ackReq : Bool
  /-- SYNDROME: 0 ACK, 1 NAK_SEQ, 2 NAK_REFUSED -/
  syndrome : Nat
  /-- STATUS -/
  status : Nat
  /-- ACK_PSN -/
  ackPsn : Nat
  /-- ADDR of the extension -/
  addr : Nat
  /-- word 1 of the extension -/
  w1 : Nat
  /-- the payload -/
  payload : List Byte
  deriving DecidableEq, Repr

/-- Porter's frame ports (R472). -/
inductive FramePort where
  /-- SMBus -/
  | smbus
  /-- board SPI target -/
  | spi
  /-- UART in frame mode -/
  | uart
  deriving DecidableEq, Repr

/-- What is wrong with a flit (R345 to R353). -/
inductive BadKind where
  /-- its CHK fails, or FIRST and LAST break the rules of R348 -/
  | flit
  /-- its blocks lie in an uncorrectable codeword -/
  | codeword
  /-- the CRC of a CONTROL flit fails -/
  | control
  deriving DecidableEq, Repr

/-- What an instruction shifted in over JTAG asks for (R484). -/
inductive Jtag where
  /-- IDCODE -/
  | idcode
  /-- BYPASS -/
  | bypass
  /-- a boundary-scan instruction of IEEE 1149.1 or 1149.6 -/
  | boundary
  /-- a debug instruction -/
  | debug
  /-- any other -/
  | other
  deriving DecidableEq, Repr

/-- The commands. -/
inductive Instr where
  /-- MATMUL (R86): COMPUTE command that multiplies X by W, adds BIAS and applies the epilogue program to each output row. -/
  | matmul (core : Fin 160)
  /-- VECTOR (R86): COMPUTE command that runs a vector program over M rows of N elements. -/
  | vector (core : Fin 160)
  /-- CONVERT (R86): COMPUTE command that converts M rows from FMT_X to FMT_C, or copies them bit-exactly when the formats are equal. -/
  | convert (core : Fin 160)
  /-- COPY (R86): COMPUTE command that copies M rows of N bytes bit-exactly from the X entry to the C entry. -/
  | copy (core : Fin 160)
  /-- SIGNAL (R86): COMPUTE command that does nothing except apply its Tally signals at commit. -/
  | signal (core : Fin 160)
  /-- NB_MATVEC (R108): Near-bank matrix-vector product of BF16 activations with MX weights held in T1. -/
  | nbMatvec (core : Fin 160) (place : Fin 8)
  /-- NB_ELTWISE (R113): Near-bank element-wise operation that SUBOP selects, including ROUTE and COMBINE. -/
  | nbEltwise (core : Fin 160) (place : Fin 8)
  /-- NB_NORMSUM (R112): Near-bank sum of squares of each row, optionally with the row sum. -/
  | nbNormsum (core : Fin 160) (place : Fin 8)
  /-- NB_ROWPROG (R117): Runs a program of row words over a window of T1 pages in one stack. -/
  | nbRowprog (core : Fin 160) (place : Fin 8)
  /-- ATTN (R159): Attention command that appends rows at the KV homes, gathers partials from them and merges the partials by the fixed tree. -/
  | attn (core : Fin 160) (place : Fin 8)
  /-- KV_APPEND (R144): Quantises and appends K and V rows into KV pages and writes TOKENS and FILLED. -/
  | kvAppend (core : Fin 160) (place : Fin 8)
  /-- PREFIX_MATCH (R155): Counts the leading candidate pages whose tokens and keys match a prompt. -/
  | prefixMatch (core : Fin 160) (place : Fin 8)
  /-- MEM_MAP (R173): Maps a range of zeroed pages with a tier preference, attribute and lock. -/
  | memMap (core : Fin 160) (place : Fin 8)
  /-- MEM_UNMAP (R174): Waits for unpinning, invalidates translations and releases the frames of a range. -/
  | memUnmap (core : Fin 160) (place : Fin 8)
  /-- MEM_SETATTR (R188): Invalidates outside copies of a range and then changes its coherence attribute. -/
  | memSetattr (core : Fin 160) (place : Fin 8)
  /-- MEM_REPUBLISH (R189): Increments the VERSION of REPLICABLE pages after pending writes are acknowledged. -/
  | memRepublish (core : Fin 160) (place : Fin 8)
  /-- MEM_HARVEST (R183): Marks a harvest entry in use, releases pages outside the window and prefetches the following entries. -/
  | memHarvest (core : Fin 160) (place : Fin 8)
  /-- MEM_FILL (R194): Fills a range with a repeated 64-bit pattern at the memory. -/
  | memFill (core : Fin 160) (place : Fin 8)
  /-- MEM_COPY (R194): Copies a range at the tier of the source. -/
  | memCopy (core : Fin 160) (place : Fin 8)
  /-- MEM_COMPARE (R194): Writes the offset of the first byte at which two ranges differ. -/
  | memCompare (core : Fin 160) (place : Fin 8)
  /-- MEM_REDUCE (R192): Reduces rows or columns at the memory by the canonical contraction with ones. -/
  | memReduce (core : Fin 160) (place : Fin 8)
  /-- ADMIT (R208): Checks an admit descriptor, creates a ledger entry and allocates its path and pages. -/
  | ledgerAdmit
  /-- LEDGER_CANCEL (R222): Cancels a request, with an effect that depends on the state of its entry. -/
  | ledgerCancel
  /-- LEDGER_QUERY (R229): Copies words 0 to 15 of a ledger entry to lodge memory and returns its STATE. -/
  | ledgerQuery
  /-- LEDGER_RELEASE (R206): Frees a FAULTED or ORPHANED entry and releases its reachable pages. -/
  | ledgerRelease
  /-- LIVERY_LOAD (R228): Copies livery coefficients into a slot and marks the livery as loaded. -/
  | liveryLoad
  /-- LIVERY_DROP (R228): Marks a livery as not loaded. -/
  | liveryDrop
  /-- WAIN_MOVE (R252): Copies bytes bit-exactly between lodge addresses, locally or by a stream. -/
  | wainMove (core : Fin 160) (place : Fin 4)
  /-- WAIN_PUSH_KV (R250): Pushes the staged layer blocks of one layer to the KV homes and sends LAYER_ACK at commit. -/
  | wainPushKv (core : Fin 160) (place : Fin 4)
  /-- TALLY_ALLOC (R316): Binds a free Tally to the core, lodge and group. -/
  | tallyAlloc (core : Fin 160)
  /-- TALLY_FREE (R305): Frees a Tally that no queued or running command names. -/
  | tallyFree (core : Fin 160)
  /-- TALLY_GROUP (R310): Configures or disbands a Tally group with its slot and period. -/
  | tallyGroup (core : Fin 160)
  /-- TALLY_RECKON (R311): Rebases a Tally group by its minimum count. -/
  | tallyReckon (core : Fin 160)
  /-- TALLY_READ (R316): Writes the physical and logical counts of up to 64 Tallies to lodge memory. -/
  | tallyRead (core : Fin 160)
  /-- SPAN_READ (R382): Reads remote memory through the span cache or from a replica, according to the page attribute. -/
  | spanRead (core : Fin 160) (place : Fin 4)
  /-- SPAN_WRITE (R380): Writes local bytes to another member's memory. -/
  | spanWrite (core : Fin 160) (place : Fin 4)
  /-- SPAN_ATOMIC (R386): Applies a 64-bit atomic operation at the home and returns the old value. -/
  | spanAtomic (core : Fin 160) (place : Fin 4)
  /-- SPAN_COPY (R388): Copies bytes to a remote range in chunks and optionally increments an arrival counter. -/
  | spanCopy (core : Fin 160) (place : Fin 4)
  /-- SPAN_INVAL (R383): Removes the lodge's span cache lines of a range. -/
  | spanInval (core : Fin 160) (place : Fin 4)
  /-- ARRIVAL_WAIT (R389): Waits until an arrival counter reaches a value, then commits. -/
  | arrivalWait (core : Fin 160) (place : Fin 4)
  /-- ARRIVAL_CTL (R387): Allocates or frees an arrival counter, or sets its count. -/
  | arrivalCtl (core : Fin 160) (place : Fin 4)
  /-- FLD_CONN_OPEN (R403): Opens a field connection from a context held in lodge memory. -/
  | fldConnOpen (core : Fin 160) (place : Fin 4)
  /-- FLD_CONN_CLOSE (R404): Closes a field connection that has no outstanding command. -/
  | fldConnClose (core : Fin 160) (place : Fin 4)
  /-- FLD_CONN_MODIFY (R416): Changes RATE, BURST and TC of a connection at its next packet boundary. -/
  | fldConnModify (core : Fin 160) (place : Fin 4)
  /-- FLD_WRITE (R412): Writes bytes to a field peer and optionally increments an arrival counter there. -/
  | fldWrite (core : Fin 160) (place : Fin 4)
  /-- FLD_READ (R411): Reads bytes from a field peer into local memory. -/
  | fldRead (core : Fin 160) (place : Fin 4)
  /-- EMB_LOOKUP (R261): Computes weighted bag sums of embedding rows across the homes in a fixed order. -/
  | embLookup (core : Fin 160) (place : Fin 8)
  /-- EMB_PREFETCH (R264): Asks the homes to promote the pages of coming rows into T1. -/
  | embPrefetch (core : Fin 160) (place : Fin 8)
  /-- EMB_UPDATE (R265): Replaces versioned embedding rows at their homes. -/
  | embUpdate (core : Fin 160) (place : Fin 8)
  /-- NOP (R336): ADMIN command that completes at once. -/
  | nop
  /-- BARRIER (R336): ADMIN command that completes after every earlier descriptor of its ring has its record. -/
  | barrier
  /-- VECTOR_NOP (R78): Vector instruction that does nothing. -/
  | vectorNop (core : Fin 160)
  /-- LD (R78): Loads and converts a row from an operand entry into a vector register. -/
  | ld (core : Fin 160) (reg : Fin 32) (fmt : Fin 16) (opnd : Fin 16) (imm : Nat)
  /-- ST (R78): Converts a vector register to a format and stores it to an output entry. -/
  | st (core : Fin 160) (reg : Fin 32) (fmt : Fin 16) (opnd : Fin 16) (imm : Nat)
  /-- ADD (R78): Adds two vector registers lane by lane. -/
  | add (core : Fin 160) (dst src1 src2 : Fin 32)
  /-- MUL (R78): Multiplies two vector registers lane by lane. -/
  | mul (core : Fin 160) (dst src1 src2 : Fin 32)
  /-- FMA (R78): Fused multiply-add of three vector registers with one rounding. -/
  | fma (core : Fin 160) (dst src1 src2 src3 : Fin 32)
  /-- MAX (R52): Lane-wise maximum with canonical NaN and signed-zero rules. -/
  | max (core : Fin 160) (dst src1 src2 : Fin 32)
  /-- MIN (R52): Lane-wise minimum with canonical NaN and signed-zero rules. -/
  | min (core : Fin 160) (dst src1 src2 : Fin 32)
  /-- RECIP (R53): Correctly rounded reciprocal in each lane. -/
  | recip (core : Fin 160) (dst src1 : Fin 32)
  /-- RSQRT (R53): Correctly rounded reciprocal square root in each lane. -/
  | rsqrt (core : Fin 160) (dst src1 : Fin 32)
  /-- SQRT (R53): Correctly rounded square root in each lane. -/
  | sqrt (core : Fin 160) (dst src1 : Fin 32)
  /-- DIV (R53): Correctly rounded division SRC1 / SRC2 in each lane. -/
  | div (core : Fin 160) (dst src1 src2 : Fin 32)
  /-- EXP (R53): exp computed as exp2 of a scaled product. -/
  | exp (core : Fin 160) (dst src1 : Fin 32)
  /-- LOG (R53): log computed as log2 times a constant. -/
  | log (core : Fin 160) (dst src1 : Fin 32)
  /-- EXP2 (R53): Correctly rounded exp2 in each lane. -/
  | exp2 (core : Fin 160) (dst src1 : Fin 32)
  /-- LOG2 (R53): Correctly rounded log2 in each lane. -/
  | log2 (core : Fin 160) (dst src1 : Fin 32)
  /-- RSUM (R80): Row sum by the canonical contraction with ones, broadcast to every lane. -/
  | rsum (core : Fin 160) (dst src1 : Fin 32)
  /-- RMAX (R78): Row maximum broadcast to every lane. -/
  | rmax (core : Fin 160) (dst src1 : Fin 32)
  /-- SEL (R78): Selects SRC3 where SRC1 < SRC2, else SRC2. -/
  | sel (core : Fin 160) (dst src1 src2 src3 : Fin 32)
  /-- ROT (R78): Rotates lane pairs by cosine and sine operands. -/
  | rot (core : Fin 160) (dst src1 src2 src3 : Fin 32)
  /-- TOPK (R78): Writes the indices of the IMM largest values of the row. -/
  | topk (core : Fin 160) (dst src1 : Fin 32) (imm : Nat)
  /-- BCAST (R78): Broadcasts an immediate FP32 value to every lane. -/
  | bcast (core : Fin 160) (dst : Fin 32) (imm : Nat)
  /-- LOOP (R78): Repeats the instructions up to the matching END IMM times. -/
  | loop (core : Fin 160) (imm : Nat)
  /-- END (R78): Closes a vector loop. -/
  | endLoop (core : Fin 160)
  /-- ROW_NOP (R119): Row word that does nothing for one row step. -/
  | rowNop (core : Fin 160) (place : Fin 8)
  /-- ROW_COPY (R119): Row word that copies a source row to the destination in the array or the NBU. -/
  | rowCopy (core : Fin 160) (place : Fin 8) (bankD : Fin 32) (rowD : Nat) (bankA : Fin 32) (rowA : Nat)
  /-- INIT0 (R119): Row word that clears every bit of the destination row. -/
  | init0 (core : Fin 160) (place : Fin 8) (bankD : Fin 32) (rowD : Nat)
  /-- INIT1 (R119): Row word that sets every bit of the destination row. -/
  | init1 (core : Fin 160) (place : Fin 8) (bankD : Fin 32) (rowD : Nat)
  /-- AND (R119): Row word that writes the AND of two rows. -/
  | rowAnd (core : Fin 160) (place : Fin 8) (bankD : Fin 32) (rowD : Nat) (bankA : Fin 32) (rowA : Nat) (bankB : Fin 32) (rowB : Nat)
  /-- OR (R119): Row word that writes the OR of two rows. -/
  | rowOr (core : Fin 160) (place : Fin 8) (bankD : Fin 32) (rowD : Nat) (bankA : Fin 32) (rowA : Nat) (bankB : Fin 32) (rowB : Nat)
  /-- XOR (R119): Row word that writes the XOR of two rows. -/
  | rowXor (core : Fin 160) (place : Fin 8) (bankD : Fin 32) (rowD : Nat) (bankA : Fin 32) (rowA : Nat) (bankB : Fin 32) (rowB : Nat)
  /-- NOT (R119): Row word that writes the complement of a row. -/
  | rowNot (core : Fin 160) (place : Fin 8) (bankD : Fin 32) (rowD : Nat) (bankA : Fin 32) (rowA : Nat)
  /-- ROW_END (R119): Row word that ends the row program. -/
  | rowEnd (core : Fin 160) (place : Fin 8)
  /-- COMMIT (R83): At the commit point the page map is updated, signals are applied and the completion record is handed over. -/
  | commit (core : Fin 160) (place : Fin 13)
  /-- KILL_DONE (R90): Once every issued access is acknowledged, the killed core returns to IDLE. -/
  | killDone (core : Fin 160) (place : Fin 13)
  /-- CMD_TIMEOUT (R92): The command limit expires, and the command ends with CMD_TIMEOUT. -/
  | cmdTimeout (core : Fin 160) (place : Fin 13)
  /-- SPIN_TIMEOUT (R315): A command waits for SPIN_US, ends with SPIN_TIMEOUT and faults its lodge context. -/
  | spinTimeout (core : Fin 160) (place : Fin 13)
  /-- WAIT_RELEASE (R307): A waiter whose wait is met is released two cycles after the signal. -/
  | waitRelease (core : Fin 160) (place : Fin 13)
  /-- SHADOW_COMPARE (R94): The partner core finishes a shadowed tile command and compares every output bit. -/
  | shadowCompare (core : Fin 160) (differs : Bool) (tempA tempB : Nat) (mvA mvB : Nat)
  /-- SHADOW_ABANDON (R94): A shadow that has not finished within 100 µs is abandoned and counted. -/
  | shadowAbandon (core : Fin 160)
  /-- PIN_READY (R105): A page migrated into T1 for pinning lets the near-bank command leave WAIT. -/
  | pinReady (core : Fin 160) (place : Fin 8)
  /-- ACTIVATION_ROOM (R110): Room released in the activation buffer lets a waiting NB_MATVEC start. -/
  | activationRoom (core : Fin 160) (place : Fin 8)
  /-- REFRESH_DUE (R124): A channel refresh falls due and is paid or added to the debt. -/
  | refreshDue (stack : Fin 8) (channel : Fin 64)
  /-- NB_THERMAL (R126): A stack base-die temperature crosses a throttle, suspend or resume threshold. -/
  | nbThermal (stack : Fin 8) (temp : Nat)
  /-- CHANNEL_GROUP_RAMP (R128): A group of eight channels enters or leaves near-bank work 40 ns after the previous group. -/
  | channelGroupRamp (stack : Fin 8)
  /-- EPOCH_END (R177): At the end of an epoch every access count is halved. -/
  | epochEnd
  /-- MIGRATION_CHUNK (R179): A migration engine finishes copying a 64 KiB chunk of a page. -/
  | migrationChunk (lodge : Fin 16) (page : Nat) (uncorrectable : Bool)
  /-- CUTOVER (R181): After translated accesses drain, the page table entry switches to the new frame. -/
  | cutover (lodge : Fin 16) (page : Nat)
  /-- FRAME_ZEROED (R172): A released frame finishes zeroing and rejoins the free pool. -/
  | frameZeroed (tier : Fin 4) (frame : Nat)
  /-- DIR_RECALL_TIMEOUT (R191): A member silent for 50 µs on a recall is treated as invalidated, and an alarm is raised. -/
  | dirRecallTimeout (lodge : Fin 16) (line : Nat)
  /-- INVAL_ACK_TIMEOUT (R188): A member that does not acknowledge a range invalidation within 50 µs is treated as dead. -/
  | invalAckTimeout (tag : Nat)
  /-- TRAY_TIMEOUT (R197): A CXL.mem request with no completion after TIMEOUT_MS marks the tray device lost. -/
  | trayTimeout (port : Fin 4) (device : Fin 16)
  /-- TRAY_REMOVAL (R197): Surprise removal of a tray device marks it lost. -/
  | trayRemoval (port : Fin 4) (device : Fin 16)
  /-- TRAY_HOTADD (R197): A tray device added later is enumerated, and its frames join the pool. -/
  | trayHotadd (port : Fin 4) (device : Fin 16) (gib : Nat) (speed width : Fin 4)
  /-- REPLICA_SCRUB (R449): Every SCRUB_MS one replica page is compared with its home. -/
  | replicaScrub
  /-- STEP_RECORD_WRITE (R221): Step records are written once the ring has room, and entries whose LAST unit is written pass to FREE. -/
  | stepRecordWrite (slot : Fin 8)
  /-- PREFILL (R211): A Prompt device receives a prefill offer and accepts it or answers BUSY or NO_PAGES. -/
  | prefill (m : Msg)
  /-- PREFILL_ACK (R209): The ledger receives the answer to a prefill offer. -/
  | prefillAck (m : Msg)
  /-- PREFILL_DONE (R211): The ledger receives the end of a long prefill and moves the entry on. -/
  | prefillDone (m : Msg)
  /-- PREFILL_CANCEL (R222): A Prompt device stops a prefill at its next layer boundary. -/
  | prefillCancel (m : Msg)
  /-- PAGE_OP (R211): A home allocates, releases or shares KV pages for a request. -/
  | pageOp (m : Msg)
  /-- PAGE_RSP (R211): A requester receives the status of a page operation. -/
  | pageRsp (m : Msg)
  /-- GROUP_CHECK (R218): An express group member checks its model, livery and persona, and reserves a sequence. -/
  | groupCheck (m : Msg)
  /-- GROUP_CHECK_RSP (R218): The leader receives a member's answer to a group check. -/
  | groupCheckRsp (m : Msg)
  /-- GROUP_STEP (R218): A member runs one step of an express entry over its slices, or ends the entry. -/
  | groupStep (m : Msg)
  /-- GROUP_NODE (R218): A member receives another member's tree node for a cross-member reduction. -/
  | groupNode (m : Msg)
  /-- GROUP_STEP_ACK (R218): The leader receives a member's step acknowledgement. -/
  | groupStepAck (m : Msg)
  /-- GROUP_MAP (R443): A member takes the new membership of a shrunk express group. -/
  | groupMap (m : Msg)
  /-- GROUP_MAP_ACK (R443): The leader receives a member's acknowledgement of a new group map. -/
  | groupMapAck (m : Msg)
  /-- GROUP_CHECK_TIMEOUT (R208): A group member that does not answer within 50 µs ends the ADMIT with SPAN_TIMEOUT. -/
  | groupCheckTimeout (entry : Nat)
  /-- GROUP_TIMEOUT (R218): A missing GROUP_NODE or GROUP_STEP_ACK after TIMEOUT_US is handled as a dead target. -/
  | groupTimeout (entry : Nat)
  /-- GROUP_MAP_TIMEOUT (R443): A missing GROUP_MAP_ACK after 50 µs is handled as a dead target. -/
  | groupMapTimeout (entry : Nat)
  /-- PREFILL_TIMEOUT (R211): A missing PREFILL_DONE after TIMEOUT_MS orphans the request. -/
  | prefillTimeout (entry : Nat)
  /-- ATT_REQ (R164): A KV home appends rows and computes the claimed attention nodes for a requester. -/
  | attReq (m : Msg)
  /-- ATT_RSP (R162): A requester receives node partials from a KV home. -/
  | attRsp (m : Msg)
  /-- ATT_TIMEOUT (R160): A missing attention reply ends the command with SPAN_TIMEOUT and orphans its lodge context. -/
  | attTimeout (tag : Nat)
  /-- WAIN_BLOCK (R240): A receiver checks, decodes and writes a stream block, or answers it with a NAK. -/
  | wainBlock (m : Msg)
  /-- BLOCK_ACK (R234): A sender learns that a block is visible at the destination. -/
  | blockAck (m : Msg)
  /-- BLOCK_NAK (R241): A sender resends a damaged block raw, or ends a refused stream. -/
  | blockNak (m : Msg)
  /-- BLOCK_TIMEOUT (R235): A block without an ACK or NAK after TIMEOUT_US fails its stream with SPAN_TIMEOUT. -/
  | blockTimeout (stream : Nat)
  /-- STREAM_PLACE (R233): A waiting stream is placed once an engine has room. -/
  | streamPlace (stream : Nat)
  /-- HANDOVER_REQ (R244): A KV home starts an ownership handover by reading the list and fencing the old owner. -/
  | handoverReq (m : Msg)
  /-- FENCE (R244): A Prompt device answers once none of its writes for the handle is unacknowledged. -/
  | fence (m : Msg)
  /-- FENCE_ACK (R244): The home learns that the old owner has quiesced its writes. -/
  | fenceAck (m : Msg)
  /-- OWNERSHIP_CHANGE (R245): After earlier requests complete, every page header changes owner by compare-and-swap at once. -/
  | ownershipChange (device handle : Nat)
  /-- FENCE_TIMEOUT (R244): A missing FENCE_ACK ends the handover with SPAN_TIMEOUT. -/
  | fenceTimeout (device handle : Nat)
  /-- HANDOVER_RSP (R248): The ledger receives the outcome of a handover and moves the entry. -/
  | handoverRsp (m : Msg)
  /-- HANDOVER_TIMEOUT (R248): A missing HANDOVER_RSP after HANDOVER_US is treated as SPAN_TIMEOUT. -/
  | handoverTimeout (handle : Nat)
  /-- LAYER_ACK (R250): The ledger counts one pushed layer of a push-path prefill. -/
  | layerAck (m : Msg)
  /-- PULL (R252): A source device streams the requested bytes back to the puller. -/
  | pull (m : Msg)
  /-- EMB_REQ (R261): An embedding home forms the partial sums of its rows for each bag. -/
  | embReq (m : Msg)
  /-- EMB_RSP (R261): A requester receives a home's partial sums. -/
  | embRsp (m : Msg)
  /-- EMB_REPLY_TIMEOUT (R263): A missing embedding reply ends the lookup with SPAN_TIMEOUT. -/
  | embReplyTimeout (tag : Nat)
  /-- EMB_UPD (R265): A home applies versioned row updates. -/
  | embUpd (m : Msg)
  /-- ROW_FLIP (R265): After readers of the inactive slot finish, the row is written and flipped by one atomic write. -/
  | rowFlip
  /-- EMB_UPD_RSP (R271): A requester receives the counts of rows applied and in conflict. -/
  | embUpdRsp (m : Msg)
  /-- SPAN_FWD (R374): A member forwards or unwraps a message destined for another member. -/
  | spanFwd (port : Fin 8) (m : Msg)
  /-- SP_READ (R382): A home serves a span read and registers HELD sharers. -/
  | spRead (m : Msg)
  /-- SP_READ_RSP (R383): A reader receives data and installs it unless an invalidation has overtaken it. -/
  | spReadRsp (m : Msg)
  /-- SP_WRITE (R380): A home applies a span write in source order. -/
  | spWrite (m : Msg)
  /-- SP_ACK (R395): A requester receives the acknowledgement of a write, atomic, invalidation or republish. -/
  | spAck (m : Msg)
  /-- SP_ATOMIC (R386): A home applies a 64-bit atomic operation after invalidating copies of the line. -/
  | spAtomic (m : Msg)
  /-- SP_COPY (R388): A home writes a copy chunk and increments the arrival counter on the last. -/
  | spCopy (m : Msg)
  /-- SP_INVAL (R383): A member removes lines of a range and acknowledges. -/
  | spInval (m : Msg)
  /-- SP_REPUBLISH (R385): A replica holder marks its replica invalid and acknowledges. -/
  | spRepublish (m : Msg)
  /-- REPUBLISH_TIMEOUT (R385): A holder silent after TIMEOUT_US is treated as a silent member. -/
  | republishTimeout (tag : Nat)
  /-- SPAN_TIMEOUT (R390): A span request without response after TIMEOUT_US poisons its data and orphans the lodge context. -/
  | spanTimeout (tag : Nat)
  /-- MASTER_BEAT (R377): A member accepts a beat from the master and records its sender. -/
  | masterBeat (m : Msg)
  /-- BEAT_TIMER (R376): Every BEAT_US the master sends MASTER_BEAT to every member. -/
  | beatTimer
  /-- BEAT_LOSS (R377): No beat for LOSS_US makes the member isolated. -/
  | beatLoss
  /-- LEASE_EXPIRY (R376): The master lease expires on span time, and the holder stops acting as master. -/
  | leaseExpiry
  /-- LEASE_GRANT (R376): A write of the lease high half grants or renews mastership. -/
  | leaseGrant (until_ns : Nat)
  /-- LEASE_REVOKE (R376): Ends mastership at once. -/
  | leaseRevoke
  /-- REJOIN (R378): Leaves ISOLATED if a beat has arrived recently, and releases the held messages. -/
  | rejoin
  /-- DEVICE_ID_ASSIGN (R370): A write of SPN_ID sets the device ID and retrains every port that is UP. -/
  | deviceIdAssign (device : Nat)
  /-- HELLO (R362): A link partner's HELLO agrees the version and identity and completes EXCHANGE. -/
  | hello (port : Fin 8) (versions : Fin 16) (helloSeen : Bool) (device : Nat) (peerPort : Fin 8) (bulkBuf exprBuf replayMax nextSeq : Nat)
  /-- REPLAY_START (R353): A receiver resynchronises its expected sequence number and accepts replayed flits. -/
  | replayStart (port : Fin 8) (nextSeq : Fin 4096)
  /-- ACK (R352): A cumulative acknowledgement frees flits from the replay buffer and returns credits. -/
  | ack (port : Fin 8) (seq : Fin 4096) (bulk expr : Nat)
  /-- NAK (R353): A sender replays every unacknowledged flit from ACK_SEQ + 1. -/
  | nak (port : Fin 8) (seq : Fin 4096) (bulk expr : Nat)
  /-- BAD_FLIT (R353): A bad flit makes the receiver discard data and send a NAK. -/
  | badFlit (port : Fin 8) (kind : BadKind)
  /-- ACK_TIMER (R352): 200 ns after the oldest unacknowledged arrival, the receiver sends an acknowledgement. -/
  | ackTimer (port : Fin 8)
  /-- REPLAY_TIMEOUT (R355): A flit unacknowledged for REPLAY_US triggers a replay. -/
  | replayTimeout (port : Fin 8)
  /-- NAK_RETRY (R355): A discarding receiver without REPLAY_START for NAK_RETRY_US sends NAK again. -/
  | nakRetry (port : Fin 8)
  /-- TIME (R367): A member corrects its span time from the followed TIME flit. -/
  | time (port : Fin 8) (tSend : Nat) (hops : Fin 64) (valid : Bool)
  /-- TIME_SEND (R366): Every TIME_US a member with valid span time sends TIME on its ports. -/
  | timeSend
  /-- DELAY_REQ (R366): A port answers a delay request with its timestamps. -/
  | delayReq (port : Fin 8) (t1 : Nat)
  /-- DELAY_RSP (R366): A port computes its one-way delay. -/
  | delayRsp (port : Fin 8) (t1 t2 t3 : Nat)
  /-- DELAY_MEASURE (R366): Every 1 ms a port starts a delay measurement. -/
  | delayMeasure (port : Fin 8)
  /-- SPAN_TIME_LOST (R367): No valid TIME for LOST_US clears VALID and raises an alarm. -/
  | spanTimeLost
  /-- RETRAIN_REQ (R363): A peer's request starts a fast retrain. -/
  | retrainReq (port : Fin 8) (cause : Fin 16)
  /-- RETRAIN (R363): A register write starts a fast retrain of the port. -/
  | retrain (port : Fin 8)
  /-- LOCK_LOSS (R363): Loss of codeword lock or partial signal loss starts a fast retrain. -/
  | lockLoss (port : Fin 8)
  /-- UNCORR_LIMIT (R363): UNCORR_MAX uncorrectable codewords within 1 ms start a fast retrain. -/
  | uncorrLimit (port : Fin 8)
  /-- RETRAIN_PHASE_LIMIT (R363): A fast retrain phase that reaches its limit falls back to full training. -/
  | retrainPhaseLimit (port : Fin 8)
  /-- TRAINING_PHASE_DONE (R359): A training phase completes and the next phase begins. -/
  | trainingPhaseDone (port : Fin 8)
  /-- TRAINING_PHASE_LIMIT (R359): A training phase that reaches its limit fails the attempt. -/
  | trainingPhaseLimit (port : Fin 8)
  /-- TRAINING_RETRY (R360): 1 s after entering ABSENT or REFUSED, the port starts a new training sequence. -/
  | trainingRetry (port : Fin 8)
  /-- UNPLUG (R360): Deassertion of CLn_PRSNT_N or loss of signal on every lane unplugs the partner. -/
  | unplug (port : Fin 8)
  /-- FIELD_WRITE (R408): A WRITE packet is applied in PSN order after the previous write is visible. -/
  | fieldWrite (port : Fin 4) (p : FIn)
  /-- READ_REQ (R402): A responder answers with READ_RSP packets for the requested bytes. -/
  | readReq (port : Fin 4) (p : FIn)
  /-- READ_RSP (R409): A requester writes the response bytes to LOCAL. -/
  | readRsp (port : Fin 4) (p : FIn)
  /-- FIELD_ACK (R409): An ACK, NAK_SEQ or NAK_REFUSED frees, resends or fails packets. -/
  | fieldAck (port : Fin 4) (p : FIn)
  /-- MSG (R405): A MSG packet delivers a message of another layer after the tenant checks. -/
  | msg (port : Fin 4) (p : FIn)
  /-- RX_DROP (R400): A received frame that fails FCS, address, checksum or header checks is discarded. -/
  | rxDrop (port : Fin 4)
  /-- NEIGHBOUR_SOLICITATION (R400): A solicitation for the port's address is answered with an advertisement. -/
  | neighbourSolicitation (port : Fin 4) (mac ip : Nat)
  /-- RETRY_TIMEOUT (R409): No acknowledgement progress for RETRY_US resends from the oldest unacknowledged packet. -/
  | retryTimeout (conn : Nat)
  /-- PACKET_BOUNDARY (R414): At a packet boundary the field port sends control traffic or chooses the least-tag eligible flow. -/
  | packetBoundary (port : Fin 4)
  /-- WHEEL_SLOT (R416): A parked connection becomes eligible at the start of its wheel slot. -/
  | wheelSlot (slot : Fin 4096)
  /-- GATE_ENTRY (R417): The gate control list moves to its next entry. -/
  | gateEntry (port : Fin 4)
  /-- CHANGE (R418): A register write arms the admin gate list for takeover. -/
  | change (port : Fin 4)
  /-- GCL_TAKEOVER (R418): At the takeover time the admin list becomes operational. -/
  | gclTakeover (port : Fin 4)
  /-- PTP_SYNC (R421): A Sync corrects field time and may make it VALID. -/
  | ptpSync (port : Fin 4) (domain : Nat) (t1 : Nat)
  /-- PTP_LOST (R421): No Sync for LOST_MS clears VALID and raises an alarm. -/
  | ptpLost
  /-- REFILL (R289): Every microsecond the regulator buckets of every lodge and path are refilled. -/
  | refill
  /-- PATH_GRANT (R289): At a grant point a path grants a lodge's request, guaranteed lodges first. -/
  | pathGrant (path : Fin 6) (requests : List (Nat × Nat))
  /-- WAKE_WRITE (R330): A write to a doorbell page marks the ring's doorbell record to be read. -/
  | wakeWrite (page : Fin 256) (offset size : Nat)
  /-- DOORBELL_READ (R331): The read doorbell record sets how many descriptors to fetch, or stops the ring. -/
  | doorbellRead (ring : Fin 256) (hostIdx : Nat)
  /-- DESCRIPTOR_FETCH (R331): A fetched descriptor is handed to its core queue or the ledger. -/
  | descriptorFetch (ring : Fin 256) (words : List Nat) (error : Bool)
  /-- POLL (R330): Every POLL_US the device re-reads every active ring's doorbell record. -/
  | poll (ring : Fin 256) (hostIdx : Nat)
  /-- CQ_ROOM_POLL (R333): Every 1 µs a full completion or step ring's record is re-read for room. -/
  | cqRoomPoll (ring : Fin 256) (hostIdx : Nat)
  /-- HOST_READ_TIMEOUT (R322): A host read without completion marks the host lost and stops the rings. -/
  | hostReadTimeout (ring : Fin 256)
  /-- HOST_RESUME (R322): Clears HOST_LOST and lets the step schedulers resume. -/
  | hostResume
  /-- INTERRUPT_HOLD (R340): A record pending for HOLD_US fires its ring's vector. -/
  | interruptHold (ring : Fin 256)
  /-- RING_ENABLE (R334): Enables a configured ring if its lodge and completion ring allow it. -/
  | ringEnable (ring : Fin 256)
  /-- RING_DISABLE (R334): Stops a ring's fetching, or is refused for rings still in use. -/
  | ringDisable (ring : Fin 256)
  /-- FLR (R323): A function-level reset stops the rings and returns the host interface to reset. -/
  | flr
  /-- PCIE_RESET (R455): PERST_N, hot reset or link down resets the host port as an FLR does. -/
  | pcieReset
  /-- CREATE (R276): The lowest ABSENT lodge becomes ACTIVE. -/
  | create
  /-- DESTROY (R278): Unbinds, unmaps and frees everything of the lodge, which becomes ABSENT. -/
  | destroy (lodge : Nat)
  /-- BIND (R277): Binds a tenant to the lodge. -/
  | bind (lodge tenant : Nat)
  /-- UNBIND (R277): Removes a tenant binding of the lodge. -/
  | unbind (lodge tenant : Nat)
  /-- LODGE_RESET (R282): Returns a FAULTED or HALTED lodge context to ACTIVE. -/
  | lodgeReset (lodge : Nat)
  /-- TEARDOWN (R281): Faults the context, closes its streams and returns its KV pages. -/
  | teardown (lodge : Nat)
  /-- HALTED (R281): Once every kill has left KILL, the torn-down context enters HALTED. -/
  | halted (lodge : Fin 16)
  /-- CLIENT_DUMP (R295): Writes a lodge's client records to host memory, optionally clearing or freeing them. -/
  | clientDump (lodge : Nat) (clear free : Bool)
  /-- DRAIN (R297): Setting DRAIN disables admits and refuses new prefill and page offers. -/
  | drain (on : Bool)
  /-- PERSONA (R298): A write of PERSONA while drained starts a persona change. -/
  | persona (persona : Nat)
  /-- PERSONA_DONE (R298): The persona change takes effect and PERSONA_BUSY clears. -/
  | personaDone
  /-- TALLY_DUMP (R318): A START write snapshots Tallies and waiters and begins writing them to the host. -/
  | tallyDump (all : Bool) (lodge : Fin 16)
  /-- TALLY_DUMP_DONE (R318): The dump is written, BUSY clears and LEN holds its length. -/
  | tallyDumpDone
  /-- HLT_VERIFY (R447): A START write hashes each listed range and compares it with the manifest. -/
  | hltVerify
  /-- VERIFY_DONE (R447): Hashing ends and BUSY clears with the mismatch count. -/
  | verifyDone
  /-- HLT_RESUME (R440): Re-runs the abandoned step of a held slot. -/
  | hltResume (slots : Nat)
  /-- SHRINK (R442): A GO write arranges removal of a member from express entries at the next boundary. -/
  | shrink (slot : Fin 8) (member : Fin 64)
  /-- CORE_MAP (R439): Remaps a logical core to a physical core if it is idle and the target is not quarantined. -/
  | coreMap (core : Fin 160) (phys : Nat)
  /-- LOG_EN (R451): Enabling the event log resets the producer and consumer counts. -/
  | logEn (on : Bool)
  /-- SEED (R93): A write of the shadow seed loads the core's LFSR. -/
  | seed (core : Fin 160) (seed : Nat)
  /-- RELEASE (R96): Releases a core's quarantine and zeroes its suspect counts. -/
  | release (core : Fin 160)
  /-- SCORE_UPDATE (R436): Every PERIOD_MS each part's health score decays and adds its weighted events. -/
  | scoreUpdate
  /-- TOKEN_REFILL (R432): Every 1 ms each error source's bucket gains a token. -/
  | tokenRefill
  /-- ALARM_RECORD (R431): A pending alarm slot is written to the log once it has room. -/
  | alarmRecord (consumed : Nat)
  /-- PORTER_SUMMARY (R434): While Porter's queue is full, a summary is sent every 100 ms. -/
  | porterSummary
  /-- DEVICE_FAULT (R450): A device-wide resource fails, and every active lodge context faults. -/
  | deviceFault (resource : Nat) (index : Nat)
  /-- CORE_SELF_TEST (R438): A core's self-test ends, sets its pass bit and quarantines it on failure. -/
  | coreSelfTest (core : Fin 160) (pass : Bool)
  /-- POWER_UP (R469): Applied input charges the rail and sequences the rails to stage 0. -/
  | powerUp
  /-- MEASURED_BOOT (R481): The boot image is verified and measured, and the stage rises to 1. -/
  | measuredBoot
  /-- T2_TRAINED (R457): Training of at least 28 T2 channels completes, and the stage rises to 2. -/
  | t2Trained (channels : Nat) (width : Fin 32)
  /-- T1_TRAINED (R457): T1 training and NBU self-test complete, and the stage rises to 3. -/
  | t1Trained (pass : Fin 256)
  /-- CLOCK_CHANGE (R460): With every core idle after self-test, the core divider switches and the stage becomes 4. -/
  | clockChange (speed : Fin 8)
  /-- RAMP_STEP (R465): DUTY or RATE moves one paced step towards its target. -/
  | rampStep
  /-- POWER_LOOP (R464): The power loop lowers or raises the loop DUTY against the cap. -/
  | powerLoop (avg peak mv ma mj : Nat) (below floorHeld : Bool)
  /-- CORE_GATE (R465): A core IDLE for 100 µs is clock-gated. -/
  | coreGate (core : Fin 160)
  /-- CAP_W (R461): A cap write sets a new power cap or is refused. -/
  | capW (watts : Nat)
  /-- STOP_AT (R457): A higher STOP_AT lets bring-up continue. -/
  | stopAt (v : Nat)
  /-- RVE_RESET (R456): A write in the two-value sequence that may cause a module reset. -/
  | rveReset (value : Word32)
  /-- ENCRYPT (R199): A write of ENCRYPT for a lodge that holds no T2 or T3 frame. -/
  | encrypt (lodge : Fin 16) (on : Bool)
  /-- KEY_INSTALL (R483): Tollgate installs the lodge's XTS keys and KEY_READY becomes 1. -/
  | keyInstall (lodge : Fin 16)
  /-- MRST_N (R455): MRST_N held low starts a module reset. -/
  | mrstN (low : Bool)
  /-- WATCHDOG (R486): Porter watchdog expiry causes a module reset. -/
  | watchdog
  /-- REFCLK_LOSS (R454): Loss of REFCLK or of PLL lock causes a module reset. -/
  | refclkLoss
  /-- REFCLK_RESTORED (R454): After 10 ms of REFCLK and lock, the module leaves the held stage 0. -/
  | refclkRestored
  /-- UNDERVOLTAGE (R468): Input below 38 V for 10 µs starts power-down. -/
  | undervoltage
  /-- OVERVOLTAGE (R468): Input above 62 V opens the input switch. -/
  | overvoltage
  /-- OVERCURRENT (R468): Input current above 20 A for 1 ms opens the switch. -/
  | overcurrent
  /-- REVERSE_CURRENT (R468): Reverse current opens the input switch within 1 µs. -/
  | reverseCurrent
  /-- REMOVAL (R492): A MOD_PRSNT_N pin high for 2 µs starts power-down with cause 6. -/
  | removal
  /-- INSERTION (R492): Both presence pins low for 10 ms with live input start power-up. -/
  | insertion
  /-- THROTTLE (R467): A compute die crossing THROTTLE_C halves or restores the thermal DUTY. -/
  | throttle (die : Fin 4) (temp : Fin 1024)
  /-- THERMAL (R467): A sensor reaching its alarm threshold raises THERMAL once until it re-arms. -/
  | thermal (sensor : Fin 16) (temp : Fin 1024)
  /-- THERMAL_TRIP (R467): A sensor reaching its trip threshold starts power-down with cause 4. -/
  | thermalTrip (sensor : Fin 16) (temp : Fin 1024)
  /-- PPS (R485): An accepted PPS edge latches the three timestamps. -/
  | pps (highNs : Nat)
  /-- FETCH (R474): Porter frame that only collects the last reply. -/
  | fetch (t : FramePort) (tag arg count : Nat)
  /-- READ (R474): Porter frame that reads consecutive BAR0 registers. -/
  | read (t : FramePort) (tag arg count : Nat)
  /-- WRITE (R474): Porter frame that writes consecutive BAR0 registers. -/
  | write (t : FramePort) (tag arg count : Nat) (data : List Nat)
  /-- STAGE (R480): Porter frame that writes words into the staging bank. -/
  | stage (t : FramePort) (tag arg count : Nat) (data : List Nat)
  /-- ACTIVATE (R480): Porter frame that verifies the staging bank and marks it to boot. -/
  | activate (t : FramePort) (tag arg count : Nat)
  /-- POWER (R474): Porter frame for an ordered or forced power-off, or a power-on. -/
  | power (t : FramePort) (tag arg count : Nat)
  /-- RESET (R474): Porter frame that causes a module reset after the reply. -/
  | reset (t : FramePort) (tag arg count : Nat)
  /-- EVENTS (R474): Porter frame that takes events from Porter's queue. -/
  | events (t : FramePort) (tag arg count : Nat)
  /-- FRAME_CRC_ERROR (R476): A frame with a bad CRC does nothing and is counted. -/
  | frameCrcError (t : FramePort) (tag : Nat)
  /-- FRAME_DISCARD (R478): An SPI frame released short, partial or overlong is discarded and counted. -/
  | frameDiscard (edges len : Nat)
  /-- UART_GAP (R479): A gap above 1 ms within a UART frame discards it. -/
  | uartGap
  /-- BLOCK_READ (R477): An SMBus Block Read returns the reply of the last committed request. -/
  | blockRead
  /-- REGISTER_WRITE (R10): A write to a register that has no row of its own acts per the register's type. -/
  | registerWrite (p : BusPort) (offset : Nat) (value : Word32)
  /-- READ_CLEAR (R10): A read of an RC field returns it and clears it in one step. -/
  | readClear (p : BusPort) (offset : Nat)
  /-- LOW_HALF_READ (R12): A read of the low half of a 64-bit pair latches the high half for the port. -/
  | lowHalfRead (p : BusPort) (offset : Nat)
  /-- BAR0_BAD_ACCESS (R12): A BAR0 access that is not 32-bit and naturally aligned is refused and counted. -/
  | bar0BadAccess (write : Bool) (offset size : Nat)
  /-- FLIT_SLOT (R349): At each flit slot of a Chroit port the sender sends a due CONTROL flit, a replayed flit, an express or bulk DATA flit, or IDLE. -/
  | flitSlot (port : Fin 8)
  /-- DATA_FLIT (R352): A good in-order DATA flit is counted, placed in its level's reassembly context, and an acknowledgement is sent once ACK_FLITS have arrived. -/
  | dataFlit (port : Fin 8) (express first last : Bool) (data : List Byte) (corrCw corrSym : Nat)
  /-- LOD_CMD_DONE (R276): A running LOD_CMD operation such as CREATE, DESTROY or CLIENT_DUMP completes, writes STATUS and RESULT, and clears BUSY. -/
  | lodCmdDone
  /-- D3HOT (R321): The host moves the function into D3hot, which stops fetching as host loss does but raises no alarm, or back to D0. -/
  | d3hot (on : Bool)
  /-- STACK_HOT (R124): A stack base die crosses 85 °C, which halves its refresh interval, sets HOT and scales the T1 CAP, or falls back below 85 °C. -/
  | stackHot (stack : Fin 8) (temp : Fin 1024)
  /-- T2_HOT (R467): The hottest T2 package crosses 85 °C, and its refresh is doubled or restored. -/
  | t2Hot (temp : Fin 1024)
  /-- JTAG_INSTRUCTION (R484): An instruction shifted in over JTAG selects IDCODE, BYPASS, boundary scan while MRST_N is low, or debug when the fuse allows. -/
  | jtagInstruction (code : Jtag)
  /-- WRONG_PEC (R477): An SMBus Block Write whose PEC fails is discarded and counted separately from a bad frame CRC. -/
  | wrongPec
  /-- FRAMING_ERROR (R479): A UART character whose stop bit is decided 0 is discarded and counted in FRAMING. -/
  | framingError
  /-- PTP_DELAY_RESP (R420): The slave clock receives a Delay_Resp to its Delay_Req and updates the path delay used for field time offsets. -/
  | ptpDelayResp (port : Fin 4) (domain : Nat) (t4 : Nat)
  deriving DecidableEq, Repr

end Sys2Proof
end

