-- ==== Sys2Proof/Config.lean ====
section
/-!
DEFINITION. What the spec leaves open. Every constant here is OPAQUE: it has no body, nothing can be proved of its value, and a
statement that uses it holds for every value. The counter `free` of State gives each use a fresh argument.
-/

namespace Sys2Proof.Config

/-- A byte whose contents no rule fixes (R82, R84, R169: bytes a killed command wrote, or reads before its commit). -/
opaque freeByte : Nat → Byte

/-- A 32-bit value that no rule fixes. -/
opaque freeWord : Nat → Word32

/-- A number that no rule fixes. -/
opaque freeNat : Nat → Nat

/-- How many tile commands the decoder cuts a command into (R93: the division is the decoder's own; R16), by opcode, M, N. -/
opaque tileCommands : Nat → Nat → Nat → Nat

/-- The tile that runs tile command `i` of a command (R16: the decoder's choice), by opcode, M, N, i. -/
opaque tileOf : Nat → Nat → Nat → Nat → Fin 8

/-- The accesses that a run of a command makes to the scratchpad of one tile (R16, R76: the mapping is the decoder's own), by run and tile:
master, whether it writes, address, the word written and its byte enables. -/
opaque padTraffic : Nat → Nat → List (Nat × Bool × Nat × List Byte × List Bool)

/-- Whether an ECDSA P-384 signature over an image digest verifies under the fused key hash (R480): the curve arithmetic is not
in the spec. Digest, key bytes, signature bytes. -/
opaque ecdsaOk : List Byte → List Byte → List Byte → Bool

/-- The logit row that a model's stream leaves for one token: the model images are outside the spec. Model slot, use, and the steered residuals
and the results of the reductions across members that it follows from. -/
opaque logitRow : Nat → Nat → List (List Word32) → List Word32

/-- A command stream of a model image, layer by layer, each command eight words (R122, R154): model slot, form (0 near, 1 array, 2 prefill),
use. -/
opaque stream : Nat → Nat → Nat → List (List (List Nat))

/-- The reductions across members that a step's command stream holds, in the order of OP (R217, R218): ELEMS, and whether it is an exchange of
attention partials (R153), with their width D and list entries. Model slot, use. -/
opaque reductions : Nat → Nat → List (Nat × Option (Nat × Nat))

/-- Element `i` of this device's own node of a reduction: use, OP, i. -/
opaque nodeWord : Nat → Nat → Nat → Word32

/-- The residual of one row at the end of a layer, from the residual that the layer began with: model slot, layer, use. -/
opaque residual : Nat → Nat → Nat → List Word32 → List Word32

/-- The ranges of lodge memory that hold the weights of a model, by MODEL_KEY: address and length. -/
opaque weights : Nat → List (Nat × Nat)

/-- Whether a model, by MODEL_KEY, runs in split mode (R27: by the size of its weights and working state). -/
opaque splitModel : Nat → Bool

/-- Whether the slices of a split-mode model fit in a group of g devices (R34): MODEL_KEY, g. -/
opaque slicesFit : Nat → Nat → Bool

/-- Code lengths for a block, by how often each byte value occurs: the choice among optimal lengths (R239). -/
opaque codeLengths : List Nat → List Nat

/-- Bytes per µs that the host link carries in both directions together, by the SPEED and WIDTH it trained at (R288: "as the host
link trained"; no figure is given). -/
opaque hostCap : Nat → Nat → Nat

/-- The fused hash of the public key (R480). -/
opaque fuseKeyHash : List Byte

/-- Words that the flash banks hold from manufacture: bank, word (R480). -/
opaque flashWord : Nat → Nat → Nat

/-- Whether the header of an image is well formed (R480: the header's layout is not in the spec). Bank, words written. -/
opaque imageOk : Nat → List (Nat × Option Nat) → Bool
/-- Its public key. -/
opaque imageKey : Nat → List (Nat × Option Nat) → List Byte
/-- Its signature. -/
opaque imageSig : Nat → List (Nat × Option Nat) → List Byte
/-- Its header and body: the bytes the signature covers. -/
opaque imageSigned : Nat → List (Nat × Option Nat) → List Byte
/-- Its VERSION. -/
opaque imageVersion : Nat → List (Nat × Option Nat) → Nat
/-- Firmware major and minor it carries, as FW of GLB_REV. -/
opaque imageFw : Nat → List (Nat × Option Nat) → Nat
/-- The ROM's own configuration that measurement 0 digests (R481): fuse key hash, rollback count, debug state. -/
opaque romConfig : List Byte → Nat → Bool → List Byte
/-- The bytes of an image that measurement m digests (R481): 1 Porter firmware, 2 CP0 to CP3 firmware, 3 the module configuration. -/
opaque imagePart : Nat → Nat → List (Nat × Option Nat) → List Byte

/-- The JEDEC manufacturer code of IDCODE (R484). -/
opaque jedecCode : Nat
/-- Promotions that the migration engines' queue holds for EMB_PREFETCH (R264 gives no length). -/
opaque promQueue : Nat

/-- The version field of IDCODE: 4 bits, for a stepping of 8 (R342, R484). -/
opaque jtagVersion : Nat

end Sys2Proof.Config
end

