-- ==== Sys2Proof/Machine/Flags.lean ====
section
/-!
DEFINITION. The four sticky arithmetic flags (R63) and the way a computation collects them.
-/

namespace Sys2Proof.Machine

/-- ARITH_FLAGS of R63: INVALID [0], OVERFLOW [1], FLUSHED [2], SATURATED [3]. -/
abbrev Flags := BitVec 4

/-- A NaN is produced or read, a TQ2 invalid code is read, or a NaN block is written (R63). -/
def flagInvalid : Flags := 1
/-- An exact finite result rounds to an infinity (R63). -/
def flagOverflow : Flags := 2
/-- A subnormal input is read as zero, or a nonzero subnormal result is written as zero (R63). -/
def flagFlushed : Flags := 4
/-- A conversion saturates, or a KV scale is capped at 448 (R63). -/
def flagSaturated : Flags := 8
/-- No flag. -/
def flagNone : Flags := 0

/-- A flag when a condition holds. -/
def flagIf (c : Bool) (f : Flags) : Flags := if c then f else 0

/-- A value with the flags its computation set. -/
structure Fl (α : Type) where
  /-- the value -/
  val : α
  /-- the flags set on the way (R63) -/
  fl : Flags
  deriving DecidableEq, Repr

/-- A value computed with no flag. -/
def Fl.pure {α : Type} (a : α) : Fl α := ⟨a, 0⟩

/-- One computation after another; the flags accumulate (R63: sticky). -/
def Fl.bind {α β : Type} (x : Fl α) (f : α → Fl β) : Fl β :=
  let y := f x.val
  ⟨y.val, x.fl ||| y.fl⟩

/-- A value function over a computation. -/
def Fl.map {α β : Type} (f : α → β) (x : Fl α) : Fl β := ⟨f x.val, x.fl⟩

/-- Add a flag to a computation. -/
def Fl.mark {α : Type} (f : Flags) (x : Fl α) : Fl α := ⟨x.val, x.fl ||| f⟩

/-- Apply to every element in ascending order, collecting flags. -/
def Fl.mapList {α β : Type} (f : α → Fl β) : List α → Fl (List β)
  | [] => ⟨[], 0⟩
  | a :: r => (f a).bind fun b => (Fl.mapList f r).map (b :: ·)

/-- Apply to two lists element by element, collecting flags. -/
def Fl.zipList {α β γ : Type} (f : α → β → Fl γ) : List α → List β → Fl (List γ)
  | a :: r, b :: t => (f a b).bind fun c => (Fl.zipList f r t).map (c :: ·)
  | _, _ => ⟨[], 0⟩

/-- A left fold that collects flags. -/
def Fl.fold {α β : Type} (f : β → α → Fl β) : β → List α → Fl β
  | b, [] => ⟨b, 0⟩
  | b, a :: r => (f b a).bind fun c => Fl.fold f c r

end Sys2Proof.Machine
end

