-- ==== Sys2Proof/Machine/Float.lean ====
section
/-!
DEFINITION. Exact arithmetic and rounding (R50 to R53): every operation converts its operands to exact dyadic values,
computes exactly, and rounds once at the end.
-/

namespace Sys2Proof.Machine

/-- A number as the formats of R48 hold it: a NaN, an infinity, or `± m · 2^e` exactly. -/
inductive Num where
  /-- any NaN (R50 keeps no payload) -/
  | nan
  /-- an infinity; `true` for the negative one -/
  | inf (neg : Bool)
  /-- `± m · 2^e`; a zero keeps its sign -/
  | fin (neg : Bool) (m : Nat) (e : Int)
  deriving DecidableEq, Repr

/-- The shape of a rounding target: precision, exponent of its least bit (that of its subnormals), the code of infinity,
the canonical NaN, the sign's place, whether subnormal results are flushed (R50). -/
structure FpFmt where
  /-- significand bits, the hidden one included -/
  prec : Nat
  /-- exponent of the least bit of a subnormal -/
  emin : Int
  /-- the encoding (without sign) of infinity -/
  infCode : Nat
  /-- the canonical NaN of R50 -/
  nanCode : Nat
  /-- the place of the sign bit -/
  signBit : Nat
  /-- subnormal results become zero (R50) -/
  flush : Bool
  deriving DecidableEq, Repr

/-- IEEE 754 binary32 with the flush of R50. -/
def fmt32 : FpFmt := ⟨24, -149, 0x7F800000, 0x7FC00000, 31, true⟩
/-- BF16 (R50: canonical NaN 0x7FC0). -/
def fmtBf16 : FpFmt := ⟨8, -133, 0x7F80, 0x7FC0, 15, true⟩
/-- FP16, exempt from the flush (R62). -/
def fmtFp16 : FpFmt := ⟨11, -24, 0x7C00, 0x7E00, 15, false⟩

/-- `± i · 2^e` with the sign taken from the integer. -/
def Num.ofInt (i : Int) (e : Int) : Num := .fin (i < 0) i.natAbs e

/-- The exact value is a zero. -/
def Num.isZero : Num → Bool
  | .fin _ 0 _ => true
  | _ => false

/-- The value is a NaN. -/
def Num.isNan : Num → Bool
  | .nan => true
  | _ => false

/-- The value is neither a NaN nor an infinity. -/
def Num.isFin : Num → Bool
  | .fin _ _ _ => true
  | _ => false

/-- The sign reversed. -/
def Num.neg : Num → Num
  | .nan => .nan
  | .inf s => .inf (!s)
  | .fin s m e => .fin (!s) m e

/-- The magnitude. -/
def Num.abs : Num → Num
  | .nan => .nan
  | .inf _ => .inf false
  | .fin _ m e => .fin false m e

/-- A magnitude with its sign as an integer at exponent `lo`, for `lo ≤ e`. -/
def signedAt (s : Bool) (m : Nat) (e lo : Int) : Int :=
  let v : Int := (m * 2 ^ (e - lo).toNat : Nat)
  if s then -v else v

/-- The exact sum (R50: an exact zero sum of opposite signs is +0; R65 for infinities). -/
def Num.add : Num → Num → Num
  | .nan, _ => .nan
  | _, .nan => .nan
  | .inf a, .inf b => if a = b then .inf a else .nan
  | .inf a, _ => .inf a
  | _, .inf b => .inf b
  | .fin a m e, .fin b n f =>
    let lo := min e f
    let z := signedAt a m e lo + signedAt b n f lo
    if z = 0 then .fin (a && b) 0 0 else Num.ofInt z lo

/-- The exact product (R65: 0 × infinity is NaN). -/
def Num.mul : Num → Num → Num
  | .nan, _ => .nan
  | _, .nan => .nan
  | .inf a, .inf b => .inf (a != b)
  | .inf a, .fin b n _ => if n = 0 then .nan else .inf (a != b)
  | .fin a m _, .inf b => if m = 0 then .nan else .inf (a != b)
  | .fin a m e, .fin b n f => .fin (a != b) (m * n) (e + f)

/-- `a < b` on values that are not NaN (−0 equals +0). -/
def Num.lt : Num → Num → Bool
  | .inf a, .inf b => a && !b
  | .inf a, .fin _ _ _ => a
  | .fin _ _ _, .inf b => !b
  | .fin a m e, .fin b n f =>
    let lo := min e f
    decide (signedAt a m e lo < signedAt b n f lo)
  | _, _ => false

/-- Equal values that are not NaN (−0 equals +0). -/
def Num.eqv : Num → Num → Bool
  | .inf a, .inf b => a == b
  | .fin a m e, .fin b n f =>
    let lo := min e f
    decide (signedAt a m e lo = signedAt b n f lo)
  | _, _ => false

/-- Bits of a number (0 has none). -/
def bitLen (m : Nat) : Nat := if m = 0 then 0 else Nat.log2 m + 1

/-- `m · 2^e` rounded to nearest, ties to even, at the grid of precision `p` and least exponent `emin`, with no upper
bound: the code `(q − emin) · 2^(p−1) + M` of the rounded magnitude `M · 2^q`. -/
def roundCode (p : Nat) (emin : Int) (m : Nat) (e : Int) : Nat :=
  if m = 0 then 0 else
    let q := max emin (e + bitLen m - p)
    let r :=
      if q ≤ e then m * 2 ^ (e - q).toNat
      else
        let d := (q - e).toNat
        let k := m / 2 ^ d
        let rem := m % 2 ^ d
        let half := 2 ^ (d - 1)
        if rem > half ∨ (rem = half ∧ k % 2 = 1) then k + 1 else k
    (q - emin).toNat * 2 ^ (p - 1) + r

/-- A value rounded into an IEEE format with the flags of R63 (R50: rounding first, the flush acts on the rounded
result; every NaN is canonical and sets INVALID). `exactInf` says an infinity here sets no OVERFLOW. -/
def roundNum (f : FpFmt) : Num → Fl Nat
  | .nan => ⟨f.nanCode, flagInvalid⟩
  | .inf s => ⟨f.infCode + (if s then 2 ^ f.signBit else 0), 0⟩
  | .fin s m e =>
    let sg := if s then 2 ^ f.signBit else 0
    let c := roundCode f.prec f.emin m e
    if c ≥ f.infCode then ⟨f.infCode + sg, flagOverflow⟩
    else if f.flush && decide (0 < c) && decide (c < 2 ^ (f.prec - 1)) then ⟨sg, flagFlushed⟩
    else ⟨c + sg, 0⟩

/-- The exact value of an IEEE code, subnormals included. -/
def ieeeNum (f : FpFmt) (w : Nat) : Num :=
  let s := bitAt f.signBit w
  let c := w % 2 ^ f.signBit
  let fb := f.prec - 1
  if c = f.infCode then .inf s
  else if c > f.infCode then .nan
  else if c < 2 ^ fb then .fin s c f.emin
  else .fin s (2 ^ fb + c % 2 ^ fb) (f.emin + (c / 2 ^ fb : Nat) - 1)

/-- An arithmetic input (R50): a subnormal reads as zero of its sign and sets FLUSHED; a NaN read sets INVALID. -/
def readNum (f : FpFmt) (w : Nat) : Fl Num :=
  let c := w % 2 ^ f.signBit
  if f.flush && decide (0 < c) && decide (c < 2 ^ (f.prec - 1)) then ⟨.fin (bitAt f.signBit w) 0 0, flagFlushed⟩
  else
    let v := ieeeNum f w
    ⟨v, flagIf v.isNan flagInvalid⟩

/-- An FP32 word of a register or of memory. -/
abbrev F32 := BitVec 32

/-- An FP32 operand read by arithmetic (R50). -/
def rd32 (x : F32) : Fl Num := readNum fmt32 x.toNat
/-- A value rounded to FP32 (R50). -/
def rnd32 (v : Num) : Fl F32 := (roundNum fmt32 v).map (BitVec.ofNat 32)

/-- A one-operand FP32 function. -/
def un32 (f : Num → Fl F32) (x : F32) : Fl F32 := (rd32 x).bind f
/-- A two-operand FP32 function. -/
def bin32 (f : Num → Num → Fl F32) (x y : F32) : Fl F32 := (rd32 x).bind fun a => (rd32 y).bind fun b => f a b

/-- FP32 sum with one rounding (R50). -/
def add32 : F32 → F32 → Fl F32 := bin32 fun a b => rnd32 (a.add b)
/-- FP32 product with one rounding (R50). -/
def mul32 : F32 → F32 → Fl F32 := bin32 fun a b => rnd32 (a.mul b)
/-- FP32 fused multiply-add, one rounding (R66). -/
def fma32 (x y z : F32) : Fl F32 :=
  (rd32 x).bind fun a => (rd32 y).bind fun b => (rd32 z).bind fun c => rnd32 ((a.mul b).add c)

/-- The larger of two values (R52: NaN if either is; max(+0, −0) = +0). -/
def Num.max : Num → Num → Num
  | .nan, _ => .nan
  | _, .nan => .nan
  | a, b =>
    if a.lt b then b else if b.lt a then a
    else match a with
      | .fin true _ _ => b
      | _ => a

/-- The smaller of two values (R52: min(+0, −0) = −0). -/
def Num.min (a b : Num) : Num := (Num.max a.neg b.neg).neg

/-- MAX of R52. -/
def max32 : F32 → F32 → Fl F32 := bin32 fun a b => rnd32 (a.max b)
/-- MIN of R52. -/
def min32 : F32 → F32 → Fl F32 := bin32 fun a b => rnd32 (a.min b)

/-- `⌊√n⌋`, bit by bit from bit `k`. -/
def isqrtFrom (n : Nat) : Nat → Nat → Nat
  | 0, r => r
  | k + 1, r =>
    let t := r + 2 ^ k
    isqrtFrom n k (if t * t ≤ n then t else r)

/-- `⌊√n⌋`. -/
def isqrt (n : Nat) : Nat := isqrtFrom n (bitLen n / 2 + 1) 0

/-- Extra quotient bits that keep every rounding decision: the inexact rest goes into one sticky bit below them. -/
def guardBits : Nat := 64

/-- A truncated magnitude with its inexact rest as a sticky lowest bit. -/
def sticky (q : Nat) (inexact : Bool) : Nat := 2 * q + (if inexact then 1 else 0)

/-- The quotient to be rounded (R53; IEEE 754 cases): exact up to a sticky bit. -/
def Num.div : Num → Num → Num
  | .nan, _ => .nan
  | _, .nan => .nan
  | .inf _, .inf _ => .nan
  | .inf a, .fin b _ _ => .inf (a != b)
  | .fin a _ _, .inf b => .fin (a != b) 0 0
  | .fin a m e, .fin b n f =>
    if n = 0 then (if m = 0 then .nan else .inf (a != b))
    else
      let k := guardBits + bitLen n
      let x := m * 2 ^ k
      .fin (a != b) (sticky (x / n) (x % n != 0)) (e - f - k - 1)

/-- The square root to be rounded (R53). -/
def Num.sqrt : Num → Num
  | .nan => .nan
  | .inf s => if s then .nan else .inf false
  | .fin s m e =>
    if m = 0 then .fin s 0 0
    else if s then .nan
    else
      let (m1, e1) := if e % 2 = 0 then (m, e) else (2 * m, e - 1)
      let x := m1 * 2 ^ (2 * guardBits)
      let r := isqrt x
      .fin false (sticky r (r * r != x)) (e1 / 2 - guardBits - 1)

/-- The reciprocal square root to be rounded (R53). -/
def Num.rsqrt : Num → Num
  | .nan => .nan
  | .inf s => if s then .nan else .fin false 0 0
  | .fin s m e =>
    if m = 0 then .inf s
    else if s then .nan
    else
      let (m1, e1) := if e % 2 = 0 then (m, e) else (2 * m, e - 1)
      let k := guardBits + bitLen m1
      let r := isqrt (2 ^ (2 * k) / m1)
      .fin false (sticky r (r * r * m1 != 2 ^ (2 * k))) (-(e1 / 2) - k - 1)

/-- DIV of R53. -/
def div32 : F32 → F32 → Fl F32 := bin32 fun a b => rnd32 (a.div b)
/-- RECIP of R53. -/
def recip32 : F32 → Fl F32 := un32 fun a => rnd32 ((Num.fin false 1 0).div a)
/-- SQRT of R53. -/
def sqrt32 : F32 → Fl F32 := un32 fun a => rnd32 a.sqrt
/-- RSQRT of R53. -/
def rsqrt32 : F32 → Fl F32 := un32 fun a => rnd32 a.rsqrt

/-! Transcendental functions: correctly rounded (R53), by a fixed-point approximation with a proved-by-margin error
bound, refined until both ends of the interval round alike. -/

/-- `Σ z^(2k+1) / (2k+1)` at `2^-p`, `n` terms from `k`, with `t = z^(2k+1)`. -/
def atanhSum (p zz : Nat) : Nat → Nat → Nat → Nat
  | 0, _, _ => 0
  | n + 1, k, t => t / (2 * k + 1) + atanhSum p zz n (k + 1) (t * zz / 2 ^ p)

/-- `ln (num / den)` at `2^-p`, for `1 ≤ num/den ≤ 2`: twice the area tangent of `(num − den)/(num + den)`. -/
def lnFix (p num den : Nat) : Nat :=
  let z := (num - den) * 2 ^ p / (num + den)
  2 * atanhSum p (z * z / 2 ^ p) (p / 3 + 2) 0 z

/-- `Σ t_k` with `t_(k+1) = t_k · y / (k+1)`: the exponential series at `2^-p`, `n` terms. -/
def expSum (p y : Nat) : Nat → Nat → Nat → Nat
  | 0, _, _ => 0
  | n + 1, k, t => t + expSum p y n (k + 1) (t * y / ((k + 1) * 2 ^ p))

/-- Bits of slack that cover every truncation of a series. -/
def slackBits : Nat := 16

/-- The first working precision at which the interval `a ± 2^slack` at that precision rounds to one code. -/
def refine (f : FpFmt) (approx : Nat → Int) (shift : Int) : List Nat → Fl Nat
  | [] => ⟨f.nanCode, flagInvalid⟩
  | p :: ps =>
    let a := approx p
    let lo := roundNum f (Num.ofInt (a - 2 ^ slackBits) (shift - p))
    let hi := roundNum f (Num.ofInt (a + 2 ^ slackBits) (shift - p))
    if lo = hi ∨ ps = [] then lo else refine f approx shift ps

/-- The working precisions tried in turn. -/
def precisions : List Nat := [112, 192, 320, 640]

/-- Exponents beyond every format: larger arguments only overflow or round to zero alike. -/
def expClamp : Int := 400

/-- 2^x, correctly rounded into `f` (R53). -/
def exp2Round (f : FpFmt) : Num → Fl Nat
  | .nan => roundNum f .nan
  | .inf s => roundNum f (if s then .fin false 0 0 else .inf false)
  | .fin s m e =>
    if m = 0 then roundNum f (.fin false 1 0)
    else if 0 ≤ e then
      let x := signedAt s (if e > 16 then 2 ^ 16 else m * 2 ^ e.toNat) 0 0
      roundNum f (.fin false 1 (max (-expClamp) (min expClamp x)))
    else
      let d : Nat := 2 ^ (-e).toNat
      let i : Int := signedAt s m 0 0
      let fl := i / (d : Int)
      let fr : Nat := (i % (d : Int)).toNat
      let k := max (-expClamp) (min expClamp fl)
      if fr = 0 then roundNum f (.fin false 1 k)
      else
        refine f (fun p =>
          let ln2 := lnFix p 2 1
          Int.ofNat (expSum p (fr * ln2 / d) p 0 (2 ^ p))) k precisions

/-- log2 x, correctly rounded into `f` (R53). -/
def log2Round (f : FpFmt) : Num → Fl Nat
  | .nan => roundNum f .nan
  | .inf s => roundNum f (if s then .nan else .inf false)
  | .fin s m e =>
    if m = 0 then roundNum f (.inf true)
    else if s then roundNum f .nan
    else
      let b := bitLen m - 1
      let k : Int := e + b
      if m = 2 ^ b then roundNum f (Num.ofInt k 0)
      else
        refine f (fun p =>
          let frac := lnFix p m (2 ^ b) * 2 ^ p / lnFix p 2 1
          k * 2 ^ p + (frac : Int)) 0 precisions

/-- EXP2 of R53. -/
def exp232 : F32 → Fl F32 := un32 fun a => (exp2Round fmt32 a).map (BitVec.ofNat 32)
/-- LOG2 of R53. -/
def log232 : F32 → Fl F32 := un32 fun a => (log2Round fmt32 a).map (BitVec.ofNat 32)
/-- EXP of R53: exp2 of the rounded product with 0x3FB8_AA3B. -/
def exp32 (x : F32) : Fl F32 := (mul32 x 0x3FB8AA3B).bind exp232
/-- LOG of R53: the rounded product of log2 with 0x3F31_7218. -/
def log32 (x : F32) : Fl F32 := (log232 x).bind fun y => mul32 y 0x3F317218

end Sys2Proof.Machine
end

