-- ==== Sys2Proof/Machine/Formats.lean ====
section
/-!
DEFINITION. The eleven formats of R48: element decoding (R54 to R60), block encoding (R58, R61), conversions (R62),
canonical slices (R29), the segment sums (R64, R65) and the combining tree (R30, R31).
-/

namespace Sys2Proof.Machine

/-- The formats of R48. -/
inductive Fmt where
  /-- 0x0 FP32 -/
  | fp32
  /-- 0x1 BF16 -/
  | bf16
  /-- 0x2 MXFP8 E4M3 -/
  | e4m3
  /-- 0x3 MXFP8 E5M2 -/
  | e5m2
  /-- 0x4 MXFP4 (E2M1) -/
  | mxfp4
  /-- 0x5 TQ2 -/
  | tq2
  /-- 0x6 KV4 -/
  | kv4
  /-- 0x7 KV8 -/
  | kv8
  /-- 0x8 FP16 -/
  | fp16
  /-- 0x9 INT8S -/
  | int8s
  /-- 0xA INT4S -/
  | int4s
  deriving DecidableEq, Repr

/-- The format of a 4-bit code; codes 0xB to 0xF are reserved (R48). -/
def Fmt.ofCode : Nat → Option Fmt
  | 0 => some .fp32
  | 1 => some .bf16
  | 2 => some .e4m3
  | 3 => some .e5m2
  | 4 => some .mxfp4
  | 5 => some .tq2
  | 6 => some .kv4
  | 7 => some .kv8
  | 8 => some .fp16
  | 9 => some .int8s
  | 10 => some .int4s
  | _ => none

/-- Bits of one element (R48). -/
def Fmt.elemBits : Fmt → Nat
  | .fp32 => 32
  | .bf16 => 16
  | .e4m3 => 8
  | .e5m2 => 8
  | .mxfp4 => 4
  | .tq2 => 2
  | .kv4 => 4
  | .kv8 => 8
  | .fp16 => 16
  | .int8s => 8
  | .int4s => 4

/-- Codes 0x2 to 0x7 are blocked: 32 elements share a scale byte (R49). -/
def Fmt.blocked : Fmt → Bool
  | .e4m3 | .e5m2 | .mxfp4 | .tq2 | .kv4 | .kv8 => true
  | _ => false

/-- The MXFP8 element types. -/
def Fmt.isMx8 : Fmt → Bool
  | .e4m3 | .e5m2 => true
  | _ => false

/-- The KV formats. -/
def Fmt.isKv : Fmt → Bool
  | .kv4 | .kv8 => true
  | _ => false

/-- Bytes of `n` elements, whole bytes (R57, R60). -/
def Fmt.bytesOf (f : Fmt) (n : Nat) : Nat := ceilDiv (n * f.elemBits) 8

/-- A minifloat element: `fb` fraction bits, `eb` exponent bits, exponent of the least bit (R55, R56). -/
def miniNum (fb eb : Nat) (emin : Int) (c : Nat) : Num :=
  let s := bitAt (fb + eb) c
  let x := bits fb eb c
  let m := bits 0 fb c
  if x = 0 then .fin s m emin else .fin s (2 ^ fb + m) (emin + (x : Int) - 1)

/-- An E4M3 code, its two NaN codes included (R56). -/
def e4m3Num (c : Nat) : Num := if c % 128 = 0x7F then .nan else miniNum 3 4 (-9) c

/-- An E5M2 code (R56). -/
def e5m2Num (c : Nat) : Num :=
  if c % 128 = 0x7C then .inf (bitAt 7 c) else if c % 128 > 0x7C then .nan else miniNum 2 5 (-16) c

/-- A two's complement integer of `w` bits. -/
def signedOf (w c : Nat) : Int := if bitAt (w - 1) c then (c : Int) - 2 ^ w else c

/-- The value of one element, before its scale (R55 to R60); a TQ2 invalid code reads as 0 with INVALID. -/
def elemNum : Fmt → Nat → Fl Num
  | .fp32, c => readNum fmt32 c
  | .bf16, c => readNum fmtBf16 c
  | .fp16, c => let v := ieeeNum fmtFp16 c; ⟨v, flagIf v.isNan flagInvalid⟩
  | .e4m3, c => let v := e4m3Num c; ⟨v, flagIf v.isNan flagInvalid⟩
  | .e5m2, c => let v := e5m2Num c; ⟨v, flagIf v.isNan flagInvalid⟩
  | .mxfp4, c => ⟨miniNum 1 2 (-1) c, 0⟩
  | .tq2, c =>
    if c = 1 then ⟨.fin false 1 0, 0⟩
    else if c = 3 then ⟨.fin true 1 0, 0⟩
    else if c = 2 then ⟨.fin false 0 0, flagInvalid⟩
    else ⟨.fin false 0 0, 0⟩
  | .kv4, c => ⟨Num.ofInt (signedOf 4 c) 0, 0⟩
  | .kv8, c => ⟨Num.ofInt (signedOf 8 c) 0, 0⟩
  | .int8s, c => ⟨Num.ofInt (signedOf 8 c) 0, 0⟩
  | .int4s, c => ⟨Num.ofInt (signedOf 4 c) 0, 0⟩

/-- A block scale: E8M0 for the MX formats and TQ2 (R54), E4M3 for the KV formats (R60, R61); 1 for unblocked ones. A NaN
scale that is read sets INVALID (R63). -/
def scaleNum (f : Fmt) (c : Nat) : Fl Num :=
  if f.isKv then let v := e4m3Num c; ⟨v, flagIf v.isNan flagInvalid⟩
  else if f.blocked then
    if c = 0xFF then ⟨.nan, flagInvalid⟩ else ⟨.fin false 1 ((c : Int) - 127), 0⟩
  else ⟨.fin false 1 0, 0⟩

/-- The TQ2 code 0b10 that the format exception counter counts (R59). -/
def isBadTernary (f : Fmt) (c : Nat) : Bool := f == .tq2 && c == 2

/-- Element × scale, exact. -/
def decodeNum (f : Fmt) (elem scale : Nat) : Fl Num :=
  (elemNum f elem).bind fun v => if f.blocked then (scaleNum f scale).map (v.mul ·) else ⟨v, 0⟩

/-- A value rounded once into FP32 (R62). -/
def toFp32 (v : Fl Num) : Fl F32 := v.bind rnd32

/-- Element × scale in FP32 (R62). -/
def decode32 (f : Fmt) (elem scale : Nat) : Fl F32 := toFp32 (decodeNum f elem scale)

/-- An integer row element with its FP32 row scale, read with its exact value (R62). -/
def decodeRow32 (f : Fmt) (elem rowScale : Nat) : Fl F32 :=
  (elemNum f elem).bind fun v =>
    let s := ieeeNum fmt32 rowScale
    Fl.mark (flagIf s.isNan flagInvalid) (rnd32 (v.mul s))

/-- The blocked target's rounding shape: precision, least exponent, largest finite code, emax of R58. -/
def mxShape : Fmt → Nat × Int × Nat × Int
  | .e4m3 => (4, -9, 0x7E, 8)
  | .e5m2 => (3, -16, 0x7B, 15)
  | _ => (2, -1, 7, 2)

/-- Sign bit of an MX element. -/
def mxSign : Fmt → Nat
  | .mxfp4 => 8
  | _ => 128

/-- `⌊log2 |x|⌋` of a nonzero finite value. -/
def Num.ilog2 : Num → Int
  | .fin _ m e => e + bitLen m - 1
  | _ => 0

/-- The largest magnitude of a list of finite values. -/
def maxAbs (xs : List Num) : Num := xs.foldl (fun a x => if a.lt x.abs then x.abs else a) (.fin false 0 0)

/-- One element of R58: `x / 2^(scale − 127)` rounded to the element format, saturating. -/
def mxElem (f : Fmt) (sc : Int) : Num → Fl Nat
  | .fin s m e =>
    let (p, emin, top, _) := mxShape f
    let c := roundCode p emin m (e - sc)
    let sg := if s then mxSign f else 0
    if c > top then ⟨top + sg, flagSaturated⟩ else ⟨c + sg, 0⟩
  | _ => ⟨0, 0⟩

/-- One encoded block: scale byte and element codes. -/
structure Block where
  /-- the scale byte -/
  scale : Nat
  /-- the element codes -/
  elems : List Nat
  deriving DecidableEq, Repr

/-- R58: encode a block of MXFP4 or MXFP8 (values after the flush, padding excluded). -/
def encodeMx (f : Fmt) (xs : List Num) : Fl Block :=
  if xs.any (fun x => !x.isFin) then ⟨⟨0xFF, xs.map fun _ => 0⟩, flagInvalid⟩
  else if xs.all Num.isZero then ⟨⟨127, xs.map fun _ => 0⟩, 0⟩
  else
    let (_, _, _, emax) := mxShape f
    let e := (maxAbs xs).ilog2 - emax
    let sc := max 0 (min 254 (e + 127))
    (Fl.mapList (mxElem f (sc - 127)) xs).map fun es => ⟨sc.toNat, es⟩

/-- The largest integer of a KV format (R61). -/
def kvLimit : Fmt → Nat
  | .kv4 => 7
  | _ => 127

/-- The smallest E4M3 code from `c` up whose value is at least `t` (positive codes rise with their values). -/
def e4m3From (t : Num) : Nat → Nat → Nat
  | 0, c => c
  | n + 1, c => if (e4m3Num c).lt t then e4m3From t n (c + 1) else c

/-- An FP32 value rounded to an integer, ties to even. -/
def Num.roundInt : Num → Int
  | .fin s m e =>
    let a : Nat :=
      if 0 ≤ e then m * 2 ^ e.toNat
      else
        let d := (-e).toNat
        let k := m / 2 ^ d
        let r := m % 2 ^ d
        if r > 2 ^ (d - 1) ∨ (r = 2 ^ (d - 1) ∧ k % 2 = 1) then k + 1 else k
    if s then -(a : Int) else a
  | _ => 0

/-- The `w`-bit two's complement code of an integer. -/
def codeOf (w : Nat) (i : Int) : Nat := (i % 2 ^ w).toNat

/-- R61: quantise a block of K or V values (FP32 after the flush, padding excluded). -/
def encodeKv (f : Fmt) (xs : List Num) : Fl Block :=
  if xs.any (fun x => !x.isFin) then ⟨⟨0x7F, xs.map fun _ => 0⟩, flagInvalid⟩
  else if xs.all Num.isZero then ⟨⟨0, xs.map fun _ => 0⟩, 0⟩
  else
    let q := kvLimit f
    (rnd32 ((maxAbs xs).div (Num.ofInt q 0))).bind fun tw =>
      let t := ieeeNum fmt32 tw.toNat
      let capped := (Num.ofInt 448 0).lt t
      let sc := if capped then 0x7E else e4m3From t 126 1
      Fl.mark (flagIf capped flagSaturated)
        ((Fl.mapList (fun x =>
          (rnd32 (x.div (e4m3Num sc))).map fun y =>
            let i := (ieeeNum fmt32 y.toNat).roundInt
            codeOf f.elemBits (max (-(q : Int)) (min q i))) xs).map fun es => ⟨sc, es⟩)

/-- Encode a block of FP32 words into a blocked format (R58, R61); formats with no encoder give zeros. -/
def encodeBlock (f : Fmt) (xs : List F32) : Fl Block :=
  (Fl.mapList rd32 xs).bind fun vs =>
    match f with
    | .kv4 | .kv8 => encodeKv f vs
    | .e4m3 | .e5m2 | .mxfp4 => encodeMx f vs
    | _ => ⟨⟨127, xs.map fun _ => 0⟩, 0⟩

/-- One FP32 word as an element of an unblocked format (R62). -/
def encodeOne (f : Fmt) (x : F32) : Fl Nat :=
  match f with
  | .bf16 => (rd32 x).bind (roundNum fmtBf16)
  | .fp16 => (rd32 x).bind (roundNum fmtFp16)
  | _ => (rd32 x).bind (roundNum fmt32)

/-- Lists cut into pieces of `n`, with fuel. -/
def chunksFuel {α : Type} (n : Nat) : Nat → List α → List (List α)
  | 0, _ => []
  | k + 1, l => if l.isEmpty then [] else l.take n :: chunksFuel n k (l.drop n)

/-- A list cut into pieces of `n` (n ≥ 1). -/
def chunks {α : Type} (n : Nat) (l : List α) : List (List α) := chunksFuel n l.length l

/-- The bytes of packed element codes: `bits` per code, least significant first (R57). -/
def packElems (f : Fmt) (es : List Nat) : List Byte :=
  if f.elemBits < 8 then
    (chunks (8 / f.elemBits) es).map fun g =>
      BitVec.ofNat 8 ((g.foldr (fun e acc => e % 2 ^ f.elemBits + 2 ^ f.elemBits * acc) 0))
  else es.flatMap fun e => leBytes (f.elemBits / 8) e

/-- Element `i` of packed bytes (R57). -/
def elemAt (f : Fmt) (bs : List Byte) (i : Nat) : Nat :=
  if f.elemBits < 8 then
    let per := 8 / f.elemBits
    bits (i % per * f.elemBits) f.elemBits (bs.getD (i / per) 0).toNat
  else
    let n := f.elemBits / 8
    leNat ((bs.drop (i * n)).take n)

/-! Contractions. -/

/-- Canonical slice length `L = ⌈K/64⌉` (R29). -/
def sliceLen (k : Nat) : Nat := ceilDiv k 64

/-- The segments of the indices `lo .. hi−1`: cut at multiples of 32 (R64). -/
def segCuts : Nat → Nat → Nat → List (Nat × Nat)
  | 0, _, _ => []
  | n + 1, lo, hi =>
    if lo ≥ hi then []
    else
      let e := min hi ((lo / 32 + 1) * 32)
      (lo, e) :: segCuts n e hi

/-- S of R64 and R65 over a list of exact products; a finite zero sum is +0. -/
def segSum (ps : List Num) : Num :=
  match ps.foldl Num.add (.fin false 0 0) with
  | .fin s m e => if m = 0 then .fin false 0 0 else .fin s m e
  | v => v

/-- acc + S with one rounding (R64). -/
def accStep (acc : F32) (s : Num) : Fl F32 := (rd32 acc).bind fun a => rnd32 (a.add s)

/-- A slice partial over the products at indices `lo .. hi−1` (R64). -/
def slicePartial (prod : Nat → Fl Num) (lo hi : Nat) : Fl F32 :=
  Fl.fold (fun acc (seg : Nat × Nat) =>
    (Fl.mapList prod (natsFrom seg.1 (seg.2 - seg.1))).bind fun ps => accStep acc (segSum ps))
    0 (segCuts (hi - lo + 1) lo hi)

/-- One level of the tree: node j is the sum of nodes 2j and 2j+1, in that order (R30). -/
def treeLevel : List F32 → Fl (List F32)
  | a :: b :: r => (add32 a b).bind fun c => (treeLevel r).map (c :: ·)
  | l => ⟨l, 0⟩

/-- `n` levels of the tree. -/
def treeLevels : Nat → List F32 → Fl (List F32)
  | 0, l => ⟨l, 0⟩
  | n + 1, l => (treeLevel l).bind (treeLevels n)

/-- The slice partials `s0 .. s0+n−1` of a contraction of length `k` (R29; an empty slice is +0). -/
def slicePartials (k : Nat) (prod : Nat → Fl Num) (s0 n : Nat) : Fl (List F32) :=
  let l := sliceLen k
  Fl.mapList (fun s => slicePartial prod (s * l) (min ((s + 1) * l) k)) (natsFrom s0 n)

/-- The single node above slices `s0 .. s0 + 2^j − 1`. -/
def treeNode (j k : Nat) (prod : Nat → Fl Num) (s0 : Nat) : Fl F32 :=
  (slicePartials k prod s0 (2 ^ j)).bind fun ps => (treeLevels j ps).map fun l => l.getD 0 0

/-- A whole contraction: 64 slices, six levels (R29, R30). -/
def contract (k : Nat) (prod : Nat → Fl Num) : Fl F32 := treeNode 6 k prod 0

/-- The product of two decoded operands (R64: exact, carrying both block scales). -/
def dotProd (x w : Fl Num) : Fl Num :=
  let v := x.val.mul w.val
  ⟨v, x.fl ||| w.fl ||| flagIf v.isNan flagInvalid⟩

/-- The array pairings of R66, unordered; at stage 2 MXFP8 × MXFP8 only. -/
def pairingOk (stage : Nat) (x w : Fmt) : Bool :=
  let one (a b : Fmt) : Bool :=
    (a == .mxfp4 && b == .mxfp4) || (a == .tq2 && b == .mxfp4) || (a == .tq2 && b.isMx8) ||
    (a == .mxfp4 && b.isMx8) || (a == .bf16 && b == .bf16)
  (x.isMx8 && w.isMx8) || (decide (stage ≥ 4) && (one x w || one w x))

end Sys2Proof.Machine
end

