-- ==== Sys2Proof/Machine/Regs.lean ====
section
/-!
DEFINITION. The register map of BAR0 (R325), field by field, from the register tables of R96, R133, R166, R200, R231, R256,
R273, R299, R320, R341, R342, R369, R397, R426, R451, R470, R471, R486 and R487.
-/

namespace Sys2Proof.Machine

/-- The Type column of R10; `dv` is an RO field whose value is computed from other state when it is read. -/
inductive RegTy where
  /-- read and write -/
  | rw
  /-- read only, held as a register -/
  | ro
  /-- write only: reads zero, a write triggers an action -/
  | wo
  /-- write one to clear -/
  | w1c
  /-- read and clear -/
  | rc
  /-- read only, computed on read -/
  | dv
  deriving DecidableEq, Repr

/-- The Reset column. -/
inductive Rst where
  /-- one value for every instance -/
  | const (n : Nat)
  /-- the instance's index plus `n` -/
  | index (n : Nat)
  /-- the instance's index divided by `n` -/
  | indexDiv (n : Nat)
  /-- listed per instance -/
  | table (l : List Nat)
  deriving DecidableEq, Repr

/-- A register field: name, byte offset of its (first) register in BAR0, lowest bit, width, type, instances and strides (in
bits) of its two indices, the range a write may put there, reset value. A field wider than its register's 32 bits is a pair
of registers (R12). -/
structure Fld where
  /-- the spec's name -/
  name : String
  /-- byte offset in BAR0 -/
  base : Nat
  /-- lowest bit -/
  lsb : Nat
  /-- bits -/
  width : Nat
  /-- type -/
  ty : RegTy
  /-- instances of the first index -/
  n1 : Nat
  /-- stride of the first index, bits -/
  s1 : Nat
  /-- instances of the second index -/
  n2 : Nat
  /-- stride of the second index, bits -/
  s2 : Nat
  /-- least legal value -/
  lo : Nat
  /-- greatest legal value -/
  hi : Nat
  /-- reset value -/
  rst : Rst
  deriving DecidableEq, Repr

/-- The key of instance `(i, j)`: the bit address of its lowest bit. -/
def Fld.key (f : Fld) (i j : Nat) : Nat := 8 * f.base + f.lsb + i * f.s1 + j * f.s2

/-- The reset value of instance `i` (R14). -/
def Fld.reset (f : Fld) (i : Nat) : Nat :=
  match f.rst with
  | .const n => n
  | .index n => i + n
  | .indexDiv n => i / n
  | .table l => l.getD i 0

namespace Reg

/-! CMP (R96) -/

/-- CMP_ID.CORE -/
def cmpIdCore : Fld := ⟨"CMP_ID.CORE", 0x02000000, 0, 8, .ro, 160, 524288, 1, 0, 0, 255, .index 0⟩
/-- CMP_ID.DIE -/
def cmpIdDie : Fld := ⟨"CMP_ID.DIE", 0x02000000, 8, 2, .ro, 160, 524288, 1, 0, 0, 3, .indexDiv 40⟩
/-- CMP_CTRL.ENABLE -/
def cmpCtrlEnable : Fld := ⟨"CMP_CTRL.ENABLE", 0x02000004, 0, 1, .rw, 160, 524288, 1, 0, 0, 1, .const 1⟩
/-- CMP_CTRL.LODGE_MASK -/
def cmpCtrlLodgeMask : Fld := ⟨"CMP_CTRL.LODGE_MASK", 0x02000004, 16, 16, .rw, 160, 524288, 1, 0, 0, 65535, .const 0xFFFF⟩
/-- CMP_STATUS.STATE -/
def cmpStatusState : Fld := ⟨"CMP_STATUS.STATE", 0x02000008, 0, 4, .dv, 160, 524288, 1, 0, 0, 15, .const 0⟩
/-- CMP_STATUS.LODGE -/
def cmpStatusLodge : Fld := ⟨"CMP_STATUS.LODGE", 0x02000008, 4, 4, .dv, 160, 524288, 1, 0, 0, 15, .const 0⟩
/-- CMP_STATUS.QUEUE_DEPTH -/
def cmpStatusQueueDepth : Fld := ⟨"CMP_STATUS.QUEUE_DEPTH", 0x02000008, 8, 5, .dv, 160, 524288, 1, 0, 0, 31, .const 0⟩
/-- CMP_CS_CFG.STAGE_PAGES -/
def cmpCsCfgStagePages : Fld := ⟨"CMP_CS_CFG.STAGE_PAGES", 0x0200000C, 0, 10, .rw, 160, 524288, 1, 0, 16, 256, .const 128⟩
/-- CMP_CMD_LIMIT.LIMIT_US -/
def cmpCmdLimitLimitUs : Fld := ⟨"CMP_CMD_LIMIT.LIMIT_US", 0x02000010, 0, 12, .rw, 160, 524288, 1, 0, 1, 4000, .const 2000⟩
/-- CMP_SHADOW_CFG.ENABLE -/
def cmpShadowCfgEnable : Fld := ⟨"CMP_SHADOW_CFG.ENABLE", 0x02000014, 0, 1, .rw, 160, 524288, 1, 0, 0, 1, .const 1⟩
/-- CMP_SHADOW_CFG.RATE_LOG2 -/
def cmpShadowCfgRateLog2 : Fld := ⟨"CMP_SHADOW_CFG.RATE_LOG2", 0x02000014, 4, 4, .rw, 160, 524288, 1, 0, 4, 12, .const 8⟩
/-- CMP_SHADOW_CFG.QUAR_LIMIT -/
def cmpShadowCfgQuarLimit : Fld := ⟨"CMP_SHADOW_CFG.QUAR_LIMIT", 0x02000014, 8, 8, .rw, 160, 524288, 1, 0, 0, 255, .const 3⟩
/-- CMP_SHADOW_SEED.SEED -/
def cmpShadowSeedSeed : Fld := ⟨"CMP_SHADOW_SEED.SEED", 0x02000018, 0, 32, .rw, 160, 524288, 1, 0, 1, 0xFFFFFFFF, .index 1⟩
/-- CMP_SHADOW_RUN.COUNT -/
def cmpShadowRunCount : Fld := ⟨"CMP_SHADOW_RUN.COUNT", 0x0200001C, 0, 32, .ro, 160, 524288, 1, 0, 0, 0xFFFFFFFF, .const 0⟩
/-- CMP_SHADOW_MISS.COUNT -/
def cmpShadowMissCount : Fld := ⟨"CMP_SHADOW_MISS.COUNT", 0x02000020, 0, 32, .rc, 160, 524288, 1, 0, 0, 0xFFFFFFFF, .const 0⟩
/-- CMP_SHADOW_SKIP.COUNT -/
def cmpShadowSkipCount : Fld := ⟨"CMP_SHADOW_SKIP.COUNT", 0x02000024, 0, 32, .rc, 160, 524288, 1, 0, 0, 0xFFFFFFFF, .const 0⟩
/-- CMP_FMT_EXC.COUNT -/
def cmpFmtExcCount : Fld := ⟨"CMP_FMT_EXC.COUNT", 0x02000028, 0, 32, .rc, 160, 524288, 1, 0, 0, 0xFFFFFFFF, .const 0⟩
/-- CMP_COMMIT_CNT.COUNT -/
def cmpCommitCntCount : Fld := ⟨"CMP_COMMIT_CNT.COUNT", 0x0200002C, 0, 32, .ro, 160, 524288, 1, 0, 0, 0xFFFFFFFF, .const 0⟩
/-- CMP_KILL_CNT.COUNT -/
def cmpKillCntCount : Fld := ⟨"CMP_KILL_CNT.COUNT", 0x02000030, 0, 32, .ro, 160, 524288, 1, 0, 0, 0xFFFFFFFF, .const 0⟩
/-- CMP_ECC_CORR.SP -/
def cmpEccCorrSp : Fld := ⟨"CMP_ECC_CORR.SP", 0x02000034, 0, 16, .rc, 160, 524288, 1, 0, 0, 65535, .const 0⟩
/-- CMP_ECC_CORR.CS -/
def cmpEccCorrCs : Fld := ⟨"CMP_ECC_CORR.CS", 0x02000034, 16, 16, .rc, 160, 524288, 1, 0, 0, 65535, .const 0⟩
/-- CMP_ERR.BITS -/
def cmpErrBits : Fld := ⟨"CMP_ERR.BITS", 0x02000038, 0, 4, .w1c, 160, 524288, 1, 0, 0, 15, .const 0⟩
/-- CMP_QUAR.QUARANTINED -/
def cmpQuarQuarantined : Fld := ⟨"CMP_QUAR.QUARANTINED", 0x0200003C, 0, 1, .dv, 160, 524288, 1, 0, 0, 1, .const 0⟩
/-- CMP_QUAR.RELEASE -/
def cmpQuarRelease : Fld := ⟨"CMP_QUAR.RELEASE", 0x0200003C, 1, 1, .wo, 160, 524288, 1, 0, 0, 1, .const 0⟩
/-- CMP_QUAR.SUSPECT_UP -/
def cmpQuarSuspectUp : Fld := ⟨"CMP_QUAR.SUSPECT_UP", 0x0200003C, 16, 8, .dv, 160, 524288, 1, 0, 0, 255, .const 0⟩
/-- CMP_QUAR.SUSPECT_DOWN -/
def cmpQuarSuspectDown : Fld := ⟨"CMP_QUAR.SUSPECT_DOWN", 0x0200003C, 24, 8, .dv, 160, 524288, 1, 0, 0, 255, .const 0⟩

/-- The CMP block. -/
def blockCmp : List Fld :=
  [cmpIdCore, cmpIdDie, cmpCtrlEnable, cmpCtrlLodgeMask, cmpStatusState, cmpStatusLodge,
   cmpStatusQueueDepth, cmpCsCfgStagePages, cmpCmdLimitLimitUs, cmpShadowCfgEnable, cmpShadowCfgRateLog2, cmpShadowCfgQuarLimit,
   cmpShadowSeedSeed, cmpShadowRunCount, cmpShadowMissCount, cmpShadowSkipCount, cmpFmtExcCount, cmpCommitCntCount,
   cmpKillCntCount, cmpEccCorrSp, cmpEccCorrCs, cmpErrBits, cmpQuarQuarantined, cmpQuarRelease,
   cmpQuarSuspectUp, cmpQuarSuspectDown]

/-! NBU (R133) -/

/-- NBU_CTRL.ENABLE -/
def nbuCtrlEnable : Fld := ⟨"NBU_CTRL.ENABLE", 0x01800000, 0, 1, .rw, 1, 0, 1, 0, 0, 1, .const 1⟩
/-- NBU_CTRL.SHARE -/
def nbuCtrlShare : Fld := ⟨"NBU_CTRL.SHARE", 0x01800000, 4, 4, .rw, 1, 0, 1, 0, 1, 15, .const 4⟩
/-- NBU_STATUS.ACTIVE -/
def nbuStatusActive : Fld := ⟨"NBU_STATUS.ACTIVE", 0x01800004, 0, 8, .dv, 1, 0, 1, 0, 0, 255, .const 0⟩
/-- NBU_STATUS.THROTTLED -/
def nbuStatusThrottled : Fld := ⟨"NBU_STATUS.THROTTLED", 0x01800004, 8, 8, .ro, 1, 0, 1, 0, 0, 255, .const 0⟩
/-- NBU_STATUS.SUSPENDED -/
def nbuStatusSuspended : Fld := ⟨"NBU_STATUS.SUSPENDED", 0x01800004, 16, 8, .ro, 1, 0, 1, 0, 0, 255, .const 0⟩
/-- NBU_STATUS.HOT -/
def nbuStatusHot : Fld := ⟨"NBU_STATUS.HOT", 0x01800004, 24, 8, .ro, 1, 0, 1, 0, 0, 255, .const 0⟩
/-- NBU_SELFTEST.PASS -/
def nbuSelftestPass : Fld := ⟨"NBU_SELFTEST.PASS", 0x01800008, 0, 8, .ro, 1, 0, 1, 0, 0, 255, .const 0⟩
/-- NBU_SELFTEST.FAIL -/
def nbuSelftestFail : Fld := ⟨"NBU_SELFTEST.FAIL", 0x01800008, 8, 8, .ro, 1, 0, 1, 0, 0, 255, .const 0⟩
/-- NBU_RATE.RATE -/
def nbuRateRate : Fld := ⟨"NBU_RATE.RATE", 0x0180000C, 0, 7, .ro, 1, 0, 1, 0, 0, 127, .const 64⟩
/-- NBU_REFRESH.MAX_POSTPONE -/
def nbuRefreshMaxPostpone : Fld := ⟨"NBU_REFRESH.MAX_POSTPONE", 0x01800010, 0, 3, .rw, 1, 0, 1, 0, 0, 4, .const 4⟩
/-- NBU_THERM.THROTTLE_C -/
def nbuThermThrottleC : Fld := ⟨"NBU_THERM.THROTTLE_C", 0x01800014, 0, 8, .rw, 1, 0, 1, 0, 0, 255, .const 90⟩
/-- NBU_THERM.SUSPEND_C -/
def nbuThermSuspendC : Fld := ⟨"NBU_THERM.SUSPEND_C", 0x01800014, 8, 8, .rw, 1, 0, 1, 0, 0, 255, .const 95⟩
/-- NBU_THERM.HYST_C -/
def nbuThermHystC : Fld := ⟨"NBU_THERM.HYST_C", 0x01800014, 16, 4, .rw, 1, 0, 1, 0, 0, 15, .const 5⟩
/-- NBU_XOVER.THRESHOLD -/
def nbuXoverThreshold : Fld := ⟨"NBU_XOVER.THRESHOLD", 0x01800020, 0, 5, .rw, 8, 32, 1, 0, 0, 16, .const 8⟩
/-- NBU_TEMP.TEMP -/
def nbuTempTemp : Fld := ⟨"NBU_TEMP.TEMP", 0x01800040, 0, 10, .ro, 8, 32, 1, 0, 0, 1023, .const 0⟩
/-- NBU_TEMP.PEAK -/
def nbuTempPeak : Fld := ⟨"NBU_TEMP.PEAK", 0x01800040, 16, 10, .rc, 8, 32, 1, 0, 0, 1023, .const 0⟩
/-- NBU_SUSP_CNT.REFRESH -/
def nbuSuspCntRefresh : Fld := ⟨"NBU_SUSP_CNT.REFRESH", 0x01800060, 0, 16, .rc, 1, 0, 1, 0, 0, 65535, .const 0⟩
/-- NBU_SUSP_CNT.THERMAL -/
def nbuSuspCntThermal : Fld := ⟨"NBU_SUSP_CNT.THERMAL", 0x01800060, 16, 16, .rc, 1, 0, 1, 0, 0, 65535, .const 0⟩
/-- NBU_ROWSTEP.COUNT -/
def nbuRowstepCount : Fld := ⟨"NBU_ROWSTEP.COUNT", 0x01800064, 0, 64, .ro, 1, 0, 1, 0, 0, 0xFFFFFFFFFFFFFFFF, .const 0⟩
/-- NBU_ERR.BITS -/
def nbuErrBits : Fld := ⟨"NBU_ERR.BITS", 0x0180006C, 0, 3, .w1c, 1, 0, 1, 0, 0, 7, .const 0⟩
/-- NBU_SLOT.ACTIVE -/
def nbuSlotActive : Fld := ⟨"NBU_SLOT.ACTIVE", 0x01800100, 0, 4, .dv, 160, 4, 1, 0, 0, 15, .const 0⟩

/-- The NBU block. -/
def blockNbu : List Fld :=
  [nbuCtrlEnable, nbuCtrlShare, nbuStatusActive, nbuStatusThrottled, nbuStatusSuspended, nbuStatusHot,
   nbuSelftestPass, nbuSelftestFail, nbuRateRate, nbuRefreshMaxPostpone, nbuThermThrottleC, nbuThermSuspendC,
   nbuThermHystC, nbuXoverThreshold, nbuTempTemp, nbuTempPeak, nbuSuspCntRefresh, nbuSuspCntThermal,
   nbuRowstepCount, nbuErrBits, nbuSlotActive]

/-! ATT (R166) -/

/-- ATT_CTRL.ENABLE -/
def attCtrlEnable : Fld := ⟨"ATT_CTRL.ENABLE", 0x01C00000, 0, 1, .rw, 1, 0, 1, 0, 0, 1, .const 1⟩
/-- ATT_TIMEOUT.TIMEOUT_US -/
def attTimeoutTimeoutUs : Fld := ⟨"ATT_TIMEOUT.TIMEOUT_US", 0x01C00004, 0, 12, .rw, 1, 0, 1, 0, 50, 4000, .const 1000⟩
/-- ATT_STATUS.SAU_BUSY -/
def attStatusSauBusy : Fld := ⟨"ATT_STATUS.SAU_BUSY", 0x01C00008, 0, 32, .dv, 1, 0, 1, 0, 0, 0xFFFFFFFF, .const 0⟩
/-- ATT_QUEUE.DEPTH -/
def attQueueDepth : Fld := ⟨"ATT_QUEUE.DEPTH", 0x01C0000C, 0, 10, .dv, 1, 0, 1, 0, 0, 1023, .const 0⟩
/-- ATT_REQ_IN.COUNT -/
def attReqInCount : Fld := ⟨"ATT_REQ_IN.COUNT", 0x01C00010, 0, 32, .ro, 1, 0, 1, 0, 0, 0xFFFFFFFF, .const 0⟩
/-- ATT_REQ_OUT.COUNT -/
def attReqOutCount : Fld := ⟨"ATT_REQ_OUT.COUNT", 0x01C00014, 0, 32, .ro, 1, 0, 1, 0, 0, 0xFFFFFFFF, .const 0⟩
/-- ATT_REJECT.COUNT -/
def attRejectCount : Fld := ⟨"ATT_REJECT.COUNT", 0x01C00018, 0, 32, .rc, 1, 0, 1, 0, 0, 0xFFFFFFFF, .const 0⟩
/-- ATT_TIMEOUT_CNT.COUNT -/
def attTimeoutCntCount : Fld := ⟨"ATT_TIMEOUT_CNT.COUNT", 0x01C0001C, 0, 32, .rc, 1, 0, 1, 0, 0, 0xFFFFFFFF, .const 0⟩
/-- ATT_EMPTY.COUNT -/
def attEmptyCount : Fld := ⟨"ATT_EMPTY.COUNT", 0x01C00020, 0, 32, .rc, 1, 0, 1, 0, 0, 0xFFFFFFFF, .const 0⟩
/-- ATT_SKIP.COUNT -/
def attSkipCount : Fld := ⟨"ATT_SKIP.COUNT", 0x01C00024, 0, 64, .ro, 1, 0, 1, 0, 0, 0xFFFFFFFFFFFFFFFF, .const 0⟩
/-- ATT_ERR.BITS -/
def attErrBits : Fld := ⟨"ATT_ERR.BITS", 0x01C0002C, 0, 5, .w1c, 1, 0, 1, 0, 0, 31, .const 0⟩
/-- ATT_POOL.ADDR -/
def attPoolAddr : Fld := ⟨"ATT_POOL.ADDR", 0x01C00100, 6, 58, .rw, 16, 64, 1, 0, 0, 0x3FFFFFFFFFFFFFF, .const 0⟩
/-- ATT_POOL_EN.ENABLE -/
def attPoolEnEnable : Fld := ⟨"ATT_POOL_EN.ENABLE", 0x01C00180, 0, 8, .rw, 16, 32, 1, 0, 0, 255, .const 0⟩

/-- The ATT block. -/
def blockAtt : List Fld :=
  [attCtrlEnable, attTimeoutTimeoutUs, attStatusSauBusy, attQueueDepth, attReqInCount, attReqOutCount,
   attRejectCount, attTimeoutCntCount, attEmptyCount, attSkipCount, attErrBits, attPoolAddr,
   attPoolEnEnable]

/-! MEM (R200) -/

/-- MEM_CTRL.MIGRATE_EN -/
def memCtrlMigrateEn : Fld := ⟨"MEM_CTRL.MIGRATE_EN", 0x01400000, 0, 1, .rw, 1, 0, 1, 0, 0, 1, .const 1⟩
/-- MEM_CTRL.HARVEST_EN -/
def memCtrlHarvestEn : Fld := ⟨"MEM_CTRL.HARVEST_EN", 0x01400000, 1, 1, .rw, 1, 0, 1, 0, 0, 1, .const 1⟩
/-- MEM_CTRL.TRAY_EN -/
def memCtrlTrayEn : Fld := ⟨"MEM_CTRL.TRAY_EN", 0x01400000, 2, 1, .rw, 1, 0, 1, 0, 0, 1, .const 1⟩
/-- MEM_STATUS.MIG_ACTIVE -/
def memStatusMigActive : Fld := ⟨"MEM_STATUS.MIG_ACTIVE", 0x01400004, 0, 4, .dv, 1, 0, 1, 0, 0, 15, .const 0⟩
/-- MEM_STATUS.TRAY_UP -/
def memStatusTrayUp : Fld := ⟨"MEM_STATUS.TRAY_UP", 0x01400004, 4, 4, .dv, 1, 0, 1, 0, 0, 15, .const 0⟩
/-- MEM_STATUS.T3_READY -/
def memStatusT3Ready : Fld := ⟨"MEM_STATUS.T3_READY", 0x01400004, 8, 1, .ro, 1, 0, 1, 0, 0, 1, .const 0⟩
/-- MEM_EPOCH.EPOCH_US -/
def memEpochEpochUs : Fld := ⟨"MEM_EPOCH.EPOCH_US", 0x01400008, 0, 16, .rw, 1, 0, 1, 0, 100, 60000, .const 1000⟩
/-- MEM_MIG_CFG.PROMOTE_MIN -/
def memMigCfgPromoteMin : Fld := ⟨"MEM_MIG_CFG.PROMOTE_MIN", 0x0140000C, 0, 16, .rw, 1, 0, 1, 0, 0, 65535, .const 64⟩
/-- MEM_MIG_CFG.HYST -/
def memMigCfgHyst : Fld := ⟨"MEM_MIG_CFG.HYST", 0x0140000C, 16, 16, .rw, 1, 0, 1, 0, 0, 65535, .const 16⟩
/-- MEM_TRAY_TIMEOUT.TIMEOUT_MS -/
def memTrayTimeoutTimeoutMs : Fld := ⟨"MEM_TRAY_TIMEOUT.TIMEOUT_MS", 0x01400010, 0, 10, .rw, 1, 0, 1, 0, 1, 1000, .const 10⟩
/-- MEM_DIR_USED.ENTRIES -/
def memDirUsedEntries : Fld := ⟨"MEM_DIR_USED.ENTRIES", 0x01400014, 0, 21, .dv, 1, 0, 1, 0, 0, 0x1FFFFF, .const 0⟩
/-- MEM_DIR_RECALL.COUNT -/
def memDirRecallCount : Fld := ⟨"MEM_DIR_RECALL.COUNT", 0x01400018, 0, 32, .rc, 1, 0, 1, 0, 0, 0xFFFFFFFF, .const 0⟩
/-- MEM_MIG_ABORT.COUNT -/
def memMigAbortCount : Fld := ⟨"MEM_MIG_ABORT.COUNT", 0x01400024, 0, 32, .rc, 1, 0, 1, 0, 0, 0xFFFFFFFF, .const 0⟩
/-- MEM_PROMOTE.COUNT -/
def memPromoteCount : Fld := ⟨"MEM_PROMOTE.COUNT", 0x0140001C, 0, 32, .ro, 1, 0, 1, 0, 0, 0xFFFFFFFF, .const 0⟩
/-- MEM_DEMOTE.COUNT -/
def memDemoteCount : Fld := ⟨"MEM_DEMOTE.COUNT", 0x01400020, 0, 32, .ro, 1, 0, 1, 0, 0, 0xFFFFFFFF, .const 0⟩
/-- MEM_ERR.BITS -/
def memErrBits : Fld := ⟨"MEM_ERR.BITS", 0x01400028, 0, 7, .w1c, 1, 0, 1, 0, 0, 127, .const 0⟩
/-- MEM_T2_CH.T2CH -/
def memT2ChT2ch : Fld := ⟨"MEM_T2_CH.T2CH", 0x0140002C, 0, 32, .ro, 1, 0, 1, 0, 0, 0xFFFFFFFF, .const 0⟩
/-- MEM_T2_OFFER.FRAMES -/
def memT2OfferFrames : Fld := ⟨"MEM_T2_OFFER.FRAMES", 0x01400030, 0, 21, .ro, 1, 0, 1, 0, 0, 0x1FFFFF, .const 0⟩
/-- MEM_TRAY.UP -/
def memTrayUp : Fld := ⟨"MEM_TRAY.UP", 0x01400040, 0, 1, .ro, 4, 32, 1, 0, 0, 1, .const 0⟩
/-- MEM_TRAY.SPEED -/
def memTraySpeed : Fld := ⟨"MEM_TRAY.SPEED", 0x01400040, 1, 2, .ro, 4, 32, 1, 0, 0, 3, .const 0⟩
/-- MEM_TRAY.WIDTH -/
def memTrayWidth : Fld := ⟨"MEM_TRAY.WIDTH", 0x01400040, 3, 2, .ro, 4, 32, 1, 0, 0, 3, .const 0⟩
/-- MEM_TRAY.DEVICES -/
def memTrayDevices : Fld := ⟨"MEM_TRAY.DEVICES", 0x01400040, 5, 5, .ro, 4, 32, 1, 0, 0, 31, .const 0⟩
/-- MEM_TRAY.LOST -/
def memTrayLost : Fld := ⟨"MEM_TRAY.LOST", 0x01400040, 10, 1, .ro, 4, 32, 1, 0, 0, 1, .const 0⟩
/-- MEM_TRAY.CAP_GIB -/
def memTrayCapGib : Fld := ⟨"MEM_TRAY.CAP_GIB", 0x01400040, 16, 15, .ro, 4, 32, 1, 0, 0, 32767, .const 0⟩
/-- MEM_HV.ADDR -/
def memHvAddr : Fld := ⟨"MEM_HV.ADDR", 0x01400080, 4, 60, .rw, 8, 128, 1, 0, 0, 0xFFFFFFFFFFFFFFF, .const 0⟩
/-- MEM_HV_CFG.ENTRIES -/
def memHvCfgEntries : Fld := ⟨"MEM_HV_CFG.ENTRIES", 0x01400088, 0, 13, .rw, 8, 128, 1, 0, 0, 4096, .const 0⟩
/-- MEM_HV_CFG.LODGE -/
def memHvCfgLodge : Fld := ⟨"MEM_HV_CFG.LODGE", 0x01400088, 16, 4, .rw, 8, 128, 1, 0, 0, 15, .const 0⟩
/-- MEM_HV_POS.ENTRY -/
def memHvPosEntry : Fld := ⟨"MEM_HV_POS.ENTRY", 0x0140008C, 0, 12, .ro, 8, 128, 1, 0, 0, 4095, .const 0⟩
/-- MEM_LODGE_CFG.ENCRYPT -/
def memLodgeCfgEncrypt : Fld := ⟨"MEM_LODGE_CFG.ENCRYPT", 0x01401000, 0, 1, .rw, 16, 512, 1, 0, 0, 1, .const 0⟩
/-- MEM_LODGE_CFG.KEY_READY -/
def memLodgeCfgKeyReady : Fld := ⟨"MEM_LODGE_CFG.KEY_READY", 0x01401000, 1, 1, .ro, 16, 512, 1, 0, 0, 1, .const 0⟩
/-- MEM_LODGE_CFG.HARVEST_PAGES -/
def memLodgeCfgHarvestPages : Fld := ⟨"MEM_LODGE_CFG.HARVEST_PAGES", 0x01401000, 2, 18, .rw, 16, 512, 1, 0, 0, 0x3FFFF, .const 0⟩
/-- MEM_RES.FRAMES -/
def memResFrames : Fld := ⟨"MEM_RES.FRAMES", 0x01401010, 0, 26, .rw, 16, 512, 3, 128, 0, 0x3FFFFFF, .const 0⟩
/-- MEM_LIM.FRAMES -/
def memLimFrames : Fld := ⟨"MEM_LIM.FRAMES", 0x01401014, 0, 26, .rw, 16, 512, 3, 128, 0, 0x3FFFFFF, .const 0⟩
/-- MEM_USE.FRAMES -/
def memUseFrames : Fld := ⟨"MEM_USE.FRAMES", 0x01401018, 0, 26, .dv, 16, 512, 3, 128, 0, 0x3FFFFFF, .const 0⟩

/-- The MEM block. -/
def blockMem : List Fld :=
  [memCtrlMigrateEn, memCtrlHarvestEn, memCtrlTrayEn, memStatusMigActive, memStatusTrayUp, memStatusT3Ready,
   memEpochEpochUs, memMigCfgPromoteMin, memMigCfgHyst, memTrayTimeoutTimeoutMs, memDirUsedEntries, memDirRecallCount,
   memMigAbortCount, memPromoteCount, memDemoteCount, memErrBits, memT2ChT2ch, memT2OfferFrames,
   memTrayUp, memTraySpeed, memTrayWidth, memTrayDevices, memTrayLost, memTrayCapGib,
   memHvAddr, memHvCfgEntries, memHvCfgLodge, memHvPosEntry, memLodgeCfgEncrypt, memLodgeCfgKeyReady,
   memLodgeCfgHarvestPages, memResFrames, memLimFrames, memUseFrames]

/-! LDG (R231) -/

/-- LDG_CTRL.ENABLE -/
def ldgCtrlEnable : Fld := ⟨"LDG_CTRL.ENABLE", 0x00C00000, 0, 1, .rw, 1, 0, 1, 0, 0, 1, .const 1⟩
/-- LDG_CTRL.LO_EN -/
def ldgCtrlLoEn : Fld := ⟨"LDG_CTRL.LO_EN", 0x00C00000, 1, 1, .rw, 1, 0, 1, 0, 0, 1, .const 1⟩
/-- LDG_FREE.COUNT -/
def ldgFreeCount : Fld := ⟨"LDG_FREE.COUNT", 0x00C00004, 0, 17, .dv, 1, 0, 1, 0, 0, 0x1FFFF, .const 65536⟩
/-- LDG_ACTIVE.COUNT -/
def ldgActiveCount : Fld := ⟨"LDG_ACTIVE.COUNT", 0x00C00008, 0, 17, .dv, 1, 0, 1, 0, 0, 0x1FFFF, .const 0⟩
/-- LDG_ADMIT_CNT.COUNT -/
def ldgAdmitCntCount : Fld := ⟨"LDG_ADMIT_CNT.COUNT", 0x00C0000C, 0, 32, .ro, 1, 0, 1, 0, 0, 0xFFFFFFFF, .const 0⟩
/-- LDG_LO_SWITCH.COUNT -/
def ldgLoSwitchCount : Fld := ⟨"LDG_LO_SWITCH.COUNT", 0x00C00010, 0, 32, .ro, 1, 0, 1, 0, 0, 0xFFFFFFFF, .const 0⟩
/-- LDG_REJECT_CNT.COUNT -/
def ldgRejectCntCount : Fld := ⟨"LDG_REJECT_CNT.COUNT", 0x00C00014, 0, 32, .rc, 1, 0, 1, 0, 0, 0xFFFFFFFF, .const 0⟩
/-- LDG_RING_STALL.COUNT -/
def ldgRingStallCount : Fld := ⟨"LDG_RING_STALL.COUNT", 0x00C00018, 0, 32, .rc, 1, 0, 1, 0, 0, 0xFFFFFFFF, .const 0⟩
/-- LDG_ERR.BITS -/
def ldgErrBits : Fld := ⟨"LDG_ERR.BITS", 0x00C0001C, 0, 3, .w1c, 1, 0, 1, 0, 0, 7, .const 0⟩
/-- LDG_PREFILL_TIMEOUT.TIMEOUT_MS -/
def ldgPrefillTimeoutTimeoutMs : Fld := ⟨"LDG_PREFILL_TIMEOUT.TIMEOUT_MS", 0x00C00020, 0, 16, .rw, 1, 0, 1, 0, 10, 60000, .const 1000⟩
/-- LDG_LIST.ADDR -/
def ldgListAddr : Fld := ⟨"LDG_LIST.ADDR", 0x00C00100, 12, 52, .rw, 16, 128, 1, 0, 0, 0xFFFFFFFFFFFFF, .const 0⟩
/-- LDG_LIST_SIZE.BLOCKS -/
def ldgListSizeBlocks : Fld := ⟨"LDG_LIST_SIZE.BLOCKS", 0x00C00108, 0, 20, .rw, 16, 128, 1, 0, 0, 0xFFFFF, .const 0⟩
/-- LDG_MODEL_CFG.VALID -/
def ldgModelCfgValid : Fld := ⟨"LDG_MODEL_CFG.VALID", 0x00C00400, 0, 1, .rw, 8, 1024, 1, 0, 0, 1, .const 0⟩
/-- LDG_MODEL_CFG.LODGE -/
def ldgModelCfgLodge : Fld := ⟨"LDG_MODEL_CFG.LODGE", 0x00C00400, 4, 4, .rw, 8, 1024, 1, 0, 0, 15, .const 0⟩
/-- LDG_MODEL_CFG.MAX_DRAFT -/
def ldgModelCfgMaxDraft : Fld := ⟨"LDG_MODEL_CFG.MAX_DRAFT", 0x00C00400, 8, 4, .rw, 8, 1024, 1, 0, 0, 8, .const 0⟩
/-- LDG_MODEL_CFG.KV_POOL -/
def ldgModelCfgKvPool : Fld := ⟨"LDG_MODEL_CFG.KV_POOL", 0x00C00400, 12, 3, .rw, 8, 1024, 1, 0, 0, 7, .const 0⟩
/-- LDG_MODEL_CFG.NSTEER -/
def ldgModelCfgNsteer : Fld := ⟨"LDG_MODEL_CFG.NSTEER", 0x00C00400, 16, 8, .rw, 8, 1024, 1, 0, 0, 128, .const 0⟩
/-- LDG_MODEL_CFG.INIT_RATE -/
def ldgModelCfgInitRate : Fld := ⟨"LDG_MODEL_CFG.INIT_RATE", 0x00C00400, 24, 8, .rw, 8, 1024, 1, 0, 16, 144, .const 16⟩
/-- LDG_MODEL_BATCH.BATCH_MAX -/
def ldgModelBatchBatchMax : Fld := ⟨"LDG_MODEL_BATCH.BATCH_MAX", 0x00C00404, 0, 13, .rw, 8, 1024, 1, 0, 1, 4096, .const 4096⟩
/-- LDG_MODEL_BATCH.PREFILL_TOKENS -/
def ldgModelBatchPrefillTokens : Fld := ⟨"LDG_MODEL_BATCH.PREFILL_TOKENS", 0x00C00404, 16, 13, .rw, 8, 1024, 1, 0, 32, 4096, .const 2048⟩
/-- LDG_MODEL_MARGIN.MARGIN_US -/
def ldgModelMarginMarginUs : Fld := ⟨"LDG_MODEL_MARGIN.MARGIN_US", 0x00C00408, 0, 20, .rw, 8, 1024, 1, 0, 0, 0xFFFFF, .const 2000⟩
/-- LDG_MODEL_HOME.HOME -/
def ldgModelHomeHome : Fld := ⟨"LDG_MODEL_HOME.HOME", 0x00C0040C, 0, 24, .rw, 8, 1024, 1, 0, 0, 0xFFFFFF, .const 0xFFFFFF⟩
/-- LDG_MODEL_HOME.HOME_POOL -/
def ldgModelHomeHomePool : Fld := ⟨"LDG_MODEL_HOME.HOME_POOL", 0x00C0040C, 24, 3, .rw, 8, 1024, 1, 0, 0, 7, .const 0⟩
/-- LDG_PROMPT.MASK -/
def ldgPromptMask : Fld := ⟨"LDG_PROMPT.MASK", 0x00C00410, 0, 64, .rw, 8, 1024, 1, 0, 0, 0xFFFFFFFFFFFFFFFF, .const 0⟩
/-- LDG_EST.ADDR -/
def ldgEstAddr : Fld := ⟨"LDG_EST.ADDR", 0x00C00418, 6, 58, .rw, 8, 1024, 1, 0, 0, 0x3FFFFFFFFFFFFFF, .const 0⟩
/-- LDG_BASIS.ADDR -/
def ldgBasisAddr : Fld := ⟨"LDG_BASIS.ADDR", 0x00C00420, 4, 60, .rw, 8, 1024, 1, 0, 0, 0xFFFFFFFFFFFFFFF, .const 0⟩
/-- LDG_LIVERY.ADDR -/
def ldgLiveryAddr : Fld := ⟨"LDG_LIVERY.ADDR", 0x00C00428, 13, 51, .rw, 8, 1024, 1, 0, 0, 0x7FFFFFFFFFFFF, .const 0⟩
/-- LDG_LIVERY_CAP.CAP -/
def ldgLiveryCapCap : Fld := ⟨"LDG_LIVERY_CAP.CAP", 0x00C00430, 0, 17, .rw, 8, 1024, 1, 0, 0, 0x10000, .const 0⟩
/-- LDG_KEY.KEY -/
def ldgKeyKey : Fld := ⟨"LDG_KEY.KEY", 0x00C00434, 0, 48, .rw, 8, 1024, 1, 0, 0, 0xFFFFFFFFFFFF, .const 0⟩
/-- LDG_STEP_NS.VALUE -/
def ldgStepNsValue : Fld := ⟨"LDG_STEP_NS.VALUE", 0x00C0043C, 0, 32, .ro, 8, 1024, 1, 0, 0, 0xFFFFFFFF, .const 0⟩
/-- LDG_STEP_CNT.VALUE -/
def ldgStepCntValue : Fld := ⟨"LDG_STEP_CNT.VALUE", 0x00C00440, 0, 32, .ro, 8, 1024, 1, 0, 0, 0xFFFFFFFF, .const 0⟩
/-- LDG_BATCH.VALUE -/
def ldgBatchValue : Fld := ⟨"LDG_BATCH.VALUE", 0x00C00444, 0, 32, .ro, 8, 1024, 1, 0, 0, 0xFFFFFFFF, .const 0⟩

/-- The LDG block. -/
def blockLdg : List Fld :=
  [ldgCtrlEnable, ldgCtrlLoEn, ldgFreeCount, ldgActiveCount, ldgAdmitCntCount, ldgLoSwitchCount,
   ldgRejectCntCount, ldgRingStallCount, ldgErrBits, ldgPrefillTimeoutTimeoutMs, ldgListAddr, ldgListSizeBlocks,
   ldgModelCfgValid, ldgModelCfgLodge, ldgModelCfgMaxDraft, ldgModelCfgKvPool, ldgModelCfgNsteer, ldgModelCfgInitRate,
   ldgModelBatchBatchMax, ldgModelBatchPrefillTokens, ldgModelMarginMarginUs, ldgModelHomeHome, ldgModelHomeHomePool, ldgPromptMask,
   ldgEstAddr, ldgBasisAddr, ldgLiveryAddr, ldgLiveryCapCap, ldgKeyKey, ldgStepNsValue,
   ldgStepCntValue, ldgBatchValue]

/-! WAN (R256) -/

/-- WAN_CTRL.ENABLE -/
def wanCtrlEnable : Fld := ⟨"WAN_CTRL.ENABLE", 0x03400000, 0, 1, .rw, 1, 0, 1, 0, 0, 1, .const 1⟩
/-- WAN_CTRL.COMP_EN -/
def wanCtrlCompEn : Fld := ⟨"WAN_CTRL.COMP_EN", 0x03400000, 1, 1, .rw, 1, 0, 1, 0, 0, 1, .const 1⟩
/-- WAN_CTRL.LEDGER_ENG -/
def wanCtrlLedgerEng : Fld := ⟨"WAN_CTRL.LEDGER_ENG", 0x03400000, 2, 2, .rw, 1, 0, 1, 0, 1, 3, .const 2⟩
/-- WAN_CFG.RESEND_MAX -/
def wanCfgResendMax : Fld := ⟨"WAN_CFG.RESEND_MAX", 0x03400004, 0, 4, .rw, 1, 0, 1, 0, 1, 15, .const 3⟩
/-- WAN_CFG.WINDOW -/
def wanCfgWindow : Fld := ⟨"WAN_CFG.WINDOW", 0x03400004, 4, 5, .rw, 1, 0, 1, 0, 1, 16, .const 16⟩
/-- WAN_CFG.STREAMS -/
def wanCfgStreams : Fld := ⟨"WAN_CFG.STREAMS", 0x03400004, 9, 4, .rw, 1, 0, 1, 0, 1, 8, .const 8⟩
/-- WAN_TIMEOUT.TIMEOUT_US -/
def wanTimeoutTimeoutUs : Fld := ⟨"WAN_TIMEOUT.TIMEOUT_US", 0x03400008, 0, 12, .rw, 1, 0, 1, 0, 50, 4000, .const 1000⟩
/-- WAN_TIMEOUT.HANDOVER_US -/
def wanTimeoutHandoverUs : Fld := ⟨"WAN_TIMEOUT.HANDOVER_US", 0x03400008, 16, 12, .rw, 1, 0, 1, 0, 100, 4000, .const 2000⟩
/-- WAN_STATUS.BUSY -/
def wanStatusBusy : Fld := ⟨"WAN_STATUS.BUSY", 0x0340000C, 0, 16, .dv, 1, 0, 1, 0, 0, 65535, .const 0⟩
/-- WAN_STATUS.STREAMS -/
def wanStatusStreams : Fld := ⟨"WAN_STATUS.STREAMS", 0x0340000C, 16, 8, .dv, 1, 0, 1, 0, 0, 255, .const 0⟩
/-- WAN_BLK_TX.COUNT -/
def wanBlkTxCount : Fld := ⟨"WAN_BLK_TX.COUNT", 0x03400010, 0, 32, .ro, 1, 0, 1, 0, 0, 0xFFFFFFFF, .const 0⟩
/-- WAN_BLK_RX.COUNT -/
def wanBlkRxCount : Fld := ⟨"WAN_BLK_RX.COUNT", 0x03400014, 0, 32, .ro, 1, 0, 1, 0, 0, 0xFFFFFFFF, .const 0⟩
/-- WAN_RAW.COUNT -/
def wanRawCount : Fld := ⟨"WAN_RAW.COUNT", 0x03400018, 0, 64, .ro, 1, 0, 1, 0, 0, 0xFFFFFFFFFFFFFFFF, .const 0⟩
/-- WAN_WIRE.COUNT -/
def wanWireCount : Fld := ⟨"WAN_WIRE.COUNT", 0x03400020, 0, 64, .ro, 1, 0, 1, 0, 0, 0xFFFFFFFFFFFFFFFF, .const 0⟩
/-- WAN_NAK_TX.COUNT -/
def wanNakTxCount : Fld := ⟨"WAN_NAK_TX.COUNT", 0x03400028, 0, 32, .rc, 1, 0, 1, 0, 0, 0xFFFFFFFF, .const 0⟩
/-- WAN_NAK_RX.COUNT -/
def wanNakRxCount : Fld := ⟨"WAN_NAK_RX.COUNT", 0x0340002C, 0, 32, .rc, 1, 0, 1, 0, 0, 0xFFFFFFFF, .const 0⟩
/-- WAN_RESEND.COUNT -/
def wanResendCount : Fld := ⟨"WAN_RESEND.COUNT", 0x03400030, 0, 32, .rc, 1, 0, 1, 0, 0, 0xFFFFFFFF, .const 0⟩
/-- WAN_HANDOVER.COUNT -/
def wanHandoverCount : Fld := ⟨"WAN_HANDOVER.COUNT", 0x03400034, 0, 32, .ro, 1, 0, 1, 0, 0, 0xFFFFFFFF, .const 0⟩
/-- WAN_HO_FAIL.COUNT -/
def wanHoFailCount : Fld := ⟨"WAN_HO_FAIL.COUNT", 0x03400038, 0, 32, .rc, 1, 0, 1, 0, 0, 0xFFFFFFFF, .const 0⟩
/-- WAN_STALE.COUNT -/
def wanStaleCount : Fld := ⟨"WAN_STALE.COUNT", 0x0340003C, 0, 32, .rc, 1, 0, 1, 0, 0, 0xFFFFFFFF, .const 0⟩
/-- WAN_ERR.BITS -/
def wanErrBits : Fld := ⟨"WAN_ERR.BITS", 0x03400040, 0, 4, .w1c, 1, 0, 1, 0, 0, 15, .const 0⟩
/-- WAN_ENG.STREAMS -/
def wanEngStreams : Fld := ⟨"WAN_ENG.STREAMS", 0x03400100, 0, 4, .dv, 16, 32, 1, 0, 0, 15, .const 0⟩
/-- WAN_ENG.RESERVED -/
def wanEngReserved : Fld := ⟨"WAN_ENG.RESERVED", 0x03400100, 4, 1, .dv, 16, 32, 1, 0, 0, 1, .const 0⟩

/-- The WAN block. -/
def blockWan : List Fld :=
  [wanCtrlEnable, wanCtrlCompEn, wanCtrlLedgerEng, wanCfgResendMax, wanCfgWindow, wanCfgStreams,
   wanTimeoutTimeoutUs, wanTimeoutHandoverUs, wanStatusBusy, wanStatusStreams, wanBlkTxCount, wanBlkRxCount,
   wanRawCount, wanWireCount, wanNakTxCount, wanNakRxCount, wanResendCount, wanHandoverCount,
   wanHoFailCount, wanStaleCount, wanErrBits, wanEngStreams, wanEngReserved]

/-! EMB (R273) -/

/-- EMB_CTRL.ENABLE -/
def embCtrlEnable : Fld := ⟨"EMB_CTRL.ENABLE", 0x03800000, 0, 1, .rw, 1, 0, 1, 0, 0, 1, .const 1⟩
/-- EMB_TIMEOUT.TIMEOUT_US -/
def embTimeoutTimeoutUs : Fld := ⟨"EMB_TIMEOUT.TIMEOUT_US", 0x03800004, 0, 12, .rw, 1, 0, 1, 0, 50, 4000, .const 1000⟩
/-- EMB_QUEUE.DEPTH -/
def embQueueDepth : Fld := ⟨"EMB_QUEUE.DEPTH", 0x03800008, 0, 10, .dv, 1, 0, 1, 0, 0, 1023, .const 0⟩
/-- EMB_REQ_CNT.COUNT -/
def embReqCntCount : Fld := ⟨"EMB_REQ_CNT.COUNT", 0x0380000C, 0, 32, .ro, 1, 0, 1, 0, 0, 0xFFFFFFFF, .const 0⟩
/-- EMB_UPD_CNT.COUNT -/
def embUpdCntCount : Fld := ⟨"EMB_UPD_CNT.COUNT", 0x03800010, 0, 32, .ro, 1, 0, 1, 0, 0, 0xFFFFFFFF, .const 0⟩
/-- EMB_IDX.COUNT -/
def embIdxCount : Fld := ⟨"EMB_IDX.COUNT", 0x03800014, 0, 64, .ro, 1, 0, 1, 0, 0, 0xFFFFFFFFFFFFFFFF, .const 0⟩
/-- EMB_CONFLICT.COUNT -/
def embConflictCount : Fld := ⟨"EMB_CONFLICT.COUNT", 0x0380001C, 0, 32, .rc, 1, 0, 1, 0, 0, 0xFFFFFFFF, .const 0⟩
/-- EMB_PF_SKIP.COUNT -/
def embPfSkipCount : Fld := ⟨"EMB_PF_SKIP.COUNT", 0x03800020, 0, 32, .rc, 1, 0, 1, 0, 0, 0xFFFFFFFF, .const 0⟩
/-- EMB_BADIDX.COUNT -/
def embBadidxCount : Fld := ⟨"EMB_BADIDX.COUNT", 0x03800024, 0, 32, .rc, 1, 0, 1, 0, 0, 0xFFFFFFFF, .const 0⟩
/-- EMB_TIMEOUT_CNT.COUNT -/
def embTimeoutCntCount : Fld := ⟨"EMB_TIMEOUT_CNT.COUNT", 0x03800028, 0, 32, .rc, 1, 0, 1, 0, 0, 0xFFFFFFFF, .const 0⟩
/-- EMB_ERR.BITS -/
def embErrBits : Fld := ⟨"EMB_ERR.BITS", 0x0380002C, 0, 5, .w1c, 1, 0, 1, 0, 0, 31, .const 0⟩
/-- EMB_TBL.ADDR -/
def embTblAddr : Fld := ⟨"EMB_TBL.ADDR", 0x03800100, 6, 58, .rw, 16, 64, 1, 0, 0, 0x3FFFFFFFFFFFFFF, .const 0⟩

/-- The EMB block. -/
def blockEmb : List Fld :=
  [embCtrlEnable, embTimeoutTimeoutUs, embQueueDepth, embReqCntCount, embUpdCntCount, embIdxCount,
   embConflictCount, embPfSkipCount, embBadidxCount, embTimeoutCntCount, embErrBits, embTblAddr]

/-! LOD (R299) -/

/-- LOD_CMD.OP -/
def lodCmdOp : Fld := ⟨"LOD_CMD.OP", 0x01000000, 0, 4, .wo, 1, 0, 1, 0, 0, 15, .const 0⟩
/-- LOD_CMD.LODGE -/
def lodCmdLodge : Fld := ⟨"LOD_CMD.LODGE", 0x01000000, 8, 8, .wo, 1, 0, 1, 0, 0, 255, .const 0⟩
/-- LOD_CMD.CLEAR -/
def lodCmdClear : Fld := ⟨"LOD_CMD.CLEAR", 0x01000000, 16, 1, .wo, 1, 0, 1, 0, 0, 1, .const 0⟩
/-- LOD_CMD.FREE -/
def lodCmdFree : Fld := ⟨"LOD_CMD.FREE", 0x01000000, 17, 1, .wo, 1, 0, 1, 0, 0, 1, .const 0⟩
/-- LOD_CMD_ARG.TENANT -/
def lodCmdArgTenant : Fld := ⟨"LOD_CMD_ARG.TENANT", 0x01000004, 0, 24, .rw, 1, 0, 1, 0, 0, 0xFFFFFF, .const 0⟩
/-- LOD_CMD_ADDR.ADDR -/
def lodCmdAddrAddr : Fld := ⟨"LOD_CMD_ADDR.ADDR", 0x01000008, 8, 56, .rw, 1, 0, 1, 0, 0, 0xFFFFFFFFFFFFFF, .const 0⟩
/-- LOD_CMD_STATUS.BUSY -/
def lodCmdStatusBusy : Fld := ⟨"LOD_CMD_STATUS.BUSY", 0x01000010, 0, 1, .ro, 1, 0, 1, 0, 0, 1, .const 0⟩
/-- LOD_CMD_STATUS.STATUS -/
def lodCmdStatusStatus : Fld := ⟨"LOD_CMD_STATUS.STATUS", 0x01000010, 8, 8, .ro, 1, 0, 1, 0, 0, 255, .const 0⟩
/-- LOD_CMD_STATUS.LODGE -/
def lodCmdStatusLodge : Fld := ⟨"LOD_CMD_STATUS.LODGE", 0x01000010, 16, 4, .ro, 1, 0, 1, 0, 0, 15, .const 0⟩
/-- LOD_CMD_RESULT.COUNT -/
def lodCmdResultCount : Fld := ⟨"LOD_CMD_RESULT.COUNT", 0x01000014, 0, 32, .ro, 1, 0, 1, 0, 0, 0xFFFFFFFF, .const 0⟩
/-- LOD_PERSONA.PERSONA -/
def lodPersonaPersona : Fld := ⟨"LOD_PERSONA.PERSONA", 0x01000018, 0, 2, .rw, 1, 0, 1, 0, 0, 3, .const 0⟩
/-- LOD_PERSONA.DRAIN -/
def lodPersonaDrain : Fld := ⟨"LOD_PERSONA.DRAIN", 0x01000018, 2, 1, .rw, 1, 0, 1, 0, 0, 1, .const 0⟩
/-- LOD_PERSONA.DRAINED -/
def lodPersonaDrained : Fld := ⟨"LOD_PERSONA.DRAINED", 0x01000018, 3, 1, .dv, 1, 0, 1, 0, 0, 1, .const 1⟩
/-- LOD_PERSONA.PERSONA_BUSY -/
def lodPersonaPersonaBusy : Fld := ⟨"LOD_PERSONA.PERSONA_BUSY", 0x01000018, 4, 1, .ro, 1, 0, 1, 0, 0, 1, .const 0⟩
/-- LOD_SCHED.PREEMPT_EN -/
def lodSchedPreemptEn : Fld := ⟨"LOD_SCHED.PREEMPT_EN", 0x0100001C, 0, 1, .rw, 1, 0, 1, 0, 0, 1, .const 1⟩
/-- LOD_SCHED.KILL_LIMIT -/
def lodSchedKillLimit : Fld := ⟨"LOD_SCHED.KILL_LIMIT", 0x0100001C, 4, 4, .rw, 1, 0, 1, 0, 1, 15, .const 4⟩
/-- LOD_CLIENT_FREE.COUNT -/
def lodClientFreeCount : Fld := ⟨"LOD_CLIENT_FREE.COUNT", 0x01000020, 0, 17, .dv, 1, 0, 1, 0, 0, 0x1FFFF, .const 65536⟩
/-- LOD_ERR.BITS -/
def lodErrBits : Fld := ⟨"LOD_ERR.BITS", 0x01000024, 0, 4, .w1c, 1, 0, 1, 0, 0, 15, .const 0⟩
/-- LOD_PATH_CAP.BYTES_PER_US -/
def lodPathCapBytesPerUs : Fld := ⟨"LOD_PATH_CAP.BYTES_PER_US", 0x01000040, 0, 32, .ro, 6, 32, 1, 0, 0, 0xFFFFFFFF, .const 0⟩
/-- LOD_RING.CLIENT -/
def lodRingClient : Fld := ⟨"LOD_RING.CLIENT", 0x01000800, 0, 16, .rw, 256, 32, 1, 0, 0, 65535, .const 0⟩
/-- LOD_RING.CLASS -/
def lodRingClass : Fld := ⟨"LOD_RING.CLASS", 0x01000800, 16, 3, .rw, 256, 32, 1, 0, 0, 7, .const 0⟩
/-- LOD_CFG.WEIGHT -/
def lodCfgWeight : Fld := ⟨"LOD_CFG.WEIGHT", 0x01001000, 0, 8, .rw, 16, 2048, 1, 0, 1, 255, .const 16⟩
/-- LOD_CFG.CORE_MIN -/
def lodCfgCoreMin : Fld := ⟨"LOD_CFG.CORE_MIN", 0x01001000, 8, 8, .rw, 16, 2048, 1, 0, 0, 160, .const 0⟩
/-- LOD_CFG.CORE_MAX -/
def lodCfgCoreMax : Fld := ⟨"LOD_CFG.CORE_MAX", 0x01001000, 16, 8, .rw, 16, 2048, 1, 0, 1, 160, .const 160⟩
/-- LOD_CS_QUOTA.PAGES -/
def lodCsQuotaPages : Fld := ⟨"LOD_CS_QUOTA.PAGES", 0x01001004, 0, 10, .rw, 16, 2048, 1, 0, 0, 1023, .const 0⟩
/-- LOD_STATE.STATE -/
def lodStateState : Fld := ⟨"LOD_STATE.STATE", 0x01001008, 0, 3, .ro, 16, 2048, 1, 0, 0, 7, .const 0⟩
/-- LOD_STATE.TENANTS -/
def lodStateTenants : Fld := ⟨"LOD_STATE.TENANTS", 0x01001008, 16, 16, .dv, 16, 2048, 1, 0, 0, 65535, .const 0⟩
/-- LOD_FAULT.STATUS -/
def lodFaultStatus : Fld := ⟨"LOD_FAULT.STATUS", 0x0100100C, 0, 8, .ro, 16, 2048, 1, 0, 0, 255, .const 0⟩
/-- LOD_FAULT.SOURCE -/
def lodFaultSource : Fld := ⟨"LOD_FAULT.SOURCE", 0x0100100C, 8, 4, .ro, 16, 2048, 1, 0, 0, 15, .const 0⟩
/-- LOD_FAULT.FAULT_CNT -/
def lodFaultFaultCnt : Fld := ⟨"LOD_FAULT.FAULT_CNT", 0x0100100C, 12, 4, .ro, 16, 2048, 1, 0, 0, 15, .const 0⟩
/-- LOD_FAULT.CORE -/
def lodFaultCore : Fld := ⟨"LOD_FAULT.CORE", 0x0100100C, 16, 8, .ro, 16, 2048, 1, 0, 0, 255, .const 0⟩
/-- LOD_FAULT.RING -/
def lodFaultRing : Fld := ⟨"LOD_FAULT.RING", 0x0100100C, 24, 8, .ro, 16, 2048, 1, 0, 0, 255, .const 0⟩
/-- LOD_FAULT_TAG.TAG -/
def lodFaultTagTag : Fld := ⟨"LOD_FAULT_TAG.TAG", 0x01001010, 0, 16, .ro, 16, 2048, 1, 0, 0, 65535, .const 0⟩
/-- LOD_FAULT_TIME.VALUE -/
def lodFaultTimeValue : Fld := ⟨"LOD_FAULT_TIME.VALUE", 0x01001014, 0, 64, .ro, 16, 2048, 1, 0, 0, 0xFFFFFFFFFFFFFFFF, .const 0⟩
/-- LOD_CORES.COMPUTE -/
def lodCoresCompute : Fld := ⟨"LOD_CORES.COMPUTE", 0x0100101C, 0, 8, .dv, 16, 2048, 1, 0, 0, 255, .const 0⟩
/-- LOD_CORES.NEAR -/
def lodCoresNear : Fld := ⟨"LOD_CORES.NEAR", 0x0100101C, 8, 8, .dv, 16, 2048, 1, 0, 0, 255, .const 0⟩
/-- LOD_CORES.WAIN -/
def lodCoresWain : Fld := ⟨"LOD_CORES.WAIN", 0x0100101C, 16, 8, .dv, 16, 2048, 1, 0, 0, 255, .const 0⟩
/-- LOD_PREEMPT.COUNT -/
def lodPreemptCount : Fld := ⟨"LOD_PREEMPT.COUNT", 0x01001020, 0, 32, .ro, 16, 2048, 1, 0, 0, 0xFFFFFFFF, .const 0⟩
/-- LOD_MIN.SHARE -/
def lodMinShare : Fld := ⟨"LOD_MIN.SHARE", 0x01001040, 0, 11, .rw, 16, 2048, 6, 128, 0, 1008, .const 0⟩
/-- LOD_MAX.SHARE -/
def lodMaxShare : Fld := ⟨"LOD_MAX.SHARE", 0x01001044, 0, 11, .rw, 16, 2048, 6, 128, 1, 1024, .const 1024⟩
/-- LOD_BURST.KIB -/
def lodBurstKib : Fld := ⟨"LOD_BURST.KIB", 0x01001048, 0, 20, .rw, 16, 2048, 6, 128, 1, 0xFFFFF, .const 1024⟩
/-- LOD_THROTTLE.COUNT -/
def lodThrottleCount : Fld := ⟨"LOD_THROTTLE.COUNT", 0x0100104C, 0, 32, .rc, 16, 2048, 6, 128, 0, 0xFFFFFFFF, .const 0⟩

/-- The LOD block. -/
def blockLod : List Fld :=
  [lodCmdOp, lodCmdLodge, lodCmdClear, lodCmdFree, lodCmdArgTenant, lodCmdAddrAddr,
   lodCmdStatusBusy, lodCmdStatusStatus, lodCmdStatusLodge, lodCmdResultCount, lodPersonaPersona, lodPersonaDrain,
   lodPersonaDrained, lodPersonaPersonaBusy, lodSchedPreemptEn, lodSchedKillLimit, lodClientFreeCount, lodErrBits,
   lodPathCapBytesPerUs, lodRingClient, lodRingClass, lodCfgWeight, lodCfgCoreMin, lodCfgCoreMax,
   lodCsQuotaPages, lodStateState, lodStateTenants, lodFaultStatus, lodFaultSource, lodFaultFaultCnt,
   lodFaultCore, lodFaultRing, lodFaultTagTag, lodFaultTimeValue, lodCoresCompute, lodCoresNear,
   lodCoresWain, lodPreemptCount, lodMinShare, lodMaxShare, lodBurstKib, lodThrottleCount]

/-! TLY (R320) -/

/-- TLY_CTRL.WD_EN -/
def tlyCtrlWdEn : Fld := ⟨"TLY_CTRL.WD_EN", 0x03000000, 0, 1, .rw, 1, 0, 1, 0, 0, 1, .const 1⟩
/-- TLY_SPIN.SPIN_US -/
def tlySpinSpinUs : Fld := ⟨"TLY_SPIN.SPIN_US", 0x03000004, 0, 16, .rw, 1, 0, 1, 0, 100, 60000, .const 20000⟩
/-- TLY_FREE.COUNT -/
def tlyFreeCount : Fld := ⟨"TLY_FREE.COUNT", 0x03000008, 0, 14, .dv, 1, 0, 1, 0, 0, 16383, .const 8192⟩
/-- TLY_BLOCKED.COUNT -/
def tlyBlockedCount : Fld := ⟨"TLY_BLOCKED.COUNT", 0x0300000C, 0, 32, .rc, 1, 0, 1, 0, 0, 0xFFFFFFFF, .const 0⟩
/-- TLY_OVF.COUNT -/
def tlyOvfCount : Fld := ⟨"TLY_OVF.COUNT", 0x03000010, 0, 32, .rc, 1, 0, 1, 0, 0, 0xFFFFFFFF, .const 0⟩
/-- TLY_SPIN_FAULT.COUNT -/
def tlySpinFaultCount : Fld := ⟨"TLY_SPIN_FAULT.COUNT", 0x03000014, 0, 32, .rc, 1, 0, 1, 0, 0, 0xFFFFFFFF, .const 0⟩
/-- TLY_RECKON_CNT.COUNT -/
def tlyReckonCntCount : Fld := ⟨"TLY_RECKON_CNT.COUNT", 0x03000018, 0, 32, .ro, 1, 0, 1, 0, 0, 0xFFFFFFFF, .const 0⟩
/-- TLY_ERR.BITS -/
def tlyErrBits : Fld := ⟨"TLY_ERR.BITS", 0x0300001C, 0, 4, .w1c, 1, 0, 1, 0, 0, 15, .const 0⟩
/-- TLY_DUMP.ADDR -/
def tlyDumpAddr : Fld := ⟨"TLY_DUMP.ADDR", 0x03000020, 6, 58, .rw, 1, 0, 1, 0, 0, 0x3FFFFFFFFFFFFFF, .const 0⟩
/-- TLY_DUMP_CMD.START -/
def tlyDumpCmdStart : Fld := ⟨"TLY_DUMP_CMD.START", 0x03000028, 0, 1, .wo, 1, 0, 1, 0, 0, 1, .const 0⟩
/-- TLY_DUMP_CMD.ALL -/
def tlyDumpCmdAll : Fld := ⟨"TLY_DUMP_CMD.ALL", 0x03000028, 1, 1, .wo, 1, 0, 1, 0, 0, 1, .const 0⟩
/-- TLY_DUMP_CMD.LODGE -/
def tlyDumpCmdLodge : Fld := ⟨"TLY_DUMP_CMD.LODGE", 0x03000028, 8, 4, .wo, 1, 0, 1, 0, 0, 15, .const 0⟩
/-- TLY_DUMP_CMD.BUSY -/
def tlyDumpCmdBusy : Fld := ⟨"TLY_DUMP_CMD.BUSY", 0x03000028, 16, 1, .ro, 1, 0, 1, 0, 0, 1, .const 0⟩
/-- TLY_DUMP_LEN.BYTES -/
def tlyDumpLenBytes : Fld := ⟨"TLY_DUMP_LEN.BYTES", 0x0300002C, 0, 32, .ro, 1, 0, 1, 0, 0, 0xFFFFFFFF, .const 0⟩
/-- TLY_QUOTA.QUOTA -/
def tlyQuotaQuota : Fld := ⟨"TLY_QUOTA.QUOTA", 0x03000100, 0, 14, .rw, 16, 32, 1, 0, 0, 8192, .const 0⟩
/-- TLY_QUOTA.USED -/
def tlyQuotaUsed : Fld := ⟨"TLY_QUOTA.USED", 0x03000100, 16, 14, .dv, 16, 32, 1, 0, 0, 16383, .const 0⟩

/-- The TLY block. -/
def blockTly : List Fld :=
  [tlyCtrlWdEn, tlySpinSpinUs, tlyFreeCount, tlyBlockedCount, tlyOvfCount, tlySpinFaultCount,
   tlyReckonCntCount, tlyErrBits, tlyDumpAddr, tlyDumpCmdStart, tlyDumpCmdAll, tlyDumpCmdLodge,
   tlyDumpCmdBusy, tlyDumpLenBytes, tlyQuotaQuota, tlyQuotaUsed]

/-! HIF (R341) -/

/-- HIF_CTRL.HOST_RESUME -/
def hifCtrlHostResume : Fld := ⟨"HIF_CTRL.HOST_RESUME", 0x00800000, 0, 1, .wo, 1, 0, 1, 0, 0, 1, .const 0⟩
/-- HIF_CTRL.POLL_US -/
def hifCtrlPollUs : Fld := ⟨"HIF_CTRL.POLL_US", 0x00800000, 16, 16, .rw, 1, 0, 1, 0, 0, 65535, .const 0⟩
/-- HIF_STATUS.HOST_LOST -/
def hifStatusHostLost : Fld := ⟨"HIF_STATUS.HOST_LOST", 0x00800004, 0, 1, .ro, 1, 0, 1, 0, 0, 1, .const 0⟩
/-- HIF_STATUS.SPEED -/
def hifStatusSpeed : Fld := ⟨"HIF_STATUS.SPEED", 0x00800004, 1, 3, .ro, 1, 0, 1, 0, 0, 7, .const 0⟩
/-- HIF_STATUS.WIDTH -/
def hifStatusWidth : Fld := ⟨"HIF_STATUS.WIDTH", 0x00800004, 4, 5, .ro, 1, 0, 1, 0, 0, 31, .const 0⟩
/-- HIF_STATUS.ATS_EN -/
def hifStatusAtsEn : Fld := ⟨"HIF_STATUS.ATS_EN", 0x00800004, 9, 1, .ro, 1, 0, 1, 0, 0, 1, .const 0⟩
/-- HIF_REG_ERR.ACCESS -/
def hifRegErrAccess : Fld := ⟨"HIF_REG_ERR.ACCESS", 0x00800008, 0, 16, .rc, 1, 0, 1, 0, 0, 65535, .const 0⟩
/-- HIF_REG_ERR.DISCARD -/
def hifRegErrDiscard : Fld := ⟨"HIF_REG_ERR.DISCARD", 0x00800008, 16, 16, .rc, 1, 0, 1, 0, 0, 65535, .const 0⟩
/-- HIF_CPL_DROP.COUNT -/
def hifCplDropCount : Fld := ⟨"HIF_CPL_DROP.COUNT", 0x0080000C, 0, 32, .rc, 1, 0, 1, 0, 0, 0xFFFFFFFF, .const 0⟩
/-- HIF_CQ_STALL.COUNT -/
def hifCqStallCount : Fld := ⟨"HIF_CQ_STALL.COUNT", 0x00800010, 0, 32, .rc, 1, 0, 1, 0, 0, 0xFFFFFFFF, .const 0⟩
/-- HIF_DEV_CAUSE.BITS -/
def hifDevCauseBits : Fld := ⟨"HIF_DEV_CAUSE.BITS", 0x00800014, 0, 4, .w1c, 1, 0, 1, 0, 0, 15, .const 0⟩
/-- HIF_LODGE_VEC.VECTOR -/
def hifLodgeVecVector : Fld := ⟨"HIF_LODGE_VEC.VECTOR", 0x00800100, 0, 10, .rw, 16, 32, 1, 0, 1, 1023, .index 1⟩
/-- HIF_RING_BASE.ADDR -/
def hifRingBaseAddr : Fld := ⟨"HIF_RING_BASE.ADDR", 0x00801000, 12, 52, .rw, 256, 256, 1, 0, 0, 0xFFFFFFFFFFFFF, .const 0⟩
/-- HIF_RING_DB.ADDR -/
def hifRingDbAddr : Fld := ⟨"HIF_RING_DB.ADDR", 0x00801008, 6, 58, .rw, 256, 256, 1, 0, 0, 0x3FFFFFFFFFFFFFF, .const 0⟩
/-- HIF_RING_CFG.ENABLE -/
def hifRingCfgEnable : Fld := ⟨"HIF_RING_CFG.ENABLE", 0x00801010, 0, 1, .rw, 256, 256, 1, 0, 0, 1, .const 0⟩
/-- HIF_RING_CFG.TYPE -/
def hifRingCfgType : Fld := ⟨"HIF_RING_CFG.TYPE", 0x00801010, 1, 2, .rw, 256, 256, 1, 0, 0, 2, .const 0⟩
/-- HIF_RING_CFG.SIZE_LOG2 -/
def hifRingCfgSizeLog2 : Fld := ⟨"HIF_RING_CFG.SIZE_LOG2", 0x00801010, 3, 5, .rw, 256, 256, 1, 0, 2, 16, .const 2⟩
/-- HIF_RING_CFG.LODGE -/
def hifRingCfgLodge : Fld := ⟨"HIF_RING_CFG.LODGE", 0x00801010, 8, 4, .rw, 256, 256, 1, 0, 0, 15, .const 0⟩
/-- HIF_RING_CFG.CQ -/
def hifRingCfgCq : Fld := ⟨"HIF_RING_CFG.CQ", 0x00801010, 12, 8, .rw, 256, 256, 1, 0, 0, 255, .const 0⟩
/-- HIF_RING_CFG.VECTOR -/
def hifRingCfgVector : Fld := ⟨"HIF_RING_CFG.VECTOR", 0x00801010, 20, 10, .rw, 256, 256, 1, 0, 0, 1023, .const 0⟩
/-- HIF_RING_CFG.IRQ_ALL -/
def hifRingCfgIrqAll : Fld := ⟨"HIF_RING_CFG.IRQ_ALL", 0x00801010, 30, 1, .rw, 256, 256, 1, 0, 0, 1, .const 0⟩
/-- HIF_RING_MOD.COUNT -/
def hifRingModCount : Fld := ⟨"HIF_RING_MOD.COUNT", 0x00801014, 0, 8, .rw, 256, 256, 1, 0, 1, 255, .const 1⟩
/-- HIF_RING_MOD.HOLD_US -/
def hifRingModHoldUs : Fld := ⟨"HIF_RING_MOD.HOLD_US", 0x00801014, 8, 16, .rw, 256, 256, 1, 0, 0, 65535, .const 0⟩
/-- HIF_RING_STATUS.STATE -/
def hifRingStatusState : Fld := ⟨"HIF_RING_STATUS.STATE", 0x00801018, 0, 2, .ro, 256, 256, 1, 0, 0, 3, .const 0⟩
/-- HIF_RING_STATUS.REASON -/
def hifRingStatusReason : Fld := ⟨"HIF_RING_STATUS.REASON", 0x00801018, 2, 4, .ro, 256, 256, 1, 0, 0, 15, .const 0⟩
/-- HIF_RING_IDX.DEV_IDX -/
def hifRingIdxDevIdx : Fld := ⟨"HIF_RING_IDX.DEV_IDX", 0x0080101C, 0, 32, .ro, 256, 256, 1, 0, 0, 0xFFFFFFFF, .const 0⟩

/-- The HIF block. -/
def blockHif : List Fld :=
  [hifCtrlHostResume, hifCtrlPollUs, hifStatusHostLost, hifStatusSpeed, hifStatusWidth, hifStatusAtsEn,
   hifRegErrAccess, hifRegErrDiscard, hifCplDropCount, hifCqStallCount, hifDevCauseBits, hifLodgeVecVector,
   hifRingBaseAddr, hifRingDbAddr, hifRingCfgEnable, hifRingCfgType, hifRingCfgSizeLog2, hifRingCfgLodge,
   hifRingCfgCq, hifRingCfgVector, hifRingCfgIrqAll, hifRingModCount, hifRingModHoldUs, hifRingStatusState,
   hifRingStatusReason, hifRingIdxDevIdx]

/-! GLB (R342) -/

/-- GLB_ID.PART -/
def glbIdPart : Fld := ⟨"GLB_ID.PART", 0x00000000, 0, 16, .ro, 1, 0, 1, 0, 0, 65535, .const 0x1640⟩
/-- GLB_ID.FAMILY -/
def glbIdFamily : Fld := ⟨"GLB_ID.FAMILY", 0x00000000, 16, 8, .ro, 1, 0, 1, 0, 0, 255, .const 1⟩
/-- GLB_REV.STEPPING -/
def glbRevStepping : Fld := ⟨"GLB_REV.STEPPING", 0x00000004, 0, 8, .ro, 1, 0, 1, 0, 0, 255, .const 0x10⟩
/-- GLB_REV.FW -/
def glbRevFw : Fld := ⟨"GLB_REV.FW", 0x00000004, 8, 16, .dv, 1, 0, 1, 0, 0, 65535, .const 0⟩
/-- GLB_STAGE.STAGE -/
def glbStageStage : Fld := ⟨"GLB_STAGE.STAGE", 0x00000008, 0, 3, .ro, 1, 0, 1, 0, 0, 7, .const 0⟩
/-- GLB_STAGE.REDUCED -/
def glbStageReduced : Fld := ⟨"GLB_STAGE.REDUCED", 0x00000008, 3, 1, .dv, 1, 0, 1, 0, 0, 1, .const 0⟩
/-- GLB_CAP0.LODGES -/
def glbCap0Lodges : Fld := ⟨"GLB_CAP0.LODGES", 0x00000010, 0, 8, .ro, 1, 0, 1, 0, 0, 255, .const 16⟩
/-- GLB_CAP0.MODEL_SLOTS -/
def glbCap0ModelSlots : Fld := ⟨"GLB_CAP0.MODEL_SLOTS", 0x00000010, 8, 8, .ro, 1, 0, 1, 0, 0, 255, .const 8⟩
/-- GLB_CAP0.DEVICE_BITS -/
def glbCap0DeviceBits : Fld := ⟨"GLB_CAP0.DEVICE_BITS", 0x00000010, 16, 8, .ro, 1, 0, 1, 0, 0, 255, .const 18⟩
/-- GLB_CAP0.TENANT_BITS -/
def glbCap0TenantBits : Fld := ⟨"GLB_CAP0.TENANT_BITS", 0x00000010, 24, 8, .ro, 1, 0, 1, 0, 0, 255, .const 16⟩
/-- GLB_CAP1.CLIENT_BITS -/
def glbCap1ClientBits : Fld := ⟨"GLB_CAP1.CLIENT_BITS", 0x00000014, 0, 8, .ro, 1, 0, 1, 0, 0, 255, .const 16⟩
/-- GLB_CAP1.LIVERY_BITS -/
def glbCap1LiveryBits : Fld := ⟨"GLB_CAP1.LIVERY_BITS", 0x00000014, 8, 8, .ro, 1, 0, 1, 0, 0, 255, .const 16⟩
/-- GLB_CAP1.LEDGER_BITS -/
def glbCap1LedgerBits : Fld := ⟨"GLB_CAP1.LEDGER_BITS", 0x00000014, 16, 8, .ro, 1, 0, 1, 0, 0, 255, .const 16⟩
/-- GLB_CAP1.KVPAGE_BITS -/
def glbCap1KvpageBits : Fld := ⟨"GLB_CAP1.KVPAGE_BITS", 0x00000014, 24, 8, .ro, 1, 0, 1, 0, 0, 255, .const 32⟩
/-- GLB_CAP2.TALLY_BITS -/
def glbCap2TallyBits : Fld := ⟨"GLB_CAP2.TALLY_BITS", 0x00000018, 0, 8, .ro, 1, 0, 1, 0, 0, 255, .const 13⟩
/-- GLB_CAP2.CONN_BITS -/
def glbCap2ConnBits : Fld := ⟨"GLB_CAP2.CONN_BITS", 0x00000018, 8, 8, .ro, 1, 0, 1, 0, 0, 255, .const 16⟩
/-- GLB_CAP2.RING_LOG2 -/
def glbCap2RingLog2 : Fld := ⟨"GLB_CAP2.RING_LOG2", 0x00000018, 16, 4, .ro, 1, 0, 1, 0, 0, 15, .const 8⟩
/-- GLB_CAP2.RING_SIZE_LOG2 -/
def glbCap2RingSizeLog2 : Fld := ⟨"GLB_CAP2.RING_SIZE_LOG2", 0x00000018, 20, 5, .ro, 1, 0, 1, 0, 0, 31, .const 16⟩
/-- GLB_CAP2.SPLIT_LOG2 -/
def glbCap2SplitLog2 : Fld := ⟨"GLB_CAP2.SPLIT_LOG2", 0x00000018, 25, 3, .ro, 1, 0, 1, 0, 0, 7, .const 6⟩
/-- GLB_CAP2.KV_LIST_LOG2 -/
def glbCap2KvListLog2 : Fld := ⟨"GLB_CAP2.KV_LIST_LOG2", 0x00000018, 28, 4, .ro, 1, 0, 1, 0, 0, 15, .const 15⟩
/-- GLB_CAP3.SPAN_OUT -/
def glbCap3SpanOut : Fld := ⟨"GLB_CAP3.SPAN_OUT", 0x0000001C, 0, 10, .ro, 1, 0, 1, 0, 0, 1023, .const 512⟩
/-- GLB_CAP3.DESC_VER -/
def glbCap3DescVer : Fld := ⟨"GLB_CAP3.DESC_VER", 0x0000001C, 10, 4, .ro, 1, 0, 1, 0, 0, 15, .const 2⟩
/-- GLB_CAP3.LINK_VER -/
def glbCap3LinkVer : Fld := ⟨"GLB_CAP3.LINK_VER", 0x0000001C, 16, 4, .ro, 1, 0, 1, 0, 0, 15, .const 14⟩
/-- GLB_CAP3.DIR_LOG2 -/
def glbCap3DirLog2 : Fld := ⟨"GLB_CAP3.DIR_LOG2", 0x0000001C, 20, 5, .ro, 1, 0, 1, 0, 0, 31, .const 20⟩
/-- GLB_CAP3.BATCH_LOG2 -/
def glbCap3BatchLog2 : Fld := ⟨"GLB_CAP3.BATCH_LOG2", 0x0000001C, 25, 4, .ro, 1, 0, 1, 0, 0, 15, .const 12⟩
/-- GLB_TIME.NS -/
def glbTimeNs : Fld := ⟨"GLB_TIME.NS", 0x00000020, 0, 64, .dv, 1, 0, 1, 0, 0, 0xFFFFFFFFFFFFFFFF, .const 0⟩
/-- GLB_SCRATCH.VALUE -/
def glbScratchValue : Fld := ⟨"GLB_SCRATCH.VALUE", 0x00000028, 0, 32, .rw, 1, 0, 1, 0, 0, 0xFFFFFFFF, .const 0⟩

/-- The GLB block. -/
def blockGlb : List Fld :=
  [glbIdPart, glbIdFamily, glbRevStepping, glbRevFw, glbStageStage, glbStageReduced,
   glbCap0Lodges, glbCap0ModelSlots, glbCap0DeviceBits, glbCap0TenantBits, glbCap1ClientBits, glbCap1LiveryBits,
   glbCap1LedgerBits, glbCap1KvpageBits, glbCap2TallyBits, glbCap2ConnBits, glbCap2RingLog2, glbCap2RingSizeLog2,
   glbCap2SplitLog2, glbCap2KvListLog2, glbCap3SpanOut, glbCap3DescVer, glbCap3LinkVer, glbCap3DirLog2,
   glbCap3BatchLog2, glbTimeNs, glbScratchValue]

/-! LNK (R369) -/

/-- LNK_TIME_CFG.TIME_US -/
def lnkTimeCfgTimeUs : Fld := ⟨"LNK_TIME_CFG.TIME_US", 0x03A00000, 0, 16, .rw, 1, 0, 1, 0, 1, 1000, .const 10⟩
/-- LNK_TIME_CFG.LOST_US -/
def lnkTimeCfgLostUs : Fld := ⟨"LNK_TIME_CFG.LOST_US", 0x03A00000, 16, 16, .rw, 1, 0, 1, 0, 10, 10000, .const 100⟩
/-- LNK_STIME.NS -/
def lnkStimeNs : Fld := ⟨"LNK_STIME.NS", 0x03A00004, 0, 64, .dv, 1, 0, 1, 0, 0, 0xFFFFFFFFFFFFFFFF, .const 0⟩
/-- LNK_STIME_STATUS.VALID -/
def lnkStimeStatusValid : Fld := ⟨"LNK_STIME_STATUS.VALID", 0x03A0000C, 0, 1, .ro, 1, 0, 1, 0, 0, 1, .const 0⟩
/-- LNK_STIME_STATUS.SOURCE -/
def lnkStimeStatusSource : Fld := ⟨"LNK_STIME_STATUS.SOURCE", 0x03A0000C, 1, 1, .ro, 1, 0, 1, 0, 0, 1, .const 0⟩
/-- LNK_STIME_STATUS.HOPS -/
def lnkStimeStatusHops : Fld := ⟨"LNK_STIME_STATUS.HOPS", 0x03A0000C, 2, 6, .ro, 1, 0, 1, 0, 0, 63, .const 0⟩
/-- LNK_STIME_STATUS.PORT -/
def lnkStimeStatusPort : Fld := ⟨"LNK_STIME_STATUS.PORT", 0x03A0000C, 8, 3, .ro, 1, 0, 1, 0, 0, 7, .const 0⟩
/-- LNK_STIME_STATUS.SYNC_LOST -/
def lnkStimeStatusSyncLost : Fld := ⟨"LNK_STIME_STATUS.SYNC_LOST", 0x03A0000C, 11, 1, .w1c, 1, 0, 1, 0, 0, 1, .const 0⟩
/-- LNK_RETRAIN_CFG.UNCORR_MAX -/
def lnkRetrainCfgUncorrMax : Fld := ⟨"LNK_RETRAIN_CFG.UNCORR_MAX", 0x03A00010, 0, 16, .rw, 1, 0, 1, 0, 1, 65535, .const 64⟩
/-- LNK_RETRAIN_CFG.TRIES_MAX -/
def lnkRetrainCfgTriesMax : Fld := ⟨"LNK_RETRAIN_CFG.TRIES_MAX", 0x03A00010, 16, 4, .rw, 1, 0, 1, 0, 1, 15, .const 8⟩
/-- LNK_REPLAY_CFG.REPLAY_US -/
def lnkReplayCfgReplayUs : Fld := ⟨"LNK_REPLAY_CFG.REPLAY_US", 0x03A00014, 0, 8, .rw, 1, 0, 1, 0, 1, 64, .const 4⟩
/-- LNK_REPLAY_CFG.NAK_RETRY_US -/
def lnkReplayCfgNakRetryUs : Fld := ⟨"LNK_REPLAY_CFG.NAK_RETRY_US", 0x03A00014, 8, 8, .rw, 1, 0, 1, 0, 1, 64, .const 4⟩
/-- LNK_REPLAY_CFG.ACK_FLITS -/
def lnkReplayCfgAckFlits : Fld := ⟨"LNK_REPLAY_CFG.ACK_FLITS", 0x03A00014, 16, 9, .rw, 1, 0, 1, 0, 16, 256, .const 256⟩
/-- LNK_CTRL.ENABLE -/
def lnkCtrlEnable : Fld := ⟨"LNK_CTRL.ENABLE", 0x03A01000, 0, 1, .rw, 8, 2048, 1, 0, 0, 1, .const 1⟩
/-- LNK_CTRL.MODE -/
def lnkCtrlMode : Fld := ⟨"LNK_CTRL.MODE", 0x03A01000, 1, 1, .rw, 8, 2048, 1, 0, 0, 1, .const 0⟩
/-- LNK_CTRL.MAX_RATE -/
def lnkCtrlMaxRate : Fld := ⟨"LNK_CTRL.MAX_RATE", 0x03A01000, 2, 2, .rw, 8, 2048, 1, 0, 0, 2, .const 0⟩
/-- LNK_CTRL.RETRAIN -/
def lnkCtrlRetrain : Fld := ⟨"LNK_CTRL.RETRAIN", 0x03A01000, 4, 1, .wo, 8, 2048, 1, 0, 0, 1, .const 0⟩
/-- LNK_STATUS.STATE -/
def lnkStatusState : Fld := ⟨"LNK_STATUS.STATE", 0x03A01004, 0, 3, .ro, 8, 2048, 1, 0, 0, 7, .const 0⟩
/-- LNK_STATUS.RATE -/
def lnkStatusRate : Fld := ⟨"LNK_STATUS.RATE", 0x03A01004, 3, 2, .ro, 8, 2048, 1, 0, 0, 3, .const 3⟩
/-- LNK_STATUS.PHASE -/
def lnkStatusPhase : Fld := ⟨"LNK_STATUS.PHASE", 0x03A01004, 5, 2, .ro, 8, 2048, 1, 0, 0, 3, .const 3⟩
/-- LNK_STATUS.ATTEMPT -/
def lnkStatusAttempt : Fld := ⟨"LNK_STATUS.ATTEMPT", 0x03A01004, 7, 4, .ro, 8, 2048, 1, 0, 0, 15, .const 0⟩
/-- LNK_STATUS.VERSION -/
def lnkStatusVersion : Fld := ⟨"LNK_STATUS.VERSION", 0x03A01004, 11, 3, .ro, 8, 2048, 1, 0, 0, 7, .const 0⟩
/-- LNK_STATUS.FAIL -/
def lnkStatusFail : Fld := ⟨"LNK_STATUS.FAIL", 0x03A01004, 14, 4, .ro, 8, 2048, 1, 0, 0, 15, .const 0⟩
/-- LNK_PEER.DEVICE -/
def lnkPeerDevice : Fld := ⟨"LNK_PEER.DEVICE", 0x03A01008, 0, 24, .ro, 8, 2048, 1, 0, 0, 0xFFFFFF, .const 0⟩
/-- LNK_PEER.PORT -/
def lnkPeerPort : Fld := ⟨"LNK_PEER.PORT", 0x03A01008, 24, 3, .ro, 8, 2048, 1, 0, 0, 7, .const 0⟩
/-- LNK_PEER.VALID -/
def lnkPeerValid : Fld := ⟨"LNK_PEER.VALID", 0x03A01008, 27, 1, .ro, 8, 2048, 1, 0, 0, 1, .const 0⟩
/-- LNK_REPLAY.OUTSTANDING -/
def lnkReplayOutstanding : Fld := ⟨"LNK_REPLAY.OUTSTANDING", 0x03A0100C, 0, 11, .dv, 8, 2048, 1, 0, 0, 2047, .const 0⟩
/-- LNK_REPLAY.TX_SEQ -/
def lnkReplayTxSeq : Fld := ⟨"LNK_REPLAY.TX_SEQ", 0x03A0100C, 12, 12, .dv, 8, 2048, 1, 0, 0, 4095, .const 0⟩
/-- LNK_DELAY.DELAY_NS -/
def lnkDelayDelayNs : Fld := ⟨"LNK_DELAY.DELAY_NS", 0x03A01010, 0, 16, .ro, 8, 2048, 1, 0, 0, 65535, .const 0⟩
/-- LNK_CW_CORR.COUNT -/
def lnkCwCorrCount : Fld := ⟨"LNK_CW_CORR.COUNT", 0x03A01020, 0, 32, .rc, 8, 2048, 1, 0, 0, 0xFFFFFFFF, .const 0⟩
/-- LNK_SYM_CORR.COUNT -/
def lnkSymCorrCount : Fld := ⟨"LNK_SYM_CORR.COUNT", 0x03A01024, 0, 32, .rc, 8, 2048, 1, 0, 0, 0xFFFFFFFF, .const 0⟩
/-- LNK_CW_UNCORR.COUNT -/
def lnkCwUncorrCount : Fld := ⟨"LNK_CW_UNCORR.COUNT", 0x03A01028, 0, 32, .rc, 8, 2048, 1, 0, 0, 0xFFFFFFFF, .const 0⟩
/-- LNK_NAK_TX.COUNT -/
def lnkNakTxCount : Fld := ⟨"LNK_NAK_TX.COUNT", 0x03A0102C, 0, 32, .rc, 8, 2048, 1, 0, 0, 0xFFFFFFFF, .const 0⟩
/-- LNK_NAK_RX.COUNT -/
def lnkNakRxCount : Fld := ⟨"LNK_NAK_RX.COUNT", 0x03A01030, 0, 32, .rc, 8, 2048, 1, 0, 0, 0xFFFFFFFF, .const 0⟩
/-- LNK_REPLAY_FLITS.COUNT -/
def lnkReplayFlitsCount : Fld := ⟨"LNK_REPLAY_FLITS.COUNT", 0x03A01034, 0, 32, .rc, 8, 2048, 1, 0, 0, 0xFFFFFFFF, .const 0⟩
/-- LNK_RETRAIN.COUNT -/
def lnkRetrainCount : Fld := ⟨"LNK_RETRAIN.COUNT", 0x03A01038, 0, 32, .rc, 8, 2048, 1, 0, 0, 0xFFFFFFFF, .const 0⟩
/-- LNK_TRAIN_FAIL.COUNT -/
def lnkTrainFailCount : Fld := ⟨"LNK_TRAIN_FAIL.COUNT", 0x03A0103C, 0, 32, .rc, 8, 2048, 1, 0, 0, 0xFFFFFFFF, .const 0⟩
/-- LNK_CTL_CRC.COUNT -/
def lnkCtlCrcCount : Fld := ⟨"LNK_CTL_CRC.COUNT", 0x03A01040, 0, 32, .rc, 8, 2048, 1, 0, 0, 0xFFFFFFFF, .const 0⟩
/-- LNK_STALL.COUNT -/
def lnkStallCount : Fld := ⟨"LNK_STALL.COUNT", 0x03A01044, 0, 32, .rc, 8, 2048, 1, 0, 0, 0xFFFFFFFF, .const 0⟩
/-- LNK_DROP.COUNT -/
def lnkDropCount : Fld := ⟨"LNK_DROP.COUNT", 0x03A01048, 0, 32, .rc, 8, 2048, 1, 0, 0, 0xFFFFFFFF, .const 0⟩
/-- LNK_TX.COUNT -/
def lnkTxCount : Fld := ⟨"LNK_TX.COUNT", 0x03A01050, 0, 64, .ro, 8, 2048, 1, 0, 0, 0xFFFFFFFFFFFFFFFF, .const 0⟩
/-- LNK_RX.COUNT -/
def lnkRxCount : Fld := ⟨"LNK_RX.COUNT", 0x03A01058, 0, 64, .ro, 8, 2048, 1, 0, 0, 0xFFFFFFFFFFFFFFFF, .const 0⟩
/-- LNK_ERR.BITS -/
def lnkErrBits : Fld := ⟨"LNK_ERR.BITS", 0x03A01060, 0, 5, .w1c, 8, 2048, 1, 0, 0, 31, .const 0⟩

/-- The LNK block. -/
def blockLnk : List Fld :=
  [lnkTimeCfgTimeUs, lnkTimeCfgLostUs, lnkStimeNs, lnkStimeStatusValid, lnkStimeStatusSource, lnkStimeStatusHops,
   lnkStimeStatusPort, lnkStimeStatusSyncLost, lnkRetrainCfgUncorrMax, lnkRetrainCfgTriesMax, lnkReplayCfgReplayUs, lnkReplayCfgNakRetryUs,
   lnkReplayCfgAckFlits, lnkCtrlEnable, lnkCtrlMode, lnkCtrlMaxRate, lnkCtrlRetrain, lnkStatusState,
   lnkStatusRate, lnkStatusPhase, lnkStatusAttempt, lnkStatusVersion, lnkStatusFail, lnkPeerDevice,
   lnkPeerPort, lnkPeerValid, lnkReplayOutstanding, lnkReplayTxSeq, lnkDelayDelayNs, lnkCwCorrCount,
   lnkSymCorrCount, lnkCwUncorrCount, lnkNakTxCount, lnkNakRxCount, lnkReplayFlitsCount, lnkRetrainCount,
   lnkTrainFailCount, lnkCtlCrcCount, lnkStallCount, lnkDropCount, lnkTxCount, lnkRxCount,
   lnkErrBits]

/-! SPN (R397) -/

/-- SPN_ID.DEVICE -/
def spnIdDevice : Fld := ⟨"SPN_ID.DEVICE", 0x03C00000, 0, 24, .rw, 1, 0, 1, 0, 0, 0xFFFFFF, .const 0xFFFFFF⟩
/-- SPN_CTRL.ENABLE -/
def spnCtrlEnable : Fld := ⟨"SPN_CTRL.ENABLE", 0x03C00004, 0, 1, .rw, 1, 0, 1, 0, 0, 1, .const 1⟩
/-- SPN_CTRL.REJOIN -/
def spnCtrlRejoin : Fld := ⟨"SPN_CTRL.REJOIN", 0x03C00004, 1, 1, .wo, 1, 0, 1, 0, 0, 1, .const 0⟩
/-- SPN_CTRL.LEASE_REVOKE -/
def spnCtrlLeaseRevoke : Fld := ⟨"SPN_CTRL.LEASE_REVOKE", 0x03C00004, 2, 1, .wo, 1, 0, 1, 0, 0, 1, .const 0⟩
/-- SPN_STATUS.MASTER -/
def spnStatusMaster : Fld := ⟨"SPN_STATUS.MASTER", 0x03C00008, 0, 1, .ro, 1, 0, 1, 0, 0, 1, .const 0⟩
/-- SPN_STATUS.ISOLATED -/
def spnStatusIsolated : Fld := ⟨"SPN_STATUS.ISOLATED", 0x03C00008, 1, 1, .ro, 1, 0, 1, 0, 0, 1, .const 0⟩
/-- SPN_STATUS.MASTER_DEV -/
def spnStatusMasterDev : Fld := ⟨"SPN_STATUS.MASTER_DEV", 0x03C00008, 8, 24, .ro, 1, 0, 1, 0, 0, 0xFFFFFF, .const 0xFFFFFF⟩
/-- SPN_MEMBERS.VALUE -/
def spnMembersValue : Fld := ⟨"SPN_MEMBERS.VALUE", 0x03C0000C, 0, 64, .rw, 1, 0, 1, 0, 0, 0xFFFFFFFFFFFFFFFF, .const 0⟩
/-- SPN_LEASE.VALUE -/
def spnLeaseValue : Fld := ⟨"SPN_LEASE.VALUE", 0x03C00014, 0, 64, .rw, 1, 0, 1, 0, 0, 0xFFFFFFFFFFFFFFFF, .const 0⟩
/-- SPN_TIMING.BEAT_US -/
def spnTimingBeatUs : Fld := ⟨"SPN_TIMING.BEAT_US", 0x03C0001C, 0, 16, .rw, 1, 0, 1, 0, 1, 1000, .const 10⟩
/-- SPN_TIMING.LOSS_US -/
def spnTimingLossUs : Fld := ⟨"SPN_TIMING.LOSS_US", 0x03C0001C, 16, 16, .rw, 1, 0, 1, 0, 10, 10000, .const 100⟩
/-- SPN_TIMEOUT.TIMEOUT_US -/
def spnTimeoutTimeoutUs : Fld := ⟨"SPN_TIMEOUT.TIMEOUT_US", 0x03C00020, 0, 12, .rw, 1, 0, 1, 0, 50, 4000, .const 50⟩
/-- SPN_TIMEOUT.FWD_WEIGHT -/
def spnTimeoutFwdWeight : Fld := ⟨"SPN_TIMEOUT.FWD_WEIGHT", 0x03C00020, 16, 8, .rw, 1, 0, 1, 0, 1, 255, .const 16⟩
/-- SPN_ENG.OUTSTANDING -/
def spnEngOutstanding : Fld := ⟨"SPN_ENG.OUTSTANDING", 0x03C00040, 0, 10, .dv, 8, 32, 1, 0, 0, 1023, .const 0⟩
/-- SPN_TIMEOUT_CNT.COUNT -/
def spnTimeoutCntCount : Fld := ⟨"SPN_TIMEOUT_CNT.COUNT", 0x03C00060, 0, 32, .rc, 1, 0, 1, 0, 0, 0xFFFFFFFF, .const 0⟩
/-- SPN_LATE.COUNT -/
def spnLateCount : Fld := ⟨"SPN_LATE.COUNT", 0x03C00064, 0, 32, .rc, 1, 0, 1, 0, 0, 0xFFFFFFFF, .const 0⟩
/-- SPN_FWD_DROP.COUNT -/
def spnFwdDropCount : Fld := ⟨"SPN_FWD_DROP.COUNT", 0x03C00068, 0, 32, .rc, 1, 0, 1, 0, 0, 0xFFFFFFFF, .const 0⟩
/-- SPN_INVAL_RX.COUNT -/
def spnInvalRxCount : Fld := ⟨"SPN_INVAL_RX.COUNT", 0x03C0006C, 0, 32, .rc, 1, 0, 1, 0, 0, 0xFFFFFFFF, .const 0⟩
/-- SPN_STALL.COUNT -/
def spnStallCount : Fld := ⟨"SPN_STALL.COUNT", 0x03C00070, 0, 32, .rc, 1, 0, 1, 0, 0, 0xFFFFFFFF, .const 0⟩
/-- SPN_FWD.COUNT -/
def spnFwdCount : Fld := ⟨"SPN_FWD.COUNT", 0x03C00074, 0, 64, .ro, 1, 0, 1, 0, 0, 0xFFFFFFFFFFFFFFFF, .const 0⟩
/-- SPN_CACHE.LINES -/
def spnCacheLines : Fld := ⟨"SPN_CACHE.LINES", 0x03C0007C, 0, 18, .dv, 1, 0, 1, 0, 0, 0x3FFFF, .const 0⟩
/-- SPN_ERR.BITS -/
def spnErrBits : Fld := ⟨"SPN_ERR.BITS", 0x03C00080, 0, 5, .w1c, 1, 0, 1, 0, 0, 31, .const 0⟩
/-- SPN_ROUTE.PORTS -/
def spnRoutePorts : Fld := ⟨"SPN_ROUTE.PORTS", 0x03C00100, 0, 8, .rw, 64, 32, 1, 0, 0, 255, .const 0⟩
/-- SPN_ARR.QUOTA -/
def spnArrQuota : Fld := ⟨"SPN_ARR.QUOTA", 0x03C00200, 0, 13, .rw, 16, 64, 1, 0, 0, 4096, .const 0⟩
/-- SPN_ARR.USED -/
def spnArrUsed : Fld := ⟨"SPN_ARR.USED", 0x03C00200, 16, 13, .dv, 16, 64, 1, 0, 0, 8191, .const 0⟩
/-- SPN_REPL.REPLICA_PAGES -/
def spnReplReplicaPages : Fld := ⟨"SPN_REPL.REPLICA_PAGES", 0x03C00204, 0, 20, .rw, 16, 64, 1, 0, 0, 0xFFE00, .const 0⟩

/-- The SPN block. -/
def blockSpn : List Fld :=
  [spnIdDevice, spnCtrlEnable, spnCtrlRejoin, spnCtrlLeaseRevoke, spnStatusMaster, spnStatusIsolated,
   spnStatusMasterDev, spnMembersValue, spnLeaseValue, spnTimingBeatUs, spnTimingLossUs, spnTimeoutTimeoutUs,
   spnTimeoutFwdWeight, spnEngOutstanding, spnTimeoutCntCount, spnLateCount, spnFwdDropCount, spnInvalRxCount,
   spnStallCount, spnFwdCount, spnCacheLines, spnErrBits, spnRoutePorts, spnArrQuota,
   spnArrUsed, spnReplReplicaPages]

/-! FLD (R426) -/

/-- FLD_CTRL.ENABLE -/
def fldCtrlEnable : Fld := ⟨"FLD_CTRL.ENABLE", 0x03D00000, 0, 1, .rw, 1, 0, 1, 0, 0, 1, .const 1⟩
/-- FLD_CTRL.PAYLOAD_MAX -/
def fldCtrlPayloadMax : Fld := ⟨"FLD_CTRL.PAYLOAD_MAX", 0x03D00000, 1, 2, .rw, 1, 0, 1, 0, 0, 2, .const 2⟩
/-- FLD_CTRL.UDP_PORT -/
def fldCtrlUdpPort : Fld := ⟨"FLD_CTRL.UDP_PORT", 0x03D00000, 16, 16, .rw, 1, 0, 1, 0, 1, 65535, .const 0xC012⟩
/-- FLD_RETRY.RETRY_US -/
def fldRetryRetryUs : Fld := ⟨"FLD_RETRY.RETRY_US", 0x03D00004, 0, 16, .rw, 1, 0, 1, 0, 10, 60000, .const 200⟩
/-- FLD_RETRY.RETRY_MAX -/
def fldRetryRetryMax : Fld := ⟨"FLD_RETRY.RETRY_MAX", 0x03D00004, 16, 4, .rw, 1, 0, 1, 0, 1, 15, .const 7⟩
/-- FLD_TIME.NS -/
def fldTimeNs : Fld := ⟨"FLD_TIME.NS", 0x03D00008, 0, 64, .dv, 1, 0, 1, 0, 0, 0xFFFFFFFFFFFFFFFF, .const 0⟩
/-- FLD_PTP_CFG.PTP_EN -/
def fldPtpCfgPtpEn : Fld := ⟨"FLD_PTP_CFG.PTP_EN", 0x03D00010, 0, 1, .rw, 1, 0, 1, 0, 0, 1, .const 1⟩
/-- FLD_PTP_CFG.DOMAIN -/
def fldPtpCfgDomain : Fld := ⟨"FLD_PTP_CFG.DOMAIN", 0x03D00010, 1, 8, .rw, 1, 0, 1, 0, 0, 255, .const 0⟩
/-- FLD_PTP_CFG.PORTS -/
def fldPtpCfgPorts : Fld := ⟨"FLD_PTP_CFG.PORTS", 0x03D00010, 9, 4, .rw, 1, 0, 1, 0, 0, 15, .const 0xF⟩
/-- FLD_PTP_CFG.LOST_MS -/
def fldPtpCfgLostMs : Fld := ⟨"FLD_PTP_CFG.LOST_MS", 0x03D00010, 16, 16, .rw, 1, 0, 1, 0, 10, 60000, .const 1000⟩
/-- FLD_TIME_STATUS.VALID -/
def fldTimeStatusValid : Fld := ⟨"FLD_TIME_STATUS.VALID", 0x03D00014, 0, 1, .ro, 1, 0, 1, 0, 0, 1, .const 0⟩
/-- FLD_TIME_STATUS.SYNC_LOST -/
def fldTimeStatusSyncLost : Fld := ⟨"FLD_TIME_STATUS.SYNC_LOST", 0x03D00014, 1, 1, .w1c, 1, 0, 1, 0, 0, 1, .const 0⟩
/-- FLD_TIME_STATUS.OFFSET_NS -/
def fldTimeStatusOffsetNs : Fld := ⟨"FLD_TIME_STATUS.OFFSET_NS", 0x03D00014, 16, 16, .ro, 1, 0, 1, 0, 0, 65535, .const 0⟩
/-- FLD_DSCP_LO.DSCP -/
def fldDscpLoDscp : Fld := ⟨"FLD_DSCP_LO.DSCP", 0x03D00018, 0, 6, .rw, 5, 6, 1, 0, 0, 63, .const 0⟩
/-- FLD_DSCP_HI.DSCP -/
def fldDscpHiDscp : Fld := ⟨"FLD_DSCP_HI.DSCP", 0x03D0001C, 0, 6, .rw, 3, 6, 1, 0, 0, 63, .const 0⟩
/-- FLD_CONN_FREE.COUNT -/
def fldConnFreeCount : Fld := ⟨"FLD_CONN_FREE.COUNT", 0x03D00020, 0, 17, .dv, 1, 0, 1, 0, 0, 0x1FFFF, .const 65536⟩
/-- FLD_RETX.COUNT -/
def fldRetxCount : Fld := ⟨"FLD_RETX.COUNT", 0x03D00024, 0, 32, .rc, 1, 0, 1, 0, 0, 0xFFFFFFFF, .const 0⟩
/-- FLD_NAK_TX.COUNT -/
def fldNakTxCount : Fld := ⟨"FLD_NAK_TX.COUNT", 0x03D00028, 0, 32, .rc, 1, 0, 1, 0, 0, 0xFFFFFFFF, .const 0⟩
/-- FLD_NAK_RX.COUNT -/
def fldNakRxCount : Fld := ⟨"FLD_NAK_RX.COUNT", 0x03D0002C, 0, 32, .rc, 1, 0, 1, 0, 0, 0xFFFFFFFF, .const 0⟩
/-- FLD_ERRCONN.COUNT -/
def fldErrconnCount : Fld := ⟨"FLD_ERRCONN.COUNT", 0x03D00030, 0, 32, .rc, 1, 0, 1, 0, 0, 0xFFFFFFFF, .const 0⟩
/-- FLD_STALL.COUNT -/
def fldStallCount : Fld := ⟨"FLD_STALL.COUNT", 0x03D00034, 0, 32, .rc, 1, 0, 1, 0, 0, 0xFFFFFFFF, .const 0⟩
/-- FLD_ERR.BITS -/
def fldErrBits : Fld := ⟨"FLD_ERR.BITS", 0x03D00038, 0, 3, .w1c, 1, 0, 1, 0, 0, 7, .const 0⟩
/-- FLD_CONN_QUOTA.QUOTA -/
def fldConnQuotaQuota : Fld := ⟨"FLD_CONN_QUOTA.QUOTA", 0x03D00400, 0, 17, .rw, 16, 128, 1, 0, 0, 0x1FFFF, .const 0⟩
/-- FLD_TCW.TCW -/
def fldTcwTcw : Fld := ⟨"FLD_TCW.TCW", 0x03D00404, 0, 8, .rw, 16, 128, 8, 8, 1, 255, .const 16⟩
/-- FLD_MAC.MAC -/
def fldMacMac : Fld := ⟨"FLD_MAC.MAC", 0x03D01000, 0, 48, .rw, 4, 32768, 1, 0, 0, 0xFFFFFFFFFFFF, .const 0⟩
/-- FLD_MAC_HI.VLAN_ID -/
def fldMacHiVlanId : Fld := ⟨"FLD_MAC_HI.VLAN_ID", 0x03D01004, 16, 12, .rw, 4, 32768, 1, 0, 0, 4095, .const 0⟩
/-- FLD_MAC_HI.VLAN_EN -/
def fldMacHiVlanEn : Fld := ⟨"FLD_MAC_HI.VLAN_EN", 0x03D01004, 28, 1, .rw, 4, 32768, 1, 0, 0, 1, .const 0⟩
/-- FLD_IP.ADDR -/
def fldIpAddr : Fld := ⟨"FLD_IP.ADDR", 0x03D01008, 0, 32, .rw, 4, 32768, 4, 32, 0, 0xFFFFFFFF, .const 0⟩
/-- FLD_GCL_CTRL.GATE_EN -/
def fldGclCtrlGateEn : Fld := ⟨"FLD_GCL_CTRL.GATE_EN", 0x03D01020, 0, 1, .rw, 4, 32768, 1, 0, 0, 1, .const 0⟩
/-- FLD_GCL_CTRL.CHANGE -/
def fldGclCtrlChange : Fld := ⟨"FLD_GCL_CTRL.CHANGE", 0x03D01020, 1, 1, .wo, 4, 32768, 1, 0, 0, 1, .const 0⟩
/-- FLD_GCL_CTRL.PENDING -/
def fldGclCtrlPending : Fld := ⟨"FLD_GCL_CTRL.PENDING", 0x03D01020, 2, 1, .ro, 4, 32768, 1, 0, 0, 1, .const 0⟩
/-- FLD_GCL_CTRL.ADMIN_LEN -/
def fldGclCtrlAdminLen : Fld := ⟨"FLD_GCL_CTRL.ADMIN_LEN", 0x03D01020, 8, 9, .rw, 4, 32768, 1, 0, 0, 256, .const 0⟩
/-- FLD_GCL_CTRL.ENTRY -/
def fldGclCtrlEntry : Fld := ⟨"FLD_GCL_CTRL.ENTRY", 0x03D01020, 17, 8, .ro, 4, 32768, 1, 0, 0, 255, .const 0⟩
/-- FLD_GCL_ACYCLE.VALUE -/
def fldGclAcycleValue : Fld := ⟨"FLD_GCL_ACYCLE.VALUE", 0x03D01024, 0, 32, .rw, 4, 32768, 1, 0, 0, 0xFFFFFFFF, .const 0⟩
/-- FLD_GCL_ABASE.VALUE -/
def fldGclAbaseValue : Fld := ⟨"FLD_GCL_ABASE.VALUE", 0x03D01028, 0, 64, .rw, 4, 32768, 1, 0, 0, 0xFFFFFFFFFFFFFFFF, .const 0⟩
/-- FLD_GCL_OCYCLE.VALUE -/
def fldGclOcycleValue : Fld := ⟨"FLD_GCL_OCYCLE.VALUE", 0x03D01030, 0, 32, .ro, 4, 32768, 1, 0, 0, 0xFFFFFFFF, .const 0⟩
/-- FLD_GCL_OBASE.VALUE -/
def fldGclObaseValue : Fld := ⟨"FLD_GCL_OBASE.VALUE", 0x03D01034, 0, 64, .ro, 4, 32768, 1, 0, 0, 0xFFFFFFFFFFFFFFFF, .const 0⟩
/-- FLD_TX_PKT.COUNT -/
def fldTxPktCount : Fld := ⟨"FLD_TX_PKT.COUNT", 0x03D01040, 0, 32, .ro, 4, 32768, 1, 0, 0, 0xFFFFFFFF, .const 0⟩
/-- FLD_RX_PKT.COUNT -/
def fldRxPktCount : Fld := ⟨"FLD_RX_PKT.COUNT", 0x03D01044, 0, 32, .ro, 4, 32768, 1, 0, 0, 0xFFFFFFFF, .const 0⟩
/-- FLD_RX_DROP.COUNT -/
def fldRxDropCount : Fld := ⟨"FLD_RX_DROP.COUNT", 0x03D01048, 0, 32, .rc, 4, 32768, 1, 0, 0, 0xFFFFFFFF, .const 0⟩
/-- FLD_TENANT_DROP.COUNT -/
def fldTenantDropCount : Fld := ⟨"FLD_TENANT_DROP.COUNT", 0x03D0104C, 0, 32, .rc, 4, 32768, 1, 0, 0, 0xFFFFFFFF, .const 0⟩
/-- FLD_GCL_ADMIN.GATES -/
def fldGclAdminGates : Fld := ⟨"FLD_GCL_ADMIN.GATES", 0x03D01400, 0, 8, .rw, 4, 32768, 256, 32, 0, 255, .const 0xFF⟩
/-- FLD_GCL_ADMIN.INTERVAL_NS -/
def fldGclAdminIntervalNs : Fld := ⟨"FLD_GCL_ADMIN.INTERVAL_NS", 0x03D01400, 8, 24, .rw, 4, 32768, 256, 32, 0, 0xFFFFFF, .const 0⟩
/-- FLD_GCL_OPER.GATES -/
def fldGclOperGates : Fld := ⟨"FLD_GCL_OPER.GATES", 0x03D01800, 0, 8, .ro, 4, 32768, 256, 32, 0, 255, .const 0xFF⟩
/-- FLD_GCL_OPER.INTERVAL_NS -/
def fldGclOperIntervalNs : Fld := ⟨"FLD_GCL_OPER.INTERVAL_NS", 0x03D01800, 8, 24, .ro, 4, 32768, 256, 32, 0, 0xFFFFFF, .const 0⟩

/-- The FLD block. -/
def blockFld : List Fld :=
  [fldCtrlEnable, fldCtrlPayloadMax, fldCtrlUdpPort, fldRetryRetryUs, fldRetryRetryMax, fldTimeNs,
   fldPtpCfgPtpEn, fldPtpCfgDomain, fldPtpCfgPorts, fldPtpCfgLostMs, fldTimeStatusValid, fldTimeStatusSyncLost,
   fldTimeStatusOffsetNs, fldDscpLoDscp, fldDscpHiDscp, fldConnFreeCount, fldRetxCount, fldNakTxCount,
   fldNakRxCount, fldErrconnCount, fldStallCount, fldErrBits, fldConnQuotaQuota, fldTcwTcw,
   fldMacMac, fldMacHiVlanId, fldMacHiVlanEn, fldIpAddr, fldGclCtrlGateEn, fldGclCtrlChange,
   fldGclCtrlPending, fldGclCtrlAdminLen, fldGclCtrlEntry, fldGclAcycleValue, fldGclAbaseValue, fldGclOcycleValue,
   fldGclObaseValue, fldTxPktCount, fldRxPktCount, fldRxDropCount, fldTenantDropCount, fldGclAdminGates,
   fldGclAdminIntervalNs, fldGclOperGates, fldGclOperIntervalNs]

/-! HLT (R451) -/

/-- HLT_CTRL.LOG_EN -/
def hltCtrlLogEn : Fld := ⟨"HLT_CTRL.LOG_EN", 0x03E00000, 0, 1, .rw, 1, 0, 1, 0, 0, 1, .const 0⟩
/-- HLT_CTRL.TRACE_EN -/
def hltCtrlTraceEn : Fld := ⟨"HLT_CTRL.TRACE_EN", 0x03E00000, 1, 1, .rw, 1, 0, 1, 0, 0, 1, .const 1⟩
/-- HLT_CTRL.VECTOR -/
def hltCtrlVector : Fld := ⟨"HLT_CTRL.VECTOR", 0x03E00000, 2, 10, .rw, 1, 0, 1, 0, 0, 1023, .const 0⟩
/-- HLT_STATUS.DEGRADED -/
def hltStatusDegraded : Fld := ⟨"HLT_STATUS.DEGRADED", 0x03E00004, 0, 1, .dv, 1, 0, 1, 0, 0, 1, .const 0⟩
/-- HLT_STATUS.DEVICE_FAULT -/
def hltStatusDeviceFault : Fld := ⟨"HLT_STATUS.DEVICE_FAULT", 0x03E00004, 1, 1, .ro, 1, 0, 1, 0, 0, 1, .const 0⟩
/-- HLT_STATUS.ALARM -/
def hltStatusAlarm : Fld := ⟨"HLT_STATUS.ALARM", 0x03E00004, 2, 1, .w1c, 1, 0, 1, 0, 0, 1, .const 0⟩
/-- HLT_STATUS.HELD -/
def hltStatusHeld : Fld := ⟨"HLT_STATUS.HELD", 0x03E00004, 3, 8, .dv, 1, 0, 1, 0, 0, 255, .const 0⟩
/-- HLT_LOG.ADDR -/
def hltLogAddr : Fld := ⟨"HLT_LOG.ADDR", 0x03E00008, 12, 52, .rw, 1, 0, 1, 0, 0, 0xFFFFFFFFFFFFF, .const 0⟩
/-- HLT_LOG_CFG.SIZE_LOG2 -/
def hltLogCfgSizeLog2 : Fld := ⟨"HLT_LOG_CFG.SIZE_LOG2", 0x03E00010, 0, 5, .rw, 1, 0, 1, 0, 8, 20, .const 12⟩
/-- HLT_LOG_PROD.COUNT -/
def hltLogProdCount : Fld := ⟨"HLT_LOG_PROD.COUNT", 0x03E00014, 0, 32, .ro, 1, 0, 1, 0, 0, 0xFFFFFFFF, .const 0⟩
/-- HLT_LOG_CONS.COUNT -/
def hltLogConsCount : Fld := ⟨"HLT_LOG_CONS.COUNT", 0x03E00018, 0, 32, .rw, 1, 0, 1, 0, 0, 0xFFFFFFFF, .const 0⟩
/-- HLT_DROP_TRACE.COUNT -/
def hltDropTraceCount : Fld := ⟨"HLT_DROP_TRACE.COUNT", 0x03E0001C, 0, 32, .rc, 1, 0, 1, 0, 0, 0xFFFFFFFF, .const 0⟩
/-- HLT_DROP_ERR.COUNT -/
def hltDropErrCount : Fld := ⟨"HLT_DROP_ERR.COUNT", 0x03E00020, 0, 32, .rc, 1, 0, 1, 0, 0, 0xFFFFFFFF, .const 0⟩
/-- HLT_SUPPRESS.COUNT -/
def hltSuppressCount : Fld := ⟨"HLT_SUPPRESS.COUNT", 0x03E00024, 0, 32, .rc, 1, 0, 1, 0, 0, 0xFFFFFFFF, .const 0⟩
/-- HLT_COPY_DIFF.COUNT -/
def hltCopyDiffCount : Fld := ⟨"HLT_COPY_DIFF.COUNT", 0x03E00028, 0, 32, .rc, 1, 0, 1, 0, 0, 0xFFFFFFFF, .const 0⟩
/-- HLT_SCORE_CFG.PERIOD_MS -/
def hltScoreCfgPeriodMs : Fld := ⟨"HLT_SCORE_CFG.PERIOD_MS", 0x03E0002C, 0, 16, .rw, 1, 0, 1, 0, 100, 60000, .const 1000⟩
/-- HLT_SCORE_CFG.SCRUB_MS -/
def hltScoreCfgScrubMs : Fld := ⟨"HLT_SCORE_CFG.SCRUB_MS", 0x03E0002C, 16, 16, .rw, 1, 0, 1, 0, 0, 60000, .const 0⟩
/-- HLT_STRAG_CFG.LAG_PCT -/
def hltStragCfgLagPct : Fld := ⟨"HLT_STRAG_CFG.LAG_PCT", 0x03E00030, 0, 8, .rw, 1, 0, 1, 0, 1, 255, .const 20⟩
/-- HLT_STRAG_CFG.LAG_STEPS -/
def hltStragCfgLagSteps : Fld := ⟨"HLT_STRAG_CFG.LAG_STEPS", 0x03E00030, 8, 8, .rw, 1, 0, 1, 0, 1, 255, .const 8⟩
/-- HLT_RESUME.SLOT -/
def hltResumeSlot : Fld := ⟨"HLT_RESUME.SLOT", 0x03E00034, 0, 8, .wo, 1, 0, 1, 0, 0, 255, .const 0⟩
/-- HLT_SHRINK.MEMBER -/
def hltShrinkMember : Fld := ⟨"HLT_SHRINK.MEMBER", 0x03E00038, 0, 6, .rw, 1, 0, 1, 0, 0, 63, .const 0⟩
/-- HLT_SHRINK.SLOT -/
def hltShrinkSlot : Fld := ⟨"HLT_SHRINK.SLOT", 0x03E00038, 6, 3, .rw, 1, 0, 1, 0, 0, 7, .const 0⟩
/-- HLT_SHRINK.GO -/
def hltShrinkGo : Fld := ⟨"HLT_SHRINK.GO", 0x03E00038, 9, 1, .wo, 1, 0, 1, 0, 0, 1, .const 0⟩
/-- HLT_SHRINK.PENDING -/
def hltShrinkPending : Fld := ⟨"HLT_SHRINK.PENDING", 0x03E00038, 16, 1, .dv, 1, 0, 1, 0, 0, 1, .const 0⟩
/-- HLT_SHRINK.STATUS -/
def hltShrinkStatus : Fld := ⟨"HLT_SHRINK.STATUS", 0x03E00038, 24, 8, .ro, 1, 0, 1, 0, 0, 255, .const 0⟩
/-- HLT_VERIFY_ADDR.ADDR -/
def hltVerifyAddrAddr : Fld := ⟨"HLT_VERIFY_ADDR.ADDR", 0x03E0003C, 4, 60, .rw, 1, 0, 1, 0, 0, 0xFFFFFFFFFFFFFFF, .const 0⟩
/-- HLT_VERIFY.ENTRIES -/
def hltVerifyEntries : Fld := ⟨"HLT_VERIFY.ENTRIES", 0x03E00044, 0, 13, .rw, 1, 0, 1, 0, 1, 4096, .const 0⟩
/-- HLT_VERIFY.LODGE -/
def hltVerifyLodge : Fld := ⟨"HLT_VERIFY.LODGE", 0x03E00044, 13, 4, .rw, 1, 0, 1, 0, 0, 15, .const 0⟩
/-- HLT_VERIFY.START -/
def hltVerifyStart : Fld := ⟨"HLT_VERIFY.START", 0x03E00044, 17, 1, .wo, 1, 0, 1, 0, 0, 1, .const 0⟩
/-- HLT_VERIFY.BUSY -/
def hltVerifyBusy : Fld := ⟨"HLT_VERIFY.BUSY", 0x03E00044, 18, 1, .ro, 1, 0, 1, 0, 0, 1, .const 0⟩
/-- HLT_VERIFY.ERR -/
def hltVerifyErr : Fld := ⟨"HLT_VERIFY.ERR", 0x03E00044, 19, 1, .ro, 1, 0, 1, 0, 0, 1, .const 0⟩
/-- HLT_VERIFY.MISMATCH -/
def hltVerifyMismatch : Fld := ⟨"HLT_VERIFY.MISMATCH", 0x03E00044, 20, 12, .ro, 1, 0, 1, 0, 0, 4095, .const 0⟩
/-- HLT_VERIFY_FIRST.FIRST_BAD -/
def hltVerifyFirstFirstBad : Fld := ⟨"HLT_VERIFY_FIRST.FIRST_BAD", 0x03E00048, 0, 13, .ro, 1, 0, 1, 0, 0, 8191, .const 0⟩
/-- HLT_CORE_PASS.PASS -/
def hltCorePassPass : Fld := ⟨"HLT_CORE_PASS.PASS", 0x03E00050, 0, 1, .ro, 160, 1, 1, 0, 0, 1, .const 0⟩
/-- HLT_STRAG.LAG_NS -/
def hltStragLagNs : Fld := ⟨"HLT_STRAG.LAG_NS", 0x03E00080, 0, 24, .ro, 8, 32, 1, 0, 0, 0xFFFFFF, .const 0⟩
/-- HLT_STRAG.MEMBER -/
def hltStragMember : Fld := ⟨"HLT_STRAG.MEMBER", 0x03E00080, 24, 6, .ro, 8, 32, 1, 0, 0, 63, .const 0⟩
/-- HLT_STRAG.FLAGGED -/
def hltStragFlagged : Fld := ⟨"HLT_STRAG.FLAGGED", 0x03E00080, 30, 1, .ro, 8, 32, 1, 0, 0, 1, .const 0⟩
/-- HLT_KW.W_CORR -/
def hltKwWCorr : Fld := ⟨"HLT_KW.W_CORR", 0x03E00100, 0, 8, .rw, 5, 128, 1, 0, 0, 255, .const 1⟩
/-- HLT_KW.W_RETRY -/
def hltKwWRetry : Fld := ⟨"HLT_KW.W_RETRY", 0x03E00100, 8, 8, .rw, 5, 128, 1, 0, 0, 255, .table [64, 16, 16, 4, 8]⟩
/-- HLT_KW.W_RETRAIN -/
def hltKwWRetrain : Fld := ⟨"HLT_KW.W_RETRAIN", 0x03E00100, 16, 8, .rw, 5, 128, 1, 0, 0, 255, .table [255, 128, 128, 64, 64]⟩
/-- HLT_KW.DECAY_LOG2 -/
def hltKwDecayLog2 : Fld := ⟨"HLT_KW.DECAY_LOG2", 0x03E00100, 24, 4, .rw, 5, 128, 1, 0, 1, 15, .const 10⟩
/-- HLT_KWARN.WARN -/
def hltKwarnWarn : Fld := ⟨"HLT_KWARN.WARN", 0x03E00104, 0, 32, .rw, 5, 128, 1, 0, 0, 0xFFFFFFFF, .table [192, 65536, 65536, 65536, 65536]⟩
/-- HLT_KALARM.ALARM -/
def hltKalarmAlarm : Fld := ⟨"HLT_KALARM.ALARM", 0x03E00108, 0, 32, .rw, 5, 128, 1, 0, 0, 0xFFFFFFFF, .table [4096, 1048576, 1048576, 1048576, 1048576]⟩
/-- HLT_ALARM_CNT.COUNT -/
def hltAlarmCntCount : Fld := ⟨"HLT_ALARM_CNT.COUNT", 0x03E00400, 0, 32, .rc, 64, 128, 1, 0, 0, 0xFFFFFFFF, .const 0⟩
/-- HLT_ALARM_TIME.TIME -/
def hltAlarmTimeTime : Fld := ⟨"HLT_ALARM_TIME.TIME", 0x03E00404, 0, 64, .ro, 64, 128, 1, 0, 0, 0xFFFFFFFFFFFFFFFF, .const 0⟩
/-- HLT_ALARM_DET.DETAIL -/
def hltAlarmDetDetail : Fld := ⟨"HLT_ALARM_DET.DETAIL", 0x03E0040C, 0, 32, .ro, 64, 128, 1, 0, 0, 0xFFFFFFFF, .const 0⟩
/-- HLT_CORE_MAP.PHYS -/
def hltCoreMapPhys : Fld := ⟨"HLT_CORE_MAP.PHYS", 0x03E00800, 0, 8, .rw, 160, 32, 1, 0, 0, 255, .index 0⟩
/-- HLT_SCORE.VALUE -/
def hltScoreValue : Fld := ⟨"HLT_SCORE.VALUE", 0x03E01000, 0, 32, .ro, 212, 128, 1, 0, 0, 0xFFFFFFFF, .const 0⟩
/-- HLT_CORR.VALUE -/
def hltCorrValue : Fld := ⟨"HLT_CORR.VALUE", 0x03E01004, 0, 32, .ro, 212, 128, 1, 0, 0, 0xFFFFFFFF, .const 0⟩
/-- HLT_RETRY.VALUE -/
def hltRetryValue : Fld := ⟨"HLT_RETRY.VALUE", 0x03E01008, 0, 32, .ro, 212, 128, 1, 0, 0, 0xFFFFFFFF, .const 0⟩
/-- HLT_RETRAIN.VALUE -/
def hltRetrainValue : Fld := ⟨"HLT_RETRAIN.VALUE", 0x03E0100C, 0, 32, .ro, 212, 128, 1, 0, 0, 0xFFFFFFFF, .const 0⟩

/-- The HLT block. -/
def blockHlt : List Fld :=
  [hltCtrlLogEn, hltCtrlTraceEn, hltCtrlVector, hltStatusDegraded, hltStatusDeviceFault, hltStatusAlarm,
   hltStatusHeld, hltLogAddr, hltLogCfgSizeLog2, hltLogProdCount, hltLogConsCount, hltDropTraceCount,
   hltDropErrCount, hltSuppressCount, hltCopyDiffCount, hltScoreCfgPeriodMs, hltScoreCfgScrubMs, hltStragCfgLagPct,
   hltStragCfgLagSteps, hltResumeSlot, hltShrinkMember, hltShrinkSlot, hltShrinkGo, hltShrinkPending,
   hltShrinkStatus, hltVerifyAddrAddr, hltVerifyEntries, hltVerifyLodge, hltVerifyStart, hltVerifyBusy,
   hltVerifyErr, hltVerifyMismatch, hltVerifyFirstFirstBad, hltCorePassPass, hltStragLagNs, hltStragMember,
   hltStragFlagged, hltKwWCorr, hltKwWRetry, hltKwWRetrain, hltKwDecayLog2, hltKwarnWarn,
   hltKalarmAlarm, hltAlarmCntCount, hltAlarmTimeTime, hltAlarmDetDetail, hltCoreMapPhys, hltScoreValue,
   hltCorrValue, hltRetryValue, hltRetrainValue]

/-! CLK (R470) -/

/-- CLK_STATUS.REF_OK -/
def clkStatusRefOk : Fld := ⟨"CLK_STATUS.REF_OK", 0x00100000, 0, 1, .ro, 1, 0, 1, 0, 0, 1, .const 0⟩
/-- CLK_STATUS.SYS_LOCK -/
def clkStatusSysLock : Fld := ⟨"CLK_STATUS.SYS_LOCK", 0x00100000, 1, 1, .ro, 1, 0, 1, 0, 0, 1, .const 0⟩
/-- CLK_STATUS.SERDES_LOCK -/
def clkStatusSerdesLock : Fld := ⟨"CLK_STATUS.SERDES_LOCK", 0x00100000, 2, 1, .ro, 1, 0, 1, 0, 0, 1, .const 0⟩
/-- CLK_STATUS.CORE_DIV -/
def clkStatusCoreDiv : Fld := ⟨"CLK_STATUS.CORE_DIV", 0x00100000, 3, 4, .ro, 1, 0, 1, 0, 0, 15, .const 8⟩
/-- CLK_REF_LOSS.COUNT -/
def clkRefLossCount : Fld := ⟨"CLK_REF_LOSS.COUNT", 0x00100004, 0, 32, .rc, 1, 0, 1, 0, 0, 0xFFFFFFFF, .const 0⟩
/-- CLK_OBS.SRC -/
def clkObsSrc : Fld := ⟨"CLK_OBS.SRC", 0x00100008, 0, 3, .rw, 1, 0, 1, 0, 0, 5, .const 0⟩
/-- CLK_OBS.DIV -/
def clkObsDiv : Fld := ⟨"CLK_OBS.DIV", 0x00100008, 3, 8, .rw, 1, 0, 1, 0, 1, 255, .const 1⟩

/-- The CLK block. -/
def blockClk : List Fld :=
  [clkStatusRefOk, clkStatusSysLock, clkStatusSerdesLock, clkStatusCoreDiv, clkRefLossCount, clkObsSrc,
   clkObsDiv]

/-! RVE (R471) -/

/-- RVE_CAP.CAP_W -/
def rveCapCapW : Fld := ⟨"RVE_CAP.CAP_W", 0x00200000, 0, 10, .rw, 1, 0, 1, 0, 0, 1023, .const 700⟩
/-- RVE_CAP.HIGHEST -/
def rveCapHighest : Fld := ⟨"RVE_CAP.HIGHEST", 0x00200000, 16, 10, .dv, 1, 0, 1, 0, 0, 1023, .const 700⟩
/-- RVE_LIMIT.DUTY -/
def rveLimitDuty : Fld := ⟨"RVE_LIMIT.DUTY", 0x00200004, 0, 7, .ro, 1, 0, 1, 0, 0, 127, .const 64⟩
/-- RVE_LIMIT.RATE -/
def rveLimitRate : Fld := ⟨"RVE_LIMIT.RATE", 0x00200004, 8, 7, .ro, 1, 0, 1, 0, 0, 127, .const 64⟩
/-- RVE_LIMIT.TABLE_DUTY -/
def rveLimitTableDuty : Fld := ⟨"RVE_LIMIT.TABLE_DUTY", 0x00200004, 16, 7, .ro, 1, 0, 1, 0, 0, 127, .const 64⟩
/-- RVE_LIMIT.LOOP_STEPS -/
def rveLimitLoopSteps : Fld := ⟨"RVE_LIMIT.LOOP_STEPS", 0x00200004, 24, 7, .ro, 1, 0, 1, 0, 0, 127, .const 0⟩
/-- RVE_POWER.AVG_W -/
def rvePowerAvgW : Fld := ⟨"RVE_POWER.AVG_W", 0x00200008, 0, 12, .ro, 1, 0, 1, 0, 0, 4095, .const 0⟩
/-- RVE_POWER.PEAK_W -/
def rvePowerPeakW : Fld := ⟨"RVE_POWER.PEAK_W", 0x00200008, 16, 12, .rc, 1, 0, 1, 0, 0, 4095, .const 0⟩
/-- RVE_INPUT.MV -/
def rveInputMv : Fld := ⟨"RVE_INPUT.MV", 0x0020000C, 0, 16, .ro, 1, 0, 1, 0, 0, 65535, .const 0⟩
/-- RVE_INPUT.MA -/
def rveInputMa : Fld := ⟨"RVE_INPUT.MA", 0x0020000C, 16, 16, .ro, 1, 0, 1, 0, 0, 65535, .const 0⟩
/-- RVE_ENERGY.MJ -/
def rveEnergyMj : Fld := ⟨"RVE_ENERGY.MJ", 0x00200010, 0, 64, .ro, 1, 0, 1, 0, 0, 0xFFFFFFFFFFFFFFFF, .const 0⟩
/-- RVE_LOADSTEP.A_PER_US -/
def rveLoadstepAPerUs : Fld := ⟨"RVE_LOADSTEP.A_PER_US", 0x00200018, 0, 5, .rw, 1, 0, 1, 0, 5, 25, .const 25⟩
/-- RVE_THERM.THROTTLE_C -/
def rveThermThrottleC : Fld := ⟨"RVE_THERM.THROTTLE_C", 0x0020001C, 0, 8, .rw, 1, 0, 1, 0, 60, 95, .const 95⟩
/-- RVE_THERM.HYST_C -/
def rveThermHystC : Fld := ⟨"RVE_THERM.HYST_C", 0x0020001C, 8, 4, .rw, 1, 0, 1, 0, 1, 15, .const 5⟩
/-- RVE_TEMP.TEMP -/
def rveTempTemp : Fld := ⟨"RVE_TEMP.TEMP", 0x00200020, 0, 10, .ro, 7, 32, 1, 0, 0, 1023, .const 0⟩
/-- RVE_TEMP.PEAK -/
def rveTempPeak : Fld := ⟨"RVE_TEMP.PEAK", 0x00200020, 16, 10, .rc, 7, 32, 1, 0, 0, 1023, .const 0⟩
/-- RVE_STATUS.THROTTLED -/
def rveStatusThrottled : Fld := ⟨"RVE_STATUS.THROTTLED", 0x00200040, 0, 4, .ro, 1, 0, 1, 0, 0, 15, .const 0⟩
/-- RVE_STATUS.LOOP -/
def rveStatusLoop : Fld := ⟨"RVE_STATUS.LOOP", 0x00200040, 4, 1, .dv, 1, 0, 1, 0, 0, 1, .const 0⟩
/-- RVE_STATUS.IN_LIMIT -/
def rveStatusInLimit : Fld := ⟨"RVE_STATUS.IN_LIMIT", 0x00200040, 5, 1, .ro, 1, 0, 1, 0, 0, 1, .const 0⟩
/-- RVE_RESET.KEY -/
def rveResetKey : Fld := ⟨"RVE_RESET.KEY", 0x00200044, 0, 32, .wo, 1, 0, 1, 0, 0, 0xFFFFFFFF, .const 0⟩
/-- RVE_CAUSE.LAST_RESET -/
def rveCauseLastReset : Fld := ⟨"RVE_CAUSE.LAST_RESET", 0x00200048, 0, 4, .ro, 1, 0, 1, 0, 0, 15, .const 0⟩
/-- RVE_CAUSE.LAST_OFF -/
def rveCauseLastOff : Fld := ⟨"RVE_CAUSE.LAST_OFF", 0x00200048, 4, 4, .ro, 1, 0, 1, 0, 0, 15, .const 0⟩
/-- RVE_CAUSE.TRIP_SENSOR -/
def rveCauseTripSensor : Fld := ⟨"RVE_CAUSE.TRIP_SENSOR", 0x00200048, 8, 8, .ro, 1, 0, 1, 0, 0, 255, .const 0xFF⟩
/-- RVE_BRINGUP.STOP_AT -/
def rveBringupStopAt : Fld := ⟨"RVE_BRINGUP.STOP_AT", 0x0020004C, 0, 3, .rw, 1, 0, 1, 0, 2, 4, .const 4⟩
/-- RVE_LOOP_CNT.COUNT -/
def rveLoopCntCount : Fld := ⟨"RVE_LOOP_CNT.COUNT", 0x00200050, 0, 32, .rc, 1, 0, 1, 0, 0, 0xFFFFFFFF, .const 0⟩
/-- RVE_ERR.BITS -/
def rveErrBits : Fld := ⟨"RVE_ERR.BITS", 0x00200054, 0, 4, .w1c, 1, 0, 1, 0, 0, 15, .const 0⟩

/-- The RVE block. -/
def blockRve : List Fld :=
  [rveCapCapW, rveCapHighest, rveLimitDuty, rveLimitRate, rveLimitTableDuty, rveLimitLoopSteps,
   rvePowerAvgW, rvePowerPeakW, rveInputMv, rveInputMa, rveEnergyMj, rveLoadstepAPerUs,
   rveThermThrottleC, rveThermHystC, rveTempTemp, rveTempPeak, rveStatusThrottled, rveStatusLoop,
   rveStatusInLimit, rveResetKey, rveCauseLastReset, rveCauseLastOff, rveCauseTripSensor, rveBringupStopAt,
   rveLoopCntCount, rveErrBits]

/-! PRT (R486) -/

/-- PRT_CTRL.SMB_EN -/
def prtCtrlSmbEn : Fld := ⟨"PRT_CTRL.SMB_EN", 0x00400000, 0, 1, .rw, 1, 0, 1, 0, 0, 1, .const 1⟩
/-- PRT_CTRL.SPI_EN -/
def prtCtrlSpiEn : Fld := ⟨"PRT_CTRL.SPI_EN", 0x00400000, 1, 1, .rw, 1, 0, 1, 0, 0, 1, .const 1⟩
/-- PRT_CTRL.UART_EN -/
def prtCtrlUartEn : Fld := ⟨"PRT_CTRL.UART_EN", 0x00400000, 2, 1, .rw, 1, 0, 1, 0, 0, 1, .const 1⟩
/-- PRT_CTRL.WDOG_MS -/
def prtCtrlWdogMs : Fld := ⟨"PRT_CTRL.WDOG_MS", 0x00400000, 16, 16, .rw, 1, 0, 1, 0, 100, 60000, .const 5000⟩
/-- PRT_UART.DIV -/
def prtUartDiv : Fld := ⟨"PRT_UART.DIV", 0x00400004, 0, 12, .rw, 1, 0, 1, 0, 1, 4095, .const 109⟩
/-- PRT_UART.MODE -/
def prtUartMode : Fld := ⟨"PRT_UART.MODE", 0x00400004, 12, 1, .rw, 1, 0, 1, 0, 0, 1, .const 0⟩
/-- PRT_STATUS.QUEUE -/
def prtStatusQueue : Fld := ⟨"PRT_STATUS.QUEUE", 0x00400008, 0, 6, .dv, 1, 0, 1, 0, 0, 63, .const 0⟩
/-- PRT_STATUS.SUMMARY -/
def prtStatusSummary : Fld := ⟨"PRT_STATUS.SUMMARY", 0x00400008, 6, 1, .dv, 1, 0, 1, 0, 0, 1, .const 0⟩
/-- PRT_STATUS.OVERLONG -/
def prtStatusOverlong : Fld := ⟨"PRT_STATUS.OVERLONG", 0x00400008, 7, 1, .w1c, 1, 0, 1, 0, 0, 1, .const 0⟩
/-- PRT_STATUS.ADDR_STRAP -/
def prtStatusAddrStrap : Fld := ⟨"PRT_STATUS.ADDR_STRAP", 0x00400008, 8, 2, .dv, 1, 0, 1, 0, 0, 3, .const 0⟩
/-- PRT_FRAME_ERR.CRC -/
def prtFrameErrCrc : Fld := ⟨"PRT_FRAME_ERR.CRC", 0x0040000C, 0, 8, .rc, 1, 0, 1, 0, 0, 255, .const 0⟩
/-- PRT_FRAME_ERR.PARTIAL -/
def prtFrameErrPartial : Fld := ⟨"PRT_FRAME_ERR.PARTIAL", 0x0040000C, 8, 8, .rc, 1, 0, 1, 0, 0, 255, .const 0⟩
/-- PRT_FRAME_ERR.SHORT -/
def prtFrameErrShort : Fld := ⟨"PRT_FRAME_ERR.SHORT", 0x0040000C, 16, 8, .rc, 1, 0, 1, 0, 0, 255, .const 0⟩
/-- PRT_FRAME_ERR.OVERLONG -/
def prtFrameErrOverlong : Fld := ⟨"PRT_FRAME_ERR.OVERLONG", 0x0040000C, 24, 8, .rc, 1, 0, 1, 0, 0, 255, .const 0⟩
/-- PRT_REFUSED.COUNT -/
def prtRefusedCount : Fld := ⟨"PRT_REFUSED.COUNT", 0x00400010, 0, 32, .rc, 1, 0, 1, 0, 0, 0xFFFFFFFF, .const 0⟩
/-- PRT_PPS_REJECT.COUNT -/
def prtPpsRejectCount : Fld := ⟨"PRT_PPS_REJECT.COUNT", 0x00400014, 0, 32, .rc, 1, 0, 1, 0, 0, 0xFFFFFFFF, .const 0⟩
/-- PRT_PPS_CNT.COUNT -/
def prtPpsCntCount : Fld := ⟨"PRT_PPS_CNT.COUNT", 0x00400018, 0, 32, .ro, 1, 0, 1, 0, 0, 0xFFFFFFFF, .const 0⟩
/-- PRT_PPS_TS.NS -/
def prtPpsTsNs : Fld := ⟨"PRT_PPS_TS.NS", 0x00400020, 0, 64, .ro, 1, 0, 1, 0, 0, 0xFFFFFFFFFFFFFFFF, .const 0⟩
/-- PRT_PPS_ST.NS -/
def prtPpsStNs : Fld := ⟨"PRT_PPS_ST.NS", 0x00400028, 0, 64, .ro, 1, 0, 1, 0, 0, 0xFFFFFFFFFFFFFFFF, .const 0⟩
/-- PRT_PPS_FT.NS -/
def prtPpsFtNs : Fld := ⟨"PRT_PPS_FT.NS", 0x00400030, 0, 64, .ro, 1, 0, 1, 0, 0, 0xFFFFFFFFFFFFFFFF, .const 0⟩
/-- PRT_FW.BOOTED -/
def prtFwBooted : Fld := ⟨"PRT_FW.BOOTED", 0x00400038, 0, 1, .dv, 1, 0, 1, 0, 0, 1, .const 0⟩
/-- PRT_FW.NEXT -/
def prtFwNext : Fld := ⟨"PRT_FW.NEXT", 0x00400038, 1, 1, .dv, 1, 0, 1, 0, 0, 1, .const 0⟩
/-- PRT_FW.VERIFY -/
def prtFwVerify : Fld := ⟨"PRT_FW.VERIFY", 0x00400038, 2, 4, .ro, 1, 0, 1, 0, 0, 15, .const 0⟩

/-- The PRT block. -/
def blockPrt : List Fld :=
  [prtCtrlSmbEn, prtCtrlSpiEn, prtCtrlUartEn, prtCtrlWdogMs, prtUartDiv, prtUartMode,
   prtStatusQueue, prtStatusSummary, prtStatusOverlong, prtStatusAddrStrap, prtFrameErrCrc, prtFrameErrPartial,
   prtFrameErrShort, prtFrameErrOverlong, prtRefusedCount, prtPpsRejectCount, prtPpsCntCount, prtPpsTsNs,
   prtPpsStNs, prtPpsFtNs, prtFwBooted, prtFwNext, prtFwVerify]

/-! TLG (R487) -/

/-- TLG_STATUS.BOOT_OK -/
def tlgStatusBootOk : Fld := ⟨"TLG_STATUS.BOOT_OK", 0x00300000, 0, 1, .ro, 1, 0, 1, 0, 0, 1, .const 0⟩
/-- TLG_STATUS.BOOT_FAIL -/
def tlgStatusBootFail : Fld := ⟨"TLG_STATUS.BOOT_FAIL", 0x00300000, 1, 1, .ro, 1, 0, 1, 0, 0, 1, .const 0⟩
/-- TLG_STATUS.DEBUG -/
def tlgStatusDebug : Fld := ⟨"TLG_STATUS.DEBUG", 0x00300000, 2, 1, .dv, 1, 0, 1, 0, 0, 1, .const 0⟩
/-- TLG_STATUS.CLASSES_OK -/
def tlgStatusClassesOk : Fld := ⟨"TLG_STATUS.CLASSES_OK", 0x00300000, 3, 1, .ro, 1, 0, 1, 0, 0, 1, .const 0⟩
/-- TLG_STATUS.KEYS -/
def tlgStatusKeys : Fld := ⟨"TLG_STATUS.KEYS", 0x00300000, 16, 16, .dv, 1, 0, 1, 0, 0, 65535, .const 0⟩
/-- TLG_ROLLBACK.VALUE -/
def tlgRollbackValue : Fld := ⟨"TLG_ROLLBACK.VALUE", 0x00300004, 0, 32, .dv, 1, 0, 1, 0, 0, 0xFFFFFFFF, .const 0⟩
/-- TLG_VERSION.VALUE -/
def tlgVersionValue : Fld := ⟨"TLG_VERSION.VALUE", 0x00300008, 0, 32, .dv, 1, 0, 1, 0, 0, 0xFFFFFFFF, .const 0⟩
/-- TLG_MEAS.DIGEST -/
def tlgMeasDigest : Fld := ⟨"TLG_MEAS.DIGEST", 0x00300100, 0, 32, .ro, 4, 512, 12, 32, 0, 0xFFFFFFFF, .const 0⟩

/-- The TLG block. -/
def blockTlg : List Fld :=
  [tlgStatusBootOk, tlgStatusBootFail, tlgStatusDebug, tlgStatusClassesOk, tlgStatusKeys, tlgRollbackValue,
   tlgVersionValue, tlgMeasDigest]

end Reg

end Sys2Proof.Machine
end

