-- ==== Sys2Proof/Machine/State.lean ====
section
/-!
DEFINITION. The whole state of the XT-1640 serving module as plain data, and the state after reset.
-/

namespace Sys2Proof.Machine

/-! ## Commands, places and cores (R69, R83, R89, R103, R253) -/

/-- An operand-table entry (R87), decoded. -/
structure OpEnt where
  /-- lodge address or core-store offset -/
  addr : Nat
  /-- scale array -/
  scale : Nat
  /-- bytes between rows -/
  stride : Nat
  /-- 0 X, 1 W, 2 BIAS, 3 C, 4 GATHER, 5 SCATTER, 6 VEC, 7 AUXOUT -/
  role : Nat
  /-- 0 device memory, 1 core store -/
  space : Nat
  /-- STAGED -/
  staged : Bool
  /-- bytes of the buffer -/
  len : Nat
  /-- bytes between rows of the scale array -/
  sstride : Nat
  deriving DecidableEq, Repr

/-- A command: its descriptor (R335) and where it came from. -/
structure Cmd where
  /-- the eight 64-bit descriptor words -/
  words : List Nat
  /-- submit ring; 0xFF for a command of the step scheduler -/
  ring : Nat
  /-- issued by the step scheduler of a model slot -/
  sched : Bool
  /-- that model slot -/
  slot : Nat
  /-- the lodge it acts for -/
  lodge : Nat
  /-- priority class (R284) -/
  cls : Nat
  /-- clients (R284) -/
  clients : List Nat
  /-- submit-ring count (DESC_IDX) -/
  idx : Nat
  /-- its place in the order of all fetches; the model's own, since DESC_IDX wraps and starts again when a ring is enabled -/
  seq : Nat
  /-- kills for pre-emption so far (R286) -/
  kills : Nat
  /-- arrival at its queue, device ns (R294) -/
  arrived : Nat
  /-- captured base added to WAIT_VALUE (R306); 0 for ring commands -/
  waitBase : Nat
  /-- an effect outside the commit set already made by a killed run -/
  done : Bool
  deriving DecidableEq, Repr

/-- How far a command in a place has come (R89). -/
inductive JobSt where
  /-- DECODE -/
  | decode
  /-- WAIT -/
  | wait
  /-- RUN -/
  | run
  /-- FENCE: the last write is issued; the commit point is next -/
  | fence
  /-- KILL -/
  | kill
  deriving DecidableEq, Repr

/-- A command in a place of a slot. -/
structure Job where
  /-- the command -/
  cmd : Cmd
  /-- its state -/
  st : JobSt
  /-- its completion entry is reserved (R333) -/
  reserved : Bool
  /-- it has waited for that reservation -/
  stalled : Bool
  /-- the status it ends with -/
  status : Nat
  /-- when a kill ends: return to the head of the ring's queue (R287) -/
  rerun : Bool
  /-- when a kill ends: write a completion record (R84) -/
  record : Bool
  /-- ARITH_FLAGS so far (R63) -/
  flags : Flags
  /-- RESULT -/
  result : Nat
  /-- STAGED outputs: logical page and its new bytes (R81) -/
  staged : List (Nat × List Byte)
  /-- DIRECT outputs: lodge address and bytes, published at the commit point (R81) -/
  direct : List (Nat × List Byte)
  /-- the operand table it runs with -/
  optab : List OpEnt
  /-- entry to its present state, device ns -/
  since : Nat
  /-- entry to DECODE, device ns (R286) -/
  decoded : Nat
  /-- pages pinned for it, as lodge · 2^27 + page number (R105, R195) -/
  pins : List Nat
  /-- requests sent to other devices and not yet answered -/
  waiting : List Nat
  /-- activation-buffer bytes held (R110) -/
  abuf : Nat
  deriving DecidableEq, Repr

/-- One open LOOP of a vector program (R78, R502). -/
structure LoopFrame where
  /-- the instruction after the LOOP -/
  start : Nat
  /-- times to run -/
  total : Nat
  /-- times run so far -/
  idx : Nat
  deriving DecidableEq, Repr

/-- A vector unit (R78, R501): its registers hold one row of `n` lanes. -/
structure VecUnit where
  /-- lanes of a row -/
  n : Nat
  /-- base row (R502) -/
  base : Nat
  /-- V0 to V31; a register not listed holds +0 in every lane (R501) -/
  regs : Tbl (List F32)
  /-- open loops, innermost first -/
  loops : List LoopFrame
  /-- next instruction -/
  pc : Nat
  /-- flags collected -/
  flags : Flags
  /-- TQ2 invalid codes met (R59) -/
  badTernary : Nat
  /-- rows stored: operand-table entry, byte offset, bytes; scale bytes are separate stores -/
  stores : List (Nat × Nat × List Byte)
  /-- device-memory ranges read: address and length -/
  loads : List (Nat × Nat)
  /-- an execution fault met (0 none) -/
  fault : Nat
  deriving DecidableEq, Repr

/-- A vector unit at the start of a run (R501). -/
def VecUnit.fresh (n base : Nat) : VecUnit := ⟨n, base, [], [], 0, 0, 0, [], [], 0⟩

/-- A shadowed tile command in flight (R94). -/
structure Shadow where
  /-- the tile -/
  tile : Nat
  /-- CMD_TAG of its command -/
  tag : Nat
  /-- lodge of its command -/
  lodge : Nat
  /-- submit ring of its command -/
  ring : Nat
  /-- `seq` of its command -/
  seq : Nat
  deriving DecidableEq, Repr

/-- A core (R68, R89, R93, R95). Places: 0 compute slot; 1 to 8 near-bank slot; 9 to 12 Wain slot (R307). -/
structure Core where
  /-- commands waiting, oldest first, at most 16 (R98) -/
  queue : List Cmd
  /-- the commands in its places -/
  places : Tbl Job
  /-- lodge of the current or last command (CMP_STATUS) -/
  lodge : Nat
  /-- lodge of the previous command, once one has run (R75) -/
  spLodge : Option Nat
  /-- staging reserve in effect (CMP_CS_CFG acts at the next IDLE) -/
  stage : Nat
  /-- page map: lodge · 512 + logical page, to physical page (R81) -/
  pageMap : Tbl Nat
  /-- shadowed tile commands in flight, oldest first (R94) -/
  shadows : List Shadow
  /-- suspect count against core c + 40 (R95) -/
  suspectUp : Nat
  /-- suspect count against core c − 40 (R95) -/
  suspectDown : Nat
  /-- quarantined (R95) -/
  quarantined : Bool
  /-- the vector unit: of the tile that runs the program; the eight tiles' units are alike, and R16 lets no result tell them apart -/
  vec : VecUnit
  /-- lodge weighted round-robin counts per slot kind, key kind · 16 + lodge (R504) -/
  lodgeCur : Tbl Int
  /-- ring round-robin pointers per slot kind and lodge, key kind · 16 + lodge (R504) -/
  ringPtr : Tbl Nat
  /-- lodge weighted round-robin counts of the descriptors held back for room in its queue (R98, R24) -/
  holdCur : Tbl Int
  /-- and the ring pointers by lodge -/
  holdPtr : Tbl Nat
  deriving DecidableEq, Repr

/-- A core at reset (R96). -/
def Core.reset : Core := ⟨[], [], 0, none, 128, [], [], 0, 0, false, VecUnit.fresh 0 0, [], [], [], []⟩

/-- The tile scratchpads of every core (R68, R71, R72). -/
structure Pad where
  /-- their bytes, keyed core · 2^21 + tile · 2^18 + address; an unlisted byte is zero -/
  bytes : List Host.Cell
  /-- the master whose turn is next at each bank's read port, keyed core · 64 + tile · 8 + bank -/
  readTurn : Tbl Nat
  /-- and at its write port -/
  writeTurn : Tbl Nat
  deriving DecidableEq, Repr

/-! ## Tallies (R300, R302, R310) -/

/-- A bound Tally. -/
structure Tally where
  /-- its core -/
  core : Nat
  /-- its lodge -/
  lodge : Nat
  /-- its group; 0 none -/
  group : Nat
  /-- COUNT -/
  count : Nat
  /-- OVF (R309) -/
  ovf : Bool
  /-- timestamp of the last signal -/
  last : Nat
  deriving DecidableEq, Repr

/-- A configured Tally group; keyed core · 16 + group. -/
structure TGroup where
  /-- its lodge -/
  lodge : Nat
  /-- model slot, or 0xF -/
  slot : Nat
  /-- EVERY -/
  every : Nat
  /-- RECKON_SUM -/
  sum : Nat
  deriving DecidableEq, Repr

/-! ## Memory (R167 to R200) -/

/-- A mapped 2 MiB page; keyed lodge · 2^27 + page number. -/
structure Page where
  /-- tier it lies in: 1, 2, 3 -/
  tier : Nat
  /-- frame in that tier -/
  frame : Nat
  /-- TIER of its MEM_MAP (R173) -/
  pref : Nat
  /-- LOCK -/
  lock : Bool
  /-- 0 PLAIN, 1 HELD, 2 REPLICABLE (R185) -/
  attr : Nat
  /-- VERSION of a REPLICABLE page (R189) -/
  version : Nat
  /-- access count (R177) -/
  count : Nat
  /-- 64-byte units towards the next count -/
  units : Nat
  /-- a harvest page: slot · 4096 + entry, and its kept source tier and frame (R184) -/
  harvest : Option (Nat × Nat × Nat)
  /-- written since its harvest promotion (R184) -/
  dirty : Bool
  deriving DecidableEq, Repr

/-- A migration under way (R179 to R181); keyed like its page. -/
structure Migr where
  /-- destination tier -/
  tier : Nat
  /-- destination frame -/
  frame : Nat
  /-- chunks copied, 0 to 32 -/
  chunk : Nat
  /-- a harvest prefetch: slot · 4096 + entry -/
  harvest : Option Nat
  /-- the promotion that waits for this demotion's frame -/
  next : Option Nat
  deriving DecidableEq, Repr

/-- A directory entry for one 128-byte line (R190); keyed (lodge · 2^48 + address) / 128. -/
structure DirEnt where
  /-- span members that hold a copy -/
  sharers : List Nat
  /-- compute dies of this device whose line caches hold a copy -/
  dies : List Nat
  /-- EXCLUSIVE: a single compute die may write without request -/
  exclusive : Bool
  /-- last use, for recall order -/
  used : Nat
  deriving DecidableEq, Repr

/-- A Type 3 device behind a tray port (R196, R197). -/
structure Tray where
  /-- port 0 to 3 -/
  port : Nat
  /-- index on the port -/
  idx : Nat
  /-- first T3 frame -/
  base : Nat
  /-- frames -/
  frames : Nat
  /-- enabled by enumeration -/
  enabled : Bool
  /-- marked lost -/
  lost : Bool
  deriving DecidableEq, Repr

/-- The memory system. -/
structure Mem where
  /-- bytes of mapped pages, keyed lodge · 2^48 + lodge address; an unlisted byte reads zero (R172) -/
  bytes : List Host.Cell
  /-- poisoned 64-byte units, keyed (lodge · 2^48 + address) / 64 (R169) -/
  poison : List Nat
  /-- mapped pages -/
  pages : Tbl Page
  /-- frames released and not yet zeroed, as tier and frame (R172) -/
  zeroing : List (Nat × Nat)
  /-- migrations under way -/
  migr : Tbl Migr
  /-- prefetches waiting for an engine or a frame: page, slot · 4096 + entry (R183) -/
  prefetch : List (Nat × Nat)
  /-- written harvest pages released while no engine was free, or while they were pinned (R184) -/
  demote : List Nat
  /-- pages of passed harvest entries whose release waits for a pin or a migration to end (R183) -/
  leaving : List Nat
  /-- promotions that wait for the T1 frame a demotion has released (R178) -/
  awaiting : List Nat
  /-- slots whose harvest table has been checked since its configuration: 0 unknown, 1 good, 2 bad (R183) -/
  hvCheck : Tbl Nat
  /-- the directory (R190) -/
  dir : Tbl DirEnt
  /-- directory lines being recalled, with the members still to answer (R191) -/
  recalls : List (Nat × List Nat)
  /-- lines in the line caches of the compute dies, as die and line, least recently used first (R186) -/
  lines : List (Nat × Nat)
  /-- tray devices -/
  trays : List Tray
  deriving DecidableEq, Repr

/-! ## Rings (R328 to R340) -/

/-- What a ring holds beside its registers; keyed by ring. -/
structure Ring where
  /-- pending mark of wake writes (R330) -/
  mark : Bool
  /-- HOST_IDX last read (R329) -/
  hostIdx : Nat
  /-- completion or step entries reserved (R333) -/
  reserved : Nat
  /-- descriptors fetched that have no record yet, by `Cmd.seq` -/
  live : List Nat
  /-- records counted towards the interrupt (R340) -/
  irqPend : Nat
  /-- BARRIERs waiting: command and the earlier descriptors without records -/
  barriers : List (Cmd × Nat)
  /-- a fetched descriptor that waits for room at its core's queue (R98, R25) -/
  hold : Option Cmd
  /-- records that wait for room, oldest first: five fields of R337 and the command -/
  waiting : List (Cmd × Nat × Nat × Nat × Nat)
  /-- of a completion ring: the submit ring whose commands in DECODE have the next turn at a freed entry (R333, R24) -/
  turn : Nat
  deriving DecidableEq, Repr

/-- A ring at reset. -/
def Ring.reset : Ring := ⟨false, 0, 0, [], 0, [], .none, [], 0⟩

/-! ## Lodges (R274 to R295) -/

/-- A client record (R293); keyed lodge · 2^17 + client, an overflow record at lodge · 2^17 + 2^16. -/
structure Client where
  /-- WAIT_SUM -/
  waitSum : Nat
  /-- WAIT_MAX -/
  waitMax : Nat
  /-- WAITS -/
  waits : Nat
  /-- PREEMPT -/
  preempt : Nat
  /-- FALLBACK -/
  fallback : Nat
  /-- LATE -/
  late : Nat
  /-- ADMITS -/
  admits : Nat
  /-- TOKENS -/
  tokens : Nat
  /-- HIST0 to HIST15 -/
  hist : Tbl Nat
  deriving DecidableEq, Repr

/-- A client record with every counter zero. -/
def Client.zero : Client := ⟨0, 0, 0, 0, 0, 0, 0, 0, []⟩

/-- What the lodge block holds beside its registers. -/
structure Lod where
  /-- tenant bindings: tenant to lodge (R277) -/
  tenants : Tbl Nat
  /-- client records claimed -/
  clients : Tbl Client
  /-- MIN_TOK, keyed lodge · 8 + path (R289) -/
  minTok : Tbl Int
  /-- MAX_TOK, keyed lodge · 8 + path -/
  maxTok : Tbl Int
  /-- weighted round-robin counts of the path arbiters, keyed path · 16 + lodge (R504) -/
  pathCur : Tbl Int
  /-- fetch arbiter counts by lodge, and ring pointers by lodge (R331) -/
  fetchCur : Tbl Int
  /-- ring pointers of the fetch arbiter -/
  fetchPtr : Tbl Nat
  /-- persona written, waiting to take effect (R298) -/
  newPersona : Option Nat
  /-- the LOD_CMD operation under way: OP, lodge, STATUS and COUNT it will report -/
  op : Option (Nat × Nat × Nat × Nat)
  /-- requests left waiting at the last grant point of paths 0 to 3, as path · 16 + lodge (R289) -/
  pathWait : List Nat
  /-- bytes of device traffic granted since the last microsecond began, by path (R291) -/
  devUsed : Tbl Nat
  deriving DecidableEq, Repr

/-! ## Health (R427 to R451) -/

/-- An event on its way to the board controller (R434). -/
structure Ev where
  /-- 0 alarm, 1 error, 2 trace (R427) -/
  cls : Nat
  /-- TYPE of R430 -/
  typ : Nat
  /-- lodge concerned; 0xF the device -/
  lodge : Nat
  /-- part index; 0xFF none -/
  part : Nat
  /-- COUNT of R429 -/
  count : Nat
  /-- time, ns -/
  time : Nat
  /-- DETAIL words 2 and 3 -/
  w2 : Nat
  /-- DETAIL word 3 -/
  w3 : Nat
  deriving DecidableEq, Repr

/-- What the health block holds beside its registers. -/
structure Hlt where
  /-- Porter's queue of events, oldest first, at most 32 (R434) -/
  portq : List Ev
  /-- events raised since the last summary, by class -/
  raised : Tbl Nat
  /-- events not forwarded since the last summary, by class -/
  unsent : Tbl Nat
  /-- pending alarm slots: type to occurrences since its last record, lodge, part (R431) -/
  pending : Tbl (Nat × Nat × Nat)
  /-- DETAIL of the latest occurrence per alarm type, both words -/
  detail : Tbl (Nat × Nat)
  /-- error sources: key to tokens spent and suppressed count (R432) -/
  sources : Tbl (Nat × Nat)
  /-- counter values at the last score update, keyed part · 4 + kind (R436) -/
  base : Tbl Nat
  /-- parts in alarm (R437) -/
  alarmed : List Nat
  /-- parts past the warning threshold (R437) -/
  warned : List Nat
  /-- slots held (R440) -/
  held : List Nat
  /-- the lagging-step counts, keyed slot · 64 + member (R441) -/
  lag : Tbl Nat
  deriving DecidableEq, Repr

/-! ## The Guest Ledger (R201 to R231) -/

/-- What an ADMIT says (R204, R207): the fields that do not change afterwards. -/
structure Req where
  /-- PRIO -/
  prio : Nat
  /-- NO_LIVERY -/
  noLivery : Bool
  /-- SAMPLE -/
  sample : Bool
  /-- LODGE -/
  lodge : Nat
  /-- MODEL_SLOT -/
  model : Nat
  /-- FALLBACK_SLOT -/
  fbModel : Nat
  /-- GROUP_FIRST -/
  groupFirst : Nat
  /-- STEP_RING -/
  stepRing : Nat
  /-- TENANT -/
  tenant : Nat
  /-- CLIENT -/
  client : Nat
  /-- LIVERY -/
  livery : Nat
  /-- SEED -/
  seed : Nat
  /-- PROMPT_LEN -/
  promptLen : Nat
  /-- MAX_LEN -/
  maxLen : Nat
  /-- EXPECT_LEN -/
  expectLen : Nat
  /-- DEADLINE -/
  deadline : Nat
  /-- ADMIT_TIME -/
  admitTime : Nat
  /-- PROMPT_ADDR -/
  promptAddr : Nat
  /-- STOP -/
  stop : Nat
  /-- TEMP -/
  temp : Nat
  /-- TOP_K -/
  topK : Nat
  /-- CMD_TAG -/
  tag : Nat
  deriving DecidableEq, Repr

/-- The reductions across the members of an express group in one step (R31, R153, R217, R218). -/
structure Reduce where
  /-- STEP -/
  step : Nat
  /-- reductions not yet complete, in the order of OP: OP, ELEMS, and D and list entries of an exchange of attention partials -/
  todo : List (Nat × Nat × Option (Nat × Nat))
  /-- this device's node of the first of them, once sent -/
  own : Option (List Byte)
  /-- nodes received: STEP, OP, SENDER, values -/
  nodes : List (Nat × Nat × Nat × List Byte)
  /-- results of the step's reductions so far, in the order of OP -/
  sums : List (List Word32)
  deriving DecidableEq, Repr

/-- No step. -/
def Reduce.idle : Reduce := ⟨0, [], none, [], []⟩

/-- A ledger entry (R204): the request and what changes while it lives. -/
structure Entry where
  /-- the request -/
  req : Req
  /-- STATE: 0 FREE to 10 ORPHANED (R205) -/
  st : Nat
  /-- PATH: 0 short, 1 main, 2 push -/
  path : Nat
  /-- FALLBACK -/
  fallback : Bool
  /-- CANCEL_PEND -/
  cancel : Bool
  /-- GROUP_LOG2 -/
  groupLog2 : Nat
  /-- member indices of the express group, this device among them; empty for other classes -/
  group : List Nat
  /-- GEN of the handle -/
  gen : Nat
  /-- END_REASON -/
  reason : Nat
  /-- GEN_LEN -/
  genLen : Nat
  /-- KV_LIST: device and lodge address -/
  kvList : Nat × Nat
  /-- DRAFT_LIST: device and lodge address -/
  draftList : Nat × Nat
  /-- STEPS -/
  steps : Nat
  /-- EMITTED -/
  emitted : Nat
  /-- DISPLACED -/
  displaced : Nat
  /-- SHARED -/
  shared : Nat
  /-- PREDICTED -/
  predicted : Nat
  /-- entry to the present state, ns (R294) -/
  since : Nat
  /-- draft tokens produced and not yet verified (R214) -/
  drafts : List Nat
  /-- a query row met no unmasked position in this step (R151) -/
  emptyAttn : Bool
  /-- the last emitted token -/
  lastToken : Nat
  /-- main-list and draft-list entries held: list index to R140 word -/
  pages : Tbl Nat × Tbl Nat
  /-- group members that have not answered GROUP_CHECK -/
  waitGroup : List Nat
  /-- group members that keep a member record for it -/
  agreed : List Nat
  /-- the lowest-indexed failing group member and its status (R218), or a page operation's failure -/
  failed : Option (Nat × Nat)
  /-- the candidate list of PREFIX, until it is compared -/
  cand : List Nat
  /-- PAGE_OPs not yet answered, oldest first: home, FIRST, COUNT, OP -/
  pageOps : List (Nat × Nat × Nat × Nat)
  /-- main-list entries still to be allocated, in order: home, first, count -/
  runs : List (Nat × Nat × Nat)
  /-- members whose GROUP_STEP_ACK is missing -/
  waitStep : List Nat
  /-- members whose GROUP_MAP_ACK is missing -/
  waitMap : List Nat
  /-- this device's part in the reductions of its step, as the group's leader -/
  red : Reduce
  /-- the Prompt device asked last, while its answer is due -/
  offered : Option Nat
  /-- Prompt devices that answered BUSY to this round of offers -/
  busy : List Nat
  /-- the Prompt device that prefills it -/
  prompt : Option Nat
  /-- layers acknowledged on the push path: LAYER + 256 · LIST -/
  layers : List Nat
  /-- LAYERS of PREFILL_DONE, once it has come -/
  doneLayers : Option Nat
  /-- its LAST unit is written (R221) -/
  lastOut : Bool
  /-- the ADMIT command whose record is due -/
  admitCmd : Option Cmd
  deriving DecidableEq, Repr

/-- A step record that waits for room in its ring (R219, R221). -/
structure StepRec where
  /-- its ring -/
  ring : Nat
  /-- its units, header first: eight words each, PHASE clear -/
  units : List (List Nat)
  /-- entries whose LAST unit it carries -/
  lasts : List Nat
  /-- its place in the order of boundaries (R221) -/
  order : Nat
  deriving DecidableEq, Repr

/-- The step scheduler of a model slot (R212 to R221). -/
structure Slot where
  /-- a step runs -/
  running : Bool
  /-- its start, ns -/
  started : Nat
  /-- entries of the batch, in rank order -/
  batch : List Nat
  /-- entries of the in-place prefill pass -/
  pass : List Nat
  /-- rows of each sequence that the step runs for another ledger's express entry -/
  guests : List Nat
  /-- long-path entries whose FIRST_TOKEN arrived since the last boundary -/
  firsts : List Nat
  /-- entries that ended outside a step since the last boundary -/
  ended : List Nat
  /-- records not yet written -/
  recs : List StepRec
  /-- the wait for ring room has been counted -/
  stalled : Bool
  /-- member to be removed at the next boundary (R442) -/
  shrink : Option Nat
  /-- arrival of each member's last combining node in this step (R441) -/
  nodeAt : Tbl Nat
  /-- commands of the running stream that wait for their turn to be issued, the next first -/
  todo : List Cmd
  /-- later layers of the running stream -/
  left : List (List Cmd)
  /-- the whole running stream by layers, from which an abandoned step starts again (R440) -/
  stream : List (List Cmd)
  /-- FORM: the step runs the array form (R122) -/
  array : Bool
  /-- the prefill whose stream runs, at a Prompt device -/
  prefill : Option Nat
  deriving DecidableEq, Repr

/-- A slot with no step. -/
def Slot.idle : Slot := ⟨false, 0, [], [], [], [], [], [], false, none, [], [], [], [], false, none⟩

/-- A member record: this device's part in another ledger's express request (R218); keyed device · 2^32 + handle. -/
structure Member where
  /-- TENANT -/
  tenant : Nat
  /-- MODEL_SLOT -/
  slot : Nat
  /-- FALLBACK_SLOT -/
  fb : Nat
  /-- this device's index in the group -/
  index : Nat
  /-- GROUP_LOG2 -/
  log2 : Nat
  /-- MEMBERS -/
  members : Nat
  /-- LIVERY; 65,536 for NO_LIVERY -/
  livery : Nat
  /-- PROMPT_LEN and MAX_LEN -/
  lens : Nat × Nat
  /-- STEP of the leader -/
  step : Nat
  /-- POS -/
  pos : Nat
  /-- tokens of the step's rows -/
  tokens : List Nat
  /-- only the fallback model runs -/
  fallback : Bool
  /-- a step is to be run and acknowledged -/
  stepping : Bool
  /-- the slot's running step runs it -/
  joined : Bool
  /-- this device's part in the reductions of the step -/
  red : Reduce
  deriving DecidableEq, Repr

/-- A prefill this device runs for another ledger (R35, R211); keyed device · 2^32 + handle. -/
structure Sub where
  /-- the offer -/
  msg : Msg
  /-- its lodge here -/
  lodge : Nat
  /-- the model slot with its key -/
  slot : Nat
  /-- the slot of the draft model -/
  fb : Nat
  /-- accepted: pages are there -/
  accepted : Bool
  /-- its own copy of the main list's address -/
  list : Nat
  /-- PAGE_OPs not yet answered: OP -/
  ops : List Nat
  /-- list entries still to be written at the ledger's device, by tag -/
  writes : List Nat
  /-- PREFILL_CANCEL has come -/
  cancel : Bool
  /-- its place in the order of acceptance -/
  order : Nat
  /-- layers written so far -/
  layers : Nat
  /-- its stream has ended: the first token -/
  ended : Option Nat
  deriving DecidableEq, Repr

/-- What the ledger holds beside its registers. -/
structure Ldg where
  /-- entries that are not FREE, keyed by slot -/
  entries : Tbl Entry
  /-- GEN of each slot; 1 at reset (R201) -/
  gens : Tbl Nat
  /-- slots freed since reset, oldest first; slots never used come before them in ascending order (R203) -/
  freed : List Nat
  /-- slots never used start here -/
  fresh : Nat
  /-- step schedulers, keyed by model slot -/
  slots : Tbl Slot
  /-- loaded liveries: slot · 65,536 + livery (R228) -/
  liveries : List Nat
  /-- member records -/
  members : Tbl Member
  /-- prefills run for other ledgers -/
  subs : Tbl Sub
  /-- QUEUED_TOKENS last reported by each member of the Prompt pool -/
  queuedTokens : Tbl Nat
  /-- PAGE_OPs of other devices that wait for list entries, keyed by the tag of the read: the message, first entry, count -/
  pageOps : Tbl (Msg × Nat × Nat)
  /-- allocations whose list entries are being written at the asking device: the PAGE_OP, its pages, the tags of the writes -/
  allocs : List (Msg × List Nat × List Nat)
  /-- boundaries and accepted prefills so far: the model's own count, which orders records (R221) and prefills -/
  orders : Nat
  deriving DecidableEq, Repr

/-! ## The Wain engines (R232 to R256) -/

/-- A stream this device sends (R233 to R235). -/
structure Stream where
  /-- core of its command; 160 for a PULL that is served -/
  core : Nat
  /-- place of its command -/
  place : Nat
  /-- its command -/
  cmd : Option Cmd
  /-- receiving device -/
  dst : Nat
  /-- STREAM_ID -/
  id : Nat
  /-- TENANT -/
  tenant : Nat
  /-- the lodge whose memory it reads -/
  lodge : Nat
  /-- engine it is placed on; none while it waits for room -/
  engine : Option Nat
  /-- COMPRESS -/
  compress : Bool
  /-- words 4 and 5 of its blocks when KV is 1 -/
  kv : Option (Nat × Nat)
  /-- what it carries: source address, word 3 of the first block, bytes -/
  segs : List (Nat × Nat × Nat)
  /-- blocks sent so far -/
  next : Nat
  /-- blocks not acknowledged: BLOCK_SEQ and resends -/
  open_ : List (Nat × Nat)
  deriving DecidableEq, Repr

/-- A PULL this device has sent (R252), keyed by STREAM_ID. -/
structure Pull where
  /-- core of its command -/
  core : Nat
  /-- its place -/
  place : Nat
  /-- its command -/
  cmd : Cmd
  /-- the source device -/
  dev : Nat
  /-- engine it is placed on; none while it waits for room -/
  engine : Option Nat
  /-- blocks written -/
  got : List Nat
  deriving DecidableEq, Repr

/-- A handover at this home (R244), keyed device · 2^32 + handle. -/
structure Hand where
  /-- the HANDOVER_REQ -/
  msg : Msg
  /-- its lodge -/
  lodge : Nat
  /-- reserved engine -/
  engine : Nat
  /-- tags of the list reads not yet answered -/
  reading : List Nat
  /-- pages to change -/
  pages : List Nat
  /-- FENCE_ACK has come -/
  fenced : Bool
  /-- requests of OLD_DEV accepted before it and not yet complete -/
  earlier : List Msg
  /-- recalls not yet acknowledged, once the pages have changed -/
  recalls : Option (List Nat)
  deriving DecidableEq, Repr

/-- What the Wain engines hold beside their registers. -/
structure Wan where
  /-- streams open at this sender: own ones by STREAM_ID, a served PULL at (device + 1) · 2^32 + STREAM_ID -/
  streams : Tbl Stream
  /-- next STREAM_ID -/
  nextId : Nat
  /-- pulls -/
  pulls : Tbl Pull
  /-- handovers at this home -/
  hands : Tbl Hand
  /-- FENCEs that wait for writes of this device -/
  fences : List Msg
  /-- blocks written here that wait for the invalidation of copies, with its tags (R234) -/
  acks : List (Msg × List Nat)
  /-- engines of the streams that are received here, own pulls apart (R233); keyed 2^57 + device · 2^32 + STREAM_ID -/
  recvs : Tbl Nat
  /-- blocks that wait for an engine with room (R233) -/
  held : List Msg
  /-- homes and handles for which a FENCE has been acknowledged: no write is issued any more (R244) -/
  quiet : List (Nat × Nat)
  /-- weighted turns of the lodges on each engine (R24, R232); keyed 16 · engine + lodge -/
  cur : Tbl Int
  /-- turns of the streams of a lodge on each engine; keyed the same -/
  ptr : Tbl Nat
  /-- LEDGER_ENG in effect (R256) -/
  eng : Nat
  deriving DecidableEq, Repr

/-! ## Messages and the span (R161, R370 to R395) -/

/-- A message at egress: where it goes and on whose account. -/
structure Sent where
  /-- destination device ID -/
  dst : Nat
  /-- port it takes (R373); none while no route exists -/
  port : Option Nat
  /-- bulk level (R348) -/
  bulk : Bool
  /-- lodge charged; 16 for the device -/
  lodge : Nat
  /-- the message, wrapped in SPAN_FWD where the route needs it -/
  msg : Msg
  deriving DecidableEq, Repr

/-- A request that waits for its answer; keyed by REQ_TAG. -/
structure Pend where
  /-- 0 SP_READ, 1 SP_WRITE, 2 SP_ATOMIC, 3 SP_COPY, 4 range SP_INVAL, 5 SP_REPUBLISH, 6 held-line SP_INVAL, 7 recall SP_INVAL,
  8 replica fetch, 9 ATT_REQ, 10 EMB_REQ, 11 EMB_UPD, 12 PULL, 13 list read of an attention command, 14 replica scrub,
  15 list read for a PAGE_OP, 16 write of list entries, 18 list read of a handover, 19 list
  read of a WAIN_PUSH_KV, 20 invalidation after a block -/
  kind : Nat
  /-- span engine 0 to 7, 8 for another agent -/
  engine : Nat
  /-- device asked -/
  dst : Nat
  /-- lodge concerned -/
  lodge : Nat
  /-- core of the command it belongs to -/
  core : Nat
  /-- its place -/
  place : Nat
  /-- the command; none when no command waits for it -/
  cmd : Option Cmd
  /-- local address -/
  addr : Nat
  /-- far offset -/
  off : Nat
  /-- bytes -/
  len : Nat
  /-- per kind -/
  aux : Nat
  /-- a line of it was invalidated since it was issued (R383) -/
  stale : Bool
  /-- the message -/
  msg : Msg
  /-- the answer, kept until the command has them all -/
  reply : Option Msg
  deriving DecidableEq, Repr

/-- A line of the span cache (R381). -/
structure CLine where
  /-- reading lodge -/
  lodge : Nat
  /-- home device -/
  dev : Nat
  /-- line number: offset / 128 -/
  line : Nat
  /-- its 128 bytes -/
  data : List Byte
  deriving DecidableEq, Repr

/-- A replica of a REPLICABLE page (R385). -/
structure Replica where
  /-- reading lodge -/
  lodge : Nat
  /-- home device -/
  dev : Nat
  /-- page number at the home -/
  page : Nat
  /-- T2 frame -/
  frame : Nat
  /-- VERSION fetched -/
  version : Nat
  /-- not marked invalid -/
  valid : Bool
  /-- 64 KiB pieces received; 32 make it whole -/
  pieces : Nat
  /-- its bytes by page offset; an unlisted byte is zero -/
  bytes : List Host.Cell
  deriving DecidableEq, Repr

/-- A bound arrival counter (R387). -/
structure Arrival where
  /-- its lodge -/
  lodge : Nat
  /-- its count -/
  count : Nat
  deriving DecidableEq, Repr

/-- A request of another member at this home (R187, R190, R380). -/
structure HomeReq where
  /-- the request -/
  msg : Msg
  /-- its lodge here -/
  lodge : Nat
  /-- its first part is done and it waits for acknowledgements -/
  started : Bool
  /-- the tags it waits for -/
  tags : List Nat
  deriving DecidableEq, Repr

/-- What the span layer holds beside its registers. -/
structure Spn where
  /-- requests outstanding -/
  out : Tbl Pend
  /-- requests that wait for an engine's room, oldest first -/
  todo : List Pend
  /-- next REQ_TAG -/
  nextTag : Nat
  /-- the span line cache, least recently used first -/
  cache : List CLine
  /-- replicas, least recently used first -/
  repl : List Replica
  /-- holder masks of REPLICABLE pages, keyed by page (R385) -/
  holders : Tbl (List Nat)
  /-- requests that wait at this home, oldest first (R380, R187, R191) -/
  homeq : List HomeReq
  /-- bound arrival counters -/
  arr : Tbl Arrival
  /-- requests held at egress while ISOLATED (R378), oldest first -/
  held : List Sent
  /-- frame of the replica scrubbed last (R449) -/
  scrub : Nat
  /-- sender and device time of the latest beat accepted (R377) -/
  beat : Option (Nat × Nat)
  deriving DecidableEq, Repr

/-! ## Attention homes (R134 to R164) -/

/-- A request at this home (R164). -/
structure AttWork where
  /-- the ATT_REQ -/
  msg : Msg
  /-- the lodge it acts on -/
  lodge : Nat
  /-- the pages it pins -/
  pins : List Nat
  /-- once its pages lie in T1: bytes that the lodge's T1 regulator has still to grant (R136, R289) -/
  left : Option Nat
  deriving DecidableEq, Repr

/-- What the attention engine holds. -/
structure Att where
  /-- the home queue: requests that wait for pages, a suspended stack or a grant, oldest first (R134, R136, R164) -/
  queue : List AttWork
  /-- requests held back because the home queue is full, oldest first (R25, R164) -/
  held : List Msg
  /-- list index of each owned KV page, keyed lodge · 2^36 + pool · 2^32 + page, with its LIST bit: index · 2 + list -/
  index : Tbl Nat
  deriving DecidableEq, Repr

/-! ## The field (R398 to R426) -/

/-- Something on a connection's send queue (R407). -/
structure FItem where
  /-- 1 the data of a FLD_WRITE, 2 the requests of a FLD_READ, 3 READ_RSP packets this responder owes, 5 a message of another layer -/
  kind : Nat
  /-- core of its command -/
  core : Nat
  /-- its place -/
  place : Nat
  /-- its command -/
  cmd : Option Cmd
  /-- lodge address at the peer; of a response, here -/
  addr : Nat
  /-- lodge address here -/
  local_ : Nat
  /-- bytes -/
  len : Nat
  /-- arrival counter at the peer -/
  arr : Option Nat
  /-- PSN of a response's first packet -/
  psn : Nat
  /-- bytes already cut into packets -/
  next : Nat
  /-- the bytes of a message, or of a response at the moment its request was served -/
  body : List Byte
  /-- its next packet has waited for its engine (R422) -/
  held : Bool
  deriving DecidableEq, Repr

/-- A packet of a connection that is not yet acknowledged; a READ_REQ stays until its last response byte (R407, R409). -/
structure FPkt where
  /-- as in FItem: 1 WRITE, 2 READ_REQ, 5 MSG -/
  kind : Nat
  /-- its PSN -/
  psn : Nat
  /-- PSNs it takes -/
  count : Nat
  /-- FIRST -/
  first : Bool
  /-- LAST -/
  last : Bool
  /-- ACK_REQ -/
  ackReq : Bool
  /-- core of its command -/
  core : Nat
  /-- its place -/
  place : Nat
  /-- its command -/
  cmd : Option Cmd
  /-- lodge address at the peer -/
  addr : Nat
  /-- lodge address here -/
  local_ : Nat
  /-- bytes of its payload, or asked for -/
  len : Nat
  /-- arrival counter at the peer -/
  arr : Option Nat
  /-- responses received, of a READ_REQ -/
  got : Nat
  /-- the response it waits for has been asked for again (R409) -/
  asked : Bool
  /-- the bytes of a message's packet -/
  body : List Byte
  deriving DecidableEq, Repr

/-- A control packet due at a port, in the order of R414: 0 ACK, 1 NAK, 2 Neighbour Advertisement, 3 PTP. -/
structure FCtl where
  /-- which -/
  kind : Nat
  /-- connection -/
  conn : Nat
  /-- ACK_PSN -/
  psn : Nat
  /-- SYNDROME -/
  syndrome : Nat
  /-- STATUS -/
  status : Nat
  /-- MAC address answered -/
  mac : Nat
  /-- IPv6 address answered -/
  ip : Nat
  deriving DecidableEq, Repr

/-- A field connection that is not FREE (R403, R404). -/
structure Conn where
  /-- its lodge -/
  lodge : Nat
  /-- PEER_MAC -/
  mac : Nat
  /-- PORT: 0 to 3 -/
  port : Nat
  /-- TC -/
  tc : Nat
  /-- PEER_IP, byte 0 least significant -/
  ip : Nat
  /-- TENANT -/
  tenant : Nat
  /-- PEER_CONN -/
  peer : Nat
  /-- UDP_SRC -/
  udp : Nat
  /-- RATE -/
  rate : Nat
  /-- BURST -/
  burst : Nat
  /-- WINDOW -/
  window : Nat
  /-- PEER_DEV -/
  dev : Nat
  /-- ERROR, not READY -/
  error : Bool
  /-- next PSN to send -/
  tx : Nat
  /-- EPSN -/
  rx : Nat
  /-- the send queue, oldest first -/
  queue : List FItem
  /-- packets sent and not acknowledged, oldest first -/
  sent : List FPkt
  /-- PSN to send again from (R409) -/
  again : Option Nat
  /-- packets sent, for every sixteenth ACK_REQ -/
  sixteen : Nat
  /-- resends without an advance -/
  tries : Nat
  /-- a NAK_SEQ has been sent since EPSN last arrived -/
  naked : Bool
  /-- credit C in 1/80 byte (R416) -/
  credit : Int
  /-- T_LAST, device ns -/
  tLast : Nat
  /-- wheel slot it is parked in -/
  parked : Option Nat
  /-- COMPL (R413) -/
  compl : Nat
  /-- bytes of a message being received -/
  rxMsg : List Byte
  /-- packets accepted that wait for the visibility of the write before them, oldest first: a WRITE or not (R408) -/
  rxWait : List (Bool × FIn)
  /-- acknowledgements that visibility waits for -/
  rxTags : List Nat
  /-- acknowledge, and count an arrival, when they have come -/
  rxDone : Option (Bool × Option Nat)
  /-- RATE, BURST, TC of a FLD_CONN_MODIFY -/
  change : Option (Nat × Nat × Nat)
  deriving DecidableEq, Repr

/-- A field port (R414, R415). -/
structure FPort where
  /-- virtual time V -/
  v : Nat
  /-- F_LAST by flow 8 · lodge + TC -/
  last : Tbl Nat
  /-- head tag F of each backlogged flow -/
  head : Tbl Nat
  /-- connection whose turn is next, by flow -/
  turn : Tbl Nat
  /-- control packets due -/
  ctl : List FCtl
  /-- the last frame started, without preamble -/
  frame : List Byte
  /-- entries of the operational gate list (R417) -/
  operLen : Nat
  /-- field time of the armed takeover, while field time is VALID (R418) -/
  takeover : Option Nat
  deriving DecidableEq, Repr

/-- A port at reset. -/
def FPort.reset : FPort := ⟨0, [], [], [], [], [], 0, none⟩

/-- What the field block holds beside its registers. -/
structure Field where
  /-- connections -/
  conns : Tbl Conn
  /-- ports 0 to 3 -/
  ports : Tbl FPort
  /-- field time less device time -/
  offset : Int
  /-- correction still to be slewed -/
  slew : Int
  /-- consecutive Sync offsets below 100 ns -/
  good : Nat
  /-- path delay (R420) -/
  delay : Int
  /-- the last Sync: origin and arrival -/
  sync : Option (Nat × Nat)
  /-- departure of the Delay_Req that waits for its Delay_Resp -/
  reqAt : Option Nat
  deriving DecidableEq, Repr

/-! ## Chroit ports (R344 to R369) -/

/-- A data flit in the replay buffer (R351, R353). -/
structure Flit where
  /-- sequence number -/
  seq : Nat
  /-- level: express -/
  express : Bool
  /-- FIRST -/
  first : Bool
  /-- LAST -/
  last : Bool
  /-- its 256 bytes -/
  data : List Byte
  /-- times it was replayed (R355) -/
  tries : Nat
  deriving DecidableEq, Repr

/-- A CONTROL operation due (R350): OP and words 1 to 3. -/
structure LCtl where
  /-- OP -/
  op : Nat
  /-- word 1 -/
  w1 : Nat
  /-- word 2 -/
  w2 : Nat
  /-- word 3 -/
  w3 : Nat
  deriving DecidableEq, Repr

/-- A message being cut into flits: whether its first flit has gone, and the bytes left. -/
structure LSend where
  /-- its first flit has gone -/
  begun : Bool
  /-- bytes left -/
  rest : List Byte
  deriving DecidableEq, Repr

/-- A port's link layer. -/
structure LPort where
  /-- flits sent and not acknowledged, oldest first -/
  unacked : List Flit
  /-- how many of them, at the end of the list, a running replay has still to send -/
  replay : Nat
  /-- number of the next new data flit -/
  tx : Nat
  /-- bulk and express credit -/
  credit : Nat × Nat
  /-- freed flits not yet returned as credit, bulk and express -/
  freed : Nat × Nat
  /-- the number expected next -/
  rx : Nat
  /-- data flits accepted since the last acknowledgement -/
  since : Nat
  /-- an acknowledgement is due -/
  ackDue : Bool
  /-- a NAK is due -/
  nakDue : Bool
  /-- discarding until REPLAY_START (R353) -/
  discarding : Bool
  /-- flits of a replay that lie below the number expected and are still to be discarded (R353) -/
  skip : Nat
  /-- reassembly contexts, bulk and express: the bytes so far while open -/
  rxBulk : Option (List Byte)
  /-- express context -/
  rxExpr : Option (List Byte)
  /-- bulk message being sent -/
  txBulk : Option LSend
  /-- express message being sent -/
  txExpr : Option LSend
  /-- express flits sent in a row while a bulk flit waited with credit (R349) -/
  run : Nat
  /-- CONTROL operations due, oldest first -/
  due : List LCtl
  /-- the peer device this port last had UP -/
  peer : Option Nat
  /-- a HELLO has been received in this EXCHANGE; with its HELLO_SEEN -/
  hello : Option Bool
  /-- a HELLO with HELLO_SEEN has been sent in this EXCHANGE -/
  seenTx : Bool
  /-- NEXT_SEQ, BULK_BUF and EXPR_BUF of the peer's HELLO -/
  peerHello : Nat × Nat × Nat
  /-- the retrain is fast (R363) -/
  fast : Bool
  /-- the last flit put on the lanes: SB and 256 bytes -/
  flit : Nat × List Byte
  /-- weighted round-robin counts of bulk messages, by lodge (R348) -/
  cur : Tbl Int
  /-- HOPS of the TIME heard last (R367) -/
  hops : Option Nat
  /-- corrected codewords below a unit of 65,536 (R435) -/
  corr : Nat
  deriving DecidableEq, Repr

/-- A port at reset. -/
def LPort.reset : LPort :=
  ⟨[], 0, 0, (0, 0), (0, 0), 0, 0, false, false, false, 0, none, none, none, none, 0, [], none, none, false, (0, 0, 0), false, (0, []), [], none, 0⟩

/-- What the Chroit links hold beside their registers. -/
structure Lnk where
  /-- ports 0 to 7 -/
  ports : Tbl LPort
  /-- span time less device time (R366) -/
  offset : Int
  /-- ns still to be slewed -/
  slew : Int
  /-- ns for which span time is held (R367) -/
  hold : Nat
  /-- bytes forwarded on each port in this microsecond (R374) -/
  fwd : Tbl Nat
  /-- and in the one before -/
  fwdLast : Tbl Nat
  /-- messages held back for a full home queue whose last flit keeps its receive buffer: message, port, express (R25, R356) -/
  stuck : List (Msg × Nat × Bool)
  deriving DecidableEq, Repr

/-! ## Power, clocks, Porter and Tollgate (R452 to R487, R492 to R494) -/

/-- What Reeve and the clock block hold beside their registers. -/
structure Pwr where
  /-- rails: 0 off, 1 management only, 2 all -/
  rails : Nat
  /-- the input switch is closed -/
  switch : Bool
  /-- off until Porter sends a power-on (R469) -/
  waitOn : Bool
  /-- device time at which the running power-down's cause was latched (R494) -/
  offAt : Option Nat
  /-- an ordered power-off waits for DRAINED (R469) -/
  offDue : Bool
  /-- MRST_N is low -/
  mrst : Bool
  /-- a module reset held until power-up reaches stage 0 (R494) -/
  mrstDue : Bool
  /-- held at stage 0 by REFCLK loss (R454) -/
  refHeld : Bool
  /-- the loop DUTY while the loop is reducing (R464) -/
  loop : Option Nat
  /-- device time of the first value of the RVE_RESET sequence (R456) -/
  key : Option Nat
  /-- sensors that have raised THERMAL and not re-armed (R467), as TRIP_SENSOR codes them -/
  hot : List Nat
  /-- readings of stack sensors and others, by code -/
  temps : Tbl Nat
  /-- T2 refresh is doubled (R467) -/
  t2Hot : Bool
  /-- clock-gated cores (R465) -/
  gated : List Nat
  /-- cores whose self-test has ended (R438) -/
  tested : List Nat
  /-- the cap's DUTY and RATE of R462 towards which the ramp moves -/
  target : Nat × Nat
  deriving DecidableEq, Repr

/-- What Porter holds beside its registers. -/
structure Prt where
  /-- words written into bank A of the flash, keyed by word -/
  bankA : Tbl (Option Nat)
  /-- and into bank B -/
  bankB : Tbl (Option Nat)
  /-- the reply of the last committed frame, on SMBus -/
  smbus : List Byte
  /-- on the SPI target -/
  spi : List Byte
  /-- on the UART -/
  uart : List Byte
  /-- what the last Block Read returned (R477), or the last SPI frame shifted out (R478) -/
  read : List Byte
  /-- transactions discarded for a wrong PEC (R477) -/
  pec : Nat
  /-- device time of the last accepted PPS edge -/
  pps : Option Nat
  /-- summaries due, oldest first (R434, R475) -/
  summaries : List (List Nat)
  /-- what JTAG has selected (R484) -/
  jtag : Jtag
  /-- bank booted: 0 A, 1 B (R486) -/
  booted : Nat
  /-- bank marked for the next reset (R480) -/
  next : Nat
  /-- ADDR_STRAP pins (R472) -/
  strap : Nat
  deriving DecidableEq, Repr

/-- What Tollgate holds beside its registers. -/
structure Tlg where
  /-- the DEBUG fuse -/
  debug : Bool
  /-- the fused rollback count -/
  rollback : Nat
  /-- VERSION of the booted image -/
  version : Nat
  /-- firmware major and minor of the booted image -/
  fw : Nat
  /-- the two 256-bit XTS keys of each lodge that has them, 64 bytes (R198, R483) -/
  keys : Tbl (List Byte)
  deriving DecidableEq, Repr

/-! ## Embedding homes (R257 to R273) -/

/-- A message in the embedding home's queue (R265, R271). -/
structure EmbWork where
  /-- the EMB_REQ or EMB_UPD -/
  msg : Msg
  /-- the lodge it acts on -/
  lodge : Nat
  /-- next row of an update -/
  next : Nat
  /-- rows applied -/
  applied : Nat
  /-- rows in conflict -/
  conflict : Nat
  /-- bytes of a lookup's rows in T1, T2 and T3 that the lodge's regulators have still to grant, once they have begun to (R262, R289) -/
  left : Option (Nat × Nat × Nat)
  deriving DecidableEq, Repr

/-- What the embedding engine holds beside its registers. -/
structure Emb where
  /-- messages not yet served, oldest first -/
  queue : List EmbWork
  /-- messages held back because the home queue is full, oldest first (R25, R272) -/
  held : List Msg
  /-- pages whose promotion waits for a migration engine (R264) -/
  prom : List Nat
  deriving DecidableEq, Repr

/-! ## The whole state -/

/-- What the host interface holds beside its registers. -/
structure Hif where
  /-- rings -/
  rings : Tbl Ring
  /-- latch of the host port: base of the pair and its high half (R12) -/
  hostLatch : Option (Nat × Nat)
  /-- latch of the Porter ports -/
  porterLatch : Option (Nat × Nat)
  /-- what the last register access of each port returned -/
  lastRead : Word32
  /-- MSI-X table words, keyed by word index; vector control words reset to 1, masked -/
  msix : Tbl Nat
  /-- MSI-X pending bits -/
  pba : List Nat
  /-- MSI-X vectors fired, newest first -/
  fired : List Nat
  /-- bytes the device has written in host memory, keyed by host bus address -/
  mem : List Host.Cell
  /-- step schedulers halted by host loss or FLR (R322, R323) -/
  halted : Bool
  /-- D3hot (R321) -/
  d3 : Bool
  /-- descriptors handed to the ledger, oldest first (R331) -/
  ledgerQ : List Cmd
  /-- ADMIN descriptors, oldest first (R336) -/
  adminQ : List Cmd
  /-- descriptors fetched so far by all rings: the next `Cmd.seq` -/
  fetched : Nat
  deriving DecidableEq, Repr

/-- The state of the block. -/
structure State where
  /-- commands waiting, first in, first out -/
  pending : List Instr
  /-- device timestamp, ns, 64 bits (R9, R342) -/
  now : Nat
  /-- the model's own counter of free values; no statement rests on it -/
  free : Nat
  /-- ordering variant: 0 XT-1640-C7, 1 XT-1640-A4 (R5) -/
  variant : Nat
  /-- register fields that differ from their reset value or have been written, keyed by bit address -/
  regs : Tbl Nat
  /-- host interface -/
  hif : Hif
  /-- cores that differ from reset -/
  cores : Tbl Core
  /-- shadow LFSRs (R93), keyed by core; reset value c + 1 -/
  lfsrs : Tbl Nat
  /-- core-store bytes, keyed core · 2^21 + physical page · 4096 + offset -/
  coreStore : List Host.Cell
  /-- core-store units of 64 bytes that hold an uncorrectable error, keyed like `coreStore`, divided by 64 (R88, R96) -/
  csBad : List Nat
  /-- the tile scratchpads -/
  pad : Pad
  /-- bound Tallies, keyed by index -/
  tallies : Tbl Tally
  /-- Tally groups -/
  groups : Tbl TGroup
  /-- a Tally dump whose writing is under way: bytes written (R318) -/
  tallyDump : Option Nat
  /-- memory -/
  mem : Mem
  /-- near-bank refresh debt, keyed stack · 64 + channel (R124) -/
  debt : Tbl Nat
  /-- channel groups in near-bank work per stack, 0 to 8 (R128) -/
  ramp : Tbl Nat
  /-- lodges -/
  lod : Lod
  /-- the Guest Ledger -/
  ldg : Ldg
  /-- the Wain engines -/
  wan : Wan
  /-- health -/
  hlt : Hlt
  /-- span layer -/
  spn : Spn
  /-- attention -/
  att : Att
  /-- embeddings -/
  emb : Emb
  /-- the field -/
  fld : Field
  /-- Chroit ports -/
  lnk : Lnk
  /-- power and clocks -/
  pwr : Pwr
  /-- Porter -/
  prt : Prt
  /-- Tollgate -/
  tlg : Tlg
  /-- messages at egress, oldest first -/
  sent : List Sent
  deriving DecidableEq, Repr

/-- A stop of the block; see the constructors. -/
inductive Fault where
  /-- no command of the block raises it: kept so that the type is closed and not empty; safe -/
  | none
  deriving DecidableEq, Repr

/-- A command without a meaning. -/
inductive Refusal where
  /-- raised by an arm of exec that has no meaning yet; safe -/
  | notModelled (mnemonic : String)
  deriving DecidableEq, Repr

/-- The state right after a module reset, before POWER_UP has run (R14, R455). -/
def State.reset : State :=
  { pending := [], now := 0, free := 0, variant := 0, regs := [],
    hif := { rings := [], hostLatch := .none, porterLatch := .none, lastRead := 0, msix := [], pba := [], fired := [], mem := [],
             halted := false, d3 := false, ledgerQ := [], adminQ := [], fetched := 0 },
    cores := [], lfsrs := [], coreStore := [], csBad := [], pad := { bytes := [], readTurn := [], writeTurn := [] }, tallies := [], groups := [], tallyDump := .none,
    mem := { bytes := [], poison := [], pages := [], zeroing := [], migr := [], prefetch := [], demote := [], leaving := [], awaiting := [], hvCheck := [], dir := [],
             recalls := [], lines := [], trays := [] },
    debt := [], ramp := [],
    lod := { tenants := [], clients := [], minTok := [], maxTok := [], pathCur := [], fetchCur := [], fetchPtr := [],
             newPersona := .none, op := .none, pathWait := [], devUsed := [] },
    ldg := { entries := [], gens := [], freed := [], fresh := 0, slots := [], liveries := [], members := [], subs := [], queuedTokens := [],
             pageOps := [], allocs := [], orders := 0 },
    wan := { streams := [], nextId := 0, pulls := [], hands := [], fences := [], acks := [], recvs := [], held := [], quiet := [], cur := [], ptr := [],
             eng := 2 },
    hlt := { portq := [], raised := [], unsent := [], pending := [], detail := [], sources := [], base := [], alarmed := [], warned := [], held := [], lag := [] },
    spn := { out := [], todo := [], nextTag := 0, cache := [], repl := [], holders := [], homeq := [], arr := [], held := [], scrub := 0, beat := .none },
    att := { queue := [], held := [], index := [] },
    emb := { queue := [], held := [], prom := [] },
    fld := { conns := [], ports := [], offset := 0, slew := 0, good := 0, delay := 0, sync := .none, reqAt := .none },
    lnk := { ports := [], offset := 0, slew := 0, hold := 0, fwd := [], fwdLast := [], stuck := [] },
    pwr := { rails := 0, switch := false, waitOn := false, offAt := .none, offDue := false, mrst := false, mrstDue := false, refHeld := false,
             loop := .none, key := .none, hot := [], temps := [], t2Hot := false, gated := [], tested := [], target := (64, 64) },
    prt := { bankA := [], bankB := [], smbus := [], spi := [], uart := [], read := [], pec := 0, pps := .none, summaries := [], jtag := .idcode, booted := 0, next := 0, strap := 0 },
    tlg := { debug := false, rollback := 0, version := 0, fw := 0, keys := [] },
    sent := [] }

end Sys2Proof.Machine
end

