-- ==== Sys2Proof/Machine/Ops.lean ====
section
/-!
DEFINITION. The named operations that every family shares: register fields, counters, host memory, interrupts (R340), events
(R428 to R434).
-/

namespace Sys2Proof.Machine

/-! ## Register fields -/

/-- A field's value. -/
def State.rd (s : State) (f : Fld) (i : Nat := 0) (j : Nat := 0) : Nat := Tbl.get (f.reset i) (f.key i j) s.regs

/-- A one-bit field. -/
def State.on (s : State) (f : Fld) (i : Nat := 0) : Bool := s.rd f i == 1

/-- Put a value in a field, cut to its width. -/
def State.wr (s : State) (f : Fld) (v : Nat) (i : Nat := 0) (j : Nat := 0) : State :=
  { s with regs := Tbl.set (f.reset i) (f.key i j) (v % 2 ^ f.width) s.regs }

/-- Raise a counter that saturates (R13). -/
def State.bump (s : State) (f : Fld) (n : Nat := 1) (i : Nat := 0) (j : Nat := 0) : State :=
  s.wr f (satAdd (2 ^ f.width - 1) (s.rd f i j) n) i j

/-- Raise a free-running counter, which wraps at its width (R13). -/
def State.count (s : State) (f : Fld) (n : Nat := 1) (i : Nat := 0) (j : Nat := 0) : State :=
  s.wr f (s.rd f i j + n) i j

/-- Set bit `k` of a field. -/
def State.setBit (s : State) (f : Fld) (k : Nat) (i : Nat := 0) : State := s.wr f (s.rd f i ||| 2 ^ k) i

/-- Clear bit `k` of a field. -/
def State.clrBit (s : State) (f : Fld) (k : Nat) (i : Nat := 0) : State :=
  if bitAt k (s.rd f i) then s.wr f (s.rd f i - 2 ^ k) i else s

/-- A one-bit field from a Bool. -/
def State.flag (s : State) (f : Fld) (b : Bool) (i : Nat := 0) : State := s.wr f (if b then 1 else 0) i

/-- The bring-up stage (R457). -/
def State.stage (s : State) : Nat := s.rd Reg.glbStageStage

/-! ## Free values -/

/-- Advance the model's counter of free values. -/
def State.useFree (s : State) (n : Nat) : State := { s with free := s.free + n }

/-- `n` bytes that no rule fixes. -/
def State.freeBytes (s : State) (n : Nat) : List Byte := (natsFrom s.free n).map Config.freeByte

/-! ## Host memory: what the device writes there -/

/-- Bytes written at a host bus address. -/
def State.hostWrite (s : State) (addr : Nat) (bs : List Byte) : State :=
  { s with hif := { s.hif with mem := Tbl.setRun 0 addr bs s.hif.mem } }

/-- A 64-bit word written at a host bus address. -/
def State.hostWord (s : State) (addr v : Nat) : State := s.hostWrite addr (leBytes 8 v)

/-! ## Interrupts (R340) -/

/-- The control word of a vector in the MSI-X table; it is masked until the host unmasks it. -/
def State.msixMasked (s : State) (v : Nat) : Bool := bitAt 0 (Tbl.get 1 (4 * v + 3) s.hif.msix)

/-- A vector falls due: it fires, or sets its pending bit while masked (R340). -/
def State.fire (s : State) (v : Nat) : State :=
  if s.msixMasked v then
    { s with hif := { s.hif with pba := if s.hif.pba.contains v then s.hif.pba else v :: s.hif.pba } }
  else { s with hif := { s.hif with fired := v :: s.hif.fired } }

/-- A device event latched in HIF_DEV_CAUSE, on vector 0 (R340). -/
def State.devCause (s : State) (k : Nat) : State := (s.setBit Reg.hifDevCauseBits k).fire 0

/-- A register or wake write discarded (R46, R326, R330). -/
def State.discard (s : State) : State := (s.bump Reg.hifRegErrDiscard).devCause 2

/-- An access refused under R12. -/
def State.badAccess (s : State) : State := (s.bump Reg.hifRegErrAccess).devCause 2

/-! ## Events (R427 to R434) -/

/-- The event types of R430 by code. -/
def evName : List (Nat × String) :=
  [(0x00, "HOST_LOST"), (0x01, "TRAY_LOST"), (0x02, "ORPHAN"), (0x03, "ISOLATED"), (0x04, "SPAN_SYNC_LOST"),
   (0x05, "FIELD_SYNC_LOST"), (0x06, "DIR_RECALL_TIMEOUT"), (0x07, "HEALTH_ALARM"), (0x08, "CORE_QUARANTINE"),
   (0x09, "DEVICE_FAULT"), (0x0A, "THERMAL"), (0x0B, "POWER"), (0x40, "LODGE_FAULT"), (0x41, "SHADOW_MISMATCH"),
   (0x42, "TALLY_BLOCKED"), (0x43, "LEASE_EXPIRED"), (0x44, "HEALTH_WARN"), (0x45, "STRAGGLER"), (0x46, "COPY_DIFFER"),
   (0x47, "MEM_UNCORR"), (0x48, "LINK_DOWN"), (0x49, "GROUP_SHRINK"), (0x80, "LINK_RETRAIN"), (0x81, "MIG_ABORT"),
   (0x82, "REPAIR_STAGE")]

/-- Entries of the event log (R428). -/
def State.logSize (s : State) : Nat := 2 ^ s.rd Reg.hltLogCfgSizeLog2

/-- F of R433: records not yet consumed; a difference above SIZE counts as SIZE. -/
def State.logUsed (s : State) : Nat :=
  min s.logSize ((s.rd Reg.hltLogProdCount + 2 ^ 32 - s.rd Reg.hltLogConsCount) % 2 ^ 32)

/-- The record of an event (R429), without PHASE. -/
def Ev.word0 (e : Ev) : Nat :=
  e.cls * 2 + e.typ * 2 ^ 8 + e.lodge * 2 ^ 16 + e.part * 2 ^ 20 + min e.count (2 ^ 24 - 1) * 2 ^ 40

/-- The phase of entry count `n` in a ring of `size` entries (R332). -/
def phaseOf (n size : Nat) : Nat := if n / size % 2 = 0 then 1 else 0

/-- Write one record to the log and fire its vector (R428, R451). -/
def State.logWrite (s : State) (e : Ev) : State :=
  let n := s.rd Reg.hltLogProdCount
  let a := s.rd Reg.hltLogAddr * 2 ^ 12 + 32 * (n % s.logSize)
  let s := s.hostWrite a (leBytes 8 (e.word0 + phaseOf n s.logSize) ++ leBytes 8 e.time ++ leBytes 8 e.w2 ++ leBytes 8 e.w3)
  let s := s.count Reg.hltLogProdCount
  let v := s.rd Reg.hltCtrlVector
  if v = 0 then s else s.fire v

/-- Forward an event to the board controller, unless Porter's queue is full (R434). -/
def State.toPorter (s : State) (e : Ev) : State :=
  let h := { s.hlt with raised := Tbl.set 0 e.cls (Tbl.get 0 e.cls s.hlt.raised + 1) s.hlt.raised }
  if h.portq.length < 32 then { s with hlt := { h with portq := h.portq ++ [e] } }
  else { s with hlt := { h with unsent := Tbl.set 0 e.cls (Tbl.get 0 e.cls h.unsent + 1) h.unsent } }

/-- An event raised and not forwarded (R434). -/
def State.notForwarded (s : State) (cls : Nat) : State :=
  { s with hlt := { s.hlt with raised := Tbl.set 0 cls (Tbl.get 0 cls s.hlt.raised + 1) s.hlt.raised,
                               unsent := Tbl.set 0 cls (Tbl.get 0 cls s.hlt.unsent + 1) s.hlt.unsent } }

/-- Write pending alarm slots while the log is on and has room, in ascending type (R431, R433). -/
def State.logAlarms (s : State) : Nat → State
  | 0 => s
  | n + 1 =>
    match s.hlt.pending with
    | [] => s
    | (t, (k, l, p)) :: r =>
      if s.on Reg.hltCtrlLogEn && decide (s.logUsed < s.logSize) then
        let d := Tbl.get (0, 0) t s.hlt.detail
        let s := { s with hlt := { s.hlt with pending := r } }
        (s.logWrite ⟨0, t, l, p, k, s.rd Reg.hltAlarmTimeTime t, d.1, d.2⟩).logAlarms n
      else s

/-- An alarm occurs (R431): counted, stored, marked pending, forwarded, never lost. -/
def State.alarm (s : State) (t : Nat) (lodge part w2 w3 : Nat) : State :=
  let s := s.bump Reg.hltAlarmCntCount 1 t
  let s := s.wr Reg.hltAlarmTimeTime s.now t
  let s := s.wr Reg.hltAlarmDetDetail w2 t
  let s := s.wr Reg.hltStatusAlarm 1
  let k := (Tbl.get (0, lodge, part) t s.hlt.pending).1
  let s := { s with hlt := { s.hlt with pending := Tbl.put t (k + 1, lodge, part) s.hlt.pending,
                                        detail := Tbl.set (0, 0) t (w2, w3) s.hlt.detail } }
  let s := s.toPorter ⟨0, t, lodge, part, 1, s.now, w2, w3⟩
  s.logAlarms 1

/-- Tokens a full source bucket holds (R432). -/
def bucketSize : Nat := 1000

/-- The key of an error's source: TYPE with PART where the event names a part, with LODGE otherwise (R432). -/
def sourceKey (t lodge part : Nat) : Nat := t * 2 ^ 12 + (if part = 0xFF then 0x800 + lodge else part)

/-- An error occurs (R432, R433). -/
def State.error (s : State) (t : Nat) (lodge part w2 w3 : Nat) : State :=
  let k := sourceKey t lodge part
  let b := Tbl.get (0, 0) k s.hlt.sources
  if b.1 < bucketSize then
    let e : Ev := ⟨1, t, lodge, part, 1 + b.2, s.now, w2, w3⟩
    let s := s.toPorter e
    if s.on Reg.hltCtrlLogEn && decide (s.logUsed < s.logSize) then
      let s := { s with hlt := { s.hlt with sources := Tbl.set (0, 0) k (b.1 + 1, 0) s.hlt.sources } }
      s.logWrite e
    else
      let s := { s with hlt := { s.hlt with sources := Tbl.set (0, 0) k (b.1 + 1, b.2) s.hlt.sources } }
      s.bump Reg.hltDropErrCount
  else
    let s := { s with hlt := { s.hlt with sources := Tbl.set (0, 0) k (b.1, b.2 + 1) s.hlt.sources } }
    (s.bump Reg.hltSuppressCount).notForwarded 1

/-- A trace occurs (R433); with TRACE_EN 0 none is raised. -/
def State.trace (s : State) (t : Nat) (lodge part w2 w3 : Nat) : State :=
  if s.on Reg.hltCtrlTraceEn then
    let s := s.notForwarded 2
    if s.on Reg.hltCtrlLogEn && decide (s.logUsed < s.logSize / 2) then
      s.logWrite ⟨2, t, lodge, part, 1, s.now, w2, w3⟩
    else s.bump Reg.hltDropTraceCount
  else s

/-! ## Weighted round-robin (R504) -/

/-- One grant of the smooth weighted round-robin: the counts after it and the winner; requesters in ascending index. -/
def wrrGrant (cur : Tbl Int) (base : Nat) (weight : Nat → Nat) (reqs : List Nat) : Tbl Int × Option Nat :=
  let cur1 : Tbl Int := reqs.foldl (fun (c : Tbl Int) i => Tbl.set 0 (base + i) (Tbl.get 0 (base + i) c + (weight i : Int)) c) cur
  match reqs.foldl (fun (b : Option Nat) i =>
      match b with
      | none => some i
      | some j => if Tbl.get 0 (base + j) cur1 < Tbl.get 0 (base + i) cur1 then some i else some j) none with
  | none => (cur1, none)
  | some w =>
    let total : Nat := (reqs.map weight).foldl (· + ·) 0
    (Tbl.set 0 (base + w) (Tbl.get 0 (base + w) cur1 - (total : Int)) cur1, some w)

/-- Unweighted round-robin: the first requester at or after the pointer, else the first (R504). -/
def rrPick (ptr : Nat) (reqs : List Nat) : Option Nat :=
  match reqs.find? (fun i => decide (ptr ≤ i)) with
  | some i => some i
  | none => reqs.head?

/-- Ascending order without repeats. -/
def sortDedup (l : List Nat) : List Nat :=
  l.foldl (fun acc n => (acc.filter (· < n)) ++ [n] ++ (acc.filter (n < ·))) []

end Sys2Proof.Machine
end

