-- ==== Sys2Proof/Machine/MemOps.lean ====
section
/-!
DEFINITION. Lodge memory as the rest of the block reads and writes it (R169 to R172, R177, R186): translation, poison, access
counts, frames and quotas (R175), and the status codes of R339.
-/

namespace Sys2Proof.Machine

/-! ## Status codes (R339) -/

namespace St
/-- OK -/
def ok : Nat := 0x00
/-- BAD_RESERVED -/
def badReserved : Nat := 0x01
/-- BAD_VERSION -/
def badVersion : Nat := 0x02
/-- OUT_OF_RANGE -/
def outOfRange : Nat := 0x03
/-- BAD_OPCODE -/
def badOpcode : Nat := 0x04
/-- BAD_FORMAT -/
def badFormat : Nat := 0x05
/-- BAD_OPERAND -/
def badOperand : Nat := 0x06
/-- BAD_PROG -/
def badProg : Nat := 0x07
/-- COMMIT_TOO_LARGE -/
def commitTooLarge : Nat := 0x08
/-- NOT_READY -/
def notReady : Nat := 0x09
/-- BUSY -/
def busy : Nat := 0x0A
/-- LODGE_FAULTED -/
def lodgeFaulted : Nat := 0x0B
/-- ADDR_FAULT -/
def addrFault : Nat := 0x10
/-- MEM_UNCORR -/
def memUncorr : Nat := 0x11
/-- CMD_TIMEOUT -/
def cmdTimeout : Nat := 0x12
/-- CORE_QUARANTINED -/
def coreQuarantined : Nat := 0x13
/-- NB_UNAVAILABLE -/
def nbUnavailable : Nat := 0x14
/-- T1_QUOTA -/
def t1Quota : Nat := 0x15
/-- NO_MEMORY -/
def noMemory : Nat := 0x16
/-- NO_KEY -/
def noKey : Nat := 0x17
/-- TRAY_LOST -/
def trayLost : Nat := 0x18
/-- BAD_POOL -/
def badPool : Nat := 0x20
/-- BAD_PAGELIST -/
def badPagelist : Nat := 0x21
/-- POOL_MISMATCH -/
def poolMismatch : Nat := 0x22
/-- NOT_OWNER -/
def notOwner : Nat := 0x23
/-- NO_PAGES -/
def noPages : Nat := 0x24
/-- LEDGER_FULL -/
def ledgerFull : Nat := 0x30
/-- STALE_HANDLE -/
def staleHandle : Nat := 0x31
/-- BAD_PERSONA -/
def badPersona : Nat := 0x32
/-- BAD_MODEL -/
def badModel : Nat := 0x33
/-- BAD_TENANT -/
def badTenant : Nat := 0x34
/-- BAD_LIVERY -/
def badLivery : Nat := 0x35
/-- LIVERY_FULL -/
def liveryFull : Nat := 0x36
/-- LIVERY_BUSY -/
def liveryBusy : Nat := 0x37
/-- BAD_GROUP -/
def badGroup : Nat := 0x38
/-- MODEL_MISMATCH -/
def modelMismatch : Nat := 0x39
/-- CANCELLED -/
def cancelled : Nat := 0x3A
/-- NO_LODGE -/
def noLodge : Nat := 0x40
/-- TALLY_DENIED -/
def tallyDenied : Nat := 0x41
/-- NO_TALLY -/
def noTally : Nat := 0x42
/-- TALLY_OVERFLOW -/
def tallyOverflow : Nat := 0x43
/-- SPIN_TIMEOUT -/
def spinTimeout : Nat := 0x44
/-- WAIN_DAMAGED -/
def wainDamaged : Nat := 0x48
/-- BAD_TABLE -/
def badTable : Nat := 0x50
/-- BAD_INDEX -/
def badIndex : Nat := 0x51
/-- TABLE_MISMATCH -/
def tableMismatch : Nat := 0x52
/-- SPAN_TIMEOUT -/
def spanTimeout : Nat := 0x60
end St

/-! ## Keys -/

/-- The key of a byte of lodge memory (R170: each lodge has its own range). -/
def memKey (lodge addr : Nat) : Nat := lodge * 2 ^ 48 + addr

/-- The key of a page. -/
def pageKey (lodge page : Nat) : Nat := lodge * 2 ^ 27 + page

/-- The page number of a lodge address: bits [47:21] (R170). -/
def pageOf (addr : Nat) : Nat := addr / 2 ^ 21

/-- Page numbers that `n` bytes at `addr` touch. -/
def pagesOf (addr n : Nat) : List Nat :=
  if n = 0 then [] else natsFrom (pageOf addr) (pageOf (addr + n - 1) + 1 - pageOf addr)

/-- The mapped page of a lodge address; bits [63:48] must be clear (R170). -/
def State.page (s : State) (lodge addr : Nat) : Option Page :=
  if addr < 2 ^ 48 then Tbl.find (pageKey lodge (pageOf addr)) s.mem.pages else none

/-- The tray device that holds a T3 frame. -/
def State.trayOf (s : State) (frame : Nat) : Option Tray :=
  s.mem.trays.find? fun t => decide (t.base ≤ frame) && decide (frame < t.base + t.frames)

/-- The page lies on a device that was lost (R197). -/
def State.pageLost (s : State) (p : Page) : Bool :=
  p.tier == 3 && (match s.trayOf p.frame with | some t => t.lost | none => true)

/-- The stack of a T1 frame: 32,768 frames to a stack, in order (DESIGN CHOICE: the spec orders no frames among stacks). -/
def stackOf (frame : Nat) : Nat := frame / 32768

/-- Stacks that pages lie in. -/
def State.stacksOf (s : State) (ks : List Nat) : List Nat :=
  sortDedup (ks.filterMap fun k => (Tbl.find k s.mem.pages).bind fun p => if p.tier = 1 then some (stackOf p.frame) else none)

/-- The mapped pages, by key, that ranges of a lodge touch; what lies at or above 2^48 is no page (R170). -/
def State.keysOf (s : State) (lodge : Nat) (rs : List (Nat × Nat)) : List Nat :=
  (((sortDedup (rs.flatMap fun r => pagesOf r.1 r.2)).filter (· < 2 ^ 27)).map (pageKey lodge)).filter fun k =>
    (Tbl.find k s.mem.pages).isSome

/-- Every byte of a range translates (R170). -/
def State.translates (s : State) (lodge addr n : Nat) : Bool :=
  decide (addr + n ≤ 2 ^ 48) && (pagesOf addr n).all fun p => (Tbl.find (pageKey lodge p) s.mem.pages).isSome

/-- A 64-byte unit of a range is poisoned (R169). -/
def State.poisoned (s : State) (lodge addr n : Nat) : Bool :=
  if n = 0 then false else
  let lo := memKey lodge addr / 64
  let hi := memKey lodge (addr + n - 1) / 64
  s.mem.poison.any fun u => decide (lo ≤ u) && decide (u ≤ hi)

/-- What an access to a range meets: OK, or the execution fault of R88, R169, R197. -/
def State.accessStatus (s : State) (lodge addr n : Nat) : Nat :=
  if !s.translates lodge addr n then St.addrFault
  else if (pagesOf addr n).any (fun p =>
      match Tbl.find (pageKey lodge p) s.mem.pages with | some q => s.pageLost q | none => false) then St.trayLost
  else St.ok

/-- The same for a read, which poisoned data fails (R169). -/
def State.readStatus (s : State) (lodge addr n : Nat) : Nat :=
  let c := s.accessStatus lodge addr n
  if c ≠ St.ok then c else if s.poisoned lodge addr n then St.memUncorr else St.ok

/-- The bytes of a range, whatever its state. -/
def State.peek (s : State) (lodge addr n : Nat) : List Byte := Tbl.getRun 0 (memKey lodge addr) n s.mem.bytes

/-- The little-endian number at an address. -/
def State.peekNat (s : State) (lodge addr n : Nat) : Nat := leNat (s.peek lodge addr n)

/-! ## Access counts (R177) -/

/-- 64-byte units in one step of the access count. -/
def unitsPerCount : Nat := 1024

/-- Count an access of `u` units to a page. -/
def Page.access (p : Page) (u : Nat) (write : Bool) : Page :=
  let t := p.units + u
  { p with count := satAdd 65535 p.count (t / unitsPerCount), units := t % unitsPerCount,
           dirty := p.dirty || (write && p.harvest.isSome) }

/-- Count an access of `n` bytes at an address. -/
def State.touch (s : State) (lodge addr n : Nat) (write : Bool) : State :=
  let ps := pagesOf addr n
  { s with mem := { s.mem with pages := ps.foldl (fun t p =>
      let lo := max addr (p * 2 ^ 21)
      let hi := min (addr + n) ((p + 1) * 2 ^ 21)
      Tbl.adjust (pageKey lodge p) (·.access (ceilDiv (hi - lo) 64) write) t) s.mem.pages } }

/-! ## Writes -/

/-- Units a write covers whole lose their poison (R169). -/
def unpoison (key n : Nat) (l : List Nat) : List Nat :=
  l.filter fun u => !(decide (key ≤ u * 64) && decide (u * 64 + 64 ≤ key + n))

/-- Line-cache copies outside a range of bytes: a write that reaches the home removes the others (R186). -/
def linesOutside (k n : Nat) (l : List (Nat × Nat)) : List (Nat × Nat) :=
  l.filter fun x => decide (x.2 < k / 128) || decide ((k + n - 1) / 128 < x.2) || n == 0

/-- Put bytes at a lodge address; whole units lose their poison, and the line caches of the compute dies their copies (R186). -/
def State.pokeRaw (s : State) (lodge addr : Nat) (bs : List Byte) : State :=
  let k := memKey lodge addr
  { s with mem := { s.mem with bytes := Tbl.setRun 0 k bs s.mem.bytes, poison := unpoison k bs.length s.mem.poison,
                               lines := linesOutside k bs.length s.mem.lines } }

/-- Write bytes at a lodge address that translates; the write is counted (R177). -/
def State.poke (s : State) (lodge addr : Nat) (bs : List Byte) : State :=
  (s.pokeRaw lodge addr bs).touch lodge addr bs.length true

/-- Count the reads of a command: addresses and lengths (R177). -/
def State.touchReads (s : State) (lodge : Nat) : List (Nat × Nat) → State
  | [] => s
  | (a, n) :: r => (s.touch lodge a n false).touchReads lodge r

/-- A number written little-endian. -/
def State.pokeNat (s : State) (lodge addr n v : Nat) : State := s.poke lodge addr (leBytes n v)

/-- Mark the units of a range poisoned (R169, R390, R410). -/
def State.poisonRange (s : State) (lodge addr n : Nat) : State :=
  if n = 0 then s else
  let lo := memKey lodge addr / 64
  let hi := memKey lodge (addr + n - 1) / 64
  { s with mem := { s.mem with poison := sortDedup (s.mem.poison ++ natsFrom lo (hi + 1 - lo)) } }

/-- The error register's bit and the event of an uncorrectable error in a tier (R169, R430). -/
def State.uncorr (s : State) (l tier frame : Nat) : State :=
  let part := if tier = 1 then 160 + stackOf frame else if tier = 2 then 168 + frame % 32 else 0xFF
  (s.setBit Reg.memErrBits (tier - 1)).error 0x47 l part tier frame

/-- The first poisoned unit of a list of ranges. -/
def State.firstPoison (s : State) (l : Nat) : List (Nat × Nat) → Option Nat
  | [] => none
  | (a, n) :: r =>
    let hit := if n = 0 then none else
      s.mem.poison.find? fun u => decide (memKey l a / 64 ≤ u) && decide (u ≤ memKey l (a + n - 1) / 64)
    match hit with
    | some u => some u
    | none => s.firstPoison l r

/-- Poisoned data has been read in a lodge's ranges: the error is flagged and raised with its tier and frame (R169); the lodge's
lowest poisoned unit stands for a range the list does not name. -/
def State.seeUncorr (s : State) (l : Nat) (rs : List (Nat × Nat)) : State :=
  match s.firstPoison l (rs ++ [(0, 2 ^ 48)]) with
  | none => s
  | some u =>
    match Tbl.find (u / 2 ^ 15) s.mem.pages with
    | some q => s.uncorr l q.tier q.frame
    | none => s

/-- The status of a read decides whether an uncorrectable error is raised. -/
def State.raiseUncorr (s : State) (l st : Nat) (rs : List (Nat × Nat)) : State :=
  if st = St.memUncorr then s.seeUncorr l rs else s

/-- A range whose contents are undefined from now on (R82, R84): bytes that no rule fixes. -/
def State.scramble (s : State) (lodge addr n : Nat) : State := (s.poke lodge addr (s.freeBytes n)).useFree n

/-! ## Frames and quotas (R168, R175) -/

/-- Frames in use in a tier: pages, kept harvest sources, migration destinations, frames not yet zeroed, replicas. -/
def State.framesUsed (s : State) (tier : Nat) : List Nat :=
  (s.mem.pages.filterMap fun e => if e.2.tier = tier then some e.2.frame else none) ++
  (s.mem.pages.filterMap fun e => match e.2.harvest with
    | some (_, t, f) => if t = tier then some f else none
    | none => none) ++
  (s.mem.migr.filterMap fun e => if e.2.tier = tier then some e.2.frame else none) ++
  (s.mem.zeroing.filterMap fun z => if z.1 = tier then some z.2 else none) ++
  (s.spn.repl.filterMap fun r => if tier = 2 then some r.frame else none)

/-- USE of a lodge in a tier: harvest frames and unfinished migrations included (R175). -/
def State.tierUse (s : State) (lodge tier : Nat) : Nat :=
  let own (k : Nat) : Bool := k / 2 ^ 27 == lodge
  (s.mem.pages.filter fun e => own e.1 && e.2.tier == tier).length +
  (s.mem.pages.filter fun e => own e.1 && (match e.2.harvest with | some (_, t, _) => t == tier | none => false)).length +
  (s.mem.migr.filter fun e => own e.1 && e.2.tier == tier).length +
  (s.spn.repl.filter fun r => r.lodge == lodge && tier == 2).length

/-- Set bits of a number, below `n`. -/
def popcount (n x : Nat) : Nat := ((natsFrom 0 n).filter fun i => bitAt i x).length

/-- T2 frames offered: 32,768 for each trained channel less the 512 reserved (R168). -/
def t2Offer (ch : Nat) : Nat := if popcount 32 ch = 0 then 0 else 32768 * popcount 32 ch - 512

/-- The frames a tier offers (R175). -/
def State.tierOffer (s : State) (tier : Nat) : Nat :=
  if tier = 1 then 32768 * popcount 8 (s.rd Reg.nbuSelftestPass)
  else if tier = 2 then t2Offer (s.rd Reg.memT2ChT2ch)
  else (s.mem.trays.foldl (fun n t => if t.enabled && !t.lost then n + t.frames else n) 0)

/-- The trained T2 channels in ascending order. -/
def State.t2Channels (s : State) : List Nat := (natsFrom 0 32).filter fun i => bitAt i (s.rd Reg.memT2ChT2ch)

/-- Frame number `i` of those a tier offers, in ascending order: T2 frame f lies in channel f mod 32 (R168). -/
def State.nthFrame (s : State) (tier i : Nat) : Nat :=
  if tier = 1 then
    let st := (natsFrom 0 8).filter fun n => bitAt n (s.rd Reg.nbuSelftestPass)
    st.getD (i / 32768) 0 * 32768 + i % 32768
  else if tier = 2 then
    let ch := s.t2Channels
    i / ch.length * 32 + ch.getD (i % ch.length) 0
  else
    let ts := s.mem.trays.filter fun t => t.enabled && !t.lost
    (ts.foldl (fun (a : Nat × Nat) t =>
      if a.1 < t.frames then (if a.1 = 2 ^ 40 then a else (2 ^ 40, t.base + a.1)) else
      if a.1 = 2 ^ 40 then a else (a.1 - t.frames, a.2)) (i, 0)).2

/-- The lowest offered frame of a tier that is not in use, looking at one more candidate than there are frames in use. -/
def State.lowestFree (s : State) (tier : Nat) : Option Nat :=
  let used := s.framesUsed tier
  ((natsFrom 0 (min (s.tierOffer tier) (used.length + 1))).map (s.nthFrame tier)).find? fun f => !used.contains f

/-- Frames reserved for other lodges and not yet used by them (R175). -/
def State.othersReserve (s : State) (lodge tier : Nat) : Nat :=
  ((natsFrom 0 16).filter (· ≠ lodge)).foldl (fun n l =>
    n + (s.rd Reg.memResFrames l (tier - 1) - s.tierUse l tier)) 0

/-- A frame the lodge can obtain in a tier (R175, R176): below LIMIT, and no other lodge's reserve. -/
def State.obtain (s : State) (lodge tier : Nat) : Option Nat :=
  let use := s.tierUse lodge tier
  if use < s.rd Reg.memLimFrames lodge (tier - 1) then
    let usedNow := (s.framesUsed tier).length
    if use < s.rd Reg.memResFrames lodge (tier - 1) ∨ usedNow + s.othersReserve lodge tier < s.tierOffer tier then
      s.lowestFree tier
    else none
  else none

/-- Forget the bytes and poison of a page that leaves the map. -/
def State.dropPageBytes (s : State) (lodge page : Nat) : State :=
  let lo := memKey lodge (page * 2 ^ 21)
  { s with mem := { s.mem with bytes := Tbl.clear lo (lo + 2 ^ 21) s.mem.bytes,
                               poison := s.mem.poison.filter fun u => !(decide (lo / 64 ≤ u) && decide (u < (lo + 2 ^ 21) / 64)) } }

/-- Release a frame: it is zeroed before any lodge receives it again (R172). -/
def State.release (s : State) (tier frame : Nat) : State :=
  { s with mem := { s.mem with zeroing := s.mem.zeroing ++ [(tier, frame)] } }

/-! ## Core store (R81) -/

/-- The key of a byte of a physical core-store page. -/
def csKey (core ppage off : Nat) : Nat := core * 2 ^ 21 + ppage * 4096 + off

/-- A core, as reset leaves it until something happens there. -/
def State.core (s : State) (c : Nat) : Core := Tbl.get Core.reset c s.cores

/-- Replace a core. -/
def State.setCore (s : State) (c : Nat) (k : Core) : State := { s with cores := Tbl.set Core.reset c k s.cores }

/-- Change a core. -/
def State.modCore (s : State) (c : Nat) (f : Core → Core) : State := s.setCore c (f (s.core c))

/-- The bytes of a lodge's logical core-store range; a logical page that has no backing reads zero. -/
def State.csRead (s : State) (c lodge off n : Nat) : List Byte :=
  (natsFrom off n).map fun o =>
    match Tbl.find (lodge * 512 + o / 4096) (s.core c).pageMap with
    | some p => Tbl.get 0 (csKey c p (o % 4096)) s.coreStore
    | none => 0

/-- Physical pages of a core's store that back nothing. -/
def Core.freePages (k : Core) : List Nat :=
  let used := k.pageMap.map (·.2)
  (natsFrom 0 512).filter fun p => !used.contains p

/-- Two byte ranges meet. -/
def overlap (a n b m : Nat) : Bool := decide (a < b + m) && decide (b < a + n) && n != 0 && m != 0

/-! ## Buckets of the bandwidth regulators (R288, R289) -/

/-- MAX_TOK of a lodge on a path. -/
def State.maxTok (s : State) (l p : Nat) : Int := Tbl.get 0 (l * 8 + p) s.lod.maxTok
/-- MIN_TOK. -/
def State.minTok (s : State) (l p : Nat) : Int := Tbl.get 0 (l * 8 + p) s.lod.minTok

/-- Charge a grant. -/
def State.charge (s : State) (p l n : Nat) (guaranteed : Bool) : State :=
  let mx := s.maxTok l p - (n : Int)
  let mn := if guaranteed then s.minTok l p - (n : Int) else s.minTok l p
  { s with lod := { s.lod with minTok := Tbl.put (l * 8 + p) mn s.lod.minTok, maxTok := Tbl.put (l * 8 + p) mx s.lod.maxTok } }

/-- Grants of at most 64 KiB to the work that a home does for a lodge, while its MAX_TOK is above 0 (R289, R291): the bytes that are left
(DEDUCED, log 134). -/
def State.grant (s : State) (p l n : Nat) : Nat → State × Nat
  | 0 => (s, n)
  | k + 1 =>
    if n = 0 ∨ s.maxTok l p ≤ 0 then (s, n)
    else (s.charge p l (min n 65536) (decide (0 < s.minTok l p))).grant p l (n - min n 65536) k

/-- The path of the tier that holds an address. -/
def State.pathAt (s : State) (l addr : Nat) : Nat := match s.page l addr with | some p => p.tier - 1 | none => 0

/-- A request at an address is not held back by the regulator of its tier (R289); one that does not translate moves no bytes. -/
def State.mayTake (s : State) (l addr : Nat) : Bool := (s.page l addr).isNone || decide (0 < s.maxTok l (s.pathAt l addr))

/-- Charge `n` bytes to a lodge on a path, as one grant (R289, R291). -/
def State.chargePath (s : State) (p l n : Nat) : State := s.charge p l n (decide (0 < s.minTok l p))

/-- As many grants as `n` bytes take. -/
def State.grantAll (s : State) (p l n : Nat) : State × Nat := s.grant p l n (n / 65536 + 1)

end Sys2Proof.Machine
end

