-- ==== Sys2Proof/Machine/Scratchpad.lean ====
section
/-!
DEFINITION. The tile scratchpads (R71 to R75): banks and their home masters, the three windows, the grants of a bank's two ports in one
cycle, and what a cycle reads and writes.
-/

namespace Sys2Proof.Machine

/-- The windows through which a scratchpad is seen (R74). -/
inductive PadWindow where
  /-- a write replaces -/
  | plain
  /-- bit-set alias: a write ORs -/
  | set
  /-- bit-clear alias: a write ANDs with the complement -/
  | clear
  deriving DecidableEq, Repr

/-- One access of a master to a scratchpad: a word of 64 bytes (R71, R72). -/
structure PadReq where
  /-- 0 feeder port A, 1 feeder port B, 2 result drain, 3 vector unit, 4 to 7 DMA engines 0 to 3 -/
  master : Nat
  /-- a write, not a read -/
  write : Bool
  /-- its address, in one of the windows -/
  addr : Nat
  /-- the 64 bytes of a write -/
  data : List Byte
  /-- its byte enables -/
  enable : List Bool
  deriving DecidableEq, Repr

/-- The window and the scratchpad address that an access reaches; none above 0xB_FFFF (R74). -/
def padWindow (addr : Nat) : Option (PadWindow × Nat) :=
  if addr < 0x40000 then some (.plain, addr)
  else if addr < 0x80000 then some (.set, addr - 0x40000)
  else if addr < 0xC0000 then some (.clear, addr - 0x80000)
  else none

/-- The status that an access's address gives its command (R74). -/
def padStatus (addr : Nat) : Nat := if (padWindow addr).isNone then St.badOperand else St.ok

/-- The scratchpad address an access reaches. -/
def PadReq.at_ (q : PadReq) : Nat := match padWindow q.addr with | some w => w.2 | none => 0

/-- The bank of a scratchpad address: bits [17:15] (R71). -/
def bankOf (addr : Nat) : Nat := bits 15 3 addr

/-- The home master of a bank, by master index (R71). -/
def homeMaster (bank : Nat) : Nat := bank

/-- The key of a scratchpad byte. -/
def padKey (core tile addr : Nat) : Nat := core * 2 ^ 21 + tile * 2 ^ 18 + addr

/-- The key of a bank of a tile. -/
def bankKey (core tile bank : Nat) : Nat := core * 64 + tile * 8 + bank

/-- The 64-byte word at a scratchpad address. -/
def Pad.word (p : Pad) (core tile addr : Nat) : List Byte := Tbl.getRun 0 (padKey core tile (addr / 64 * 64)) 64 p.bytes

/-- What a write makes of one byte (R74). -/
def padByte (w : PadWindow) (old new : Byte) : Byte :=
  match w with
  | .plain => new
  | .set => old ||| new
  | .clear => old &&& ~~~new

/-- The word after a write: only enabled bytes change; an alias write is one atomic read-modify-write (R74). -/
def padMerge (w : PadWindow) (old data : List Byte) (enable : List Bool) : List Byte :=
  (natsFrom 0 64).map fun i =>
    if enable.getD i false then padByte w (old.getD i 0) (data.getD i 0) else old.getD i 0

/-- A granted write takes place; above 0xB_FFFF nothing is written. -/
def Pad.write (p : Pad) (core tile : Nat) (q : PadReq) : Pad :=
  match padWindow q.addr with
  | none => p
  | some (w, a) =>
    { p with bytes := Tbl.setRun 0 (padKey core tile (a / 64 * 64)) (padMerge w (p.word core tile a) q.data q.enable) p.bytes }

/-- The master granted a port of a bank: the home master if it asks, else round-robin among those that do (R72). -/
def portGrant (turn bank : Nat) (masters : List Nat) : Option Nat :=
  if masters.contains (homeMaster bank) then some (homeMaster bank) else rrPick turn (sortDedup masters)

/-- Requests for one port of a bank, in the order in which their masters made them. -/
def portReqs (write : Bool) (bank : Nat) (reqs : List PadReq) : List PadReq :=
  reqs.filter fun q => q.write == write && bankOf q.at_ == bank

/-- The request a port grants in this cycle: the oldest of the master granted. -/
def portPick (turn : Nat) (write : Bool) (bank : Nat) (reqs : List PadReq) : Option PadReq :=
  let rs := portReqs write bank reqs
  match portGrant turn bank (rs.map (·.master)) with
  | none => none
  | some m => rs.find? fun q => q.master == m

/-- Take the first occurrence of a request out of those that wait. -/
def unwait (q : PadReq) : List PadReq → List PadReq
  | [] => []
  | x :: r => if x = q then r else x :: unwait q r

/-- The pointer of a port moves past a winner that is not the home master. -/
def turnAfter (bank : Nat) (q : PadReq) (key : Nat) (t : Tbl Nat) : Tbl Nat :=
  if q.master = homeMaster bank then t else Tbl.set 0 key (q.master + 1) t

/-- The write port of one bank in one cycle; a request that is not granted stays for the next cycle. -/
def Pad.writePort (p : Pad) (core tile bank : Nat) (reqs : List PadReq) : Pad × List PadReq :=
  let k := bankKey core tile bank
  match portPick (Tbl.get 0 k p.writeTurn) true bank reqs with
  | none => (p, reqs)
  | some q => ({ p.write core tile q with writeTurn := turnAfter bank q k p.writeTurn }, unwait q reqs)

/-- The read port of one bank in one cycle, after the writes of the cycle: the read returns what they wrote (R73). -/
def Pad.readPort (p : Pad) (core tile bank : Nat) (reqs : List PadReq) : Pad × List PadReq × List (PadReq × List Byte) :=
  let k := bankKey core tile bank
  match portPick (Tbl.get 0 k p.readTurn) false bank reqs with
  | none => (p, reqs, [])
  | some q => ({ p with readTurn := turnAfter bank q k p.readTurn }, unwait q reqs, [(q, p.word core tile q.at_)])

/-- One cycle of a tile's scratchpad (R72): every bank grants its write port and its read port. The scratchpad, the requests left for the
next cycle, and what the reads return. -/
def Pad.cycle (p : Pad) (core tile : Nat) (reqs : List PadReq) : Pad × List PadReq × List (PadReq × List Byte) :=
  let w := (natsFrom 0 8).foldl (fun (a : Pad × List PadReq) b => a.1.writePort core tile b a.2) (p, reqs)
  (natsFrom 0 8).foldl (fun (a : Pad × List PadReq × List (PadReq × List Byte)) b =>
    let r := a.1.readPort core tile b a.2.1
    (r.1, r.2.1, a.2.2 ++ r.2.2)) (w.1, w.2, [])

/-- Cycle after cycle until every request has been granted: none is ever dropped (R72). -/
def Pad.drain (p : Pad) (core tile : Nat) : Nat → List PadReq → Pad
  | 0, _ => p
  | n + 1, reqs =>
    if reqs = [] then p
    else
      let r := p.cycle core tile reqs
      r.1.drain core tile n r.2.1

/-- What a command does to a tile's scratchpad. -/
def Pad.traffic (p : Pad) (core tile : Nat) (reqs : List PadReq) : Pad := p.drain core tile reqs.length reqs

/-- Every scratchpad word of the eight tiles of a core becomes zero (R75). -/
def Pad.zero (p : Pad) (core : Nat) : Pad := { p with bytes := p.bytes.filter fun e => e.1 / 2 ^ 21 != core }

/-- The accesses of a run to the scratchpad of one of its tiles: free values, inside the windows. -/
def padTraffic (run tile : Nat) : List PadReq :=
  (Config.padTraffic run tile).map fun q => ⟨q.1 % 8, q.2.1, q.2.2.1 % 0xC0000, q.2.2.2.1, q.2.2.2.2⟩

end Sys2Proof.Machine
end

