-- ==== Sys2Proof/Machine/LedgerState.lean ====
section
/-!
DEFINITION. Ledger entries as faults move them (R205, R280); the step schedulers' state.
-/

namespace Sys2Proof.Machine

/-- The entries of a lodge when its context faults: ADMITTED to DRAINING move to FAULTED; under ORPHANED, PREFILLING to
GENERATING move to ORPHANED and the others of ADMITTED to DRAINING to FAULTED (R280). -/
def State.faultEntries (s : State) (l : Nat) (orphan : Bool) : State :=
  let move (e : Entry) : Entry :=
    if e.req.lodge = l ∧ 1 ≤ e.st ∧ e.st ≤ 7 then
      { e with st := if orphan && decide (3 ≤ e.st) && decide (e.st ≤ 6) then 10 else 9, since := s.now }
    else e
  { s with ldg := { s.ldg with entries := s.ldg.entries.map fun x => (x.1, move x.2) } }

/-- The step scheduler of a model slot. -/
def State.slotOf (s : State) (k : Nat) : Slot := Tbl.get Slot.idle k s.ldg.slots
/-- Replace it. -/
def State.setSlot (s : State) (k : Nat) (x : Slot) : State := { s with ldg := { s.ldg with slots := Tbl.set Slot.idle k x s.ldg.slots } }
/-- Change it. -/
def State.modSlot (s : State) (k : Nat) (f : Slot → Slot) : State := s.setSlot k (f (s.slotOf k))

/-- A step scheduler without the commands of a lodge: its stream is not issued further. -/
def Slot.without (l : Nat) (x : Slot) : Slot :=
  let keep (cs : List Cmd) : List Cmd := cs.filter (·.lodge != l)
  { x with todo := keep x.todo, left := (x.left.map keep).filter (· != []), stream := (x.stream.map keep).filter (· != []) }

/-- A stream that loses a command to quarantine issues no more (R440). -/
def Slot.abandon (x : Slot) : Slot := { x with todo := [], left := [] }

end Sys2Proof.Machine
end

