-- ==== Sys2Proof/Machine/CmdOps.lean ====
section
/-!
DEFINITION. Commands on their way from a ring to their completion record: descriptor fields (R85, R335), rings and records
(R328 to R340), client records (R292 to R294), lodge contexts and their faults (R279 to R281), Tally signals and waits
(R302 to R309).
-/

namespace Sys2Proof.Machine

/-! ## Descriptor fields -/

/-- Word `i` of the descriptor. -/
def Cmd.w (c : Cmd) (i : Nat) : Nat := c.words.getD i 0
/-- Bits of word `i`. -/
def Cmd.fld (c : Cmd) (i lo w : Nat) : Nat := bits lo w (c.w i)
/-- VERSION (R335). -/
def Cmd.version (c : Cmd) : Nat := c.fld 0 0 4
/-- CLASS (R335). -/
def Cmd.klass (c : Cmd) : Nat := c.fld 0 4 4
/-- OPCODE. -/
def Cmd.op (c : Cmd) : Nat := c.fld 0 8 8
/-- FLAGS. -/
def Cmd.flags (c : Cmd) : Nat := c.fld 0 16 16
/-- CORE: the logical core (R439). -/
def Cmd.core (c : Cmd) : Nat := c.fld 0 32 16
/-- CMD_TAG. -/
def Cmd.tag (c : Cmd) : Nat := c.fld 0 48 16
/-- FLAGS bit 0, IRQ. -/
def Cmd.irq (c : Cmd) : Bool := bitAt 16 (c.w 0)
/-- FLAGS bit 1, ORDERED (R85); MEM_MAP, MEM_UNMAP and MEM_SETATTR act as though it were set (R174). -/
def Cmd.ordered (c : Cmd) : Bool :=
  bitAt 17 (c.w 0) || (c.klass == 3 && (c.op == 1 || c.op == 2 || c.op == 3))

/-- The slot kind a class runs in: 0 compute, 1 near-bank, 2 Wain; none for TALLY (R103, R194, R253, R268, R316, R379, R422). -/
def slotKind (klass : Nat) : Option Nat :=
  if klass = 2 then some 0
  else if klass = 3 ∨ klass = 8 then some 1
  else if klass = 4 ∨ klass = 6 ∨ klass = 7 then some 2
  else none

/-- The places of a slot kind (R89, R103, R253). -/
def placesOf (kind : Nat) : List Nat := if kind = 0 then [0] else if kind = 1 then natsFrom 1 8 else natsFrom 9 4

/-- The slot kind of a place. -/
def kindOf (place : Nat) : Nat := if place = 0 then 0 else if place < 9 then 1 else 2

/-- A FIELD command with CHAIN: it waits on a connection, not on a Tally (R413, R423). -/
def Cmd.chain (c : Cmd) : Bool := c.klass == 7 && bitAt 19 (c.w 0)

/-- The waits and signals of a descriptor (R85); every class with signals lays them out alike. -/
def Cmd.waitTally (c : Cmd) : Nat := if c.chain then 0xFFFF else c.fld 4 16 16
/-- V of R303, with the captured base of R306. -/
def Cmd.waitV (c : Cmd) : Nat := (c.fld 4 32 32 + c.waitBase) % 2 ^ 32
/-- SIG0 to SIG3 in order: Tally and amount; amount 0 is unused. -/
def Cmd.sigs (c : Cmd) : List (Nat × Nat) :=
  [(c.fld 5 0 16, c.fld 5 16 16), (c.fld 5 32 16, c.fld 5 48 16),
   (c.fld 6 0 16, c.fld 6 16 16), (c.fld 6 32 16, c.fld 6 48 16)].filter fun p => p.2 != 0

/-- The class has a wait and signals in words 4 to 6 (R316: TALLY has none). -/
def Cmd.hasSignals (c : Cmd) : Bool := (slotKind c.klass).isSome

/-! ## Cores and places -/

/-- The physical core of a logical core (R439). -/
def State.phys (s : State) (c : Nat) : Nat := s.rd Reg.hltCoreMapPhys c

/-- The job in a place. -/
def State.job (s : State) (c p : Nat) : Option Job := Tbl.find p (s.core c).places

/-- Put a job in a place. -/
def State.setJob (s : State) (c p : Nat) (j : Job) : State :=
  s.modCore c fun k => { k with places := Tbl.put p j k.places }

/-- Empty a place. The compute slot's becoming IDLE is where a written STAGE_PAGES takes effect (R89, R96). -/
def State.dropJob (s : State) (c p : Nat) : State :=
  s.modCore c fun k => { k with places := Tbl.del p k.places, stage := if p = 0 then s.rd Reg.cmpCsCfgStagePages c else k.stage }

/-- A job that has just reached the decoder. -/
def Job.fresh (c : Cmd) (now : Nat) : Job :=
  { cmd := c, st := .decode, reserved := false, stalled := false, status := 0, rerun := false, record := true, flags := 0,
    result := 0, staged := [], direct := [], optab := [], since := now, decoded := now, pins := [], waiting := [], abuf := 0 }

/-- Every job of the device with its core and place. -/
def State.jobs (s : State) : List (Nat × Nat × Job) := s.cores.flatMap fun e => e.2.places.map fun p => (e.1, p.1, p.2)

/-- Commands of a lodge running in one kind of slot across the device, DECODE to COMMIT (R285). -/
def State.running (s : State) (kind lodge : Nat) : Nat :=
  (s.jobs.filter fun j => kindOf j.2.1 == kind && j.2.2.cmd.lodge == lodge && j.2.2.st != .kill).length

/-! ## Client records (R292 to R294) -/

/-- Key of a client's record. -/
def clientKey (lodge client : Nat) : Nat := lodge * 2 ^ 17 + client

/-- Client records claimed, overflow records apart. -/
def State.clientsUsed (s : State) : Nat := (s.lod.clients.filter fun e => e.1 % 2 ^ 17 < 2 ^ 16).length

/-- An event for a client: its record, claimed if need be, or the lodge's overflow record (R292). -/
def State.clientEvent (s : State) (lodge client : Nat) (f : Client → Client) : State :=
  let k := clientKey lodge client
  match Tbl.find k s.lod.clients with
  | some c => { s with lod := { s.lod with clients := Tbl.put k (f c) s.lod.clients } }
  | none =>
    if s.clientsUsed < 65536 then { s with lod := { s.lod with clients := Tbl.put k (f Client.zero) s.lod.clients } }
    else
      let o := clientKey lodge (2 ^ 16)
      let c := (Tbl.find o s.lod.clients).getD Client.zero
      { s with lod := { s.lod with clients := Tbl.put o (f c) s.lod.clients } }.setBit Reg.lodErrBits 2

/-- The histogram bucket of a wait of `w` ns (R294). -/
def waitBucket (w : Nat) : Nat := if w < 1024 then 0 else if w ≥ 16777216 then 15 else Nat.log2 w - 9

/-- One wait recorded (R293, R294). -/
def Client.wait (c : Client) (w : Nat) : Client :=
  { c with waitSum := (c.waitSum + w) % 2 ^ 64, waitMax := max c.waitMax (min w (2 ^ 64 - 1)), waits := (c.waits + 1) % 2 ^ 64,
           hist := Tbl.set 0 (waitBucket w) ((Tbl.get 0 (waitBucket w) c.hist + 1) % 2 ^ 64) c.hist }

/-- A wait of a command, once for each of its clients (R294). -/
def State.recordWait (s : State) (lodge : Nat) (clients : List Nat) (w : Nat) : State :=
  clients.foldl (fun s c => s.clientEvent lodge c (·.wait w)) s

/-! ## Rings and records (R328 to R340) -/

/-- A ring's own data. -/
def State.ring (s : State) (r : Nat) : Ring := Tbl.get Ring.reset r s.hif.rings
/-- Replace it. -/
def State.setRing (s : State) (r : Nat) (x : Ring) : State :=
  { s with hif := { s.hif with rings := Tbl.set Ring.reset r x s.hif.rings } }
/-- Change it. -/
def State.modRing (s : State) (r : Nat) (f : Ring → Ring) : State := s.setRing r (f (s.ring r))

/-- Entries of a ring (R328). -/
def State.ringSize (s : State) (r : Nat) : Nat := 2 ^ s.rd Reg.hifRingCfgSizeLog2 r
/-- DEV_IDX (R329). -/
def State.devIdx (s : State) (r : Nat) : Nat := s.rd Reg.hifRingIdxDevIdx r

/-- The ring accepts no further record until the driver enables it again (R323). -/
def State.cqLive (s : State) (cq : Nat) : Bool := s.rd Reg.hifRingStatusState cq != 0

/-- Room in a completion or step ring (R333). A record of HOST_IDX that stopped the ring gives none (R331); a ring that FLR has
closed needs none, since what falls due there is discarded (R323). -/
def State.hasRoom (s : State) (r n : Nat) : Bool :=
  !s.cqLive r || (s.rd Reg.hifRingStatusReason r != 1 &&
    decide ((s.devIdx r + (s.ring r).reserved + 2 ^ 32 - (s.ring r).hostIdx) % 2 ^ 32 + n ≤ s.ringSize r))

/-- The device's word of a ring's doorbell record: DEV_IDX (R329). -/
def State.writeDevIdx (s : State) (r : Nat) : State :=
  s.hostWord (s.rd Reg.hifRingDbAddr r * 64 + 8) (s.devIdx r)

/-- A record counted towards its ring's interrupt (R340). -/
def State.countIrq (s : State) (r : Nat) : State :=
  let v := s.rd Reg.hifRingCfgVector r
  let n := (s.ring r).irqPend + 1
  if n ≥ s.rd Reg.hifRingModCount r ∨ s.rd Reg.hifRingModHoldUs r = 0 then
    let s := s.modRing r fun x => { x with irqPend := 0 }
    if v = 0 then s else s.fire v
  else s.modRing r fun x => { x with irqPend := n }

/-- Word 0 of a completion record without PHASE (R337). -/
def recordWord0 (c : Cmd) (core status : Nat) (flags : Flags) : Nat :=
  3 * 2 + flags.toNat * 2 ^ 4 + status * 2 ^ 8 + c.tag * 2 ^ 16 + c.ring * 2 ^ 32 + core * 2 ^ 40 + c.klass * 2 ^ 48 +
    c.op * 2 ^ 56

/-- Write one completion record at the ring's next entry (R332, R337, R338). -/
def State.writeRecord (s : State) (cq : Nat) (c : Cmd) (core status : Nat) (flags : Flags) (result : Nat) : State :=
  let n := s.devIdx cq
  let a := s.rd Reg.hifRingBaseAddr cq * 2 ^ 12 + 32 * (n % s.ringSize cq)
  let s := s.hostWrite a (leBytes 8 (recordWord0 c core status flags + phaseOf n (s.ringSize cq)) ++
    leBytes 8 (result % 2 ^ 32 + c.idx % 2 ^ 32 * 2 ^ 32) ++ leBytes 8 s.now ++ leBytes 8 0)
  let s := (s.count Reg.hifRingIdxDevIdx 1 cq).writeDevIdx cq
  if c.irq || s.on Reg.hifRingCfgIrqAll cq then s.countIrq cq else s

/-- Take a reservation for a command if it has none (R333): the state after, and whether it has one now. -/
def State.reserve (s : State) (cq : Nat) : State := s.modRing cq fun x => { x with reserved := x.reserved + 1 }
/-- Give a reservation back. -/
def State.unreserve (s : State) (cq : Nat) : State := s.modRing cq fun x => { x with reserved := x.reserved - 1 }

/-- The completion ring of a submit ring. -/
def State.cqOf (s : State) (ring : Nat) : Nat := s.rd Reg.hifRingCfgCq ring

/-- A submit ring whose ENABLE is 0 reads DISABLED once every fetched descriptor has its record (R334). -/
def State.settleRing (s : State) (r : Nat) : State :=
  if s.rd Reg.hifRingCfgEnable r = 0 ∧ s.rd Reg.hifRingCfgType r = 0 ∧ (s.ring r).live = [] then
    (s.wr Reg.hifRingStatusState 0 r).wr Reg.hifRingStatusReason 0 r
  else s

/-- A descriptor no longer lacks its record. -/
def State.unlive (s : State) (c : Cmd) : State :=
  if c.sched then s
  else (s.modRing c.ring fun x => { x with live := x.live.filter (· ≠ c.seq) }).settleRing c.ring

/-- Post a record to the command's completion ring, or drop it where FLR has closed the ring (R323). -/
def State.post (s : State) (c : Cmd) (core status : Nat) (flags : Flags) (result : Nat) : State :=
  let cq := s.cqOf c.ring
  if s.cqLive cq then s.writeRecord cq c core status flags result
  else (s.bump Reg.hifCplDropCount).devCause 3

/-- BARRIERs of a ring whose earlier descriptors all have their records complete now (R336). -/
def State.settleBarriers (s : State) (r : Nat) : Nat → State
  | 0 => s
  | n + 1 =>
    match (s.ring r).barriers with
    | [] => s
    | (b, k) :: rest =>
      if (s.ring r).live.any (· < b.seq) then s
      else if s.hasRoom (s.cqOf r) 1 then
        let s := s.modRing r fun x => { x with barriers := rest }
        let s := (s.post b 0xFF St.ok 0 k).unlive b
        s.settleBarriers r n
      else s

/-- A command ends with a record for which the room is reserved or has just been found. -/
def State.finish (s : State) (c : Cmd) (core status : Nat) (flags : Flags) (result : Nat) : State :=
  if c.sched then s
  else
    let s := (s.post c core status flags result).unlive c
    s.settleBarriers c.ring (s.ring c.ring).barriers.length

/-- A command with no reservation ends: its record is written, or waits for room and never is dropped for lack of it (R333). -/
def State.completeWith (s : State) (c : Cmd) (core status : Nat) (flags : Flags) (result : Nat) : State :=
  if c.sched then s
  else if s.hasRoom (s.cqOf c.ring) 1 || !s.cqLive (s.cqOf c.ring) then s.finish c core status flags result
  else
    (s.bump Reg.hifCqStallCount).modRing (s.cqOf c.ring) fun x =>
      { x with waiting := x.waiting ++ [(c, core, status, flags.toNat, result)] }

/-- The same with no arithmetic flag. -/
def State.complete (s : State) (c : Cmd) (core status result : Nat) : State := s.completeWith c core status 0 result

/-! ## Lodge contexts (R279 to R283) -/

/-- STATE of a lodge: 0 ABSENT, 1 ACTIVE, 2 FAULTED, 3 ORPHANED, 4 TEARDOWN, 5 HALTED. -/
def State.lodge (s : State) (l : Nat) : Nat := s.rd Reg.lodStateState l
/-- The lodge context is ACTIVE. -/
def State.active (s : State) (l : Nat) : Bool := s.lodge l == 1
/-- The lodge bound to a tenant. -/
def State.tenantLodge (s : State) (t : Nat) : Option Nat := Tbl.find t s.lod.tenants

/-- Give back what a job holds outside the commit set: pins and activation room stay until its kill ends. -/
def Job.toKill (j : Job) (rerun record : Bool) (status : Nat) : Job :=
  { j with st := .kill, rerun := rerun, record := record, status := status, staged := [], waiting := [] }

/-- The shadows of a command are discarded with it (R90). -/
def Core.dropShadows (k : Core) (x : Cmd) : Core :=
  { k with shadows := k.shadows.filter fun h => !(h.ring == x.ring && h.seq == x.seq && h.tag == x.tag) }

/-- Every running command of a lodge is killed for a fault or TEARDOWN (R280): no re-run, no record; a kill under way for
another cause loses its record too (R84). DIRECT ranges it wrote stay undefined. -/
def State.killLodge (s : State) (l : Nat) : State :=
  let kill (j : Job) : Job := if j.cmd.lodge = l then j.toKill false false j.status else j
  let hit (k : Core) : Core := (k.places.filter fun p => p.2.cmd.lodge == l).foldl (fun (k : Core) p => k.dropShadows p.2.cmd) k
  { s with cores := s.cores.map fun e => (e.1, { hit e.2 with places := e.2.places.map fun p => (p.1, kill p.2) }) }

/-- Kills that took effect in this fault, counted per core (R96). -/
def State.countKills (s : State) (l : Nat) : State :=
  (s.jobs.filter fun j => j.2.2.cmd.lodge == l && j.2.2.st != .kill).foldl (fun s j => s.count Reg.cmpKillCntCount 1 j.1) s

/-- A ring without what it holds back and the BARRIERs that wait, of one lodge. -/
def Ring.without (l : Nat) (r : Ring) : Ring :=
  { r with hold := r.hold.filter (·.lodge != l), barriers := r.barriers.filter (·.1.lodge != l) }

/-- Descriptors of a lodge that are queued anywhere: at cores, held back for a core's queue, at the ledger, among the ADMIN descriptors, and
BARRIERs that wait. -/
def State.queuedOf (s : State) (l : Nat) : List Cmd :=
  (s.cores.flatMap fun e => e.2.queue.filter (·.lodge == l)) ++ s.hif.ledgerQ.filter (·.lodge == l) ++
    s.hif.adminQ.filter (·.lodge == l) ++
    s.hif.rings.flatMap fun e => (e.2.hold.toList ++ e.2.barriers.map (·.1)).filter (·.lodge == l)

/-- The queues without the commands of a lodge; a step scheduler issues none of them further. -/
def State.dropQueued (s : State) (l : Nat) : State :=
  { s with cores := s.cores.map fun e => (e.1, { e.2 with queue := e.2.queue.filter (·.lodge != l) }),
           hif := { s.hif with ledgerQ := s.hif.ledgerQ.filter (·.lodge != l),
                               adminQ := s.hif.adminQ.filter (·.lodge != l),
                               rings := s.hif.rings.map fun e => (e.1, e.2.without l) },
           ldg := { s.ldg with slots := s.ldg.slots.map fun e => (e.1, e.2.without l) } }

/-- Every queued command of a lodge is discarded without a record (R280). -/
def State.discardQueued (s : State) (l : Nat) : State := (s.queuedOf l).foldl (fun (s : State) c => s.unlive c) (s.dropQueued l)

/-- The fault record, captured at the first fault only; every fault counts (R280, R299). -/
def State.faultRecord (s : State) (l status source core ring tag : Nat) : State :=
  let s :=
    if s.rd Reg.lodFaultFaultCnt l = 0 then
      let s := s.wr Reg.lodFaultStatus status l
      let s := s.wr Reg.lodFaultSource source l
      let s := s.wr Reg.lodFaultCore core l
      let s := s.wr Reg.lodFaultRing ring l
      let s := s.wr Reg.lodFaultTagTag tag l
      s.wr Reg.lodFaultTimeValue s.now l
    else s
  s.bump Reg.lodFaultFaultCnt 1 l

/-- The lodge fault event and interrupt (R280, R429). -/
def State.faultEvent (s : State) (l status source core ring tag : Nat) (orphan : Bool) : State :=
  let w2 := status + source * 2 ^ 8 + core * 2 ^ 16 + ring * 2 ^ 24 + tag * 2 ^ 32 + (if orphan then 2 ^ 48 else 0)
  let s := (s.setBit Reg.lodErrBits 0).error 0x40 l 0xFF w2 0
  s.fire (s.rd Reg.hifLodgeVecVector l)

/-- Admits of a lodge whose record is still due lose it with their reservation (R280). -/
def State.dropAdmits (s : State) (l : Nat) : State :=
  let due := s.ldg.entries.filterMap fun e => if e.2.req.lodge = l then e.2.admitCmd else none
  let s : State := { s with ldg := { s.ldg with entries := s.ldg.entries.map fun e =>
    (e.1, if e.2.req.lodge = l then { e.2 with admitCmd := none } else e.2) } }
  due.foldl (fun (s : State) x => (s.unreserve (s.cqOf x.ring)).unlive x) s

/-- The waits that a fault ends: entries of the lodge leave QUEUED_PREFILL and QUEUED_GEN (R280, R294). -/
def State.endWaits (s : State) (l : Nat) : State :=
  (s.ldg.entries.filter fun e => e.2.req.lodge == l && (e.2.st == 2 || e.2.st == 5)).foldl
    (fun (s : State) e => s.recordWait l [e.2.req.client] (s.now - e.2.since)) s

/-- What entering FAULTED or ORPHANED does to the lodge's commands and entries (R280). -/
def State.sweepLodge (s : State) (l : Nat) (orphan : Bool) : State :=
  (((((s.countKills l).killLodge l).discardQueued l).dropAdmits l).endWaits l).faultEntries l orphan

/-- A fault of a lodge context (R43, R280): from ACTIVE it enters FAULTED; a later fault is counted only. -/
def State.faultLodge (s : State) (l status source core ring tag : Nat) : State :=
  if s.lodge l = 1 then
    let s := s.wr Reg.lodStateState 2 l
    let s := s.sweepLodge l false
    (s.faultRecord l status source core ring tag).faultEvent l status source core ring tag false
  else if s.lodge l = 2 ∨ s.lodge l = 3 then s.faultRecord l status source core ring tag
  else s

/-- A lodge context enters ORPHANED from ACTIVE or FAULTED (R20, R280), with the ORPHAN alarm. -/
def State.orphanLodge (s : State) (l status source core ring tag tenant dev : Nat) : State :=
  if s.lodge l = 1 ∨ s.lodge l = 2 then
    let s := s.wr Reg.lodStateState 3 l
    let s := s.sweepLodge l true
    let s := (s.faultRecord l status source core ring tag).faultEvent l status source core ring tag true
    (s.setBit Reg.lodErrBits 1).alarm 0x02 l 0xFF (l + tenant * 2 ^ 8 + dev * 2 ^ 32 + status * 2 ^ 56) 0
  else if s.lodge l = 3 then s.faultRecord l status source core ring tag
  else s

/-! ## Tallies (R302 to R309) -/

/-- RECKON_SUM of a Tally's group. -/
def State.reckonSum (s : State) (t : Tally) : Nat :=
  if t.group = 0 then 0 else
    match Tbl.find (t.core * 16 + t.group) s.groups with
    | some g => g.sum
    | none => 0

/-- The logical count (R302). -/
def State.logical (s : State) (t : Tally) : Nat := (t.count + s.reckonSum t) % 2 ^ 32

/-- A wait for V on a logical count is met (R303). -/
def waitMet (logical v : Nat) : Bool := decide ((logical + 2 ^ 32 - v % 2 ^ 32) % 2 ^ 32 < 2 ^ 31)

/-- The command's wait is met: it waits on nothing, or its Tally has come to V (R89, R303); with CHAIN, COMPL of its connection has
come to WAIT_COUNT (R413). -/
def State.waitMet (s : State) (c : Cmd) : Bool :=
  if c.chain then
    match Tbl.find (c.fld 4 16 16) s.fld.conns with
    | some x => Machine.waitMet x.compl (c.fld 4 32 32)
    | none => false
  else if c.waitTally = 0xFFFF then true
  else match Tbl.find c.waitTally s.tallies with
    | some t => Machine.waitMet (s.logical t) c.waitV
    | none => false

/-- A Tally is bound to a core and a lodge. -/
def State.tallyOk (s : State) (core lodge t : Nat) : Bool :=
  match Tbl.find t s.tallies with
  | some x => x.core == core && x.lodge == lodge
  | none => false

/-- The Tallies a descriptor names, in the order of its fields (R304). -/
def Cmd.tallies (c : Cmd) : List Nat :=
  if c.hasSignals then (if c.waitTally = 0xFFFF then [] else [c.waitTally]) ++ c.sigs.map (·.1) else []

/-- A refusal for a Tally of another core or lodge (R304): counted, flagged and raised as an error event. -/
def State.tallyBlocked (s : State) (c : Cmd) (t : Nat) : State :=
  let holder := match Tbl.find t s.tallies with | some x => x.lodge | none => 0xF
  let s := (s.bump Reg.tlyBlockedCount).setBit Reg.tlyErrBits 0
  s.error 0x42 c.lodge 0xFF (c.core + c.lodge * 2 ^ 8 + t % 2 ^ 16 * 2 ^ 16 + holder * 2 ^ 32 + c.tag * 2 ^ 48) 0

/-- One signal applied (R303, R309): the state, and whether it overflowed the Tally. -/
def State.signal (s : State) (t amount : Nat) : State × Bool :=
  match Tbl.find t s.tallies with
  | none => (s, false)
  | some x =>
    if x.ovf then (s.bump Reg.tlyOvfCount, false)
    else if x.count + amount ≥ 2 ^ 31 then
      let s := { s with tallies := Tbl.put t { x with count := 2 ^ 31, ovf := true, last := s.now } s.tallies }
      ((s.bump Reg.tlyOvfCount).setBit Reg.tlyErrBits 1, true)
    else ({ s with tallies := Tbl.put t { x with count := x.count + amount, last := s.now } s.tallies }, false)

/-- SIG0 to SIG3 applied in order (R83 step 4): the state, and whether one overflowed. -/
def State.signals (s : State) : List (Nat × Nat) → State × Bool
  | [] => (s, false)
  | (t, a) :: r =>
    let x := s.signal t a
    let y := x.1.signals r
    (y.1, x.2 || y.2)

end Sys2Proof.Machine
end

