-- ==== Sys2Proof/Machine/Slots.lean ====
section
/-!
DEFINITION. The slots of a core: the candidate a free place takes (R285), pre-emption (R286, R287), decoding with its checks in
order (R88, R304, R333), kills (R90, R91) and the way from RUN to the commit point (R81, R83).
-/

namespace Sys2Proof.Machine

/-! ## Choosing a command -/

/-- Every earlier descriptor of the ring has its record (R85 ORDERED, R174). -/
def State.orderedFree (s : State) (c : Cmd) : Bool := c.sched || !((s.ring c.ring).live.any (· < c.seq))

/-- Two commands come from one ring (or one step scheduler). -/
def Cmd.sameRing (a b : Cmd) : Bool := if a.sched || b.sched then a.sched && b.sched && a.slot == b.slot else a.ring == b.ring

/-- The oldest queued command of each ring for one kind of slot, in queue order (R285), behind no TALLY command of its ring, which
executes in ring order with the ring's other commands there (R316). -/
def oldestPerRing (kind : Nat) : List Cmd → List Cmd → List Cmd
  | _, [] => []
  | seen, c :: r =>
    if slotKind c.klass = some kind ∧ !(seen.any c.sameRing) then c :: oldestPerRing kind (c :: seen) r
    else oldestPerRing kind (if c.klass = 5 then c :: seen else seen) r

/-- The lodges a core accepts (R96). -/
def State.inMask (s : State) (c lodge : Nat) : Bool := bitAt lodge (s.rd Reg.cmpCtrlLodgeMask c)

/-- The candidates for a kind of slot of a core (R285). -/
def State.candidates (s : State) (c kind : Nat) : List Cmd :=
  (oldestPerRing kind [] (s.core c).queue).filter fun x =>
    s.active x.lodge && s.inMask c x.lodge && (!x.ordered || s.orderedFree x) &&
    decide (s.running kind x.lodge < s.rd Reg.lodCfgCoreMax x.lodge)

/-- The ring index the arbiter sees: rings first, step schedulers after them by slot. -/
def Cmd.ringIndex (c : Cmd) : Nat := if c.sched then 256 + c.slot else c.ring

/-- R285: minimum first, then class, then lodges by weight, then rings in turn. The core with its arbiters moved on, and the
choice. -/
def State.choose (s : State) (c kind : Nat) : Core × Option Cmd :=
  let k := s.core c
  let cands := s.candidates c kind
  let tier1 := cands.filter fun x => decide (s.running kind x.lodge < s.rd Reg.lodCfgCoreMin x.lodge)
  let pool := if tier1 = [] then cands else tier1
  let top := (pool.map (·.cls)).foldl max 0
  let best := pool.filter (·.cls == top)
  let (cur, w) := wrrGrant k.lodgeCur (kind * 16) (fun l => s.rd Reg.lodCfgWeight l) (sortDedup (best.map (·.lodge)))
  match w with
  | none => (k, none)
  | some l =>
    let mine := best.filter (·.lodge == l)
    let pk := kind * 16 + l
    match rrPick (Tbl.get 0 pk k.ringPtr) (sortDedup (mine.map (·.ringIndex))) with
    | none => (k, none)
    | some r =>
      ({ k with lodgeCur := cur, ringPtr := Tbl.set 0 pk (r + 1) k.ringPtr }, mine.find? (·.ringIndex == r))

/-- Take the first occurrence of a command out of a queue. -/
def dequeue (x : Cmd) : List Cmd → List Cmd
  | [] => []
  | c :: r => if c = x then r else c :: dequeue x r

/-- The lowest free place of a kind. -/
def Core.freePlace (k : Core) (kind : Nat) : Option Nat :=
  (placesOf kind).find? fun p => (Tbl.find p k.places).isNone

/-- A command enters DECODE in a place (R89), its wait recorded (R294); a clock-gated core is ungated (R465). In the compute slot it starts on
registers of +0 with rows of N lanes (R501). -/
def State.enter (s : State) (c p : Nat) (k : Core) (x : Cmd) : State :=
  let k := { k with queue := dequeue x k.queue, places := Tbl.put p (Job.fresh x s.now) k.places,
                    lodge := if p = 0 then x.lodge else k.lodge, vec := if p = 0 then VecUnit.fresh (x.fld 2 32 32) 0 else k.vec }
  let s : State := { s with pwr := { s.pwr with gated := s.pwr.gated.filter (· != c) } }
  (s.setCore c k).recordWait x.lodge x.clients (s.now - x.arrived)

/-- At stage 3 a core takes commands once its self-test has ended (R459). -/
def State.coreReady (s : State) (c : Nat) : Bool := s.stage != 3 || s.pwr.tested.contains c

/-- A free place of a kind takes its candidate, while the core is enabled (R285, R96). -/
def State.fillKind (s : State) (c kind : Nat) : State :=
  if s.on Reg.cmpCtrlEnable c && s.coreReady c then
    match (s.core c).freePlace kind with
    | none => s
    | some p =>
      let (k, x) := s.choose c kind
      match x with
      | none => s
      | some x => s.enter c p k x
  else s

/-- The command a candidate could displace: the compute slot's, or in the near-bank slot the lowest class, latest decoded
(R286). A Wain slot is never pre-empted. -/
def State.victim (s : State) (c kind : Nat) : Option (Nat × Job) :=
  if kind = 0 then (s.job c 0).map fun j => (0, j)
  else if kind = 1 then
    ((placesOf 1).filterMap fun p => (s.job c p).map fun j => (p, j)).foldl (fun (b : Option (Nat × Job)) x =>
      match b with
      | none => some x
      | some y =>
        if x.2.cmd.cls < y.2.cmd.cls ∨ (x.2.cmd.cls = y.2.cmd.cls ∧ y.2.decoded ≤ x.2.decoded) then some x else some y) none
  else none

/-- The conditions of R286 for candidate `x` and victim `v`. -/
def State.mayPreempt (s : State) (kind : Nat) (x : Cmd) (v : Job) : Bool :=
  let run := s.running kind
  let minOf (l : Nat) := s.rd Reg.lodCfgCoreMin l
  s.on Reg.lodSchedPreemptEn && v.st != .kill && decide (v.cmd.kills < s.rd Reg.lodSchedKillLimit) &&
  decide (run x.lodge < s.rd Reg.lodCfgCoreMax x.lodge) &&
  ((decide (run x.lodge < minOf x.lodge) && decide (minOf v.cmd.lodge < run v.cmd.lodge)) ||
   (decide (v.cmd.cls < x.cls) && (v.cmd.lodge == x.lodge || decide (minOf v.cmd.lodge < run v.cmd.lodge))))

/-- A kill for pre-emption takes effect (R287, R90): counted against the lodge and its clients. -/
def State.preempt (s : State) (c p : Nat) (v : Job) : State :=
  let s := s.setJob c p ({ v with cmd := { v.cmd with kills := v.cmd.kills + 1 } }.toKill true false 0)
  let s := ((s.modCore c fun k => k.dropShadows v.cmd).count Reg.cmpKillCntCount 1 c).count Reg.lodPreemptCount 1 v.cmd.lodge
  v.cmd.clients.foldl (fun s cl => s.clientEvent v.cmd.lodge cl fun k => { k with preempt := (k.preempt + 1) % 2 ^ 64 }) s

/-- With no place free, the candidate of R285 may displace a command (R286). -/
def State.tryPreempt (s : State) (c kind : Nat) : State :=
  if s.on Reg.cmpCtrlEnable c && ((s.core c).freePlace kind).isNone then
    match (s.choose c kind).2, s.victim c kind with
    | some x, some (p, v) => if s.mayPreempt kind x v then s.preempt c p v else s
    | _, _ => s
  else s

/-- Fill every free place of a core, one choice after another. -/
def State.fillAll (s : State) (c : Nat) : Nat → State
  | 0 => s
  | n + 1 => (((s.fillKind c 0).fillKind c 1).fillKind c 2).fillAll c n

/-- The slot choice of R285 with the pre-emption of R286. -/
def State.slotChoice (s : State) (c : Nat) : State := ((s.fillAll c 8).tryPreempt c 0).tryPreempt c 1

/-! ## The end of a command -/

/-- A slot's step loses a command to quarantine: the step is abandoned and the slot held (R440). -/
def State.holdSlot (s : State) (slot : Nat) : State :=
  let kill (j : Job) : Job := if j.cmd.sched && j.cmd.slot == slot then j.toKill false false 0 else j
  let clean (k : Core) : Core :=
    { k with queue := k.queue.filter (fun x => !(x.sched && x.slot == slot)),
             places := k.places.map (fun p => (p.1, kill p.2)) }
  { s with cores := s.cores.map (fun e => (e.1, clean e.2)), ldg := { s.ldg with slots := Tbl.adjust slot Slot.abandon s.ldg.slots },
           hlt := { s.hlt with held := sortDedup (slot :: s.hlt.held) } }

/-- The fault SOURCE of a place (R299). -/
def sourceOf (place : Nat) : Nat := kindOf place

/-- The statuses that end a command as an execution fault of its lodge context (R88, R169, R197, R315). -/
def isFault (status : Nat) : Bool :=
  [St.addrFault, St.memUncorr, St.cmdTimeout, St.trayLost, St.spinTimeout].contains status

/-- Release what a job holds in the device: its completion reservation. -/
def State.releaseJob (s : State) (j : Job) : State :=
  if j.reserved && !j.cmd.sched then s.unreserve (s.cqOf j.cmd.ring) else s

/-- The record of a job that ends (R333): in the entry reserved for it, or, where FLR took the reservation away and the ring has been
enabled again (R323), in the next one that is free. A failed check at decode has found its room before. -/
def State.record (s : State) (j : Job) (status result : Nat) : State :=
  if j.reserved || j.st == .decode then s.finish j.cmd j.cmd.core status j.flags result
  else s.completeWith j.cmd j.cmd.core status j.flags result

/-- The ranges a command reads by its descriptor, where an uncorrectable error may stand (R41, R90, R192): the operand entries in lodge
memory, the table and the program, the sources of a MEMORY command and of a SPAN or FIELD command. -/
def State.namedReads (s : State) (x : Cmd) : List (Nat × Nat) :=
  if x.klass = 2 ∨ (x.klass = 3 ∧ 0x20 ≤ x.op) then
    let n := x.fld 3 44 5
    let entries := (natsFrom 0 n).filterMap fun e =>
      let a := x.w 1 + 32 * e
      if s.peekNat x.lodge (a + 8) 8 / 2 ^ 4 % 2 ^ 4 = 0 then some (s.peekNat x.lodge a 8, s.peekNat x.lodge (a + 24) 4) else none
    (x.w 1, 32 * n) :: ((if x.klass = 2 then [(x.w 7, 8 * x.fld 4 0 16)] else []) ++ entries)
  else if x.klass = 3 ∧ (x.op = 0x11 ∨ x.op = 0x12) then [(x.w 2, x.fld 3 0 40), (x.w 7, x.fld 3 0 40)]
  else if x.klass = 4 ∧ x.op = 1 then [(x.w 1, x.fld 7 0 40)]
  else if x.klass = 6 ∧ x.op = 1 then [(x.w 1, x.fld 7 0 40)]
  else if x.klass = 6 ∨ x.klass = 7 then [(x.w 3, max 64 (x.fld 7 0 40)), (x.w 1, 8)]
  else []

/-- DIRECT bytes that a command had written when it ended without a commit are undefined (R84). -/
def State.spoil (s : State) (j : Job) : State :=
  if j.st = .run ∨ j.st = .kill then j.direct.foldl (fun (s : State) w => s.scramble j.cmd.lodge w.1 w.2.length) s else s

/-- A WAIN_MOVE in persona 0 has ended: step 4 of repair admission (R446; DESIGN CHOICE, log 69). -/
def State.repairMove (s : State) (x : Cmd) (ok : Bool) : State :=
  if x.klass = 4 ∧ x.op = 1 ∧ s.rd Reg.lodPersonaPersona = 0 then s.trace 0x82 x.lodge 0xFF (4 + if ok then 2 ^ 8 else 0) 0 else s

/-- A command ends without a commit, with a record (R84); a fault of the table of R88 faults its lodge context. -/
def State.closeJob (s : State) (c p : Nat) (j : Job) (status : Nat) : State :=
  let s := ((((s.spoil j).dropJob c p).releaseJob j).repairMove j.cmd false).record j status 0
  let s := if status = St.coreQuarantined ∧ j.cmd.sched then s.holdSlot j.cmd.slot else s
  if isFault status then
    s.faultLodge j.cmd.lodge status (sourceOf p) j.cmd.core (if j.cmd.sched then 0xFF else j.cmd.ring) j.cmd.tag
  else s

/-- What a command of this device that meets uncorrectable data raises: poison in lodge memory as R169 says; with none there, the error
stands in the core store (R88) and sets MEM_UNCORR of CMP_ERR (R96). -/
def State.cmdUncorr (s : State) (c : Nat) (x : Cmd) : State :=
  if (s.namedReads x).any fun r => s.poisoned x.lodge r.1 r.2 then s.seeUncorr x.lodge (s.namedReads x)
  else if s.csBad.any fun u => u / 2 ^ 15 == c then s.setBit Reg.cmpErrBits 1 c
  else s.seeUncorr x.lodge (s.namedReads x)

/-- As `closeJob`, for a command that ends on this device's own account: a read of uncorrectable data is also raised (R169, R96). -/
def State.endJob (s : State) (c p : Nat) (j : Job) (status : Nat) : State :=
  (if status = St.memUncorr then s.cmdUncorr c j.cmd else s).closeJob c p j status

/-- A failed check at decode ends the command once its record has room; until then it stays in DECODE (R88, R333). -/
def State.failDecode (s : State) (c p : Nat) (j : Job) (status : Nat) : State :=
  if j.cmd.sched || j.reserved || s.hasRoom (s.cqOf j.cmd.ring) 1 || !s.cqLive (s.cqOf j.cmd.ring) then s.endJob c p j status
  else if j.stalled then s.setJob c p { j with status := status }
  else (s.setJob c p { j with status := status, stalled := true }).bump Reg.hifCqStallCount

/-- How a class lays out its descriptor and what it checks, in the order of R88. -/
structure Checks where
  /-- a check that comes before every other; 0 passes -/
  first : Nat
  /-- a reserved field or flag is nonzero -/
  reserved : Bool
  /-- a field exceeds its width used -/
  range : Bool
  /-- checks between OUT_OF_RANGE and the Tally check; 0 passes -/
  mid : Nat
  /-- every later check in order; the first failing status, 0 for none -/
  rest : Nat
  deriving DecidableEq, Repr

/-- The first failing status of R88, Tally numbers of more than 13 bits among those out of range (R45, R46), with the Tally check of R304 after
OUT_OF_RANGE; 0 when every check passes. -/
def State.verdict (s : State) (x : Cmd) (k : Checks) : Nat :=
  if k.first ≠ 0 then k.first
  else if x.version ≠ 1 then St.badVersion
  else if k.reserved then St.badReserved
  else if k.range || decide (x.core ≥ 160) || x.tallies.any (fun t => decide (8192 ≤ t)) then St.outOfRange
  else if k.mid ≠ 0 then k.mid
  else if x.tallies.any fun t => !s.tallyOk x.core x.lodge t then St.tallyDenied
  else k.rest

/-- The first named Tally that is not the command's own (R304). -/
def State.deniedTally (s : State) (x : Cmd) : Nat := (x.tallies.find? fun t => !s.tallyOk x.core x.lodge t).getD 0

/-- Decode ends with a status: refusals for a Tally are counted and raised (R304). -/
def State.refuse (s : State) (c p : Nat) (j : Job) (status : Nat) : State :=
  let s := if status = St.tallyDenied && !j.stalled then s.tallyBlocked j.cmd (s.deniedTally j.cmd) else s
  let s := if status = St.badProg && !j.stalled then s.setBit Reg.cmpErrBits 2 c else s
  s.failDecode c p j status

/-- One step of the shadow LFSR (R93). -/
def lfsrStep (x : Nat) : Nat := if x % 2 = 1 then (x / 2) ^^^ 0x80200003 else x / 2

/-- The tile commands of a command step the LFSR one by one; a selected one is shadowed unless the partner is quarantined
(R93, R94). -/
def State.stepShadow (s : State) (c : Nat) (j : Job) (all : Bool) (m n : Nat) : Nat → Nat → State
  | 0, _ => s
  | k + 1, i =>
    let x := lfsrStep (Tbl.get (c + 1) c s.lfsrs)
    let s := { s with lfsrs := Tbl.set (c + 1) c x s.lfsrs }
    let s :=
      if all || x % 2 ^ s.rd Reg.cmpShadowCfgRateLog2 c == 0 then
        if (s.core ((c + 40) % 160)).quarantined then s.bump Reg.cmpShadowSkipCount 1 c
        else s.modCore c fun q => { q with shadows := q.shadows ++
          [⟨Config.tileOf j.cmd.op m n i, j.cmd.tag, j.cmd.lodge, j.cmd.ring, j.cmd.seq⟩] }
      else s
    s.stepShadow c j all m n k (i + 1)

/-- A compute command begins (R75, R93): after another lodge's command every scratchpad word of the core's eight tiles is zeroed first; after
one of its own lodge, killed or not, the scratchpads keep what that one left. -/
def State.beginCompute (s : State) (c : Nat) (j : Job) : State :=
  let k := s.core c
  let s := s.setCore c { k with spLodge := some j.cmd.lodge }
  let s : State := { s with pad := if k.spLodge = some j.cmd.lodge then s.pad else s.pad.zero c }
  if s.on Reg.cmpShadowCfgEnable c && j.cmd.klass == 2 && j.cmd.op != 5 then
    let m := j.cmd.fld 2 0 32
    let n := j.cmd.fld 2 32 32
    s.stepShadow c j (bitAt 18 (j.cmd.w 0)) m n (Config.tileCommands j.cmd.op m n) 0
  else s

/-- The accesses of a compute command to the scratchpads of its core's tiles, one tile after another: which accesses a command makes there is
the decoder's own mapping (R16, R76), so they are free values; the banks serve them as R72 to R74 say. -/
def State.leaveScratch (s : State) (c : Nat) : State :=
  { s with pad := (natsFrom 0 8).foldl (fun (p : Pad) t => p.traffic c t (padTraffic s.free t)) s.pad }.useFree 1

/-- The last write is issued: DIRECT ranges are undefined until the commit point (R81, R82), state FENCE. -/
def State.toFence (s : State) (c p : Nat) (j : Job) : State :=
  let s := j.direct.foldl (fun s w => s.scramble j.cmd.lodge w.1 w.2.length) s
  s.setJob c p { j with st := .fence, since := s.now }

/-- Run a command whose checks have passed: reservation (R333), then WAIT or RUN (R89). -/
def State.admitJob (s : State) (c p : Nat) (j : Job) (run : State → Job → State) : State :=
  if j.reserved || j.cmd.sched || s.hasRoom (s.cqOf j.cmd.ring) 1 then
    let s := if j.reserved || j.cmd.sched then s else s.reserve (s.cqOf j.cmd.ring)
    let j := { j with reserved := true }
    if s.waitMet j.cmd then run s { j with st := .run, since := s.now }
    else s.setJob c p { j with st := .wait, since := s.now }
  else if j.stalled then s
  else (s.setJob c p { j with stalled := true }).bump Reg.hifCqStallCount

/-- One occurrence of a slot command's row: in DECODE its checks and what follows them, in RUN (after a wait) its work. -/
def State.runSlot (s : State) (c p klass op : Nat) (checks : State → Cmd → Checks) (run : State → Job → State) : State :=
  match s.job c p with
  | none => s
  | some j =>
    if j.cmd.klass = klass ∧ j.cmd.op = op then
      match j.st with
      | .decode =>
        if j.status ≠ 0 then s.failDecode c p j j.status
        else
          let v := s.verdict j.cmd (checks s j.cmd)
          if v ≠ 0 then s.refuse c p j v else s.admitJob c p j run
      | .run => if j.waiting = [] ∧ j.status = 0 then run s j else s
      | _ => s
    else s

/-! ## The commit point -/

/-- No earlier command of the same ring is left at the core (R69, R104). -/
def Core.inOrder (k : Core) (x : Cmd) (p : Nat) : Bool :=
  !(k.queue.any fun y => y.sameRing x && decide (y.seq < x.seq)) &&
  !(k.places.any fun e => e.1 != p && e.2.cmd.sameRing x && decide (e.2.cmd.seq < x.seq))

/-- Staged pages replace their logical pages in one step; the replaced pages return to the reserve (R83 step 3). -/
def State.publishStaged (s : State) (c lodge : Nat) : List (Nat × List Byte) → State
  | [] => s
  | (lp, bs) :: r =>
    match (s.core c).freePages.head? with
    | none => s.publishStaged c lodge r
    | some pp =>
      let s := { s with coreStore := Tbl.setRun 0 (csKey c pp 0) bs s.coreStore, csBad := s.csBad.filter fun u => u / 64 != csKey c pp 0 / 4096 }
      (s.modCore c fun k => { k with pageMap := Tbl.put (lodge * 512 + lp) pp k.pageMap }).publishStaged c lodge r

/-- The part of a range that lies in mapped pages, as runs of one page each. -/
def State.pokeMapped (s : State) (lodge addr : Nat) (bs : List Byte) : State :=
  (pagesOf addr bs.length).foldl (fun s p =>
    if (Tbl.find (pageKey lodge p) s.mem.pages).isSome then
      let lo := max addr (p * 2 ^ 21)
      let hi := min (addr + bs.length) ((p + 1) * 2 ^ 21)
      s.pokeRaw lodge lo ((bs.drop (lo - addr)).take (hi - lo))
    else s) s

/-- DIRECT outputs become visible (R83 step 2); a write to a page unmapped meanwhile went to its old frame (R174). -/
def State.publishDirect (s : State) (lodge : Nat) : List (Nat × List Byte) → State
  | [] => s
  | (a, bs) :: r => (s.pokeMapped lodge a bs).publishDirect lodge r

/-- COMPL of a connection counts its committed FLD_WRITE and FLD_READ commands (R413). -/
def State.countCompl (s : State) (x : Cmd) : State :=
  if x.klass = 7 ∧ (x.op = 4 ∨ x.op = 5) then
    { s with fld := { s.fld with conns := Tbl.adjust (x.fld 2 0 16) (fun c => { c with compl := (c.compl + 1) % 2 ^ 32 }) s.fld.conns } }
  else s

/-- Steps 2 to 5 of R83 for a job at its commit point: outputs, page map, signals, record; then a Tally overflow faults the
lodge context (R309), the command keeping its commit. -/
def State.commitJob (s : State) (c p : Nat) (j : Job) : State :=
  let s := (s.publishDirect j.cmd.lodge j.direct).publishStaged c j.cmd.lodge j.staged
  let s := (s.dropJob c p).count Reg.cmpCommitCntCount 1 c
  let x := if j.cmd.hasSignals then s.signals j.cmd.sigs else (s, false)
  let s := (((x.1.countCompl j.cmd).repairMove j.cmd true).releaseJob j).record j St.ok j.result
  if x.2 then
    s.faultLodge j.cmd.lodge St.tallyOverflow (sourceOf p) j.cmd.core (if j.cmd.sched then 0xFF else j.cmd.ring) j.cmd.tag
  else s

/-- A kill ends (R90): the place is free; a pre-empted command returns to the head of its ring's queue there (R287), another
one writes the record R84 gives it. -/
def State.endKill (s : State) (c p : Nat) (j : Job) : State :=
  let s := ((s.spoil j).dropJob c p).releaseJob j
  if j.rerun then
    let x := { j.cmd with arrived := s.now }
    s.modCore c fun k => { k with queue := x :: k.queue }
  else if j.record then
    let s := s.record j j.status 0
    if isFault j.status then
      s.faultLodge j.cmd.lodge j.status (sourceOf p) j.cmd.core (if j.cmd.sched then 0xFF else j.cmd.ring) j.cmd.tag
    else s
  else s.unlive j.cmd

/-! ## Near-bank work under way (R100, R105, R106, R124, R126) -/

/-- Ranges that a buffer of a near-bank command takes up: its bytes and the scale array of the rows it can hold (R87). -/
def OpEnt.nearRanges (x : Cmd) (gathered : Bool) (e : OpEnt) : List (Nat × Nat) :=
  let k := if x.op = 0x21 then x.fld 2 32 32 else x.fld 3 0 32
  let rows :=
    if e.role = 1 ∧ x.op = 0x20 then x.fld 2 32 32
    else if e.role = 6 then 1
    else if e.role = 0 ∧ gathered then (if e.stride = 0 then 1 else ceilDiv e.len e.stride)
    else x.fld 2 0 32
  (e.addr, e.len) :: (if e.scale = 0 ∨ rows = 0 then [] else [(e.scale, (rows - 1) * e.sstride + ceilDiv k 32)])

/-- Ranges of the buffers of a near-bank command. -/
def Cmd.bufferRanges (x : Cmd) (t : List OpEnt) : List (Nat × Nat) := t.flatMap (OpEnt.nearRanges x (t.any (·.role == 4)))

/-- Byte ranges a command 0x10 to 0x13 reads; a REDUCE reads its rows and not what lies between them (R192, R193). -/
def Cmd.mReads (c : Cmd) : List (Nat × Nat) :=
  if c.op = 0x11 then [(c.w 2, c.fld 3 0 40)]
  else if c.op = 0x12 then [(c.w 2, c.fld 3 0 40), (c.w 7, c.fld 3 0 40)]
  else if c.op = 0x13 then
    (natsFrom 0 (c.fld 3 24 24)).map fun r => (c.w 2 + r * c.fld 7 0 32, c.fld 3 0 24 * (if c.fld 3 48 4 = 0 then 4 else 2))
  else []

/-- The range it writes (R193). -/
def Cmd.mWrite (c : Cmd) : Nat × Nat :=
  (c.w 1, if c.op = 0x12 then 8
    else if c.op = 0x13 then (if c.fld 3 56 1 = 0 then c.fld 3 0 24 else c.fld 3 24 24) * (if c.fld 3 52 4 = 0 then 4 else 2)
    else c.fld 3 0 40)

/-- A command of the near-bank units at work: near-bank and near-memory commands (R102, R192). -/
def Job.nearWork (j : Job) : Bool := j.cmd.klass == 3 && decide (0x10 ≤ j.cmd.op) && decide (j.cmd.op < 0x30) && j.st == .run

/-- A range has a byte in a channel: byte o of a page lies in channel (o div 1,024) mod 64 (R100). -/
def touchesChannel (a n ch : Nat) : Bool :=
  n != 0 && decide ((ch + 64 - a / 1024 % 64) % 64 ≤ (a + n - 1) / 1024 - a / 1024)

/-- The job works in a channel of a stack: the pages it pins there, a row program in every channel. -/
def State.occupies (s : State) (j : Job) (st ch : Nat) : Bool :=
  let rs := if j.cmd.op < 0x20 then j.cmd.mWrite :: j.cmd.mReads else j.cmd.bufferRanges j.optab
  j.nearWork && j.pins.any fun k => s.stacksOf [k] == [st] &&
    (j.cmd.op == 0x28 || rs.any fun r =>
      let lo := max r.1 (k % 2 ^ 27 * 2 ^ 21)
      let hi := min (r.1 + r.2) ((k % 2 ^ 27 + 1) * 2 ^ 21)
      touchesChannel lo (hi - lo) ch)

/-- A stack has near-bank work (R133 ACTIVE). -/
def State.stackWork (s : State) (st : Nat) : Bool := s.jobs.any fun j => j.2.2.nearWork && (s.stacksOf j.2.2.pins).contains st

/-- It has such work and is not suspended for temperature (R126). -/
def State.stackBusy (s : State) (st : Nat) : Bool := !bitAt st (s.rd Reg.nbuStatusSuspended) && s.stackWork st

/-- Near-bank work occupies a channel (R124). -/
def State.channelBusy (s : State) (st ch : Nat) : Bool :=
  !bitAt st (s.rd Reg.nbuStatusSuspended) && s.jobs.any fun j => s.occupies j.2.2 st ch

/-- Where no near-bank row step is pending in a channel its debt is paid at once (R124). -/
def State.payDebt (s : State) : State := { s with debt := s.debt.filter fun e => s.channelBusy (e.1 / 64) (e.1 % 64) }

/-! ## What follows every event that frees a place, lifts a hold or queues a command -/

/-- The opcodes of a class (R86, R103, R194, R253, R268, R316, R379, R422). -/
def knownOp (klass op : Nat) : Bool :=
  if klass = 2 ∨ klass = 5 ∨ klass = 7 then decide (1 ≤ op) && decide (op ≤ 5)
  else if klass = 3 then [0x01, 0x02, 0x03, 0x04, 0x05, 0x10, 0x11, 0x12, 0x13, 0x20, 0x21, 0x22, 0x28, 0x30, 0x31, 0x32].contains op
  else if klass = 4 then op == 1 || op == 2
  else if klass = 6 then decide (1 ≤ op) && decide (op ≤ 7)
  else decide (1 ≤ op) && decide (op ≤ 3)

/-- A class whose units are not ready refuses every descriptor before any other check, one with a reserved opcode too: near-bank commands, the
attention commands among them (R132, R160), WAIN (R255), SPAN (R394), FIELD (R424), EMBED (R270). -/
def State.classNotReady (s : State) (x : Cmd) : Bool :=
  (x.klass == 3 && decide (0x20 ≤ x.op) && decide (x.op < 0x40) && decide (s.stage < 4)) ||
  (x.klass == 4 && !s.on Reg.wanCtrlEnable) ||
  (x.klass == 6 && (s.rd Reg.spnIdDevice == 0xFFFFFF || !s.on Reg.spnCtrlEnable || decide (s.stage < 2))) ||
  (x.klass == 7 && (decide (s.stage < 2) || !s.on Reg.fldCtrlEnable || !((natsFrom 0 4).any fun p => s.rd Reg.lnkCtrlMode (4 + p) == 1))) ||
  (x.klass == 8 && !s.on Reg.embCtrlEnable)

/-- The width check of the fields that a class lays out alike for every opcode: M, N and K of R85 and of R130. -/
def Cmd.classRange (x : Cmd) : Bool :=
  (x.klass == 2 || (x.klass == 3 && decide (0x20 ≤ x.op) && decide (x.op < 0x40))) &&
    (decide (x.fld 2 0 32 ≥ 2 ^ 24) || decide (x.fld 2 32 32 ≥ 2 ^ 24) || decide (x.fld 3 0 32 ≥ 2 ^ 24))

/-- The decoder refuses a reserved opcode: what comes before it are readiness and the widths of fields that need no opcode; of reserved
values only word 0 bits [15:0] are checked (R335, R88, R304). -/
def State.badOp (s : State) (c p : Nat) : State :=
  match s.job c p with
  | none => s
  | some j =>
    if j.st = .decode ∧ j.status = 0 ∧ !knownOp j.cmd.klass j.cmd.op then
      s.refuse c p j (s.verdict j.cmd ⟨if s.classNotReady j.cmd then St.notReady else St.ok, false, j.cmd.classRange, 0, St.badOpcode⟩)
    else s

/-- A TALLY command with a reserved opcode whose turn has come (R316, R335), while the core is enabled (R96). -/
def State.badTally (s : State) (c : Nat) : State :=
  match (s.core c).queue.find? fun x => s.on Reg.cmpCtrlEnable c && x.klass == 5 && !knownOp 5 x.op && (s.core c).inOrder x 99 && s.active x.lodge &&
      (!x.ordered || s.orderedFree x) with
  | none => s
  | some x =>
    if x.sched || s.hasRoom (s.cqOf x.ring) 1 then
      (s.modCore c fun k => { k with queue := dequeue x k.queue }).finish x x.core St.badOpcode 0 0
    else if x.done then s
    else (s.modCore c fun k => { k with queue := k.queue.map fun y => if y = x then { y with done := true } else y }).bump Reg.hifCqStallCount

/-- A command reaches its core: a lodge outside LODGE_MASK completes it, else it is queued (R96, R285). -/
def State.reachCore (s : State) (c : Nat) (x : Cmd) : State :=
  if s.inMask c x.lodge then s.modCore c fun k => { k with queue := k.queue ++ [{ x with arrived := s.now }] }
  else s.complete x x.core St.outOfRange 0

/-- The commands that count towards the 16 of a core's queue: those queued and those in the near-bank and Wain slots (R98, R103, R253, R316). -/
def Core.load (k : Core) : Nat := k.queue.length + (k.places.filter fun e => e.1 != 0).length

/-- Commands that wait for room at a core's queue: one held back by a ring, the next one of a step scheduler's stream. -/
def State.waitingCmds (s : State) : List Cmd := (s.hif.rings.filterMap fun e => e.2.hold) ++ s.ldg.slots.filterMap fun e => e.2.todo.head?

/-- Those that wait for one core. -/
def State.heldFor (s : State) (c : Nat) : List Cmd := s.waitingCmds.filter fun x => s.phys x.core == c

/-- A command that waited leaves its ring or its stream. -/
def State.unhold (s : State) (x : Cmd) : State :=
  if x.sched then s.modSlot x.slot fun q => { q with todo := q.todo.drop 1 } else s.modRing x.ring fun q => { q with hold := none }

/-- Room at a core's queue is granted once: lodges by weight, then rings in turn, step schedulers after them (R24, R25, R504). -/
def State.handOne (s : State) (c : Nat) : State :=
  let k := s.core c
  let xs := s.heldFor c
  let (cur, w) := wrrGrant k.holdCur 0 (fun l => s.rd Reg.lodCfgWeight l) (sortDedup (xs.map (·.lodge)))
  match w with
  | none => s
  | some l =>
    let mine := xs.filter (·.lodge == l)
    match rrPick (Tbl.get 0 l k.holdPtr) (sortDedup (mine.map (·.ringIndex))) with
    | none => s
    | some r =>
      match mine.find? (·.ringIndex == r) with
      | none => s
      | some x => ((s.setCore c { k with holdCur := cur, holdPtr := Tbl.set 0 l (r + 1) k.holdPtr }).unhold x).reachCore c x

/-- The lowest core with room for which a command waits. -/
def State.readyCore (s : State) : Option Nat :=
  (sortDedup (s.waitingCmds.map fun x => s.phys x.core)).find? fun c => decide ((s.core c).load < 16)

/-- Commands that wait for room at a core's queue go there, one after another, where there is room (R98). -/
def State.handHeld (s : State) : Nat → State
  | 0 => s
  | n + 1 =>
    match s.readyCore with
    | some c => (s.handOne c).handHeld n
    | none => s

/-- One round of a core: its choice, and the refusal of reserved opcodes among the chosen. -/
def State.round (s : State) (c : Nat) : State :=
  let t := s.slotChoice c
  (((t.core c).places.map (·.1)).foldl (fun (s : State) p => s.badOp c p) t).badTally c

/-- A core chooses until nothing changes; a refusal frees its place again. -/
def State.rounds (s : State) (c : Nat) : Nat → State
  | 0 => s
  | n + 1 =>
    let t := s.round c
    if t.core c = s.core c then t else t.rounds c n

/-- Every core with queued commands chooses for its free places (R285). -/
def State.chooseAll (s : State) : State := (s.cores.filter fun e => !e.2.queue.isEmpty).foldl (fun (s : State) e => s.rounds e.1 17) s

/-- Commands held back and commands of streams that wait to be issued. -/
def State.waitingCount (s : State) : Nat :=
  (s.hif.rings.filter fun e => e.2.hold.isSome).length + (s.ldg.slots.map fun e => e.2.todo.length).foldl (· + ·) 0

/-- Waiting commands follow into the queues and the cores choose again, as long as a queue has room. -/
def State.feed (s : State) : Nat → State
  | 0 => s
  | n + 1 => if s.readyCore.isSome then ((s.handHeld s.waitingCount).chooseAll).feed n else s

/-- The cores choose; what waits for room follows; channels that near-bank work has left pay their refresh debt (R124). -/
def State.choices (s : State) : State :=
  let s := s.chooseAll
  (s.feed s.waitingCount).payDebt

end Sys2Proof.Machine
end

