-- ==== Sys2Proof/Machine/SpanOps.lean ====
section
/-!
DEFINITION. Messages between members (R161, R347, R373, R374, R378), requests that wait for answers (R379), the home directory
and the invalidation of copies (R187, R190, R191), the span cache and replicas (R381 to R385).
-/

namespace Sys2Proof

/-- Word 0 of a message: MSG, VERSION 1, SRC_DEV, TENANT. -/
def Msg.word0 (m : Msg) : Nat := (m.kind + 2 ^ 8) % 2 ^ 16 + m.src * 2 ^ 16 + m.tenant * 2 ^ 40

/-- A message as bytes: eight words, then the body padded to a multiple of 8. -/
def Msg.bytes (m : Msg) : List Byte :=
  leBytes 8 m.word0 ++ (natsFrom 1 7).flatMap (fun i => leBytes 8 (m.word i)) ++ m.body ++
    List.replicate (ceilDiv m.body.length 8 * 8 - m.body.length) 0

/-- The message that bytes spell. -/
def Msg.ofBytes (bs : List Byte) : Msg :=
  let w (i : Nat) := leNat ((bs.drop (8 * i)).take 8)
  { kind := (bits 0 16 (w 0) + 2 ^ 16 - 2 ^ 8) % 2 ^ 16, src := bits 16 24 (w 0), tenant := bits 40 24 (w 0), w := (natsFrom 1 7).map w, body := bs.drop 64 }

/-- Little-endian number at byte `i` of a body. -/
def Msg.at_ (m : Msg) (i n : Nat) : Nat := leNat ((m.body.drop i).take n)

/-- Put the tag into word 1 of a request. -/
def Msg.tagged (m : Msg) (tag : Nat) : Msg :=
  { m with w := match m.w with | [] => [tag] | a :: r => (a / 2 ^ 32 * 2 ^ 32 + tag) :: r }

end Sys2Proof

namespace Sys2Proof.Machine

/-! ## Devices and routes (R370 to R374) -/

/-- This device's ID. -/
def State.self (s : State) : Nat := s.rd Reg.spnIdDevice
/-- The ID is assigned. -/
def State.assigned (s : State) : Bool := s.self != 0xFFFFFF
/-- Member index of a device. -/
def member (dev : Nat) : Nat := dev % 64
/-- Span number of a device. -/
def spanOf (dev : Nat) : Nat := dev / 64
/-- The device with a member index in this span. -/
def State.memberDev (s : State) (m : Nat) : Nat := spanOf s.self * 64 + m
/-- The members present, this device apart. -/
def State.others (s : State) : List Nat :=
  if s.assigned then ((natsFrom 0 64).filter fun m => bitAt m (s.rd Reg.spnMembersValue) && m != member s.self).map s.memberDev
  else []
/-- The device is isolated (R377). -/
def State.isolated (s : State) : Bool := s.on Reg.spnStatusIsolated

/-- Set bits of a mask, ascending. -/
def bitList (n x : Nat) : List Nat := (natsFrom 0 n).filter fun i => bitAt i x

/-- The port that messages of an origin take to a member (R373). -/
def State.routePort (s : State) (origin dst : Nat) : Option Nat :=
  let ps := bitList 8 (s.rd Reg.spnRoutePorts (member dst))
  if spanOf dst ≠ spanOf s.self ∨ ps = [] then none else some (ps.getD (origin % ps.length) 0)

/-- A far device can be reached (R371). -/
def State.reachable (s : State) (dst : Nat) : Bool :=
  dst == s.self || (spanOf dst == spanOf s.self && bitAt (member dst) (s.rd Reg.spnMembersValue) && (s.routePort 0 dst).isSome)

/-- The connection that messages to a device of another span take: the lodge's lowest READY one with that peer (R406). -/
def State.fieldConn (s : State) (lodge dst : Nat) : Option Nat :=
  (s.fld.conns.find? fun e => e.2.lodge == lodge && e.2.dev == dst && !e.2.error).map (·.1)

/-- A device of another span (R372). -/
def State.beyond (s : State) (dst : Nat) : Bool := dst != s.self && spanOf dst != spanOf s.self

/-- A command's message to a device beyond the span has no connection to take (R406). -/
def State.noRoute (s : State) (lodge dst : Nat) : Bool := s.beyond dst && (s.fieldConn lodge dst).isNone

/-- A message can be sent: in the span by its route, beyond it by a connection (R371, R406). -/
def State.reaches (s : State) (lodge dst : Nat) : Bool := s.reachable dst || (s.beyond dst && !s.noRoute lodge dst)

/-! ## Ports (R344 to R364) -/

/-- The link layer of port `n`. -/
def State.lport (s : State) (n : Nat) : LPort := Tbl.get LPort.reset n s.lnk.ports

/-- Change it. -/
def State.modLport (s : State) (n : Nat) (f : LPort → LPort) : State :=
  { s with lnk := { s.lnk with ports := Tbl.set LPort.reset n (f (s.lport n)) s.lnk.ports } }

/-- A flit's bytes go onwards: its port owes its peer one more credit (R356). -/
def LPort.free (p : LPort) (express : Bool) : LPort :=
  { p with freed := if express then (p.freed.1, p.freed.2 + 1) else (p.freed.1 + 1, p.freed.2) }

/-- A message that was held back is taken: the buffer of its last flit is free (R25, R356). -/
def State.unstick (s : State) (m : Msg) : State :=
  match s.lnk.stuck.find? fun x => x.1 == m with
  | none => s
  | some x => ({ s with lnk := { s.lnk with stuck := s.lnk.stuck.erase x } } : State).modLport x.2.1 fun p => p.free x.2.2

/-! ## Messages (R161, R395) -/

/-- Messages of bulk level (R348): the ones the spec calls bulk. -/
def bulkKind (k : Nat) : Bool := [0x2B, 0x30, 0x31, 0x40, 0x50, 0x51, 0x52, 0x62, 0x63, 0x66, 0x70, 0x71, 0x72, 0x73].contains (k % 2 ^ 8)

/-- The tenant that names a lodge's traffic: its lowest bound tenant (DESIGN CHOICE: the spec names none for commands). -/
def State.tenantFor (s : State) (l : Nat) : Nat :=
  match s.lod.tenants.find? fun e => e.2 == l with
  | some e => e.1
  | none => 0

/-- A message as it leaves on a port: wrapped when the port's peer is not its destination (R374). -/
def State.wrap (s : State) (dst port : Nat) (m : Msg) : Msg :=
  if s.rd Reg.lnkPeerDevice port = dst ∧ s.rd Reg.lnkPeerValid port = 1 then m
  else { kind := 0x60, src := s.self, tenant := m.tenant, w := [dst], body := m.bytes }

/-- A message of this kind and length goes at bulk level: express messages take at most 4 flits (R347). -/
def atBulk (kind : Nat) (w : Msg) : Bool := bulkKind kind || decide (4 < ceilDiv w.bytes.length 256)

/-- The egress entry of a message. -/
def State.sentOf (s : State) (origin lodge dst : Nat) (m : Msg) : Sent :=
  let p := s.routePort origin dst
  let w := match p with | some p => s.wrap dst p m | none => m
  ⟨dst, p, atBulk m.kind w, lodge, w⟩

/-- Queue a message on a connection (R406, R407); an ATT_REQ is counted as sent (R166). -/
def State.sendField (s : State) (k : Nat) (m : Msg) : State :=
  let s := if m.kind % 2 ^ 8 = 0x30 then s.count Reg.attReqOutCount else s
  let x : FItem := { kind := 5, core := 160, place := 15, cmd := none, addr := 0, local_ := 0, len := m.bytes.length, arr := none, psn := 0, next := 0, body := m.bytes, held := false }
  { s with fld := { s.fld with conns := Tbl.adjust k (fun c => { c with queue := c.queue ++ [x] }) s.fld.conns } }

/-- Queue a message at egress; beyond the span it takes a connection, or is lost where its lodge has none. -/
def State.send (s : State) (origin lodge dst : Nat) (m : Msg) : State :=
  if s.beyond dst then
    match s.fieldConn lodge dst with
    | some k => s.sendField k m
    | none => s
  else { s with sent := s.sent ++ [s.sentOf origin lodge dst m] }

/-- Queue a request of this device's own agents: held while ISOLATED (R378). -/
def State.sendReq (s : State) (origin lodge dst : Nat) (m : Msg) : State :=
  if s.isolated then { s with spn := { s.spn with held := s.spn.held ++ [s.sentOf origin lodge dst m] } }
  else s.send origin lodge dst m

/-- Answer a message. -/
def State.answer (s : State) (m : Msg) (kind : Nat) (w : List Nat) (body : List Byte) : State :=
  s.send 8 ((s.tenantLodge m.tenant).getD 16) m.src { kind := kind, src := s.self, tenant := m.tenant, w := w, body := body }

/-- SP_ACK with a status and, for an atomic, the old value. -/
def State.spAck (s : State) (m : Msg) (status old : Nat) : State :=
  s.answer m 0x64 [m.fld 1 0 32 + status * 2 ^ 32, old] []

/-- A message that expects an answer, built around its tag. -/
def mkMsg (kind src tenant : Nat) (w : List Nat) (body : List Byte) : Msg := ⟨kind, src, tenant, w, body⟩

/-! ## Requests and answers (R379) -/

/-- Requests outstanding on an engine. -/
def State.outstanding (s : State) (e : Nat) : Nat := (s.spn.out.filter fun p => p.2.engine == e).length

/-- The limit of an agent: 512 for a span engine (R379), 1,024 attention requests (R165) and 1,024 embedding
messages (R272) of the device, none otherwise. -/
def State.roomFor (s : State) (p : Pend) : Bool :=
  if p.engine < 8 then decide (s.outstanding p.engine < 512)
  else if p.kind = 9 then decide ((s.spn.out.filter fun q => q.2.kind == 9 && q.2.dst != s.self && q.2.reply.isNone).length < 1024)
  else if p.kind = 10 ∨ p.kind = 11 then
    decide ((s.spn.out.filter fun q => (q.2.kind == 10 || q.2.kind == 11) && q.2.dst != s.self && q.2.reply.isNone).length < 1024)
  else true

/-- A request takes the next tag and its place among those outstanding. -/
def State.putPend (s : State) (p : Pend) : State :=
  { s with spn := { s.spn with nextTag := (s.spn.nextTag + 1) % 2 ^ 32, out := Tbl.put s.spn.nextTag { p with msg := p.msg.tagged s.spn.nextTag } s.spn.out } }

/-- A tag is free again. -/
def State.delPend (s : State) (t : Nat) : State := { s with spn := { s.spn with out := Tbl.del t s.spn.out } }

/-- Send a request now: it takes the next tag. -/
def State.ask (s : State) (p : Pend) : State × Nat :=
  ((s.putPend p).sendReq p.engine p.lodge p.dst (p.msg.tagged s.spn.nextTag), s.spn.nextTag)

/-- Send a request that answers something at this home: never held (R378). -/
def State.tell (s : State) (p : Pend) : State × Nat :=
  ((s.putPend p).send 8 p.lodge p.dst (p.msg.tagged s.spn.nextTag), s.spn.nextTag)

/-- The command a request belongs to, while it still runs. -/
def State.owner (s : State) (p : Pend) : Option Job :=
  (s.job p.core p.place).bind fun j => if some j.cmd = p.cmd ∧ j.st = .run then some j else none

/-- Add a tag to what a command waits for. -/
def State.awaitTag (s : State) (core place tag : Nat) : State :=
  match s.job core place with
  | some j => s.setJob core place { j with waiting := j.waiting ++ [tag] }
  | none => s

/-- Send a request of a command, or queue it while its engine is full; each such wait is counted (R379). -/
def State.issue (s : State) (p : Pend) : State :=
  if s.roomFor p && !(s.spn.todo.any fun q => q.engine == p.engine && q.kind == p.kind) then
    let (s, t) := s.ask p
    s.awaitTag p.core p.place t
  else
    let s := { s with spn := { s.spn with todo := s.spn.todo ++ [p] } }
    if p.engine < 8 then s.bump Reg.spnStallCount else s

/-- Requests that waited and now have room go out in order. -/
def State.drainTodo (s : State) : Nat → State
  | 0 => s
  | n + 1 =>
    match s.spn.todo.find? s.roomFor with
    | none => s
    | some p =>
      let s := { s with spn := { s.spn with todo := s.spn.todo.erase p } }
      if p.cmd.isSome && (s.owner p).isNone then s.drainTodo n
      else
        let (s, t) := s.ask p
        (s.awaitTag p.core p.place t).drainTodo n

/-- A command still has requests that have not gone out. -/
def State.hasTodo (s : State) (core place : Nat) : Bool :=
  s.spn.todo.any fun p => p.core == core && p.place == place && (s.owner p).isSome

/-- A SPAN_COPY whose last chunk had to wait for room and has gone out reaches its commit point (R388). -/
def State.copyGone (s : State) (c p : Nat) : State :=
  match s.job c p with
  | some j =>
    if j.st = .run ∧ j.cmd.fld 2 0 24 ≠ s.self ∧ !s.hasTodo c p then
      s.toFence c p { j with waiting := [], result := ceilDiv (j.cmd.fld 7 0 40) 65536 }
    else s
  | none => s

/-- The same for every such command of the device. -/
def State.copiesGone (s : State) : State :=
  (s.jobs.filter fun j => j.2.2.cmd.klass == 6 && j.2.2.cmd.op == 4 && j.2.2.result == 2).foldl (fun (s : State) j => s.copyGone j.1 j.2.1) s

/-- A request is over: it leaves the table and its command's list, and the engine has room. -/
def State.closeTag (s : State) (t : Nat) : State :=
  match Tbl.find t s.spn.out with
  | none => s
  | some p =>
    let s := s.delPend t
    let s := match s.job p.core p.place with
      | some j => s.setJob p.core p.place { j with waiting := j.waiting.filter (· != t) }
      | none => s
    (s.drainTodo s.spn.todo.length).copiesGone

/-- The requests of the command in a place, in tag order. -/
def State.pendsOf (s : State) (c p : Nat) : List (Nat × Pend) :=
  s.spn.out.filter fun e => e.2.core == c && e.2.place == p && (s.owner e.2).isSome

/-- Keep an answer until the command has them all. -/
def State.keepReply (s : State) (t : Nat) (m : Msg) : State :=
  match Tbl.find t s.spn.out with
  | none => s
  | some p =>
    let s := { s with spn := { s.spn with out := Tbl.put t { p with reply := some m } s.spn.out } }
    let s := match s.job p.core p.place with
      | some j => s.setJob p.core p.place { j with waiting := j.waiting.filter (· != t) }
      | none => s
    s.drainTodo s.spn.todo.length

/-- Kept answers whose command is gone are dropped, and those of one place. -/
def State.dropReplies (s : State) (c p : Nat) : State :=
  { s with spn := { s.spn with out := s.spn.out.filter fun e =>
      !(e.2.reply.isSome && ((e.2.core == c && e.2.place == p) || (s.owner e.2).isNone)) } }

/-- Every request of the command in a place has its answer. -/
def State.allAnswered (s : State) (c p : Nat) : Bool :=
  match s.job c p with
  | some j => j.waiting == [] && !s.hasTodo c p
  | none => false

/-- End a command with a status; answers to its requests find no command any more. -/
def State.endFar (s : State) (c p : Nat) (status : Nat) : State :=
  match s.job c p with
  | some j => s.closeJob c p j status
  | none => s

/-- Statuses of another device that fault the lodge context (R43, R160, R390, R254). -/
def farFault (st : Nat) : Bool :=
  [St.notOwner, St.noLodge, St.poolMismatch, St.badPagelist, St.addrFault, St.memUncorr, St.trayLost, 0x63].contains st

/-- A command ends with a status of another device, which faults its lodge context where the list of its class says so. -/
def State.endFarFault (s : State) (c p status : Nat) (faults : Bool) : State :=
  match s.job c p with
  | none => s
  | some j =>
    let s := s.endFar c p status
    if faults && !isFault status then
      s.faultLodge j.cmd.lodge status 4 j.cmd.core (if j.cmd.sched then 0xFF else j.cmd.ring) j.cmd.tag
    else s

/-- A command whose request has timed out (R20, R390): SPAN_TIMEOUT, and the lodge context is orphaned. -/
def State.orphanCmd (s : State) (c p dst : Nat) : State :=
  match s.job c p with
  | none => s
  | some j =>
    let s := s.endFar c p St.spanTimeout
    s.orphanLodge j.cmd.lodge St.spanTimeout 4 j.cmd.core (if j.cmd.sched then 0xFF else j.cmd.ring) j.cmd.tag
      (s.tenantFor j.cmd.lodge) dst

/-! ## The home directory (R187, R190, R191) -/

/-- Entries of the directory. -/
def dirSize : Nat := 1048576

/-- Directory key of the line that holds a lodge address. -/
def lineKey (l addr : Nat) : Nat := memKey l addr / 128

/-- Lines of a range that have an entry. -/
def State.dirIn (s : State) (l addr n : Nat) : List (Nat × DirEnt) :=
  if n = 0 then [] else s.mem.dir.filter fun e => decide (lineKey l addr ≤ e.1) && decide (e.1 ≤ lineKey l (addr + n - 1))

/-- The message that removes a line held by a member. -/
def State.lineInval (s : State) (kind dev key : Nat) (core place : Nat) : Pend :=
  let l := key * 128 / 2 ^ 48
  let off := key * 128 % 2 ^ 48
  { kind := kind, engine := 8, dst := dev, lodge := l, core := core, place := place, cmd := (s.job core place).map (·.cmd), addr := 0, off := off, len := 128,
    aux := key, stale := false, msg := mkMsg 0x67 s.self (s.tenantFor l) [2 ^ 32, off, 128] [], reply := none }

/-- Invalidate every tracked copy of a range (R187): the entries go, the tags are those whose acknowledgement is awaited. -/
def State.invalTracked (s : State) (l addr n kind : Nat) (except : Option Nat) (core place : Nat) : State × List Nat :=
  (s.dirIn l addr n).foldl (fun (a : State × List Nat) e =>
    let s := { a.1 with mem := { a.1.mem with dir := Tbl.del e.1 a.1.mem.dir } }
    (e.2.sharers.filter fun d => some d != except).foldl (fun (a : State × List Nat) d =>
      let (s, t) := a.1.tell (a.1.lineInval kind d e.1 core place)
      (s, a.2 ++ [t])) (s, a.2)) (s, [])

/-- A write by an agent of this device that waits for no acknowledgement: the bytes, and the end of the tracked copies they had (R186, R187). -/
def State.pokeHome (s : State) (l addr : Nat) (bs : List Byte) : State := ((s.poke l addr bs).invalTracked l addr bs.length 6 none 160 15).1

/-- Invalidate a range at every other member (R188, R189): one SP_INVAL each. -/
def State.invalRange (s : State) (l addr n core place : Nat) : State × List Nat :=
  s.others.foldl (fun (a : State × List Nat) d =>
    let p : Pend := { kind := 4, engine := 8, dst := d, lodge := l, core := core, place := place,
                      cmd := (a.1.job core place).map (·.cmd), addr := 0, off := addr,
                      len := n, aux := 0, stale := false,
                      msg := mkMsg 0x67 a.1.self (a.1.tenantFor l) [0, addr, n] [], reply := none }
    let (s, t) := a.1.tell p
    (s, a.2 ++ [t])) (s, [])

/-- Whether the page of an address has an attribute. -/
def State.attrAt (s : State) (l addr : Nat) : Nat := match s.page l addr with | some p => p.attr | none => 0

/-- A recall whose acknowledgements are awaited. -/
def State.noteRecall (s : State) (key : Nat) (ts : List Nat) : State :=
  if ts = [] then s else { s with mem := { s.mem with recalls := s.mem.recalls ++ [(key, ts)] } }

/-- The least recently used entry is recalled (R191): its sharers are invalidated, the compute dies at once, whose data this model keeps in home
memory (log 138). The state and the tags whose acknowledgement is awaited. -/
def State.recallOldest (s : State) : State × List Nat :=
  match s.mem.dir.foldl (fun (b : Option (Nat × DirEnt)) e =>
      match b with | none => some e | some x => if e.2.used < x.2.used then some e else some x) none with
  | none => (s, [])
  | some v =>
    let r := v.2.sharers.foldl (fun (a : State × List Nat) d =>
      let (s, t) := a.1.tell (a.1.lineInval 7 d v.1 160 15)
      (s, a.2 ++ [t])) (({ s with mem := { s.mem with dir := Tbl.del v.1 s.mem.dir, lines := s.mem.lines.filter (·.2 != v.1) } } : State).bump
        Reg.memDirRecallCount, [])
    (r.1.noteRecall v.1 r.2, r.2)

/-- Write the entry of a line. -/
def State.putDir (s : State) (key : Nat) (f : DirEnt → DirEnt) : State :=
  { s with mem := { s.mem with dir := Tbl.put key { f ((Tbl.find key s.mem.dir).getD ⟨[], [], false, 0⟩) with used := s.now } s.mem.dir } }

/-- Change the entry of a line, recalling the least recently used entry when a new one is needed and none is free (R190, R191). The state and
the tags that the request must wait for. -/
def State.dirEntry (s : State) (key : Nat) (f : DirEnt → DirEnt) : State × List Nat :=
  if (Tbl.find key s.mem.dir).isSome ∨ s.mem.dir.length < dirSize then (s.putDir key f, [])
  else
    let r := s.recallOldest
    (r.1.putDir key f, r.2)

/-- Register a reading member: a line that a compute die held EXCLUSIVE becomes SHARED (R190, R381). -/
def State.addSharer (s : State) (key dev : Nat) : State × List Nat :=
  s.dirEntry key fun e => { e with sharers := sortDedup (dev :: e.sharers), exclusive := false }

/-- A page of the range is HELD. -/
def State.heldIn (s : State) (l addr n : Nat) : Bool := (pagesOf addr n).any fun p => s.attrAt l (p * 2 ^ 21) == 1

/-- Register a reader for every line of a range that lies in a HELD page. -/
def State.addSharers (s : State) (l addr n dev : Nat) : State × List Nat :=
  ((natsFrom (lineKey l addr) (lineKey l (addr + n - 1) + 1 - lineKey l addr)).filter fun k =>
    s.attrAt l (k * 128 % 2 ^ 48) == 1).foldl (fun (a : State × List Nat) k =>
    let (s, t) := a.1.addSharer k dev
    (s, a.2 ++ t)) (s, [])

/-! ## The line caches of the compute dies (R186, R190) -/

/-- Lines of one compute die's cache: 8 MiB. -/
def dieLines : Nat := 65536

/-- The compute die of a core. -/
def dieOf (c : Nat) : Nat := c / 40

/-- A compute die caches lines of T2, of T3 and of the stacks of the other compute dies. -/
def State.dieCaches (s : State) (die key : Nat) : Bool :=
  match Tbl.find (key * 128 / 2 ^ 21) s.mem.pages with
  | some p => p.tier != 1 || stackOf p.frame / 2 != die
  | none => false

/-- The line lies in a HELD page. -/
def State.lineHeld (s : State) (key : Nat) : Bool :=
  match Tbl.find (key * 128 / 2 ^ 21) s.mem.pages with | some p => p.attr == 1 | none => false

/-- The directory without a die's copy of a line: the entry goes with the last copy. -/
def dirWithout (dir : Tbl DirEnt) (die key : Nat) : Tbl DirEnt :=
  match Tbl.find key dir with
  | none => dir
  | some e =>
    let ds := e.dies.filter (· != die)
    if ds = [] ∧ e.sharers = [] then Tbl.del key dir else Tbl.put key { e with dies := ds, exclusive := e.exclusive && ds != [] } dir

/-- A line leaves a die's cache. -/
def State.dropDie (s : State) (die key : Nat) : State :=
  { s with mem := { s.mem with lines := s.mem.lines.filter (· != (die, key)), dir := dirWithout s.mem.dir die key } }

/-- A die's cache holds a line as the most recently used, in place of its least recently used one when it is full (DESIGN CHOICE, log 138). -/
def State.putDie (s : State) (die key : Nat) : State :=
  let mine := s.mem.lines.filter fun x => x.1 == die && x.2 != key
  let s := if dieLines ≤ mine.length then s.dropDie die ((mine.headD (0, 0)).2) else s
  { s with mem := { s.mem with lines := s.mem.lines.filter (· != (die, key)) ++ [(die, key)] } }

/-- A die reads a line through its cache, or writes it (R186, R190): of a HELD line the directory has its bit; a writer becomes the EXCLUSIVE
holder (DESIGN CHOICE, log 138), every other copy having been invalidated before. -/
def State.dieLine (s : State) (die key : Nat) (write : Bool) : State :=
  let s := s.putDie die key
  if !s.lineHeld key then s
  else (s.dirEntry key fun e =>
    if write then { e with sharers := [], dies := [die], exclusive := true }
    else if e.exclusive ∧ e.dies = [die] then e
    else { e with dies := sortDedup (die :: e.dies), exclusive := false }).1

/-- Lines of a lodge's range that a die caches. -/
def State.dieRange (s : State) (die lodge addr n : Nat) : List Nat :=
  if n = 0 then [] else (natsFrom (lineKey lodge addr) (lineKey lodge (addr + n - 1) + 1 - lineKey lodge addr)).filter (s.dieCaches die)

/-- The reads of a compute command go through the line cache of its core's die. -/
def State.dieReads (s : State) (c lodge : Nat) (rs : List (Nat × Nat)) : State :=
  (rs.flatMap fun r => s.dieRange (dieOf c) lodge r.1 r.2).foldl (fun (s : State) k => s.dieLine (dieOf c) k false) s

/-- The committed DIRECT writes of a compute command to HELD lines leave its die their holder. -/
def State.dieWrites (s : State) (c : Nat) (j : Job) : State :=
  ((j.direct.flatMap fun d => s.dieRange (dieOf c) j.cmd.lodge d.1 d.2.length).filter s.lineHeld).foldl (fun (s : State) k =>
    s.dieLine (dieOf c) k true) s

/-! ## The span line cache (R381 to R383) -/

/-- Lines of the cache. -/
def cacheSize : Nat := 131072

/-- A cached line. -/
def State.cached (s : State) (l dev line : Nat) : Option CLine :=
  s.spn.cache.find? fun c => c.lodge == l && c.dev == dev && c.line == line

/-- Mark a line used: it moves to the end. -/
def State.useLine (s : State) (c : CLine) : State :=
  { s with spn := { s.spn with cache := s.spn.cache.filter (· != c) ++ [c] } }

/-- Install a line, replacing the least recently used when the cache is full. -/
def State.install (s : State) (c : CLine) : State :=
  let rest := s.spn.cache.filter fun x => !(x.lodge == c.lodge && x.dev == c.dev && x.line == c.line)
  let rest := if rest.length < cacheSize then rest else rest.drop 1
  { s with spn := { s.spn with cache := rest ++ [c] } }

/-- A cached line of a device lies in a range. -/
def CLine.inRange (c : CLine) (dev addr n : Nat) : Bool :=
  c.dev == dev && n != 0 && decide (addr / 128 ≤ c.line) && decide (c.line ≤ (addr + n - 1) / 128)

/-- Requests in flight for a range of a device are not installed (R383). -/
def State.staleReads (s : State) (dev addr n : Nat) (lodge : Option Nat) : State :=
  let mark (p : Pend) : Pend :=
    if p.kind = 0 ∧ p.dst = dev ∧ overlap p.off p.len addr n ∧ (lodge = none ∨ lodge = some p.lodge) then { p with stale := true } else p
  { s with spn := { s.spn with out := s.spn.out.map (fun e => (e.1, mark e.2)), todo := s.spn.todo } }

/-- Remove the cached lines of a range, of one lodge or of all: the state and how many went. -/
def State.dropLines (s : State) (dev addr n : Nat) (lodge : Option Nat) : State × Nat :=
  let gone (c : CLine) : Bool := c.inRange dev addr n && (lodge == none || lodge == some c.lodge)
  let s1 := { s with spn := { s.spn with cache := s.spn.cache.filter fun c => !gone c } }
  (s1.staleReads dev addr n lodge, (s.spn.cache.filter gone).length)

/-! ## Replicas (R385) -/

/-- The replica of a page that a lodge holds. -/
def State.replica (s : State) (l dev page : Nat) : Option Replica :=
  s.spn.repl.find? fun r => r.lodge == l && r.dev == dev && r.page == page

/-- Replace or add a replica as the most recently used. -/
def State.putReplica (s : State) (r : Replica) : State :=
  { s with spn := { s.spn with repl := (s.spn.repl.filter fun x => !(x.lodge == r.lodge && x.dev == r.dev && x.page == r.page)) ++ [r] } }

/-- Discard a replica and release its frame. -/
def State.dropReplica (s : State) (r : Replica) : State :=
  ({ s with spn := { s.spn with repl := s.spn.repl.filter (· != r) } } : State).release 2 r.frame

/-- A T2 frame for a replica of a lodge: the least recently used replica makes room at REPLICA_PAGES (R385). -/
def State.replicaFrame (s : State) (l : Nat) : State × Option Nat :=
  let mine := s.spn.repl.filter (·.lodge == l)
  let max := s.rd Reg.spnReplReplicaPages l
  if max = 0 then (s, none)
  else
    let s := if mine.length < max then s else match mine.head? with | some r => s.dropReplica r | none => s
    (s, s.obtain l 2)

end Sys2Proof.Machine
end

