-- ==== Sys2Proof/Machine/Operands.lean ====
section
/-!
DEFINITION. Operand tables (R87) and how a command reads its operands and gathers its outputs (R49, R81, R83).
-/

namespace Sys2Proof.Machine

/-- An operand-table entry from its four words (R87). -/
def OpEnt.ofWords (a b c d : Nat) : OpEnt :=
  ⟨a, b, bits 0 32 c, bits 32 4 c, bits 36 2 c, bitAt 38 c, bits 0 32 d, bits 32 32 d⟩

/-- The entry breaks R87: reserved bits, ROLE or SPACE reserved, STAGED on a role that is no output, STAGED at odds with SPACE,
or an address or stride that is not a multiple of 64. -/
def OpEnt.bad (e : OpEnt) (wordC : Nat) : Bool :=
  decide (wordC / 2 ^ 39 ≠ 0) || decide (e.role ≥ 8) || decide (e.space ≥ 2) ||
  (e.staged && !(e.role == 3 || e.role == 7)) ||
  ((e.role == 3 || e.role == 7) && (e.staged != (e.space == 1))) ||
  decide (e.addr % 64 ≠ 0) || decide (e.stride % 64 ≠ 0)

/-- The operand table of a command: where it lies (R85, R130). -/
def Cmd.optabAddr (c : Cmd) : Nat := c.w 1
/-- OPTAB_COUNT. -/
def Cmd.optabCount (c : Cmd) : Nat := c.fld 3 44 5

/-- The words of entry `i`. -/
def State.optabWords (s : State) (c : Cmd) (i : Nat) : List Nat :=
  (natsFrom 0 4).map fun k => s.peekNat c.lodge (c.optabAddr + 32 * i + 8 * k) 8

/-- The operand table of a command. -/
def State.optab (s : State) (c : Cmd) : List OpEnt :=
  (natsFrom 0 c.optabCount).map fun i =>
    let w := s.optabWords c i
    OpEnt.ofWords (w.getD 0 0) (w.getD 1 0) (w.getD 2 0) (w.getD 3 0)

/-- An entry of the table breaks R87. -/
def State.optabBad (s : State) (c : Cmd) : Bool :=
  (natsFrom 0 c.optabCount).any fun i =>
    let w := s.optabWords c i
    (OpEnt.ofWords (w.getD 0 0) (w.getD 1 0) (w.getD 2 0) (w.getD 3 0)).bad (w.getD 2 0)

/-- The first entry of a role, with its index. -/
def roleOf (role : Nat) : List OpEnt → Option OpEnt
  | [] => none
  | e :: r => if e.role = role then some e else roleOf role r

/-- Entries of a role. -/
def roleCount (role : Nat) (l : List OpEnt) : Nat := (l.filter (·.role == role)).length

/-- Bytes of a buffer, device memory or core store (R87). -/
def State.opBytes (s : State) (c : Nat) (lodge : Nat) (space addr n : Nat) : List Byte :=
  if space = 1 then s.csRead c lodge addr n else s.peek lodge addr n

/-- A 64-byte unit of a lodge's logical core store stands on an uncorrectable error (R88). -/
def State.csUnitBad (s : State) (c lodge unit : Nat) : Bool :=
  match Tbl.find (lodge * 512 + unit / 64) (s.core c).pageMap with
  | some p => s.csBad.contains (csKey c p (unit % 64 * 64) / 64)
  | none => false

/-- What reading the core store meets: MEM_UNCORR where an uncorrectable error stands (R88). -/
def State.csStatus (s : State) (c lodge off n : Nat) : Nat :=
  if s.csBad = [] ∨ n = 0 then St.ok
  else if (natsFrom (off / 64) (ceilDiv (off + n) 64 - off / 64)).any (s.csUnitBad c lodge) then St.memUncorr
  else St.ok

/-- What reading or writing a buffer meets: the core store never fails to translate. -/
def State.opStatus (s : State) (c lodge space addr n : Nat) (write : Bool) : Nat :=
  if space = 1 then (if write then St.ok else s.csStatus c lodge addr n)
  else if write then s.accessStatus lodge addr n else s.readStatus lodge addr n

/-- A buffer reaches to `n` bytes: within LENGTH and, in the core store, within its 2 MiB. -/
def OpEnt.fits (e : OpEnt) (n : Nat) : Bool := decide (n ≤ e.len) && (e.space == 0 || decide (e.addr + n ≤ 2 ^ 21))

/-- A range lies in the 2^48 bytes of lodge addresses that are a lodge's own (R170, R82); whether its pages are mapped is for the access to
find. -/
def inRange (addr n : Nat) : Bool := decide (addr + n ≤ 2 ^ 48)

/-- Bytes of a stored row of `n` elements: whole blocks for a blocked format (R49). -/
def rowBytes (f : Fmt) (n : Nat) : Nat := if f.blocked then f.bytesOf (ceilDiv n 32 * 32) else f.bytesOf n

/-- Where a buffer of `rows` rows of `n` elements ends, elements from `off` on (R88 extent). -/
def rowExtent (f : Fmt) (stride rows off n : Nat) : Nat :=
  if rows = 0 then 0 else (rows - 1) * stride + rowBytes f (off + n)

/-- Row `r` of an operand as elements: the codes and the scale bytes of elements `off .. off+n−1`. -/
structure RowData where
  /-- element codes -/
  elems : List Nat
  /-- scale code of each element; 0 for unblocked formats; the FP32 row scale for the integer row formats -/
  scales : List Nat
  deriving DecidableEq, Repr

/-- Read elements of a row (R49, R57). The integer row formats take the FP32 row scale at the row's place in the scale array (DESIGN CHOICE, log
123: no rule says where a CONVERT or an LD finds it). -/
def State.rowData (s : State) (c lodge : Nat) (e : OpEnt) (f : Fmt) (r off n : Nat) : RowData :=
  let bs := s.opBytes c lodge e.space (e.addr + r * e.stride) (rowBytes f (off + n))
  let el := (natsFrom off n).map (elemAt f bs)
  if f.blocked then
    let sb := s.opBytes c lodge e.space (e.scale + r * e.sstride) (ceilDiv (off + n) 32)
    ⟨el, (natsFrom off n).map fun i => (sb.getD (i / 32) 0).toNat⟩
  else if f = .int8s ∨ f = .int4s then
    let sc := leNat (s.opBytes c lodge e.space (e.scale + r * e.sstride) 4)
    ⟨el, el.map fun _ => sc⟩
  else ⟨el, el.map fun _ => 0⟩

/-- The device-memory ranges that reading that row touches. -/
def rowReads (e : OpEnt) (f : Fmt) (r off n : Nat) : List (Nat × Nat) :=
  if e.space = 1 then [] else
    (e.addr + r * e.stride, rowBytes f (off + n)) ::
      (if f.blocked then [(e.scale + r * e.sstride, ceilDiv (off + n) 32)]
       else if f = .int8s ∨ f = .int4s then [(e.scale + r * e.sstride, 4)] else [])

/-- What reading that row meets (R88, R169): BAD_OPERAND beyond LENGTH, which only a row named by GATHER or by a single instruction can still
be, then the faults of the access. -/
def State.rowStatus (s : State) (c lodge : Nat) (e : OpEnt) (f : Fmt) (r off n : Nat) : Nat :=
  let a := s.opStatus c lodge e.space (e.addr + r * e.stride) (rowBytes f (off + n)) false
  if !e.fits (r * e.stride + rowBytes f (off + n)) then St.badOperand
  else if a ≠ St.ok then a
  else if f.blocked then s.opStatus c lodge e.space (e.scale + r * e.sstride) (ceilDiv (off + n) 32) false
  else if f = .int8s ∨ f = .int4s then s.opStatus c lodge e.space (e.scale + r * e.sstride) 4 false
  else St.ok

/-- One element as FP32 (R62). -/
def elem32 (f : Fmt) (code scale : Nat) : Fl F32 :=
  if f = .int8s ∨ f = .int4s then decodeRow32 f code scale else decode32 f code scale

/-- A row as FP32 lanes (R62). -/
def RowData.to32 (d : RowData) (f : Fmt) : Fl (List F32) := Fl.zipList (elem32 f) d.elems d.scales

/-- TQ2 invalid codes of a row (R59). -/
def RowData.badTernary (d : RowData) (f : Fmt) : Nat := (d.elems.filter (isBadTernary f)).length

/-- A row of FP32 lanes encoded for storing (R58, R61, R62): element bytes, scale bytes. Lanes form blocks of 32, the last one
padded with code 0. An FP32 store writes the bits unchanged (R78). -/
def encodeRow (f : Fmt) (xs : List F32) : Fl (List Byte × List Byte) :=
  if f.blocked then
    (Fl.mapList (encodeBlock f) (chunks 32 xs)).map fun bs =>
      (bs.flatMap fun b => packElems f (b.elems ++ List.replicate (32 - b.elems.length) 0),
       bs.map fun b => BitVec.ofNat 8 b.scale)
  else if f = .fp32 then Fl.pure (xs.flatMap fun x => leBytes 4 x.toNat, [])
  else (Fl.mapList (encodeOne f) xs).map fun cs => (packElems f cs, [])

/-- One store of a command: buffer space, address, bytes. -/
structure Store where
  /-- 0 device memory, 1 core store -/
  space : Nat
  /-- address or logical offset -/
  addr : Nat
  /-- the bytes -/
  bytes : List Byte
  deriving DecidableEq, Repr

/-- The stores that put an encoded row at row `r`, element offset `off`, of an output entry. -/
def rowStores (e : OpEnt) (f : Fmt) (r off : Nat) (d : List Byte × List Byte) : List Store :=
  ⟨e.space, e.addr + r * e.stride + f.bytesOf off, d.1⟩ ::
    (if f.blocked then [⟨e.space, e.scale + r * e.sstride + off / 32, d.2⟩] else [])

/-- The DIRECT outputs among the stores, in order (R81). -/
def directOf (l : List Store) : List (Nat × List Byte) := (l.filter (·.space == 0)).map fun x => (x.addr, x.bytes)

/-- The staged bytes by logical offset, later stores over earlier ones. -/
def stagedBytes (l : List Store) : Tbl Byte :=
  (l.filter (·.space == 1)).foldl (fun t x =>
    ((natsFrom x.addr x.bytes.length).zip x.bytes).foldl (fun t p => Tbl.put p.1 p.2 t) t) []

/-- The STAGED pages: each logical page written, its unwritten bytes copied from the old page (R81). -/
def State.stagedOf (s : State) (c lodge : Nat) (l : List Store) : List (Nat × List Byte) :=
  let t := stagedBytes l
  (sortDedup (t.map fun e => e.1 / 4096)).map fun lp =>
    let old := s.csRead c lodge (lp * 4096) 4096
    (lp, (old.zip (natsFrom (lp * 4096) 4096)).map fun p => (Tbl.find p.2 t).getD p.1)

/-- What writing a row meets: BAD_OPERAND beyond LENGTH or, DIRECT, outside the lodge's own range (R88, R82), which only a row named by SCATTER
or by a single instruction can still be, then the faults of the access. -/
def State.outStatus (s : State) (c lodge : Nat) (e : OpEnt) (f : Fmt) (r off n : Nat) (sts : List Store) : Nat :=
  if !e.fits (r * e.stride + rowBytes f (off + n)) then St.badOperand
  else if sts.any fun x => x.space == 0 && !inRange x.addr x.bytes.length then St.badOperand
  else (sts.map fun x => s.opStatus c lodge x.space x.addr x.bytes.length true).foldr (fun x r => if x ≠ St.ok then x else r) St.ok

/-- The pages staged so far with more stores put over them: one page for each logical page (R81). -/
def State.stageMore (s : State) (c lodge : Nat) (have_ : List (Nat × List Byte)) (l : List Store) : List (Nat × List Byte) :=
  let t := stagedBytes l
  (sortDedup (t.map fun e => e.1 / 4096)).foldl (fun (acc : List (Nat × List Byte)) lp =>
    let old := (Tbl.find lp acc).getD (s.csRead c lodge (lp * 4096) 4096)
    Tbl.put lp ((old.zip (natsFrom (lp * 4096) 4096)).map fun p => (Tbl.find p.2 t).getD p.1) acc) have_

/-- Copying the rest of each partly written page meets an uncorrectable error (R81, R88). -/
def State.stageStatus (s : State) (c lodge : Nat) (l : List Store) : Nat :=
  if s.csBad = [] then St.ok
  else
    let t := stagedBytes l
    if (sortDedup (t.map fun e => e.1 / 4096)).any fun lp => (natsFrom (lp * 64) 64).any fun u =>
        s.csUnitBad c lodge u && !(natsFrom (u * 64) 64).all fun a => (Tbl.find a t).isSome then St.memUncorr
    else St.ok

/-- Logical pages a buffer covers. -/
def OpEnt.pages (e : OpEnt) : List Nat := natsFrom (e.addr / 4096) (ceilDiv (e.addr + e.len) 4096 - e.addr / 4096)

/-- Pages that the STAGED buffers of a table need together (R82). -/
def stagedNeed (l : List OpEnt) : Nat :=
  (sortDedup ((l.filter (·.staged)).flatMap OpEnt.pages)).length

/-- Backed pages a lodge would hold on the core after the staged outputs replace their logical pages (R81, R275). -/
def State.backedAfter (s : State) (c lodge : Nat) (l : List OpEnt) : Nat :=
  let have_ := ((s.core c).pageMap.filter fun e => e.1 / 512 == lodge).map fun e => e.1 % 512
  (sortDedup (have_ ++ (l.filter (·.staged)).flatMap OpEnt.pages)).length

/-- The COMMIT_TOO_LARGE check of R82, R88: staged pages within STAGE_PAGES and the lodge's quota. -/
def State.tooLarge (s : State) (c lodge : Nat) (l : List OpEnt) : Bool :=
  decide (stagedNeed l > (s.core c).stage) ||
  (decide (stagedNeed l > 0) && decide (s.backedAfter c lodge l > s.rd Reg.lodCsQuotaPages lodge))

/-- Finish the work of a command: its stores become DIRECT and STAGED outputs and it enters FENCE (R81, R89). -/
def State.outputs (s : State) (c p : Nat) (j : Job) (stores : List Store) (flags : Flags) (result : Nat) : State :=
  s.toFence c p { j with direct := directOf stores, staged := s.stagedOf c j.cmd.lodge stores, flags := flags, result := result }

/-- The first bad status of a list of accesses; OK when all pass. -/
def firstBad : List Nat → Nat
  | [] => St.ok
  | x :: r => if x ≠ St.ok then x else firstBad r

/-- An index of a GATHER or SCATTER entry: 32 bits at place `m` (R87). -/
def State.indexAt (s : State) (c lodge : Nat) (e : OpEnt) (m : Nat) : Nat :=
  leNat (s.opBytes c lodge e.space (e.addr + 4 * m) 4)

/-- The index entry of a table and what reading place `m` of it meets; nothing without one. -/
def State.indexStatus (s : State) (c lodge : Nat) (tab : List OpEnt) (role m : Nat) : Nat :=
  match roleOf role tab with
  | some e => if !e.fits (4 * m + 4) then St.badOperand else s.opStatus c lodge e.space (e.addr + 4 * m) 4 false
  | none => St.ok

/-- The device-memory range that reading it touches. -/
def indexReads (tab : List OpEnt) (role m : Nat) : List (Nat × Nat) :=
  match roleOf role tab with
  | some e => if e.space = 0 then [(e.addr + 4 * m, 4)] else []
  | none => []

/-- The row of an operand that row `m` names: through GATHER or SCATTER where the table has one (R87). -/
def State.rowIndex (s : State) (c lodge : Nat) (tab : List OpEnt) (role m : Nat) : Nat :=
  match roleOf role tab with
  | some e => s.indexAt c lodge e m
  | none => m

end Sys2Proof.Machine
end

