-- ==== Sys2Proof/Machine/Vector.lean ====
section
/-!
DEFINITION. The vector unit (R77 to R80, R501, R502): its instruction words, the decode check of a whole program, each
instruction's effect, and the run of a program.
-/

namespace Sys2Proof.Machine

/-- A vector instruction word (R77). -/
structure VIns where
  /-- OP -/
  op : Nat
  /-- DST -/
  dst : Nat
  /-- SRC1 -/
  s1 : Nat
  /-- SRC2 -/
  s2 : Nat
  /-- SRC3 -/
  s3 : Nat
  /-- FMT -/
  fmt : Nat
  /-- OPND -/
  opnd : Nat
  /-- IMM -/
  imm : Nat
  deriving DecidableEq, Repr

/-- The fields of an instruction word (R77). -/
def VIns.ofWord (w : Nat) : VIns :=
  ⟨bits 0 8 w, bits 8 5 w, bits 13 5 w, bits 18 5 w, bits 23 5 w, bits 28 4 w, bits 32 4 w, bits 36 28 w⟩

/-- Which fields an operation uses: DST, SRC1, SRC2, SRC3, FMT with OPND, IMM (R78). -/
def VIns.uses (op : Nat) : Bool × Bool × Bool × Bool × Bool × Bool :=
  if op = 0x00 ∨ op = 0x17 then (false, false, false, false, false, false)
  else if op = 0x01 ∨ op = 0x02 then (true, false, false, false, true, true)
  else if op = 0x03 ∨ op = 0x04 ∨ op = 0x06 ∨ op = 0x07 ∨ op = 0x0B then (true, true, true, false, false, false)
  else if op = 0x05 ∨ op = 0x12 ∨ op = 0x13 then (true, true, true, true, false, false)
  else if op = 0x14 then (true, true, false, false, false, true)
  else if op = 0x15 then (true, false, false, false, false, true)
  else if op = 0x16 then (false, false, false, false, false, true)
  else (true, true, false, false, false, false)

/-- The word breaks R77: a reserved OP, or a nonzero field the operation does not use. -/
def VIns.bad (i : VIns) : Bool :=
  let (d, a, b, c, f, m) := VIns.uses i.op
  decide (i.op ≥ 0x18) || (!d && i.dst != 0) || (!a && i.s1 != 0) || (!b && i.s2 != 0) || (!c && i.s3 != 0) ||
  (!f && (i.fmt != 0 || i.opnd != 0)) || (!m && i.imm != 0)

/-- The program's LOOP and END nesting from depth `d` (R79). -/
def nestingOk : Nat → List VIns → Bool
  | d, [] => d == 0
  | d, i :: r =>
    if i.op = 0x16 then decide (d < 4) && nestingOk (d + 1) r
    else if i.op = 0x17 then decide (0 < d) && nestingOk (d - 1) r
    else nestingOk d r

/-- The decode check of R79 on one instruction with the operand table. -/
def VIns.check (tab : List OpEnt) (i : VIns) : Bool :=
  !i.bad &&
  (if i.op = 0x16 then decide (1 ≤ i.imm) && decide (i.imm ≤ 65535)
   else if i.op = 0x14 then decide (1 ≤ i.imm) && decide (i.imm ≤ 8)
   else if i.op = 0x01 then
     match tab[i.opnd]? with
     | some e => !(e.role == 3 || e.role == 7 || e.role == 4 || e.role == 5)
     | none => false
   else if i.op = 0x02 then
     match tab[i.opnd]? with
     | some e => e.role == 3 || e.role == 7
     | none => false
   else true)

/-- R79 over the whole program. -/
def progOk (tab : List OpEnt) (prog : List VIns) : Bool := prog.all (VIns.check tab) && nestingOk 0 prog

/-- Formats an LD accepts (R62, R78): every one of R48. Formats an ST accepts: those with a conversion (R62). -/
def stFormat : Fmt → Bool
  | .tq2 | .int8s | .int4s => false
  | _ => true

/-- A format code named by an LD or ST is reserved or not provided (R48, R62). -/
def VIns.badFormat (i : VIns) : Bool :=
  if i.op = 0x01 then (Fmt.ofCode i.fmt).isNone
  else if i.op = 0x02 then (match Fmt.ofCode i.fmt with | some f => !stFormat f | none => true)
  else false

/-! ## Registers -/

/-- The lanes of a register; one not written in this run holds +0 (R501). -/
def VecUnit.reg (v : VecUnit) (r : Nat) : List F32 := Tbl.get (List.replicate v.n 0) r v.regs

/-- Put lanes in a register, collecting flags; the instruction counter moves on. -/
def VecUnit.put (v : VecUnit) (r : Nat) (x : Fl (List F32)) : VecUnit :=
  { v with regs := Tbl.set (List.replicate v.n 0) r x.val v.regs, flags := v.flags ||| x.fl, pc := v.pc + 1 }

/-- The first `n` lanes: those an instruction computes (R78). -/
def VecUnit.lanes (v : VecUnit) (r : Nat) : List F32 := (v.reg r).take v.n

/-- The row LD and ST address: the base row plus the index of the outermost open LOOP (R502). -/
def VecUnit.row (v : VecUnit) : Nat :=
  v.base + (match v.loops.getLast? with | some f => f.idx | none => 0)

/-- One result in every lane. -/
def VecUnit.splat (v : VecUnit) (x : F32) : List F32 := List.replicate v.n x

/-! ## Reductions and selections -/

/-- RSUM (R80): the contraction of the row with ones. -/
def rsum (xs : List F32) : Fl F32 := contract xs.length fun i => rd32 (xs.getD i 0)

/-- RMAX (R52, R78): the maximum across the lanes; NaN if any lane is NaN. -/
def rmax : List F32 → Fl F32
  | [] => Fl.pure 0
  | x :: r => (max32 x x).bind fun y => Fl.fold max32 y r

/-- One lane of SEL (R78): SRC3 if SRC1 < SRC2, else SRC2, bit-exactly. -/
def sel32 (a b c : F32) : Fl F32 :=
  (rd32 a).bind fun x => (rd32 b).bind fun y => Fl.pure (if x.lt y then c else b)

/-- SEL over three rows. -/
def selRow : List F32 → List F32 → List F32 → Fl (List F32)
  | a :: r, b :: t, c :: u => (sel32 a b c).bind fun x => (selRow r t u).map (x :: ·)
  | _, _, _ => ⟨[], 0⟩

/-- `a − b` with one rounding. -/
def sub32 : F32 → F32 → Fl F32 := bin32 fun a b => rnd32 (a.add b.neg)

/-- ROT over a row (R78): pairs turned by (c, s) taken from the even lanes; a lane without partner passes unchanged. -/
def rotRow : List F32 → List F32 → List F32 → Fl (List F32)
  | x :: y :: r, c :: _ :: t, s :: _ :: u =>
    (mul32 x c).bind fun xc => (mul32 y s).bind fun ys => (sub32 xc ys).bind fun a =>
    (mul32 x s).bind fun xs => (mul32 y c).bind fun yc => (add32 xs yc).bind fun b =>
    (rotRow r t u).map fun l => a :: b :: l
  | [x], _, _ => Fl.pure [x]
  | _, _, _ => ⟨[], 0⟩

/-- `a` ranks above `b` in TOPK and ROUTE: larger value; NaN lowest. -/
def ranksAbove (a b : Num) : Bool := if b.isNan then !a.isNan else b.lt a

/-- The index of the highest-ranking value not yet taken; ties go to the lower index. -/
def bestIndex (vs : List Num) (taken : List Nat) : Option Nat :=
  (natsFrom 0 vs.length).foldl (fun b i =>
    if taken.contains i then b else
      match b with
      | none => some i
      | some j => if ranksAbove (vs.getD i .nan) (vs.getD j .nan) then some i else b) none

/-- The first `k` indices in rank order. -/
def topIndices (vs : List Num) : Nat → List Nat → List Nat
  | 0, taken => taken
  | k + 1, taken =>
    match bestIndex vs taken with
    | some i => topIndices vs k (taken ++ [i])
    | none => taken

/-- A small integer as FP32. -/
def intF32 (i : Int) : F32 := (rnd32 (Num.ofInt i 0)).val

/-- TOPK (R78). -/
def topkRow (xs : List F32) (k : Nat) : Fl (List F32) :=
  (Fl.mapList rd32 xs).map fun vs =>
    let top := topIndices vs k []
    let head := (top.map fun i => intF32 (Int.ofNat i)) ++ List.replicate (k - top.length) (intF32 (-1))
    head ++ List.replicate (xs.length - k) 0

/-! ## Instructions -/

/-- Where a program runs: the device state, core and lodge, and the operand table. -/
structure VEnv where
  /-- core -/
  core : Nat
  /-- lodge -/
  lodge : Nat
  /-- operand table -/
  tab : List OpEnt
  deriving DecidableEq, Repr

/-- One-source lane operations (R78). -/
def lane1 (op : Nat) : F32 → Fl F32 :=
  if op = 0x08 then recip32 else if op = 0x09 then rsqrt32 else if op = 0x0A then sqrt32
  else if op = 0x0C then exp32 else if op = 0x0D then log32 else if op = 0x0E then exp232 else log232

/-- Two-source lane operations (R78). -/
def lane2 (op : Nat) : F32 → F32 → Fl F32 :=
  if op = 0x03 then add32 else if op = 0x04 then mul32 else if op = 0x06 then max32 else if op = 0x07 then min32 else div32

/-- FMA over three rows. -/
def fmaRow : List F32 → List F32 → List F32 → Fl (List F32)
  | a :: r, b :: t, c :: u => (fma32 a b c).bind fun x => (fmaRow r t u).map (x :: ·)
  | _, _, _ => ⟨[], 0⟩

/-- LD (R78, R502): the row of entry OPND, converted to FP32; row r of X is row GATHER[r] where the table has a GATHER (R87). -/
def VecUnit.load (s : State) (env : VEnv) (v : VecUnit) (dst fmt opnd imm : Nat) : VecUnit :=
  match Fmt.ofCode fmt, env.tab[opnd]? with
  | some f, some e =>
    let i := if e.role = 0 then s.indexStatus env.core env.lodge env.tab 4 v.row else St.ok
    let r := if e.role = 0 then s.rowIndex env.core env.lodge env.tab 4 v.row else v.row
    let st := firstBad [i, s.rowStatus env.core env.lodge e f r imm v.n]
    if st ≠ St.ok then { v with fault := st }
    else
      let d := s.rowData env.core env.lodge e f r imm v.n
      { v.put dst (d.to32 f) with
        badTernary := v.badTernary + d.badTernary f
        loads := v.loads ++ (if e.role = 0 then indexReads env.tab 4 v.row else []) ++ rowReads e f r imm v.n }
  | _, _ => { v with pc := v.pc + 1 }

/-- ST (R78, R502): the register converted to FMT at entry OPND; row r of C is row SCATTER[r] where the table has a SCATTER (R87). -/
def VecUnit.store (s : State) (env : VEnv) (v : VecUnit) (src fmt opnd imm : Nat) : VecUnit :=
  match Fmt.ofCode fmt, env.tab[opnd]? with
  | some f, some e =>
    let i := if e.role = 3 then s.indexStatus env.core env.lodge env.tab 5 v.row else St.ok
    let r := if e.role = 3 then s.rowIndex env.core env.lodge env.tab 5 v.row else v.row
    let d := encodeRow f (v.lanes src)
    let sts := rowStores e f r imm d.val
    let st := firstBad [i, s.outStatus env.core env.lodge e f r imm v.n sts]
    if st ≠ St.ok then { v with fault := st }
    else { v with stores := v.stores ++ sts.map (fun x => (x.space, x.addr, x.bytes)), flags := v.flags ||| d.fl, pc := v.pc + 1,
                  loads := v.loads ++ (if e.role = 3 then indexReads env.tab 5 v.row else []) }
  | _, _ => { v with pc := v.pc + 1 }

/-- LOOP (R78): opens a frame. -/
def VecUnit.loopOpen (v : VecUnit) (imm : Nat) : VecUnit :=
  { v with loops := ⟨v.pc + 1, imm, 0⟩ :: v.loops, pc := v.pc + 1 }

/-- END (R78): back to the start of the loop, or past it after the last round. -/
def VecUnit.loopEnd (v : VecUnit) : VecUnit :=
  match v.loops with
  | [] => { v with pc := v.pc + 1 }
  | f :: r =>
    if f.idx + 1 < f.total then { v with loops := { f with idx := f.idx + 1 } :: r, pc := f.start }
    else { v with loops := r, pc := v.pc + 1 }

/-- One instruction (R78). -/
def VecUnit.exec (s : State) (env : VEnv) (v : VecUnit) (i : VIns) : VecUnit :=
  if i.op = 0x01 then v.load s env i.dst i.fmt i.opnd i.imm
  else if i.op = 0x02 then v.store s env i.dst i.fmt i.opnd i.imm
  else if i.op = 0x05 then v.put i.dst (fmaRow (v.lanes i.s1) (v.lanes i.s2) (v.lanes i.s3))
  else if i.op = 0x03 ∨ i.op = 0x04 ∨ i.op = 0x06 ∨ i.op = 0x07 ∨ i.op = 0x0B then
    v.put i.dst (Fl.zipList (lane2 i.op) (v.lanes i.s1) (v.lanes i.s2))
  else if i.op = 0x10 then v.put i.dst ((rsum (v.lanes i.s1)).map v.splat)
  else if i.op = 0x11 then v.put i.dst ((rmax (v.lanes i.s1)).map v.splat)
  else if i.op = 0x12 then v.put i.dst (selRow (v.lanes i.s1) (v.lanes i.s2) (v.lanes i.s3))
  else if i.op = 0x13 then v.put i.dst (rotRow (v.lanes i.s1) (v.lanes i.s2) (v.lanes i.s3))
  else if i.op = 0x14 then v.put i.dst (topkRow (v.lanes i.s1) i.imm)
  else if i.op = 0x15 then v.put i.dst (Fl.pure (v.splat (BitVec.ofNat 32 (i.imm * 16))))
  else if i.op = 0x16 then v.loopOpen i.imm
  else if i.op = 0x17 then v.loopEnd
  else if i.op = 0x00 then { v with pc := v.pc + 1 }
  else v.put i.dst (Fl.mapList (lane1 i.op) (v.lanes i.s1))

/-- Run a program to its end, or to a fault; the fuel exceeds every program's steps. -/
def VecUnit.run (s : State) (env : VEnv) (prog : List VIns) : Nat → VecUnit → VecUnit
  | 0, v => v
  | n + 1, v =>
    if v.fault ≠ 0 then v
    else match prog[v.pc]? with
      | none => v
      | some i => VecUnit.run s env prog n (v.exec s env i)

/-- More steps than any checked program takes: 65,536 instructions under four loops of 65,535. -/
def progFuel : Nat := 2 ^ 80

/-- The stores of a run. -/
def VecUnit.outStores (v : VecUnit) : List Store := v.stores.map fun x => ⟨x.1, x.2.1, x.2.2⟩

/-! ## Instructions as commands of their own: on the vector unit of a core, for the command in its compute slot -/

/-- The environment of a core's vector unit: the operand table of the command in its compute slot. -/
def State.vecEnv (s : State) (c : Nat) : VEnv :=
  match s.job c 0 with
  | some j => ⟨c, j.cmd.lodge, j.optab⟩
  | none => ⟨c, 0, []⟩

/-- Loops open in a unit. -/
def VecUnit.depth (v : VecUnit) : Nat := v.loops.length

/-- The instruction breaks a check that the whole-program check of R79 would have made. -/
def VecUnit.badIns (env : VEnv) (v : VecUnit) (i : VIns) : Bool :=
  !i.check env.tab || (i.op == 0x16 && decide (4 ≤ v.depth)) || (i.op == 0x17 && decide (v.depth = 0))

/-- What one issued instruction stored and met reaches the command in the compute slot: its stores join the commit set (R81),
its flags ARITH_FLAGS (R63), its fault ends the command (R88). -/
def State.vecSettle (s : State) (c : Nat) : State :=
  let v := (s.core c).vec
  match s.job c 0 with
  | none => s
  | some j =>
    if v.fault ≠ 0 then
      (s.modCore c fun k => { k with vec := { v with fault := 0, stores := [], loads := [] } }).endJob c 0 j v.fault
    else
      let st := v.stores.map fun x => (⟨x.1, x.2.1, x.2.2⟩ : Store)
      let s := ((s.touchReads j.cmd.lodge v.loads).dieReads c j.cmd.lodge v.loads).bump Reg.cmpFmtExcCount v.badTernary c
      let s := s.modCore c fun k => { k with vec := { v with stores := [], loads := [], badTernary := 0 } }
      s.setJob c 0 { j with direct := j.direct ++ directOf st, staged := s.stageMore c j.cmd.lodge j.staged st, flags := j.flags ||| v.flags }

/-- One vector instruction issued on a core for the command in its compute slot. A bad one ends the command (R77, R79, R62). -/
def State.vecIssue (s : State) (c : Nat) (i : VIns) : State :=
  let env := s.vecEnv c
  let v := (s.core c).vec
  match s.job c 0 with
  | some j =>
    if i.badFormat then s.endJob c 0 j St.badFormat
    else if v.badIns env i then (s.setBit Reg.cmpErrBits 2 c).endJob c 0 j St.badProg
    else (s.modCore c fun k => { k with vec := v.exec s env i }).vecSettle c
  | none => s.modCore c fun k => { k with vec := v.exec s env i }

end Sys2Proof.Machine
end

