-- ==== Sys2Proof/Machine/Compute.lean ====
section
/-!
DEFINITION. COMPUTE commands (R85 to R88): their checks, MATMUL, VECTOR, CONVERT, COPY and SIGNAL, and the vector instructions
of R78 as commands on a core's vector unit.
-/

namespace Sys2Proof.Machine

/-! ## Descriptor fields (R85) -/

/-- M. -/
def Cmd.fM (c : Cmd) : Nat := c.fld 2 0 32
/-- N. -/
def Cmd.fN (c : Cmd) : Nat := c.fld 2 32 32
/-- K. -/
def Cmd.fK (c : Cmd) : Nat := c.fld 3 0 32
/-- FMT_X. -/
def Cmd.fmtX (c : Cmd) : Nat := c.fld 3 32 4
/-- FMT_W. -/
def Cmd.fmtW (c : Cmd) : Nat := c.fld 3 36 4
/-- FMT_C. -/
def Cmd.fmtC (c : Cmd) : Nat := c.fld 3 40 4
/-- PROG_LEN. -/
def Cmd.progLen (c : Cmd) : Nat := c.fld 4 0 16
/-- PROG_ADDR. -/
def Cmd.progAddr (c : Cmd) : Nat := c.w 7

/-- The instructions of a command's vector program. -/
def State.vecProg (s : State) (c : Cmd) : List VIns :=
  (natsFrom 0 c.progLen).map fun i => VIns.ofWord (s.peekNat c.lodge (c.progAddr + 8 * i) 8)

/-! ## Checks (R86, R87, R88) -/

/-- What a command has come to: its stores, flags, TQ2 invalid codes, reads, and the status that ended it early (0 none). -/
structure RunOut where
  /-- stores in order -/
  stores : List Store
  /-- arithmetic flags -/
  flags : Flags
  /-- TQ2 invalid codes read -/
  bad : Nat
  /-- device-memory ranges read -/
  reads : List (Nat × Nat)
  /-- status that ended the run; 0 none -/
  fault : Nat
  deriving DecidableEq, Repr

/-- Nothing done yet. -/
def RunOut.none : RunOut := ⟨[], 0, 0, [], 0⟩

/-- A run ended by a status. -/
def RunOut.failed (status : Nat) : RunOut := ⟨[], 0, 0, [], status⟩

/-- One part of a run after another. -/
def RunOut.join (a b : RunOut) : RunOut :=
  if a.fault ≠ 0 then a
  else ⟨if b.fault = 0 then a.stores ++ b.stores else a.stores, a.flags ||| b.flags, a.bad + b.bad, a.reads ++ b.reads, b.fault⟩

/-- The conversions of R62, with the copy of a format to itself. A pair that its table does not list is refused with BAD_FORMAT (DESIGN CHOICE,
log 122: the spec gives such a pair neither a rule nor a status). -/
def convOk (x c : Fmt) : Bool :=
  x == c ||
  (match x, c with
   | .fp32, .bf16 | .bf16, .fp32 | .fp16, .fp32 | .fp32, .fp16 | .int8s, .fp32 | .int4s, .fp32 => true
   | .fp32, .mxfp4 | .fp32, .e4m3 | .fp32, .e5m2 | .bf16, .mxfp4 | .bf16, .e4m3 | .bf16, .e5m2 => true
   | .fp32, .kv4 | .fp32, .kv8 => true
   | _, .fp32 | _, .bf16 => x.blocked
   | _, _ => false)

/-- FMT_C of a MATMUL (R86). -/
def matmulOut : Fmt → Bool
  | .fp32 | .bf16 | .mxfp4 | .e4m3 | .e5m2 | .kv4 | .kv8 => true
  | _ => false

/-- The formats of the descriptor are not allowed (R62, R66); a reserved code is refused in every opcode (R48). -/
def State.badFormats (s : State) (x : Cmd) : Bool :=
  match Fmt.ofCode x.fmtX, Fmt.ofCode x.fmtW, Fmt.ofCode x.fmtC with
  | some a, some w, some c =>
    if x.op = 1 then !(pairingOk s.stage a w && matmulOut c) else if x.op = 3 then !convOk a c else false
  | _, _, _ => true

/-- Reading the operand table and the program (R88). -/
def State.tableStatus (s : State) (x : Cmd) : Nat :=
  firstBad [if x.optabCount = 0 then St.ok else s.readStatus x.lodge x.optabAddr (32 * x.optabCount),
            if x.progLen = 0 then St.ok else s.readStatus x.lodge x.progAddr (8 * x.progLen)]

/-- The program can be read and names a format that LD or ST does not accept. -/
def State.progBadFormat (s : State) (x : Cmd) : Bool :=
  decide (x.progLen ≠ 0) && decide (s.readStatus x.lodge x.progAddr (8 * x.progLen) = St.ok) &&
  (s.vecProg x).any VIns.badFormat

/-- OPTAB_COUNT of R86. -/
def countOk (op n : Nat) : Bool :=
  if op = 1 then decide (3 ≤ n) && decide (n ≤ 16)
  else if op = 2 then decide (1 ≤ n) && decide (n ≤ 16)
  else if op = 3 ∨ op = 4 then n == 2
  else n == 0

/-- Roles of R87. -/
def rolesOk (op : Nat) (t : List OpEnt) : Bool :=
  if op = 1 then roleCount 0 t == 1 && roleCount 1 t == 1 && roleCount 3 t == 1 && decide (roleCount 2 t ≤ 1) &&
    decide (roleCount 4 t ≤ 1) && decide (roleCount 5 t ≤ 1)
  else if op = 3 ∨ op = 4 then roleCount 0 t == 1 && roleCount 3 t == 1
  else true

/-- A list of (instruction, rows it addresses, counted from the base row): the loads and stores of a program (R502). -/
def progAccesses : Nat → Nat → List VIns → List (VIns × Nat)
  | _, _, [] => []
  | d, n, i :: r =>
    if i.op = 0x16 then progAccesses (d + 1) (if d = 0 then i.imm else n) r
    else if i.op = 0x17 then progAccesses (d - 1) (if d = 1 then 1 else n) r
    else if i.op = 1 ∨ i.op = 2 then (i, n) :: progAccesses d n r
    else progAccesses d n r

/-- A row starts where this format can be stored: on a byte, and on a block for a blocked format. -/
def offsetOk (f : Fmt) (off : Nat) : Bool := decide (off * f.elemBits % 8 = 0) && (!f.blocked || decide (off % 32 = 0))

/-- The DIRECT rows of an output lie in the lodge's own range (R82): strides are not negative, so the last row tells. -/
def directOk (e : OpEnt) (f : Fmt) (rows off n : Nat) : Bool :=
  e.space == 1 ||
    (inRange (e.addr + (rows - 1) * e.stride + f.bytesOf off) (rowBytes f n) &&
     (!f.blocked || inRange (e.scale + (rows - 1) * e.sstride + off / 32) (ceilDiv n 32)))

/-- The stored form of a row has scales beside its elements (R49, R57). -/
def hasScales (f : Fmt) : Bool := f.blocked || f == .int8s || f == .int4s

/-- A format code of the descriptor names a format with scales. -/
def codeScales (code : Nat) : Bool := match Fmt.ofCode code with | some f => hasScales f | none => false

/-- An entry holds a scale array although no access of the command reads or writes it in a format with scales: its SCALE_ADDR must be 0
(R87). -/
def State.scaleBad (s : State) (x : Cmd) (t : List OpEnt) : Bool :=
  ((natsFrom 0 t.length).zip t).any fun p =>
    let byRole :=
      if p.2.role = 0 then (x.op == 1 || x.op == 3) && codeScales x.fmtX
      else if p.2.role = 1 then x.op == 1 && codeScales x.fmtW
      else if p.2.role = 3 then (x.op == 1 || x.op == 3) && codeScales x.fmtC
      else false
    p.2.scale != 0 && !byRole &&
      !((s.vecProg x).any fun i => (i.op == 1 || i.op == 2) && i.opnd == p.1 && codeScales i.fmt)

/-- One access of a program fits its entry; accesses that R79 refuses are left to it, and rows that GATHER or SCATTER names are checked as
their indices are read, since the decoder issues no operand access (R88, log 78). -/
def accessOk (x : Cmd) (t : List OpEnt) (extra : Nat) (a : VIns × Nat) : Bool :=
  match t[a.1.opnd]?, Fmt.ofCode a.1.fmt with
  | some e, some f =>
    let rows := a.2 + extra
    let out := e.role == 3 || e.role == 7
    let gathered := (a.1.op == 1 && e.role == 0 && decide (roleCount 4 t ≠ 0)) ||
      (a.1.op == 2 && e.role == 3 && decide (roleCount 5 t ≠ 0))
    if (a.1.op = 1 ∧ (out ∨ e.role = 4 ∨ e.role = 5)) ∨ (a.1.op = 2 ∧ !out) then true
    else if gathered then (a.1.op == 1 || offsetOk f a.1.imm)
    else e.fits (rowExtent f e.stride rows a.1.imm x.fN) &&
      (a.1.op == 1 || (offsetOk f a.1.imm && directOk e f rows a.1.imm x.fN))
  | _, _ => true

/-- Counts, roles, alignment and extents (R85 to R88): some rule is broken. -/
def State.badOperands (s : State) (x : Cmd) : Bool :=
  let t := s.optab x
  let m := x.fM
  let n := x.fN
  let al := decide (x.optabAddr % 64 ≠ 0) || decide (x.progAddr % 64 ≠ 0) || (x.progLen == 0 && x.progAddr != 0) ||
    (decide (x.op ≥ 3) && x.progLen != 0)
  let zero := if x.op = 5 then m != 0 || n != 0 || x.fK != 0 else m == 0 || n == 0 || (x.op == 1 && x.fK == 0)
  let ext :=
    match roleOf 0 t, roleOf 3 t with
    | some ex, some ec =>
      let fx := (Fmt.ofCode x.fmtX).getD .fp32
      let fc := (Fmt.ofCode x.fmtC).getD .fp32
      if x.op = 1 then
        let fw := (Fmt.ofCode x.fmtW).getD .fp32
        let one (role bytes : Nat) : Bool := match roleOf role t with | some e => e.fits bytes | none => true
        (roleCount 4 t != 0 || ex.fits (rowExtent fx ex.stride m 0 x.fK)) &&
        (match roleOf 1 t with | some ew => ew.fits (rowExtent fw ew.stride n 0 x.fK) | none => true) &&
        (roleCount 5 t != 0 || (ec.fits (rowExtent fc ec.stride m 0 n) && directOk ec fc m 0 n)) &&
        one 2 (4 * n) && one 4 (4 * m) && one 5 (4 * m)
      else if x.op = 3 then
        ex.fits (rowExtent fx ex.stride m 0 n) && ec.fits (rowExtent fc ec.stride m 0 n) && directOk ec fc m 0 n
      else if x.op = 4 then
        let nb := if m = 0 then 0 else (m - 1) * ex.stride + n
        ex.fits nb && ec.fits (if m = 0 then 0 else (m - 1) * ec.stride + n) &&
        (ec.space == 1 || inRange (ec.addr + (m - 1) * ec.stride) n)
      else true
    | _, _ => true
  let acc := (progAccesses 0 1 (s.vecProg x)).all (accessOk x t (if x.op = 1 then m - 1 else 0))
  al || zero || !countOk x.op x.optabCount || s.optabBad x || !rolesOk x.op t || s.scaleBad x t || !ext || !acc

/-- Reserved bits of a COMPUTE descriptor (R82). -/
def computeReserved (x : Cmd) : Bool := decide (x.flags / 8 ≠ 0) || decide (x.fld 3 49 15 ≠ 0)

/-- The checks of R88 for a COMPUTE descriptor. -/
def computeChecks (c : Nat) (s : State) (x : Cmd) : Checks :=
  { first := 0
    reserved := computeReserved x
    range := decide (x.fM ≥ 2 ^ 24) || decide (x.fN ≥ 2 ^ 24) || decide (x.fK ≥ 2 ^ 24)
    mid := 0
    rest :=
      if s.badFormats x || s.progBadFormat x then St.badFormat
      else if s.tableStatus x ≠ St.ok then s.tableStatus x
      else if s.badOperands x then St.badOperand
      else if !progOk (s.optab x) (s.vecProg x) then St.badProg
      else if s.tooLarge c x.lodge (s.optab x) then St.commitTooLarge
      else if (s.core c).quarantined then St.coreQuarantined
      else St.ok }

/-! ## Runs -/

/-- DIRECT bytes that a command wrote before it ended without a commit are undefined (R84). -/
def State.scrambleStores (s : State) (lodge : Nat) (l : List Store) : State :=
  (directOf l).foldl (fun s w => s.scramble lodge w.1 w.2.length) s

/-- The end of a run: an execution fault or a late BAD_OPERAND ends the command (R88); else the outputs go to FENCE. -/
def State.endRun (s : State) (c p : Nat) (j : Job) (r : RunOut) : State :=
  let st := firstBad [r.fault, s.stageStatus c j.cmd.lodge r.stores]
  let s := (s.touchReads j.cmd.lodge r.reads).bump Reg.cmpFmtExcCount r.bad c
  if st ≠ 0 then (s.scrambleStores j.cmd.lodge r.stores).endJob c p j st else s.outputs c p j r.stores r.flags 0

/-- The tables that a command reads: operand table and vector program (R177). -/
def Cmd.tableReads (c : Cmd) : List (Nat × Nat) := [(c.optabAddr, 32 * c.optabCount), (c.progAddr, 8 * c.progLen)]

/-- A compute command begins, runs and leaves its scratchpads (R75, R93). -/
def State.runCompute (s : State) (c : Nat) (j : Job) (body : State → Job → RunOut) : State :=
  let s := s.beginCompute c j
  let j := { j with optab := s.optab j.cmd }
  let r := body s j
  ((s.endRun c 0 j { r with reads := j.cmd.tableReads ++ r.reads }).dieReads c j.cmd.lodge r.reads).leaveScratch c

/-- Rows of an operand read in full: their data, reads and status. -/
def State.readRow (s : State) (c lodge : Nat) (e : OpEnt) (f : Fmt) (r n : Nat) : RowData × RunOut :=
  let st := s.rowStatus c lodge e f r 0 n
  if st ≠ St.ok then (⟨[], []⟩, RunOut.failed st)
  else
    let d := s.rowData c lodge e f r 0 n
    (d, ⟨[], 0, d.badTernary f, rowReads e f r 0 n, 0⟩)

/-- One output element: the level-6 result over the full K (R30, R64, R86). -/
def dotRow (fx fw : Fmt) (k : Nat) (x w : RowData) : Fl F32 :=
  contract k fun i => dotProd (decodeNum fx (x.elems.getD i 0) (x.scales.getD i 0)) (decodeNum fw (w.elems.getD i 0) (w.scales.getD i 0))

/-- BIAS: N FP32 values (DEDUCED: the spec names no format), added to the level-6 result with one rounding. -/
def State.biasRow (s : State) (c lodge : Nat) (t : List OpEnt) (n : Nat) (vals : List F32) : Fl (List F32) :=
  match roleOf 2 t with
  | some e => Fl.zipList add32 vals ((natsFrom 0 n).map fun i => BitVec.ofNat 32 (leNat (s.opBytes c lodge e.space (e.addr + 4 * i) 4)))
  | none => Fl.pure vals

/-- Reading BIAS. -/
def State.biasStatus (s : State) (c lodge : Nat) (t : List OpEnt) (n : Nat) : RunOut :=
  match roleOf 2 t with
  | some e =>
    ⟨[], 0, 0, if e.space = 0 then [(e.addr, 4 * n)] else [], s.opStatus c lodge e.space e.addr (4 * n) false⟩
  | none => RunOut.none

/-- The index of row `m` through GATHER or SCATTER, with the reading of it; an index past the buffer, or of a DIRECT row outside the lodge's own
range, is BAD_OPERAND (R88, R82). -/
def State.readIndex (s : State) (c lodge : Nat) (t : List OpEnt) (role m : Nat) (target : OpEnt) (f : Fmt) (n : Nat) :
    Nat × RunOut :=
  match roleOf role t with
  | none => (m, RunOut.none)
  | some e =>
    let st := s.opStatus c lodge e.space (e.addr + 4 * m) 4 false
    let r := s.indexAt c lodge e m
    if st ≠ St.ok then (0, RunOut.failed st)
    else if !target.fits (r * target.stride + rowBytes f n) || (role == 5 && !directOk target f (r + 1) 0 n) then
      (0, RunOut.failed St.badOperand)
    else (r, ⟨[], 0, 0, if e.space = 0 then [(e.addr + 4 * m, 4)] else [], 0⟩)

/-- The epilogue of row `m` (R86, R501, R502): the row enters and leaves in V0 (DESIGN CHOICE: the spec names no register). -/
def State.epilogue (s : State) (c lodge : Nat) (t : List OpEnt) (prog : List VIns) (m n : Nat) (vals : List F32) :
    List F32 × RunOut :=
  if prog.isEmpty then (vals, RunOut.none)
  else
    let u := VecUnit.fresh n m
    let v := VecUnit.run s ⟨c, lodge, t⟩ prog progFuel { u with regs := Tbl.set (List.replicate n 0) 0 vals u.regs }
    (v.lanes 0, ⟨v.outStores, v.flags, v.badTernary, v.loads, v.fault⟩)

/-- Where row `m` of X is read and row `m` of C is written, with the reading of both indices. -/
def State.rowPlace (s : State) (c : Nat) (j : Job) (ex ec : OpEnt) (fx fc : Fmt) (m : Nat) : (Nat × Nat) × RunOut :=
  let (xr, a) := s.readIndex c j.cmd.lodge j.optab 4 m ex fx j.cmd.fK
  let (cr, b) := s.readIndex c j.cmd.lodge j.optab 5 m ec fc j.cmd.fN
  ((xr, cr), a.join b)

/-- One output row of a MATMUL: row `m`, X row `xr`, C row `cr`. -/
def State.matmulRow (s : State) (c : Nat) (j : Job) (ex ec : OpEnt) (fx fw fc : Fmt) (ws : List RowData) (prog : List VIns)
    (m xr cr : Nat) : RunOut :=
  let l := j.cmd.lodge
  let n := j.cmd.fN
  let (x, d) := s.readRow c l ex fx xr j.cmd.fK
  if d.fault ≠ 0 then d
  else
    let raw := (Fl.mapList (dotRow fx fw j.cmd.fK x) ws).bind (s.biasRow c l j.optab n)
    let (vals, e) := s.epilogue c l j.optab prog m n raw.val
    let enc := encodeRow fc vals
    let sts := rowStores ec fc cr 0 enc.val
    let st := firstBad (sts.map fun x => s.opStatus c l x.space x.addr x.bytes.length true)
    ((d.join ⟨[], raw.fl, 0, [], 0⟩).join e).join ⟨sts, enc.fl, 0, [], st⟩

/-- MATMUL (R86): every index of GATHER and SCATTER is read and checked before any row is written (R88). -/
def State.matmul (s : State) (c : Nat) (j : Job) : RunOut :=
  match roleOf 0 j.optab, roleOf 1 j.optab, roleOf 3 j.optab, Fmt.ofCode j.cmd.fmtX, Fmt.ofCode j.cmd.fmtW, Fmt.ofCode j.cmd.fmtC with
  | some ex, some ew, some ec, some fx, some fw, some fc =>
    let places := (natsFrom 0 j.cmd.fM).map (s.rowPlace c j ex ec fx fc)
    let ws := (natsFrom 0 j.cmd.fN).map fun n => s.readRow c j.cmd.lodge ew fw n j.cmd.fK
    let w := (places.map (·.2)).foldl RunOut.join RunOut.none
    let w := if w.fault ≠ 0 then w else (ws.map (·.2)).foldl RunOut.join w
    let w := w.join (s.biasStatus c j.cmd.lodge j.optab j.cmd.fN)
    if w.fault ≠ 0 then w
    else
      let prog := s.vecProg j.cmd
      ((natsFrom 0 j.cmd.fM).zip (places.map (·.1))).foldl (fun o p =>
        if o.fault ≠ 0 then o else o.join (s.matmulRow c j ex ec fx fw fc (ws.map (·.1)) prog p.1 p.2.1 p.2.2)) w
  | _, _, _, _, _, _ => RunOut.failed St.badOperand

/-- VECTOR (R86): one run of the program, base row 0 (R502). -/
def State.vector (s : State) (c : Nat) (j : Job) : VecUnit :=
  VecUnit.run s ⟨c, j.cmd.lodge, j.optab⟩ (s.vecProg j.cmd) progFuel (VecUnit.fresh j.cmd.fN 0)

/-- What a run of the vector unit came to. -/
def VecUnit.out (v : VecUnit) : RunOut := ⟨v.outStores, v.flags, v.badTernary, v.loads, v.fault⟩

/-- A blocked or integer row to BF16: element × scale, rounded once (R62). -/
def RowData.toBf16 (d : RowData) (f : Fmt) : Fl (List Nat) :=
  Fl.zipList (fun e sc => (decodeNum f e sc).bind (roundNum fmtBf16)) d.elems d.scales

/-- One row converted (R62): from blocked formats to BF16 with one rounding, every other pair through FP32, which is exact or
itself the target. -/
def convertRow (fx fc : Fmt) (d : RowData) : Fl (List Byte × List Byte) :=
  if fx.blocked ∧ fc = .bf16 then (d.toBf16 fx).map fun cs => (packElems fc cs, [])
  else if fx = .bf16 ∧ fc = .fp32 then (d.to32 fx).map fun v => (v.flatMap fun x => leBytes 4 x.toNat, [])
  else (d.to32 fx).bind (encodeRow fc)

/-- A row copied bit-exactly with its scales (R62): the stored bytes; the indices of the last block at or above N get code 0, as in every
row the device writes (R49). -/
def copyRow (f : Fmt) (d : RowData) : List Byte × List Byte :=
  (packElems f (d.elems ++ List.replicate (if f.blocked then (32 - d.elems.length % 32) % 32 else 0) 0),
   if f.blocked then (chunks 32 d.scales).map fun g => BitVec.ofNat 8 (g.headD 0)
       else if f = .int8s ∨ f = .int4s then leBytes 4 (d.scales.headD 0) else [])

/-- The stores of a row copied bit-exactly. -/
def copyStores (e : OpEnt) (r : Nat) (d : List Byte × List Byte) : List Store :=
  ⟨e.space, e.addr + r * e.stride, d.1⟩ ::
    (if d.2 = [] then [] else [⟨e.space, e.scale + r * e.sstride, d.2⟩])

/-- One row of a CONVERT (R86). -/
def State.convRow (s : State) (c : Nat) (j : Job) (ex ec : OpEnt) (fx fc : Fmt) (r : Nat) : RunOut :=
  let l := j.cmd.lodge
  let (d, a) := s.readRow c l ex fx r j.cmd.fN
  if a.fault ≠ 0 then a
  else
    let (sts, fl) : List Store × Flags :=
      if fx = fc then
        (copyStores ec r (copyRow fx d), 0)
      else
        let x := convertRow fx fc d
        (rowStores ec fc r 0 x.val, x.fl)
    let st := firstBad (sts.map fun x => s.opStatus c l x.space x.addr x.bytes.length true)
    { a with bad := if fx = fc then 0 else a.bad }.join ⟨sts, fl, 0, [], st⟩

/-- CONVERT (R86). -/
def State.convert (s : State) (c : Nat) (j : Job) : RunOut :=
  match roleOf 0 j.optab, roleOf 3 j.optab, Fmt.ofCode j.cmd.fmtX, Fmt.ofCode j.cmd.fmtC with
  | some ex, some ec, some fx, some fc =>
    (natsFrom 0 j.cmd.fM).foldl (fun o r => if o.fault ≠ 0 then o else o.join (s.convRow c j ex ec fx fc r)) RunOut.none
  | _, _, _, _ => RunOut.failed St.badOperand

/-- COPY (R86, R51): M rows of N bytes. -/
def State.copyRows (s : State) (c : Nat) (j : Job) : RunOut :=
  match roleOf 0 j.optab, roleOf 3 j.optab with
  | some ex, some ec =>
    let l := j.cmd.lodge
    let n := j.cmd.fN
    (natsFrom 0 j.cmd.fM).foldl (fun o r =>
      if o.fault ≠ 0 then o
      else
        let a := ex.addr + r * ex.stride
        let b := ec.addr + r * ec.stride
        o.join ⟨[⟨ec.space, b, s.opBytes c l ex.space a n⟩], 0, 0, if ex.space = 0 then [(a, n)] else [],
          firstBad [s.opStatus c l ex.space a n false, s.opStatus c l ec.space b n true]⟩) RunOut.none
  | _, _ => RunOut.failed St.badOperand

/-- The vector unit as a run of a VECTOR program leaves it. -/
def State.keepVec (s : State) (c : Nat) (v : VecUnit) : State :=
  s.modCore c fun k => { k with vec := { v with stores := [], loads := [], badTernary := 0, fault := 0 } }

/-! ## The commands -/

/-- The outcome of a row that always goes on. -/
abbrev Out := Host.Outcome State Fault Refusal

/-- MATMUL (R86). -/
def execMatmul (core : Fin 160) (s : State) : Out :=
  .next (s.runSlot core 0 2 0x01 (computeChecks core) fun s j => s.runCompute core j fun s j => s.matmul core j).choices

/-- VECTOR (R86, R501, R502). -/
def execVector (core : Fin 160) (s : State) : Out :=
  .next (s.runSlot core 0 2 0x02 (computeChecks core) fun s j =>
    let v := s.vector core { j with optab := s.optab j.cmd }
    (s.runCompute core j fun _ _ => v.out).keepVec core v).choices

/-- CONVERT (R86, R62). -/
def execConvert (core : Fin 160) (s : State) : Out :=
  .next (s.runSlot core 0 2 0x03 (computeChecks core) fun s j => s.runCompute core j fun s j => s.convert core j).choices

/-- COPY (R86, R51). -/
def execCopy (core : Fin 160) (s : State) : Out :=
  .next (s.runSlot core 0 2 0x04 (computeChecks core) fun s j => s.runCompute core j fun s j => s.copyRows core j).choices

/-- SIGNAL (R86): nothing but its signals at the commit point. -/
def execSignal (core : Fin 160) (s : State) : Out :=
  .next (s.runSlot core 0 2 0x05 (computeChecks core) fun s j => s.runCompute core j fun _ _ => RunOut.none).choices

/-! ## The vector instructions (R78) -/

/-- NOP. -/
def execVectorNop (core : Fin 160) (s : State) : Out := .next (s.vecIssue core ⟨0x00, 0, 0, 0, 0, 0, 0, 0⟩)
/-- LD. -/
def execLd (core : Fin 160) (reg : Fin 32) (fmt opnd : Fin 16) (imm : Nat) (s : State) : Out :=
  .next (s.vecIssue core ⟨0x01, reg, 0, 0, 0, fmt, opnd, imm⟩)
/-- ST. -/
def execSt (core : Fin 160) (reg : Fin 32) (fmt opnd : Fin 16) (imm : Nat) (s : State) : Out :=
  .next (s.vecIssue core ⟨0x02, reg, 0, 0, 0, fmt, opnd, imm⟩)
/-- ADD. -/
def execAdd (core : Fin 160) (dst a b : Fin 32) (s : State) : Out := .next (s.vecIssue core ⟨0x03, dst, a, b, 0, 0, 0, 0⟩)
/-- MUL. -/
def execMul (core : Fin 160) (dst a b : Fin 32) (s : State) : Out := .next (s.vecIssue core ⟨0x04, dst, a, b, 0, 0, 0, 0⟩)
/-- FMA. -/
def execFma (core : Fin 160) (dst a b c : Fin 32) (s : State) : Out := .next (s.vecIssue core ⟨0x05, dst, a, b, c, 0, 0, 0⟩)
/-- MAX. -/
def execMax (core : Fin 160) (dst a b : Fin 32) (s : State) : Out := .next (s.vecIssue core ⟨0x06, dst, a, b, 0, 0, 0, 0⟩)
/-- MIN. -/
def execMin (core : Fin 160) (dst a b : Fin 32) (s : State) : Out := .next (s.vecIssue core ⟨0x07, dst, a, b, 0, 0, 0, 0⟩)
/-- RECIP. -/
def execRecip (core : Fin 160) (dst a : Fin 32) (s : State) : Out := .next (s.vecIssue core ⟨0x08, dst, a, 0, 0, 0, 0, 0⟩)
/-- RSQRT. -/
def execRsqrt (core : Fin 160) (dst a : Fin 32) (s : State) : Out := .next (s.vecIssue core ⟨0x09, dst, a, 0, 0, 0, 0, 0⟩)
/-- SQRT. -/
def execSqrt (core : Fin 160) (dst a : Fin 32) (s : State) : Out := .next (s.vecIssue core ⟨0x0A, dst, a, 0, 0, 0, 0, 0⟩)
/-- DIV. -/
def execDiv (core : Fin 160) (dst a b : Fin 32) (s : State) : Out := .next (s.vecIssue core ⟨0x0B, dst, a, b, 0, 0, 0, 0⟩)
/-- EXP. -/
def execExp (core : Fin 160) (dst a : Fin 32) (s : State) : Out := .next (s.vecIssue core ⟨0x0C, dst, a, 0, 0, 0, 0, 0⟩)
/-- LOG. -/
def execLog (core : Fin 160) (dst a : Fin 32) (s : State) : Out := .next (s.vecIssue core ⟨0x0D, dst, a, 0, 0, 0, 0, 0⟩)
/-- EXP2. -/
def execExp2 (core : Fin 160) (dst a : Fin 32) (s : State) : Out := .next (s.vecIssue core ⟨0x0E, dst, a, 0, 0, 0, 0, 0⟩)
/-- LOG2. -/
def execLog2 (core : Fin 160) (dst a : Fin 32) (s : State) : Out := .next (s.vecIssue core ⟨0x0F, dst, a, 0, 0, 0, 0, 0⟩)
/-- RSUM (R80). -/
def execRsum (core : Fin 160) (dst a : Fin 32) (s : State) : Out := .next (s.vecIssue core ⟨0x10, dst, a, 0, 0, 0, 0, 0⟩)
/-- RMAX. -/
def execRmax (core : Fin 160) (dst a : Fin 32) (s : State) : Out := .next (s.vecIssue core ⟨0x11, dst, a, 0, 0, 0, 0, 0⟩)
/-- SEL. -/
def execSel (core : Fin 160) (dst a b c : Fin 32) (s : State) : Out := .next (s.vecIssue core ⟨0x12, dst, a, b, c, 0, 0, 0⟩)
/-- ROT. -/
def execRot (core : Fin 160) (dst a b c : Fin 32) (s : State) : Out := .next (s.vecIssue core ⟨0x13, dst, a, b, c, 0, 0, 0⟩)
/-- TOPK. -/
def execTopk (core : Fin 160) (dst a : Fin 32) (imm : Nat) (s : State) : Out :=
  .next (s.vecIssue core ⟨0x14, dst, a, 0, 0, 0, 0, imm⟩)
/-- BCAST. -/
def execBcast (core : Fin 160) (dst : Fin 32) (imm : Nat) (s : State) : Out :=
  .next (s.vecIssue core ⟨0x15, dst, 0, 0, 0, 0, 0, imm⟩)
/-- LOOP. -/
def execLoop (core : Fin 160) (imm : Nat) (s : State) : Out := .next (s.vecIssue core ⟨0x16, 0, 0, 0, 0, 0, 0, imm⟩)
/-- END. -/
def execEndLoop (core : Fin 160) (s : State) : Out := .next (s.vecIssue core ⟨0x17, 0, 0, 0, 0, 0, 0, 0⟩)

end Sys2Proof.Machine
end

