-- ==== Sys2Proof/Machine/MigOps.lean ====
section
/-!
DEFINITION. Pages in motion: pins (R105, R195), migration engines (R176 to R181), promotion and demotion (R178), harvest prefetch
and release (R183, R184).
-/

namespace Sys2Proof.Machine

/-- Migration engines (R179). -/
def engines : Nat := 8

/-- Migration is active: stage 4 with MIGRATE_EN (R179). -/
def State.migrateOn (s : State) : Bool := s.stage == 4 && s.on Reg.memCtrlMigrateEn

/-- An engine can take up a migration: it is free, and migration is active (R179). -/
def State.engineFree (s : State) : Bool := s.migrateOn && decide (s.mem.migr.length < engines)

/-- A command or an attention request pins the page. -/
def State.pinned (s : State) (k : Nat) : Bool :=
  (s.jobs.any fun j => j.2.2.pins.contains k) || s.att.queue.any fun q => q.pins.contains k

/-- The page is on its way somewhere. -/
def State.migrating (s : State) (k : Nat) : Bool := (Tbl.find k s.mem.migr).isSome

/-- The lodge of a page key. -/
def keyLodge (k : Nat) : Nat := k / 2 ^ 27

/-- A page that counter migration may move (R178): TIER 0, unlocked, not pinned, not moving. -/
def State.mobile (s : State) (k : Nat) (p : Page) : Bool :=
  p.pref == 0 && !p.lock && !s.pinned k && !s.migrating k

/-- Start moving a page to a frame. -/
def State.startMigr (s : State) (k tier frame : Nat) (hv next : Option Nat) : State :=
  { s with mem := { s.mem with migr := Tbl.put k ⟨tier, frame, 0, hv, next⟩ s.mem.migr } }

/-- The lodge's coldest eligible T1 page, not a harvest page (R178); of pages equally cold the lower one (DESIGN CHOICE, log 129: R178 orders
candidates for promotion only). -/
def State.coldest (s : State) (l : Nat) : Option (Nat × Page) :=
  (s.mem.pages.filter fun e => keyLodge e.1 == l && e.2.tier == 1 && e.2.harvest.isNone && s.mobile e.1 e.2).foldl
    (fun b e => match b with
      | none => some e
      | some x => if e.2.count < x.2.count then some e else some x) none

/-- Where a demotion goes: T2, else T3 (R178). -/
def State.demoteTo (s : State) (l : Nat) : Option (Nat × Nat) :=
  match s.obtain l 2 with
  | some f => some (2, f)
  | none => (s.obtain l 3).map fun f => (3, f)

/-- The hottest candidate for promotion (R178); ties to the lower lodge and page. -/
def State.hottest (s : State) : Option (Nat × Page) :=
  (s.mem.pages.filter fun e => e.2.tier != 1 && decide (s.rd Reg.memMigCfgPromoteMin ≤ e.2.count) && s.mobile e.1 e.2 &&
    !s.mem.awaiting.contains e.1).foldl
    (fun b e => match b with
      | none => some e
      | some x => if x.2.count < e.2.count then some e else some x) none

/-- One choice of R178. -/
def State.promote (s : State) : State :=
  if s.engineFree then
    match s.hottest with
    | none => s
    | some (k, p) =>
      let l := keyLodge k
      match s.obtain l 1 with
      | some f => s.startMigr k 1 f none none
      | none =>
        match s.coldest l with
        | none => s
        | some (v, q) =>
          if q.count + s.rd Reg.memMigCfgHyst < p.count then
            match s.demoteTo l with
            | some (t, f) => s.startMigr v t f none (some k)
            | none => s
          else s
  else s

/-- R176: a lodge whose T1 USE is above its LIMIT loses its coldest eligible page, one engine at a time. -/
def State.shrinkT1 (s : State) : State :=
  (natsFrom 0 16).foldl (fun s l =>
    let leaving := (s.mem.migr.filter fun e => keyLodge e.1 == l && e.2.tier != 1).length
    if s.engineFree ∧ s.rd Reg.memLimFrames l 0 < s.tierUse l 1 - leaving then
      match s.coldest l, s.demoteTo l with
      | some (k, _), some (t, f) => s.startMigr k t f none none
      | _, _ => s
    else s) s

/-- Pages that jobs pin for near-bank work and that are not in T1 and not moving there: they are migrated in (R105). -/
def State.pinWants (s : State) : List Nat :=
  (((s.jobs.filter fun j => j.2.2.st == .wait && j.2.2.cmd.klass == 3 && decide (j.2.2.cmd.op ≥ 0x20)).flatMap fun j =>
    j.2.2.pins) ++ s.att.queue.flatMap (·.pins)).filter fun k => !s.migrating k && (match Tbl.find k s.mem.pages with | some p => p.tier != 1 | none => false)

/-- The lowest T1 frame the lodge can obtain, in one stack where `want` names it. -/
def State.obtainT1 (s : State) (l : Nat) (want : Option Nat) : Option Nat :=
  match s.obtain l 1, want with
  | some f, none => some f
  | some f, some st =>
    if stackOf f = st then some f
    else (natsFrom (st * 32768) 32768).find? fun g => bitAt st (s.rd Reg.nbuSelftestPass) && !(s.framesUsed 1).contains g
  | none, _ => none

/-- The stack a row program's window must share: that of its first page in T1 (R120). -/
def State.windowStack (s : State) (k : Nat) : Option Nat :=
  (s.jobs.find? fun j => j.2.2.cmd.klass == 3 && j.2.2.cmd.op == 0x28 && j.2.2.pins.contains k).bind fun j =>
    j.2.2.pins.findSome? fun q => (Tbl.find q s.mem.pages).bind fun p => if p.tier = 1 then some (stackOf p.frame) else none

/-- Migrations that pins wait for (R105). -/
def State.startPins (s : State) : State :=
  s.pinWants.foldl (fun s k =>
    if s.engineFree && !s.migrating k then
      match s.obtainT1 (keyLodge k) (s.windowStack k) with
      | some f => s.startMigr k 1 f none none
      | none => s
    else s) s

/-- Harvest frames a lodge holds (R183). -/
def State.harvestFrames (s : State) (l : Nat) : Nat :=
  (s.mem.pages.filter fun e => keyLodge e.1 == l && e.2.harvest.isSome).length +
  (s.mem.migr.filter fun e => keyLodge e.1 == l && e.2.harvest.isSome).length

/-- A prefetch may start now: the page is still eligible and the lodge has a harvest frame free within its LIMIT (R183). -/
def State.prefetchable (s : State) (k : Nat) : Bool :=
  match Tbl.find k s.mem.pages with
  | some p => !p.lock && p.tier != 1 && !s.pinned k && !s.migrating k
  | none => false

/-- Start waiting prefetches while engines are free, in order (R179, R183). -/
def State.startPrefetch (s : State) : State :=
  let x := s.mem.prefetch.foldl (fun (a : State × List (Nat × Nat)) e =>
    let s := a.1
    if !s.prefetchable e.1 then a
    else if s.engineFree && s.on Reg.memCtrlHarvestEn &&
        decide (s.harvestFrames (keyLodge e.1) < s.rd Reg.memLodgeCfgHarvestPages (keyLodge e.1)) then
      match s.obtain (keyLodge e.1) 1 with
      | some f => (s.startMigr e.1 1 f (some e.2) none, a.2)
      | none => (s, a.2 ++ [e])
    else (s, a.2 ++ [e])) (s, [])
  { x.1 with mem := { x.1.mem with prefetch := x.2 } }

/-- Demote a written harvest page to its kept source frame (R184). -/
def State.demoteHarvest (s : State) (k : Nat) : State :=
  match Tbl.find k s.mem.pages with
  | some p =>
    match p.harvest with
    | some (_, t, f) =>
      let s := { s with mem := { s.mem with pages := Tbl.put k { p with harvest := none } s.mem.pages } }
      s.startMigr k t f none none
    | none => s
  | none => s

/-- Demotions that waited for an engine. -/
def State.startDemotes (s : State) : State :=
  s.mem.demote.foldl (fun s k =>
    if s.engineFree && !s.pinned k && !s.migrating k then
      ({ s with mem := { s.mem with demote := s.mem.demote.filter (· ≠ k) } } : State).demoteHarvest k
    else s) s

/-- A page that EMB_PREFETCH may promote (R264). -/
def State.embMobile (s : State) (k : Nat) : Bool :=
  match Tbl.find k s.mem.pages with | some p => p.tier != 1 && s.mobile k p | none => false

/-- Promote one page for EMB_PREFETCH; without a frame it is skipped and counted (R264). -/
def State.embPromote (s : State) (k : Nat) : State :=
  if !s.embMobile k then s
  else match s.obtain (keyLodge k) 1 with
    | some f => s.startMigr k 1 f none none
    | none => s.bump Reg.embPfSkipCount

/-- Promotions of EMB_PREFETCH that waited for an engine. -/
def State.startProm (s : State) : State :=
  s.emb.prom.foldl (fun s k =>
    if s.engineFree then ({ s with emb := { s.emb with prom := s.emb.prom.filter (· ≠ k) } } : State).embPromote k else s) s

/-- Abandon a migration (R180): the destination frame is released; cause 0 pin, 1 unmap or change of attribute, 2 error. -/
def State.abortMigr (s : State) (k cause : Nat) : State :=
  match Tbl.find k s.mem.migr with
  | none => s
  | some m =>
    let src := (Tbl.find k s.mem.pages).map (·.tier)
    let s := { s with mem := { s.mem with migr := Tbl.del k s.mem.migr } }
    let s := (s.release m.tier m.frame).bump Reg.memMigAbortCount
    s.trace 0x81 (keyLodge k) 0xFF (k % 2 ^ 27 + src.getD 0 * 2 ^ 32 + m.tier * 2 ^ 34 + cause * 2 ^ 36) 0

/-- A promotion waits for the T1 frame that its demotion releases (R178). -/
def State.awaitFrame (s : State) (k : Option Nat) : State :=
  { s with mem := { s.mem with awaiting := match k with | some c => s.mem.awaiting.filter (· != c) ++ [c] | none => s.mem.awaiting } }

/-- Cutover (R181): the page table entry switches; the source is zeroed and released, or kept for a harvest page (R184). -/
def State.cutover (s : State) (k : Nat) (m : Migr) (p : Page) : State :=
  let q := { p with tier := m.tier, frame := m.frame, dirty := false,
                    harvest := m.harvest.map fun h => (h, p.tier, p.frame) }
  let s := { s with mem := { s.mem with migr := Tbl.del k s.mem.migr, pages := Tbl.put k q s.mem.pages } }
  let s := if m.harvest.isSome then s else s.release p.tier p.frame
  let s := if m.tier = 1 then s.count Reg.memPromoteCount else if p.tier = 1 then s.count Reg.memDemoteCount else s
  s.awaitFrame m.next

/-- The count of the lodge's coldest ordinary T1 page (R184): any T1 page but a harvest page. -/
def State.coldestCount (s : State) (l : Nat) : Option Nat :=
  ((s.mem.pages.filter fun e => keyLodge e.1 == l && e.2.tier == 1 && e.2.harvest.isNone).map fun e => e.2.count).min?

/-- Release one harvest page (R184). In a lodge with no ordinary T1 page to compare with it reverts (DESIGN CHOICE, log 130: R184 names no
such case). -/
def State.releaseHarvest (s : State) (k : Nat) (p : Page) : State :=
  match p.harvest with
  | none => s
  | some (_, t, f) =>
    if p.dirty then
      if s.engineFree then s.demoteHarvest k
      else { s with mem := { s.mem with demote := s.mem.demote ++ [k] } }
    else
      let l := keyLodge k
      let hot := match s.coldestCount l with | some n => decide (n + s.rd Reg.memMigCfgHyst < p.count) | none => false
      if hot && (s.obtain l 1).isSome then
        let s := { s with mem := { s.mem with pages := Tbl.put k { p with harvest := none } s.mem.pages } }
        s.release t f
      else
        let q := { p with harvest := none, tier := t, frame := f }
        let s := { s with mem := { s.mem with pages := Tbl.put k q s.mem.pages } }
        s.release p.tier p.frame

/-- A release waits for a pin or a migration to end. -/
def State.leaveLater (s : State) (k : Nat) : State := { s with mem := { s.mem with leaving := sortDedup (k :: s.mem.leaving) } }

/-- Release pages of passed entries, in key order (R183); one that a command pins or an engine moves is released once that ends. -/
def State.releaseHarvests (s : State) : List Nat → State
  | [] => s
  | k :: r =>
    (if s.pinned k || s.migrating k then s.leaveLater k
     else match Tbl.find k s.mem.pages with
       | some p => s.releaseHarvest k p
       | none => s).releaseHarvests r

/-- Releases that waited for a pin or a migration are tried again. -/
def State.releaseLeft (s : State) : State :=
  ({ s with mem := { s.mem with leaving := [] } } : State).releaseHarvests s.mem.leaving

/-- A promotion waits no longer. -/
def State.dropAwaiting (s : State) (k : Nat) : State := { s with mem := { s.mem with awaiting := s.mem.awaiting.filter (· != k) } }

/-- Promotions whose T1 frame was still being zeroed (R178): they start once it can be obtained, and are given up when the page may move no
more or no T1 frame is being zeroed. -/
def State.startAwaited (s : State) : State :=
  s.mem.awaiting.foldl (fun s k =>
    if !s.embMobile k then s.dropAwaiting k
    else
      match s.obtain (keyLodge k) 1 with
      | some f => if s.engineFree then (s.dropAwaiting k).startMigr k 1 f none none else s
      | none => if s.mem.zeroing.any (·.1 == 1) then s else s.dropAwaiting k) s

/-- What waits for an engine, a frame, or the end of a pin is tried again: pins first, then harvest work, then promotions. -/
def State.retryMoves (s : State) : State := ((s.startPins.startDemotes).releaseLeft).startPrefetch.startProm.startAwaited

/-- An engine has fallen idle: what waits for it, then R176, then R178 (R179). -/
def State.idleEngine (s : State) : State := (s.retryMoves.shrinkT1).promote

/-! ## Near-bank pins (R105) -/

/-- A page lies in T1. -/
def State.inT1 (s : State) (k : Nat) : Bool :=
  match Tbl.find k s.mem.pages with | some p => p.tier == 1 && !s.migrating k | none => false

/-- Pin pages for near-bank work: a migration away from T1 is abandoned, one into T1 goes on (R180). -/
def State.abortForPins (s : State) : List Nat → State
  | [] => s
  | k :: r =>
    (match Tbl.find k s.mem.migr with
     | some m => if m.tier = 1 then s else s.abortMigr k 0
     | none => s).abortForPins r

/-- T1 frames that pinning would add to the lodge's USE. -/
def State.pinNeed (s : State) (ks : List Nat) : Nat :=
  (ks.filter fun k => match Tbl.find k s.mem.pages with
    | some p => p.tier != 1 && !(match Tbl.find k s.mem.migr with | some m => m.tier == 1 | none => false)
    | none => false).length

end Sys2Proof.Machine
end

