-- ==== Sys2Proof/Machine/NearBank.lean ====
section
/-!
DEFINITION. The near-bank units (R103 to R132): checks, pinning, products, element-wise work, normalisation sums, row programs
and their row words, refresh debt, temperature and the channel-group ramp.
-/

namespace Sys2Proof.Machine

/-! ## Descriptor fields (R130) -/

/-- SUBOP. -/
def Cmd.subop (c : Cmd) : Nat := c.fld 3 49 4
/-- PARAM. -/
def Cmd.param (c : Cmd) : Nat := c.fld 7 0 32
/-- PARAM as FP32. -/
def Cmd.paramF (c : Cmd) : F32 := BitVec.ofNat 32 c.param
/-- k of ROUTE and COMBINE (R114; for COMBINE DEDUCED from its matching ROUTE). -/
def Cmd.topK (c : Cmd) : Nat := bits 0 4 c.param

/-! ## Checks (R108 to R120, R132) -/

/-- K rounded up to a multiple of 32 (R110). -/
def pad32 (k : Nat) : Nat := ceilDiv k 32 * 32

/-- Bytes of X in an activation buffer (R110). -/
def actBytes (m k : Nat) : Nat := m * pad32 k * 2

/-- The activation buffer of a stack (R110). -/
def actRoom : Nat := 4194304

/-- FMT_C of near-bank results. -/
def nbOut (f : Nat) : Bool := f == 0 || f == 1

/-- Formats of a near-bank command that are not allowed (R108, R112, R113); a reserved code is refused in every opcode (R48). -/
def nbBadFormat (x : Cmd) : Bool :=
  match Fmt.ofCode x.fmtX, Fmt.ofCode x.fmtW, Fmt.ofCode x.fmtC with
  | some a, some _, some c =>
    if x.op = 0x20 then x.fmtX != 1 || !(x.fmtW == 4 || x.fmtW == 2 || x.fmtW == 3) || !nbOut x.fmtC
    else if x.op = 0x22 then !nbOut x.fmtX || x.fmtC != 0
    else if x.op = 0x21 then
      !nbOut x.fmtC || (x.subop == 7 && (a.blocked || !convOk a c)) || (x.subop == 5 && x.fmtC != 0)
    else false
  | _, _, _ => true

/-- Entries each opcode takes (R131). -/
def nbRoles (x : Cmd) (t : List OpEnt) : Bool :=
  let n (r : Nat) := roleCount r t
  let only (l : List Nat) : Bool := t.all fun e => l.contains e.role
  if x.op = 0x20 then n 0 == 1 && n 1 == 1 && n 3 == 1 && decide (n 4 ≤ 1) && decide (n 5 ≤ 1) && only [0, 1, 3, 4, 5]
  else if x.op = 0x21 then
    let w := if x.subop = 5 ∨ x.subop = 7 then 0 else 1
    let v := if x.subop = 4 ∨ x.subop = 6 then 1 else 0
    let g := if x.subop = 6 then 1 else 0
    n 0 == 1 && n 3 == 1 && n 1 == w && n 6 == v && n 4 == g && only [0, 1, 3, 4, 6]
  else if x.op = 0x22 then n 0 == 1 && n 3 == 1 && only [0, 3]
  else n 0 == 1 && n 6 == 1 && only [0, 6]

/-- Words of a row program (R118). -/
structure RowWord where
  /-- OP -/
  op : Nat
  /-- BANK_D -/
  bd : Nat
  /-- ROW_D -/
  rd : Nat
  /-- BANK_A -/
  ba : Nat
  /-- ROW_A -/
  ra : Nat
  /-- BANK_B -/
  bb : Nat
  /-- ROW_B -/
  rb : Nat
  deriving DecidableEq, Repr

/-- The fields of a row word (R118). -/
def RowWord.ofWord (w : Nat) : RowWord :=
  ⟨bits 0 4 w, bits 4 5 w, bits 9 15 w, bits 24 5 w, bits 29 15 w, bits 44 5 w, bits 49 15 w⟩

/-- Whether the operation uses D, A and B (R119). -/
def RowWord.uses (op : Nat) : Bool × Bool × Bool :=
  if op = 1 ∨ op = 7 then (true, true, false)
  else if op = 2 ∨ op = 3 then (true, false, false)
  else if op = 4 ∨ op = 5 ∨ op = 6 then (true, true, true)
  else (false, false, false)

/-- A word breaks R119 or R120 for a window of `n` pages. -/
def RowWord.bad (n : Nat) (w : RowWord) : Bool :=
  let (d, a, b) := RowWord.uses w.op
  let field (use : Bool) (bank row : Nat) : Bool := if use then decide (n ≤ row) else bank != 0 || row != 0
  decide (9 ≤ w.op) || field d w.bd w.rd || field a w.ba w.ra || field b w.bb w.rb

/-- Page count of a row program's window (DEDUCED: the bytes of the page list, eight to an address). -/
def windowCount (t : List OpEnt) : Nat := match roleOf 0 t with | some e => e.len / 8 | none => 0

/-- The window's page addresses. -/
def State.windowPages (s : State) (lodge : Nat) (t : List OpEnt) : List Nat :=
  match roleOf 0 t with
  | some e => (natsFrom 0 (e.len / 8)).map fun i => s.peekNat lodge (e.addr + 8 * i) 8
  | none => []

/-- The row program. -/
def State.rowProg (s : State) (x : Cmd) (t : List OpEnt) : List RowWord :=
  match roleOf 6 t with
  | some e => (natsFrom 0 x.progLen).map fun i => RowWord.ofWord (s.peekNat x.lodge (e.addr + 8 * i) 8)
  | none => []

/-- Reading the page list and the program at decode (R88, R120). -/
def State.rowTables (s : State) (x : Cmd) (t : List OpEnt) : Nat :=
  if x.op = 0x28 then
    firstBad ((t.filter fun e => e.role == 0 || e.role == 6).map fun e =>
      s.readStatus x.lodge e.addr (if e.role = 0 then e.len else 8 * x.progLen))
  else St.ok

/-- R120 over the whole program. -/
def rowProgBad (n : Nat) (l : List RowWord) : Bool := l.any (RowWord.bad n) || !(l.any (·.op == 8))

/-- The pages a near-bank command reads or writes (R105): mapped pages of its buffers, or the window of a row program. -/
def State.nearPages (s : State) (x : Cmd) (t : List OpEnt) : List Nat :=
  s.keysOf x.lodge (if x.op = 0x28 then (s.windowPages x.lodge t).map fun a => (a, 1) else x.bufferRanges t)

/-- A page that can never come into T1: locked in another tier (R173, R105). -/
def State.outsideT1 (s : State) (k : Nat) : Bool :=
  match Tbl.find k s.mem.pages with | some p => p.lock && p.tier != 1 | none => false

/-- An entry holds a scale array although the command reads or writes it in no format with scales: its SCALE_ADDR must be 0 (R87). -/
def nbScaleBad (x : Cmd) (t : List OpEnt) : Bool :=
  t.any fun e => e.scale != 0 && !(
    if e.role = 0 then x.op == 0x21 && codeScales x.fmtX
    else if e.role = 1 then (x.op == 0x20 || (x.op == 0x21 && x.subop != 4)) && codeScales x.fmtW
    else e.role == 6 && x.op == 0x21 && x.subop == 4 && codeScales x.fmtW)

/-- A row program names as D a stripe outside the 2^48 bytes of the lodge's own range (R120, R82). -/
def rowProgOutside (pages : List Nat) (l : List RowWord) : Bool :=
  l.any fun w => (RowWord.uses w.op).1 && (match pages[w.rd]? with | some a => !inRange a (2 ^ 21) | none => false)

/-- Sizes, alignment and extents (R88, R104, R109, R110, R114, R120). A size of 0 is refused only in a field that the opcode uses: M and K of
NB_NORMSUM, M, N and, for RMS_APPLY, K of NB_ELTWISE, none of NB_ROWPROG (DESIGN CHOICE, log 126). -/
def State.nbBadOperands (s : State) (x : Cmd) : Bool :=
  let t := s.optab x
  let m := x.fM
  let n := x.fN
  let k := x.fK
  let cnt := if x.op = 0x20 then decide (3 ≤ x.optabCount) && decide (x.optabCount ≤ 5)
    else if x.op = 0x21 then decide (2 ≤ x.optabCount) && decide (x.optabCount ≤ 5) else x.optabCount == 2
  let base := decide (x.optabAddr % 64 ≠ 0) || !cnt || s.optabBad x || t.any (fun e => e.space != 0 || e.staged) || !nbRoles x t ||
    nbScaleBad x t ||
    (if x.op = 0x28 then x.progLen == 0 || decide (4096 < x.progLen) else x.progLen != 0)
  let fx := (Fmt.ofCode x.fmtX).getD .fp32
  let fw := (Fmt.ofCode x.fmtW).getD .fp32
  let fc := (Fmt.ofCode x.fmtC).getD .fp32
  let fit (role bytes : Nat) : Bool := match roleOf role t with | some e => e.fits bytes | none => true
  let rows (role : Nat) (f : Fmt) (r w : Nat) : Bool :=
    match roleOf role t with | some e => e.fits (rowExtent f e.stride r 0 w) | none => true
  let out (f : Fmt) (w : Nat) : Bool :=
    match roleOf 3 t with | some e => rows 3 f m w && directOk e f m 0 w | none => true
  let rest :=
    if x.op = 0x20 then
      m == 0 || decide (256 < m) || n == 0 || k == 0 || decide (actRoom < actBytes m k) ||
      !((roleCount 4 t != 0 || rows 0 fx m k) && rows 1 fw n k && (roleCount 5 t != 0 || out fc n) && fit 4 (4 * m) && fit 5 (4 * m))
    else if x.op = 0x22 then m == 0 || k == 0 || !(rows 0 fx m k && out .fp32 (1 + x.subop))
    else if x.op = 0x21 then
      m == 0 || n == 0 || (x.subop == 4 && k == 0) ||
      (if x.subop = 5 then
        x.param / 16 != 0 || x.topK == 0 || decide (8 < x.topK) || decide (64 < n) || !(rows 0 fx m n && out .fp32 (2 * x.topK))
       else if x.subop = 6 then
        x.param / 16 != 0 || x.topK == 0 || decide (8 < x.topK) ||
        !(rows 1 fw m n && rows 6 .fp32 m x.topK && fit 4 (4 * m * x.topK) && out fc n)
       else
        !(rows 0 fx m n && (if x.subop = 4 then rows 1 .fp32 m 1 else rows 1 fw m n) && rows 6 fw 1 n && out fc n))
    else
      let pg := s.windowPages x.lodge t
      decide (windowCount t = 0) || decide (32768 < windowCount t) ||
      (match roleOf 0 t with | some e => decide (e.len % 8 ≠ 0) | none => true) || !fit 6 (8 * x.progLen) ||
      pg.any (fun a => decide (a % 2 ^ 21 ≠ 0)) || decide (1 < (s.stacksOf (s.nearPages x t)).length) ||
      rowProgOutside pg (s.rowProg x t)
  base || rest || (s.nearPages x t).any s.outsideT1

/-- Near-bank work is not available for the command (R132): ENABLE is 0, or a stack it touches failed its self-test. -/
def State.nbUnavailable (s : State) (x : Cmd) : Bool :=
  !s.on Reg.nbuCtrlEnable || (s.stacksOf (s.nearPages x (s.optab x))).any fun st => bitAt st (s.rd Reg.nbuSelftestFail)

/-- Reserved bits of a near-bank descriptor. -/
def nearReserved (x : Cmd) : Bool :=
  decide (x.flags / 4 ≠ 0) || decide (x.fld 3 53 11 ≠ 0) || decide (x.fld 7 32 32 ≠ 0) || ((x.op == 0x20 || x.op == 0x28) && x.subop != 0)

/-- The checks of R132 for a near-bank descriptor, up to pinning. -/
def nearChecks (c : Nat) (s : State) (x : Cmd) : Checks :=
  { first := if s.stage < 4 then St.notReady else St.ok
    reserved := nearReserved x
    range := decide (x.fM ≥ 2 ^ 9) || decide (x.fN ≥ 2 ^ 24) || decide (x.fK ≥ 2 ^ 24)
    mid := 0
    rest :=
      if (x.op = 0x21 ∧ 8 ≤ x.subop) ∨ (x.op = 0x22 ∧ 2 ≤ x.subop) then St.badOpcode
      else if nbBadFormat x then St.badFormat
      else if s.readStatus x.lodge x.optabAddr (32 * x.optabCount) ≠ St.ok ∧ x.optabCount ≠ 0 then
        s.readStatus x.lodge x.optabAddr (32 * x.optabCount)
      else if s.rowTables x (s.optab x) ≠ St.ok then s.rowTables x (s.optab x)
      else if s.nbBadOperands x then St.badOperand
      else if x.op = 0x28 ∧ rowProgBad (windowCount (s.optab x)) (s.rowProg x (s.optab x)) then St.badProg
      else if s.nbUnavailable x then St.nbUnavailable
      else if (s.core c).quarantined then St.coreQuarantined
      else St.ok }

/-! ## Waiting for pins and activation room (R105, R110) -/

/-- Stacks that hold a page of the command's W. -/
def State.wStacks (s : State) (j : Job) : List Nat :=
  match roleOf 1 j.optab with
  | some e => s.stacksOf (s.keysOf j.cmd.lodge (e.nearRanges j.cmd false))
  | none => []

/-- Near-bank commands now holding activation room, with the stacks. -/
def State.actHeld (s : State) (st : Nat) : Nat :=
  (s.jobs.filter fun j => j.2.2.abuf != 0 && (s.wStacks j.2.2).contains st).foldl (fun n j => n + j.2.2.abuf) 0

/-- Commands that a sequencer runs (R106). -/
def State.seqRuns (s : State) (st : Nat) : Nat :=
  (s.jobs.filter fun j => j.2.2.cmd.klass == 3 && decide (0x20 ≤ j.2.2.cmd.op) && decide (j.2.2.cmd.op < 0x30) && j.2.2.st == .run &&
    (s.stacksOf j.2.2.pins).contains st).length

/-- The sequencers of a near-bank command have room: each runs at most 16 commands (R106), and its X fits beside those of the commands already
running (R110). Until then it stays in WAIT. -/
def State.actFits (s : State) (j : Job) : Bool :=
  (!(j.cmd.klass == 3 && decide (0x20 ≤ j.cmd.op)) || (s.stacksOf j.pins).all fun st => decide (s.seqRuns st < 16)) &&
  (j.cmd.op != 0x20 || j.abuf != 0 ||
   (s.wStacks j).all fun st => decide (s.actHeld st + actBytes j.cmd.fM j.cmd.fK ≤ actRoom))

/-- Every pinned page lies in T1 (R105); near-memory commands need none there. -/
def State.pinsReady (s : State) (j : Job) : Bool :=
  !(j.cmd.klass == 3 && decide (j.cmd.op ≥ 0x20)) || j.pins.all s.inT1

/-- Leave WAIT for RUN when the wait is met, the pins are resident and X has room (R89, R105, R110). -/
def State.toRun (s : State) (c p : Nat) : State :=
  match s.job c p with
  | none => s
  | some j =>
    if j.st = .wait ∧ s.waitMet j.cmd ∧ s.pinsReady j ∧ s.actFits j then
      s.setJob c p { j with st := .run, since := s.now, abuf := if j.cmd.klass = 3 ∧ j.cmd.op = 0x20 then actBytes j.cmd.fM j.cmd.fK else 0 }
    else s

/-- A stack that holds one of the pages is suspended for temperature (R126). -/
def State.suspendedAt (s : State) (ks : List Nat) : Bool := (s.stacksOf ks).any fun st => bitAt st (s.rd Reg.nbuStatusSuspended)

/-- A stack the job works in is suspended. -/
def State.suspended (s : State) (j : Job) : Bool := s.suspendedAt j.pins

/-- Work in the stacks of pages brings all eight of their channel groups into near-bank work (R128; DEDUCED, log 128). -/
def State.rampAt (s : State) (ks : List Nat) : State :=
  { s with ramp := (s.stacksOf ks).foldl (fun t st => Tbl.set 0 st 8 t) s.ramp }

/-- While a command runs, the groups of its stacks are in. -/
def State.rampUp (s : State) (j : Job) : State := s.rampAt j.pins

/-- Pin the pages of a near-bank command whose checks have passed; a quota it would exceed ends it (R105). -/
def State.pinNear (s : State) (c p : Nat) (j : Job) (ks : List Nat) (run : State → Job → State) : State :=
  if s.rd Reg.memLimFrames j.cmd.lodge 0 < s.tierUse j.cmd.lodge 1 + s.pinNeed ks then s.refuse c p j St.t1Quota
  else if j.cmd.sched || j.reserved || s.hasRoom (s.cqOf j.cmd.ring) 1 then
    let s := if j.reserved || j.cmd.sched then s else s.reserve (s.cqOf j.cmd.ring)
    let s := s.abortForPins ks
    let j := { j with reserved := true, pins := ks, st := .wait, since := s.now }
    let s := ((s.setJob c p j).idleEngine).toRun c p
    match s.job c p with
    | some j => if j.st = .run then run s j else s
    | none => s
  else if j.stalled then s
  else (s.setJob c p { j with stalled := true }).bump Reg.hifCqStallCount

/-- One occurrence of a near-bank command's row. -/
def State.runNear (s : State) (c p op : Nat) (run : State → Job → State) : State :=
  match s.job c p with
  | none => s
  | some j =>
    if j.cmd.klass = 3 ∧ j.cmd.op = op then
      match j.st with
      | .decode =>
        if j.status ≠ 0 then s.failDecode c p j j.status
        else
          let v := s.verdict j.cmd (nearChecks c s j.cmd)
          let s := if v = St.memUncorr then s.setBit Reg.nbuErrBits 1 else s
          if v ≠ 0 then s.refuse c p j v
          else
            let t := s.optab j.cmd
            let j := { j with optab := t }
            s.pinNear c p j (s.nearPages j.cmd t) fun s j => if s.suspended j then s else run (s.rampUp j) j
      | .run => if j.waiting = [] ∧ j.status = 0 ∧ !s.suspended j then run (s.rampUp j) j else s
      | _ => s
    else s

/-! ## Products and sums (R108, R112) -/

/-- The end of a near-bank run: its row steps are counted; its table is read as well (R177). -/
def State.endNear (s : State) (c p : Nat) (j : Job) (r : RunOut) (steps : Nat) : State :=
  let s := s.count Reg.nbuRowstepCount steps
  let s := if r.fault = St.memUncorr then s.setBit Reg.nbuErrBits 1 else s
  s.endRun c p j { r with reads := (j.cmd.optabAddr, 32 * j.cmd.optabCount) :: r.reads }

/-- 1 KiB rows that ranges touch, each once (R106). -/
def rowsOf (l : List (Nat × Nat)) : Nat :=
  (sortDedup (l.flatMap fun r => if r.2 = 0 then [] else natsFrom (r.1 / 1024) ((r.1 + r.2 - 1) / 1024 + 1 - r.1 / 1024))).length

/-- Row steps of element-wise work and sums: each row read or written is streamed once (R106; DEDUCED, log 77). -/
def rowSteps (r : RunOut) : Nat := rowsOf (r.reads ++ r.stores.map fun x => (x.addr, x.bytes.length))

/-- Row steps of a product: the rows of W with its scales, streamed once for each pass of 16 activation rows (R106, R109; DEDUCED, log 77); of a
product that a fault ends, the rows read until then. -/
def productSteps (j : Job) (r : RunOut) : Nat :=
  if r.fault ≠ 0 then rowsOf r.reads
  else
    match roleOf 1 j.optab, Fmt.ofCode j.cmd.fmtW with
    | some e, some f => rowsOf ((natsFrom 0 j.cmd.fN).flatMap fun n => rowReads e f n 0 j.cmd.fK) * ceilDiv j.cmd.fM 16
    | _, _ => 0

/-- NB_MATVEC over the rows (R108): bit-identical to MATMUL without bias and epilogue, the rows of X and C named by GATHER and SCATTER where the
table has them. -/
def State.matvec (s : State) (c : Nat) (j : Job) : RunOut :=
  match roleOf 0 j.optab, roleOf 1 j.optab, roleOf 3 j.optab, Fmt.ofCode j.cmd.fmtX, Fmt.ofCode j.cmd.fmtW, Fmt.ofCode j.cmd.fmtC with
  | some ex, some ew, some ec, some fx, some fw, some fc =>
    let places := (natsFrom 0 j.cmd.fM).map (s.rowPlace c j ex ec fx fc)
    let ws := (natsFrom 0 j.cmd.fN).map fun n => s.readRow c j.cmd.lodge ew fw n j.cmd.fK
    let w := (places.map (·.2)).foldl RunOut.join RunOut.none
    let w := if w.fault ≠ 0 then w else (ws.map (·.2)).foldl RunOut.join w
    if w.fault ≠ 0 then w
    else ((natsFrom 0 j.cmd.fM).zip (places.map (·.1))).foldl (fun o p =>
      if o.fault ≠ 0 then o else o.join (s.matmulRow c j ex ec fx fw fc (ws.map (·.1)) [] p.1 p.2.1 p.2.2)) w
  | _, _, _, _, _, _ => RunOut.failed St.badOperand

/-- The contraction of a row with itself, and with ones (R112). -/
def normRow (f : Fmt) (k : Nat) (d : RowData) (sum : Bool) : Fl (List F32) :=
  let el (i : Nat) := decodeNum f (d.elems.getD i 0) (d.scales.getD i 0)
  let sq := contract k fun i => dotProd (el i) (el i)
  if sum then sq.bind fun a => (contract k fun i => dotProd (el i) ⟨.fin false 1 0, 0⟩).map fun b => [a, b]
  else sq.map fun a => [a]

/-- The stores of one output row, with what writing them meets. -/
def State.rowOut (s : State) (lodge : Nat) (e : OpEnt) (f : Fmt) (r : Nat) (v : Fl (List F32)) : RunOut :=
  let enc := v.bind (encodeRow f)
  let sts := rowStores e f r 0 enc.val
  ⟨sts, enc.fl, 0, [], firstBad (sts.map fun x => s.opStatus 0 lodge x.space x.addr x.bytes.length true)⟩

/-- NB_NORMSUM (R112). -/
def State.normsum (s : State) (c : Nat) (j : Job) : RunOut :=
  match roleOf 0 j.optab, roleOf 3 j.optab, Fmt.ofCode j.cmd.fmtX with
  | some ex, some ec, some fx =>
    (natsFrom 0 j.cmd.fM).foldl (fun o m =>
      if o.fault ≠ 0 then o
      else
        let (d, a) := s.readRow c j.cmd.lodge ex fx m j.cmd.fK
        if a.fault ≠ 0 then o.join a
        else (o.join a).join (s.rowOut j.cmd.lodge ec .fp32 m (normRow fx j.cmd.fK d (j.cmd.subop == 1)))) RunOut.none
  | _, _, _ => RunOut.failed St.badOperand

/-! ## Element-wise work (R113 to R115) -/

/-- One element of SUBOP 0 to 3: x from X, w from W. -/
def eltwise (sub : Nat) (param : F32) (x w : F32) : Fl F32 :=
  if sub = 0 then add32 x w
  else if sub = 1 then mul32 x w
  else if sub = 2 then fma32 param x w
  else
    (exp32 (x ^^^ 0x80000000)).bind fun e => (add32 0x3F800000 e).bind fun d => (recip32 d).bind fun r =>
    (mul32 x r).bind fun t => mul32 t w

/-- One element of RMS_APPLY. -/
def rmsApply (k : Nat) (param sum x g : F32) : Fl F32 :=
  (div32 sum (intF32 (Int.ofNat k))).bind fun q => (add32 q param).bind fun v => (rsqrt32 v).bind fun r =>
  (mul32 x r).bind fun y => mul32 y g

/-- ROUTE of one row (R114). With k above N the row has only N logits to select: N indices and N weights are written, 2N words
(DESIGN CHOICE, log 127: R114 says nothing of such a k). -/
def routeRow (k : Nat) (l : List F32) : Fl (List F32) :=
  (Fl.mapList rd32 l).bind fun vs =>
    let top := topIndices vs k []
    let sel := sortDedup top
    let mx := l.getD (top.headD 0) 0
    (Fl.mapList (fun i => (sub32 (l.getD i 0) mx).bind exp32) sel).bind fun es =>
    (Fl.fold add32 0 es).bind fun s =>
    (Fl.mapList (fun e => div32 e s) es).map fun ws => (sel.map fun i => intF32 (Int.ofNat i)) ++ ws

/-- COMBINE of one row (R115): acc over the expert rows in order, then the residual. -/
def combineRow (resid : List F32) : List (F32 × List F32) → List F32 → Fl (List F32)
  | [], acc => Fl.zipList add32 resid acc
  | (w, row) :: r, acc => (Fl.zipList (fun x a => fma32 w x a) row acc).bind fun acc => combineRow resid r acc

/-- A row of an entry as FP32 lanes with the reading of it. -/
def State.row32 (s : State) (c lodge : Nat) (e : OpEnt) (f : Fmt) (r n : Nat) : Fl (List F32) × RunOut :=
  let (d, a) := s.readRow c lodge e f r n
  (d.to32 f, a)

/-- The k expert rows of output row `m` (R115). -/
def State.expertRows (s : State) (c lodge : Nat) (t : List OpEnt) (ex : OpEnt) (fx : Fmt) (k n m : Nat) :
    List (Fl (F32 × List F32)) × RunOut :=
  match roleOf 6 t with
  | none => ([], RunOut.failed St.badOperand)
  | some ev =>
    (natsFrom 0 k).foldl (fun (a : List (Fl (F32 × List F32)) × RunOut) i =>
      if a.2.fault ≠ 0 then a
      else
        let (r, ri) := s.readIndex c lodge t 4 (m * k + i) ex fx n
        let (x, rx) := s.row32 c lodge ex fx r n
        let st := s.rowStatus 0 lodge ev .fp32 m i 1
        let w : F32 := BitVec.ofNat 32 ((s.rowData c lodge ev .fp32 m i 1).elems.headD 0)
        (a.1 ++ [x.map fun row => (w, row)], (a.2.join (ri.join rx)).join ⟨[], 0, 0, [], st⟩)) ([], RunOut.none)

/-- One output row of NB_ELTWISE. -/
def State.eltRow (s : State) (c : Nat) (j : Job) (ex ec : OpEnt) (fx fw fc : Fmt) (m : Nat) : RunOut :=
  let l := j.cmd.lodge
  let n := j.cmd.fN
  let t := j.optab
  let sub := j.cmd.subop
  let ew := roleOf 1 t
  if sub = 6 then
    let (xs, a) := s.expertRows c l t ex fx j.cmd.topK n m
    match ew with
    | none => RunOut.failed St.badOperand
    | some e =>
      let (w, b) := s.row32 c l e fw m n
      let pre := a.join b
      if pre.fault ≠ 0 then pre
      else
        let v := (Fl.mapList id xs).bind fun rows => w.bind fun resid => combineRow resid rows (List.replicate n 0)
        pre.join (s.rowOut l ec fc m v)
  else if sub = 7 then s.convRow c j ex ec fx fc m
  else
    let (x, a) := s.row32 c l ex fx m n
    if a.fault ≠ 0 then a
    else if sub = 5 then a.join (s.rowOut l ec .fp32 m (x.bind (routeRow j.cmd.topK)))
    else
      match ew with
      | none => RunOut.failed St.badOperand
      | some e =>
        if sub = 4 then
          let (w, b) := s.row32 c l e .fp32 m 1
          match roleOf 6 t with
          | none => RunOut.failed St.badOperand
          | some ev =>
            let (g, d) := s.row32 c l ev fw 0 n
            let pre := (a.join b).join d
            if pre.fault ≠ 0 then pre
            else
              let v := x.bind fun xs => w.bind fun ws => g.bind fun gs =>
                Fl.zipList (rmsApply j.cmd.fK j.cmd.paramF (ws.headD 0)) xs gs
              pre.join (s.rowOut l ec fc m v)
        else
          let (w, b) := s.row32 c l e fw m n
          let pre := a.join b
          if pre.fault ≠ 0 then pre
          else pre.join (s.rowOut l ec fc m (x.bind fun xs => w.bind fun ws => Fl.zipList (eltwise sub j.cmd.paramF) xs ws))

/-- The reading of every index of a COMBINE; one beyond its buffer refuses the command before anything is written (R88, R115). -/
def State.combineIndices (s : State) (c : Nat) (j : Job) (ex : OpEnt) (fx : Fmt) : RunOut :=
  (natsFrom 0 (j.cmd.fM * j.cmd.topK)).foldl (fun o i => o.join (s.readIndex c j.cmd.lodge j.optab 4 i ex fx j.cmd.fN).2) RunOut.none

/-- NB_ELTWISE (R113). -/
def State.eltwiseRun (s : State) (c : Nat) (j : Job) : RunOut :=
  match roleOf 0 j.optab, roleOf 3 j.optab, Fmt.ofCode j.cmd.fmtX, Fmt.ofCode j.cmd.fmtW, Fmt.ofCode j.cmd.fmtC with
  | some ex, some ec, some fx, some fw, some fc =>
    let pre := if j.cmd.subop = 6 then s.combineIndices c j ex fx else RunOut.none
    if pre.fault ≠ 0 then pre
    else (natsFrom 0 j.cmd.fM).foldl (fun o m => if o.fault ≠ 0 then o else o.join (s.eltRow c j ex ec fx fw fc m)) RunOut.none
  | _, _, _, _, _ => RunOut.failed St.badOperand

/-! ## Row programs (R117 to R120) -/

/-- Bytes of a stripe (R100). -/
def stripe : Nat := 65536

/-- The address of stripe `bank` of window row `row`. -/
def stripeAddr (pages : List Nat) (bank row : Nat) : Nat := pages.getD row 0 + bank * stripe

/-- A stripe as the program sees it: what it wrote itself, else memory. -/
def State.stripeBytes (s : State) (j : Job) (a : Nat) : List Byte :=
  match j.direct.find? fun w => w.1 == a with
  | some w => w.2
  | none => s.peek j.cmd.lodge a stripe

/-- Replace a stripe among the program's outputs. -/
def putStripe (a : Nat) (bs : List Byte) (l : List (Nat × List Byte)) : List (Nat × List Byte) :=
  l.filter (fun w => w.1 != a) ++ [(a, bs)]

/-- One row word (R119): sources are read before D is written. -/
def State.rowStep (s : State) (pages : List Nat) (j : Job) (w : RowWord) : Job :=
  let d := stripeAddr pages w.bd w.rd
  let a := s.stripeBytes j (stripeAddr pages w.ba w.ra)
  let b := s.stripeBytes j (stripeAddr pages w.bb w.rb)
  let out (bs : List Byte) : Job := { j with direct := putStripe d bs j.direct }
  if w.op = 1 then out a
  else if w.op = 2 then out (List.replicate stripe 0)
  else if w.op = 3 then out (List.replicate stripe 0xFF)
  else if w.op = 4 then out (List.zipWith (· &&& ·) a b)
  else if w.op = 5 then out (List.zipWith (· ||| ·) a b)
  else if w.op = 6 then out (List.zipWith (· ^^^ ·) a b)
  else if w.op = 7 then out (a.map (~~~ ·))
  else j

/-- Words up to END in order (R119). -/
def State.rowRun (s : State) (pages : List Nat) : List RowWord → Job → Job
  | [], j => j
  | w :: r, j => if w.op = 8 then j else s.rowRun pages r (s.rowStep pages j w)

/-- What a row word meets: poisoned sources end the command (R169), and a page that is not mapped (R170). -/
def State.rowFault (s : State) (j : Job) (pages : List Nat) (w : RowWord) : Nat :=
  let (ud, ua, ub) := RowWord.uses w.op
  let one (use : Bool) (bank row : Nat) : Nat :=
    let a := stripeAddr pages bank row
    if use && (j.direct.find? fun w => w.1 == a).isNone then s.readStatus j.cmd.lodge a stripe else St.ok
  firstBad [one ua w.ba w.ra, one ub w.bb w.rb,
    if ud then s.accessStatus j.cmd.lodge (stripeAddr pages w.bd w.rd) stripe else St.ok]

/-- The first fault along a program. -/
def State.rowRunFault (s : State) (pages : List Nat) : List RowWord → Job → Nat
  | [], _ => St.ok
  | w :: r, j =>
    if w.op = 8 then St.ok
    else if s.rowFault j pages w ≠ St.ok then s.rowFault j pages w
    else s.rowRunFault pages r (s.rowStep pages j w)

/-- The words that execute: those before END, or before the word that meets a fault. -/
def State.rowsDone (s : State) (pages : List Nat) : List RowWord → Job → List RowWord
  | [], _ => []
  | w :: r, j => if w.op = 8 ∨ s.rowFault j pages w ≠ St.ok then [] else w :: s.rowsDone pages r (s.rowStep pages j w)

/-- The stripes that words read (R177). -/
def rowReadsOf (pages : List Nat) (l : List RowWord) : List (Nat × Nat) :=
  l.flatMap fun w =>
    (if (RowWord.uses w.op).2.1 then [(stripeAddr pages w.ba w.ra, stripe)] else []) ++
    (if (RowWord.uses w.op).2.2 then [(stripeAddr pages w.bb w.rb, stripe)] else [])

/-- The stripes that words write. -/
def rowWritesOf (pages : List Nat) (l : List RowWord) : List Nat :=
  (l.filter fun w => (RowWord.uses w.op).1).map fun w => stripeAddr pages w.bd w.rd

/-- The elements of a list that stand in it again further on. -/
def repeats : List Nat → List Nat
  | [] => []
  | a :: r => if r.contains a then a :: repeats r else repeats r

/-- Count the accesses of words (R177): the stripes read, and the writes to a stripe that a later word writes again; the last write of a stripe
is counted with the outputs. -/
def State.touchRows (s : State) (l : Nat) (pages : List Nat) (ws : List RowWord) : State :=
  (repeats (rowWritesOf pages ws)).foldl (fun (s : State) a => s.touch l a stripe true) (s.touchReads l (rowReadsOf pages ws))

/-- NB_ROWPROG (R117). A fault ends it after the words before: the stripes they wrote are undefined (R84). -/
def State.rowprog (s : State) (c p : Nat) (j : Job) : State :=
  let pages := s.windowPages j.cmd.lodge j.optab
  let prog := s.rowProg j.cmd j.optab
  let j := { j with direct := [] }
  if 1 < (s.stacksOf j.pins).length then s.endJob c p j St.badOperand
  else
    let f := s.rowRunFault pages prog j
    let ws := s.rowsDone pages prog j
    let k := s.rowRun pages (if f ≠ St.ok then ws else prog) j
    let s := (s.touchReads j.cmd.lodge ((j.optab.map fun e => (e.addr, e.len)))).touchRows j.cmd.lodge pages ws
    if f ≠ St.ok then
      s.endNear c p j ⟨k.direct.map fun d => ⟨0, d.1, d.2⟩, 0, 0, [], f⟩ (64 * ws.length)
    else
      ((s.count Reg.nbuRowstepCount (64 * ws.length)).touchReads j.cmd.lodge [(j.cmd.optabAddr, 64)]).toFence c p k

/-- One row word issued on its own for the row program running in a place: one row step in each of the 64 channels. -/
def State.rowIssue (s : State) (c p : Nat) (w : RowWord) : State :=
  match s.job c p with
  | none => s
  | some j =>
    if j.cmd.klass = 3 ∧ j.cmd.op = 0x28 ∧ j.st = .run ∧ !s.suspended j then
      let pages := s.windowPages j.cmd.lodge j.optab
      if w.bad pages.length then s.endJob c p j St.badProg
      else
        let f := s.rowFault j pages w
        if f ≠ St.ok then s.endNear c p j ⟨j.direct.map fun d => ⟨0, d.1, d.2⟩, 0, 0, [], f⟩ 0
        else if w.op = 8 then (s.setJob c p { j with st := .fence, since := s.now }).payDebt
        else
          let k := s.rowStep pages j w
          let s := ((s.rampUp j).count Reg.nbuRowstepCount 64).touchReads j.cmd.lodge (rowReadsOf pages [w])
          let s := if (RowWord.uses w.op).1 then s.scramble j.cmd.lodge (stripeAddr pages w.bd w.rd) stripe else s
          s.setJob c p k
    else s

/-! ## Refresh, temperature and the ramp (R124 to R128) -/

/-- A refresh falls due (R124, R125). -/
def State.refreshDue (s : State) (st ch : Nat) : State :=
  let k := st * 64 + ch
  let d := Tbl.get 0 k s.debt
  if !s.channelBusy st ch then { s with debt := Tbl.set 0 k 0 s.debt }
  else if d ≥ s.rd Reg.nbuRefreshMaxPostpone then
    ({ s with debt := Tbl.set 0 k 0 s.debt } : State).bump Reg.nbuSuspCntRefresh
  else { s with debt := Tbl.set 0 k (d + 1) s.debt }

/-- A stack's base-die temperature is read, 0.25 °C steps (R126, R124). -/
def State.nbThermal (s : State) (st t : Nat) : State :=
  let s := s.wr Reg.nbuTempTemp t st
  let s := if s.rd Reg.nbuTempPeak st < t then s.wr Reg.nbuTempPeak t st else s
  let put (s : State) (f : Fld) (b : Bool) : State := if b then s.setBit f st else s.clrBit f st
  let s := put s Reg.nbuStatusHot (decide (340 < t))
  let thr := s.rd Reg.nbuThermThrottleC * 4
  let sus := s.rd Reg.nbuThermSuspendC * 4
  let hys := s.rd Reg.nbuThermHystC * 4
  let wasT := bitAt st (s.rd Reg.nbuStatusThrottled)
  let wasS := bitAt st (s.rd Reg.nbuStatusSuspended)
  let s := put s Reg.nbuStatusThrottled (decide (thr ≤ t) || (wasT && decide (thr ≤ t + hys)))
  let nowS := decide (sus ≤ t) || (wasS && decide (sus ≤ t + hys))
  let s := put s Reg.nbuStatusSuspended nowS
  if nowS && !wasS then ((s.bump Reg.nbuSuspCntThermal).setBit Reg.nbuErrBits 2).payDebt else s

/-- One group of eight channels joins or leaves near-bank work (R128). Channels that wait for their group to be taken out execute NOP row steps,
of a number that no rule fixes. -/
def State.rampStep (s : State) (st : Nat) : State :=
  let g := Tbl.get 0 st s.ramp
  if s.stackBusy st then (if g < 8 then { s with ramp := Tbl.set 0 st (g + 1) s.ramp } else s)
  else if g = 0 then s
  else
    let s : State := { s with ramp := Tbl.set 0 st (g - 1) s.ramp }
    (s.count Reg.nbuRowstepCount (Config.freeNat s.free)).useFree 1

/-! ## The commands -/

/-- The place of a near-bank slot entry: places 1 to 8 of the core. -/
def nearPlace (p : Fin 8) : Nat := p + 1

/-- NB_MATVEC (R108). -/
def execNbMatvec (core : Fin 160) (place : Fin 8) (s : State) : Out :=
  .next (s.runNear core (nearPlace place) 0x20 fun s j =>
    s.endNear core (nearPlace place) j (s.matvec core j) (productSteps j (s.matvec core j))).choices

/-- NB_ELTWISE (R113 to R115). -/
def execNbEltwise (core : Fin 160) (place : Fin 8) (s : State) : Out :=
  .next (s.runNear core (nearPlace place) 0x21 fun s j =>
    s.endNear core (nearPlace place) j (s.eltwiseRun core j) (rowSteps (s.eltwiseRun core j))).choices

/-- NB_NORMSUM (R112). -/
def execNbNormsum (core : Fin 160) (place : Fin 8) (s : State) : Out :=
  .next (s.runNear core (nearPlace place) 0x22 fun s j =>
    s.endNear core (nearPlace place) j (s.normsum core j) (rowSteps (s.normsum core j))).choices

/-- NB_ROWPROG (R117). -/
def execNbRowprog (core : Fin 160) (place : Fin 8) (s : State) : Out :=
  .next (s.runNear core (nearPlace place) 0x28 fun s j => s.rowprog core (nearPlace place) j).choices

/-- Row word NOP (R119). -/
def execRowNop (core : Fin 160) (place : Fin 8) (s : State) : Out :=
  .next (s.rowIssue core (nearPlace place) ⟨0, 0, 0, 0, 0, 0, 0⟩)
/-- Row word COPY. -/
def execRowCopy (core : Fin 160) (place : Fin 8) (bankD : Fin 32) (rowD : Nat) (bankA : Fin 32) (rowA : Nat) (s : State) : Out :=
  .next (s.rowIssue core (nearPlace place) ⟨1, bankD, rowD, bankA, rowA, 0, 0⟩)
/-- Row word INIT0. -/
def execInit0 (core : Fin 160) (place : Fin 8) (bankD : Fin 32) (rowD : Nat) (s : State) : Out :=
  .next (s.rowIssue core (nearPlace place) ⟨2, bankD, rowD, 0, 0, 0, 0⟩)
/-- Row word INIT1. -/
def execInit1 (core : Fin 160) (place : Fin 8) (bankD : Fin 32) (rowD : Nat) (s : State) : Out :=
  .next (s.rowIssue core (nearPlace place) ⟨3, bankD, rowD, 0, 0, 0, 0⟩)
/-- Row word AND. -/
def execRowAnd (core : Fin 160) (place : Fin 8) (bankD : Fin 32) (rowD : Nat) (bankA : Fin 32) (rowA : Nat) (bankB : Fin 32)
    (rowB : Nat) (s : State) : Out :=
  .next (s.rowIssue core (nearPlace place) ⟨4, bankD, rowD, bankA, rowA, bankB, rowB⟩)
/-- Row word OR. -/
def execRowOr (core : Fin 160) (place : Fin 8) (bankD : Fin 32) (rowD : Nat) (bankA : Fin 32) (rowA : Nat) (bankB : Fin 32)
    (rowB : Nat) (s : State) : Out :=
  .next (s.rowIssue core (nearPlace place) ⟨5, bankD, rowD, bankA, rowA, bankB, rowB⟩)
/-- Row word XOR. -/
def execRowXor (core : Fin 160) (place : Fin 8) (bankD : Fin 32) (rowD : Nat) (bankA : Fin 32) (rowA : Nat) (bankB : Fin 32)
    (rowB : Nat) (s : State) : Out :=
  .next (s.rowIssue core (nearPlace place) ⟨6, bankD, rowD, bankA, rowA, bankB, rowB⟩)
/-- Row word NOT. -/
def execRowNot (core : Fin 160) (place : Fin 8) (bankD : Fin 32) (rowD : Nat) (bankA : Fin 32) (rowA : Nat) (s : State) : Out :=
  .next (s.rowIssue core (nearPlace place) ⟨7, bankD, rowD, bankA, rowA, 0, 0⟩)
/-- Row word END: the program ends. -/
def execRowEnd (core : Fin 160) (place : Fin 8) (s : State) : Out :=
  .next (s.rowIssue core (nearPlace place) ⟨8, 0, 0, 0, 0, 0, 0⟩)

/-- PIN_READY (R105): the pinned pages are resident. -/
def execPinReady (core : Fin 160) (place : Fin 8) (s : State) : Out := .next (s.toRun core (nearPlace place))

/-- ACTIVATION_ROOM (R110): room beside the X of the commands running. -/
def execActivationRoom (core : Fin 160) (place : Fin 8) (s : State) : Out := .next (s.toRun core (nearPlace place))

/-- REFRESH_DUE (R124). -/
def execRefreshDue (stack : Fin 8) (channel : Fin 64) (s : State) : Out := .next (s.refreshDue stack channel)

/-- NB_THERMAL (R126). -/
def execNbThermal (stack : Fin 8) (temp : Nat) (s : State) : Out := .next (s.nbThermal stack temp)

/-- CHANNEL_GROUP_RAMP (R128). -/
def execChannelGroupRamp (stack : Fin 8) (s : State) : Out := .next (s.rampStep stack)

end Sys2Proof.Machine
end

