-- ==== Sys2Proof/Machine/Memory.lean ====
section
/-!
DEFINITION. MEMORY commands 0x01 to 0x13 (R172 to R176, R182 to R184, R192 to R195) but for SETATTR and REPUBLISH, the migration
engines' steps (R177 to R181) and the tray ports (R197).
-/

namespace Sys2Proof.Machine

/-! ## Fields and checks (R193 to R195) -/

/-- DST. -/
def Cmd.mDst (c : Cmd) : Nat := c.w 1
/-- SRC_A, or PATTERN. -/
def Cmd.mSrcA (c : Cmd) : Nat := c.w 2
/-- SRC_B. -/
def Cmd.mSrcB (c : Cmd) : Nat := c.w 7
/-- PAGES. -/
def Cmd.mPages (c : Cmd) : Nat := c.fld 2 0 26
/-- ATTR. -/
def Cmd.mAttr (c : Cmd) : Nat := c.fld 2 26 2
/-- TIER. -/
def Cmd.mTier (c : Cmd) : Nat := c.fld 2 28 2
/-- LOCK. -/
def Cmd.mLock (c : Cmd) : Bool := bitAt 30 (c.w 2)
/-- LENGTH. -/
def Cmd.mLen (c : Cmd) : Nat := c.fld 3 0 40
/-- N of REDUCE. -/
def Cmd.mN (c : Cmd) : Nat := c.fld 3 0 24
/-- ROWS. -/
def Cmd.mRows (c : Cmd) : Nat := c.fld 3 24 24
/-- FMT_X of REDUCE. -/
def Cmd.mFmtX (c : Cmd) : Nat := c.fld 3 48 4
/-- FMT_C of REDUCE. -/
def Cmd.mFmtC (c : Cmd) : Nat := c.fld 3 52 4
/-- AXIS. -/
def Cmd.mAxis (c : Cmd) : Nat := c.fld 3 56 1
/-- ROW_STRIDE of REDUCE. -/
def Cmd.mStride (c : Cmd) : Nat := c.fld 7 0 32

/-- Reserved bits of a MEMORY descriptor by opcode (R193). -/
def memReserved (x : Cmd) : Bool :=
  let base := decide (x.flags / 4 ≠ 0) || decide (x.fld 4 0 16 ≠ 0)
  let op := x.op
  base ||
  (if op = 1 then decide (x.w 2 / 2 ^ 31 ≠ 0) || x.w 3 != 0 || x.w 7 != 0
   else if op = 2 ∨ op = 4 then decide (x.w 2 / 2 ^ 26 ≠ 0) || x.w 3 != 0 || x.w 7 != 0
   else if op = 3 then decide (x.w 2 / 2 ^ 28 ≠ 0) || x.w 3 != 0 || x.w 7 != 0
   else if op = 5 then x.w 1 != 0 || decide (x.w 2 / 2 ^ 19 ≠ 0) || x.w 3 != 0 || x.w 7 != 0
   else if op = 0x10 ∨ op = 0x11 then decide (x.w 3 / 2 ^ 40 ≠ 0) || x.w 7 != 0
   else if op = 0x12 then decide (x.w 3 / 2 ^ 40 ≠ 0)
   else decide (x.w 3 / 2 ^ 57 ≠ 0) || decide (x.w 7 / 2 ^ 32 ≠ 0))

/-- The page numbers of MAP, UNMAP, SETATTR and REPUBLISH. -/
def Cmd.mRange (c : Cmd) : List Nat := natsFrom (pageOf c.mDst) c.mPages


/-- Bytes of an element of REDUCE. -/
def redBytes (f : Nat) : Nat := if f = 0 then 4 else 2

/-- R195: extents, alignment, overlaps, empty ranges. -/
def State.memBadOperand (s : State) (x : Cmd) : Bool :=
  let op := x.op
  if op ≤ 4 then
    decide (x.mDst % 2 ^ 21 ≠ 0) || x.mPages == 0 || decide (2 ^ 48 < x.mDst + x.mPages * 2 ^ 21) ||
    ((op == 1 || op == 3) && x.mAttr == 3) ||
    (op == 4 && x.mRange.any fun p => match Tbl.find (pageKey x.lodge p) s.mem.pages with
      | some q => q.attr != 2
      | none => false)
  else if op = 5 then false
  else
    let (d, n) := x.mWrite
    let rs := x.mReads
    decide (d % 64 ≠ 0) || rs.any (fun r => decide (r.1 % 64 ≠ 0) || !inRange r.1 r.2 || overlap d n r.1 r.2) ||
    !inRange d n ||
    (op != 0x13 && (x.mLen == 0 || decide (x.mLen % 64 ≠ 0))) ||
    (op == 0x12 && overlap x.mSrcA x.mLen x.mSrcB x.mLen) ||
    (op == 0x13 && (x.mN == 0 || x.mRows == 0 || decide (x.mStride % 64 ≠ 0)))

/-- Page keys a command 0x10 to 0x13 touches. -/
def Cmd.mKeys (c : Cmd) : List Nat :=
  (sortDedup ((c.mWrite :: c.mReads).flatMap fun r => pagesOf r.1 r.2)).map (pageKey c.lodge)

/-- The checks of a MEMORY descriptor 0x01 to 0x13 (R195). -/
def memChecks (c : Nat) (s : State) (x : Cmd) : Checks :=
  { first := 0
    reserved := memReserved x
    range := false
    mid := 0
    rest :=
      if x.op = 0x13 ∧ (1 < x.mFmtX ∨ 1 < x.mFmtC) then St.badFormat
      else if s.memBadOperand x then St.badOperand
      else if x.op = 1 ∧ s.stage < 4 ∧ x.mLock ∧ x.mTier ≠ 2 then St.noMemory
      else if 0x10 ≤ x.op ∧ s.stage < 4 ∧ s.stacksOf x.mKeys ≠ [] then St.notReady
      else if (s.core c).quarantined then St.coreQuarantined
      else St.ok }

/-- The pages of a near-memory command are pinned where they lie, from its start to its end (R195). -/
def Job.pinWhere (j : Job) : Job := if 0x10 ≤ j.cmd.op ∧ j.cmd.op < 0x20 then { j with pins := j.cmd.mKeys } else j

/-- One occurrence of a MEMORY row 0x01 to 0x13. -/
def State.runMem (s : State) (c p op : Nat) (run : State → Job → State) : State :=
  s.runSlot c p 3 op (memChecks c) fun s j => run s j.pinWhere

/-! ## Map and unmap (R172 to R175) -/

/-- Tiers a MAP tries in order (R173, R195). -/
def State.mapOrder (s : State) (x : Cmd) : List Nat :=
  let order := if x.mTier = 2 then [2, 3] else if x.mTier = 3 then [3] else [1, 2, 3]
  if x.mLock then order.take 1 else if s.stage < 4 then [2] else order

/-- A frame for one page in the first tier of the order that has one. -/
def State.backing (s : State) (l : Nat) : List Nat → Option (Nat × Nat)
  | [] => none
  | t :: r => match s.obtain l t with | some f => some (t, f) | none => s.backing l r

/-- The lodge's pages in T2 and T3 need a key it does not have (R199). -/
def State.noKey (s : State) (l : Nat) : Bool :=
  s.rd Reg.memLodgeCfgEncrypt l == 1 && s.rd Reg.memLodgeCfgKeyReady l == 0

/-- Map pages one by one; the status of the first that cannot be. -/
def State.mapPages (s : State) (x : Cmd) : List Nat → State × Nat
  | [] => (s, St.ok)
  | p :: r =>
    match s.backing x.lodge (s.mapOrder x) with
    | none => (s, St.noMemory)
    | some (t, f) =>
      if t ≠ 1 ∧ s.noKey x.lodge then (s, St.noKey)
      else
        let q : Page := ⟨t, f, x.mTier, x.mLock, x.mAttr, 0, 0, 0, none, false⟩
        let s := s.dropPageBytes x.lodge p
        ({ s with mem := { s.mem with pages := Tbl.put (pageKey x.lodge p) q s.mem.pages } } : State).mapPages x r

/-- MEM_MAP: all pages or none (R173). A re-run after a kill finds its work done. -/
def State.memMap (s : State) (c p : Nat) (j : Job) : State :=
  if j.cmd.done then s.toFence c p j
  else if j.cmd.mRange.any fun q => (Tbl.find (pageKey j.cmd.lodge q) s.mem.pages).isSome then s.endJob c p j St.badOperand
  else
    let r := s.mapPages j.cmd j.cmd.mRange
    if r.2 ≠ St.ok then s.endJob c p j r.2
    else r.1.toFence c p { j with cmd := { j.cmd with done := true } }

/-- Take one page out of the map (R174): a migration of it is abandoned first, its frames are released. -/
def State.unmapPage (s : State) (l p : Nat) : State :=
  let k := pageKey l p
  match Tbl.find k s.mem.pages with
  | none => s
  | some q =>
    let s := s.abortMigr k 1
    let s := { s with mem := { s.mem with pages := Tbl.del k s.mem.pages,
                                          prefetch := s.mem.prefetch.filter (·.1 != k), demote := s.mem.demote.filter (· != k),
                                          leaving := s.mem.leaving.filter (· != k), awaiting := s.mem.awaiting.filter (· != k),
                                          dir := Tbl.clear (memKey l (p * 2 ^ 21) / 128) (memKey l ((p + 1) * 2 ^ 21) / 128) s.mem.dir,
                                          lines := linesOutside (memKey l (p * 2 ^ 21)) (2 ^ 21) s.mem.lines } }
    let s := (s.dropPageBytes l p).release q.tier q.frame
    match q.harvest with
    | some (_, t, f) => s.release t f
    | none => s

/-- MEM_UNMAP: it waits until no command pins a page of the range (R174). -/
def State.memUnmap (s : State) (c p : Nat) (j : Job) : State :=
  let ps := j.cmd.mRange
  if ps.any fun q => s.pinned (pageKey j.cmd.lodge q) then s.setJob c p j
  else ((ps.foldl (fun s q => s.unmapPage j.cmd.lodge q) s).idleEngine).toFence c p j

/-! ## Harvest (R182 to R184) -/

/-- An entry of a harvest table: FIRST, PAGES, LEAD, and whether its check of R183 passes. A LEAD above 8 passes and is taken as it stands
(DESIGN CHOICE, log 131: R182 gives 0 to 8 and R183 checks no LEAD). -/
def State.hvEntry (s : State) (slot e : Nat) : Nat × Nat × Nat × Bool :=
  let l := s.rd Reg.memHvCfgLodge slot
  let a := s.rd Reg.memHvAddr slot * 16 + 16 * e
  let w0 := s.peekNat l a 8
  let w1 := s.peekNat l (a + 8) 8
  let first := bits 0 48 w0
  let pages := bits 0 26 w1
  (first, pages, bits 32 8 w1,
    bits 48 16 w0 == 0 && bits 26 6 w1 == 0 && bits 48 16 w1 == 0 && decide (first % 2 ^ 21 = 0) && pages != 0)

/-- The whole table passes R183. -/
def State.hvGood (s : State) (slot : Nat) : Bool :=
  (natsFrom 0 (s.rd Reg.memHvCfgEntries slot)).all fun e => (s.hvEntry slot e).2.2.2

/-- Prefetch one entry: its eligible pages join the queue (R183). -/
def State.prefetchEntry (s : State) (slot e : Nat) : State :=
  let l := s.rd Reg.memHvCfgLodge slot
  let (first, n, _, _) := s.hvEntry slot e
  let lo := pageKey l (pageOf first)
  let new := (s.mem.pages.filter fun x => decide (lo ≤ x.1) && decide (x.1 < lo + n) && keyLodge x.1 == l && s.prefetchable x.1 &&
    !(s.mem.prefetch.any (·.1 == x.1))).map fun x => (x.1, slot * 4096 + e)
  { s with mem := { s.mem with prefetch := s.mem.prefetch ++ new } }

/-- The check of a slot's table has been made. -/
def State.hvChecked (s : State) (slot chk : Nat) : State := { s with mem := { s.mem with hvCheck := Tbl.set 0 slot chk s.mem.hvCheck } }

/-- Waiting prefetches of entries outside the window are dropped, and pages of entries inside it are not to be released. -/
def State.hvWindow (s : State) (keep : Nat → Bool) : State :=
  let stays (k : Nat) : Bool := match (Tbl.find k s.mem.pages).bind (·.harvest) with | some (h, _, _) => keep h | none => false
  { s with mem := { s.mem with prefetch := s.mem.prefetch.filter fun x => keep x.2, leaving := s.mem.leaving.filter fun k => !stays k } }

/-- Harvest pages of entries outside the window, and pages on their way to become such (R183). -/
def State.hvPassed (s : State) (keep : Nat → Bool) : List Nat :=
  sortDedup (((s.mem.pages.filter fun x => match x.2.harvest with | some (h, _, _) => !keep h | none => false).map (·.1)) ++
    (s.mem.migr.filter fun x => match x.2.harvest with | some h => !keep h | none => false).map (·.1))

/-- MEM_HARVEST (R183). -/
def State.memHarvest (s : State) (c p : Nat) (j : Job) : State :=
  let slot := j.cmd.fld 2 16 3
  let n := s.rd Reg.memHvCfgEntries slot
  if !s.on Reg.memCtrlHarvestEn || n == 0 || decide (s.stage < 4) then s.toFence c p j
  else
    let l := s.rd Reg.memHvCfgLodge slot
    let st := s.readStatus l (s.rd Reg.memHvAddr slot * 16) (16 * n)
    let chk := Tbl.get 0 slot s.mem.hvCheck
    if chk = 0 ∧ st ≠ St.ok then s.endJob c p j st
    else
      let chk := if chk = 0 then (if s.hvGood slot then 1 else 2) else chk
      let s := if Tbl.get 0 slot s.mem.hvCheck = 0 then s.touch l (s.rd Reg.memHvAddr slot * 16) (16 * n) false else s
      let s := s.hvChecked slot chk
      if chk = 2 then s.endJob c p j St.badOperand
      else
        let e := j.cmd.fld 2 0 16 % n
        let lead := (s.hvEntry slot e).2.2.1
        let window := (natsFrom e (lead + 1)).map (· % n)
        let keep (h : Nat) : Bool := h / 4096 != slot || window.contains (h % 4096)
        let s := s.wr Reg.memHvPosEntry e slot
        let s := s.touchReads l ((natsFrom e (lead + 1)).map fun i => (s.rd Reg.memHvAddr slot * 16 + 16 * (i % n), 16))
        let s := (s.hvWindow keep).releaseHarvests (s.hvPassed keep)
        let s := ((natsFrom (e + 1) lead).map (· % n)).foldl (fun s e => s.prefetchEntry slot e) s
        s.startPrefetch.toFence c p j

/-! ## Near-memory work (R192) -/

/-- MEM_FILL. -/
def fillBytes (pattern n : Nat) : List Byte := (List.replicate (n / 8) (leBytes 8 pattern)).flatten

/-- The byte offset of the first difference, or all ones (R194). -/
def firstDiff : Nat → List Byte → List Byte → Nat
  | i, a :: r, b :: t => if a = b then firstDiff (i + 1) r t else i
  | _, _, _ => 2 ^ 64 - 1

/-- An element of REDUCE's input as an exact operand (R50, R64). -/
def State.redElem (s : State) (x : Cmd) (row col : Nat) : Fl Num :=
  let n := redBytes x.mFmtX
  elemNum (if x.mFmtX = 0 then .fp32 else .bf16) (s.peekNat x.lodge (x.mSrcA + row * x.mStride + col * n) n)

/-- The results of REDUCE (R192): contractions with ones. -/
def State.redVals (s : State) (x : Cmd) : Fl (List F32) :=
  let one : Fl Num := ⟨.fin false 1 0, 0⟩
  if x.mAxis = 0 then
    Fl.mapList (fun col => contract x.mRows fun r => dotProd (s.redElem x r col) one) (natsFrom 0 x.mN)
  else Fl.mapList (fun row => contract x.mN fun c => dotProd (s.redElem x row c) one) (natsFrom 0 x.mRows)

/-- The bytes and flags a near-memory command writes at DST. -/
def State.memResult (s : State) (x : Cmd) : Fl (List Byte) :=
  if x.op = 0x10 then Fl.pure (fillBytes x.mSrcA x.mLen)
  else if x.op = 0x11 then Fl.pure (s.peek x.lodge x.mSrcA x.mLen)
  else if x.op = 0x12 then
    Fl.pure (leBytes 8 (firstDiff 0 (s.peek x.lodge x.mSrcA x.mLen) (s.peek x.lodge x.mSrcB x.mLen)))
  else (s.redVals x).bind fun v => (encodeRow (if x.mFmtC = 0 then .fp32 else .bf16) v).map (·.1)

/-- Row steps of a FILL (R192): whole T1 pages filled with zeros or ones take 32 INIT row steps in each of their 64 channels. -/
def State.fillSteps (s : State) (x : Cmd) : Nat :=
  if x.op = 0x10 ∧ (x.mSrcA = 0 ∨ x.mSrcA = 2 ^ 64 - 1) then
    ((s.keysOf x.lodge [x.mWrite]).filter fun k =>
      s.stacksOf [k] != [] && decide (x.mDst ≤ k % 2 ^ 27 * 2 ^ 21) && decide ((k % 2 ^ 27 + 1) * 2 ^ 21 ≤ x.mDst + x.mLen)).length * 32 * 64
  else 0

/-- FILL, COPY, COMPARE and REDUCE: reads are checked, the result is a DIRECT output. Work in a stack that is suspended for temperature waits
there (R126, R192). -/
def State.memWork (s : State) (c p : Nat) (j : Job) : State :=
  let x := j.cmd
  let st := firstBad ((x.mReads.map fun r => s.readStatus x.lodge r.1 r.2) ++ [s.accessStatus x.lodge x.mWrite.1 x.mWrite.2])
  let v := s.memResult x
  if s.suspended j then s.setJob c p j
  else (if st ≠ St.ok then s else (s.count Reg.nbuRowstepCount (s.fillSteps x)).rampUp j).endRun c p j (if st ≠ St.ok then ⟨[], 0, 0, [], st⟩ else ⟨[⟨0, x.mDst, v.val⟩], v.fl, 0, x.mReads, 0⟩)

/-! ## Migration steps (R177 to R181) -/

/-- EPOCH_END (R177, R178, R176). -/
def State.epochEnd (s : State) : State :=
  let s : State := { s with mem := { s.mem with pages := s.mem.pages.map fun (e : Nat × Page) => (e.1, { e.2 with count := e.2.count / 2 }) } }
  s.shrinkT1.promote

/-- MIGRATION_CHUNK (R179, R180): a chunk is charged to the page's lodge on the paths of both tiers. -/
def State.migChunk (s : State) (k : Nat) (bad : Bool) : State :=
  match Tbl.find k s.mem.migr, Tbl.find k s.mem.pages with
  | some m, some p =>
    if bad then ((s.uncorr (keyLodge k) p.tier p.frame).abortMigr k 2).idleEngine
    else if m.chunk < 32 then
      let s := (s.chargePath (p.tier - 1) (keyLodge k) 65536).chargePath (m.tier - 1) (keyLodge k) 65536
      { s with mem := { s.mem with migr := Tbl.put k { m with chunk := m.chunk + 1 } s.mem.migr } }
    else s
  | _, _ => s

/-- Commands 0x10 to 0x13 hold a page where it lies (R195). -/
def State.heldInPlace (s : State) (k : Nat) : Bool :=
  s.jobs.any fun j => j.2.2.cmd.klass == 3 && decide (j.2.2.cmd.op < 0x20) && j.2.2.pins.contains k

/-- CUTOVER (R181), after the last chunk. -/
def State.cutoverStep (s : State) (k : Nat) : State :=
  match Tbl.find k s.mem.migr, Tbl.find k s.mem.pages with
  | some m, some p => if m.chunk = 32 ∧ !s.heldInPlace k then (s.cutover k m p).idleEngine else s
  | _, _ => s

/-! ## Trays (R196, R197) -/

/-- MEM_TRAY_n and MEM_STATUS follow the devices of a port. -/
def State.trayRegs (s : State) (port : Nat) : State :=
  let on := s.mem.trays.filter fun t => t.port == port && t.enabled && !t.lost
  let s := s.wr Reg.memTrayDevices on.length port
  let s := s.wr Reg.memTrayCapGib (on.foldl (fun n t => n + t.frames / 512) 0) port
  s.flag Reg.memTrayLost (s.mem.trays.any fun t => t.port == port && t.lost) port

/-- Capacity enabled on a port, in frames. -/
def State.portFrames (s : State) (port : Nat) : Nat :=
  (s.mem.trays.filter fun t => t.port == port && t.enabled).foldl (fun n t => n + t.frames) 0

/-- Enumerate the devices that are present (R197): at most 16 TiB to a port (R167). -/
def State.enumerate (s : State) : State :=
  if s.on Reg.memCtrlTrayEn then
    let s := s.mem.trays.foldl (fun s t =>
      if t.enabled || t.lost || decide (2 ^ 23 < s.portFrames t.port + t.frames) then s
      else { s with mem := { s.mem with trays := s.mem.trays.map fun u =>
        if u.port = t.port ∧ u.idx = t.idx ∧ !u.lost then { u with enabled := true } else u } }) s
    ([0, 1, 2, 3].foldl (fun s p => s.trayRegs p) s).wr Reg.memStatusT3Ready 1
  else s

/-- A device appears behind a tray port; in stage 4 it is enumerated at once. -/
def State.hotAdd (s : State) (port idx gib speed width : Nat) : State :=
  if s.mem.trays.any fun t => t.port == port && t.idx == idx && !t.lost then s
  else
    let base := s.mem.trays.foldl (fun n t => max n (t.base + t.frames)) 0
    let s : State := { s with mem := { s.mem with trays := s.mem.trays ++ [(⟨port, idx, base, gib * 512, false, false⟩ : Tray)] } }
    let s := ((s.wr Reg.memTrayUp 1 port).wr Reg.memTraySpeed speed port).wr Reg.memTrayWidth width port
    if s.stage = 4 then s.enumerate else s

/-- A device is marked lost (R197). -/
def State.trayLost (s : State) (port idx : Nat) : State :=
  if s.mem.trays.any (fun t => t.port == port && t.idx == idx && !t.lost) then
    let s : State := { s with mem := { s.mem with trays := s.mem.trays.map fun (t : Tray) =>
      if t.port = port ∧ t.idx = idx then { t with lost := true } else t } }
    ((s.trayRegs port).setBit Reg.memErrBits 3).alarm 0x01 0xF 0xFF (port + idx * 4) 0
  else s

/-- Frames of a device that something holds: pages, kept source frames, migrations under way. -/
def State.onTray (s : State) (t : Tray) : Bool :=
  let here (tier frame : Nat) : Bool := tier == 3 && decide (t.base ≤ frame) && decide (frame < t.base + t.frames)
  (s.mem.pages.any fun e => here e.2.tier e.2.frame || (match e.2.harvest with | some (_, r, f) => here r f | none => false)) ||
    s.mem.migr.any fun e => here e.2.tier e.2.frame

/-- A page, its kept frame or its migration uses a frame of a device. -/
def State.onTrayKey (s : State) (t : Tray) (k : Nat) : Bool :=
  ({ s with mem := { s.mem with pages := s.mem.pages.filter (·.1 == k), migr := s.mem.migr.filter (·.1 == k) } } : State).onTray t

/-- Where firmware moves a page of a lodge off a device (R197): another T3 device, whose frames the device's own are not among, or T2. -/
def State.offTray (s : State) (l : Nat) : Option (Nat × Nat) :=
  match s.lowestFree 3 with
  | some f => some (3, f)
  | none => (s.obtain l 2).map fun f => (2, f)

/-- Firmware moves one page off a device: its bytes stay, its frame changes; a migration of it is abandoned first (R180). -/
def State.movePage (s : State) (t : Tray) (k : Nat) : State :=
  let here (tier frame : Nat) : Bool := tier == 3 && decide (t.base ≤ frame) && decide (frame < t.base + t.frames)
  let s := s.abortMigr k 1
  match Tbl.find k s.mem.pages, s.offTray (keyLodge k) with
  | some p, some (r, f) =>
    if here p.tier p.frame then { s with mem := { s.mem with pages := Tbl.put k { p with tier := r, frame := f } s.mem.pages } }
    else match p.harvest with
      | some (h, a, b) =>
        if here a b then { s with mem := { s.mem with pages := Tbl.put k { p with harvest := some (h, r, f) } s.mem.pages } } else s
      | none => s
  | _, _ => s

/-- Enable or disable a device. -/
def State.enableTray (s : State) (port idx : Nat) (on : Bool) : State :=
  { s with mem := { s.mem with trays := s.mem.trays.map fun (u : Tray) =>
      if u.port = port ∧ u.idx = idx ∧ !u.lost then { u with enabled := on } else u } }

/-- A device is gone, and its frames with it. -/
def State.forgetTray (s : State) (t : Tray) : State :=
  { s with mem := { s.mem with
      trays := s.mem.trays.filter fun u => !(u.port == t.port && u.idx == t.idx && !u.lost)
      zeroing := s.mem.zeroing.filter fun z => !(z.1 == 3 && decide (t.base ≤ z.2) && decide (z.2 < t.base + t.frames)) } }

/-- Firmware removes a device in an orderly way (R197): no frame of it is given out any more, every page that lies there moves to other T3
devices or to T2, then the device is disabled. Where not every page finds a frame the device stays, with the pages that found none
(DESIGN CHOICE, log 132). No row of the table starts it: its TRAY_REMOVAL is the surprise removal. -/
def State.trayOut (s : State) (port idx : Nat) : State :=
  match s.mem.trays.find? fun t => t.port == port && t.idx == idx && !t.lost with
  | none => s
  | some t =>
    let s := s.enableTray port idx false
    let s := ((s.mem.pages.map (·.1)) ++ s.mem.migr.map (·.1)).foldl (fun (s : State) k =>
      if s.onTrayKey t k then s.movePage t k else s) s
    if s.onTray t then s.enableTray port idx t.enabled else ((s.forgetTray t).trayRegs port).idleEngine

/-! ## The commands -/

/-- MEM_MAP (R173). -/
def execMemMap (core : Fin 160) (place : Fin 8) (s : State) : Out :=
  .next (s.runMem core (nearPlace place) 0x01 fun s j => s.memMap core (nearPlace place) j).choices

/-- MEM_UNMAP (R174). -/
def execMemUnmap (core : Fin 160) (place : Fin 8) (s : State) : Out :=
  .next (s.runMem core (nearPlace place) 0x02 fun s j => s.memUnmap core (nearPlace place) j).choices

/-- MEM_HARVEST (R183). -/
def execMemHarvest (core : Fin 160) (place : Fin 8) (s : State) : Out :=
  .next (s.runMem core (nearPlace place) 0x05 fun s j => s.memHarvest core (nearPlace place) j).choices

/-- MEM_FILL (R194). -/
def execMemFill (core : Fin 160) (place : Fin 8) (s : State) : Out :=
  .next (s.runMem core (nearPlace place) 0x10 fun s j => s.memWork core (nearPlace place) j).choices

/-- MEM_COPY (R194). -/
def execMemCopy (core : Fin 160) (place : Fin 8) (s : State) : Out :=
  .next (s.runMem core (nearPlace place) 0x11 fun s j => s.memWork core (nearPlace place) j).choices

/-- MEM_COMPARE (R194). -/
def execMemCompare (core : Fin 160) (place : Fin 8) (s : State) : Out :=
  .next (s.runMem core (nearPlace place) 0x12 fun s j => s.memWork core (nearPlace place) j).choices

/-- MEM_REDUCE (R192). -/
def execMemReduce (core : Fin 160) (place : Fin 8) (s : State) : Out :=
  .next (s.runMem core (nearPlace place) 0x13 fun s j => s.memWork core (nearPlace place) j).choices

/-- EPOCH_END (R177). -/
def execEpochEnd (s : State) : Out := .next s.epochEnd

/-- MIGRATION_CHUNK (R179). -/
def execMigrationChunk (lodge : Fin 16) (page : Nat) (uncorrectable : Bool) (s : State) : Out :=
  .next (s.migChunk (pageKey lodge page) uncorrectable).choices

/-- TRAY_TIMEOUT (R197). -/
def execTrayTimeout (port : Fin 4) (device : Fin 16) (s : State) : Out := .next (s.trayLost port device).choices

/-- TRAY_REMOVAL (R197): the surprise removal. -/
def execTrayRemoval (port : Fin 4) (device : Fin 16) (s : State) : Out := .next (s.trayLost port device).choices

/-- TRAY_HOTADD (R197). -/
def execTrayHotadd (port : Fin 4) (device : Fin 16) (gib : Nat) (speed width : Fin 4) (s : State) : Out :=
  .next (s.hotAdd port device gib speed width)

end Sys2Proof.Machine
end

