-- ==== Sys2Proof/Machine/KvPool.lean ====
section
/-!
DEFINITION. KV pools and pages (R137 to R141): pool records, the layout of a page, its header, and who may read or append.
-/

namespace Sys2Proof.Machine

/-- A pool record (R137). -/
structure Pool where
  /-- MODEL_KEY -/
  key : Nat
  /-- FMT -/
  fmt : Nat
  /-- LAYERS -/
  layers : Nat
  /-- HKV -/
  hkv : Nat
  /-- G -/
  g : Nat
  /-- D -/
  d : Nat
  /-- SM_SCALE -/
  scale : F32
  /-- POOL_ADDR -/
  addr : Nat
  /-- PAGES -/
  pages : Nat
  /-- ROPE_MODE -/
  ropeMode : Nat
  /-- ROPE_DIMS -/
  ropeDims : Nat
  /-- ROPE_TABLE -/
  ropeTable : Nat
  /-- WINDOW_TABLE -/
  window : Nat
  /-- word 0, as SHAPE0 carries it -/
  shape0 : Nat
  /-- word 1 bits [31:0], as SHAPE1 carries it -/
  shape1 : Nat
  deriving DecidableEq, Repr

/-- The address of pool record `n` of a lodge. -/
def State.poolRecAddr (s : State) (l n : Nat) : Nat := s.rd Reg.attPoolAddr l * 64 + 64 * n

/-- The record, without its checks. -/
def State.poolRaw (s : State) (l n : Nat) : Pool :=
  let a := s.poolRecAddr l n
  let w (i : Nat) := s.peekNat l (a + 8 * i) 8
  { key := bits 0 48 (w 0), fmt := bits 48 4 (w 0), layers := bits 56 8 (w 0), hkv := bits 0 8 (w 1), g := bits 8 5 (w 1),
    d := bits 16 9 (w 1), scale := BitVec.ofNat 32 (bits 32 32 (w 1)), addr := w 2, pages := bits 0 32 (w 3),
    ropeMode := bits 32 2 (w 3), ropeDims := bits 40 9 (w 3), ropeTable := w 4, window := w 5, shape0 := w 0,
    shape1 := bits 0 32 (w 1) }

/-- Reserved bits of a record are zero. -/
def State.poolReserved (s : State) (l n : Nat) : Bool :=
  let a := s.poolRecAddr l n
  let w (i : Nat) := s.peekNat l (a + 8 * i) 8
  bits 52 4 (w 0) == 0 && bits 13 3 (w 1) == 0 && bits 25 7 (w 1) == 0 && bits 34 6 (w 3) == 0 && bits 49 15 (w 3) == 0 &&
  w 6 == 0 && w 7 == 0

/-- The ranges of R137. -/
def Pool.ok (p : Pool) : Bool :=
  (p.fmt == 6 || p.fmt == 7) && p.layers != 0 && p.hkv != 0 && decide (p.hkv ≤ 64) && p.g != 0 && decide (p.g ≤ 16) &&
  decide (p.g * p.hkv ≤ 256) && [64, 96, 128, 192, 256].contains p.d && decide (p.addr % 2 ^ 21 = 0) && p.ropeMode != 3 &&
  (if p.ropeMode = 0 then p.ropeDims == 0 else decide (2 ≤ p.ropeDims) && decide (p.ropeDims ≤ p.d) && decide (p.ropeDims % 2 = 0))

/-- The pool a command names: its record when enabled, readable and within R137; else the status. The status of a record that cannot be read is the
model's choice (DESIGN CHOICE, log 136). -/
def State.pool (s : State) (l n : Nat) : Option Pool × Nat :=
  if n ≥ 8 ∨ bitAt n (s.rd Reg.attPoolEnEnable l) = false then (none, St.badPool)
  else
    let st := s.readStatus l (s.poolRecAddr l n) 64
    if st = St.memUncorr then (none, st)
    else if st ≠ St.ok ∨ !(s.poolRaw l n).ok ∨ !s.poolReserved l n then (none, St.badPool)
    else (some (s.poolRaw l n), St.ok)

/-- Query heads. -/
def Pool.hq (p : Pool) : Nat := p.g * p.hkv
/-- The KV format. -/
def Pool.kv (p : Pool) : Fmt := if p.fmt = 6 then .kv4 else .kv8
/-- E of R138. -/
def Pool.elemBytes (p : Pool) : Nat := p.kv.bytesOf (p.hkv * 64 * p.d)
/-- Sc of R138. -/
def Pool.scaleBytes (p : Pool) : Nat := p.hkv * 64 * p.d / 32
/-- LB of R138. -/
def Pool.layerBytes (p : Pool) : Nat := ceilDiv (2 * p.elemBytes + 2 * p.scaleBytes) 1024 * 1024
/-- PAGE_BYTES of R138. -/
def Pool.pageBytes (p : Pool) : Nat := ceilDiv (1024 + p.layers * p.layerBytes) (2 ^ 21) * 2 ^ 21
/-- The address of KV page `n`. -/
def Pool.pageAddr (p : Pool) (n : Nat) : Nat := p.addr + n * p.pageBytes
/-- The address of layer block `l` of KV page `n`. -/
def Pool.layerAddr (p : Pool) (n l : Nat) : Nat := p.pageAddr n + 1024 + l * p.layerBytes

/-! ## The page header (R139) -/

/-- Word `i` of a page's header. -/
def State.hdr (s : State) (l : Nat) (p : Pool) (n i : Nat) : Nat := s.peekNat l (p.pageAddr n + 8 * i) 8
/-- Write word `i`. -/
def State.setHdr (s : State) (l : Nat) (p : Pool) (n i v : Nat) : State := s.pokeNat l (p.pageAddr n + 8 * i) 8 v
/-- What reading the header meets. -/
def State.hdrStatus (s : State) (l : Nat) (p : Pool) (n : Nat) : Nat := s.readStatus l (p.pageAddr n) 1024
/-- OWNER_DEV. -/
def State.ownerDev (s : State) (l : Nat) (p : Pool) (n : Nat) : Nat := bits 0 24 (s.hdr l p n 0)
/-- OWNER_HANDLE. -/
def State.ownerHandle (s : State) (l : Nat) (p : Pool) (n : Nat) : Nat := bits 32 32 (s.hdr l p n 0)
/-- SHARE. -/
def State.share (s : State) (l : Nat) (p : Pool) (n : Nat) : Nat := bits 0 16 (s.hdr l p n 1)
/-- FILLED. -/
def State.filled (s : State) (l : Nat) (p : Pool) (n : Nat) : Nat := bits 16 7 (s.hdr l p n 1)
/-- The owner word of a device and handle. -/
def ownerWord (dev handle : Nat) : Nat := dev + handle * 2 ^ 32
/-- PARENT of a list's first page. -/
def noParent : Nat := 0xFFFFFFFFFF
/-- TOKENS of slot `t`. -/
def State.pageToken (s : State) (l : Nat) (p : Pool) (n t : Nat) : Nat := s.peekNat l (p.pageAddr n + 256 + 4 * t) 4

/-- The append condition of R141. -/
def State.mayAppend (s : State) (l : Nat) (p : Pool) (n dev handle : Nat) : Bool :=
  s.share l p n == 0 && s.hdr l p n 0 == ownerWord dev handle

/-- The read condition of R141. -/
def State.mayRead (s : State) (l : Nat) (p : Pool) (n dev handle : Nat) : Bool :=
  s.mayAppend l p n dev handle || decide (1 ≤ s.share l p n)

/-- A page is in use: owned (handle 0 names no request, R201) or shared. -/
def State.pageUsed (s : State) (l : Nat) (p : Pool) (n : Nat) : Bool := s.ownerHandle l p n != 0 || s.share l p n != 0

/-- The pool and KV page that an address of a lodge lies in. -/
def State.kvAt (s : State) (l addr : Nat) : Option (Pool × Nat) :=
  (natsFrom 0 8).findSome? fun i =>
    match (s.pool l i).1 with
    | some p =>
      if p.addr ≤ addr ∧ addr < p.addr + p.pages * p.pageBytes then some (p, (addr - p.addr) / p.pageBytes) else none
    | none => none

/-- A span access to pages of a KV pool (R246): a load under the read condition, a store under the append condition, both for
the requesting device (span messages carry no handle). -/
def State.kvSpanOk (s : State) (l dev addr n : Nat) (store : Bool) : Bool :=
  (pagesOf addr n).all fun pg =>
    match s.kvAt l (max addr (pg * 2 ^ 21)) with
    | none => true
    | some (p, k) =>
      let mine := s.share l p k == 0 && s.ownerDev l p k == dev
      mine || (!store && decide (1 ≤ s.share l p k))

end Sys2Proof.Machine
end

