-- ==== Sys2Proof/Machine/Trig.lean ====
section
/-!
DEFINITION. Sine and cosine in FP32, correctly rounded (R142).
-/

namespace Sys2Proof.Machine

/-- `Σ (−1)^k t / (2k+1)` with `t` falling by `nn` each term: an inverse tangent at a fixed point. -/
def atanInv (nn : Int) : Nat → Int → Int → Int
  | 0, _, _ => 0
  | n + 1, k, t => t / (2 * k + 1) - atanInv nn n (k + 1) (t / nn)

/-- π at `2^-q`. -/
def piFix (q : Nat) : Int :=
  16 * atanInv 25 (q / 4 + 4) 0 (2 ^ q / 5) - 4 * atanInv 57121 (q / 15 + 4) 0 (2 ^ q / 239)

/-- The alternating series of sine (`o` = 1) or cosine (`o` = 0) at `2^-q`: term `i` is `t`. -/
def trigSum (rr : Int) (q : Nat) (o : Int) : Nat → Int → Int → Int
  | 0, _, _ => 0
  | n + 1, i, t => t + trigSum rr q o n (i + 1) (-(t * rr / 2 ^ q) / ((2 * i + 1 + o) * (2 * i + 2 + o)))

/-- Extra bits below the working precision: every FP32 argument is exact at them. -/
def trigShift : Nat := 160

/-- sin (`isSin`) or cos of `x` at `2^-(p + 160)`: the argument is reduced by multiples of π/2. -/
def trigFix (isSin : Bool) (s : Bool) (m : Nat) (e : Int) (p : Nat) : Int :=
  let q := p + trigShift
  let half := piFix (q + trigShift) / 2
  let x0 : Int := if 0 ≤ e + q then m * 2 ^ (e + q).toNat else m / 2 ^ (-(e + q)).toNat
  let x : Int := (if s then -x0 else x0) * 2 ^ trigShift
  let k := (2 * x + half) / (2 * half)
  let r := (x - k * half) / 2 ^ trigShift
  let rr := r * r / 2 ^ q
  let n := q / 4 + 4
  let sn := trigSum rr q 1 n 0 r
  let cs := trigSum rr q 0 n 0 (2 ^ q)
  let j := if isSin then k % 4 else (k + 1) % 4
  if j = 0 then sn else if j = 1 then cs else if j = 2 then -sn else -cs

/-- sin or cos of an exact value, correctly rounded. -/
def trigRound (isSin : Bool) : Num → Fl Nat
  | .fin s m e =>
    if m = 0 then roundNum fmt32 (if isSin then .fin s 0 0 else .fin false 1 0)
    else refine fmt32 (trigFix isSin s m e) (-(trigShift : Int)) precisions
  | _ => roundNum fmt32 .nan

/-- sin of R142. -/
def sin32 : F32 → Fl F32 := un32 fun a => (trigRound true a).map (BitVec.ofNat 32)
/-- cos of R142. -/
def cos32 : F32 → Fl F32 := un32 fun a => (trigRound false a).map (BitVec.ofNat 32)

end Sys2Proof.Machine
end

