-- ==== Sys2Proof/Machine/AttMath.lean ====
section
/-!
DEFINITION. The arithmetic of attention (R142 to R151): rotation, the quantised append, scores, page partials, merges and the
fixed tree, and the claims of R152.
-/

namespace Sys2Proof.Machine

/-! ## Rotation (R142) -/

/-- The two lanes that pair `i` of a rotation turns. -/
def ropePair (mode half i : Nat) : Nat × Nat := if mode = 1 then (2 * i, 2 * i + 1) else (i, i + half)

/-- One pair of R142. -/
def ropeStep (mode half : Nat) (pos : F32) (inv x : List F32) (i : Nat) : Fl (List F32) :=
  let (j, k) := ropePair mode half i
  let xj := x.getD j 0
  let xk := x.getD k 0
  (mul32 pos (inv.getD i 0)).bind fun a => (cos32 a).bind fun c => (sin32 a).bind fun s =>
  (mul32 xj c).bind fun p => (mul32 xk s).bind fun q => (sub32 p q).bind fun u =>
  (mul32 xj s).bind fun r => (mul32 xk c).bind fun t => (add32 r t).map fun v => (x.set j u).set k v

/-- A row of one head rotated for its position. -/
def rope (p : Pool) (inv : List F32) (pos : Nat) (x : List F32) : Fl (List F32) :=
  if p.ropeMode = 0 then Fl.pure x
  else
    let half := p.ropeDims / 2
    Fl.fold (ropeStep p.ropeMode half (intF32 (Int.ofNat pos)) inv) x (natsFrom 0 half)

/-- BF16 bytes as FP32 lanes. -/
def bf16Lanes (bs : List Byte) (n : Nat) : Fl (List F32) :=
  Fl.mapList (fun i => decode32 .bf16 (leNat ((bs.drop (2 * i)).take 2)) 0) (natsFrom 0 n)

/-! ## Appending (R143) -/

/-- K (`v` = 0, rotated) or V (`v` = 1) of head `h` of an append row as element and scale bytes of the KV format, with the flags of R61 and R63
(R142, R143, R159). -/
def Pool.kvBytes (p : Pool) (inv : List F32) (pos v h : Nat) (row : List Byte) : Fl (List Byte × List Byte) :=
  (bf16Lanes (row.drop ((v * p.hkv + h) * p.d * 2)) p.d).bind fun x =>
    (if v = 0 then rope p inv pos x else Fl.pure x).bind (encodeRow p.kv)

/-- Put one head's bytes of K (`v` = 0) or V (`v` = 1) at a slot of a layer block. -/
def State.putKv (s : State) (l : Nat) (p : Pool) (page layer v h slot : Nat) (b : List Byte × List Byte) : State :=
  let a := p.layerAddr page layer
  let i := h * 64 + slot
  (s.pokeHome l (a + v * p.elemBytes + p.kv.bytesOf (i * p.d)) b.1).pokeHome l (a + 2 * p.elemBytes + v * p.scaleBytes + i * (p.d / 32)) b.2

/-- One append row: K heads, rotated, then V heads (R142, R143, R159). -/
def State.appendRow (s : State) (l : Nat) (p : Pool) (inv : List F32) (page layer pos : Nat) (row : List Byte) : State :=
  let s := (natsFrom 0 p.hkv).foldl (fun s h => s.putKv l p page layer 0 h (pos % 64) (p.kvBytes inv pos 0 h row).val) s
  (natsFrom 0 p.hkv).foldl (fun s h => s.putKv l p page layer 1 h (pos % 64) (p.kvBytes inv pos 1 h row).val) s

/-- The flags that appending a row sets (R61, R63). -/
def Pool.rowFlags (p : Pool) (inv : List F32) (pos : Nat) (row : List Byte) : Flags :=
  (natsFrom 0 (2 * p.hkv)).foldl (fun f i => f ||| (p.kvBytes inv pos (i / p.hkv) (i % p.hkv) row).fl) 0

/-- Bytes of one append row. -/
def Pool.appendBytes (p : Pool) : Nat := 2 * p.hkv * p.d * 2

/-! ## What a query row sees (R145, R146) -/

/-- A row at `q` sees position `p`. -/
def sees (visible window q p : Nat) : Bool :=
  decide (p < visible) && decide (p ≤ q) && (window == 0 || decide (q - p < window))

/-- The positions of list entry `j` that a row at `q` sees, ascending. -/
def seenIn (visible window q j : Nat) : List Nat := (natsFrom (64 * j) 64).filter (sees visible window q)

/-- Some query row sees a position of entry `j`. -/
def entrySeen (visible window qpos nq j : Nat) : Bool :=
  (natsFrom qpos nq).any fun q => seenIn visible window q j != []

/-- List entries below `⌈VISIBLE/64⌉`. -/
def listLen (visible : Nat) : Nat := ceilDiv visible 64

/-! ## Partials (R147 to R150) -/

/-- A partial: o and its log-sum-exp. -/
structure Part where
  /-- o -/
  o : List F32
  /-- lse -/
  lse : F32
  deriving DecidableEq, Repr

/-- FP32 −∞. -/
def negInf : F32 := 0xFF800000

/-- The empty partial. -/
def Part.empty (d : Nat) : Part := ⟨List.replicate d 0, negInf⟩

/-- Decoded elements of one head's row in a layer block. -/
def State.kvRow (s : State) (l : Nat) (p : Pool) (page layer v h slot : Nat) : List (Fl Num) :=
  let a := p.layerAddr page layer
  let i := h * 64 + slot
  let bs := s.peek l (a + v * p.elemBytes + p.kv.bytesOf (i * p.d)) (p.kv.bytesOf p.d)
  let sc := s.peek l (a + 2 * p.elemBytes + v * p.scaleBytes + i * (p.d / 32)) (p.d / 32)
  (natsFrom 0 p.d).map fun k => decodeNum p.kv (elemAt p.kv bs k) (sc.getD (k / 32) 0).toNat

/-- The score of a position (R147). -/
def score (p : Pool) (q : List F32) (k : List (Fl Num)) : Fl F32 :=
  (contract p.d fun i => dotProd (rd32 (q.getD i 0)) (k.getD i ⟨.fin false 0 0, 0⟩)).bind fun s => mul32 s p.scale

/-- The accumulation of R148 over scores and V rows. -/
def accV (m : F32) : List (F32 × List F32) → F32 → List F32 → Fl (F32 × List F32)
  | [], l, acc => Fl.pure (l, acc)
  | (t, v) :: r, l, acc =>
    (sub32 t m).bind fun x => (exp32 x).bind fun e => (add32 l e).bind fun l' =>
    (Fl.zipList (fun vi ai => fma32 e vi ai) v acc).bind fun acc' => accV m r l' acc'

/-- A page partial (R148). -/
def pagePart (d : Nat) (ts : List (F32 × List F32)) : Fl Part :=
  match ts with
  | [] => Fl.pure (Part.empty d)
  | t :: r =>
    (Fl.fold (fun m (x : F32 × List F32) => max32 m x.1) t.1 r).bind fun m =>
    (accV m ts 0 (List.replicate d 0)).bind fun la =>
    (Fl.mapList (fun a => div32 a la.1) la.2).bind fun o =>
    (log32 la.1).bind fun g => (add32 m g).map fun lse => ⟨o, lse⟩

/-- merge (R149). -/
def Part.merge (a b : Part) : Fl Part :=
  if b.lse = negInf then Fl.pure a
  else if a.lse = negInf then Fl.pure b
  else
    (max32 a.lse b.lse).bind fun mx => (sub32 a.lse mx).bind fun xa => (exp32 xa).bind fun ea =>
    (sub32 b.lse mx).bind fun xb => (exp32 xb).bind fun eb => (add32 ea eb).bind fun s =>
    (div32 ea s).bind fun wa => (div32 eb s).bind fun wb =>
    (Fl.zipList (fun x y => (mul32 wb y).bind fun z => fma32 wa x z) a.o b.o).bind fun o =>
    (log32 s).bind fun g => (add32 mx g).map fun lse => ⟨o, lse⟩

/-- Node (L, i) of the tree over `n` list entries (R150): `leaf` gives what is already known of a node. -/
def attNode (d n : Nat) (known : Nat → Nat → Option (Fl Part)) : Nat → Nat → Fl Part
  | 0, i => if i < n then (known 0 i).getD (Fl.pure (Part.empty d)) else Fl.pure (Part.empty d)
  | L + 1, i =>
    if n ≤ i * 2 ^ (L + 1) then Fl.pure (Part.empty d)
    else
      match known (L + 1) i with
      | some p => p
      | none =>
        (attNode d n known L (2 * i)).bind fun a => (attNode d n known L (2 * i + 1)).bind fun b => a.merge b

/-- Levels above the page partials. -/
def attLevels : Nat := 15

/-! ## Claims (R152) -/

/-- Every entry of the node below `n` names the home, and one exists. -/
def nodeOf (homes : List Nat) (h L i : Nat) : Bool :=
  let r := (homes.drop (i * 2 ^ L)).take (2 ^ L)
  r != [] && r.all (· == h)

/-- The nodes a home claims below a node, in order. -/
def claims (homes : List Nat) (h : Nat) : Nat → Nat → List (Nat × Nat)
  | 0, i => if nodeOf homes h 0 i then [(0, i)] else []
  | L + 1, i =>
    if homes.length ≤ i * 2 ^ (L + 1) then []
    else if nodeOf homes h (L + 1) i then [(L + 1, i)]
    else claims homes h L (2 * i) ++ claims homes h L (2 * i + 1)

/-- The claims of a home in ascending (LEVEL, INDEX) order. -/
def claimList (homes : List Nat) (h : Nat) : List (Nat × Nat) :=
  let l := claims homes h attLevels 0
  (natsFrom 0 (attLevels + 1)).flatMap fun L => l.filter (·.1 == L)

end Sys2Proof.Machine
end

