-- ==== Sys2Proof/Machine/AttHome.lean ====
section
/-!
DEFINITION. The home side of attention (R134, R140, R141, R144, R161 to R164): reading an ATT_REQ, its checks, its pins, the
appends and the nodes, the ATT_RSP.
-/

namespace Sys2Proof

/-! ## ATT_REQ fields (R161) -/

/-- LAYER. -/
def Msg.attLayer (m : Msg) : Nat := m.fld 1 32 8
/-- POOL. -/
def Msg.attPool (m : Msg) : Nat := m.fld 1 40 3
/-- TOK. -/
def Msg.attTok (m : Msg) : Bool := bitAt 43 (m.word 1)
/-- HANDLE. -/
def Msg.attHandle (m : Msg) : Nat := m.fld 2 0 32
/-- VISIBLE. -/
def Msg.attVisible (m : Msg) : Nat := m.fld 2 32 32
/-- NA. -/
def Msg.attNa (m : Msg) : Nat := m.fld 3 0 16
/-- NQ. -/
def Msg.attNq (m : Msg) : Nat := m.fld 3 16 4
/-- Q_POS. -/
def Msg.attQpos (m : Msg) : Nat := m.fld 3 32 32
/-- A_POS. -/
def Msg.attApos (m : Msg) : Nat := m.fld 6 0 32
/-- NNODES. -/
def Msg.attNodes (m : Msg) : Nat := m.fld 6 32 8

/-- A node record: level, index, page numbers. -/
structure NodeRec where
  /-- LEVEL -/
  level : Nat
  /-- INDEX -/
  index : Nat
  /-- page numbers in ascending list position -/
  pages : List Nat
  deriving DecidableEq, Repr

/-- The node records of a body and the offset behind them. -/
def Msg.nodeRecs (m : Msg) : Nat → Nat → List NodeRec × Nat
  | 0, off => ([], off)
  | n + 1, off =>
    let w := m.at_ off 8
    let c := bits 32 16 w
    let pg := (natsFrom 0 c).map fun i => m.at_ (off + 8 + 4 * i) 4
    let (r, e) := m.nodeRecs n (off + 8 + ceilDiv c 2 * 8)
    (⟨bits 0 4 w, bits 4 15 w, pg⟩ :: r, e)

/-- Bytes rounded up to a multiple of 8. -/
def pad8 (n : Nat) : Nat := ceilDiv n 8 * 8

/-- Bytes with zeros up to a multiple of 8. -/
def padBytes (bs : List Byte) : List Byte := bs ++ List.replicate (pad8 bs.length - bs.length) 0

/-- The record of a node with its page numbers. -/
def NodeRec.bytes (n : NodeRec) : List Byte :=
  padBytes (leBytes 8 (n.level + n.index * 16 + n.pages.length * 2 ^ 32) ++ n.pages.flatMap (leBytes 4))

end Sys2Proof

namespace Sys2Proof.Machine

/-- FP32 words at an address. -/
def State.words32 (s : State) (l addr n : Nat) : List F32 :=
  (natsFrom 0 n).map fun i => BitVec.ofNat 32 (s.peekNat l (addr + 4 * i) 4)

/-- W_l of R145: 0 with no table. -/
def State.windowOf (s : State) (l : Nat) (p : Pool) (layer : Nat) : Nat :=
  if p.window = 0 then 0 else s.peekNat l (p.window + 4 * layer) 4

/-- What reading a pool's ROPE and WINDOW tables for one layer meets; R160 names no status for it (DESIGN CHOICE, log 137). -/
def State.tablesStatus (s : State) (l : Nat) (p : Pool) (layer : Nat) : Nat :=
  firstBad [if p.ropeMode = 0 then St.ok else s.readStatus l p.ropeTable (2 * p.ropeDims),
            if p.window = 0 then St.ok else s.readStatus l (p.window + 4 * layer) 4]

/-- Query rows are carried when nodes are (DEDUCED from R162: append messages carry none). -/
def attQueryBytes (p : Pool) (m : Msg) : Nat := if m.attNodes = 0 then 0 else pad8 (m.attNq * p.hq * p.d * 2)

/-- The KV page of list entry `j` for an append: a page number the message carries, else the one the owner was given for that
place (R144, R162). -/
def State.appendPage (s : State) (l : Nat) (m : Msg) (recs : List NodeRec) (j : Nat) : Option Nat :=
  match recs.findSome? fun r =>
      if r.index * 2 ^ r.level ≤ j then r.pages[j - r.index * 2 ^ r.level]? else none with
  | some p => some p
  | none =>
    match (m.w.drop 7)[j - m.attApos / 64]? with
    | some p => some p
    | none =>
      let lo := l * 2 ^ 36 + m.attPool * 2 ^ 32
      (s.att.index.find? fun e =>
        decide (lo ≤ e.1) && decide (e.1 < lo + 2 ^ 32) && e.2 / 2 == j &&
        (match (s.pool l m.attPool).1 with
         | some p => s.hdr l p (e.1 - lo) 0 == ownerWord m.src m.attHandle
         | none => false)).map fun e => e.1 - lo

/-- List entries that the append rows of a message touch. -/
def attAppendEntries (m : Msg) : List Nat :=
  if m.attNa = 0 then [] else natsFrom (m.attApos / 64) ((m.attApos + m.attNa - 1) / 64 + 1 - m.attApos / 64)

/-- The pages of the nodes that some query row sees, with their list entries (R146). -/
def State.readPages (s : State) (l : Nat) (p : Pool) (m : Msg) (recs : List NodeRec) : List (Nat × Nat) :=
  let w := s.windowOf l p m.attLayer
  (recs.flatMap fun r => (natsFrom (r.index * 2 ^ r.level) r.pages.length).zip r.pages).filter fun e =>
    decide (e.1 < listLen m.attVisible) && entrySeen m.attVisible w m.attQpos m.attNq e.1

/-- Page keys of the parts of KV pages a request touches: headers and one layer block each. -/
def kvKeys (l : Nat) (p : Pool) (layer : Nat) (pages : List Nat) : List Nat :=
  (sortDedup (pages.flatMap fun n => pagesOf (p.pageAddr n) 1024 ++ pagesOf (p.layerAddr n layer) p.layerBytes)).map (pageKey l)

/-- The checks of a request at its home (R136, R140, R141, R161, R283): the status, and what it touches. -/
structure AttPlan where
  /-- status; 0 serves it -/
  status : Nat
  /-- entries and pages appended to -/
  app : List (Nat × Nat)
  /-- entries and pages read -/
  rd : List (Nat × Nat)
  /-- pages to pin -/
  keys : List Nat
  deriving DecidableEq, Repr

/-- A request refused with a status. -/
def AttPlan.refused (st : Nat) : AttPlan := ⟨st, [], [], []⟩

/-- The checks of a request on a lodge's pool. -/
def State.attPlan (s : State) (l : Nat) (m : Msg) : AttPlan :=
  if s.stage < 4 then AttPlan.refused St.notReady
  else
    match s.pool l m.attPool with
    | (none, st) => AttPlan.refused st
    | (some p, _) =>
      if p.shape0 ≠ m.word 4 ∨ p.shape1 ≠ m.fld 5 0 32 then AttPlan.refused St.poolMismatch
      else if p.layers ≤ m.attLayer then AttPlan.refused St.badOperand
      else
        let recs := (m.nodeRecs m.attNodes 0).1
        let app := (attAppendEntries m).map fun j => (j, s.appendPage l m recs j)
        if (recs.any fun r => r.pages.any fun n => decide (p.pages ≤ n)) ||
            app.any (fun e => match e.2 with | some n => decide (p.pages ≤ n) | none => true) then
          AttPlan.refused St.badPagelist
        else
          let app := app.filterMap fun e => e.2.map fun n => (e.1, n)
          let st := firstBad (s.tablesStatus l p m.attLayer :: (app.map fun e => s.hdrStatus l p e.2))
          if st ≠ St.ok then AttPlan.refused st
          else
            let rd := s.readPages l p m recs
            let st := firstBad ((rd.map fun e => s.hdrStatus l p e.2) ++
              (app.map fun e => s.accessStatus l (p.layerAddr e.2 m.attLayer) p.layerBytes) ++
              (rd.map fun e => s.readStatus l (p.layerAddr e.2 m.attLayer) p.layerBytes))
            if st ≠ St.ok then AttPlan.refused st
            else if app.any (fun e => !s.mayAppend l p e.2 m.src m.attHandle) ||
                rd.any (fun e => !s.mayRead l p e.2 m.src m.attHandle) then AttPlan.refused St.notOwner
            else
              let keys := kvKeys l p m.attLayer ((app ++ rd).map (·.2))
              if (s.stacksOf keys).any fun st => bitAt st (s.rd Reg.nbuSelftestFail) then AttPlan.refused St.nbUnavailable
              else if keys.any s.outsideT1 then AttPlan.refused St.badOperand
              else ⟨St.ok, app, rd, keys⟩

/-! ## Serving -/

/-- The inverse frequencies of a pool's rotation. -/
def State.ropeInv (s : State) (l : Nat) (p : Pool) : List F32 :=
  if p.ropeMode = 0 then [] else s.words32 l p.ropeTable (p.ropeDims / 2)

/-- Append row `i` of a message whose rows start at `off`. -/
def attAppendRow (m : Msg) (p : Pool) (off i : Nat) : List Byte := (m.body.drop (off + i * p.appendBytes)).take p.appendBytes

/-- The append rows of a message written (R142 to R144). -/
def State.attAppend (s : State) (l : Nat) (p : Pool) (m : Msg) (app : List (Nat × Nat)) (off : Nat) : State :=
  let inv := s.ropeInv l p
  let pageAt (pos : Nat) : Nat := ((app.find? (·.1 == pos / 64)).map (·.2)).getD 0
  let s := (natsFrom 0 m.attNa).foldl (fun s i =>
    s.appendRow l p inv (pageAt (m.attApos + i)) m.attLayer (m.attApos + i) (attAppendRow m p off i)) s
  if m.attNq ≠ 0 then s
  else
    let tok := off + pad8 (m.attNa * p.appendBytes)
    let s := if m.attTok then
      (natsFrom 0 m.attNa).foldl (fun s i =>
        s.pokeNat l (p.pageAddr (pageAt (m.attApos + i)) + 256 + 4 * ((m.attApos + i) % 64)) 4 (m.at_ (tok + 4 * i) 4)) s
    else s
    if m.attLayer + 1 = p.layers then
      app.foldl (fun s e =>
        s.setHdr l p e.2 1 (putBits 16 7 (min 64 (m.attApos + m.attNa - 64 * e.1)) (s.hdr l p e.2 1))) s
    else s

/-- The flags that the append rows of a message set. -/
def State.appendFlags (s : State) (l : Nat) (p : Pool) (m : Msg) (off : Nat) : Flags :=
  (natsFrom 0 m.attNa).foldl (fun f i => f ||| p.rowFlags (s.ropeInv l p) (m.attApos + i) (attAppendRow m p off i)) 0

/-- The partial of a list entry for one query row and head. -/
def State.entryPart (s : State) (l : Nat) (p : Pool) (layer visible window q : Nat) (h : Nat) (qrow : List F32) (j page : Nat) :
    Fl Part :=
  (Fl.mapList (fun pos =>
    (score p qrow (s.kvRow l p page layer 0 h (pos % 64))).bind fun t =>
      (Fl.mapList toFp32 (s.kvRow l p page layer 1 h (pos % 64))).map fun v => (t, v)) (seenIn visible window q j)).bind (pagePart p.d)

/-- The partial of one claimed node for a query row and head (R150). -/
def State.nodePart (s : State) (l : Nat) (p : Pool) (m : Msg) (rd : List (Nat × Nat)) (r : NodeRec) (q h : Nat) (qrow : List F32) :
    Fl Part :=
  let w := s.windowOf l p m.attLayer
  let leaf (L i : Nat) : Option (Fl Part) :=
    if L = 0 then (rd.find? (·.1 == i)).map fun e => s.entryPart l p m.attLayer m.attVisible w q h qrow e.1 e.2 else none
  attNode p.d (listLen m.attVisible) leaf r.level r.index

/-- Bytes of a partial (R163). -/
def Part.bytes (x : Part) : List Byte := x.o.flatMap (fun v => leBytes 4 v.toNat) ++ leBytes 4 x.lse.toNat

/-- The partials a node returns: row order, then head order; the query rows are rotated for their positions (R142). -/
def State.nodeParts (s : State) (l : Nat) (p : Pool) (m : Msg) (rd : List (Nat × Nat)) (qoff : Nat) (r : NodeRec) : Fl (List Part) :=
  Fl.mapList (fun x =>
    let q := m.attQpos + x / p.hq
    (bf16Lanes ((m.body.drop (qoff + x * p.d * 2)).take (p.d * 2)) p.d).bind fun row =>
      (rope p (s.ropeInv l p) q row).bind (s.nodePart l p m rd r q (x % p.hq / p.g))) (natsFrom 0 (m.attNq * p.hq))

/-- ATT_RSP (R163). For the device's own command the reply also carries the flags of the work, behind the words of the message (R63). -/
def attRsp (self : Nat) (m : Msg) (status : Nat) (recs : List NodeRec) (body : List Byte) (flags : Flags := 0) : Msg :=
  { kind := 0x31, src := self, tenant := m.tenant,
    w := [m.fld 1 0 32 + m.attLayer * 2 ^ 32 + status * 2 ^ 40 + recs.length * 2 ^ 48] ++
      (if m.src = self ∧ flags ≠ 0 then [0, 0, 0, 0, 0, 0, flags.toNat] else []), body := body }

/-- Passes of the query rows of a request through the NBUs (R109, R135). -/
def attPasses (p : Pool) (m : Msg) : Nat := ceilDiv (p.g * m.attNq) 16

/-- Bytes of one appended row at the banks. -/
def Pool.kvRowBytes (p : Pool) : Nat := 2 * p.hkv * (p.kv.bytesOf p.d + p.d / 32)

/-- Bytes that a request reads and writes at the banks: layer blocks and appended rows (R135, R136, R288; DEDUCED, log 134). -/
def State.attBytes (s : State) (l : Nat) (m : Msg) (pl : AttPlan) : Nat :=
  match (s.pool l m.attPool).1 with
  | none => 0
  | some p => pl.rd.length * p.layerBytes + m.attNa * p.kvRowBytes

/-- Row steps of a request: the 1 KiB rows of its layer blocks once for each pass, and those its appended rows take up (R106, R135; DEDUCED,
log 134). -/
def attSteps (p : Pool) (m : Msg) (pl : AttPlan) : Nat :=
  pl.rd.length * (p.layerBytes / 1024) * attPasses p m + ceilDiv (m.attNa * p.kvRowBytes) 1024

/-- Serve a request whose checks pass, whose pages lie in T1 and whose bytes are granted: appends, then nodes; the reply. -/
def State.attServe (s : State) (l : Nat) (m : Msg) (pl : AttPlan) : State × Msg :=
  match (s.pool l m.attPool).1 with
  | none => (s, attRsp s.self m St.badPool [] [])
  | some p =>
    let (recs, qoff) := m.nodeRecs m.attNodes 0
    let off := qoff + attQueryBytes p m
    let f := s.appendFlags l p m off
    let s := ((s.rampAt pl.keys).count Reg.nbuRowstepCount (attSteps p m pl)).attAppend l p m pl.app off
    let rd := s.readPages l p m recs
    let s := s.touchReads l ((pl.app ++ rd).map (fun e => (p.pageAddr e.2, 1024)) ++ rd.map fun e => (p.layerAddr e.2 m.attLayer, p.layerBytes))
    let all := (recs.map fun r => r.pages.length).foldl (· + ·) 0
    let s := if m.attNq = 0 then s else s.count Reg.attSkipCount (all - rd.length)
    let parts := recs.map fun r => (r, s.nodeParts l p m rd qoff r)
    (s, attRsp s.self m St.ok recs (parts.flatMap fun x => leBytes 8 (x.1.level + x.1.index * 16) ++ x.2.val.flatMap Part.bytes)
      (parts.foldl (fun f x => f ||| x.2.fl) f))

/-- A refusal noted in the ATT registers. -/
def State.attReject (s : State) (status : Nat) : State :=
  let s := s.bump Reg.attRejectCount
  if status = St.notOwner then s.setBit Reg.attErrBits 0
  else if status = St.poolMismatch then s.setBit Reg.attErrBits 1
  else if status = St.badPagelist then s.setBit Reg.attErrBits 2
  else if status = St.memUncorr then s.setBit Reg.attErrBits 4
  else s

/-- An earlier request of the same owner is still in the queue (R164). -/
def attBlocked (m : Msg) (q : List AttWork) : Bool :=
  q.any fun w => w.msg.src == m.src && w.msg.tenant == m.tenant && w.msg.attHandle == m.attHandle

/-- The regulator grants the bytes of a request; with all of them it is served, else what is left stands in the queue (R136, R289). -/
def State.attGrant (s : State) (w : AttWork) (pl : AttPlan) : State × Option Msg × AttWork :=
  let g := s.grantAll 0 w.lodge (w.left.getD (s.attBytes w.lodge w.msg pl))
  if g.2 = 0 then
    let v := g.1.attServe w.lodge w.msg pl
    (v.1, some v.2, w)
  else (g.1, none, { w with left := some g.2 })

/-- One request at the home: its reply, or none while it waits for pages, for a stack that is suspended for temperature, or for grants (R134,
R136, R164). -/
def State.attTry (s : State) (w : AttWork) (before : List AttWork) : State × Option Msg × AttWork :=
  if attBlocked w.msg before then (s, none, w)
  else
    let pl := s.attPlan w.lodge w.msg
    if pl.status ≠ St.ok then
      ((s.attReject pl.status).raiseUncorr w.lodge pl.status [], some (attRsp s.self w.msg pl.status [] []), w)
    else if !pl.keys.all s.inT1 then
      if s.rd Reg.memLimFrames w.lodge 0 < s.tierUse w.lodge 1 + s.pinNeed pl.keys then
        (s.attReject St.t1Quota, some (attRsp s.self w.msg St.t1Quota [] []), w)
      else (s, none, w)
    else if s.suspendedAt pl.keys then (s, none, w)
    else s.attGrant w pl

/-- SAU k of stack n has work: a request of the queue whose pages lie in T1, none of its owner before it, has bytes of a layer block in one of
channels 16k to 16k + 15 (R134, R166; DEDUCED, log 36). -/
def State.sauBusy (s : State) (n k : Nat) : Bool :=
  ((natsFrom 0 s.att.queue.length).zip s.att.queue).any fun (i, w) =>
    w.pins.all s.inT1 && !attBlocked w.msg (s.att.queue.take i) &&
    match (s.pool w.lodge w.msg.attPool).1 with
    | none => false
    | some p =>
      let pl := s.attPlan w.lodge w.msg
      (pl.app ++ pl.rd).any fun e =>
        let a := p.layerAddr e.2 w.msg.attLayer
        (pagesOf a p.layerBytes).any fun pg =>
          let lo := max a (pg * 2 ^ 21)
          let hi := min (a + p.layerBytes) ((pg + 1) * 2 ^ 21)
          s.stacksOf [pageKey w.lodge pg] == [n] && (natsFrom (16 * k) 16).any (touchesChannel lo (hi - lo))

/-- The status that stops a request of another device before its pool is looked at (R164, R283, R296); 0 none. -/
def State.attGate (s : State) (m : Msg) : Nat :=
  if !s.on Reg.attCtrlEnable || s.rd Reg.lodPersonaPersona == 0 then St.notReady
  else
    match s.tenantLodge m.tenant with
    | none => St.noLodge
    | some l => if s.lodge l = 4 ∨ s.lodge l = 5 then St.notReady else St.ok

end Sys2Proof.Machine
end

