-- ==== Sys2Proof/Machine/Attention.lean ====
section
/-!
DEFINITION. The attention commands (R152, R155 to R165): checks, the requests a command sends, its replies, timeouts, and the
messages ATT_REQ and ATT_RSP.
-/

namespace Sys2Proof.Machine

/-! ## Descriptor and sequence table (R157, R158) -/

/-- LAYER. -/
def Cmd.attLayer (c : Cmd) : Nat := c.fld 7 0 8
/-- POOL. -/
def Cmd.attPool (c : Cmd) : Nat := c.fld 7 8 3
/-- LIVERY. -/
def Cmd.attLivery (c : Cmd) : Nat := c.fld 7 32 16

/-- One sequence. -/
structure Seq where
  /-- OFFSET of LIST -/
  off : Nat
  /-- DEVICE of LIST -/
  dev : Nat
  /-- SPACE and reserved bits of LIST -/
  space : Nat
  /-- HANDLE -/
  handle : Nat
  /-- LEN -/
  len : Nat
  /-- NA -/
  na : Nat
  /-- NQ -/
  nq : Nat
  /-- reserved bits -/
  rsv : Nat
  /-- Q_POS -/
  qpos : Nat
  deriving DecidableEq, Repr

/-- Sequence `i` of the table at an address. -/
def State.seqAt (s : State) (l addr i : Nat) : Seq :=
  let w (k : Nat) := s.peekNat l (addr + 32 * i + 8 * k) 8
  ⟨w 0, bits 0 24 (w 1), bits 24 40 (w 1), bits 0 32 (w 2), bits 32 32 (w 2), bits 0 16 (w 3), bits 16 4 (w 3), bits 20 12 (w 3),
    bits 32 32 (w 3)⟩

/-- VISIBLE. -/
def Seq.visible (q : Seq) : Nat := q.len + q.na

/-- The sequences of a command. -/
def State.seqs (s : State) (x : Cmd) (t : List OpEnt) : List Seq :=
  match roleOf 6 t with
  | some e => (natsFrom 0 x.fM).map (s.seqAt x.lodge e.addr)
  | none => []

/-! ## Checks (R159, R160) -/

/-- Positions of a request (R165). -/
def maxPositions : Nat := 2097152

/-- A sequence within the limits of its opcode. -/
def Seq.ok (op : Nat) (q : Seq) : Bool :=
  q.rsv == 0 && q.space == 0 && decide (q.visible ≤ maxPositions) && decide (q.qpos + q.nq ≤ maxPositions) &&
  (if op = 0x30 then decide (1 ≤ q.nq) && decide (q.nq ≤ 9) && decide (q.na ≤ 9)
   else q.nq == 0 && decide (1 ≤ q.na) && decide (q.na ≤ 4096))

/-- Entries of R159. -/
def attRoles (op k : Nat) (t : List OpEnt) : Bool :=
  let n (r : Nat) := roleCount r t
  if op = 0x30 then n 0 == 1 && n 1 == (if k = 0 then 0 else 1) && n 6 == 1 && n 3 == 1 && n 7 == 1 && t.length == (if k = 0 then 4 else 5)
  else if op = 0x31 then n 1 == 1 && n 6 == 1 && decide (n 4 ≤ 1) && t.length == 2 + n 4
  else n 4 == 1 && n 6 == 1 && n 3 == 1 && t.length == 3

/-- Formats (R159); a reserved code is refused in every opcode (R48). -/
def attBadFormat (x : Cmd) : Bool :=
  if (Fmt.ofCode x.fmtX).isNone || (Fmt.ofCode x.fmtW).isNone || (Fmt.ofCode x.fmtC).isNone then true
  else if x.op = 0x30 then x.fmtX != 1 || (x.fK != 0 && x.fmtW != 1) || !(x.fmtC == 0 || x.fmtC == 1)
  else if x.op = 0x31 then x.fmtW != 1
  else false

/-- Reading the sequence table meets (R88). -/
def State.seqStatus (s : State) (x : Cmd) (t : List OpEnt) : Nat :=
  if x.op = 0x32 then St.ok
  else match roleOf 6 t with
    | some e => s.readStatus x.lodge e.addr (32 * x.fM)
    | none => St.ok

/-- Bytes of an AUXOUT row. -/
def Pool.auxBytes (p : Pool) : Nat := 4 * p.hq + 4

/-- Extents, counts and limits (R88, R160, R165). -/
def State.attBadOperand (s : State) (x : Cmd) (p : Pool) : Bool :=
  let t := s.optab x
  let fits (role n : Nat) : Bool := match roleOf role t with | some e => e.fits n | none => true
  let rows (role n w : Nat) : Bool :=
    match roleOf role t with | some e => e.fits (if n = 0 then 0 else (n - 1) * e.stride + w) | none => true
  let out (role n w : Nat) : Bool :=
    rows role n w && (match roleOf role t with
      | some e => (natsFrom 0 n).all fun r => s.translates x.lodge (e.addr + r * e.stride) w
      | none => true)
  let base := decide (x.optabAddr % 64 ≠ 0) || s.optabBad x || t.any (fun e => e.space != 0 || e.staged) || x.progLen != 0 ||
    !attRoles x.op x.fK t || x.fM == 0
  if x.op = 0x32 then
    base || x.fN == 0 || decide (maxPositions < x.fM) || decide (32768 < x.fN) || !(fits 4 (4 * x.fM) && fits 6 (8 * x.fN) && out 3 1 4)
  else
    let q := s.seqs x t
    base || decide (4096 < x.fM) || !fits 6 (32 * x.fM) || q.any (fun q => !q.ok x.op) ||
    x.fN != (q.map (·.nq)).foldl (· + ·) 0 || x.fK != (q.map (·.na)).foldl (· + ·) 0 || decide (p.layers ≤ x.attLayer) ||
    !(rows 0 x.fN (p.hq * p.d * 2) && rows 1 x.fK p.appendBytes && fits 4 (4 * x.fK) &&
      (x.op != 0x30 || (out 3 x.fN (p.hq * p.d * (if x.fmtC = 0 then 4 else 2)) && out 7 x.fN p.auxBytes)))

/-- Reserved bits of an attention descriptor. -/
def attReserved (x : Cmd) : Bool :=
  decide (x.flags / 4 ≠ 0) || decide (x.fld 3 49 15 ≠ 0) || decide (x.fld 7 11 21 ≠ 0) || decide (x.fld 7 48 16 ≠ 0) ||
    (x.op != 0x32 && x.attLivery != 0)

/-- The checks of R160. -/
def attChecks (c : Nat) (s : State) (x : Cmd) : Checks :=
  let t := s.optab x
  let ots := s.readStatus x.lodge x.optabAddr (32 * x.optabCount)
  { first := if s.stage < 4 then St.notReady else St.ok
    reserved := attReserved x
    range := decide (x.fM ≥ 2 ^ 22) || decide (x.fN ≥ 2 ^ 24) || decide (x.fK ≥ 2 ^ 24) ||
      (x.op != 0x32 && ots == St.ok && s.seqStatus x t == St.ok && decide (x.fM ≤ 4096) &&
        (s.seqs x t).any fun q => decide (q.len ≥ 2 ^ 22) || decide (q.qpos ≥ 2 ^ 22))
    mid := (s.pool x.lodge x.attPool).2
    rest :=
      if attBadFormat x then St.badFormat
      else if ots ≠ St.ok ∧ x.optabCount ≠ 0 then ots
      else if s.seqStatus x t ≠ St.ok then s.seqStatus x t
      else if (match (s.pool x.lodge x.attPool).1 with | some p => s.attBadOperand x p | none => true) then St.badOperand
      else if !s.on Reg.nbuCtrlEnable then St.nbUnavailable
      else if (s.core c).quarantined then St.coreQuarantined
      else St.ok }

/-! ## Page lists -/

/-- Bytes of a list a command needs, in reads of at most 64 KiB. -/
def listChunks (n : Nat) : List (Nat × Nat) :=
  (natsFrom 0 (ceilDiv (8 * n) 65536)).map fun i => (65536 * i, min 65536 (8 * n - 65536 * i))

/-- A read of another device's memory on behalf of an attention command. -/
def State.farRead (s : State) (c p : Nat) (j : Job) (dev off len aux : Nat) : State :=
  s.issue { kind := 13, engine := 8, dst := dev, lodge := j.cmd.lodge, core := c, place := p, cmd := some j.cmd, addr := 0, off := off,
            len := len, aux := aux, stale := false,
            msg := mkMsg 0x61 s.self (s.tenantFor j.cmd.lodge) [0, off, len] [], reply := none }

/-- The data of the answered reads with an `aux` in a range, joined in order. -/
def State.farBytes (s : State) (c p lo n : Nat) : List Byte :=
  let l := (s.pendsOf c p).filter fun e => e.2.kind == 13 && decide (lo ≤ e.2.aux) && decide (e.2.aux < lo + n)
  (natsFrom lo n).flatMap fun a =>
    match l.find? (·.2.aux == a) with
    | some e => (match e.2.reply with | some m => m.body.take e.2.len | none => [])
    | none => []

/-- The first bad status among the answered reads. -/
def State.farStatus (s : State) (c p : Nat) : Nat :=
  firstBad (((s.pendsOf c p).filter fun e => e.2.kind == 13).map fun e =>
    match e.2.reply with | some m => m.fld 1 32 8 | none => St.ok)

/-- The entries of a sequence's page list below `⌈VISIBLE/64⌉`: home and page, as the entry holds it (R140). -/
def State.listOf (s : State) (c p l i : Nat) (q : Seq) : List (Nat × Nat) :=
  let n := listLen q.visible
  if q.dev = s.self then (natsFrom 0 n).map fun j => let w := s.peekNat l (q.off + 8 * j) 8; (bits 0 24 w, bits 24 40 w)
  else
    let bs := s.farBytes c p (i * 2 ^ 16) (listChunks n).length
    (natsFrom 0 n).map fun j => let w := leNat ((bs.drop (8 * j)).take 8); (bits 0 24 w, bits 24 40 w)

/-! ## The requests of a sequence (R152, R162) -/

/-- The claims of a home that are sent: nodes with a page some row sees, or that receive append rows. -/
def State.sentNodes (visible window : Nat) (q : Seq) (entries : List (Nat × Nat)) (h : Nat) : List NodeRec :=
  let n := entries.length
  let homes := entries.map (·.1)
  let app : List Nat := if q.na = 0 then [] else natsFrom (q.len / 64) ((q.len + q.na - 1) / 64 + 1 - q.len / 64)
  (claimList homes h).filterMap fun (L, i) =>
    let js := (natsFrom (i * 2 ^ L) (2 ^ L)).filter (· < n)
    if (js.any fun j => entrySeen visible window q.qpos q.nq j) || js.any app.contains then
      some ⟨L, i, js.map fun j => ((entries[j]?).map (·.2)).getD 0⟩
    else none

/-- Runs of consecutive append positions whose pages lie at one home: first position and count. -/
def appendRuns (entries : List (Nat × Nat)) (h : Nat) : List Nat → List (Nat × Nat)
  | [] => []
  | pos :: r =>
    let rest := appendRuns entries h r
    if ((entries[pos / 64]?).map (·.1)) = some h then
      match rest with
      | (a, n) :: t => if a = pos + 1 then (pos, n + 1) :: t else (pos, 1) :: rest
      | [] => [(pos, 1)]
    else rest

/-- Bytes of a bulk message at most (R162, R347): 2^20 flits of 256 bytes. -/
def bulkMax : Nat := 268435456

/-- Bytes of the answer to nodes. -/
def attRspBytes (p : Pool) (nq n : Nat) : Nat := 64 + n * (8 + nq * p.hq * (p.d + 1) * 4)

/-- One ATT_REQ of a sequence: its append run, its node records, and hints for a request at this device itself. -/
def State.attReqMsg (s : State) (x : Cmd) (t : List OpEnt) (p : Pool) (q : Seq) (q0 a0 : Nat) (apos na : Nat) (recs : List NodeRec)
    (hint : List Nat) : Msg :=
  let row (role i n : Nat) : List Byte :=
    match roleOf role t with | some e => s.peek x.lodge (e.addr + i * e.stride) n | none => []
  let qs := if recs = [] then [] else (natsFrom q0 q.nq).flatMap fun i => row 0 i (p.hq * p.d * 2)
  let as := (natsFrom (a0 + (apos - q.len)) na).flatMap fun i => row 1 i p.appendBytes
  let tok := roleCount 4 t != 0 && na != 0
  let ts := match roleOf 4 t with
    | some e => s.peek x.lodge (e.addr + 4 * (a0 + (apos - q.len))) (4 * na)
    | none => []
  { kind := 0x30, src := s.self, tenant := s.tenantFor x.lodge,
    w := [x.attLayer * 2 ^ 32 + x.attPool * 2 ^ 40 + (if tok then 2 ^ 43 else 0), q.handle + q.visible * 2 ^ 32,
          na + q.nq * 2 ^ 16 + q.qpos * 2 ^ 32, p.shape0, p.shape1, (if na = 0 then 0 else apos) + recs.length * 2 ^ 32, 0] ++ hint,
    body := recs.flatMap (·.bytes) ++ padBytes qs ++ padBytes as ++ (if tok then padBytes ts else []) }

/-- Node records cut into messages: at most 255 to a message and an answer within the limit. -/
def nodeCuts (p : Pool) (nq : Nat) (recs : List NodeRec) : List (List NodeRec) :=
  let per := (bulkMax - 64) / (8 + nq * p.hq * (p.d + 1) * 4)
  chunks (max 1 (min 255 per)) recs

/-- Runs cut so that each message holds its rows. -/
def cutRun (p : Pool) (r : Nat × Nat) : List (Nat × Nat) :=
  let per := max 1 ((bulkMax - 128) / (p.appendBytes + 4))
  (natsFrom 0 (ceilDiv r.2 per)).map fun i => (r.1 + i * per, min per (r.2 - i * per))

/-- The ATT_REQs of one sequence to one home (R162). -/
def State.seqMsgs (s : State) (x : Cmd) (t : List OpEnt) (p : Pool) (window : Nat) (q : Seq) (q0 a0 : Nat) (entries : List (Nat × Nat))
    (h : Nat) : List Msg :=
  let recs := State.sentNodes q.visible window q entries h
  let runs := appendRuns entries h (natsFrom q.len q.na)
  let hint (apos : Nat) : List Nat := if h = s.self then (entries.drop (apos / 64)).map (·.2) else []
  let one := match runs with
    | [] => [s.attReqMsg x t p q q0 a0 q.len 0 recs []]
    | [(a, n)] => [s.attReqMsg x t p q q0 a0 a n recs (hint a)]
    | _ => []
  match one with
  | [m] =>
    if recs = [] ∧ runs = [] then []
    else if recs.length ≤ 255 ∧ m.bytes.length ≤ bulkMax ∧ attRspBytes p q.nq recs.length ≤ bulkMax then [m]
    else
      ((runs.flatMap (cutRun p)).map fun r => s.attReqMsg x t p q q0 a0 r.1 r.2 [] (hint r.1)) ++
        (nodeCuts p q.nq recs).map fun rs => s.attReqMsg x t p q q0 a0 q.len 0 rs []
  | _ =>
    ((runs.flatMap (cutRun p)).map fun r => s.attReqMsg x t p q q0 a0 r.1 r.2 [] (hint r.1)) ++
      (nodeCuts p q.nq recs).map fun rs => s.attReqMsg x t p q q0 a0 q.len 0 rs []

/-- The first query row and first append row of sequence `i`. -/
def seqRows (qs : List Seq) (i : Nat) : Nat × Nat :=
  (qs.take i).foldl (fun (a : Nat × Nat) q => (a.1 + q.nq, a.2 + q.na)) (0, 0)

/-- An entry of a list of the command names a page beyond the 32 bits of width used: no pool has it, and it is refused rather than cut
(R46, R140; DESIGN CHOICE of the status, log 135). -/
def State.wideEntry (s : State) (c p : Nat) (x : Cmd) (qs : List Seq) : Bool :=
  ((natsFrom 0 qs.length).zip qs).any fun (i, q) => (s.listOf c p x.lodge i q).any fun e => decide (2 ^ 32 ≤ e.2)

/-- Every request of a command: sequence, home, message. -/
def State.attPlanCmd (s : State) (c p : Nat) (j : Job) (pool : Pool) : List (Nat × Nat × Msg) :=
  let x := j.cmd
  let qs := s.seqs x j.optab
  let w := s.windowOf x.lodge pool x.attLayer
  ((natsFrom 0 qs.length).zip qs).flatMap fun (i, q) =>
    let en := s.listOf c p x.lodge i q
    let (q0, a0) := seqRows qs i
    (sortDedup (en.map (·.1))).flatMap fun h => (s.seqMsgs x j.optab pool w q q0 a0 en h).map fun m => (i, h, m)

/-! ## The answers (R150, R151, R162, R163) -/

/-- The partials of one returned node for query row `i`, head `h`, read from a reply's body at `off`. -/
def Part.ofBody (m : Msg) (d off : Nat) : Part :=
  ⟨(natsFrom 0 d).map fun k => BitVec.ofNat 32 (m.at_ (off + 4 * k) 4), BitVec.ofNat 32 (m.at_ (off + 4 * d) 4)⟩

/-- Node (L, i) for one row and head among the replies of a sequence. -/
def knownNode (p : Pool) (nq row h : Nat) (rs : List Msg) (L i : Nat) : Option (Fl Part) :=
  let sz := 8 + nq * p.hq * (p.d + 1) * 4
  rs.findSome? fun m =>
    (natsFrom 0 (m.fld 1 48 8)).findSome? fun k =>
      let w := m.at_ (k * sz) 8
      if bits 0 4 w = L ∧ bits 4 15 w = i then
        some (Fl.pure (Part.ofBody m p.d (k * sz + 8 + (row * p.hq + h) * (p.d + 1) * 4)))
      else none

/-- The result of one query row: its heads. -/
def attRow (p : Pool) (q : Seq) (row : Nat) (rs : List Msg) : Fl (List Part) :=
  Fl.mapList (fun h => attNode p.d (listLen q.visible) (knownNode p q.nq row h rs) attLevels 0) (natsFrom 0 p.hq)

/-- A row whose every head is empty (R151: it happens exactly when no position is seen). -/
def rowEmpty (l : List Part) : Bool := l.all fun x => x.lse == negInf

/-- The stores of one query row into C and AUXOUT. -/
def attStores (fc : Fmt) (ec ea : OpEnt) (r : Nat) (v : Fl (List Part)) : List Store × Flags :=
  let enc := v.bind fun ps => encodeRow fc (ps.flatMap (·.o))
  (rowStores ec fc r 0 enc.val ++
    [⟨ea.space, ea.addr + r * ea.stride,
      v.val.flatMap (fun x => leBytes 4 x.lse.toNat) ++ leBytes 4 (if rowEmpty v.val then 1 else 0)⟩], enc.fl)

/-- Entries of this device's ledger that met an empty result (R151). -/
def State.markEmpty (s : State) (l handle : Nat) : State :=
  { s with ldg := { s.ldg with entries := Tbl.adjust (handle % 2 ^ 16) (fun e =>
      if e.req.lodge = l ∧ e.gen = handle / 2 ^ 16 then { e with emptyAttn := true } else e) s.ldg.entries } }

/-- The empty results of a query row are counted, and its request's entry is marked (R151, R166). -/
def State.noteEmpty (s : State) (l handle : Nat) (v : List Part) : State :=
  let s := s.bump Reg.attEmptyCount (v.countP fun x => x.lse == negInf)
  if rowEmpty v then s.markEmpty l handle else s

/-- Replies of a command's sequence. -/
def State.repliesOf (s : State) (c p i : Nat) : List Msg :=
  ((s.pendsOf c p).filter fun e => e.2.kind == 9 && e.2.aux == i).filterMap fun e => e.2.reply

/-- What the command itself reads in device memory (R177): operand table, sequence table, its own page lists, its rows and tokens. -/
def State.attReads (s : State) (j : Job) (pool : Pool) : List (Nat × Nat) :=
  let rows (role n w : Nat) : List (Nat × Nat) :=
    match roleOf role j.optab with
    | some e => (natsFrom 0 n).map fun r => (e.addr + r * e.stride, w)
    | none => []
  let run (role n : Nat) : List (Nat × Nat) := match roleOf role j.optab with | some e => [(e.addr, n)] | none => []
  (j.cmd.optabAddr, 32 * j.cmd.optabCount) :: run 6 (32 * j.cmd.fM) ++ run 4 (4 * j.cmd.fK) ++
    ((s.seqs j.cmd j.optab).filter fun q => q.dev == s.self).map (fun q => (q.off, 8 * listLen q.visible)) ++
    rows 0 j.cmd.fN (pool.hq * pool.d * 2) ++ rows 1 j.cmd.fK pool.appendBytes

/-- Flags that the homes' work set: those of this device's own home reach the command (R63; log 86). -/
def State.homeFlags (s : State) (c p : Nat) : Flags :=
  ((s.pendsOf c p).filterMap fun e => e.2.reply).foldl (fun f m => f ||| BitVec.ofNat 4 (m.word 8)) 0

/-- All replies are in: the tree is completed and C and AUXOUT are written (R150, R151, R162). -/
def State.attFinish (s : State) (c p : Nat) (j : Job) : State :=
  match (s.pool j.cmd.lodge j.cmd.attPool).1 with
  | none => (s.endJob c p j St.badPool).dropReplies c p
  | some pool =>
    let qs := s.seqs j.cmd j.optab
    let hf := s.homeFlags c p
    if j.cmd.op = 0x31 then (s.endRun c p j ⟨[], hf, 0, s.attReads j pool, 0⟩).dropReplies c p
    else
      match roleOf 3 j.optab, roleOf 7 j.optab, Fmt.ofCode j.cmd.fmtC with
      | some ec, some ea, some fc =>
        let rows := ((natsFrom 0 qs.length).zip qs).flatMap fun (i, q) =>
          let rs := s.repliesOf c p i
          (natsFrom 0 q.nq).map fun r => (q, (seqRows qs i).1 + r, attRow pool q r rs)
        let outs := rows.map fun (_, r, v) => attStores fc ec ea r v
        let s := rows.foldl (fun s x => s.noteEmpty j.cmd.lodge x.1.handle x.2.2.val) s
        let s := s.dropReplies c p
        s.endRun c p j ⟨outs.flatMap (·.1), (outs.map (·.2)).foldl (· ||| ·) hf, 0, s.attReads j pool, 0⟩
      | _, _, _ => (s.endJob c p j St.badOperand).dropReplies c p

/-- A home's status ended the command (R160). -/
def State.attFail (s : State) (c p status : Nat) : State :=
  ((s.endFarFault c p status (farFault status || status == St.notReady || status == St.t1Quota)).dropReplies c p)

/-- The reply to a request of this device: kept, or the end of its command (R160, R162). -/
def State.attReply (s : State) (tag : Nat) (m : Msg) : State :=
  match Tbl.find tag s.spn.out with
  | none => s
  | some pd =>
    if pd.kind ≠ 9 ∨ pd.reply.isSome then s
    else
      match s.owner pd with
      | none => s.closeTag tag
      | some _ =>
        let st := m.fld 1 40 8
        if st ≠ St.ok then (s.closeTag tag).attFail pd.core pd.place st
        else
          let s := s.keepReply tag m
          match s.job pd.core pd.place with
          | some j => if s.allAnswered pd.core pd.place then s.attFinish pd.core pd.place j else s
          | none => s

/-! ## The home queue -/

/-- A reply on its way: to another device, or to this device's own command. -/
def State.attDeliver (s : State) (dst : Nat) (l : Nat) (m : Msg) : State :=
  if dst = s.self then s.attReply (m.fld 1 0 32) m else s.send 8 l dst m

/-- Serve what can be served of the queue, in order (R164). -/
def State.attDrain (s : State) : List AttWork → List AttWork → State
  | [], keep => { s with att := { s.att with queue := keep } }
  | w :: r, keep =>
    match s.attTry w keep with
    | (s, some m, _) => (s.attDeliver w.msg.src w.lodge m).attDrain r keep
    | (s, none, w) => s.attDrain r (keep ++ [w])

/-- A request reaches the home (R134, R164): served at once, or queued with its pages pinned. -/
def State.attAccept (s : State) (l : Nat) (m : Msg) : State :=
  match s.attTry ⟨m, l, (s.attPlan l m).keys, none⟩ s.att.queue with
  | (s, some r, _) => s.attDeliver m.src l r
  | (s, none, w) =>
    let s := s.abortForPins w.pins
    ({ s with att := { s.att with queue := s.att.queue ++ [w] } } : State).startPins

/-- The home queue takes a request: one of this device's own while its command goes on; another device's is counted and passes its gate first
(R161, R164). -/
def State.attTake (s : State) (m : Msg) : State :=
  if m.src = s.self then
    match Tbl.find (m.fld 1 0 32) s.spn.out with
    | none => s
    | some pd => if (s.owner pd).isSome then s.attAccept pd.lodge m else s.closeTag (m.fld 1 0 32)
  else
    let s := s.count Reg.attReqInCount
    let g := s.attGate m
    if g ≠ St.ok then (s.attReject g).send 8 ((s.tenantLodge m.tenant).getD 16) m.src (attRsp s.self m g [] [])
    else
      match s.tenantLodge m.tenant with
      | some l => s.attAccept l m
      | none => s

/-- Requests held back go into the home queue while it has room, oldest first (R25). -/
def State.attRoom (s : State) : Nat → State
  | 0 => s
  | n + 1 =>
    match s.att.held with
    | [] => s
    | m :: r =>
      if s.att.queue.length < 512 then ((({ s with att := { s.att with held := r } } : State).unstick m).attTake m).attRoom n else s

/-- A request is offered to the home queue: with 512 requests there, or others held back already, it is held back (R25, R164). -/
def State.attOffer (s : State) (m : Msg) : State :=
  if 512 ≤ s.att.queue.length ∨ s.att.held ≠ [] then { s with att := { s.att with held := s.att.held ++ [m] } } else s.attTake m

/-- Look at the home queue again: pages have come into T1, a stack works again or the regulators have been filled. Pages whose pins go may move
(R105), and requests held back find room. -/
def State.attWake (s : State) : State :=
  let q := s.att.queue
  if q = [] ∧ s.att.held = [] then s
  else
    let s := s.attDrain q []
    (s.attRoom s.att.held.length).retryMoves

/-- A request of a command at this very device takes a tag. -/
def State.attTag (s : State) (pd : Pend) : State × Msg :=
  let t := s.spn.nextTag
  let m := pd.msg.tagged t
  let s := s.putPend pd
  (s.awaitTag pd.core pd.place t, m)

/-- Local requests take their tags, one after another. -/
def State.attTags (s : State) : List Pend → State × List Msg
  | [] => (s, [])
  | pd :: r =>
    let (s, m) := s.attTag pd
    let (s, ms) := s.attTags r
    (s, m :: ms)

/-- Send the requests of a command: those to other devices first, then the local ones. -/
def State.attIssue (s : State) (c p : Nat) (j : Job) (l : List (Nat × Nat × Msg)) : State :=
  let mk (e : Nat × Nat × Msg) : Pend :=
    { kind := 9, engine := 8, dst := e.2.1, lodge := j.cmd.lodge, core := c, place := p, cmd := some j.cmd, addr := 0, off := 0, len := 0,
      aux := e.1, stale := false, msg := e.2.2, reply := none }
  let far := l.filter fun e => e.2.1 != s.self
  let near := l.filter fun e => e.2.1 == s.self
  let s := far.foldl (fun s e => s.issue (mk e)) s
  let (s, ms) := s.attTags (near.map mk)
  ms.foldl State.attOffer s

/-- Entries skipped for every row that are in no request (R146). -/
def State.countSkips (s : State) (c p : Nat) (j : Job) (pool : Pool) : State :=
  if j.cmd.op ≠ 0x30 then s
  else
    let x := j.cmd
    let w := s.windowOf x.lodge pool x.attLayer
    let qs := s.seqs x j.optab
    let n := (((natsFrom 0 qs.length).zip qs).map fun (i, q) =>
      let en := s.listOf c p x.lodge i q
      let sent := (sortDedup (en.map (·.1))).flatMap fun h => State.sentNodes q.visible w q en h
      en.length - (sent.map fun r => r.pages.length).foldl (· + ·) 0).foldl (· + ·) 0
    s.count Reg.attSkipCount n

/-- The run of ATTN and KV_APPEND: page lists first, then the requests (R159, R162). -/
def State.attRun (s : State) (c p : Nat) (j : Job) : State :=
  let j := { j with optab := s.optab j.cmd }
  match (s.pool j.cmd.lodge j.cmd.attPool).1 with
  | none => s.endJob c p j St.badPool
  | some pool =>
    let s := s.setJob c p j
    let pends := s.pendsOf c p
    let qs := s.seqs j.cmd j.optab
    let far := ((natsFrom 0 qs.length).zip qs).filter fun e => e.2.dev != s.self && e.2.visible != 0
    if pends.any (·.2.kind == 9) || s.hasTodo c p then s
    else if far ≠ [] ∧ pends = [] then
      if far.any fun e => !s.reaches j.cmd.lodge e.2.dev then s.endJob c p j 0x61
      else
        far.foldl (fun s e =>
          ((natsFrom 0 (listChunks (listLen e.2.visible)).length).zip (listChunks (listLen e.2.visible))).foldl (fun s x =>
            s.farRead c p j e.2.dev (e.2.off + x.2.1) x.2.2 (e.1 * 2 ^ 16 + x.1)) s) s
    else if pends.any fun e => e.2.reply.isNone then s
    else if s.farStatus c p ≠ St.ok then s.attFail c p (s.farStatus c p)
    else if s.wideEntry c p j.cmd qs then (s.setBit Reg.attErrBits 2).attFail c p St.badPagelist
    else
      let st := firstBad ((qs.map fun q =>
          if q.dev = s.self ∧ q.visible ≠ 0 then s.readStatus j.cmd.lodge q.off (8 * listLen q.visible) else St.ok) ++
        [s.tablesStatus j.cmd.lodge pool j.cmd.attLayer] ++
        (match roleOf 0 j.optab with
         | some e => (natsFrom 0 j.cmd.fN).map fun r => s.readStatus j.cmd.lodge (e.addr + r * e.stride) (pool.hq * pool.d * 2)
         | none => []) ++
        (match roleOf 1 j.optab with
         | some e => (natsFrom 0 j.cmd.fK).map fun r => s.readStatus j.cmd.lodge (e.addr + r * e.stride) pool.appendBytes
         | none => []) ++
        (match roleOf 4 j.optab with | some e => [s.readStatus j.cmd.lodge e.addr (4 * j.cmd.fK)] | none => []))
      if st ≠ St.ok then s.endJob c p j st
      else
        let l := s.attPlanCmd c p j pool
        let s := s.countSkips c p j pool
        if l.any (fun e => e.2.1 != s.self && !s.reaches j.cmd.lodge e.2.1) then (s.endJob c p j 0x61).dropReplies c p
        else
          if l.any fun e => e.2.2.fld 3 0 16 != 0 && s.wan.quiet.contains (e.2.1, e.2.2.fld 2 0 32) then (s.dropReplies c p).attFail c p St.notOwner
          else
          let s := (s.dropReplies c p).attIssue c p j l
          match s.job c p with
          | some k => if l = [] ∧ k.cmd = j.cmd ∧ k.st = .run then s.attFinish c p k else s
          | none => s

/-! ## PREFIX_MATCH (R155) -/

/-- What a compare at a candidate's home answers: a status, or whether the page matched. -/
structure CandAns where
  /-- status; 0 the page was compared -/
  status : Nat
  /-- it matched -/
  hit : Bool
  deriving DecidableEq, Repr

/-- A header and its TOKENS match, PARENT being as the list has it (R155). -/
def candOk (pool : Pool) (livery : Nat) (parent : Nat) (tok : List Byte) (bs : List Byte) : Bool :=
  let w (i : Nat) := leNat ((bs.drop (8 * i)).take 8)
  bits 0 48 (w 2) == pool.key && bits 48 16 (w 2) == livery && bits 16 7 (w 1) == 64 && bits 0 40 (w 3) == parent &&
  (bs.drop 256).take 256 == tok && tok.length == 256

/-- The compare of a candidate at this device's own home; a page outside the pool is BAD_PAGELIST (R140). -/
def State.candHere (s : State) (l : Nat) (pool : Pool) (livery parent page : Nat) (tok : List Byte) : CandAns :=
  if pool.pages ≤ page then ⟨St.badPagelist, false⟩
  else if s.hdrStatus l pool page ≠ St.ok then ⟨s.hdrStatus l pool page, false⟩
  else ⟨St.ok, candOk pool livery parent tok (s.peek l (pool.pageAddr page) 1024)⟩

/-- Statuses that a home answers a request with (R160), none first. -/
def homeStatuses : List Nat :=
  [St.ok, St.notOwner, St.noLodge, St.poolMismatch, St.badPagelist, St.notReady, St.t1Quota, St.memUncorr, St.badPool, St.nbUnavailable]

/-- The compare of a candidate at another home. No message carries it and the pages lie outside this device: status and answer are free
(DESIGN CHOICE, log 88). A page beyond the 32 bits used lies in no pool. -/
def candFar (free page : Nat) : CandAns :=
  if 2 ^ 32 ≤ page then ⟨St.badPagelist, false⟩
  else ⟨homeStatuses.getD (Config.freeNat free % 16) St.ok, Config.freeNat (free + 1) % 2 == 1⟩

/-- Leading matches of a candidate list: their count and the status that ended the compare (R155). -/
def matchCount (f : Nat → Nat → Nat × Nat → CandAns) : Nat → Nat → List (Nat × Nat) → Nat × Nat
  | _, _, [] => (0, St.ok)
  | k, parent, e :: r =>
    let a := f k parent e
    if a.status ≠ St.ok then (0, a.status)
    else if a.hit then
      let n := matchCount f (k + 1) e.2 r
      (1 + n.1, n.2)
    else (0, St.ok)

/-- The compare of candidate `k` against prompt tokens 64k to 64k + 63 in `tok`. -/
def State.candAt (s : State) (l : Nat) (pool : Pool) (livery : Nat) (tok : Nat → List Byte) (k parent : Nat) (e : Nat × Nat) : CandAns :=
  if e.1 = s.self then s.candHere l pool livery parent e.2 (tok k) else candFar (s.free + 2 * k) e.2

/-- The run of PREFIX_MATCH. -/
def State.prefixRun (s : State) (c p : Nat) (j : Job) : State :=
  let j := { j with optab := s.optab j.cmd }
  let x := j.cmd
  match (s.pool x.lodge x.attPool).1, roleOf 4 j.optab, roleOf 6 j.optab, roleOf 3 j.optab with
  | some pool, some eg, some ev, some ec =>
    let st := firstBad [s.readStatus x.lodge eg.addr (4 * x.fM), s.readStatus x.lodge ev.addr (8 * x.fN),
      s.accessStatus x.lodge ec.addr 4]
    let cands := (natsFrom 0 x.fN).map fun k => let w := s.peekNat x.lodge (ev.addr + 8 * k) 8; (bits 0 24 w, bits 24 40 w)
    if st ≠ St.ok then s.endJob c p j st
    else if cands.any (fun e => e.1 != s.self && !s.reaches x.lodge e.1) then s.endJob c p j 0x61
    else
      let tok (k : Nat) : List Byte := s.peek x.lodge (eg.addr + 256 * k) (min 256 (4 * x.fM - 256 * k))
      let n := matchCount (s.candAt x.lodge pool x.attLivery tok) 0 noParent cands
      let s := if cands.all fun e => e.1 == s.self then s else s.useFree (2 * x.fN)
      if n.2 ≠ St.ok then (s.setJob c p j).attFail c p n.2
      else
        let own := (cands.take (n.1 + 1)).filterMap fun e => if e.1 = s.self then some (pool.pageAddr e.2, 1024) else none
        s.endRun c p j ⟨[⟨0, ec.addr, leBytes 4 (min n.1 ((x.fM - 1) / 64))⟩], 0, 0,
          [(x.optabAddr, 32 * x.optabCount), (eg.addr, 4 * x.fM), (ev.addr, 8 * x.fN)] ++ own, 0⟩
  | _, _, _, _ => s.endJob c p j St.badPool

/-- The answer to a read for an attention command: the command goes on when it has them all. -/
def State.farAnswer (s : State) (tag : Nat) (m : Msg) : State :=
  match Tbl.find tag s.spn.out with
  | none => s
  | some pd =>
    match s.owner pd with
    | none => s.closeTag tag
    | some _ =>
      let s := s.keepReply tag m
      match s.job pd.core pd.place with
      | some j =>
        if s.allAnswered pd.core pd.place then s.attRun pd.core pd.place j else s
      | none => s

/-! ## Messages and timeouts -/

/-- ATT_REQ (R161, R164). -/
def State.attReqIn (s : State) (m : Msg) : State := s.attOffer { m with w := m.w.take 7 }

/-- ATT_TIMEOUT (R160): poisoned outputs, SPAN_TIMEOUT, ORPHANED. -/
def State.attTimeout (s : State) (tag : Nat) : State :=
  match Tbl.find tag s.spn.out with
  | none => s
  | some pd =>
    if pd.kind ≠ 9 ∨ pd.reply.isSome then s
    else
      let s := (s.bump Reg.attTimeoutCntCount).setBit Reg.attErrBits 3
      match s.owner pd with
      | none => s.closeTag tag
      | some j =>
        let outs := j.optab.filter fun e => e.role == 3 || e.role == 7
        let s := outs.foldl (fun s e =>
          (natsFrom 0 j.cmd.fN).foldl (fun s r => s.poisonRange j.cmd.lodge (e.addr + r * e.stride)
            (match (s.pool j.cmd.lodge j.cmd.attPool).1 with
             | some p => if e.role = 7 then p.auxBytes else p.hq * p.d * (if j.cmd.fmtC = 0 then 4 else 2)
             | none => 0)) s) s
        ((s.closeTag tag).orphanCmd pd.core pd.place pd.dst).dropReplies pd.core pd.place

/-! ## The commands -/

/-- ATTN (R159). -/
def execAttn (core : Fin 160) (place : Fin 8) (s : State) : Out :=
  .next (s.runSlot core (nearPlace place) 3 0x30 (attChecks core) fun s j => s.attRun core (nearPlace place) j).choices

/-- KV_APPEND (R144, R159). -/
def execKvAppend (core : Fin 160) (place : Fin 8) (s : State) : Out :=
  .next (s.runSlot core (nearPlace place) 3 0x31 (attChecks core) fun s j => s.attRun core (nearPlace place) j).choices

/-- PREFIX_MATCH (R155). -/
def execPrefixMatch (core : Fin 160) (place : Fin 8) (s : State) : Out :=
  .next (s.runSlot core (nearPlace place) 3 0x32 (attChecks core) fun s j => s.prefixRun core (nearPlace place) j).choices

/-- CUTOVER (R181): requests that wait for the page at this home go on. -/
def execCutover (lodge : Fin 16) (page : Nat) (s : State) : Out := .next (s.cutoverStep (pageKey lodge page)).attWake.choices

/-- ATT_REQ (R161). -/
def execAttReq (m : Msg) (s : State) : Out := .next (s.attReqIn m).choices


/-- ATT_TIMEOUT (R160). -/
def execAttTimeout (tag : Nat) (s : State) : Out := .next (s.attTimeout tag).choices

end Sys2Proof.Machine
end

