-- ==== Sys2Proof/Machine/FieldHome.lean ====
section
/-!
DEFINITION. Field connections (R404) and the receiving end of a field connection: writes applied one after another (R408), reads
served (R402, R411), refusals (R410), arrival counters (R387, R388).
-/

namespace Sys2Proof.Machine

/-! ## Arrival counters -/

/-- The counter is bound to the lodge. -/
def State.arrBound (s : State) (l a : Nat) : Bool :=
  match Tbl.find a s.spn.arr with | some x => x.lodge == l | none => false

/-- Add 1 to an arrival counter (R388). -/
def State.arrive (s : State) (a : Nat) : State :=
  { s with spn := { s.spn with arr := Tbl.adjust a (fun x => { x with count := (x.count + 1) % 2 ^ 32 }) s.spn.arr } }

/-! ## Connections -/

/-- CONN_FULL. -/
def connFull : Nat := 0x70
/-- BAD_CONN. -/
def badConn : Nat := 0x71
/-- CONN_ERROR. -/
def connErr : Nat := 0x72
/-- FIELD_TIMEOUT. -/
def fieldTimeout : Nat := 0x73
/-- NO_ARRIVAL. -/
def noArrival : Nat := 0x63

/-- A connection that is not FREE. -/
def State.conn (s : State) (k : Nat) : Option Conn := Tbl.find k s.fld.conns
/-- Change it. -/
def State.modConn (s : State) (k : Nat) (f : Conn → Conn) : State :=
  { s with fld := { s.fld with conns := Tbl.adjust k f s.fld.conns } }
/-- A field port. -/
def State.fport (s : State) (p : Nat) : FPort := Tbl.get FPort.reset p s.fld.ports
/-- Change it. -/
def State.modFport (s : State) (p : Nat) (f : FPort → FPort) : State :=
  { s with fld := { s.fld with ports := Tbl.set FPort.reset p (f (s.fport p)) s.fld.ports } }

/-- PAYLOAD_MAX in bytes (R426). -/
def State.payloadMax (s : State) : Nat := 1024 * 2 ^ s.rd Reg.fldCtrlPayloadMax

/-- Distance of PSN `a` from `b`, modulo 2^32; the upper half lies behind (R408). -/
def psnDiff (a b : Nat) : Nat := (a + 2 ^ 32 - b % 2 ^ 32) % 2 ^ 32

/-- The command in a place still runs, and is this one. -/
def State.fieldOwner (s : State) (core place : Nat) (cmd : Option Cmd) : Option Job :=
  (s.job core place).bind fun j => if cmd.isSome ∧ some j.cmd = cmd ∧ j.st = .run then some j else none

/-- Packets of a command are unacknowledged on some connection (R90). -/
def State.fieldOpen (s : State) (core place : Nat) (x : Cmd) : Bool :=
  s.fld.conns.any fun e => e.2.sent.any fun p => p.core == core && p.place == place && p.cmd == some x

/-! ## Errors (R404, R409, R410) -/

/-- The places whose commands are outstanding on a connection, ascending, each once. -/
def State.connPlaces (s : State) (c : Conn) : List (Nat × Nat) :=
  let at_ := (c.sent.map fun p => (p.core, p.place, p.cmd)) ++ (c.queue.map fun x => (x.core, x.place, x.cmd))
  let own := at_.filter fun e => (s.fieldOwner e.1 e.2.1 e.2.2).isSome
  (sortDedup (own.map fun e => e.1 * 16 + e.2.1)).map fun n => (n / 16, n % 16)

/-- Units of LOCAL that a read has not received are poisoned (R410). -/
def State.poisonReads (s : State) (c : Conn) : State :=
  let live (core place : Nat) (cmd : Option Cmd) := (s.fieldOwner core place cmd).isSome
  let a := (c.sent.filter fun p => p.kind == 2 && live p.core p.place p.cmd).map fun p =>
    (p.local_ + p.got * s.payloadMax, p.len - p.got * s.payloadMax)
  let b := (c.queue.filter fun x => x.kind == 2 && live x.core x.place x.cmd).map fun x => (x.local_ + x.next, x.len - x.next)
  (a ++ b).foldl (fun (s : State) r => s.poisonRange c.lodge r.1 r.2) s

/-- End the command of a place with a status. -/
def State.endPlace (s : State) (e : Nat × Nat) (status : Nat) : State :=
  match s.job e.1 e.2 with
  | some j => s.closeJob e.1 e.2 j status
  | none => s

/-- The connection enters ERROR; its outstanding commands end with a status. -/
def State.enterError (s : State) (k status : Nat) : State :=
  match s.conn k with
  | none => s
  | some c =>
    let ps := s.connPlaces c
    let s := s.modConn k fun c => { c with error := true, queue := [], sent := [], again := none, parked := none, rxMsg := [], rxWait := [], change := none }
    let s := (s.bump Reg.fldErrconnCount).setBit Reg.fldErrBits 1
    ps.foldl (fun (s : State) e => s.endPlace e status) s

/-- ERROR by retries: FIELD_TIMEOUT, poison, and the lodge context is orphaned (R410). -/
def State.retriesOut (s : State) (k : Nat) : State :=
  match s.conn k with
  | none => s
  | some c =>
    let e := (s.connPlaces c).headD (160, 15)
    let j := s.job e.1 e.2
    let x := j.map (·.cmd)
    let s := (s.poisonReads c).enterError k fieldTimeout
    s.orphanLodge c.lodge fieldTimeout 2 ((x.map (·.core)).getD 0) ((x.map fun x => if x.sched then 0xFF else x.ring).getD 0)
      ((x.map (·.tag)).getD 0) c.tenant c.dev

/-! ## Receiving -/

/-- A control packet becomes due at the connection's port. -/
def State.fieldCtl (s : State) (k kind psn syndrome status : Nat) : State :=
  match s.conn k with
  | none => s
  | some c => s.modFport c.port fun p => { p with ctl := p.ctl ++ [⟨kind, k, psn % 2 ^ 32, syndrome, status, 0, 0⟩] }

/-- Refuse a packet: NAK_REFUSED before its PSN, and the connection enters ERROR (R410). -/
def State.refusePacket (s : State) (k psn status : Nat) : State :=
  ((s.fieldCtl k 1 (psn + 2 ^ 32 - 1) 2 status).bump Reg.fldNakTxCount).enterError k connErr

/-- The PSN up to which everything is applied and visible: before the first packet that waits, else before EPSN. -/
def Conn.appliedTo (c : Conn) : Nat :=
  match c.rxWait with
  | [] => (c.rx + 2 ^ 32 - 1) % 2 ^ 32
  | p :: _ => (p.2.psn + 2 ^ 32 - 1) % 2 ^ 32

/-- Apply a WRITE packet: its bytes, charged to the lodge on their tier (R408), and what their visibility waits for (R187, R408). -/
def State.applyWrite (s : State) (k : Nat) (c : Conn) (p : FIn) : State :=
  let n := p.payload.length
  let st := s.accessStatus c.lodge p.addr n
  let a := bits 0 12 p.w1
  if st ≠ St.ok then s.refusePacket k p.psn st
  else if bitAt 12 p.w1 && !s.arrBound c.lodge a then s.refusePacket k p.psn noArrival
  else
    let (s, ts) := ((s.chargePath (s.pathAt c.lodge p.addr) c.lodge n).poke c.lodge p.addr p.payload).invalTracked c.lodge p.addr n 6 none 160 15
    s.modConn k fun c => { c with rxTags := ts, rxDone := some (p.ackReq, if p.last && bitAt 12 p.w1 then some a else none) }

/-- Serve a READ_REQ: its response packets join the send queue with the bytes of this moment (R402, R411). -/
def State.serveRead (s : State) (k : Nat) (c : Conn) (p : FIn) : State :=
  let n := bits 0 40 p.w1
  let st := s.readStatus c.lodge p.addr n
  if st ≠ St.ok then (s.raiseUncorr c.lodge st [(p.addr, n)]).refusePacket k p.psn st
  else
    let x : FItem := { kind := 3, core := 160, place := 15, cmd := none, addr := 0, local_ := p.addr, len := n, arr := none, psn := p.psn, next := 0,
                       body := s.peek c.lodge p.addr n, held := false }
    ((s.chargePath (s.pathAt c.lodge p.addr) c.lodge n).touch c.lodge p.addr n false).modConn k fun c => { c with queue := c.queue ++ [x] }

/-- The last write is visible: its arrival is counted, then it is acknowledged (R412). -/
def State.visible (s : State) (k : Nat) (c : Conn) (ack : Bool) (arr : Option Nat) : State :=
  let s := match arr with | some a => s.arrive a | none => s
  let s := s.modConn k fun c => { c with rxDone := none }
  if ack then s.fieldCtl k 0 c.appliedTo 0 0 else s

/-- Apply what waits on a connection, in PSN order, until a write must wait for its visibility, or a packet for its lodge's regulator (R289). -/
def State.settleRx (s : State) (k : Nat) : Nat → State
  | 0 => s
  | n + 1 =>
    match s.conn k with
    | none => s
    | some c =>
      if c.rxTags ≠ [] ∨ c.error then s
      else
        match c.rxDone with
        | some (ack, arr) => (s.visible k c ack arr).settleRx k n
        | none =>
          match c.rxWait with
          | [] => s
          | (w, p) :: r =>
            if !s.mayTake c.lodge p.addr then s else
            let s := s.modConn k fun c => { c with rxWait := r }
            if w then (s.applyWrite k c p).settleRx k n
            else
              let s := s.serveRead k c p
              (if p.ackReq then s.modConn k fun c => { c with rxDone := some (true, none) } else s).settleRx k n

/-- Enough turns for what waits. -/
def State.pumpRx (s : State) (k : Nat) : State :=
  match s.conn k with
  | none => s
  | some c => s.settleRx k (3 * c.rxWait.length + 4)

/-- Every connection goes on with the packets it has received. -/
def State.pumpConns (s : State) : State := (s.fld.conns.map (·.1)).foldl (fun (s : State) k => s.pumpRx k) s

/-- An acknowledgement that a field write's visibility waits for has come, or is given up. -/
def State.fieldAcked (s : State) (t : Nat) : State :=
  let ks := (s.fld.conns.filter fun e => e.2.rxTags.contains t).map (·.1)
  ks.foldl (fun (s : State) k => (s.modConn k fun c => { c with rxTags := c.rxTags.filter (· != t) }).pumpRx k) s

end Sys2Proof.Machine
end

