-- ==== Sys2Proof/Machine/Span.lean ====
section
/-!
DEFINITION. The SPAN commands (R379 to R396), the home's side of span memory (R187, R190, R191, R246, R380 to R388), its
acknowledgements and timeouts, MEM_SETATTR and MEM_REPUBLISH (R188, R189), replicas and their scrubber (R385, R449).
-/

namespace Sys2Proof

/-! ## Message fields (R395) -/

/-- REQ_TAG. -/
def Msg.tag (m : Msg) : Nat := m.fld 1 0 32
/-- STATUS of an answer. -/
def Msg.status (m : Msg) : Nat := m.fld 1 32 8
/-- LENGTH of a request. -/
def Msg.len (m : Msg) : Nat := m.fld 3 0 17

end Sys2Proof

namespace Sys2Proof.Machine

/-! ## Descriptor (R392) -/

/-- OFFSET of FAR. -/
def Cmd.farOff (c : Cmd) : Nat := c.w 1
/-- DEVICE of FAR. -/
def Cmd.farDev (c : Cmd) : Nat := c.fld 2 0 24
/-- SPACE of FAR. -/
def Cmd.farSpace (c : Cmd) : Nat := c.fld 2 24 8
/-- LOCAL. -/
def Cmd.local_ (c : Cmd) : Nat := c.w 3
/-- LENGTH. -/
def Cmd.spLen (c : Cmd) : Nat := c.fld 7 0 40
/-- AOP. -/
def Cmd.aop (c : Cmd) : Nat := c.fld 7 40 4
/-- ARRIVAL. -/
def Cmd.arrival (c : Cmd) : Nat := c.fld 7 44 12
/-- NOCACHE. -/
def Cmd.noCache (c : Cmd) : Bool := bitAt 2 c.flags
/-- REPLICA. -/
def Cmd.wantReplica (c : Cmd) : Bool := bitAt 3 c.flags
/-- ARR. -/
def Cmd.arr (c : Cmd) : Bool := bitAt 4 c.flags

/-- Reserved bits, the fields an opcode does not use among them (R392, R393). -/
def spanReserved (x : Cmd) : Bool :=
  let f := x.flags / 4
  decide (x.flags / 32 ≠ 0) || decide (x.fld 4 0 16 ≠ 0) || decide (x.fld 7 56 8 ≠ 0) || decide (x.fld 2 32 32 ≠ 0) ||
  (let op := x.op
   if op = 1 then x.arr || x.aop != 0 || x.arrival != 0
   else if op = 2 then f != 0 || x.aop != 0 || x.arrival != 0
   else if op = 3 then f != 0 || x.spLen != 0 || x.arrival != 0
   else if op = 4 then f % 4 != 0 || x.aop != 0 || (!x.arr && x.arrival != 0)
   else if op = 5 then f != 0 || x.w 3 != 0 || x.aop != 0 || x.arrival != 0
   else if op = 6 then f != 0 || x.w 1 != 0 || x.w 2 != 0 || decide (x.w 3 / 2 ^ 32 ≠ 0) || x.spLen != 0 || x.aop != 0
   else f != 0 || x.w 1 != 0 || x.w 2 != 0 || decide (x.fld 3 2 30 ≠ 0) || x.spLen != 0 || x.aop != 0)

/-- Arrival counters bound to a lodge. -/
def State.arrUsed (s : State) (l : Nat) : Nat := (s.spn.arr.filter fun a => a.2.lodge == l).length

/-- The lowest free counter. -/
def State.freeArrival (s : State) : Option Nat :=
  (natsFrom 0 (min 4096 (s.spn.arr.length + 1))).find? fun i => (Tbl.find i s.spn.arr).isNone

/-- A command waits for the counter. -/
def State.arrWaited (s : State) (a : Nat) : Bool :=
  s.jobs.any fun j => j.2.2.cmd.klass == 6 && j.2.2.cmd.op == 6 && j.2.2.cmd.arrival == a && (j.2.2.st == .wait || j.2.2.st == .run)

/-- Lengths, alignment, overlap, and a destination outside the lodge's own range (R394, R88, R82; DEDUCED, log 82). -/
def State.spanBadOperand (s : State) (x : Cmd) : Bool :=
  let op := x.op
  let n := if op = 3 then 8 else x.spLen
  if op ≤ 5 then
    (op != 3 && (x.spLen == 0 || decide (x.spLen % 64 ≠ 0))) || (op == 3 && (decide (x.farOff % 8 ≠ 0) || decide (8 ≤ x.aop))) ||
    (op != 5 && decide (x.local_ % 64 ≠ 0)) || ((op == 1 || op == 3) && decide (2 ^ 48 < x.local_ + if op = 3 then 24 else n)) ||
    (op != 5 && x.farDev == s.self && overlap x.farOff n x.local_ (if op = 3 then 24 else n))
  else op == 7 && x.fld 3 0 2 == 3

/-- The checks of R394. -/
def spanChecks (c : Nat) (s : State) (x : Cmd) : Checks :=
  { first := if !s.assigned || !s.on Reg.spnCtrlEnable || decide (s.stage < 2) then St.notReady else St.ok
    reserved := spanReserved x
    range := decide (x.op ≤ 5) && decide (2 ^ 18 ≤ x.farDev)
    mid := if 6 ≤ x.op then St.ok else if x.farSpace ≠ 0 then 0x62 else if !s.reachable x.farDev then 0x61 else St.ok
    rest :=
      if s.spanBadOperand x then St.badOperand
      else if (x.op = 6 ∨ (x.op = 7 ∧ x.fld 3 0 2 ≠ 0)) ∧ !s.arrBound x.lodge x.arrival then 0x63
      else if x.op = 7 ∧ x.fld 3 0 2 = 0 ∧ !x.done ∧
          (s.rd Reg.spnArrQuota x.lodge ≤ s.arrUsed x.lodge ∨ s.freeArrival = none) then 0x63
      else if x.op = 7 ∧ x.fld 3 0 2 = 1 ∧ s.arrWaited x.arrival then St.busy
      else if (s.core c).quarantined then St.coreQuarantined
      else St.ok }

/-- One occurrence of a SPAN row. -/
def State.runSpan (s : State) (c p op : Nat) (run : State → Job → State) : State := s.runSlot c p 6 op (spanChecks c) run

/-! ## Requests -/

/-- Pieces of at most 64 KiB of a range: offset from its start, and bytes (R379). -/
def pieces (n : Nat) : List (Nat × Nat) := (natsFrom 0 (ceilDiv n 65536)).map fun i => (65536 * i, min 65536 (n - 65536 * i))

/-- A request of a SPAN command. -/
def State.spanPend (s : State) (c p : Nat) (j : Job) (kind msg : Nat) (addr off len aux : Nat) (w : List Nat) (body : List Byte) : Pend :=
  { kind := kind, engine := c / 20, dst := j.cmd.farDev, lodge := j.cmd.lodge, core := c, place := p, cmd := some j.cmd, addr := addr,
    off := off, len := len, aux := aux, stale := false, msg := mkMsg msg s.self (s.tenantFor j.cmd.lodge) w body, reply := none }

/-- A command with no request left goes on to its commit point. -/
def State.spanDone (s : State) (c p : Nat) : State :=
  match s.job c p with
  | some j => if j.st = .run ∧ s.allAnswered c p then s.toFence c p { j with result := j.result } else s
  | none => s

/-- Add bytes to a command's DIRECT output. -/
def State.addDirect (s : State) (c p addr : Nat) (bs : List Byte) : State :=
  match s.job c p with
  | some j => s.setJob c p { j with direct := j.direct ++ [(addr, bs)] }
  | none => s

/-! ## SPAN_READ (R382, R385) -/

/-- The replica of a page that serves reads now. -/
def State.validReplica (s : State) (l dev page : Nat) : Option Replica :=
  match s.replica l dev page with
  | some r => if r.valid && r.pieces == 32 then some r else none
  | none => none

/-- Bytes of a replica. -/
def Replica.read (r : Replica) (off n : Nat) : List Byte := Tbl.getRun 0 off n r.bytes

/-- Start the fetch of a page: its replica, empty, and 32 requests; none where no frame can be had. -/
def State.fetchReplica (s : State) (c p : Nat) (j : Job) (page : Nat) : State × Bool :=
  let l := j.cmd.lodge
  let (s, f) := match s.replica l j.cmd.farDev page with
    | some r => (s, some r.frame)
    | none => s.replicaFrame l
  match f with
  | none => (s, false)
  | some f =>
    let s := s.putReplica ⟨l, j.cmd.farDev, page, f, 0, false, 0, []⟩
    ((natsFrom 0 32).foldl (fun s i =>
      let off := page * 2 ^ 21 + 65536 * i
      s.issue (s.spanPend c p j 8 0x61 0 off 65536 page [2 ^ 33 + (if j.cmd.noCache then 0 else 2 ^ 32), off, 65536] [])) s, true)

/-- Runs of 128-byte line pieces of a range that the cache does not hold, and the cached pieces: offset and bytes. -/
def State.lineSplit (s : State) (l dev : Nat) (noCache : Bool) (off n : Nat) : List (Nat × Nat × Option CLine) :=
  (natsFrom (off / 128) ((off + n - 1) / 128 + 1 - off / 128)).map fun k =>
    let lo := max off (128 * k)
    let hi := min (off + n) (128 * (k + 1))
    (lo, hi - lo, if noCache then none else s.cached l dev k)

/-- Join neighbours that must be fetched into requests. -/
def joinRuns : List (Nat × Nat × Option CLine) → List (Nat × Nat)
  | [] => []
  | (_, _, some _) :: r => joinRuns r
  | (a, n, none) :: r =>
    match joinRuns r with
    | (b, k) :: t => if b = a + n then (a, n + k) :: t else (a, n) :: (b, k) :: t
    | [] => [(a, n)]

/-- Read a range without replicas: cached lines at once, the rest by request (R382). -/
def State.readPlain (s : State) (c p : Nat) (j : Job) (off n loc : Nat) : State :=
  (pieces n).foldl (fun s (o, k) =>
    let parts := s.lineSplit j.cmd.lodge j.cmd.farDev j.cmd.noCache (off + o) k
    let s := parts.foldl (fun s (a, m, ln) =>
      match ln with
      | some x => (s.useLine x).addDirect c p (loc + (a - off)) ((x.data.drop (a % 128)).take m)
      | none => s) s
    (joinRuns parts).foldl (fun s (a, m) =>
      s.issue (s.spanPend c p j 0 0x61 (loc + (a - off)) a m 0
        [(if j.cmd.noCache then 0 else 2 ^ 32), a, m] [])) s) s

/-- One page's part of a read with REPLICA. -/
def State.readReplica (s : State) (c p : Nat) (j : Job) (off n loc : Nat) : State :=
  let page := off / 2 ^ 21
  match s.validReplica j.cmd.lodge j.cmd.farDev page with
  | some r => (s.putReplica r).addDirect c p loc (r.read (off % 2 ^ 21) n)
  | none =>
    match s.fetchReplica c p j page with
    | (s, true) => s
    | (s, false) => s.readPlain c p j off n loc

/-- The part of a read that lies in one page. -/
def State.readPage (s : State) (c p : Nat) (j : Job) (off n loc pg : Nat) : State :=
  let lo := max off (pg * 2 ^ 21)
  let hi := min (off + n) ((pg + 1) * 2 ^ 21)
  s.readReplica c p j lo (hi - lo) (loc + (lo - off))

/-- SPAN_READ. -/
def State.spanRead (s : State) (c p : Nat) (j : Job) : State :=
  let x := j.cmd
  let (off, n, loc) := (x.farOff, x.spLen, x.local_)
  let dst := s.accessStatus x.lodge loc n
  if j.result ≠ 0 then s.spanDone c p
  else if dst ≠ St.ok then s.endJob c p j dst
  else if x.farDev = s.self then
    let st := if s.kvSpanOk x.lodge s.self off n false then s.readStatus x.lodge off n else St.notOwner
    if st ≠ St.ok then s.endJob c p j st
    else (s.touch x.lodge off n false).toFence c p { j with direct := [(loc, s.peek x.lodge off n)] }
  else
    let s := s.setJob c p { j with direct := [], result := 1 }
    let s :=
      if x.wantReplica then
        (pagesOf off n).foldl (fun (s : State) pg => s.readPage c p j off n loc pg) s
      else s.readPlain c p j off n loc
    s.spanDone c p

/-! ## Writes, atomics, copies (R386, R388) -/

/-- The result of an atomic (R386). -/
def atomicOp (aop old operand compare : Nat) : Nat :=
  if aop = 0 then (old + operand) % 2 ^ 64
  else if aop = 1 then operand
  else if aop = 2 then (if old = compare then operand else old)
  else if aop = 3 then old &&& operand
  else if aop = 4 then old ||| operand
  else if aop = 5 then old ^^^ operand
  else if aop = 6 then max old operand
  else min old operand

/-- Whether a store to a range is allowed at this home, and what it meets (R141, R246, R170). -/
def State.storeStatus (s : State) (l dev off n : Nat) : Nat :=
  if !s.kvSpanOk l dev off n true then St.notOwner else s.accessStatus l off n

/-- SPAN_WRITE. -/
def State.spanWrite (s : State) (c p : Nat) (j : Job) : State :=
  let x := j.cmd
  let l := x.lodge
  if j.result ≠ 0 then s.spanDone c p
  else
    let st := s.readStatus l x.local_ x.spLen
    if st ≠ St.ok then s.endJob c p j st
    else
      let s := s.touch l x.local_ x.spLen false
      let data := s.peek l x.local_ x.spLen
      if x.farDev = s.self then
        let st := s.storeStatus l s.self x.farOff x.spLen
        if st = St.notOwner then (s.setJob c p j).endFarFault c p st true
        else if st ≠ St.ok then s.endJob c p j st
        else
          let s := (s.setJob c p { j with result := 1 }).poke l x.farOff data
          let (s, ts) := s.invalTracked l x.farOff x.spLen 6 none c p
          (ts.foldl (fun s t => s.awaitTag c p t) s).spanDone c p
      else
        let s := (s.dropLines x.farDev x.farOff x.spLen none).1
        let s := s.setJob c p { j with result := 1 }
        ((pieces x.spLen).foldl (fun s (o, n) =>
          s.issue (s.spanPend c p j 1 0x63 0 (x.farOff + o) n 0 [0, x.farOff + o, n] ((data.drop o).take n))) s).spanDone c p

/-- SPAN_ATOMIC. -/
def State.spanAtomic (s : State) (c p : Nat) (j : Job) : State :=
  let x := j.cmd
  let l := x.lodge
  let st := firstBad [s.readStatus l x.local_ 16, s.accessStatus l (x.local_ + 16) 8]
  if s.pendsOf c p != [] || j.waiting != [] then s
  else if st ≠ St.ok then s.endJob c p j st
  else
    let s := s.touch l x.local_ 16 false
    let operand := s.peekNat l x.local_ 8
    let compare := s.peekNat l (x.local_ + 8) 8
    if x.farDev = s.self then
      let st := firstBad [s.storeStatus l s.self x.farOff 8, s.readStatus l x.farOff 8]
      if st = St.notOwner then (s.setJob c p j).endFarFault c p st true
      else if st ≠ St.ok then s.endJob c p j st
      else
        let (s, ts) := (s.setJob c p j).invalTracked l (x.farOff / 128 * 128) 128 6 none c p
        if ts ≠ [] then ts.foldl (fun s t => s.awaitTag c p t) s
        else
          let old := s.peekNat l x.farOff 8
          ((s.touch l x.farOff 8 false).pokeNat l x.farOff 8 (atomicOp x.aop old operand compare)).toFence c p
            { j with direct := [(x.local_ + 16, leBytes 8 old)] }
    else
      let s := (s.dropLines x.farDev x.farOff 8 none).1
      (s.setJob c p j).issue (s.spanPend c p j 2 0x65 (x.local_ + 16) x.farOff 8 0
        [x.aop * 2 ^ 32, x.farOff, operand, compare] [])

/-- One chunk of a SPAN_COPY. -/
def State.copyPend (s : State) (c p : Nat) (j : Job) (last : Bool) (o n : Nat) (data : List Byte) : Pend :=
  let x := j.cmd
  let w3 := n + (if last then 2 ^ 32 else 0) + (if x.arr then 2 ^ 33 + x.arrival * 2 ^ 34 else 0)
  s.spanPend c p j 3 0x66 0 (x.farOff + o) n (if last then 1 else 0) [0, x.farOff + o, w3] data

/-- Send the last chunk: the command reaches its commit point when it is on its way. -/
def State.copyLast (s : State) (c p : Nat) (j : Job) : State :=
  let x := j.cmd
  let ps := pieces x.spLen
  match ps.getLast? with
  | none => s
  | some (o, n) =>
    let s := s.issue (s.copyPend c p j true o n (s.peek x.lodge (x.local_ + o) n))
    match s.job c p with
    | some k =>
      if s.hasTodo c p then s.setJob c p { k with result := 2 }
      else s.toFence c p { k with waiting := [], result := ps.length }
    | none => s

/-- A SPAN_COPY to this device, once every tracked copy of its destination is gone: the arrival, then the commit point (R187, R388). -/
def State.copyHere (s : State) (c p : Nat) : State :=
  match s.job c p with
  | some j =>
    if j.st = .run ∧ s.allAnswered c p then
      (if j.cmd.arr then s.arrive j.cmd.arrival else s).toFence c p { j with result := (pieces j.cmd.spLen).length }
    else s
  | none => s

/-- SPAN_COPY. -/
def State.spanCopy (s : State) (c p : Nat) (j : Job) : State :=
  let x := j.cmd
  let l := x.lodge
  if j.result ≠ 0 then s
  else
    let st := s.readStatus l x.local_ x.spLen
    if st ≠ St.ok then s.endJob c p j st
    else
      let s := s.touch l x.local_ x.spLen false
      let ps := pieces x.spLen
      if x.farDev = s.self then
        let st := if x.arr && !s.arrBound l x.arrival then 0x63 else s.storeStatus l s.self x.farOff x.spLen
        if st = St.notOwner ∨ st = 0x63 then (s.setJob c p j).endFarFault c p st true
        else if st ≠ St.ok then s.endJob c p j st
        else
          let s := (s.setJob c p { j with result := 1 }).poke l x.farOff (s.peek l x.local_ x.spLen)
          let (s, ts) := s.invalTracked l x.farOff x.spLen 6 none c p
          (ts.foldl (fun s t => s.awaitTag c p t) s).copyHere c p
      else
        let s := (s.dropLines x.farDev x.farOff x.spLen none).1
        let s := s.setJob c p { j with result := 1 }
        if ps.length = 1 then s.copyLast c p { j with result := 1 }
        else
          (ps.take (ps.length - 1)).foldl (fun s (o, n) =>
            s.issue (s.copyPend c p j false o n (s.peek l (x.local_ + o) n))) s

/-- SPAN_INVAL (R383). -/
def State.spanInval (s : State) (c p : Nat) (j : Job) : State :=
  let (s, n) := s.dropLines j.cmd.farDev j.cmd.farOff j.cmd.spLen (some j.cmd.lodge)
  s.toFence c p { j with result := n }

/-- ARRIVAL_WAIT (R389). -/
def State.arrivalWait (s : State) (c p : Nat) (j : Job) : State :=
  match Tbl.find j.cmd.arrival s.spn.arr with
  | some a => if Machine.waitMet a.count (j.cmd.fld 3 0 32) then s.toFence c p j else s.setJob c p j
  | none => s.setJob c p j

/-- ARRIVAL_CTL (R387, R394): what another command has changed since decode is checked again. -/
def State.arrivalCtl (s : State) (c p : Nat) (j : Job) : State :=
  let a := j.cmd.arrival
  let op := j.cmd.fld 3 0 2
  let setArr (s : State) (t : Tbl Arrival) : State := { s with spn := { s.spn with arr := t } }
  if op = 0 then
    if s.rd Reg.spnArrQuota j.cmd.lodge ≤ s.arrUsed j.cmd.lodge then s.endJob c p j 0x63
    else
    match s.freeArrival with
    | some i => (setArr s (Tbl.put i ⟨j.cmd.lodge, 0⟩ s.spn.arr)).toFence c p { j with result := i }
    | none => s.endJob c p j 0x63
  else if !s.arrBound j.cmd.lodge a then s.endJob c p j 0x63
  else if op = 1 ∧ s.arrWaited a then s.endJob c p j St.busy
  else if op = 1 then (setArr s (Tbl.del a s.spn.arr)).toFence c p j
  else (setArr s (Tbl.adjust a (fun x => { x with count := j.cmd.fld 3 32 32 }) s.spn.arr)).toFence c p j

/-! ## The home (R380 to R388) -/

/-- The byte range of a request at its home. -/
def homeRange (m : Msg) : Nat × Nat := (m.word 2, if m.kind = 0x65 then 8 else m.len)

/-- Two requests touch one 128-byte line. -/
def sameLine (a b : HomeReq) : Bool :=
  let (x, n) := homeRange a.msg
  let (y, k) := homeRange b.msg
  a.lodge == b.lodge && overlap (x / 128 * 128) (x % 128 + n + 127) (y / 128 * 128) (y % 128 + k)

/-- The refusal of a request before its effect; 0 serves it (R141, R246, R283, R370, R388, R391). -/
def State.homeGate (s : State) (m : Msg) : Nat :=
  if !s.assigned then St.notReady
  else
    match s.tenantLodge m.tenant with
    | none => St.noLodge
    | some l =>
      let (off, n) := homeRange m
      if s.lodge l = 4 ∨ s.lodge l = 5 then St.notReady
      else if m.kind = 0x61 then
        (if !s.kvSpanOk l m.src off n false then St.notOwner else s.readStatus l off n)
      else if m.kind = 0x66 ∧ bitAt 33 (m.word 3) ∧ !s.arrBound l (m.fld 3 34 12) then 0x63
      else if m.kind = 0x65 then firstBad [s.storeStatus l m.src off 8, s.readStatus l off 8]
      else s.storeStatus l m.src off n

/-- The answer to an SP_READ: data, HELD, the page's VERSION, and whether it is REPLICABLE. -/
def State.readAnswer (s : State) (l : Nat) (m : Msg) : State :=
  let (off, n) := homeRange m
  let a := s.attrAt l off
  let ver := match s.page l off with | some p => p.version | none => 0
  let s := s.touch l off n false
  let s := if bitAt 33 (m.word 1) && a == 2 then
      let k := pageKey l (pageOf off)
      { s with spn := { s.spn with holders := Tbl.put k (sortDedup (m.src :: (Tbl.find k s.spn.holders).getD [])) s.spn.holders } }
    else s
  s.answer m 0x62 [m.tag + (if a = 1 then 2 ^ 40 else 0) + (if a = 2 then 2 ^ 41 else 0), ver] (s.peek l off n)

/-- The first part of a request: what it must wait for. -/
def State.homeStart (s : State) (l : Nat) (m : Msg) : State × List Nat :=
  let (off, n) := homeRange m
  if m.kind = 0x61 then
    (if s.heldIn l off n && bitAt 32 (m.word 1) && n != 0 then s.addSharers l off n m.src else (s, []))
  else if m.kind = 0x65 then s.invalTracked l (off / 128 * 128) 128 6 none 160 15
  else (s.poke l off (m.body.take n)).invalTracked l off n 6 none 160 15

/-- The last part: the atomic, the arrival, the answer. -/
def State.homeEnd (s : State) (l : Nat) (m : Msg) : State :=
  if m.kind = 0x61 then s.readAnswer l m
  else if m.kind = 0x65 then
    let old := s.peekNat l (m.word 2) 8
    ((s.touch l (m.word 2) 8 false).pokeNat l (m.word 2) 8 (atomicOp (m.fld 1 32 4) old (m.word 3) (m.word 4))).spAck m St.ok old
  else
    let s := if m.kind = 0x66 && bitAt 32 (m.word 3) && bitAt 33 (m.word 3) then s.arrive (m.fld 3 34 12) else s
    s.spAck m St.ok 0

/-- The position of the first request that can go on: started with nothing awaited, or first of its source and of its lines. -/
def homeReady : List HomeReq → List HomeReq → Option Nat
  | _, [] => none
  | before, r :: rest =>
    if r.started then (if r.tags = [] then some before.length else homeReady (before ++ [r]) rest)
    else if before.any (fun b => b.msg.src == r.msg.src || sameLine b r) then homeReady (before ++ [r]) rest
    else some before.length

/-- Move the requests at this home on, as far as they go. -/
def State.homePump (s : State) : Nat → State
  | 0 => s
  | k + 1 =>
    match homeReady [] s.spn.homeq with
    | none => s
    | some i =>
      match s.spn.homeq[i]? with
      | none => s
      | some r =>
        if r.started then
          let s := { s with spn := { s.spn with homeq := s.spn.homeq.eraseIdx i } }
          (s.homeEnd r.lodge r.msg).homePump k
        else
          let st := s.homeGate r.msg
          if st ≠ St.ok then
            let s := ({ s with spn := { s.spn with homeq := s.spn.homeq.eraseIdx i } } : State).raiseUncorr r.lodge st [homeRange r.msg]
            (if r.msg.kind = 0x61 then s.answer r.msg 0x62 [r.msg.tag + st * 2 ^ 32, 0] [] else s.spAck r.msg st 0).homePump k
          else
            let (s, ts) := s.homeStart r.lodge r.msg
            ({ s with spn := { s.spn with homeq := s.spn.homeq.set i { r with started := true, tags := ts } } } : State).homePump k

/-- Every request at the home that can move does. -/
def State.homeRun (s : State) : State := s.homePump (2 * s.spn.homeq.length + 2)

/-- A request of another member arrives (R380). -/
def State.homeAccept (s : State) (m : Msg) : State :=
  match s.tenantLodge m.tenant with
  | none => if m.kind = 0x61 then s.answer m 0x62 [m.tag + s.homeGate m * 2 ^ 32, 0] [] else s.spAck m (s.homeGate m) 0
  | some l => ({ s with spn := { s.spn with homeq := s.spn.homeq ++ [⟨m, l, false, []⟩] } } : State).homeRun

/-- HANDOVER_RSP ends a handover (R244, R248, R256). -/
def State.endHand (s : State) (k : Nat) (h : Hand) (status pages : Nat) : State :=
  let s : State := { s with wan := { s.wan with hands := Tbl.del k s.wan.hands } }
  let s :=
    if status = St.ok then s.count Reg.wanHandoverCount
    else
      let s := s.bump Reg.wanHoFailCount
      if status = St.spanTimeout then s.setBit Reg.wanErrBits 2
      else if status = St.notOwner ∨ status = St.badPagelist ∨ status = St.memUncorr then s.setBit Reg.wanErrBits 3 else s
  s.answer h.msg 0x46 [h.msg.fld 1 0 32 + status * 2 ^ 32, pages] []

/-- LENGTH of WAIN_MOVE. -/
def Cmd.wLen (c : Cmd) : Nat := c.fld 7 0 40

/-- LEDGER_ENG takes effect when no stream is open (R256). -/
def State.settleEng (s : State) : State :=
  if s.wan.streams = [] ∧ s.wan.pulls = [] ∧ s.wan.recvs = [] then { s with wan := { s.wan with eng := s.rd Reg.wanCtrlLedgerEng } } else s

/-- A WAIN command with no stream, pull or read left goes on to its commit point. -/
def State.wainDone (s : State) (c p : Nat) : State :=
  match s.job c p with
  | none => s
  | some j =>
    if j.st == .run && j.waiting == [] && !(s.wan.streams.any fun e => e.2.core == c && e.2.place == p && e.2.cmd.isSome) &&
        !(s.wan.pulls.any fun e => e.2.core == c && e.2.place == p) then s.toFence c p j
    else s

/-- Blocks of `n` bytes. -/
def blocksOf (n : Nat) : Nat := ceilDiv n 65536

/-- The pull a block belongs to. -/
def State.pullOf (s : State) (m : Msg) : Option Pull :=
  match Tbl.find (m.fld 1 0 32) s.wan.pulls with
  | some p => if p.dev = m.src then some p else none
  | none => none

/-- Put a pull. -/
def State.setPull (s : State) (id : Nat) (p : Pull) : State := { s with wan := { s.wan with pulls := Tbl.put id p s.wan.pulls } }
/-- Close a pull. -/
def State.closePull (s : State) (id : Nat) : State := { s with wan := { s.wan with pulls := Tbl.del id s.wan.pulls } }.settleEng

/-- A block of a pull is acknowledged: with the last one the pull is complete (R234, R252). -/
def State.pullGot (s : State) (m : Msg) : State :=
  match s.pullOf m with
  | none => s
  | some p =>
    let got := sortDedup (m.fld 1 32 32 :: p.got)
    if got.length < blocksOf p.cmd.wLen then s.setPull (m.fld 1 0 32) { p with got := got }
    else (s.closePull (m.fld 1 0 32)).wainDone p.core p.place

/-- Key of a stream that another device sends here. -/
def recvKey (m : Msg) : Nat := 2 ^ 57 + m.src * 2 ^ 32 + m.fld 1 0 32

/-- A stream received here none of whose blocks is in hand is open no more (log 104). -/
def State.closeRecv (s : State) (k : Nat) : State :=
  if s.wan.acks.any fun a => recvKey a.1 == k then s
  else { s with wan := { s.wan with recvs := Tbl.del k s.wan.recvs } }.settleEng

/-- BLOCK_ACK, and what follows it here. -/
def State.ackBlock (s : State) (m : Msg) : State := ((s.answer m 0x41 [m.word 1] []).pullGot m).closeRecv (recvKey m)

/-- The blocks that wait for copies to go, one acknowledgement fewer. -/
def State.acksLess (s : State) (t : Nat) : List (Msg × List Nat) := s.wan.acks.map fun a => (a.1, a.2.filter (· != t))

/-- What waits for an acknowledgement waits for one fewer. -/
def State.wainLess (s : State) (t : Nat) : State :=
  { s with wan := { s.wan with
    acks := (s.acksLess t).filter fun a => a.2 != []
    hands := s.wan.hands.map fun (h : Nat × Hand) => (h.1, { h.2 with recalls := h.2.recalls.map fun l => l.filter (· != t) }) } }

/-- Blocks and handovers that waited for an acknowledgement go on: BLOCK_ACK, HANDOVER_RSP (R234, R245). -/
def State.wainAcked (s : State) (t : Nat) : State :=
  let s := ((s.acksLess t).filter fun a => a.2 == []).foldl (fun (s : State) a => s.ackBlock a.1) (s.wainLess t)
  (s.wan.hands.filter fun h => h.2.recalls == some []).foldl (fun (s : State) h => s.endHand h.1 h.2 St.ok h.2.pages.length) s

/-- An acknowledgement that requests at this home wait for has come, or is given up. -/
def State.homeAcked (s : State) (t : Nat) : State :=
  let s := s.wainAcked t
  let s : State := { s with
    spn := { s.spn with homeq := s.spn.homeq.map fun (r : HomeReq) => { r with tags := r.tags.filter (· != t) } }
    mem := { s.mem with recalls := (s.mem.recalls.map fun r => (r.1, r.2.filter (· != t))).filter fun r => r.2 != [] } }
  s.homeRun.fieldAcked t

/-! ## Invalidation and republish received (R383, R385) -/

/-- Replicas of pages of a device, in a range, are marked invalid. -/
def State.staleReplicas (s : State) (dev lo n : Nat) (bad : Replica → Bool) : State :=
  { s with spn := { s.spn with repl := s.spn.repl.map fun (r : Replica) =>
      if r.dev = dev ∧ lo ≤ r.page ∧ r.page < lo + n ∧ bad r then { r with valid := false, pieces := 33 } else r } }

/-- SP_INVAL. -/
def State.spInvalIn (s : State) (m : Msg) : State :=
  if !s.assigned then s.spAck m St.notReady 0
  else
    let (off, n) := (m.word 2, m.fld 3 0 40)
    let s := (s.dropLines m.src off n none).1
    let s := if bitAt 32 (m.word 1) ∨ n = 0 then s
      else s.staleReplicas m.src (off / 2 ^ 21) ((off + n - 1) / 2 ^ 21 + 1 - off / 2 ^ 21) fun _ => true
    (s.bump Reg.spnInvalRxCount).spAck m St.ok 0

/-- SP_REPUBLISH. -/
def State.spRepubIn (s : State) (m : Msg) : State :=
  if !s.assigned then s.spAck m St.notReady 0
  else
    let v := m.fld 3 32 32
    (s.staleReplicas m.src (m.word 2 / 2 ^ 21) (m.fld 3 0 26) fun r => r.version != v).spAck m St.ok 0

/-! ## MEM_SETATTR and MEM_REPUBLISH (R188, R189) -/

/-- Mapped pages of a command's range. -/
def State.mappedIn (s : State) (x : Cmd) : List Nat :=
  (x.mRange.map (pageKey x.lodge)).filter fun k => (Tbl.find k s.mem.pages).isSome

/-- The end of a command that waited for members: a silent one orphans its lodge context (R188). -/
def State.memDone (s : State) (c p : Nat) (j : Job) : State :=
  if j.status = St.spanTimeout then (s.setJob c p { j with status := 0 }).orphanCmd c p 0xFFFFFF
  else s.toFence c p { j with result := 0 }

/-- The new attribute takes effect; the line caches of the compute dies give up the lines of the range, whose copies no entry of the directory
names any more (R188, R190). -/
def State.applyAttr (s : State) (x : Cmd) : State :=
  { s with mem := { s.mem with
    pages := (s.mappedIn x).foldl (fun t k => Tbl.adjust k (fun p => { p with attr := x.mAttr }) t) s.mem.pages
    lines := linesOutside (memKey x.lodge x.mDst) (x.mPages * 2 ^ 21) s.mem.lines } }

/-- Each mapped page of the range goes to its next VERSION, and its holders are told. -/
def State.republish (s : State) (c p : Nat) (j : Job) (ks : List Nat) : State × List Nat :=
  ks.foldl (fun (a : State × List Nat) k =>
    let s := a.1
    let l := keyLodge k
    let v := match Tbl.find k s.mem.pages with | some q => (q.version + 1) % 2 ^ 32 | none => 0
    let s := { s with mem := { s.mem with pages := Tbl.adjust k (fun q => { q with version := v }) s.mem.pages } }
    let addr := k % 2 ^ 27 * 2 ^ 21
    let hs := (Tbl.find k s.spn.holders).getD []
    let s := { s with spn := { s.spn with holders := Tbl.del k s.spn.holders } }
    let a := hs.foldl (fun (a : State × List Nat) d =>
      let pd : Pend := { kind := 5, engine := 8, dst := d, lodge := l, core := c, place := p, cmd := some j.cmd, addr := 0, off := addr,
                         len := 2 ^ 21, aux := 0, stale := false,
                         msg := mkMsg 0x68 a.1.self (a.1.tenantFor l) [0, addr, 1 + v * 2 ^ 32] [], reply := none }
      let (s, t) := a.1.tell pd
      (s, a.2 ++ [t])) (s, a.2)
    if v = 0 then
      let (s, ts) := a.1.invalRange l addr (2 ^ 21) c p
      (s, a.2 ++ ts)
    else a) (s, [])

/-- A write the home has accepted in the range is not acknowledged yet. -/
def State.writesPending (s : State) (x : Cmd) : Bool :=
  let (a, n) := (x.mDst, x.mPages * 2 ^ 21)
  (s.spn.homeq.any fun r => r.started && r.lodge == x.lodge && r.msg.kind != 0x61 &&
    overlap (homeRange r.msg).1 (homeRange r.msg).2 a n) ||
  s.jobs.any fun j => j.2.2.st == .fence && j.2.2.cmd.lodge == x.lodge && j.2.2.waiting != [] &&
    j.2.2.direct.any fun w => overlap w.1 w.2.length a n

/-- MEM_SETATTR and MEM_REPUBLISH, once their members have answered. -/
def State.memSettle (s : State) (c p : Nat) : State :=
  match s.job c p with
  | some j =>
    if j.st = .run ∧ j.result = 1 ∧ s.allAnswered c p then
      (if j.cmd.op = 3 then (s.applyAttr j.cmd).memDone c p j else s.memDone c p j)
    else s
  | none => s

/-- MEM_SETATTR (R188). -/
def State.memSetattr (s : State) (c p : Nat) (j : Job) : State :=
  if j.result = 1 then s.memSettle c p
  else
    let x := j.cmd
    let ks := s.mappedIn x
    let s := (ks.foldl (fun s k => s.abortMigr k 1) s).idleEngine
    let s := s.setJob c p { j with result := 1 }
    let (s, t1) := s.invalTracked x.lodge x.mDst (x.mPages * 2 ^ 21) 4 none c p
    let (s, t2) := if ks = [] then (s, []) else s.invalRange x.lodge x.mDst (x.mPages * 2 ^ 21) c p
    ((t1 ++ t2).foldl (fun s t => s.awaitTag c p t) s).memSettle c p

/-- MEM_REPUBLISH (R189, R385). -/
def State.memRepublish (s : State) (c p : Nat) (j : Job) : State :=
  if j.result = 1 then s.memSettle c p
  else if j.cmd.done then s.toFence c p j
  else if s.writesPending j.cmd then s.setJob c p j
  else
    let j := { j with result := 1, cmd := { j.cmd with done := true } }
    let (s, ts) := (s.setJob c p j).republish c p j (s.mappedIn j.cmd)
    (ts.foldl (fun s t => s.awaitTag c p t) s).memSettle c p

/-! ## Answers -/

/-- Statuses of a refused write or copy that fault the issuing lodge context (R390). -/
def spanFaults (st : Nat) : Bool := [St.notOwner, St.noLodge, 0x63, St.addrFault, St.memUncorr].contains st

/-- A copy's last chunk failed after its commit: its lodge context faults (R388). -/
def State.lateCopyFault (s : State) (pd : Pend) (st : Nat) : State :=
  match pd.cmd with
  | some x => if spanFaults st then s.faultLodge x.lodge st 4 x.core (if x.sched then 0xFF else x.ring) x.tag else s
  | none => s

/-- What an answered request lets its command do. -/
def State.spanNext (s : State) (pd : Pend) : State :=
  let (c, p) := (pd.core, pd.place)
  match s.job c p with
  | none => s
  | some j =>
    if some j.cmd = pd.cmd ∧ j.st = .run ∧ s.allAnswered c p then
      if j.cmd.klass = 3 then (if j.cmd.op = 3 ∨ j.cmd.op = 4 then s.memSettle c p else s)
      else if j.cmd.klass ≠ 6 then s
      else if j.cmd.op = 4 ∧ j.cmd.farDev = s.self then s.copyHere c p
      else if j.cmd.op = 4 then (if pd.aux = 0 ∧ j.result = 1 then s.copyLast c p j else s.spanDone c p)
      else if j.cmd.op = 3 ∧ pd.kind = 6 then s.spanAtomic c p j
      else s.spanDone c p
    else s

/-- SP_ACK (R386 to R390). -/
def State.spAckIn (s : State) (m : Msg) : State :=
  match Tbl.find m.tag s.spn.out with
  | none => s.bump Reg.spnLateCount
  | some pd =>
    let own := (s.owner pd).isSome
    let s := s.closeTag m.tag
    if pd.kind ≤ 3 then
      if m.status ≠ St.ok then
        (if own then s.endFarFault pd.core pd.place m.status (spanFaults m.status)
         else if pd.kind = 3 then s.lateCopyFault pd m.status else s)
      else
        let s := if pd.kind = 2 && own then s.addDirect pd.core pd.place pd.addr (leBytes 8 (m.word 2)) else s
        s.spanNext pd
    else (s.spanNext pd).homeAcked m.tag

/-- Install the lines that a read's data cover whole (R381, R383). -/
def State.installLines (s : State) (pd : Pend) (data : List Byte) : State :=
  if pd.stale || !bitAt 32 (pd.msg.word 1) || pd.len == 0 then s
  else
    (natsFrom (ceilDiv pd.off 128) ((pd.off + pd.len) / 128 - ceilDiv pd.off 128)).foldl (fun s k =>
      s.install ⟨pd.lodge, pd.dst, k, (data.drop (128 * k - pd.off)).take 128⟩) s

/-- Cached lines of a HELD page that a read shows to differ from the home: those of its range whose 128 bytes it brings whole (R448). -/
def State.differing (s : State) (pd : Pend) (m : Msg) : List CLine :=
  if !bitAt 40 (m.word 1) || pd.stale then []
  else s.spn.cache.filter fun c => c.lodge == pd.lodge && c.dev == pd.dst && decide (pd.off ≤ 128 * c.line) &&
    decide (128 * c.line + 128 ≤ pd.off + pd.len) && c.data != (m.body.drop (128 * c.line - pd.off)).take 128

/-- A line copy that differs from the home's goes: COPY_DIFFER (R448). -/
def State.copyDiffers (s : State) (c : CLine) : State :=
  (({ s with spn := { s.spn with cache := s.spn.cache.filter (· != c) } } : State).bump Reg.hltCopyDiffCount).error 0x46 c.lodge 0xFF 2 (128 * c.line)

/-- Every copy that a read shows to differ goes. -/
def State.dropDiffering (s : State) (pd : Pend) (m : Msg) : State :=
  (s.differing pd m).foldl (fun (s : State) c => s.copyDiffers c) s

/-- One 64 KiB piece of a page fetch (R385): the replica grows, and the command gets its part; of a page that is not REPLICABLE the part is
cached as any other read is (R382). -/
def State.replicaPiece (s : State) (pd : Pend) (m : Msg) : State :=
  let data := m.body.take pd.len
  let s := match s.replica pd.lodge pd.dst pd.aux with
    | none => s
    | some r =>
      if !bitAt 41 (m.word 1) then s.dropReplica r
      else if r.pieces ≥ 32 || (r.pieces != 0 && r.version != m.fld 2 0 32) then s.putReplica { r with valid := false, pieces := 33 }
      else
        s.putReplica { r with version := m.fld 2 0 32, pieces := r.pieces + 1, valid := r.pieces + 1 == 32,
                              bytes := Tbl.setRun 0 (pd.off % 2 ^ 21) data r.bytes }
  match pd.cmd with
  | none => s
  | some x =>
    let lo := max x.farOff pd.off
    let hi := min (x.farOff + x.spLen) (pd.off + pd.len)
    let s := if lo < hi && !bitAt 41 (m.word 1) then s.installLines { pd with off := lo, len := hi - lo } (data.drop (lo - pd.off)) else s
    if lo < hi then s.addDirect pd.core pd.place (x.local_ + (lo - x.farOff)) ((data.drop (lo - pd.off)).take (hi - lo)) else s

/-- A scrub read (R449). -/
def State.scrubPiece (s : State) (pd : Pend) (m : Msg) : State :=
  match s.replica pd.lodge pd.dst pd.aux with
  | none => s
  | some r =>
    if !r.valid || m.status != St.ok then s
    else if r.version ≠ m.fld 2 0 32 then s.putReplica { r with valid := false, pieces := 33 }
    else if r.read (pd.off % 2 ^ 21) pd.len ≠ m.body.take pd.len then
      ((s.putReplica { r with valid := false, pieces := 33 }).bump Reg.hltCopyDiffCount).error 0x46 pd.lodge 0xFF 1 (r.page * 2 ^ 21)
    else s

/-- SP_READ_RSP. -/
def State.spReadRspIn (s : State) (m : Msg) : State :=
  match Tbl.find m.tag s.spn.out with
  | none => s.bump Reg.spnLateCount
  | some pd =>
    if pd.kind = 13 then s.farAnswer m.tag m
    else if pd.kind = 14 then (s.closeTag m.tag).scrubPiece pd m
    else
      let own := (s.owner pd).isSome
      if m.status ≠ St.ok then
        let s := s.closeTag m.tag
        if own then s.endFar pd.core pd.place m.status else s
      else
        let data := m.body.take pd.len
        let s := if !own then (if pd.kind = 8 then s.replicaPiece { pd with cmd := none } m else s)
          else if pd.kind = 8 then s.replicaPiece pd m
          else ((s.dropDiffering pd m).installLines pd data).addDirect pd.core pd.place pd.addr data
        (s.closeTag m.tag).spanNext pd

/-! ## Timeouts -/

/-- SPAN_TIMEOUT (R390): a read's missing units are poisoned; the lodge context is orphaned. -/
def State.spanTimeout (s : State) (t : Nat) : State :=
  match Tbl.find t s.spn.out with
  | none => s
  | some pd =>
    if !([0, 1, 2, 3, 8, 13, 14].contains pd.kind) || pd.reply.isSome then s
    else if pd.kind = 14 then s.closeTag t
    else
      let own := s.owner pd
      let s := (s.bump Reg.spnTimeoutCntCount).setBit Reg.spnErrBits 0
      match own with
      | some j =>
        let unsent := s.spn.todo.filter fun q => q.core == pd.core && q.place == pd.place && (s.owner q).isSome
        let open_ := ((s.pendsOf pd.core pd.place).map (·.2) ++ unsent).filter fun q => q.kind == 0 || q.kind == 8
        let s := open_.foldl (fun s q =>
          let lo := max j.cmd.farOff q.off
          let hi := min (j.cmd.farOff + j.cmd.spLen) (q.off + q.len)
          if lo < hi then s.poisonRange j.cmd.lodge (j.cmd.local_ + (lo - j.cmd.farOff)) (hi - lo) else s) s
        (s.closeTag t).orphanCmd pd.core pd.place pd.dst
      | none =>
        let s := s.closeTag t
        match pd.kind, pd.cmd with
        | 3, some x =>
          s.orphanLodge x.lodge St.spanTimeout 4 x.core (if x.sched then 0xFF else x.ring) x.tag (s.tenantFor x.lodge) pd.dst
        | _, _ => s

/-- A silent member in SETATTR or REPUBLISH (R188, R385): treated as dead. -/
def State.memberSilent (s : State) (t : Nat) (kinds : List Nat) : State :=
  match Tbl.find t s.spn.out with
  | none => s
  | some pd =>
    if !kinds.contains pd.kind then s
    else
      let s := match s.owner pd with
        | some j => if j.cmd.klass = 3 then s.setJob pd.core pd.place { j with status := St.spanTimeout } else s
        | none => s
      ((s.closeTag t).spanNext pd).homeAcked t

/-- DIR_RECALL_TIMEOUT (R191). -/
def State.recallTimeout (s : State) (key : Nat) : State :=
  match s.mem.recalls.find? (·.1 == key) with
  | none => s
  | some (_, ts) =>
    let dev := (ts.findSome? fun t => (Tbl.find t s.spn.out).map (·.dst)).getD 0
    let s := (s.setBit Reg.memErrBits 4).alarm 0x06 (key * 128 / 2 ^ 48) 0xFF dev (key * 128 % 2 ^ 48)
    ts.foldl (fun s t => (s.closeTag t).homeAcked t) s

/-- REPLICA_SCRUB (R449). -/
def State.replicaScrub (s : State) : State :=
  let l := s.spn.repl.filter (·.valid)
  if s.rd Reg.hltScoreCfgScrubMs = 0 ∨ l = [] then s
  else
    let fs := sortDedup (l.map (·.frame))
    let f := (fs.find? (s.spn.scrub < ·)).getD (fs.headD 0)
    match l.find? (·.frame == f) with
    | none => s
    | some r =>
      let s := { s with spn := { s.spn with scrub := f } }
      (natsFrom 0 32).foldl (fun s i =>
        let off := r.page * 2 ^ 21 + 65536 * i
        (s.ask { kind := 14, engine := 8, dst := r.dev, lodge := r.lodge, core := 160, place := 15, cmd := none, addr := 0, off := off,
                 len := 65536, aux := r.page, stale := false,
                 msg := mkMsg 0x61 s.self (s.tenantFor r.lodge) [0, off, 65536] [], reply := none }).1) s

/-- FRAME_ZEROED (R172). -/
def State.frameZeroed (s : State) (tier frame : Nat) : State :=
  if s.mem.zeroing.contains (tier, frame) then
    ({ s with mem := { s.mem with zeroing := s.mem.zeroing.erase (tier, frame) } } : State).idleEngine
  else s

/-! ## The commands -/

/-- The Wain place of an operand: places 9 to 12 of the core. -/
def wainPlace (p : Fin 4) : Nat := p + 9

/-- SPAN_READ (R382). -/
def execSpanRead (core : Fin 160) (place : Fin 4) (s : State) : Out :=
  .next (s.runSpan core (wainPlace place) 1 fun s j => s.spanRead core (wainPlace place) j).choices
/-- SPAN_WRITE (R393). -/
def execSpanWrite (core : Fin 160) (place : Fin 4) (s : State) : Out :=
  .next (s.runSpan core (wainPlace place) 2 fun s j => s.spanWrite core (wainPlace place) j).choices
/-- SPAN_ATOMIC (R386). -/
def execSpanAtomic (core : Fin 160) (place : Fin 4) (s : State) : Out :=
  .next (s.runSpan core (wainPlace place) 3 fun s j => s.spanAtomic core (wainPlace place) j).choices
/-- SPAN_COPY (R388). -/
def execSpanCopy (core : Fin 160) (place : Fin 4) (s : State) : Out :=
  .next (s.runSpan core (wainPlace place) 4 fun s j => s.spanCopy core (wainPlace place) j).choices
/-- SPAN_INVAL (R383). -/
def execSpanInval (core : Fin 160) (place : Fin 4) (s : State) : Out :=
  .next (s.runSpan core (wainPlace place) 5 fun s j => s.spanInval core (wainPlace place) j).choices
/-- ARRIVAL_WAIT (R389). -/
def execArrivalWait (core : Fin 160) (place : Fin 4) (s : State) : Out :=
  .next (s.runSpan core (wainPlace place) 6 fun s j => s.arrivalWait core (wainPlace place) j).choices
/-- ARRIVAL_CTL (R387). -/
def execArrivalCtl (core : Fin 160) (place : Fin 4) (s : State) : Out :=
  .next (s.runSpan core (wainPlace place) 7 fun s j => s.arrivalCtl core (wainPlace place) j).choices
/-- MEM_SETATTR (R188). -/
def execMemSetattr (core : Fin 160) (place : Fin 8) (s : State) : Out :=
  .next (s.runMem core (nearPlace place) 0x03 fun s j => s.memSetattr core (nearPlace place) j).choices
/-- MEM_REPUBLISH (R189). -/
def execMemRepublish (core : Fin 160) (place : Fin 8) (s : State) : Out :=
  .next (s.runMem core (nearPlace place) 0x04 fun s j => s.memRepublish core (nearPlace place) j).choices
/-- SP_READ (R395). -/
def execSpRead (m : Msg) (s : State) : Out := .next (s.homeAccept { m with kind := 0x61 }).choices
/-- SP_WRITE (R395). -/
def execSpWrite (m : Msg) (s : State) : Out := .next (s.homeAccept { m with kind := 0x63 }).choices
/-- SP_ATOMIC (R386). -/
def execSpAtomic (m : Msg) (s : State) : Out := .next (s.homeAccept { m with kind := 0x65 }).choices
/-- SP_COPY (R388). -/
def execSpCopy (m : Msg) (s : State) : Out := .next (s.homeAccept { m with kind := 0x66 }).choices
/-- SP_INVAL (R383). -/
def execSpInval (m : Msg) (s : State) : Out := .next (s.spInvalIn m).choices
/-- SP_REPUBLISH (R385). -/
def execSpRepublish (m : Msg) (s : State) : Out := .next (s.spRepubIn m).choices
/-- INVAL_ACK_TIMEOUT (R188). -/
def execInvalAckTimeout (tag : Nat) (s : State) : Out := .next (s.memberSilent tag [4, 6, 20]).choices
/-- REPUBLISH_TIMEOUT (R385). -/
def execRepublishTimeout (tag : Nat) (s : State) : Out := .next (s.memberSilent tag [5]).choices
/-- DIR_RECALL_TIMEOUT (R191). -/
def execDirRecallTimeout (lodge : Fin 16) (line : Nat) (s : State) : Out :=
  .next (s.recallTimeout (lineKey lodge (128 * line))).choices
/-- REPLICA_SCRUB (R449). -/
def execReplicaScrub (s : State) : Out := .next s.replicaScrub
/-- FRAME_ZEROED (R172). -/
def execFrameZeroed (tier : Fin 4) (frame : Nat) (s : State) : Out := .next (s.frameZeroed tier frame).choices

end Sys2Proof.Machine
end

