-- ==== Sys2Proof/Machine/Tally.lean ====
section
/-!
DEFINITION. The Tally commands (R300 to R317), Reckoning (R311, R312), the post-mortem dump (R318, R319), and the two ends of a
wait (R307, R315).
-/

namespace Sys2Proof.Machine

/-! ## Fields (R316) -/

/-- GROUP. -/
def Cmd.tGroup (c : Cmd) : Nat := c.fld 1 0 4
/-- SLOT of TALLY_GROUP. -/
def Cmd.tSlot (c : Cmd) : Nat := c.fld 1 4 4
/-- EVERY. -/
def Cmd.tEvery (c : Cmd) : Nat := c.fld 1 16 16
/-- DISBAND. -/
def Cmd.tDisband (c : Cmd) : Bool := bitAt 32 (c.w 1)
/-- TALLY, or FIRST of TALLY_READ. -/
def Cmd.tTally (c : Cmd) : Nat := c.fld 1 0 16
/-- COUNT of TALLY_READ. -/
def Cmd.tCount (c : Cmd) : Nat := c.fld 1 16 16

/-- Reserved bits by opcode. -/
def tallyReserved (x : Cmd) : Bool :=
  let w1 := x.w 1
  decide (x.flags / 4 ≠ 0) || x.w 3 != 0 || x.w 4 != 0 || x.w 5 != 0 || x.w 6 != 0 || x.w 7 != 0 || (x.op != 5 && x.w 2 != 0) ||
  (if x.op = 1 ∨ x.op = 4 then decide (w1 / 16 ≠ 0)
   else if x.op = 2 then decide (w1 / 2 ^ 16 ≠ 0)
   else if x.op = 3 then bits 8 8 w1 != 0 || decide (w1 / 2 ^ 33 ≠ 0)
   else decide (w1 / 2 ^ 32 ≠ 0))

/-! ## The pool (R300, R301) -/

/-- Tallies a lodge holds. -/
def State.tallyUsed (s : State) (l : Nat) : Nat := (s.tallies.filter fun e => e.2.lodge == l).length

/-- The lowest free Tally. -/
def State.freeTally (s : State) : Option Nat :=
  (natsFrom 0 (min 8192 (s.tallies.length + 1))).find? fun i => (Tbl.find i s.tallies).isNone

/-- A queued or running command names the Tally (R305). -/
def State.tallyNamed (s : State) (t : Nat) : Bool :=
  s.cores.any fun e => (e.2.queue.any fun x => x.tallies.contains t) || e.2.places.any fun p => p.2.cmd.tallies.contains t

/-- A group as its lodge configured it. -/
def State.group (s : State) (core g : Nat) : Option TGroup := Tbl.find (core * 16 + g) s.groups

/-- The group is configured for the lodge. -/
def State.groupOk (s : State) (core g l : Nat) : Bool := match s.group core g with | some x => x.lodge == l | none => false

/-- A group has Tallies. -/
def State.groupUsed (s : State) (core g : Nat) : Bool := s.tallies.any fun e => e.2.core == core && e.2.group == g

/-! ## Checks (R317) -/

/-- Tallies a TALLY command names, lowest first. -/
def Cmd.tNamed (c : Cmd) : List Nat :=
  if c.op = 2 then [c.tTally] else if c.op = 5 then natsFrom c.tTally c.tCount else []

/-- What R317 denies: the Tally recorded, 0xFFFF for a group, and its holder. -/
def State.tallyDeny (s : State) (x : Cmd) : Option Nat :=
  match x.tNamed.find? fun t => !s.tallyOk x.core x.lodge t with
  | some t => some t
  | none =>
    let g := x.tGroup
    if (x.op = 1 ∧ g ≠ 0 ∨ x.op = 4) ∧ !s.groupOk x.core g x.lodge then some 0xFFFF
    else if x.op == 3 && (match s.group x.core g with | some y => y.lodge != x.lodge | none => false) then some 0xFFFF
    else none

/-- The first failing check; 0 passes. -/
def State.tallyVerdict (s : State) (c : Nat) (x : Cmd) : Nat :=
  if x.version ≠ 1 then St.badVersion
  else if tallyReserved x then St.badReserved
  else if 160 ≤ x.core ∨ ((x.op = 2 ∨ x.op = 5) ∧ 8192 ≤ x.tTally) then St.outOfRange
  else if x.op = 5 ∧ (x.tCount = 0 ∨ 64 < x.tCount ∨ 8192 < x.tTally + x.tCount) then St.badOperand
  else if (s.tallyDeny x).isSome then St.tallyDenied
  else if (x.op = 3 ∨ x.op = 4) ∧ x.tGroup = 0 then St.badOperand
  else if x.op = 3 ∧ !x.tDisband ∧ (x.tEvery = 0 ∨ (8 ≤ x.tSlot ∧ x.tSlot ≠ 0xF)) then St.badOperand
  else if x.op = 5 ∧ x.w 2 % 64 ≠ 0 then St.badOperand
  else if x.op = 1 ∧ (s.rd Reg.tlyQuotaQuota x.lodge ≤ s.tallyUsed x.lodge ∨ s.freeTally = none) then St.noTally
  else if (x.op = 2 ∧ s.tallyNamed x.tTally) ∨ (x.op = 3 ∧ x.tDisband ∧ s.groupUsed x.core x.tGroup) then St.busy
  else if x.op = 3 ∧ !x.tDisband ∧ x.tSlot ≠ 0xF ∧ s.rd Reg.ldgModelCfgLodge x.tSlot ≠ x.lodge then St.badModel
  else if (s.core c).quarantined then St.coreQuarantined
  else St.ok

/-! ## Reckoning (R311) -/

/-- The minimum of COUNT over a list; 0 for none. -/
def minCount : List Tally → Nat
  | [] => 0
  | t :: r => r.foldl (fun m x => min m x.count) t.count

/-- One Reckoning of a group: the state and m. -/
def State.reckon (s : State) (core g : Nat) : State × Nat :=
  let mine (t : Tally) : Bool := t.core == core && t.group == g
  let m := minCount ((s.tallies.filter fun e => mine e.2).map (·.2))
  let s := s.count Reg.tlyReckonCntCount
  ({ s with tallies := s.tallies.map (fun e => (e.1, if mine e.2 then { e.2 with count := e.2.count - m } else e.2)),
            groups := Tbl.adjust (core * 16 + g) (fun x => { x with sum := (x.sum + m) % 2 ^ 32 }) s.groups }, m)

/-- The Reckonings of a step boundary (R312). -/
def State.reckonSlot (s : State) (slot step : Nat) : State :=
  (s.groups.filter fun e => e.2.slot == slot && e.2.every != 0 && step % e.2.every == 0).foldl (fun s e =>
    (s.reckon (e.1 / 16) (e.1 % 16)).1) s

/-! ## Running a TALLY command -/

/-- The first TALLY command of an opcode that is next in its ring's order at the core and may run (R69, R85, R316), while the core is enabled
(R96). -/
def State.nextTally (s : State) (c op : Nat) : Option Cmd :=
  (s.core c).queue.find? fun x => s.on Reg.cmpCtrlEnable c && x.klass == 5 && x.op == op && (s.core c).inOrder x 99 && s.active x.lodge &&
    (!x.ordered || s.orderedFree x)

/-- Run a command that has no slot once its record has room (R333). -/
def State.withRoom (s : State) (x : Cmd) (mark : State → State) (k : State → State) : State :=
  if x.sched || s.hasRoom (s.cqOf x.ring) 1 || !s.cqLive (s.cqOf x.ring) then k s
  else if x.done then s
  else (mark s).bump Reg.hifCqStallCount

/-- Mark a queued command as having waited for its reservation. -/
def markQueued (x : Cmd) (l : List Cmd) : List Cmd := l.map fun y => if y = x then { y with done := true } else y

/-- The effect of a TALLY command whose checks pass: the state, RESULT, and an execution fault's status. -/
def State.tallyRun (s : State) (x : Cmd) : State × Nat × Nat :=
  if x.op = 1 then
    match s.freeTally with
    | some t => ({ s with tallies := Tbl.put t ⟨x.core, x.lodge, x.tGroup, 0, false, 0⟩ s.tallies }, t, St.ok)
    | none => (s, 0, St.noTally)
  else if x.op = 2 then ({ s with tallies := Tbl.del x.tTally s.tallies }, 0, St.ok)
  else if x.op = 3 then
    let k := x.core * 16 + x.tGroup
    if x.tDisband then ({ s with groups := Tbl.del k s.groups }, 0, St.ok)
    else
      let sum := match Tbl.find k s.groups with | some g => g.sum | none => 0
      ({ s with groups := Tbl.put k ⟨x.lodge, x.tSlot, x.tEvery, sum⟩ s.groups }, 0, St.ok)
  else if x.op = 4 then
    let (s, m) := s.reckon x.core x.tGroup
    (s, m % 2 ^ 32, St.ok)
  else
    let st := s.accessStatus x.lodge (x.w 2) (8 * x.tCount)
    if st ≠ St.ok then (s, 0, st)
    else
      let word (t : Nat) : List Byte :=
        match Tbl.find t s.tallies with
        | some y => leBytes 4 y.count ++ leBytes 4 (s.logical y)
        | none => leBytes 8 0
      (s.pokeHome x.lodge (x.w 2) ((natsFrom x.tTally x.tCount).flatMap word), 0, St.ok)

/-- One occurrence of a TALLY row. -/
def State.tally (s : State) (c op : Nat) : State :=
  match s.nextTally c op with
  | none => s
  | some x =>
    s.withRoom x (fun s => s.modCore c fun k => { k with queue := markQueued x k.queue }) fun s =>
      let v := s.tallyVerdict c x
      let s := s.modCore c fun k => { k with queue := dequeue x k.queue }
      let s := s.recordWait x.lodge x.clients (s.now - x.arrived)
      if v ≠ St.ok then
        let s := if v = St.tallyDenied then s.tallyBlocked x ((s.tallyDeny x).getD 0xFFFF) else s
        let s := if v = St.coreQuarantined && x.sched then s.holdSlot x.slot else s
        s.finish x x.core v 0 0
      else
        let (s, r, st) := s.tallyRun x
        let s := s.finish x x.core st 0 r
        if isFault st then s.faultLodge x.lodge st 0 x.core (if x.sched then 0xFF else x.ring) x.tag else s

/-! ## The end of a wait (R307, R315) -/

/-- SPIN_TIMEOUT: a command in WAIT for SPIN_US, or a Wain waiter on an arrival counter (R389), ends; its lodge context faults. -/
def State.spinTimeout (s : State) (c p : Nat) : State :=
  match s.job c p with
  | none => s
  | some j =>
    let arrival := j.cmd.klass == 6 && j.cmd.op == 6 && j.st == .run
    if s.on Reg.tlyCtrlWdEn && ((j.st == .wait && !s.waitMet j.cmd) || arrival) then
      let s := (s.bump Reg.tlySpinFaultCount).setBit Reg.tlyErrBits 2
      s.endJob c p j St.spinTimeout
    else s

/-! ## The dump (R318, R319) -/

/-- The record of a Tally. -/
def State.dumpTally (s : State) (t : Nat) (x : Tally) : List Byte :=
  leBytes 8 (x.count + t * 2 ^ 32 + x.core * 2 ^ 45 + x.lodge * 2 ^ 53 + x.group * 2 ^ 57 + (if x.ovf then 2 ^ 61 else 0)) ++
  leBytes 4 (s.logical x) ++ leBytes 4 x.last

/-- The record of a waiter. -/
def State.dumpWaiter (s : State) (p : Nat) (j : Job) : List Byte :=
  leBytes 8 (j.cmd.waitTally + j.cmd.core * 2 ^ 13 + j.cmd.lodge * 2 ^ 21 + kindOf p * 2 ^ 25 + j.cmd.waitV * 2 ^ 32) ++
  leBytes 8 (j.cmd.tag + min (2 ^ 32 - 1) ((s.now - j.since) / 1000) * 2 ^ 32)

/-- Waiters of a lodge, or of all. -/
def State.waiters (s : State) (all : Bool) (l : Nat) : List (Nat × Job) :=
  (s.jobs.filter fun j => j.2.2.st == .wait && j.2.2.cmd.waitTally != 0xFFFF && (all || j.2.2.cmd.lodge == l)).map fun j => (j.2.1, j.2.2)

/-- The bytes of a dump. -/
def State.dumpBytes (s : State) (all : Bool) (l : Nat) : List Byte :=
  let ts := s.tallies.filter fun e => all || e.2.lodge == l
  let ws := s.waiters all l
  leBytes 8 (ts.length + ws.length * 2 ^ 16 + (if all then 0xF else l) * 2 ^ 28) ++ leBytes 8 s.now ++ List.replicate 48 0 ++
    ts.flatMap (fun e => s.dumpTally e.1 e.2) ++ ws.flatMap fun w => s.dumpWaiter w.1 w.2

/-- A START write. -/
def State.tallyDumpStart (s : State) (all : Bool) (l : Nat) : State :=
  if s.on Reg.tlyDumpCmdBusy then s.discard.setBit Reg.tlyErrBits 3
  else
    let bs := s.dumpBytes all l
    let s := s.hostWrite (s.rd Reg.tlyDumpAddr * 64) bs
    { s.wr Reg.tlyDumpCmdBusy 1 with tallyDump := some bs.length }

/-- The dump is written. -/
def State.tallyDumpEnd (s : State) : State :=
  match s.tallyDump with
  | none => s
  | some n => { (s.wr Reg.tlyDumpCmdBusy 0).wr Reg.tlyDumpLenBytes n with tallyDump := none }

/-! ## The commands -/

/-- TALLY_ALLOC (R316). -/
def execTallyAlloc (core : Fin 160) (s : State) : Out := .next (s.tally core 1).choices
/-- TALLY_FREE (R305). -/
def execTallyFree (core : Fin 160) (s : State) : Out := .next (s.tally core 2).choices
/-- TALLY_GROUP (R310). -/
def execTallyGroup (core : Fin 160) (s : State) : Out := .next (s.tally core 3).choices
/-- TALLY_RECKON (R311). -/
def execTallyReckon (core : Fin 160) (s : State) : Out := .next (s.tally core 4).choices
/-- TALLY_READ (R316). -/
def execTallyRead (core : Fin 160) (s : State) : Out := .next (s.tally core 5).choices
/-- WAIT_RELEASE (R307): a waiter whose wait is met leaves WAIT. -/
def execWaitRelease (core : Fin 160) (place : Fin 13) (s : State) : Out := .next (s.toRun core place)
/-- SPIN_TIMEOUT (R315). -/
def execSpinTimeout (core : Fin 160) (place : Fin 13) (s : State) : Out := .next (s.spinTimeout core place).choices
/-- TALLY_DUMP (R318). -/
def execTallyDump (all : Bool) (lodge : Fin 16) (s : State) : Out := .next (s.tallyDumpStart all lodge)
/-- TALLY_DUMP_DONE (R318). -/
def execTallyDumpDone (s : State) : Out := .next s.tallyDumpEnd

end Sys2Proof.Machine
end

