-- ==== Sys2Proof/Machine/LedgerOps.lean ====
section
/-!
DEFINITION. The Guest Ledger's own operations: handles and entries (R201 to R206), KV pages and lists (R139, R156, R209), steering by
liveries (R226, R227), token selection (R213), the streams a step scheduler issues (R122, R284, R306), the reductions of an express group
(R31, R153, R217, R218), step-record units (R219, R220).
-/

namespace Sys2Proof.Machine

/-! ## Entries (R201 to R205) -/

/-- The entry of a slot, when it is not FREE. -/
def State.entry (s : State) (i : Nat) : Option Entry := Tbl.find i s.ldg.entries
/-- Put an entry. -/
def State.setEntry (s : State) (i : Nat) (e : Entry) : State := { s with ldg := { s.ldg with entries := Tbl.put i e s.ldg.entries } }
/-- Change an entry. -/
def State.modEntry (s : State) (i : Nat) (f : Entry → Entry) : State :=
  { s with ldg := { s.ldg with entries := Tbl.adjust i f s.ldg.entries } }
/-- HANDLE of an entry. -/
def handleOf (i : Nat) (e : Entry) : Nat := i + e.gen * 2 ^ 16

/-- The entry a handle names, of any lodge (R202, R248): not FREE, same GEN. -/
def State.named (s : State) (h : Nat) : Option (Nat × Entry) :=
  match s.entry (h % 2 ^ 16) with
  | some e => if e.gen = h / 2 ^ 16 then some (h % 2 ^ 16, e) else none
  | none => none

/-- The entry a descriptor's handle names in its lodge (R202). -/
def State.mine (s : State) (l h : Nat) : Option (Nat × Entry) :=
  match s.named h with
  | some (i, e) => if e.req.lodge = l then some (i, e) else none
  | none => none

/-- The entry that has been FREE the longest (R203). -/
def State.nextFree (s : State) : Option Nat :=
  if s.ldg.fresh < 65536 then some s.ldg.fresh else s.ldg.freed.head?

/-- GEN of a slot. -/
def State.genOf (s : State) (i : Nat) : Nat := Tbl.get 1 i s.ldg.gens

/-- An entry passes to FREE; its GEN rises when its handle has been issued (R201). -/
def State.freeEntry (s : State) (i : Nat) (issued : Bool) : State :=
  let g := s.genOf i
  let gens := if issued then Tbl.set 1 i (if g = 65535 then 1 else g + 1) s.ldg.gens else s.ldg.gens
  { s with ldg := { s.ldg with entries := Tbl.del i s.ldg.entries, gens := gens, freed := s.ldg.freed ++ [i] } }

/-- Take a FREE entry's slot. -/
def State.takeSlot (s : State) (i : Nat) : State :=
  { s with ldg := { s.ldg with fresh := if i = s.ldg.fresh then i + 1 else s.ldg.fresh, freed := s.ldg.freed.filter (· != i) } }

/-- An entry changes STATE; a wait in QUEUED_PREFILL or QUEUED_GEN is recorded when it ends (R294). -/
def State.toSt (s : State) (i st : Nat) : State :=
  match s.entry i with
  | none => s
  | some e =>
    let s := s.setEntry i { e with st := st, since := s.now }
    if e.st = 2 ∨ e.st = 5 then s.recordWait e.req.lodge [e.req.client] (s.now - e.since) else s

/-- A shrink of the slot waits for its boundary or for acknowledgements (R442, R443, R451). -/
def State.shrinking (s : State) (k : Nat) : Bool :=
  (s.slotOf k).shrink.isSome || s.ldg.entries.any fun e => e.2.req.model == k && e.2.waitMap != [] && decide (e.2.st ≤ 6)

/-! ## KV pages (R139, R209) -/

/-- An R140 word. -/
def listWord (dev page : Nat) : Nat := dev + page * 2 ^ 24
/-- HOME of an R140 word. -/
def wordHome (w : Nat) : Nat := bits 0 24 w
/-- PAGE of an R140 word. -/
def wordPage (w : Nat) : Nat := bits 24 40 w

/-- Key of a page in the home's index. -/
def indexKey (l pool page : Nat) : Nat := l * 2 ^ 36 + pool * 2 ^ 32 + page

/-- The lowest pages of a pool that nobody owns or shares and whose headers translate. -/
def State.freePagesOf (s : State) (l : Nat) (p : Pool) : Nat → Nat → List Nat → List Nat
  | 0, _, acc => acc
  | fuel + 1, want, acc =>
    if want = 0 then acc
    else
      let n := p.pages - (fuel + 1)
      if s.accessStatus l (p.pageAddr n) 1024 = St.ok ∧ !s.pageUsed l p n then s.freePagesOf l p fuel (want - 1) (acc ++ [n])
      else s.freePagesOf l p fuel want acc

/-- Write the header words of newly allocated pages (R139): list entries from `idx` on, the first after `prev`. -/
def State.initPages (s : State) (l pi : Nat) (p : Pool) (dev handle livery idx list : Nat) : Nat → List Nat → State
  | _, [] => s
  | prev, n :: r =>
    let a := p.pageAddr n
    let s := s.pokeHome l a (leBytes 8 (ownerWord dev handle) ++ leBytes 8 0 ++ leBytes 8 (p.key + livery * 2 ^ 48) ++ leBytes 8 prev)
    let s := { s with att := { s.att with index := Tbl.put (indexKey l pi n) (idx * 2 + list) s.att.index } }
    s.initPages l pi p dev handle livery (idx + 1) list n r

/-- Allocate pages of a pool, all or none (R209, R211). -/
def State.allocPages (s : State) (l pi count dev handle livery idx list prev : Nat) : State × Option (List Nat) :=
  match (s.pool l pi).1 with
  | none => (s, none)
  | some p =>
    let ns := s.freePagesOf l p p.pages count []
    if ns.length < count then (s, none) else (s.initPages l pi p dev handle livery idx list prev ns, some ns)

/-- One page released by an owner or a sharer (R209). -/
def State.releasePage (s : State) (l pi n dev handle : Nat) : State :=
  match (s.pool l pi).1 with
  | none => s
  | some p =>
    if p.pages ≤ n ∨ s.hdrStatus l p n ≠ St.ok then s
    else if s.hdr l p n 0 = ownerWord dev handle then
      let s := s.setHdr l p n 0 0
      { s with att := { s.att with index := Tbl.del (indexKey l pi n) s.att.index } }
    else if s.share l p n ≠ 0 then s.setHdr l p n 1 (s.hdr l p n 1 - 1)
    else s

/-- SHARE_ADD of one page (R156). -/
def State.sharePage (s : State) (l pi n : Nat) : State :=
  match (s.pool l pi).1 with
  | none => s
  | some p => if p.pages ≤ n ∨ s.hdrStatus l p n ≠ St.ok ∨ s.share l p n = 65535 then s else s.setHdr l p n 1 (s.hdr l p n 1 + 1)

/-! ## Lists (R209) -/

/-- 4 KiB blocks of a request's list of MAX_LEN positions. -/
def listBlocks (maxLen : Nat) : Nat := ceilDiv (ceilDiv maxLen 64 * 8) 4096

/-- Blocks of a lodge's heap that lists take: first block and count. -/
def State.listsTaken (s : State) (l : Nat) : List (Nat × Nat) :=
  let base := s.rd Reg.ldgListAddr l
  (s.ldg.entries.filter fun e => e.2.req.lodge == l).flatMap (fun e =>
    [(e.2.kvList.2 / 4096 - base, listBlocks e.2.req.maxLen), (e.2.draftList.2 / 4096 - base, listBlocks e.2.req.maxLen)].filter
      fun _ => e.2.kvList.2 != 0 || e.2.draftList.2 != 0) ++
  ((s.ldg.subs.filter fun e => e.2.lodge == l && e.2.list != 0).map fun e => (e.2.list / 4096 - base, listBlocks (e.2.msg.fld 1 32 32 + 9)))

/-- First fit: the lowest block where `n` blocks are free. -/
def State.listFit (s : State) (l n : Nat) (taken : List (Nat × Nat)) : Option Nat :=
  let starts := sortDedup (0 :: taken.map fun t => t.1 + t.2)
  starts.find? fun b => decide (b + n ≤ s.rd Reg.ldgListSizeBlocks l) && !(taken.any fun t => overlap b n t.1 t.2)

/-- Space for a list in a lodge's heap: its address. -/
def State.listSpace (s : State) (l maxLen : Nat) (more : List (Nat × Nat)) : Option Nat :=
  (s.listFit l (listBlocks maxLen) (s.listsTaken l ++ more)).map fun b => (s.rd Reg.ldgListAddr l + b) * 4096

/-- Write list entries from index `idx` on. -/
def State.writeList (s : State) (l addr idx : Nat) (ws : List Nat) : State :=
  if s.accessStatus l (addr + 8 * idx) (8 * ws.length) = St.ok then s.pokeHome l (addr + 8 * idx) (ws.flatMap (leBytes 8)) else s

/-! ## Steering (R226, R227) -/

/-- Entry `j` of a slot's basis (R226): LAYER, SCALE, VEC_ADDR. -/
def State.basis (s : State) (l k j : Nat) : Nat × F32 × Nat :=
  let a := s.rd Reg.ldgBasisAddr k * 16 + 16 * j
  (s.peekNat l a 1, BitVec.ofNat 32 (s.peekNat l (a + 4) 4), s.peekNat l (a + 8) 8)

/-- Where coefficient 0 of steered layer `j` of livery `v` lies (R226). -/
def State.coeffAddr (s : State) (k v j : Nat) : Nat := s.rd Reg.ldgLiveryAddr k * 8192 + 8192 * v + 64 * j

/-- The 64 signed coefficients of steered layer `j` of a livery. -/
def State.coeffs (s : State) (l k v j : Nat) : List Int := (s.peek l (s.coeffAddr k v j) 64).map BitVec.toInt

/-- One dimension of a row at a steered layer (R227): the contraction of the coefficients and one column of the basis, scaled, added. -/
def steerLane (c : List Int) (b : Nat → Fl Num) (scale r : F32) : F32 :=
  ((contract 64 fun i => dotProd (rd32 (intF32 (c.getD i 0))) (b i)).bind fun x => (mul32 x scale).bind fun t => add32 r t).val

/-- A row of a residual after steered layer `j` of livery `v` (R227). Where the basis, its rows or the coefficients cannot be read, the spec
states no result: the row is free. -/
def State.steerRow (s : State) (l k v j : Nat) (r : List F32) : List F32 :=
  let (layer, scale, vec) := s.basis l k j
  let d := r.length
  if firstBad [s.readStatus l (s.rd Reg.ldgBasisAddr k * 16 + 16 * j) 16, s.readStatus l vec (128 * d), s.readStatus l (s.coeffAddr k v j) 64] = St.ok then
    let c := s.coeffs l k v j
    r.zipIdx.map fun e => steerLane c (fun i => decodeNum .bf16 (s.peekNat l (vec + 2 * (d * i + e.2)) 2) 0) scale e.1
  else Config.residual k (256 + layer) s.free r

/-- The steered layers of a slot in the order of the model's layers. -/
def State.steerOrder (s : State) (l k : Nat) : List Nat :=
  let js := natsFrom 0 (s.rd Reg.ldgModelCfgNsteer k)
  (natsFrom 0 256).flatMap fun y => js.filter fun j => (s.basis l k j).1 == y

/-- The residuals of one row of a request after each steered layer of a slot (R227); none with NO_LIVERY. -/
def State.steered (s : State) (k : Nat) (r : Req) : List (List F32) :=
  if r.noLivery then []
  else
    ((s.steerOrder r.lodge k).foldl (fun (a : List F32 × List (List F32)) j =>
      let x := s.steerRow r.lodge k r.livery j (Config.residual k (s.basis r.lodge k j).1 s.free a.1)
      (x, a.2 ++ [x])) ([], [])).2

/-! ## Token selection (R213) -/

/-- One bit of CRC-32C. -/
def crcBit (x : Nat) : Nat := if x % 2 = 1 then (x / 2) ^^^ 0x82F63B78 else x / 2
/-- CRC-32C of bytes. -/
def crc32c (bs : List Byte) : Nat :=
  (bs.foldl (fun c b => (natsFrom 0 8).foldl (fun c _ => crcBit c) (c ^^^ b.toNat)) 0xFFFFFFFF) ^^^ 0xFFFFFFFF

/-- The first j with t < cum[j]; the last if none. -/
def pickCum (t : F32) (cums : List F32) : Nat :=
  match ((natsFrom 0 cums.length).zip cums).find? fun e => (rd32 t).val.lt (rd32 e.2).val with
  | some e => e.1
  | none => cums.length - 1

/-- The running sums of R213. -/
def cumSums (temp m : F32) : List F32 → F32 → List F32
  | [], _ => []
  | x :: r, c =>
    let e := ((div32 x temp).bind fun y => (sub32 y m).bind exp32).val
    let c' := (add32 c e).val
    c' :: cumSums temp m r c'

/-- The token a logit row gives for position `p`. -/
def selectToken (r : Req) (p : Nat) (logits : List F32) : Nat :=
  let vs := logits.map fun x => (rd32 x).val
  if !r.sample || r.temp == 0 then (topIndices vs 1 []).headD 0
  else
    let ix := topIndices vs (if r.topK = 0 then 64 else r.topK) []
    let sel := ix.map fun i => logits.getD i 0
    let temp : F32 := BitVec.ofNat 32 r.temp
    let m := (div32 (sel.headD 0) temp).val
    let cums := cumSums temp m sel 0
    let h := crc32c (leBytes 4 r.seed ++ leBytes 8 p)
    let u := (rnd32 (.fin false (h / 256) (-24))).val
    let t := (mul32 u (cums.getLastD 0)).val
    ix.getD (pickCum t cums) 0

/-- One selection of a model slot's stream: its logits are free words that follow from the steered residuals and from the results of the
step's reductions across members. -/
def State.token (s : State) (slot : Nat) (r : Req) (sums : List (List F32)) (p : Nat) : State × Nat :=
  (s.useFree 1, selectToken r p (Config.logitRow slot s.free (s.steered slot r ++ sums)))

/-- `n` selections, one position after another. -/
def State.tokens (s : State) (slot : Nat) (r : Req) (sums : List (List F32)) (p : Nat) : Nat → State × List Nat
  | 0 => (s, [])
  | n + 1 =>
    let (s, t) := s.token slot r sums p
    let (s, ts) := s.tokens slot r sums (p + 1) n
    (s, t :: ts)

/-! ## Streams (R122, R154, R284, R306, R440) -/

/-- A stream command with its Tally base captured now (R306). -/
def State.based (s : State) (x : Cmd) : Cmd :=
  { x with waitBase := if x.waitTally = 0xFFFF then 0 else match Tbl.find x.waitTally s.tallies with | some t => s.logical t | none => 0 }

/-- A descriptor of a stream as a slot's scheduler issues it (R284), the `n`th of all it issues. -/
def State.schedCmd (s : State) (k l cls : Nat) (clients : List Nat) (n : Nat) (words : List Nat) : Cmd :=
  s.based { words := (natsFrom 0 8).map fun i => words.getD i 0 % 2 ^ 64, ring := 0xFF, sched := true, slot := k, lodge := l, cls := cls,
            clients := clients, idx := 0, seq := s.hif.fetched + n, kills := 0, arrived := s.now, waitBase := 0, done := false }

/-- A stream holds commands of the classes that a core runs, for cores that exist. -/
def Cmd.issuable (x : Cmd) : Bool := decide (2 ≤ x.klass) && decide (x.klass ≤ 8) && decide (x.core < 160)

/-- The layers of a stream as commands, numbered through. -/
def layerCmds (mk : Nat → List Nat → Cmd) : Nat → List (List (List Nat)) → List (List Cmd)
  | _, [] => []
  | n, l :: r => ((l.zipIdx n).map fun e => mk e.2 e.1).filter Cmd.issuable :: layerCmds mk (n + l.length) r

/-- A slot's scheduler takes up a stream: its first layer is to be issued. -/
def Slot.load (x : Slot) (cs : List (List Cmd)) : Slot := { x with stream := cs, todo := cs.headD [], left := cs.drop 1 }

/-- Take up a stream of a model image on a slot. -/
def State.loadStream (s : State) (k l cls : Nat) (clients : List Nat) (layers : List (List (List Nat))) : State :=
  let cs := layerCmds (s.schedCmd k l cls clients) 0 layers
  let n := (layers.map List.length).foldl (· + ·) 0
  ({ s with hif := { s.hif with fetched := s.hif.fetched + n } } : State).modSlot k fun x => x.load cs

/-- A slot's stream starts again from its first command, its Tally bases captured again (R306, R440). -/
def State.restart (s : State) (k : Nat) : State := s.modSlot k fun x => x.load (x.stream.map fun l => l.map s.based)

/-- Commands of a slot's stream are still to be issued, queued or running. -/
def State.stepBusy (s : State) (k : Nat) : Bool :=
  (s.slotOf k).todo != [] ||
  s.cores.any fun e => (e.2.queue.any fun x => x.sched && x.slot == k) || e.2.places.any fun p => p.2.cmd.sched && p.2.cmd.slot == k

/-! ## Reductions across members (R31, R153, R217, R218) -/

/-- The FP32 values of a node. -/
def nodeVals (b : List Byte) : List F32 := (natsFrom 0 (b.length / 4)).map fun i => BitVec.ofNat 32 (leNat ((b.drop (4 * i)).take 4))

/-- Two nodes added, the lower member on the left (R30). -/
def addNodes (a b : List F32) : List F32 := (a.zip b).map fun x => (add32 x.1 x.2).val

/-- One level of the tree over nodes in ascending member order. -/
def pairUp : List (List F32) → List (List F32)
  | a :: b :: r => addNodes a b :: pairUp r
  | l => l

/-- `n` levels of the tree. -/
def treeUp : Nat → List (List F32) → List (List F32)
  | 0, l => l
  | n + 1, l => treeUp n (pairUp l)

/-- Blocks of 64 list entries that member `rank` of `g` holds of a list of `n` entries (R153). -/
def kvBlocks (g rank n : Nat) : List Nat := (natsFrom 0 (ceilDiv n 64)).filter fun b => b % g == rank

/-- FP32 values of a member's node: of a reduction its ELEMS; of an exchange of attention partials, o and lse of each of its blocks, for each of
ELEMS rows (R153; log 141). -/
def nodeElems (g rank elems : Nat) : Option (Nat × Nat) → Nat
  | none => elems
  | some (d, n) => elems * ((kvBlocks g rank n).length * (d + 1))

/-- The partial of block `b` of row `r`, among the nodes of `g` members in order. -/
def blockPart (g d n : Nat) (nodes : List (List F32)) (r b : Nat) : Part :=
  let v := nodes.getD (b % g) []
  let w := (v.drop ((r * (kvBlocks g (b % g) n).length + b / g) * (d + 1))).take (d + 1)
  ⟨w.take d, w.getD d negInf⟩

/-- The result of a reduction from the nodes of all members in ascending member order: the tree of R30, or that of R150 over the blocks. -/
def reduceNodes (elems : Nat) (att : Option (Nat × Nat)) (nodes : List (List F32)) : List F32 :=
  match att with
  | none => ((treeUp (Nat.log2 nodes.length) nodes).headD []).take elems
  | some (d, n) =>
    (natsFrom 0 elems).flatMap fun r =>
      let known (L b : Nat) : Option (Fl Part) := if L = 6 then some (Fl.pure (blockPart nodes.length d n nodes r b)) else none
      let p := (attNode d n known attLevels 0).val
      p.o ++ [p.lse]

/-- The node of a member for the first reduction that is not complete; of member `me` its own. -/
def Reduce.nodeOf (r : Reduce) (me m : Nat) : Option (List Byte) :=
  if m = me then r.own
  else (r.nodes.find? fun x => x.1 == r.step && some x.2.1 == r.todo.head?.map (·.1) && x.2.2.1 == m).map (·.2.2.2)

/-- With the nodes of every member there, the reduction is complete (R218). -/
def Reduce.settled (r : Reduce) (me : Nat) (group : List Nat) : Reduce :=
  match r.todo with
  | [] => r
  | (_, elems, att) :: t =>
    if group.all fun m => (r.nodeOf me m).isSome then
      { r with todo := t, own := none, sums := r.sums ++ [reduceNodes elems att (group.map fun m => nodeVals ((r.nodeOf me m).getD []))] }
    else r

/-- This device's node of the next reduction. -/
def State.ownNode (s : State) (group : List Nat) (r : Reduce) : Reduce :=
  match r.todo with
  | [] => r
  | (op, elems, att) :: _ =>
    let rank := (group.filter (· < member s.self)).length
    { r with own := some ((natsFrom 0 (nodeElems group.length rank elems att)).flatMap fun i => leBytes 4 (Config.nodeWord s.free op i).toNat) }

/-- The reductions of a step at its start; nodes that came before it are kept. -/
def State.newReduce (s : State) (k step : Nat) (r : Reduce) : Reduce :=
  { step := step, todo := (Config.reductions k s.free).zipIdx.map fun e => (e.2, e.1.1, e.1.2), own := none,
    nodes := r.nodes.filter fun x => x.1 == step, sums := [] }

/-- GROUP_NODE to every other member (R217, R218). -/
def State.sendNode (s : State) (l tenant h : Nat) (group : List Nat) (r : Reduce) : State :=
  match r.todo.head?, r.own with
  | some x, some b =>
    let m := mkMsg 0x2B s.self tenant [h + r.step * 2 ^ 32, x.1 % 2 ^ 16 + member s.self * 2 ^ 16 + (6 - Nat.log2 group.length) * 2 ^ 22, b.length / 4] b
    (group.filter (· != member s.self)).foldl (fun (s : State) d => s.sendReq 8 l (s.memberDev d) m) (s.useFree 1)
  | _, _ => s

/-! ## Step records (R219, R220) -/

/-- What one unit says. -/
structure Listing where
  /-- the entry -/
  slot : Nat
  /-- the run: token and whether the fallback model gave it -/
  run : List (Nat × Bool)
  /-- ACCEPTED -/
  accepted : Nat
  /-- LAST -/
  last : Bool
  /-- DROPPED -/
  dropped : Bool
  deriving DecidableEq, Repr

/-- FALLBACK_MASK of a run. -/
def runMask (l : List (Nat × Bool)) : Nat :=
  ((natsFrom 0 l.length).zip l).foldl (fun n e => if e.2.2 then n + 2 ^ e.1 else n) 0

/-- A request unit, PHASE clear. -/
def State.unit (s : State) (x : Listing) : List Nat :=
  match s.entry x.slot with
  | none => List.replicate 8 0
  | some e =>
    let m := runMask x.run
    let tk (i : Nat) : Nat := (x.run.getD i (0, false)).1 % 2 ^ 32
    [2 * 2 + x.run.length * 2 ^ 4 + x.accepted * 2 ^ 8 + (if m = 0 then 0 else 2 ^ 12) + (if e.emptyAttn then 2 ^ 13 else 0) +
       (if x.last then 2 ^ 14 else 0) + (if x.dropped then 2 ^ 15 else 0) + e.reason * 2 ^ 16 + m * 2 ^ 20 + handleOf x.slot e * 2 ^ 32,
     e.genLen % 2 ^ 32 + tk 0 * 2 ^ 32, tk 1 + tk 2 * 2 ^ 32, tk 3 + tk 4 * 2 ^ 32, tk 5 + tk 6 * 2 ^ 32, tk 7 + tk 8 * 2 ^ 32,
     e.req.tag, 0]

/-- A header unit, PHASE clear. -/
def headerUnit (slot count step time ns batch rows : Nat) (array more : Bool) : List Nat :=
  [1 * 2 + slot * 2 ^ 8 + count * 2 ^ 16 + step * 2 ^ 32, time, min ns (2 ^ 32 - 1) + batch * 2 ^ 32,
   rows + (if array then 2 ^ 16 else 0) + (if more then 2 ^ 17 else 0), 0, 0, 0, 0]

/-- The units of one ring cut into records of at most `per` units, at one boundary. -/
def cutRecords (ring order per : Nat) (hdr : Nat → Bool → List Nat) : Nat → List (List Nat × Option Nat) → List StepRec
  | 0, _ => []
  | fuel + 1, us =>
    if us = [] then []
    else
      let now := us.take per
      let rest := us.drop per
      ⟨ring, hdr now.length (rest != []) :: now.map (·.1), now.filterMap (·.2), order⟩ :: cutRecords ring order per hdr fuel rest

/-- Write one record: its units, then its header (R221). -/
def State.writeStepRec (s : State) (r : StepRec) : State :=
  let n := s.devIdx r.ring
  let size := s.ringSize r.ring
  let base := s.rd Reg.hifRingBaseAddr r.ring * 2 ^ 12
  let put (s : State) (i : Nat) (u : List Nat) : State :=
    let u := match u with | [] => [] | a :: t => (a + phaseOf (n + i) size) :: t
    s.hostWrite (base + 64 * ((n + i) % size)) (u.flatMap (leBytes 8))
  let body := (natsFrom 0 r.units.length).zip r.units
  let s := (body.drop 1).foldl (fun s e => put s e.1 e.2) s
  let s := (body.take 1).foldl (fun s e => put s e.1 e.2) s
  let s := (s.count Reg.hifRingIdxDevIdx r.units.length r.ring).writeDevIdx r.ring
  if s.on Reg.hifRingCfgIrqAll r.ring then s.countIrq r.ring else s

end Sys2Proof.Machine
end

