-- ==== Sys2Proof/Machine/Ledger.lean ====
section
/-!
DEFINITION. LEDGER descriptors (R207, R208, R222, R228, R229): their checks, admission with its group check, prefix sharing and
page allocation (R209, R210, R217, R218), the ends of entries (R205, R206), liveries.
-/

namespace Sys2Proof.Machine

/-! ## Descriptor fields (R207, R229) -/

/-- HANDLE of CANCEL, QUERY, RELEASE. -/
def Cmd.lHandle (c : Cmd) : Nat := c.fld 1 0 32
/-- PROMPT_LEN. -/
def Cmd.lPrompt (c : Cmd) : Nat := c.fld 2 0 32
/-- MAX_LEN. -/
def Cmd.lMax (c : Cmd) : Nat := c.fld 2 32 32
/-- BUDGET_US. -/
def Cmd.lBudget (c : Cmd) : Nat := c.fld 3 0 32
/-- PRIO. -/
def Cmd.lPrio (c : Cmd) : Nat := c.fld 3 32 3
/-- GROUP_LOG2. -/
def Cmd.lLog2 (c : Cmd) : Nat := c.fld 3 35 3
/-- GROUP_FIRST. -/
def Cmd.lFirst (c : Cmd) : Nat := c.fld 3 38 6
/-- TOP_K. -/
def Cmd.lTopK (c : Cmd) : Nat := c.fld 3 44 7
/-- STEP_RING. -/
def Cmd.lRing (c : Cmd) : Nat := c.fld 3 56 8
/-- TENANT. -/
def Cmd.lTenant (c : Cmd) : Nat := c.fld 4 0 24
/-- LIVERY. -/
def Cmd.lLivery (c : Cmd) : Nat := c.fld 4 40 16
/-- MODEL_SLOT. -/
def Cmd.lModel (c : Cmd) : Nat := c.fld 4 56 8
/-- FALLBACK_SLOT. -/
def Cmd.lFallback (c : Cmd) : Nat := c.fld 6 32 8
/-- EXPECT_LEN. -/
def Cmd.lExpect (c : Cmd) : Nat := c.fld 5 0 32
/-- TEMP. -/
def Cmd.lTemp (c : Cmd) : Nat := c.fld 7 0 32
/-- PREFIX. -/
def Cmd.lPrefix (c : Cmd) : Bool := bitAt 1 c.flags
/-- NO_LIVERY. -/
def Cmd.lNoLivery (c : Cmd) : Bool := bitAt 2 c.flags
/-- SAMPLE. -/
def Cmd.lSample (c : Cmd) : Bool := bitAt 3 c.flags
/-- SLOT of LIVERY_LOAD and LIVERY_DROP. -/
def Cmd.vSlot (c : Cmd) : Nat := c.fld 1 0 8
/-- LIVERY of LIVERY_LOAD and LIVERY_DROP. -/
def Cmd.vLivery (c : Cmd) : Nat := c.fld 1 16 16

/-- Reserved bits of a LEDGER descriptor by opcode. -/
def ledgerReserved (x : Cmd) : Bool :=
  let rest (i : Nat) : Bool := (natsFrom i (8 - i)).any fun k => x.w k != 0
  decide (x.flags / 16 ≠ 0) || x.core != 0 ||
  (if x.op = 1 then x.fld 3 51 5 != 0 || x.fld 6 40 24 != 0
   else if x.op = 2 ∨ x.op = 4 then x.fld 1 32 32 != 0 || rest 2
   else if x.op = 3 then x.fld 1 32 32 != 0 || rest 3
   else x.fld 1 8 8 != 0 || x.fld 1 32 32 != 0 || rest (if x.op = 5 then 3 else 2))

/-- A field exceeds its width used (R204). -/
def ledgerRange (x : Cmd) : Bool :=
  if x.op = 1 then
    decide (2 ^ 16 ≤ x.lTenant) || decide (8 ≤ x.lModel) || decide (8 ≤ x.lFallback) || decide (2 ^ 22 ≤ x.lPrompt) ||
      decide (2 ^ 22 ≤ x.lMax)
  else if x.op = 5 ∨ x.op = 6 then decide (8 ≤ x.vSlot)
  else false

/-! ## Slots and liveries -/

/-- A model slot in service for a lodge. -/
def State.slotFor (s : State) (k l : Nat) : Bool := s.on Reg.ldgModelCfgValid k && s.rd Reg.ldgModelCfgLodge k == l

/-- Key of a livery of a slot. -/
def liveryKey (k v : Nat) : Nat := k * 65536 + v

/-- A livery is loaded in a slot. -/
def State.liveryIn (s : State) (k v : Nat) : Bool := s.ldg.liveries.contains (liveryKey k v)

/-- The livery requirement of check 9 (R208) and of a member (R218). -/
def State.liveryOk (s : State) (k fb v : Nat) (none_ : Bool) : Bool :=
  none_ || (s.liveryIn k v && (s.rd Reg.ldgModelCfgNsteer fb == 0 || s.liveryIn fb v))

/-- Member indices of an ADMIT's group. -/
def groupOf (first log2 : Nat) : List Nat := if log2 = 0 then [] else natsFrom first (2 ^ log2)

/-! ## The checks of ADMIT (R208) -/

/-- A temperature that check 11 refuses: negative, infinite or NaN; −0 is negative. -/
def badTemp (t : Nat) : Bool := bitAt 31 t || bits 23 8 t == 255

/-- STEP_RING names an enabled step ring of the lodge (R328). -/
def State.stepRingOk (s : State) (l r : Nat) : Bool :=
  s.on Reg.hifRingCfgEnable r && s.rd Reg.hifRingCfgType r == 2 && s.rd Reg.hifRingCfgLodge r == l

/-- Check 11, the fields of R207. -/
def admitOperand (x : Cmd) : Bool :=
  x.lPrompt == 0 || decide (x.lMax ≤ x.lPrompt) || decide (2097152 < x.lMax) || x.lBudget == 0 || x.w 1 % 64 != 0 ||
  decide (x.lMax - x.lPrompt < x.lExpect) || decide (64 < x.lTopK) || (x.lSample && badTemp x.lTemp)

/-- Check 10. -/
def State.badGroup (s : State) (x : Cmd) : Bool :=
  (x.lPrio == 7) == (x.lLog2 == 0) ||
  (x.lPrio == 7 && (x.lFirst % 2 ^ x.lLog2 != 0 || decide (64 < x.lFirst + 2 ^ x.lLog2) ||
    !(groupOf x.lFirst x.lLog2).contains (member s.self)))

/-- Checks 1 to 13: the status of the first that fails. -/
def State.admitVerdict (s : State) (x : Cmd) : Nat :=
  if x.version ≠ 1 then St.badVersion
  else if ledgerReserved x then St.badReserved
  else if ledgerRange x then St.outOfRange
  else if s.stage < 4 ∨ !s.on Reg.ldgCtrlEnable ∨ s.on Reg.hltStatusDeviceFault then St.notReady
  else if s.rd Reg.lodPersonaPersona ≠ 2 then St.badPersona
  else if !s.slotFor x.lModel x.lodge || !s.slotFor x.lFallback x.lodge || x.lModel == x.lFallback then St.badModel
  else if s.tenantLodge x.lTenant ≠ some x.lodge then St.badTenant
  else if !s.liveryOk x.lModel x.lFallback x.lLivery x.lNoLivery then St.badLivery
  else if s.badGroup x then St.badGroup
  else if admitOperand x || !s.stepRingOk x.lodge x.lRing then St.badOperand
  else if x.lPrefix && (s.mine x.lodge (x.fld 5 32 32)).isNone then St.staleHandle
  else if s.nextFree = none then St.ledgerFull
  else St.ok

/-- The request an ADMIT makes (R207). -/
def State.reqOf (s : State) (x : Cmd) : Req :=
  { prio := x.lPrio, noLivery := x.lNoLivery, sample := x.lSample, lodge := x.lodge, model := x.lModel, fbModel := x.lFallback,
    groupFirst := x.lFirst, stepRing := x.lRing, tenant := x.lTenant, client := x.fld 4 24 16, livery := x.lLivery,
    seed := x.fld 7 32 32, promptLen := x.lPrompt, maxLen := x.lMax, expectLen := x.lExpect,
    deadline := if x.lBudget = 2 ^ 32 - 1 then 2 ^ 64 - 1 else (s.now + 1000 * x.lBudget) % 2 ^ 64, admitTime := s.now % 2 ^ 64,
    promptAddr := x.w 1, stop := x.fld 6 0 32, temp := x.lTemp, topK := x.lTopK, tag := x.tag }

/-- A new entry in ADMITTED. -/
def State.newEntry (s : State) (i : Nat) (x : Cmd) : Entry :=
  { req := s.reqOf x, st := 1, path := 0, fallback := false, cancel := false, groupLog2 := x.lLog2, group := groupOf x.lFirst x.lLog2,
    gen := s.genOf i, reason := 0, genLen := 0, kvList := (0, 0), draftList := (0, 0), steps := 0, emitted := 0, displaced := 0, shared := 0,
    predicted := 0, since := s.now, drafts := [], emptyAttn := false, lastToken := 0, pages := ([], []),
    waitGroup := [], agreed := [], failed := none, cand := [], pageOps := [], runs := [], waitStep := [], waitMap := [], red := Reduce.idle,
    offered := none, busy := [], prompt := none, layers := [], doneLayers := none, lastOut := false, admitCmd := some x }

/-! ## Messages of the ledger -/

/-- Send a ledger message on a lodge's account. -/
def State.lsend (s : State) (l dst kind tenant : Nat) (w : List Nat) : State :=
  s.sendReq 8 l dst (mkMsg kind s.self tenant w [])

/-- GROUP_STEP with END to members (R218). -/
def State.endGroup (s : State) (i : Nat) (e : Entry) (ms : List Nat) : State :=
  ms.foldl (fun s m => s.lsend e.req.lodge (s.memberDev m) 0x2A e.req.tenant
    [handleOf i e + s.rd Reg.ldgStepCntValue e.req.model * 2 ^ 32, 2 ^ 37]) s

/-! ## Pages of an entry (R209) -/

/-- Pages that hold the first `n` positions. -/
def pagesFor (n : Nat) : Nat := ceilDiv n 64
/-- Pages an ADMIT takes for each list. -/
def Entry.first (e : Entry) : Nat := pagesFor (e.req.promptLen + 9)
/-- Entries that a list has room for. -/
def Entry.listCap (e : Entry) : Nat := listBlocks e.req.maxLen * 512

/-- The home of main-list entry `j` (R153, R209): a short prompt's pages lie here, an express request's too (log 142). -/
def State.kvHome (s : State) (e : Entry) (j : Nat) : Nat :=
  if e.path = 1 then s.rd Reg.ldgModelHomeHome e.req.model
  else if e.path = 0 ∨ e.group.length ≤ 1 then s.self
  else s.memberDev (e.group.getD (j / 64 % e.group.length) 0)

/-- The pool of the main list's pages at their home. -/
def State.kvPoolOf (s : State) (e : Entry) : Nat :=
  if e.path = 1 then s.rd Reg.ldgModelHomeHomePool e.req.model else s.rd Reg.ldgModelCfgKvPool e.req.model

/-- The pool of main-list pages at a home: HOME_POOL where the home is the slot's HOME, KV_POOL at members of a group. -/
def State.poolAt (s : State) (e : Entry) (home : Nat) : Nat :=
  if e.path = 1 ∨ (home ≠ s.self ∧ e.req.prio ≠ 7) then s.rd Reg.ldgModelHomeHomePool e.req.model
  else s.rd Reg.ldgModelCfgKvPool e.req.model

/-- Entries `a` to `a + n − 1` cut into runs of one home: home, first, count. -/
def State.homeRuns (s : State) (e : Entry) : Nat → Nat → Nat → List (Nat × Nat × Nat)
  | 0, _, _ => []
  | fuel + 1, a, n =>
    if n = 0 then []
    else if e.path ≤ 1 ∨ e.group.length ≤ 1 then [(s.kvHome e a, a, n)]
    else
      let k := min n (64 - a % 64)
      (s.kvHome e a, a, k) :: s.homeRuns e fuel (a + k) (n - k)

/-- PARENT of list entry `a` (R139): none for entry 0, else its predecessor's page. -/
def parentOf (t : Tbl Nat) (a : Nat) : Nat :=
  if a = 0 then noParent else match Tbl.find (a - 1) t with | some w => wordPage w | none => noParent

/-- Put allocated pages into one of an entry's lists, in the ledger and in lodge memory. -/
def State.addPages (s : State) (i : Nat) (draft : Bool) (a : Nat) (ws : List Nat) : State :=
  match s.entry i with
  | none => s
  | some e =>
    let put (t : Tbl Nat) : Tbl Nat := ((natsFrom a ws.length).zip ws).foldl (fun t x => Tbl.put x.1 x.2 t) t
    let s := s.setEntry i { e with pages := if draft then (e.pages.1, put e.pages.2) else (put e.pages.1, e.pages.2) }
    s.writeList e.req.lodge (if draft then e.draftList.2 else e.kvList.2) a (ws.take (e.listCap - a))

/-- Allocate `n` entries from `a` on of a list from this device's pool: whether it could. -/
def State.allocHere (s : State) (i : Nat) (draft : Bool) (a n : Nat) : State × Bool :=
  match s.entry i with
  | none => (s, false)
  | some e =>
    let par := parentOf (if draft then e.pages.2 else e.pages.1) a
    let pool := s.rd Reg.ldgModelCfgKvPool (if draft then e.req.fbModel else e.req.model)
    let pool := if draft then pool else s.kvPoolOf e
    match s.allocPages e.req.lodge pool n s.self (handleOf i e) e.req.livery a (if draft then 1 else 0) par with
    | (s, some ps) => (s.addPages i draft a (ps.map (listWord s.self)), true)
    | (s, none) => (s, false)

/-- PAGE_OP to another home (R211). -/
def State.pageOpTo (s : State) (i : Nat) (home first count op : Nat) : State :=
  match s.entry i with
  | none => s
  | some e =>
    let s := s.lsend e.req.lodge home 0x24 e.req.tenant
      [handleOf i e, first + count * 2 ^ 32, e.kvList.2, s.poolAt e home + op * 2 ^ 8, ownerWord s.self (handleOf i e)]
    s.setEntry i { e with pageOps := e.pageOps ++ [(home, first, count, op)] }

/-- Allocate main-list entries at their homes, one run after another, since a page's PARENT is the page before it (R139): here at once,
elsewhere by PAGE_OP, whose answer lets the rest go on. -/
def State.allocRuns (s : State) (i : Nat) : List (Nat × Nat × Nat) → State × Bool
  | [] => (s, true)
  | (h, a, n) :: r =>
    if h = s.self then
      match s.allocHere i false a n with
      | (s, true) => s.allocRuns i r
      | (s, false) => (s, false)
    else ((s.pageOpTo i h a n 0).modEntry i fun e => { e with runs := r }, true)

/-- The rest of the allocations of an entry, after an answer; whether all has gone well. -/
def State.allocRest (s : State) (i : Nat) : State × Bool :=
  match s.entry i with
  | none => (s, false)
  | some e => (s.modEntry i fun e => { e with runs := [] }).allocRuns i e.runs

/-- Entries of a list table that lie at other homes, as runs: home, first, count. -/
def farRuns (self : Nat) : Tbl Nat → List (Nat × Nat × Nat)
  | [] => []
  | (k, w) :: r =>
    let rest := farRuns self r
    if wordHome w = self then rest
    else match rest with
      | (h, a, n) :: t => if h = wordHome w ∧ a = k + 1 then (h, k, n + 1) :: t else (wordHome w, k, 1) :: rest
      | [] => [(wordHome w, k, 1)]

/-- Release the pages of one list that lie here. -/
def State.releaseHere (s : State) (i : Nat) (e : Entry) (pool : Nat) (t : Tbl Nat) : State :=
  (t.filter fun x => wordHome x.2 == s.self).foldl (fun s x => s.releasePage e.req.lodge pool (wordPage x.2) s.self (handleOf i e)) s

/-- Release the main list: pages here at once, others by PAGE_OP RELEASE to every reachable home; `wait` keeps their answers
awaited (R209, R224, R444). -/
def State.releaseMain (s : State) (i : Nat) (wait : Bool) : State :=
  match s.entry i with
  | none => s
  | some e =>
    let s := s.releaseHere i e (s.kvPoolOf e) e.pages.1
    let s := s.setEntry i { e with pages := ([], e.pages.2) }
    (((farRuns s.self e.pages.1).filter fun r => s.reaches e.req.lodge r.1).foldl (fun s r => s.pageOpTo i r.1 r.2.1 r.2.2 1) s).modEntry i
      fun x => if wait then x else { x with pageOps := e.pageOps }

/-- Release every page of an entry. -/
def State.releaseAll (s : State) (i : Nat) (wait : Bool) : State :=
  match s.entry i with
  | none => s
  | some e =>
    let s := s.releaseHere i e (s.rd Reg.ldgModelCfgKvPool e.req.fbModel) e.pages.2
    (s.modEntry i fun x => { x with pages := (x.pages.1, []) }).releaseMain i wait

/-! ## The end of an entry (R205, R219, R221, R222, R293) -/

/-- DONE: lateness is counted; the entry is FREE once its LAST unit is written. -/
def State.toDone (s : State) (i : Nat) : State :=
  let s := s.toSt i 8
  match s.entry i with
  | none => s
  | some e =>
    let s := if e.req.deadline < s.now then s.clientEvent e.req.lodge e.req.client fun k => { k with late := (k.late + 1) % 2 ^ 64 } else s
    if e.lastOut then s.freeEntry i true else s

/-- The LAST unit of an entry has been written. -/
def State.lastWritten (s : State) (i : Nat) : State :=
  match s.entry i with
  | none => s
  | some e => if e.st = 8 then s.freeEntry i true else s.setEntry i { e with lastOut := true }

/-- A record of another slot's earlier boundary waits for the same ring (R221). -/
def State.earlierRec (s : State) (r : StepRec) : Bool := s.ldg.slots.any fun e => e.2.recs.any fun q => q.ring == r.ring && decide (q.order < r.order)

/-- Write the records of a slot that its rings have room for, in the order of boundaries; a wait is counted (R221). -/
def State.flushRecs (s : State) (k : Nat) : Nat → State
  | 0 => s
  | fuel + 1 =>
    let x := s.slotOf k
    match x.recs with
    | [] => s
    | r :: rest =>
      if !s.cqLive r.ring then ((s.setSlot k { x with recs := rest }).bump Reg.hifCplDropCount).devCause 3 |>.flushRecs k fuel
      else if s.hasRoom r.ring r.units.length && !s.earlierRec r then
        let s := (s.setSlot k { x with recs := rest, stalled := false }).writeStepRec r
        (r.lasts.foldl (fun s i => s.lastWritten i) s).flushRecs k fuel
      else if x.stalled then s
      else ((s.setSlot k { x with stalled := true }).bump Reg.ldgRingStallCount).setBit Reg.ldgErrBits 2

/-- The step rings of listed entries, ascending. -/
def State.ringsOf (s : State) (ls : List Listing) : List Nat :=
  sortDedup (ls.filterMap fun x => (s.entry x.slot).map (·.req.stepRing))

/-- Queue the records of one STEP: one set per ring, cut at BATCH_MAX units. -/
def State.queueRecs (s : State) (k step ns batch rows : Nat) (array : Bool) (ls : List Listing) : State :=
  let recs := (s.ringsOf ls).flatMap fun r =>
    let mine := ls.filter fun x => (s.entry x.slot).map (·.req.stepRing) == some r
    cutRecords r s.ldg.orders (s.rd Reg.ldgModelBatchBatchMax k) (fun n more => headerUnit k n step s.now ns batch rows array more) mine.length
      (mine.map fun x => (s.unit x, if x.last then some x.slot else none))
  ({ s with ldg := { s.ldg with orders := s.ldg.orders + 1 } } : State).modSlot k fun x => { x with recs := x.recs ++ recs }

/-- The entry may still be listed: one in FAULTED or ORPHANED receives no unit (R206). -/
def State.listable (s : State) (i : Nat) : Bool := match s.entry i with | some e => decide (e.st ≤ 8) | none => false

/-- The unit of an entry that ended outside a step; with its FIRST_TOKEN when that is not yet listed (R219). -/
def State.endedUnit (s : State) (firsts : List Nat) (i : Nat) : Listing :=
  ⟨i, match s.entry i with | some e => if firsts.contains i then [(e.lastToken, false)] else [] | none => [], 0, true, false⟩

/-- With no batch in the slot, entries that ended are listed at once (R222). -/
def State.flushEnded (s : State) (k : Nat) : State :=
  let x := s.slotOf k
  if x.running || x.ended == [] then s
  else
    let ls := (x.ended.filter s.listable).map (s.endedUnit x.firsts)
    let s := s.setSlot k { x with firsts := x.firsts.filter (fun i => !x.ended.contains i), ended := [] }
    let s := s.queueRecs k (s.rd Reg.ldgStepCntValue k) 0 0 0 false ls
    s.flushRecs k (s.slotOf k).recs.length

/-- An entry ends outside a step: its pages go, DONE, and its unit is due (R205, R222). -/
def State.endOutside (s : State) (i reason : Nat) : State :=
  match s.entry i with
  | none => s
  | some e =>
    let s := s.endGroup i e e.agreed
    let s := (s.setEntry i { e with reason := reason, cancel := false, agreed := [] }).releaseAll i false
    let s := (s.toDone i).modSlot e.req.model fun x => { x with ended := x.ended ++ [i] }
    s.flushEnded e.req.model

/-! ## Admission after the checks -/

/-- The record of an ADMIT whose entry exists: the reservation is used. -/
def State.admitRecord (s : State) (i : Nat) (status : Nat) : State :=
  match s.entry i with
  | none => s
  | some e =>
    match e.admitCmd with
    | none => s
    | some x =>
      let s := s.setEntry i { e with admitCmd := none }
      (s.unreserve (s.cqOf x.ring)).finish x 0xFF status 0 (if status = St.ok then handleOf i e else 0)

/-- ADMITTED fails: what was taken goes back, the entry is FREE with the same GEN (R201, R205). -/
def State.admitFail (s : State) (i status : Nat) : State :=
  match s.entry i with
  | none => s
  | some e =>
    let s := ((s.endGroup i e e.agreed).releaseAll i false).admitRecord i status
    (s.freeEntry i false).bump Reg.ldgRejectCntCount

/-- The Prompt pool of a slot in the order of R211: fewest queued tokens, ties to the lower member index. -/
def State.promptOrder (s : State) (k : Nat) : List Nat :=
  let ms := (bitList 64 (s.rd Reg.ldgPromptMask k)).filter fun m => s.assigned && m != member s.self && s.reachable (s.memberDev m)
  let q (m : Nat) : Nat := Tbl.get 0 m s.ldg.queuedTokens
  ms.foldl (fun acc m => (acc.filter fun x => q x ≤ q m) ++ [m] ++ acc.filter fun x => q m < q x) []

/-- Offer a prefill to the next member that has not answered BUSY. -/
def State.offer (s : State) (i : Nat) : State :=
  match s.entry i with
  | none => s
  | some e =>
    if e.st ≠ 2 ∨ e.path = 0 ∨ e.offered.isSome then s
    else
      match (s.promptOrder e.req.model).find? fun m => !e.busy.contains m with
      | none => s
      | some m =>
        let s := s.setEntry i { e with offered := some m }
        s.lsend e.req.lodge (s.memberDev m) 0x20 e.req.tenant
          [handleOf i e + e.req.promptLen * 2 ^ 32,
           64 * e.shared + e.path * 2 ^ 32 + e.req.livery * 2 ^ 40 + (if e.req.noLivery then 2 ^ 56 else 0),
           s.rd Reg.ldgKeyKey e.req.model, s.rd Reg.ldgKeyKey e.req.fbModel, e.req.promptAddr, e.kvList.2, e.draftList.2]

/-- The ADMIT succeeds: QUEUED_PREFILL, and a long prefill is offered. -/
def State.admitOk (s : State) (i : Nat) : State :=
  match s.entry i with
  | none => s
  | some e =>
    let s := (s.admitRecord i St.ok).count Reg.ldgAdmitCntCount
    let s := s.clientEvent e.req.lodge e.req.client fun k => { k with admits := (k.admits + 1) % 2 ^ 64 }
    (s.toSt i 2).offer i

/-- Every PAGE_OP of an ADMIT is answered: it succeeds or fails. -/
def State.admitPages (s : State) (i : Nat) : State :=
  match s.entry i with
  | none => s
  | some e => if e.pageOps ≠ [] then s else if e.failed.isSome then s.admitFail i St.noPages else s.admitOk i

/-- PATH as R209 chooses it. -/
def State.pathOf (s : State) (e : Entry) : Nat :=
  let home := s.rd Reg.ldgModelHomeHome e.req.model
  if e.req.promptLen ≤ 32 then 0 else if e.req.prio = 7 ∨ home = 0xFFFFFF ∨ spanOf home ≠ spanOf s.self then 2 else 1

/-- The matched pages of a prefix enter the list and gain a sharer (R156, R210): pages here at once, others, which all lie at one home, by
SHARE_ADD. -/
def State.takeShared (s : State) (i : Nat) (e : Entry) (ws : List Nat) : State :=
  let s := s.addPages i false 0 ws
  let s := (ws.filter fun w => wordHome w == s.self).foldl (fun (s : State) w => s.sharePage e.req.lodge (s.kvPoolOf e) (wordPage w)) s
  match ws.filter fun w => wordHome w != s.self with
  | [] => s
  | w :: _ => s.pageOpTo i (wordHome w) 0 ws.length 2

/-- List space and pages (R209, check 15); nothing is shared until the pages of the draft list are there. -/
def State.admitAlloc (s : State) (i : Nat) : State :=
  match s.entry i with
  | none => s
  | some e =>
    let fail (s : State) : State := (s.setEntry i { (s.entry i).getD e with failed := some (0, St.noPages) }).admitPages i
    match s.listSpace e.req.lodge e.req.maxLen [] with
    | none => fail (s.setBit Reg.ldgErrBits 1)
    | some a =>
      let b0 := a / 4096 - s.rd Reg.ldgListAddr e.req.lodge
      match s.listSpace e.req.lodge e.req.maxLen [(b0, listBlocks e.req.maxLen)] with
      | none => fail (s.setBit Reg.ldgErrBits 1)
      | some b =>
        let ws := e.cand.take e.shared
        let s := s.setEntry i { e with kvList := (s.self, a), draftList := (s.self, b), cand := [] }
        let (s, ok) := s.allocHere i true 0 e.first
        if !ok then fail s
        else
          let s := s.takeShared i e ws
          let (s, ok) := s.allocRuns i (if e.path = 1 then [] else s.homeRuns e (e.first + 1) e.shared (e.first - e.shared))
          if ok then s.admitPages i else fail s

/-- Prefix sharing (R210): the ledger runs PREFIX_MATCH over the candidate's list and takes the leading pages that match; a status that ends the
compare ends the match there (DESIGN CHOICE, log 88); then allocation. -/
def State.admitShare (s : State) (i : Nat) : State :=
  match s.entry i with
  | none => s
  | some e =>
    match (s.pool e.req.lodge (s.kvPoolOf e)).1 with
    | none => s.admitAlloc i
    | some p =>
      let tok (k : Nat) : List Byte := s.peek e.req.lodge (e.req.promptAddr + 256 * k) (min 256 (4 * e.req.promptLen - 256 * k))
      let cands := e.cand.map fun w => (wordHome w, wordPage w)
      let n := (matchCount (s.candAt e.req.lodge p e.req.livery tok) 0 noParent cands).1
      let s := if cands.all fun c => c.1 == s.self then s else s.useFree (2 * cands.length)
      (s.setEntry i { e with shared := min n ((e.req.promptLen - 1) / 64) }).admitAlloc i

/-- The candidate of PREFIX, when it meets R210: its leading entries at the home that the new request would use. -/
def State.candidate (s : State) (e : Entry) (x : Cmd) : List Nat :=
  if !x.lPrefix || decide (1 < e.group.length) then []
  else
    match s.mine x.lodge (x.fld 5 32 32) with
    | none => []
    | some (_, c) =>
      if c.req.model = e.req.model ∧ 5 ≤ c.st ∧ c.st ≤ 7 then (c.pages.1.map (·.2)).takeWhile fun w => wordHome w == s.kvHome e 0 else []

/-- An entry with its path (R209) and the candidate of its PREFIX (R210). -/
def State.pathed (s : State) (e : Entry) : Entry :=
  let e := { e with path := s.pathOf e }
  { e with cand := match e.admitCmd with | some x => (s.candidate e x).take ((e.req.promptLen - 1) / 64) | none => [] }

/-- Every group member agrees: choose the path, look for a prefix, allocate. -/
def State.admitPath (s : State) (i : Nat) : State :=
  match s.entry i with
  | none => s
  | some e =>
    let f := s.pathed e
    let s := s.setEntry i f
    if f.cand = [] then s.admitAlloc i else s.admitShare i

/-- Check 14 ends: every group member has answered. -/
def State.groupDone (s : State) (i : Nat) : State :=
  match s.entry i with
  | none => s
  | some e =>
    if e.st ≠ 1 ∨ e.waitGroup ≠ [] then s
    else match e.failed with
      | some (_, st) => s.admitFail i st
      | none => s.admitPath i

/-- An ADMIT passes checks 1 to 13: an entry in ADMITTED, its record's room reserved, GROUP_CHECK to the other members (R218). -/
def State.admitStart (s : State) (i : Nat) (x : Cmd) : State :=
  let s := (s.takeSlot i).reserve (s.cqOf x.ring)
  let e := s.newEntry i x
  let others := e.group.filter (· != member s.self)
  let s := s.setEntry i { e with waitGroup := others }
  let mask := (e.group.map (2 ^ ·)).foldl (· + ·) 0
  let s := others.foldl (fun s m =>
    s.lsend e.req.lodge (s.memberDev m) 0x28 e.req.tenant
      [handleOf i e + e.groupLog2 * 2 ^ 32 + (m - e.req.groupFirst) * 2 ^ 35,
       e.req.model + e.req.fbModel * 2 ^ 8 + (if e.req.noLivery then 2 ^ 16 else 0) + e.req.livery * 2 ^ 32,
       s.rd Reg.ldgKeyKey e.req.model, s.rd Reg.ldgKeyKey e.req.fbModel, e.req.promptLen + e.req.maxLen * 2 ^ 32, mask]) s
  s.groupDone i

/-! ## Running LEDGER descriptors -/

/-- The LEDGER descriptor that is next, when it has the opcode. -/
def State.nextLedger (s : State) (op : Nat) : Option Cmd := s.hif.ledgerQ.head?.bind fun x => if x.op = op then some x else none

/-- One occurrence of a LEDGER row: the next descriptor, once its record has room, leaves the queue and runs. -/
def State.runLedger (s : State) (op : Nat) (k : State → Cmd → State) : State :=
  match s.nextLedger op with
  | none => s
  | some x =>
    s.withRoom x (fun s => { s with hif := { s.hif with ledgerQ := markQueued x s.hif.ledgerQ } }) fun s =>
      k { s with hif := { s.hif with ledgerQ := s.hif.ledgerQ.drop 1 } } { x with done := false }

/-- A LEDGER descriptor completes. -/
def State.ledgerDone (s : State) (x : Cmd) (status result : Nat) : State := s.finish x 0xFF status 0 result

/-- ADMIT. -/
def State.ledgerAdmit (s : State) (x : Cmd) : State :=
  let v := s.admitVerdict x
  match s.nextFree with
  | some i => if v = St.ok then s.admitStart i x else (s.ledgerDone x v 0).bump Reg.ldgRejectCntCount
  | none => (s.ledgerDone x v 0).bump Reg.ldgRejectCntCount

/-- The checks of R88 that every other LEDGER descriptor meets. -/
def ledgerVerdict (x : Cmd) : Nat :=
  if x.version ≠ 1 then St.badVersion else if ledgerReserved x then St.badReserved else if ledgerRange x then St.outOfRange else St.ok

/-- The effect of a cancel (R42, R222): the state, and whether the request was already ending or ended. -/
def State.cancel (s : State) (i : Nat) (e : Entry) : State × Bool :=
  if 7 ≤ e.st ∨ e.cancel then (s, true)
  else if e.st = 2 ∨ e.st = 5 then (s.endOutside i 3, false)
  else
    let s := s.setEntry i { e with cancel := true }
    match e.prompt with
    | some m => if e.st = 3 then (s.lsend e.req.lodge (s.memberDev m) 0x23 e.req.tenant [handleOf i e], false) else (s, false)
    | none => (s, false)

/-- LEDGER_CANCEL. -/
def State.ledgerCancel (s : State) (x : Cmd) : State :=
  let v := ledgerVerdict x
  if v ≠ St.ok then s.ledgerDone x v 0
  else match s.mine x.lodge x.lHandle with
    | some (i, e) =>
      if e.st = 1 then s.ledgerDone x St.staleHandle 0
      else
        let (s, late) := s.cancel i e
        s.ledgerDone x St.ok (if late then 1 else 0)
    | none => s.ledgerDone x St.staleHandle 0

/-- Words 0 to 15 of an entry (R204). -/
def entryWords (i : Nat) (e : Entry) : List Nat :=
  let b (x : Bool) (k : Nat) : Nat := if x then 2 ^ k else 0
  [e.st + e.req.prio * 2 ^ 4 + e.path * 2 ^ 8 + b e.fallback 10 + b e.cancel 11 + b e.req.noLivery 12 + b e.req.sample 13 +
     e.req.lodge * 2 ^ 16 + e.req.model * 2 ^ 24 + e.req.fbModel * 2 ^ 32 + e.groupLog2 * 2 ^ 40 + e.req.groupFirst * 2 ^ 48 +
     e.req.stepRing * 2 ^ 56,
   handleOf i e + e.req.tenant * 2 ^ 32 + e.reason * 2 ^ 56,
   e.req.client + e.req.livery * 2 ^ 16 + e.req.seed * 2 ^ 32,
   e.req.promptLen + e.genLen % 2 ^ 32 * 2 ^ 32,
   e.req.maxLen + e.req.expectLen * 2 ^ 32, e.req.deadline, e.req.admitTime,
   e.kvList.2, e.kvList.1, e.draftList.2, e.draftList.1, e.req.promptAddr,
   e.req.stop + e.req.temp * 2 ^ 32,
   e.req.topK + e.req.tag * 2 ^ 16 + e.steps * 2 ^ 32,
   e.emitted + e.displaced * 2 ^ 32 + e.shared % 2 ^ 16 * 2 ^ 48, e.predicted]

/-- LEDGER_QUERY. -/
def State.ledgerQuery (s : State) (x : Cmd) : State :=
  let v := ledgerVerdict x
  if v ≠ St.ok then s.ledgerDone x v 0
  else if x.w 2 % 64 ≠ 0 then s.ledgerDone x St.badOperand 0
  else match s.mine x.lodge x.lHandle with
    | none => s.ledgerDone x St.staleHandle 0
    | some (i, e) =>
        let st := s.accessStatus x.lodge (x.w 2) 256
        if st ≠ St.ok then (s.ledgerDone x st 0).faultLodge x.lodge st 3 0xFF x.ring x.tag
        else (s.pokeHome x.lodge (x.w 2) ((entryWords i e).flatMap (leBytes 8) ++ List.replicate 128 0)).ledgerDone x St.ok e.st

/-- LEDGER_RELEASE (R206, R281): an ORPHANED entry waits until the teardown of its lodge is complete. -/
def State.ledgerRelease (s : State) (x : Cmd) : State :=
  let v := ledgerVerdict x
  if v ≠ St.ok then s.ledgerDone x v 0
  else match s.mine x.lodge x.lHandle with
    | none => s.ledgerDone x St.staleHandle 0
    | some (i, e) =>
      if e.st ≠ 9 ∧ e.st ≠ 10 then s.ledgerDone x St.badOperand 0
      else if e.st = 10 ∧ (s.lodge x.lodge = 3 ∨ s.lodge x.lodge = 4) then s.ledgerDone x St.busy 0
      else
        let s := (s.endGroup i e e.agreed).releaseAll i false
        let s := s.modSlot e.req.model fun k =>
          { k with batch := k.batch.filter (· != i), pass := k.pass.filter (· != i), firsts := k.firsts.filter (· != i),
                   ended := k.ended.filter (· != i) }
        (s.freeEntry i true).ledgerDone x St.ok 0

/-! ## Liveries (R228) -/

/-- An entry that is not FREE names livery `v` in slot `k`, or in a fallback slot that uses `k`. -/
def State.liveryUsed (s : State) (k v : Nat) : Bool :=
  s.ldg.entries.any fun e => !e.2.req.noLivery && e.2.req.livery == v && (e.2.req.model == k || e.2.req.fbModel == k)

/-- What a livery descriptor is refused with. -/
def State.liveryVerdict (s : State) (x : Cmd) : Nat :=
  let v := ledgerVerdict x
  if v ≠ St.ok then v
  else if x.op = 5 ∧ x.w 2 % 64 ≠ 0 then St.badOperand
  else if !s.slotFor x.vSlot x.lodge || s.rd Reg.ldgModelCfgNsteer x.vSlot == 0 then St.badModel
  else if s.rd Reg.ldgLiveryCapCap x.vSlot ≤ x.vLivery then St.liveryFull
  else if s.liveryUsed x.vSlot x.vLivery then St.liveryBusy
  else St.ok

/-- LIVERY_LOAD. -/
def State.liveryLoad (s : State) (x : Cmd) : State :=
  let v := s.liveryVerdict x
  if v ≠ St.ok then s.ledgerDone x v 0
  else
    let n := 64 * s.rd Reg.ldgModelCfgNsteer x.vSlot
    let dst := s.rd Reg.ldgLiveryAddr x.vSlot * 8192 + 8192 * x.vLivery
    let st := firstBad [s.readStatus x.lodge (x.w 2) n, s.accessStatus x.lodge dst n]
    if st ≠ St.ok then ((s.raiseUncorr x.lodge st [(x.w 2, n)]).ledgerDone x st 0).faultLodge x.lodge st 3 0xFF x.ring x.tag
    else
      let s := (s.pokeHome x.lodge dst (s.peek x.lodge (x.w 2) n)).touch x.lodge (x.w 2) n false
      ({ s with ldg := { s.ldg with liveries := sortDedup (liveryKey x.vSlot x.vLivery :: s.ldg.liveries) } } : State).ledgerDone x St.ok 0

/-- LIVERY_DROP. -/
def State.liveryDrop (s : State) (x : Cmd) : State :=
  let v := s.liveryVerdict x
  if v ≠ St.ok then s.ledgerDone x v 0
  else ({ s with ldg := { s.ldg with liveries := s.ldg.liveries.filter (· != liveryKey x.vSlot x.vLivery) } } : State).ledgerDone x St.ok 0

/-! ## The express group (R217, R218) -/

/-- A model slot of a lodge that holds a key. -/
def State.keySlot (s : State) (l key : Nat) : Option Nat := (natsFrom 0 8).find? fun k => s.slotFor k l && s.rd Reg.ldgKeyKey k == key

/-- What a member answers to GROUP_CHECK. -/
def State.groupVerdict (s : State) (m : Msg) : Nat :=
  let k := m.fld 2 0 3
  let fb := m.fld 2 8 3
  match s.tenantLodge m.tenant with
  | none => St.modelMismatch
  | some l =>
    if !s.slotFor k l || !s.slotFor fb l || s.rd Reg.ldgKeyKey k != m.fld 3 0 48 || s.rd Reg.ldgKeyKey fb != m.fld 4 0 48 then
      St.modelMismatch
    else if !s.liveryOk k fb (m.fld 2 32 16) (bitAt 16 (m.word 2)) then St.badLivery
    else if s.rd Reg.lodPersonaPersona ≠ 2 then St.badPersona
    else if 4096 ≤ s.ldg.members.length then St.ledgerFull
    else St.ok

/-- Key of another device's request. -/
def farKey (dev handle : Nat) : Nat := dev * 2 ^ 32 + handle

/-- GROUP_CHECK. -/
def State.groupCheckIn (s : State) (m : Msg) : State :=
  let h := m.fld 1 0 32
  let v := s.groupVerdict m
  let r : Member :=
    { tenant := m.tenant, slot := m.fld 2 0 3, fb := m.fld 2 8 3, index := m.fld 1 35 6, log2 := m.fld 1 32 3, members := m.word 6,
      livery := if bitAt 16 (m.word 2) then 65536 else m.fld 2 32 16, lens := (m.fld 5 0 32, m.fld 5 32 32), step := 0, pos := 0, tokens := [],
      fallback := false, stepping := false, joined := false, red := Reduce.idle }
  let s := if v = St.ok then { s with ldg := { s.ldg with members := Tbl.put (farKey m.src h) r s.ldg.members } } else s
  s.answer m 0x29 [h + v * 2 ^ 32] []

/-- GROUP_CHECK_RSP at the leader. -/
def State.groupRspIn (s : State) (m : Msg) : State :=
  match s.named (m.fld 1 0 32) with
  | none => s
  | some (i, e) =>
    let d := member m.src
    if !e.waitGroup.contains d || m.src != s.memberDev d then s
    else
      let st := m.fld 1 32 8
      let e := { e with waitGroup := e.waitGroup.filter (· != d) }
      let e := if st = St.ok then { e with agreed := e.agreed ++ [d] }
        else { e with failed := match e.failed with | some (f, x) => if f < d then some (f, x) else some (d, st) | none => some (d, st) }
      (s.setEntry i e).groupDone i

/-- GROUP_STEP at a member. -/
def State.groupStepIn (s : State) (m : Msg) : State :=
  let k := farKey m.src (m.fld 1 0 32)
  if bitAt 37 (m.word 2) then { s with ldg := { s.ldg with members := Tbl.del k s.ldg.members } }
  else
    let n := m.fld 2 32 4
    let tok (i : Nat) : Nat := m.fld (3 + i / 2) (32 * (i % 2)) 32
    let go (r : Member) : Member :=
      { r with step := m.fld 1 32 32, pos := m.fld 2 0 32, tokens := (natsFrom 0 n).map tok, fallback := bitAt 36 (m.word 2),
               stepping := true, joined := false }
    { s with ldg := { s.ldg with members := Tbl.adjust k go s.ldg.members } }

/-- The reductions of an entry's step go on: nodes are combined once all have come, the next own node is sent (R218). -/
def State.reduceEntry (s : State) (i : Nat) : Nat → State
  | 0 => s
  | n + 1 =>
    match s.entry i with
    | none => s
    | some e =>
      let r := e.red.settled (member s.self) e.group
      if r.todo = [] ∨ r.own.isSome then s.setEntry i { e with red := r }
      else
        let r := s.ownNode e.group r
        ((s.setEntry i { e with red := r }).sendNode e.req.lodge e.req.tenant (handleOf i e) e.group r).reduceEntry i n

/-- Members of the group of a member record, ascending. -/
def Member.group (r : Member) : List Nat := bitList 64 r.members

/-- Put a member record. -/
def State.setMember (s : State) (k : Nat) (r : Member) : State := { s with ldg := { s.ldg with members := Tbl.put k r s.ldg.members } }

/-- The same for a member's part. -/
def State.reduceMember (s : State) (k : Nat) : Nat → State
  | 0 => s
  | n + 1 =>
    match Tbl.find k s.ldg.members with
    | none => s
    | some x =>
      let r := x.red.settled (member s.self) x.group
      if r.todo = [] ∨ r.own.isSome then s.setMember k { x with red := r }
      else
        let r := s.ownNode x.group r
        ((s.setMember k { x with red := r }).sendNode ((s.tenantLodge x.tenant).getD 16) x.tenant (k % 2 ^ 32) x.group r).reduceMember k n

/-- A reduction with a node more. -/
def Reduce.add (r : Reduce) (x : Nat × Nat × Nat × List Byte) : Reduce := { r with nodes := r.nodes ++ [x] }

/-- A node of another member for an entry of this ledger; the leader notes its time (R441). -/
def State.nodeAtEntry (s : State) (i d : Nat) (e : Entry) (x : Nat × Nat × Nat × List Byte) : State :=
  let s := (s.setEntry i { e with red := e.red.add x }).modSlot e.req.model fun k => { k with nodeAt := Tbl.put d s.now k.nodeAt }
  s.reduceEntry i (e.red.todo.length + 1)

/-- GROUP_NODE: a node of another member, at the leader or at a member; a member keeps one that comes before its own step. -/
def State.groupNodeIn (s : State) (m : Msg) : State :=
  let h := m.fld 1 0 32
  let d := member m.src
  let x := (m.fld 1 32 32, m.fld 2 0 16, d, m.body.take (4 * m.fld 3 0 32))
  match (s.named h).filter fun e => e.2.st == 6 && e.2.group.contains d with
  | some (i, e) => s.nodeAtEntry i d e x
  | none =>
    match s.ldg.members.find? fun r => r.1 % 2 ^ 32 == h && bitAt d r.2.members with
    | some (k, r) => (s.setMember k { r with red := r.red.add x }).reduceMember k (r.red.todo.length + 1)
    | none => s

/-- The dead-target handling of R20 for an entry of the ledger. -/
def State.orphanEntry (s : State) (e : Entry) (dev : Nat) : State :=
  s.orphanLodge e.req.lodge St.spanTimeout 3 0xFF 0xFF e.req.tag e.req.tenant dev

/-- GROUP_STEP_ACK at the leader: a step that faulted at a member faults the lodge context (R43). -/
def State.groupAckIn (s : State) (m : Msg) : State :=
  match s.named (m.fld 1 0 32) with
  | none => s
  | some (i, e) =>
    if !e.waitStep.contains (member m.src) then s
    else
      let s := s.setEntry i { e with waitStep := e.waitStep.filter (· != member m.src) }
      let st := m.fld 2 0 8
      if st = St.ok then s else s.faultLodge e.req.lodge st 3 0xFF 0xFF e.req.tag

/-- GROUP_MAP at a member (R443): the new group; a device outside it gives its sequence back. -/
def State.groupMapIn (s : State) (m : Msg) : State :=
  let k := farKey m.src (m.fld 1 0 32)
  match Tbl.find k s.ldg.members with
  | none => s.answer m 0x27 [m.fld 1 0 32 + St.staleHandle * 2 ^ 32] []
  | some r =>
    let me := member s.self
    let r : Member := { r with log2 := m.fld 1 32 3, members := m.word 2, index := ((bitList 64 (m.word 2)).filter (· < me)).length }
    let s :=
      if bitAt me (m.word 2) then { s with ldg := { s.ldg with members := Tbl.put k r s.ldg.members } }
      else { s with ldg := { s.ldg with members := Tbl.del k s.ldg.members } }
    s.answer m 0x27 [m.fld 1 0 32] []

/-- GROUP_MAP_ACK at the leader. -/
def State.groupMapAckIn (s : State) (m : Msg) : State :=
  match s.named (m.fld 1 0 32) with
  | none => s
  | some (i, e) => s.setEntry i { e with waitMap := e.waitMap.filter (· != member m.src) }

/-- GROUP_CHECK_TIMEOUT: the ADMIT completes with SPAN_TIMEOUT and R20 applies (R208). -/
def State.groupCheckTimeout (s : State) (i : Nat) : State :=
  match s.entry i with
  | none => s
  | some e =>
    match e.waitGroup with
    | d :: _ => if e.st = 1 then (s.admitFail i St.spanTimeout).orphanEntry e (s.memberDev d) else s
    | [] => s

/-- Members whose node of the reduction that is under way is missing. -/
def Reduce.missing (r : Reduce) (me : Nat) (group : List Nat) : List Nat :=
  if r.todo = [] then [] else group.filter fun m => (r.nodeOf me m).isNone

/-- GROUP_TIMEOUT (R218) and GROUP_MAP_TIMEOUT (R443) at the leader. -/
def State.groupTimeout (s : State) (i : Nat) (wait : Entry → List Nat) : State :=
  match s.entry i with
  | none => s
  | some e =>
    match wait e with
    | d :: _ => if 8 ≤ e.st then s else s.orphanEntry e (s.memberDev d)
    | [] => s

/-- GROUP_TIMEOUT at a member whose step misses a node: the dead-target handling of R20 for its lodge. -/
def State.memberTimeout (s : State) (n : Nat) : State :=
  match s.ldg.members[n]? with
  | none => s
  | some (_, r) =>
    match (if r.joined then r.red.missing (member s.self) r.group else []), s.tenantLodge r.tenant with
    | d :: _, some l => s.orphanLodge l St.spanTimeout 3 0xFF 0xFF 0 r.tenant (s.memberDev d)
    | _, _ => s

/-- GROUP_TIMEOUT: for the entry named, or from 65,536 on for the member record of that place in their order. -/
def State.groupSilent (s : State) (n : Nat) : State :=
  if n < 65536 then s.groupTimeout n fun e => e.waitStep ++ e.red.missing (member s.self) e.group else s.memberTimeout (n - 65536)

/-! ## The commands -/

/-- ADMIT (R208). -/
def execAdmit (s : State) : Out := .next (s.runLedger 1 State.ledgerAdmit).choices
/-- LEDGER_CANCEL (R222). -/
def execLedgerCancel (s : State) : Out := .next (s.runLedger 2 State.ledgerCancel).choices
/-- LEDGER_QUERY (R229). -/
def execLedgerQuery (s : State) : Out := .next (s.runLedger 3 State.ledgerQuery).choices
/-- LEDGER_RELEASE (R206). -/
def execLedgerRelease (s : State) : Out := .next (s.runLedger 4 State.ledgerRelease).choices
/-- LIVERY_LOAD (R228). -/
def execLiveryLoad (s : State) : Out := .next (s.runLedger 5 State.liveryLoad).choices
/-- LIVERY_DROP (R228). -/
def execLiveryDrop (s : State) : Out := .next (s.runLedger 6 State.liveryDrop).choices
/-- GROUP_CHECK (R218). -/
def execGroupCheck (m : Msg) (s : State) : Out := .next (s.groupCheckIn m).choices
/-- GROUP_CHECK_RSP (R218). -/
def execGroupCheckRsp (m : Msg) (s : State) : Out := .next (s.groupRspIn m).choices
/-- GROUP_STEP (R218). -/
def execGroupStep (m : Msg) (s : State) : Out := .next (s.groupStepIn m).choices
/-- GROUP_NODE (R218). -/
def execGroupNode (m : Msg) (s : State) : Out := .next (s.groupNodeIn m).choices
/-- GROUP_STEP_ACK (R218). -/
def execGroupStepAck (m : Msg) (s : State) : Out := .next (s.groupAckIn m).choices
/-- GROUP_MAP (R443). -/
def execGroupMap (m : Msg) (s : State) : Out := .next (s.groupMapIn m).choices
/-- GROUP_MAP_ACK (R443). -/
def execGroupMapAck (m : Msg) (s : State) : Out := .next (s.groupMapAckIn m).choices
/-- GROUP_CHECK_TIMEOUT (R208). -/
def execGroupCheckTimeout (entry : Nat) (s : State) : Out := .next (s.groupCheckTimeout entry).choices
/-- GROUP_TIMEOUT (R218). -/
def execGroupTimeout (entry : Nat) (s : State) : Out := .next (s.groupSilent entry).choices
/-- GROUP_MAP_TIMEOUT (R443). -/
def execGroupMapTimeout (entry : Nat) (s : State) : Out := .next (s.groupTimeout entry fun e => e.waitMap).choices

end Sys2Proof.Machine
end

