-- ==== Sys2Proof/Machine/LedgerPath.lean ====
section
/-!
DEFINITION. The long paths of a request (R209, R211, R243, R248, R250): prefill offers and their ends on both sides, page operations
at their home and at the requester, layer acknowledgements, the ledger's end of a handover, fences at the Prompt device.
-/

namespace Sys2Proof.Machine

/-! ## The ledger's side of a prefill (R205, R211) -/

/-- A request is ready for a batch: QUEUED_GEN, or DONE when a cancel is pending. -/
def State.enterGen (s : State) (i : Nat) : State :=
  match s.entry i with
  | none => s
  | some e => if e.cancel then s.endOutside i 3 else s.toSt i 5

/-- LAYERS of the pool record of a slot. -/
def State.slotLayers (s : State) (l k : Nat) : Nat :=
  match (s.pool l (s.rd Reg.ldgModelCfgKvPool k)).1 with
  | some p => p.layers
  | none => 0

/-- Every pushed layer of both lists is acknowledged (R250). -/
def State.allLayers (s : State) (e : Entry) : Bool :=
  ((natsFrom 0 (s.slotLayers e.req.lodge e.req.model)).all fun k => e.layers.contains k) &&
  ((natsFrom 0 (s.slotLayers e.req.lodge e.req.fbModel)).all fun k => e.layers.contains (k + 256))

/-- The push path leaves PREFILLING once PREFILL_DONE and every LAYER_ACK have come. -/
def State.pushSettle (s : State) (i : Nat) : State :=
  match s.entry i with
  | none => s
  | some e => if e.st = 3 ∧ e.path = 2 ∧ e.doneLayers.isSome ∧ s.allLayers e then s.enterGen i else s

/-- PREFILL_ACK (R205, R209, R211). -/
def State.prefillAckIn (s : State) (m : Msg) : State :=
  match s.named (m.fld 1 0 32) with
  | none => s
  | some (i, e) =>
    let d := member m.src
    if e.st ≠ 2 ∨ e.offered ≠ some d ∨ m.src ≠ s.memberDev d then s
    else
      let s := { s with ldg := { s.ldg with queuedTokens := Tbl.set 0 d (m.fld 1 40 24) s.ldg.queuedTokens } }
      let e := { e with offered := none }
      let st := m.fld 1 32 8
      if st = St.ok then (s.setEntry i { e with prompt := some d, busy := [] }).toSt i 3
      else if st = St.noPages ∧ e.path = 1 then
        let s := s.setEntry i { e with path := 2 }
        match s.allocHere i false e.shared (e.first - e.shared) with
        | (s, true) => s.offer i
        | (s, false) => s.endOutside i 4
      else (s.setEntry i { e with busy := e.busy ++ [d] }).offer i

/-- The first token of a request (R219, R220): counted, and listed at the next boundary. -/
def State.firstToken (s : State) (i tok : Nat) : State :=
  match s.entry i with
  | none => s
  | some e =>
    let s := s.setEntry i { e with genLen := 1, lastToken := tok }
    s.clientEvent e.req.lodge e.req.client fun k => { k with tokens := (k.tokens + 1) % 2 ^ 64 }

/-- PREFILL_DONE (R205, R211, R222, R243). -/
def State.prefillDoneIn (s : State) (m : Msg) : State :=
  match s.named (m.fld 1 0 32) with
  | none => s
  | some (i, e) =>
    if e.st ≠ 3 ∨ e.path = 0 ∨ e.prompt ≠ some (member m.src) ∨ m.src ≠ s.memberDev (member m.src) then s
    else
      let st := m.fld 1 32 8
      if st = St.ok then
        let s := s.setEntry i { e with doneLayers := some (m.fld 2 32 8) }
        let s := s.firstToken i (m.fld 2 0 32)
        let s := s.modSlot e.req.model fun x => { x with firsts := x.firsts ++ [i] }
        if e.path = 1 then
          let home := s.rd Reg.ldgModelHomeHome e.req.model
          let s := s.toSt i 4
          s.lsend e.req.lodge home 0x43 e.req.tenant
            [handleOf i e + m.src * 2 ^ 32 + s.kvPoolOf e * 2 ^ 56, e.kvList.2, e.shared + (e.first - e.shared) * 2 ^ 32]
        else s.pushSettle i
      else if st = St.memUncorr then s.faultLodge e.req.lodge st 3 0xFF 0xFF e.req.tag
      else s.endOutside i (if st = St.cancelled && e.cancel then 3 else 4)

/-- PREFILL_TIMEOUT (R211). -/
def State.prefillTimeout (s : State) (i : Nat) : State :=
  match s.entry i with
  | none => s
  | some e =>
    match e.prompt with
    | some d =>
      if e.st = 3 ∧ e.path ≠ 0 ∧ e.doneLayers = none then (s.setBit Reg.ldgErrBits 0).orphanEntry e (s.memberDev d) else s
    | none => s

/-- LAYER_ACK (R248, R250). -/
def State.layerAckIn (s : State) (m : Msg) : State :=
  match s.named (m.fld 1 0 32) with
  | none => s.bump Reg.wanStaleCount
  | some (i, e) =>
    if e.st ≠ 3 ∨ e.path = 0 then s.bump Reg.wanStaleCount
    else (s.setEntry i { e with layers := sortDedup ((m.fld 1 32 8 + 256 * m.fld 1 40 1) :: e.layers) }).pushSettle i

/-- The words of a page list in lodge memory. -/
def State.listWords (s : State) (l addr a n : Nat) : List Nat := (natsFrom a n).map fun k => s.peekNat l (addr + 8 * k) 8

/-- HANDOVER_RSP (R205, R248). -/
def State.handoverRspIn (s : State) (m : Msg) : State :=
  match s.named (m.fld 1 0 32) with
  | none => s.bump Reg.wanStaleCount
  | some (i, e) =>
    let st := m.fld 1 32 8
    if e.st ≠ 4 ∨ m.src ≠ s.rd Reg.ldgModelHomeHome e.req.model then s.bump Reg.wanStaleCount
    else if st = St.ok then
      let ws := s.listWords e.req.lodge e.kvList.2 e.shared (e.first - e.shared)
      let t := ((natsFrom e.shared ws.length).zip ws).foldl (fun t x => Tbl.put x.1 x.2 t) e.pages.1
      (s.setEntry i { e with pages := (t, e.pages.2) }).enterGen i
    else if st = St.spanTimeout then s.orphanEntry e m.src
    else s.faultLodge e.req.lodge st 3 0xFF 0xFF e.req.tag

/-- HANDOVER_TIMEOUT (R248). -/
def State.handoverTimeout (s : State) (h : Nat) : State :=
  match s.named h with
  | none => s
  | some (_, e) =>
    if e.st = 4 then (s.setBit Reg.wanErrBits 2).orphanEntry e (s.rd Reg.ldgModelHomeHome e.req.model) else s

/-! ## Page operations at their home (R209, R211, R296, R297) -/

/-- PAGE_RSP. -/
def State.pageRsp (s : State) (m : Msg) (status : Nat) : State := s.answer m 0x25 [m.fld 1 0 32 + status * 2 ^ 32] []

/-- Pieces of at most 64 KiB of a list: first entry and count. -/
def listPieces (a n : Nat) : List (Nat × Nat) := (natsFrom 0 (ceilDiv n 8192)).map fun i => (a + 8192 * i, min 8192 (n - 8192 * i))

/-- A request of this home or Prompt device for list bytes of another device. -/
def State.listPend (s : State) (kind l dst tenant addr n aux : Nat) (body : List Byte) : Pend :=
  { kind := kind, engine := 8, dst := dst, lodge := l, core := 160, place := 15, cmd := none, addr := 0, off := addr, len := n, aux := aux,
    stale := false, msg := mkMsg (if body = [] then 0x61 else 0x63) s.self tenant [0, addr, n] body, reply := none }

/-- Write list entries at another device: the tags of the writes. -/
def State.sendList (s : State) (l dst tenant addr a : Nat) (ws : List Nat) (aux : Nat) : State × List Nat :=
  (listPieces a ws.length).foldl (fun (r : State × List Nat) (k, n) =>
    let (s, t) := r.1.ask (r.1.listPend 16 l dst tenant (addr + 8 * k) (8 * n) aux (((ws.drop (k - a)).take n).flatMap (leBytes 8)))
    (s, r.2 ++ [t])) (s, [])

/-- Note a list read of a PAGE_OP by its tag. -/
def State.putPageOp (s : State) (tag : Nat) (x : Msg × Nat × Nat) : State := { s with ldg := { s.ldg with pageOps := Tbl.put tag x s.ldg.pageOps } }
/-- Forget it. -/
def State.delPageOp (s : State) (tag : Nat) : State := { s with ldg := { s.ldg with pageOps := Tbl.del tag s.ldg.pageOps } }
/-- Forget every list read of a PAGE_OP. -/
def State.dropPageOp (s : State) (m : Msg) : State := { s with ldg := { s.ldg with pageOps := s.ldg.pageOps.filter fun x => x.2.1 != m } }
/-- Forget the writes of an allocation. -/
def State.dropAlloc (s : State) (m : Msg) : State := { s with ldg := { s.ldg with allocs := s.ldg.allocs.filter fun a => a.1 != m } }
/-- Note them. -/
def State.putAlloc (s : State) (a : Msg × List Nat × List Nat) : State := { s with ldg := { s.ldg with allocs := s.ldg.allocs ++ [a] } }

/-- LIVERY of pages that a PAGE_OP allocates (R139): that of the express request whose member record this device keeps; else free, since no
field of PAGE_OP carries it (log 102). -/
def State.opLivery (s : State) (m : Msg) : Nat :=
  match Tbl.find (farKey m.src (m.fld 1 0 32)) s.ldg.members with
  | some r => if r.livery < 65536 then r.livery else 0
  | none => Config.freeNat s.free % 65536

/-- ALLOC at the home, the first page's PARENT known: the pages, then their list entries at the asking device. -/
def State.homeAlloc (s : State) (l : Nat) (m : Msg) (par : Nat) : State :=
  let first := m.fld 2 0 32
  match (s.useFree 1).allocPages l (m.fld 4 0 3) (m.fld 2 32 32) (m.fld 5 0 24) (m.fld 5 32 32) (s.opLivery m) first 0 par with
  | (s, none) => s.pageRsp m St.noPages
  | (s, some ps) =>
    let (s, ts) := s.sendList l m.src m.tenant (m.word 3) first (ps.map (listWord s.self)) 0
    if ts = [] then s.pageRsp m St.ok else s.putAlloc (m, ps, ts)

/-- Ask for one piece of the list of a PAGE_OP. -/
def State.askList (s : State) (l : Nat) (m : Msg) (k : Nat × Nat) : State :=
  (s.ask (s.listPend 15 l m.src m.tenant (m.word 3 + 8 * k.1) (8 * k.2) 0 [])).1.putPageOp s.spn.nextTag (m, k.1, k.2)

/-- Read entries of the list of a PAGE_OP at the asking device: the page before the first of an ALLOC, or the pages of another OP. -/
def State.listRead (s : State) (l : Nat) (m : Msg) (a n : Nat) : State := (listPieces a n).foldl (fun (s : State) k => s.askList l m k) s

/-- PAGE_OP at the home. -/
def State.pageOpIn (s : State) (m : Msg) : State :=
  match s.tenantLodge m.tenant with
  | none => s.pageRsp m St.noLodge
  | some l =>
    let first := m.fld 2 0 32
    let count := m.fld 2 32 32
    let op := m.fld 4 8 2
    if s.lodge l = 4 ∨ s.lodge l = 5 then s.pageRsp m St.notReady
    else if op = 0 then
      if s.rd Reg.lodPersonaPersona < 2 ∨ s.on Reg.lodPersonaDrain then s.pageRsp m St.noPages
      else
        if first = 0 then s.homeAlloc l m noParent else s.listRead l m (first - 1) 1
    else if op = 3 then s.pageRsp m St.badOperand
    else if count = 0 then s.pageRsp m St.ok
    else s.listRead l m first count

/-- The list entries of a RELEASE or SHARE_ADD have come: apply it to those that name this home. -/
def State.pageOpApply (s : State) (l : Nat) (m : Msg) (ws : List Nat) : State :=
  (ws.filter fun w => wordHome w == s.self).foldl (fun s w =>
    if m.fld 4 8 2 = 1 then s.releasePage l (m.fld 4 0 3) (wordPage w) (m.fld 5 0 24) (m.fld 5 32 32)
    else s.sharePage l (m.fld 4 0 3) (wordPage w)) s

/-- A list read for a PAGE_OP is answered, or given up with a status. -/
def State.pageListRead (s : State) (tag status : Nat) (body : List Byte) : State :=
  let s := s.closeTag tag
  match Tbl.find tag s.ldg.pageOps with
  | none => s
  | some (m, _, n) =>
    let s := s.delPageOp tag
    if status ≠ St.ok then (s.dropPageOp m).pageRsp m status
    else
      let ws := (natsFrom 0 n).map fun k => leNat ((body.drop (8 * k)).take 8)
      match s.tenantLodge m.tenant with
      | none => s.pageRsp m St.noLodge
      | some l =>
        if m.fld 4 8 2 = 0 then s.homeAlloc l m (wordPage (ws.getD 0 0))
        else
          let s := s.pageOpApply l m ws
          if s.ldg.pageOps.any fun x => x.2.1 == m then s else s.pageRsp m St.ok

/-! ## The Prompt device (R211, R222, R243) -/

/-- A prefill this device runs. -/
def State.sub (s : State) (k : Nat) : Option Sub := Tbl.find k s.ldg.subs
/-- Put it. -/
def State.setSub (s : State) (k : Nat) (x : Sub) : State := { s with ldg := { s.ldg with subs := Tbl.put k x s.ldg.subs } }
/-- Remove it. -/
def State.dropSub (s : State) (k : Nat) : State := { s with ldg := { s.ldg with subs := Tbl.del k s.ldg.subs } }

/-- Tokens of the prefills this device has accepted, as QUEUED_TOKENS reports them. -/
def State.subTokens (s : State) : Nat :=
  min (2 ^ 24 - 1) (((s.ldg.subs.filter fun x => x.2.accepted).map fun x => x.2.msg.fld 1 32 32 - x.2.msg.fld 2 0 32).foldl (· + ·) 0)

/-- PREFILL_ACK. -/
def State.ackPrefill (s : State) (m : Msg) (status : Nat) : State :=
  s.answer m 0x21 [m.fld 1 0 32 + status * 2 ^ 32 + s.subTokens * 2 ^ 40] []

/-- Main-list entries a main-path prefill allocates. -/
def subPages (m : Msg) : Nat := pagesFor (m.fld 1 32 32 + 9) - m.fld 2 0 32 / 64

/-- A place in the order of acceptance is taken. -/
def State.takeOrder (s : State) : State := { s with ldg := { s.ldg with orders := s.ldg.orders + 1 } }
/-- A handle whose writes were fenced is in use again (R244). -/
def State.unquiet (s : State) (h : Nat) : State := { s with wan := { s.wan with quiet := s.wan.quiet.filter fun q => q.2 != h } }

/-- Accept a prefill: it comes after those accepted before it. -/
def State.takeSub (s : State) (k : Nat) (x : Sub) : State :=
  (s.takeOrder.unquiet (x.msg.fld 1 0 32)).setSub k { x with accepted := true, order := s.ldg.orders }

/-- The prefill of a slot that is next: the first accepted of those whose stream has still to run. -/
def State.nextSub (s : State) (k : Nat) : Option (Nat × Sub) :=
  (s.ldg.subs.filter fun e => e.2.slot == k && e.2.accepted && e.2.ended == none && !e.2.cancel).foldl (fun (b : Option (Nat × Sub)) e =>
    match b with
    | some y => if y.2.order < e.2.order then some y else some e
    | none => some e) none

/-- A Prompt device takes up the prefill stream of the next accepted prefill of a slot (R154, R211), unless one runs, the slot is held or the
lodge context is not ACTIVE. Its commands take the class and the client that R284 gives a step's: none is stated for a prefill, so 0 and no
client (DESIGN CHOICE, log 143). -/
def State.startPrefill (s : State) (k : Nat) : State :=
  if (s.slotOf k).running || (s.slotOf k).prefill.isSome || s.hlt.held.contains k || s.hif.halted then s
  else
    match s.nextSub k with
    | none => s
    | some (key, x) =>
      if s.active x.lodge then
        ((s.useFree 1).loadStream k x.lodge 0 [] (Config.stream k 2 s.free)).modSlot k fun y => { y with prefill := some key }
      else s

/-- PREFILL at a Prompt device. -/
def State.prefillIn (s : State) (m : Msg) : State :=
  let h := m.fld 1 0 32
  if s.rd Reg.lodPersonaPersona ≠ 1 ∨ s.on Reg.lodPersonaDrain then s.ackPrefill m St.busy
  else
    match s.tenantLodge m.tenant with
    | none => s.ackPrefill m St.modelMismatch
    | some l =>
      match s.keySlot l (m.fld 3 0 48), s.keySlot l (m.fld 4 0 48) with
      | some k, some fb =>
        let x : Sub := ⟨m, l, k, fb, true, 0, [], [], false, s.ldg.orders, 0, none⟩
        if m.fld 2 32 2 ≠ 1 then ((s.takeSub (farKey m.src h) x).ackPrefill m St.ok).startPrefill k
        else
          let home := s.rd Reg.ldgModelHomeHome k
          if home = 0xFFFFFF then s.ackPrefill m St.noPages
          else match s.listSpace l (m.fld 1 32 32 + 9) [] with
            | none => (s.setBit Reg.ldgErrBits 1).ackPrefill m St.noPages
            | some a =>
              (s.setSub (farKey m.src h) { x with accepted := false, list := a, ops := [0] }).lsend l home 0x24 m.tenant
                [h, m.fld 2 0 32 / 64 + subPages m * 2 ^ 32, a, s.rd Reg.ldgModelHomeHomePool k, ownerWord s.self h]
      | _, _ => s.ackPrefill m St.modelMismatch

/-- HOME has answered the ALLOC of a prefill: the entries go into KV_LIST, then the offer is accepted. -/
def State.subAlloc (s : State) (k : Nat) (x : Sub) (status : Nat) : State :=
  if status ≠ St.ok then (s.dropSub k).ackPrefill x.msg (if status = St.noPages then St.noPages else St.busy)
  else
    let a := x.msg.fld 2 0 32 / 64
    let ws := s.listWords x.lodge x.list a (subPages x.msg)
    let (s, ts) := s.sendList x.lodge x.msg.src x.msg.tenant (x.msg.word 6) a ws k
    s.setSub k { x with ops := [], writes := ts }

/-- A WAIN_PUSH_KV for a handle. -/
def Cmd.pushes (x : Cmd) (h : Nat) : Bool := x.klass == 4 && x.op == 2 && x.fld 7 0 32 == h

/-- Writes and pushes this device has issued for a handle and that lack their acknowledgement (R244, R251), to one device or all. -/
def State.unacked (s : State) (h : Nat) (dst : Option Nat) : Bool :=
  (s.spn.out.any fun e => e.2.kind == 9 && e.2.reply.isNone && e.2.msg.fld 2 0 32 == h && e.2.msg.fld 3 0 16 != 0 &&
    (dst == none || dst == some e.2.dst)) ||
  (s.wan.streams.any fun e => (match e.2.kv with | some (w, _) => bits 0 32 w == h | none => false) && (dst == none || dst == some e.2.dst)) ||
  ((dst == none || dst == some s.self) && ((s.jobs.any fun j => j.2.2.cmd.pushes h) || (s.cores.any fun c => c.2.queue.any (·.pushes h)) || s.waitingCmds.any (·.pushes h)))

/-- The pages of a main-path prefill go back to their home. -/
def State.subRelease (s : State) (k : Nat) (x : Sub) : State :=
  let h := x.msg.fld 1 0 32
  if x.list = 0 then s.dropSub k
  else
    (s.setSub k { x with accepted := false, ops := [1] }).lsend x.lodge (s.rd Reg.ldgModelHomeHome x.slot) 0x24 x.msg.tenant
      [h, x.msg.fld 2 0 32 / 64 + subPages x.msg * 2 ^ 32, x.list, s.rd Reg.ldgModelHomeHomePool x.slot + 2 ^ 8, ownerWord s.self h]

/-- The prefill does not run: its stream has ended, or was never taken up or has stopped. -/
def State.subIdle (s : State) (k : Nat) (x : Sub) : Bool := (s.slotOf x.slot).prefill != some k

/-- The status a prefill ends with now, if it does (R211, R222, R243): OK once its stream has ended and every write and push is acknowledged,
CANCELLED once a cancelled one has stopped and nothing of it is under way, MEM_UNCORR when that fault of its lodge context has stopped it. Another
fault sends none: PREFILL_TIMEOUT ends the request at its ledger. -/
def State.subStatus (s : State) (k : Nat) (x : Sub) : Option Nat :=
  if !x.accepted || x.writes != [] then none
  else if s.lodge x.lodge = 2 ∧ s.rd Reg.lodFaultStatus x.lodge = St.memUncorr then some St.memUncorr
  else if !s.subIdle k x || s.unacked (x.msg.fld 1 0 32) none then none
  else if x.ended.isSome then some St.ok
  else if x.cancel then some St.cancelled
  else none

/-- PREFILL_DONE; after OK the entry is gone (R35), otherwise the pages of a main-path prefill go back. -/
def State.endSub (s : State) (k : Nat) (x : Sub) : State :=
  match s.subStatus k x with
  | none => s
  | some st =>
    let s := s.answer x.msg 0x22 [x.msg.fld 1 0 32 + st * 2 ^ 32, if st = St.ok then x.ended.getD 0 + min 255 x.layers * 2 ^ 32 else 0] []
    if st = St.ok then s.dropSub k else s.subRelease k x

/-- A fence waits: this device holds a prefill of its handle and a write to its home lacks its acknowledgement (R244). -/
def State.fenceWaits (s : State) (m : Msg) : Bool :=
  (s.ldg.subs.any fun e => e.2.msg.fld 1 0 32 == m.fld 1 0 32) && s.unacked (m.fld 1 0 32) (some m.src)

/-- The fences that still wait; of the others no write is issued from now on. -/
def State.keepFences (s : State) : State :=
  { s with wan := { s.wan with
    fences := s.wan.fences.filter s.fenceWaits,
    quiet := s.wan.quiet ++ ((s.wan.fences.filter fun m => !s.fenceWaits m).map fun m => (m.src, m.fld 1 0 32)) } }

/-- Prefills that have come to their end are answered; so are fences with no write unacknowledged. -/
def State.settlePrompt (s : State) : State :=
  let s := s.ldg.subs.foldl (fun (s : State) e => s.endSub e.1 e.2) s
  let done := s.wan.fences.filter fun m => !s.fenceWaits m
  done.foldl (fun (s : State) m => s.answer m 0x45 [m.fld 1 0 32] []) s.keepFences

/-- A layer boundary of the prefill that runs on a slot (R211, R222): a cancelled one stops here; the next layer is issued; after the last the
first token is selected, by logits that are free. -/
def State.subLayer (s : State) (k : Nat) : State :=
  let x := s.slotOf k
  let next (s : State) : State := (s.setSlot k { x with prefill := none, todo := [], left := [], stream := [] }).settlePrompt.startPrefill k
  match x.prefill with
  | none => s
  | some key =>
    match s.sub key with
    | none => next s
    | some y =>
      if y.cancel || !s.active y.lodge then next s
      else
        let s := s.setSub key { y with layers := y.layers + 1 }
        match x.left with
        | l :: r => s.setSlot k { x with todo := l, left := r }
        | [] => next ((s.useFree 1).setSub key { y with layers := y.layers + 1, ended := some (Config.freeNat s.free % 2 ^ 32) })

/-- A write of list entries is acknowledged: at the home of an ALLOC, or at a Prompt device. -/
def State.listWritten (s : State) (tag status : Nat) : State :=
  let k := match Tbl.find tag s.spn.out with | some p => p.aux | none => 0
  let s := s.closeTag tag
  match s.ldg.allocs.find? fun a => a.2.2.contains tag with
  | some (m, ps, ts) =>
    let s := s.dropAlloc m
    if status ≠ St.ok then
      let s := match s.tenantLodge m.tenant with
        | some l => ps.foldl (fun (s : State) p => s.releasePage l (m.fld 4 0 3) p (m.fld 5 0 24) (m.fld 5 32 32)) s
        | none => s
      s.pageRsp m status
    else
      let ts := ts.filter (· != tag)
      if ts = [] then s.pageRsp m St.ok else s.putAlloc (m, ps, ts)
  | none =>
    match s.sub k with
    | none => s
    | some x =>
      if !x.writes.contains tag then s
      else if status ≠ St.ok then ((s.setSub k { x with writes := [] }).ackPrefill x.msg St.busy).subRelease k { x with writes := [] }
      else if x.writes.filter (· != tag) ≠ [] then s.setSub k { x with writes := x.writes.filter (· != tag) }
      else (((s.takeSub k { x with writes := [] }).ackPrefill x.msg St.ok).settlePrompt).startPrefill x.slot

/-- PREFILL_CANCEL. -/
def State.prefillCancelIn (s : State) (m : Msg) : State :=
  let k := farKey m.src (m.fld 1 0 32)
  match s.sub k with
  | none => s
  | some x => (s.setSub k { x with cancel := true }).settlePrompt

/-- FENCE (R244). -/
def State.fenceIn (s : State) (m : Msg) : State :=
  ({ s with wan := { s.wan with fences := s.wan.fences ++ [m] } } : State).settlePrompt

/-- PAGE_RSP at a Prompt device. -/
def State.subRsp (s : State) (m : Msg) : State :=
  match s.ldg.subs.find? fun x => x.2.msg.fld 1 0 32 == m.fld 1 0 32 && x.2.ops != [] && s.rd Reg.ldgModelHomeHome x.2.slot == m.src with
  | some (k, x) => if x.ops = [0] then s.subAlloc k x (m.fld 1 32 8) else s.dropSub k
  | none => s

/-- An entry after the answer to one of its PAGE_OPs: allocated entries stand in its list now, a refused SHARE_ADD leaves no match, a refused
ALLOC has failed. -/
def State.answered (s : State) (e : Entry) (o : Nat × Nat × Nat × Nat) (dev st : Nat) : Entry :=
  let e := { e with pageOps := e.pageOps.erase o }
  if o.2.2.2 = 0 ∧ st = St.ok then
    let ws := s.listWords e.req.lodge e.kvList.2 o.2.1 o.2.2.1
    { e with pages := (((natsFrom o.2.1 ws.length).zip ws).foldl (fun t x => Tbl.put x.1 x.2 t) e.pages.1, e.pages.2) }
  else if o.2.2.2 = 2 ∧ st ≠ St.ok then { e with shared := 0, pages := (Tbl.clear o.2.1 (o.2.1 + o.2.2.1) e.pages.1, e.pages.2) }
  else if o.2.2.2 = 0 then { e with failed := some (member dev, st) }
  else e

/-- With no answer due, the allocations that follow go on (R139, R209); one that fails here fails the request. -/
def State.allocMore (s : State) (i : Nat) : State :=
  match s.entry i with
  | none => s
  | some e =>
    if 7 ≤ e.st ∨ e.pageOps ≠ [] ∨ e.failed ≠ none then s
    else
      let (s, ok) := s.allocRest i
      if ok then s else s.modEntry i fun e => { e with failed := some (0, St.noPages) }

/-- PAGE_RSP at the requester: the ledger, or a Prompt device. Pages that come to a request that is ending go back. -/
def State.pageRspIn (s : State) (m : Msg) : State :=
  match s.named (m.fld 1 0 32) with
  | none => s.subRsp m
  | some (i, e) =>
    match e.pageOps.find? (·.1 == m.src) with
    | none => s.subRsp m
    | some o =>
      let f := s.answered e o m.src (m.fld 1 32 8)
      let s := (s.setEntry i f).allocMore i
      if f.st = 1 then s.admitPages i
      else if f.st = 7 ∧ o.2.2.2 = 0 ∧ m.fld 1 32 8 = St.ok then s.releaseMain i true
      else if f.st = 7 ∧ f.pageOps = [] then s.toDone i
      else s

/-! ## The commands -/

/-- PREFILL (R211). -/
def execPrefill (m : Msg) (s : State) : Out := .next (s.prefillIn m).choices
/-- PREFILL_ACK (R209). -/
def execPrefillAck (m : Msg) (s : State) : Out := .next (s.prefillAckIn m).choices
/-- PREFILL_DONE (R211). -/
def execPrefillDone (m : Msg) (s : State) : Out := .next (s.prefillDoneIn m).choices
/-- PREFILL_CANCEL (R222). -/
def execPrefillCancel (m : Msg) (s : State) : Out := .next (s.prefillCancelIn m).choices
/-- PREFILL_TIMEOUT (R211). -/
def execPrefillTimeout (entry : Nat) (s : State) : Out := .next (s.prefillTimeout entry).choices
/-- PAGE_OP (R211). -/
def execPageOp (m : Msg) (s : State) : Out := .next (s.pageOpIn m).choices
/-- PAGE_RSP (R211). -/
def execPageRsp (m : Msg) (s : State) : Out := .next (s.pageRspIn m).choices
/-- LAYER_ACK (R250). -/
def execLayerAck (m : Msg) (s : State) : Out := .next (s.layerAckIn m).choices
/-- HANDOVER_RSP (R248). -/
def execHandoverRsp (m : Msg) (s : State) : Out := .next (s.handoverRspIn m).choices
/-- HANDOVER_TIMEOUT (R248). -/
def execHandoverTimeout (handle : Nat) (s : State) : Out := .next (s.handoverTimeout handle).choices
/-- FENCE (R244). -/
def execFence (m : Msg) (s : State) : Out := .next (s.fenceIn m).choices

end Sys2Proof.Machine
end

