-- ==== Sys2Proof/Machine/LedgerStep.lean ====
section
/-!
DEFINITION. The step boundary of a model slot (R212 to R225, R440 to R444): verification of drafts, ends, Last Orders, shrinking,
stragglers, step records, the next batch.
-/

namespace Sys2Proof.Machine

/-! ## The order of entries (R212) -/

/-- Entry `a` comes before entry `b`. -/
def rankBefore (a b : Nat × Entry) : Bool :=
  if a.2.req.prio ≠ b.2.req.prio then decide (b.2.req.prio < a.2.req.prio)
  else if a.2.req.deadline ≠ b.2.req.deadline then decide (a.2.req.deadline < b.2.req.deadline)
  else if a.2.req.admitTime ≠ b.2.req.admitTime then decide (a.2.req.admitTime < b.2.req.admitTime)
  else decide (a.1 < b.1)

/-- Insert in order. -/
def rankInsert (x : Nat × Entry) : List (Nat × Entry) → List (Nat × Entry)
  | [] => [x]
  | y :: r => if rankBefore x y then x :: y :: r else y :: rankInsert x r

/-- Entries in order. -/
def rankSort (l : List (Nat × Entry)) : List (Nat × Entry) := l.foldl (fun a x => rankInsert x a) []

/-- The entries of a slot that meet a condition, in order. -/
def State.ranked (s : State) (k : Nat) (f : Entry → Bool) : List (Nat × Entry) :=
  rankSort (s.ldg.entries.filter fun e => e.2.req.model == k && f e.2)

/-- Sequences a step may hold: BATCH_MAX less those reserved for other ledgers' express requests (R216). -/
def State.batchRoom (s : State) (k : Nat) : Nat :=
  s.rd Reg.ldgModelBatchBatchMax k - (s.ldg.members.filter fun e => e.2.slot == k).length

/-- Prompts of an in-place pass (R212): within PREFILL_TOKENS and the batch's room; a single prompt always. -/
def takePass (max room : Nat) : Nat → List (Nat × Entry) → List Nat
  | _, [] => []
  | used, (i, e) :: r =>
    if used = 0 ∨ (room ≠ 0 ∧ used + e.req.promptLen ≤ max) then i :: takePass max (room - 1) (used + e.req.promptLen) r
    else []

/-- The batch and the pass that a step would have now. -/
def State.nextBatch (s : State) (k : Nat) : List Nat × List Nat :=
  let room := s.batchRoom k
  let chosen := ((s.ranked k fun e => e.st == 5 || e.st == 6).take room).map (·.1)
  let pass := takePass (s.rd Reg.ldgModelBatchPrefillTokens k) (room - chosen.length) 0 (s.ranked k fun e => e.st == 2 && e.path == 0)
  (chosen, pass)

/-! ## Ending in a step (R205, R215, R222) -/

/-- DRAINING: pages go back; DONE when no answer is awaited. -/
def State.drain (s : State) (i reason : Nat) : State :=
  match s.entry i with
  | none => s
  | some e =>
    let s := s.endGroup i e e.agreed
    let s := ((s.setEntry i { e with reason := reason, cancel := false, agreed := [], drafts := [], runs := [], red := Reduce.idle }).toSt i 7).releaseAll i true
    match s.entry i with
    | some e => if e.pageOps = [] then s.toDone i else s
    | none => s

/-- Tokens up to and including STOP. -/
def uptoStop (stop : Nat) : List (Nat × Bool) → List (Nat × Bool)
  | [] => []
  | t :: r => if t.1 = stop ∧ stop ≠ 0xFFFFFFFF then [t] else t :: uptoStop stop r

/-- What R215 lets a run of tokens emit, after `n` tokens emitted before. -/
def Req.cut (r : Req) (n : Nat) (ts : List (Nat × Bool)) : List (Nat × Bool) := uptoStop r.stop (ts.take (r.maxLen - r.promptLen - n))

/-- END_REASON after a run (R215): 1 STOP, 2 MAX_LEN, 0 none. -/
def Entry.endReason (e : Entry) : Nat :=
  if e.req.stop ≠ 0xFFFFFFFF ∧ e.lastToken = e.req.stop ∧ e.genLen ≠ 0 then 1
  else if e.req.maxLen - e.req.promptLen ≤ e.genLen then 2 else 0

/-- Emit a run: GEN_LEN, the last token, the client's count; `counted` adds to EMITTED. -/
def State.emit (s : State) (i : Nat) (run : List (Nat × Bool)) (counted : Bool) : State :=
  match s.entry i with
  | none => s
  | some e =>
    let s := s.setEntry i { e with genLen := e.genLen + run.length, lastToken := (run.getLastD (e.lastToken, false)).1,
                                   emitted := if counted then satAdd (2 ^ 32 - 1) e.emitted run.length else e.emitted }
    if run = [] then s else s.clientEvent e.req.lodge e.req.client fun k => { k with tokens := (k.tokens + run.length) % 2 ^ 64 }

/-- Drafts accepted: the largest a with q_i = s_(i−1) for every i ≤ a (R214). -/
def acceptedOf : List Nat → List Nat → Nat
  | q :: qs, t :: ts => if q = t then 1 + acceptedOf qs ts else 0
  | _, _ => 0

/-- One batch entry at the boundary (R214, R215, R222, R224): its listing. -/
def State.stepEntry (s : State) (k i : Nat) : State × Listing :=
  match s.entry i with
  | none => (s, ⟨i, [], 0, false, false⟩)
  | some e =>
    let md := s.rd Reg.ldgModelCfgMaxDraft k
    if e.cancel then (s.drain i 3, ⟨i, [], 0, true, true⟩)
    else
      let e := { e with steps := satAdd (2 ^ 32 - 1) e.steps 1 }
      let s := s.setEntry i e
      let pos := e.req.promptLen + e.genLen
      let (s, run, a) :=
        if e.endReason ≠ 0 then (s, [], 0)
        else if e.fallback then
          let (s, ts) := s.tokens e.req.fbModel e.req e.red.sums pos (1 + md)
          (s, ts.map fun t => (t, true), 0)
        else
          let (s, ts) := s.tokens e.req.model e.req e.red.sums pos (1 + e.drafts.length)
          let a := acceptedOf e.drafts ts
          (s, (ts.take (a + 1)).map fun t => (t, false), a)
      let run := e.req.cut e.genLen run
      let s := s.emit i run true
      match s.entry i with
      | none => (s, ⟨i, run, a, false, false⟩)
      | some e =>
        let why := e.endReason
        if why ≠ 0 then (s.drain i why, ⟨i, run, a, true, false⟩)
        else if e.fallback then (s, ⟨i, run, a, false, false⟩)
        else
          let (s, ds) := s.tokens e.req.fbModel e.req e.red.sums (e.req.promptLen + e.genLen) md
          ((s.modEntry i fun x => { x with drafts := ds }), ⟨i, run, a, false, false⟩)

/-- One entry of the in-place pass at the boundary (R205, R220, R222). -/
def State.passEntry (s : State) (i : Nat) : State × Listing :=
  match s.entry i with
  | none => (s, ⟨i, [], 0, false, false⟩)
  | some e =>
    if e.cancel then
      (((s.setEntry i { e with reason := 3, cancel := false }).releaseAll i false).toDone i, ⟨i, [], 0, true, true⟩)
    else
      let (s, t) := s.token e.req.model e.req [] e.req.promptLen
      ((s.firstToken i t).toSt i 5, ⟨i, [(t, false)], 0, false, false⟩)

/-! ## Last Orders (R223 to R225, R444) -/

/-- A switch to the fallback model: drafts appended as fallback tokens, as many as the unit holds; main pages go back. -/
def State.switchEntry (s : State) (k i : Nat) (l : Option Listing) : State × Option Listing :=
  match s.entry i with
  | none => (s, l)
  | some e =>
    let room := match l with | some x => 9 - x.run.length | none => 0
    let run := e.req.cut e.genLen ((e.drafts.take (min room (s.rd Reg.ldgModelCfgMaxDraft k))).map fun t => (t, true))
    let s := ((s.setEntry i { e with fallback := true, drafts := [] }).emit i run true).releaseMain i false
    let s := s.count Reg.ldgLoSwitchCount
    let s := s.clientEvent e.req.lodge e.req.client fun c => { c with fallback := (c.fallback + 1) % 2 ^ 64 }
    let why := match s.entry i with | some e => if run = [] then 0 else e.endReason | none => 0
    let l := l.map fun x => { x with run := x.run ++ run, last := x.last || why != 0 }
    (if why = 0 then s else s.drain i why, l)

/-- EST entry of a batch of `b` sequences: the slot's table in lodge memory. -/
def State.est (s : State) (k l b : Nat) : Nat := s.peekNat l (s.rd Reg.ldgEstAddr k * 64 + 4 * Nat.log2 b) 4

/-- PREDICTED of an entry, when it is evaluated (R223). -/
def State.predict (s : State) (k : Nat) (e : Entry) (b : Nat) : Option Nat :=
  let expect := if e.req.expectLen = 0 then e.req.maxLen - e.req.promptLen else e.req.expectLen
  if expect ≤ e.genLen then none
  else
    let rem := expect - e.genLen
    let n := if 4 ≤ e.steps ∧ e.emitted ≠ 0 then ceilDiv (rem * e.steps) e.emitted
      else ceilDiv (rem * 16) (s.rd Reg.ldgModelCfgInitRate k)
    some (s.now + n * max (s.est k e.req.lodge b) (s.rd Reg.ldgStepNsValue k))

/-- Last Orders for one listing of the batch. -/
def State.lastOrders (s : State) (k b : Nat) (x : Listing) : State × Listing :=
  match s.entry x.slot with
  | none => (s, x)
  | some e =>
    if !s.on Reg.ldgCtrlLoEn || e.st != 6 || e.fallback then (s, x)
    else match s.predict k e b with
      | none => (s, x)
      | some p =>
        let s := s.setEntry x.slot { e with predicted := p % 2 ^ 64 }
        if e.req.deadline ≠ 2 ^ 64 - 1 ∧ e.req.deadline < p + 1000 * s.rd Reg.ldgModelMarginMarginUs k then
          let (s, l) := s.switchEntry k x.slot (some x)
          (s, l.getD x)
        else (s, x)

/-! ## Shrinking (R442 to R444) -/

/-- The group after member `m` is removed. -/
def shrunk (self m : Nat) (g : List Nat) : List Nat :=
  sortDedup (self :: ((g.filter fun x => x != self && x != m).take (g.length / 2 - 1)))

/-- One entry of a shrinking slot: its new group, GROUP_MAP to the old one, END to the removed; whether R444 switches it. -/
def State.shrinkEntry (s : State) (k m i : Nat) : State × Bool :=
  match s.entry i with
  | none => (s, false)
  | some e =>
    let g := shrunk (member s.self) m e.group
    let gone := e.group.filter fun x => !g.contains x
    let mask := (g.map (2 ^ ·)).foldl (· + ·) 0
    let e' := { e with group := g, groupLog2 := e.groupLog2 - 1, waitMap := g.filter (· != member s.self),
                       waitStep := e.waitStep.filter g.contains, agreed := e.agreed.filter g.contains }
    let s := s.setEntry i e'
    let s := (e.group.filter (· != member s.self)).foldl (fun (s : State) x =>
      s.lsend e.req.lodge (s.memberDev x) 0x26 e.req.tenant [handleOf i e + e'.groupLog2 * 2 ^ 32, mask]) s
    let s := s.endGroup i e gone
    let s := s.error 0x49 e.req.lodge 0xFF (handleOf i e + m * 2 ^ 32 + e'.groupLog2 * 2 ^ 40 + k * 2 ^ 48) 0
    let far := e.pages.1.any fun w => wordHome w.2 == s.memberDev m
    (s, !e.fallback && (far || !s.reachable (s.memberDev m)))

/-- The entries of a slot whose group holds a member that is to be removed. -/
def State.shrinkOf (s : State) (k m : Nat) : List (Nat × Entry) :=
  s.ldg.entries.filter fun e => e.2.req.model == k && decide (2 ≤ e.2.st) && decide (e.2.st ≤ 6) && decide (1 < e.2.group.length) && e.2.group.contains m

/-- The slot's model runs in split mode and its slices for the smaller group of an entry do not fit the survivors (R34). -/
def State.unfit (s : State) (k m : Nat) : Option Entry :=
  let key := s.rd Reg.ldgKeyKey k
  if Config.splitModel key then ((s.shrinkOf k m).find? fun e => !Config.slicesFit key (e.2.group.length / 2)).map (·.2) else none

/-- The pending shrink of a slot takes effect: the state and the entries that switch to fallback. A group whose slices would not fit the survivors does
not shrink, and its lodge context enters ORPHANED (R34). -/
def State.shrinkSlot (s : State) (k : Nat) : State × List Nat :=
  match (s.slotOf k).shrink with
  | none => (s, [])
  | some m =>
    let es := (s.shrinkOf k m).map (·.1)
    match s.unfit k m with
    | some e => (((s.modSlot k fun x => { x with shrink := none }).wr Reg.hltShrinkStatus St.ok).orphanEntry e (s.memberDev m), [])
    | none =>
    let (s, fb) := es.foldl (fun (a : State × List Nat) i =>
      let (s, b) := a.1.shrinkEntry k m i
      (s, if b then a.2 ++ [i] else a.2)) (s, [])
    let s := (s.modSlot k fun x => { x with shrink := none }).wr Reg.hltShrinkStatus St.ok
    (s, fb)

/-! ## Stragglers (R441) -/

/-- The lags of a step: HLT_STRAG, the counts of lagging steps, and the error of a member that lags on. -/
def State.stragglers (s : State) (k ns : Nat) : State :=
  let at_ := (s.slotOf k).nodeAt
  let first := match at_ with | [] => 0 | x :: r => r.foldl (fun m y => min m y.2) x.2
  let lags := at_.map fun x => (x.1, x.2 - first)
  let worst := lags.foldl (fun (b : Nat × Nat) x => if b.2 < x.2 then x else b) (match lags with | [] => (0, 0) | x :: _ => x)
  let s := if lags = [] then s
    else (s.wr Reg.hltStragLagNs (min worst.2 (2 ^ 24 - 1)) k).wr Reg.hltStragMember worst.1 k
  let slow := lags.filter fun x => decide (s.rd Reg.hltStragCfgLagPct * ns < x.2 * 100)
  let count (m : Nat) : Nat := Tbl.get 0 (k * 64 + m) s.hlt.lag + 1
  let lag := (slow.foldl (fun t x => Tbl.set 0 (k * 64 + x.1) (count x.1) t) (Tbl.clear (k * 64) (k * 64 + 64) s.hlt.lag))
  let due := slow.filter fun x => count x.1 == s.rd Reg.hltStragCfgLagSteps
  let s := { s with hlt := { s.hlt with lag := lag } }
  let s := due.foldl (fun (s : State) x =>
    (s.error 0x45 (s.rd Reg.ldgModelCfgLodge k) 0xFF (k + x.1 * 2 ^ 8 + min x.2 (2 ^ 24 - 1) * 2 ^ 32) 0).wr Reg.hltStragFlagged 1 k) s
  let s := if slow = [] then s.wr Reg.hltStragFlagged 0 k else s
  s.modSlot k fun x => { x with nodeAt := [] }

/-! ## The boundary -/

/-- Member records of a slot whose step is due or runs. -/
def State.guests (s : State) (k : Nat) : List (Nat × Member) := s.ldg.members.filter fun e => e.2.slot == k && e.2.stepping

/-- STATUS of a member's acknowledgement: the fault that has stopped its lodge context, else OK (R218). -/
def State.guestStatus (s : State) (r : Member) : Nat :=
  match s.tenantLodge r.tenant with
  | some l => if s.active l then St.ok else s.rd Reg.lodFaultStatus l
  | none => St.noLodge

/-- A member's step is at an end: it has run and its reductions are complete, or its lodge context has stopped. -/
def State.guestDone (s : State) (r : Member) : Bool := (r.joined && r.red.todo == []) || s.guestStatus r != St.ok

/-- One member answers for the step it has run; an acknowledgement is never held (R378). -/
def State.memberAck (s : State) (e : Nat × Member) : State :=
  let m := mkMsg 0x2C s.self e.2.tenant [e.1 % 2 ^ 32 + e.2.step * 2 ^ 32, s.guestStatus e.2] []
  (s.send 8 ((s.tenantLodge e.2.tenant).getD 16) (e.1 / 2 ^ 32) m).setMember e.1 { e.2 with stepping := false, joined := false }

/-- Members answer for the steps they have run (R218). -/
def State.memberAcks (s : State) (k : Nat) : State :=
  ((s.guests k).filter fun e => s.guestDone e.2).foldl (fun (s : State) e => s.memberAck e) s

/-- Apply a step to each listing in turn. -/
def mapListings (f : State → Listing → State × Listing) : State → List Listing → State × List Listing
  | s, [] => (s, [])
  | s, x :: r =>
    let (s, y) := f s x
    let (s, t) := mapListings f s r
    (s, y :: t)

/-- The stacks that hold weights of a slot's model. -/
def State.weightStacks (s : State) (k : Nat) : List Nat :=
  s.stacksOf (s.keysOf (s.rd Reg.ldgModelCfgLodge k) (Config.weights (s.rd Reg.ldgKeyKey k)))

/-- The form that a model takes in a step of `b` sequences (R122): array above the threshold, or where near-bank work is not to be had. -/
def State.arrayForm (s : State) (k b : Nat) : Bool :=
  decide (s.rd Reg.nbuXoverThreshold k < b) || decide (s.stage < 4) || !s.on Reg.nbuCtrlEnable ||
    (s.weightStacks k).any fun n => bitAt n (s.rd Reg.nbuSelftestFail)

/-- The models that a step runs: the slot's own, then the fallback models of its entries and of the sequences it reserves (R214). -/
def State.stepModels (s : State) (k : Nat) (es : List Nat) : List Nat :=
  k :: (sortDedup ((es.filterMap fun i => (s.entry i).map (·.req.fbModel)) ++ (s.guests k).map (·.2.fb))).filter (· != k)

/-- The step's commands: each model's stream in the form it takes (R122). -/
def State.stepStream (s : State) (ms : List Nat) (b : Nat) : List (List Nat) :=
  ms.flatMap fun m => (Config.stream m (if s.arrayForm m b then 1 else 0) s.free).flatten

/-- The class of the step's commands: the highest PRIO of its batch (R284); a reserved sequence is express. -/
def State.stepClass (s : State) (k : Nat) (es : List Nat) : Nat :=
  ((es.filterMap fun i => (s.entry i).map fun (e : Entry) => e.req.prio) ++ (s.guests k).map fun _ => 7).foldl max 0

/-- The step's stream is taken up (R122, R284, R306). -/
def State.issueStep (s : State) (k : Nat) (es : List Nat) (b : Nat) : State :=
  let clients := es.filterMap fun i => (s.entry i).map fun (e : Entry) => e.req.client
  let cs := s.stepStream (s.stepModels k es) b
  ((s.useFree 1).loadStream k (s.rd Reg.ldgModelCfgLodge k) (s.stepClass k es) clients [cs]).modSlot k fun x => { x with array := s.arrayForm k b }

/-- A member's part of the step begins (R218). -/
def State.joinMember (s : State) (e : Nat × Member) : State :=
  let r := s.newReduce e.2.slot e.2.step e.2.red
  ((s.useFree 1).setMember e.1 { e.2 with joined := true, red := r }).reduceMember e.1 (r.todo.length + 1)

/-- Offers that every member of the Prompt pool refused are made again at a boundary (R211). -/
def State.reoffer (s : State) (k : Nat) : State :=
  (s.ranked k fun e => e.st == 2 && e.path != 0 && e.offered == none).foldl (fun s x =>
    (s.modEntry x.1 fun e => { e with busy := [] }).offer x.1) s

/-- The boundary of a slot's running step. -/
def State.endStep (s : State) (k : Nat) : State :=
  let x := s.slotOf k
  let step := (s.rd Reg.ldgStepCntValue k + 1) % 2 ^ 32
  let ns := s.now - x.started
  let live (i : Nat) : Bool := match s.entry i with | some e => (e.st == 6 && x.batch.contains i) || (e.st == 3 && x.pass.contains i) | none => false
  let all := (rankSort ((x.batch ++ x.pass).filterMap fun i => (s.entry i).map fun e => (i, e))).map (·.1)
  let batch := all.filter live
  let b := x.batch.length + x.pass.length + x.guests.length
  let rows := ((batch.map fun i => match s.entry i with | some e => if e.st = 6 ∧ !e.fallback then 1 + e.drafts.length else 1 | none => 0) ++
    x.guests).foldl (· + ·) 0
  let s := ((s.wr Reg.ldgStepNsValue (min ns (2 ^ 32 - 1)) k).wr Reg.ldgStepCntValue step k).wr Reg.ldgBatchValue b k
  let (s, ls) := mapListings (fun s y => if x.pass.contains y.slot then s.passEntry y.slot else s.stepEntry k y.slot) s
    (batch.map fun i => ⟨i, [], 0, false, false⟩)
  let (s, fb) := s.shrinkSlot k
  let (s, ls) := mapListings (fun s y =>
    if fb.contains y.slot ∧ !y.last then (let (s, l) := s.switchEntry k y.slot (some y); (s, l.getD y)) else (s, y)) s ls
  let s := (fb.filter fun i => !(ls.any fun y => y.slot == i)).foldl (fun s i =>
    if (s.entry i).map (·.st) = some 5 then (s.switchEntry k i none).1 else s) s
  let nb := s.nextBatch k
  let (s, ls) := mapListings (fun s y => s.lastOrders k (max 1 (nb.1.length + nb.2.length)) y) s ls
  let s := (s.reckonSlot k step).stragglers k ns
  let x := s.slotOf k
  let firsts := (x.firsts.filter s.listable).map fun i =>
    if x.ended.contains i then s.endedUnit x.firsts i
    else ⟨i, [(match s.entry i with | some e => e.lastToken | none => 0, false)], 0, false, false⟩
  let ended := (x.ended.filter fun i => s.listable i && !x.firsts.contains i).map (s.endedUnit [])
  let s := s.setSlot k { x with running := false, batch := [], pass := [], guests := [], stream := [], firsts := [], ended := [] }
  (s.queueRecs k step ns b rows x.array ((ls.filter fun y => s.listable y.slot) ++ firsts ++ ended)).reoffer k

/-! ## The next step -/

/-- Pages a list must hold before the next step (R215): main, draft. -/
def State.growNeed (s : State) (k : Nat) (e : Entry) : Nat × Nat :=
  let md := s.rd Reg.ldgModelCfgMaxDraft k
  let l := e.req.promptLen + e.genLen
  let cap := pagesFor e.req.maxLen
  if e.fallback then (0, min cap (pagesFor (l + 1 + md)))
  else (min cap (pagesFor (l + e.drafts.length)), min cap (pagesFor (l + e.drafts.length + md + 1)))

/-- A failed extension ends the request (R215). -/
def State.growFail (s : State) (i : Nat) : State :=
  match s.entry i with
  | none => s
  | some e =>
    if e.st = 5 then s.endOutside i 4
    else (s.drain i 4).modSlot e.req.model fun x => { x with ended := x.ended ++ [i] }

/-- Extend the lists of one entry (R215). -/
def State.grow (s : State) (k i : Nat) : State :=
  match s.entry i with
  | none => s
  | some e =>
    if e.pageOps ≠ [] then s
    else if e.failed.isSome then s.growFail i
    else
      let (n1, n2) := s.growNeed k e
      let h1 := e.pages.1.length
      let h2 := e.pages.2.length
      let (s, ok) := if h2 < n2 then s.allocHere i true h2 (n2 - h2) else (s, true)
      let (s, ok) := if ok && decide (h1 < n1) then s.allocRuns i (s.homeRuns e (n1 - h1 + 1) h1 (n1 - h1)) else (s, ok)
      if ok then s else s.growFail i

/-- Extend the lists of the coming batch; entries that fail leave it and others come up. -/
def State.growBatch (s : State) (k : Nat) : Nat → State
  | 0 => s
  | fuel + 1 =>
    let b := (s.nextBatch k).1
    let s := b.foldl (fun (s : State) i => s.grow k i) s
    if (s.nextBatch k).1 = b then s else s.growBatch k fuel

/-- GROUP_STEP to the other members of an express entry (R218). -/
def State.sendStep (s : State) (k i : Nat) : State :=
  match s.entry i with
  | none => s
  | some e =>
    let others := e.group.filter (· != member s.self)
    let red := if others = [] then Reduce.idle else s.newReduce k ((s.rd Reg.ldgStepCntValue k + 1) % 2 ^ 32) e.red
    let s := (s.useFree 1).setEntry i { e with waitStep := others, red := red, emptyAttn := false }
    let rows := if e.fallback then [e.lastToken] else e.lastToken :: e.drafts
    let tk (i : Nat) : Nat := rows.getD i 0
    let s := others.foldl (fun (s : State) m => s.lsend e.req.lodge (s.memberDev m) 0x2A e.req.tenant
      [handleOf i e + (s.rd Reg.ldgStepCntValue k + 1) % 2 ^ 32 * 2 ^ 32,
       (e.req.promptLen + e.genLen - 1) + rows.length * 2 ^ 32 + (if e.fallback then 2 ^ 36 else 0),
       tk 0 + tk 1 * 2 ^ 32, tk 2 + tk 3 * 2 ^ 32, tk 4 + tk 5 * 2 ^ 32, tk 6 + tk 7 * 2 ^ 32, tk 8]) s
    s.reduceEntry i (red.todo.length + 1)

/-- An entry of the batch left out of the next one returns to QUEUED_GEN (R212), without drafts (R214); its members' records end with END, since
it leaves GENERATING (R218). -/
def State.displace (s : State) (i : Nat) : State :=
  match s.entry i with
  | none => s
  | some e =>
    let s := s.endGroup i e e.agreed
    let s := (s.setEntry i { e with displaced := satAdd 65535 e.displaced 1, drafts := [], agreed := [] }).toSt i 5
    s.clientEvent e.req.lodge e.req.client fun k => { k with preempt := (k.preempt + 1) % 2 ^ 64 }

/-- FIRST_TOKENs that came while no step ran, of entries that the next batch holds: listed before it, in a record of their own, so that
no record lists an entry twice (R219, R220). -/
def State.listFirsts (s : State) (k : Nat) (batch : List Nat) : State :=
  let x := s.slotOf k
  let early := x.firsts.filter batch.contains
  if early = [] then s
  else
    let s := s.setSlot k { x with firsts := x.firsts.filter fun i => !batch.contains i }
    let s := s.queueRecs k (s.rd Reg.ldgStepCntValue k) 0 0 0 false
      (early.map fun i => ⟨i, [(match s.entry i with | some e => e.lastToken | none => 0, false)], 0, false, false⟩)
    s.flushRecs k (s.slotOf k).recs.length

/-- Form the next batch and start its step, unless the slot is held, halted or still waits for pages or members. -/
def State.startStep (s : State) (k : Nat) : State :=
  let x := s.slotOf k
  if x.running || x.prefill.isSome || x.recs != [] || !s.on Reg.ldgModelCfgValid k || !s.active (s.rd Reg.ldgModelCfgLodge k) ||
      s.hlt.held.contains k || s.hif.halted || x.shrink.isSome then s
  else
    let s := s.growBatch k (s.ldg.entries.length + 1)
    let (batch, pass) := s.nextBatch k
    let waits (i : Nat) : Bool := match s.entry i with | some e => e.pageOps != [] || e.waitMap != [] | none => false
    if batch.any waits then s
    else
      let s := s.listFirsts k batch
      if (s.slotOf k).recs ≠ [] then s
      else
      let out := (s.ranked k fun e => e.st == 6).filter fun e => !batch.contains e.1
      let s := out.foldl (fun (s : State) e => s.displace e.1) s
      let gs := s.guests k
      if batch = [] ∧ pass = [] ∧ gs = [] then s.flushEnded k
      else
        let s := (batch.filter fun i => (s.entry i).map (·.st) == some 5).foldl (fun (s : State) i => s.toSt i 6) s
        let s := pass.foldl (fun (s : State) i => s.toSt i 3) s
        let s := s.modSlot k fun y => { y with running := true, started := s.now, batch := batch, pass := pass,
                                               guests := gs.map (·.2.tokens.length), nodeAt := [] }
        let s := s.issueStep k (batch ++ pass) (batch.length + pass.length + gs.length)
        let s := batch.foldl (fun (s : State) i => s.sendStep k i) s
        gs.foldl (fun (s : State) e => s.joinMember e) s

/-- A running step has come to its boundary: no command of it is left, its reductions across members are complete, every member has
acknowledged and every reserved sequence is answered for (R218). -/
def State.atBoundary (s : State) (k : Nat) : Bool :=
  let x := s.slotOf k
  x.running && !s.stepBusy k && !s.hlt.held.contains k && !(s.guests k).any (·.2.joined) &&
  x.batch.all fun i => match s.entry i with | some e => e.st != 6 || (e.waitStep == [] && e.red.todo == []) | none => true

/-- A step whose lodge context has faulted comes to no boundary: its entries have left GENERATING (R205, R206). -/
def State.dropStep (s : State) (k : Nat) : State :=
  if (s.slotOf k).running && !s.active (s.rd Reg.ldgModelCfgLodge k) && !s.stepBusy k then
    s.modSlot k fun x => { x with running := false, batch := [], pass := [], guests := [], stream := [] }
  else s

/-- END to the members that hold a record for an entry that a fault has taken out of GENERATING (R218). -/
def State.endFaulted (s : State) (k : Nat) : State :=
  (s.ldg.entries.filter fun e => e.2.req.model == k && decide (9 ≤ e.2.st) && e.2.agreed != []).foldl (fun (s : State) e =>
    (s.endGroup e.1 e.2 e.2.agreed).modEntry e.1 fun x => { x with agreed := [] }) s

/-- STEP_RECORD_WRITE: the boundary if it has come, the records that have room, the next step. -/
def State.stepRecordWrite (s : State) (k : Nat) : State :=
  let s := (s.endFaulted k).dropStep k
  let s := if s.stepBusy k || s.hlt.held.contains k then s else s.memberAcks k
  let s := if (s.slotOf k).recs == [] && s.atBoundary k then s.endStep k else s
  let s := if !(s.slotOf k).running && (s.slotOf k).shrink.isSome && (s.slotOf k).recs == [] then
      let (s, fb) := s.shrinkSlot k
      fb.foldl (fun (s : State) i => if (s.entry i).map (·.st) = some 5 then (s.switchEntry k i none).1 else s) s
    else s
  let s := s.flushRecs k (s.slotOf k).recs.length
  if (s.slotOf k).recs = [] then ((if (s.slotOf k).running then s else s.reoffer k).startStep k) else s

/-- What follows the last command that a slot's scheduler has issued: a layer boundary of a prefill, or the boundary of a step. -/
def State.slotBoundary (s : State) (k : Nat) : State :=
  if (s.slotOf k).prefill.isSome then (if s.stepBusy k || s.hlt.held.contains k then s else s.subLayer k) else s.stepRecordWrite k

/-- STEP_RECORD_WRITE (R221). -/
def execStepRecordWrite (slot : Fin 8) (s : State) : Out := .next (s.slotBoundary slot).choices

end Sys2Proof.Machine
end

