-- ==== Sys2Proof/Machine/WainCode.lean ====
section
/-!
DEFINITION. The block code of the Wain engines (R236 to R240): code lengths, canonical codes, coding and decoding.
-/

namespace Sys2Proof.Machine

/-! ## Lengths (R237, R239) -/

/-- How often each byte value occurs. -/
def histogram (bs : List Byte) : List Nat :=
  (bs.foldl (fun (a : Array Nat) b => a.modify b.toNat (· + 1)) (Array.replicate 256 0)).toList

/-- Merge two lists of packages by weight. -/
def mergePk : Nat → List (Nat × List Nat) → List (Nat × List Nat) → List (Nat × List Nat)
  | 0, _, _ => []
  | _, [], b => b
  | _, a, [] => a
  | n + 1, x :: a, y :: b => if x.1 ≤ y.1 then x :: mergePk n a (y :: b) else y :: mergePk n (x :: a) b

/-- Packages of two. -/
def pairPk : List (Nat × List Nat) → List (Nat × List Nat)
  | x :: y :: r => (x.1 + y.1, x.2 ++ y.2) :: pairPk r
  | _ => []

/-- Insert by weight, behind equal ones. -/
def insertPk (x : Nat × List Nat) : List (Nat × List Nat) → List (Nat × List Nat)
  | [] => [x]
  | y :: r => if x.1 < y.1 then x :: y :: r else y :: insertPk x r

/-- Package-merge with `n` levels. -/
def packages (items : List (Nat × List Nat)) : Nat → List (Nat × List Nat)
  | 0 => []
  | n + 1 =>
    let p := pairPk (packages items n)
    mergePk (items.length + p.length) items p

/-- Lengths of least total cost within 15 bits for the values that occur. -/
def bestLengths (h : List Nat) : List Nat :=
  let items := ((natsFrom 0 h.length).zip h).foldl (fun a x => if x.2 = 0 then a else insertPk (x.2, [x.1]) a) []
  if items.length ≤ 1 then h.map fun c => if c = 0 then 0 else 1
  else
    let used := ((packages items 15).take (2 * items.length - 2)).flatMap (·.2)
    ((used.foldl (fun (a : Array Nat) s => a.modify s (· + 1)) (Array.replicate h.length 0))).toList

/-- Coded bits of values with given lengths. -/
def codeCost (h ls : List Nat) : Nat := ((h.zip ls).map fun x => x.1 * x.2).foldl (· + ·) 0

/-- The sum of R237 in units of 2^−15. -/
def kraft (ls : List Nat) : Nat := (ls.map fun l => if l = 0 then 0 else 2 ^ (15 - l)).foldl (· + ·) 0

/-- Lengths that R237 allows: within 15 bits, a length exactly where a value occurs, the sum at most 1. -/
def lengthsFit (h ls : List Nat) : Bool :=
  ls.length == h.length && (h.zip ls).all (fun x => (x.1 == 0) == (x.2 == 0) && decide (x.2 ≤ 15)) && decide (kraft ls ≤ 2 ^ 15)

/-- The lengths this device chooses for a block (R239): optimal; which of several optimal choices is free. -/
def blockLengths (h : List Nat) : List Nat :=
  let best := bestLengths h
  let ls := Config.codeLengths h
  if lengthsFit h ls && codeCost h ls == codeCost h best then ls else best

/-- The code table (R237): 128 bytes. -/
def codeTable (ls : List Nat) : List Byte :=
  (natsFrom 0 128).map fun i => BitVec.ofNat 8 (ls.getD (2 * i) 0 + 16 * ls.getD (2 * i + 1) 0)

/-- The lengths a code table spells. -/
def tableLengths (t : List Byte) : List Nat := t.flatMap fun b => [b.toNat % 16, b.toNat / 16]

/-! ## Canonical codes (R237) -/

/-- The codes of one length: pairs of code and value, and the next code. -/
def codesOfLen (ls : List Nat) (len code : Nat) : List (Nat × Nat) × Nat :=
  let syms := ((natsFrom 0 ls.length).zip ls).filterMap fun x => if x.2 = len then some x.1 else none
  ((natsFrom code syms.length).zip syms, code + syms.length)

/-- Codes by length from `len` on: length, then its codes. -/
def codesFrom (ls : List Nat) : Nat → Nat → Nat → List (Nat × List (Nat × Nat))
  | 0, _, _ => []
  | n + 1, len, code =>
    let (cs, c) := codesOfLen ls len code
    (len, cs) :: codesFrom ls n (len + 1) (2 * c)

/-- Every code of a set of lengths. -/
def canonical (ls : List Nat) : List (Nat × List (Nat × Nat)) := codesFrom ls 15 1 0

/-- The length and code of a value. -/
def wainCode (cs : List (Nat × List (Nat × Nat))) (v : Nat) : Option (Nat × Nat) :=
  cs.findSome? fun x => (x.2.find? fun y => y.2 == v).map fun y => (x.1, y.1)

/-- The bits of a code, most significant first (R238). -/
def codeBits : Nat → Nat → List Bool
  | 0, _ => []
  | n + 1, c => (c / 2 ^ n % 2 == 1) :: codeBits n c

/-- Bits packed from bit 0 of byte 0 upwards (R238). -/
def packBits : Nat → List Bool → List Byte
  | 0, _ => []
  | n + 1, bs =>
    BitVec.ofNat 8 (((natsFrom 0 8).zip (bs.take 8)).foldl (fun a x => if x.2 then a + 2 ^ x.1 else a) 0) :: packBits n (bs.drop 8)

/-- The bits of bytes, in the numbering of R238. -/
def unpackBits (bs : List Byte) : List Bool := bs.flatMap fun b => (natsFrom 0 8).map fun i => bitAt i b.toNat

/-! ## Coding and decoding (R238 to R240) -/

/-- Bytes coded: bits of payload, and the payload padded to a multiple of 8. -/
def wainEncode (bs : List Byte) : Nat × List Byte :=
  let h := histogram bs
  let ls := blockLengths h
  let cs := canonical ls
  let bits := bs.flatMap fun b => match wainCode cs b.toNat with | some (n, c) => codeBits n c | none => []
  let n := 128 + ceilDiv bits.length 8
  (bits.length, codeTable ls ++ packBits (ceilDiv bits.length 8) bits ++ List.replicate (ceilDiv n 8 * 8 - n) 0)

/-- Decode bits: values in order, or nothing where a code is invalid or runs past the end. -/
def decodeBits (cs : List (Nat × List (Nat × Nat))) : Nat → Nat → List Bool → List Byte → Option (List Byte)
  | 0, _, [], acc => some acc.reverse
  | _, _, [], _ => none
  | len, code, b :: r, acc =>
    let code := 2 * code + (if b then 1 else 0)
    match (cs.find? (·.1 == len + 1)).bind fun x => x.2.find? (·.1 == code) with
    | some y => decodeBits cs 0 0 r (BitVec.ofNat 8 y.2 :: acc)
    | none => if 15 ≤ len + 1 then none else decodeBits cs (len + 1) code r acc

/-- The bytes of a block's payload; nothing when it is damaged (R240). -/
def decodePayload (coded : Bool) (bits_ len : Nat) (body : List Byte) : Option (List Byte) :=
  if !coded then (if body.length = ceilDiv len 8 * 8 then some (body.take len) else none)
  else
    let n := 128 + ceilDiv bits_ 8
    if body.length ≠ ceilDiv n 8 * 8 then none
    else
      let ls := tableLengths (body.take 128)
      let all := unpackBits (body.drop 128)
      if ls.all (· == 0) || decide (2 ^ 15 < kraft ls) || (all.drop bits_).any id then none
      else match decodeBits (canonical ls) 0 0 (all.take bits_) [] with
        | some bs => if bs.length = len then some bs else none
        | none => none

end Sys2Proof.Machine
end

