-- ==== Sys2Proof/Machine/Wain.lean ====
section
/-!
DEFINITION. The Wain engines (R232 to R256): streams and their blocks, pushes, moves and pulls, and the home's side of an ownership
handover.
-/

namespace Sys2Proof.Machine

/-! ## Descriptors (R254, R255) -/

/-- SRC_DEV of WAIN_MOVE. -/
def Cmd.wSrcDev (c : Cmd) : Nat := c.fld 3 0 24
/-- DST_DEV of WAIN_MOVE. -/
def Cmd.wDstDev (c : Cmd) : Nat := c.fld 3 24 24
/-- TENANT. -/
def Cmd.wTenant (c : Cmd) : Nat := if c.op = 1 then c.fld 7 40 24 else c.fld 3 37 24
/-- COMPRESS. -/
def Cmd.wCompress (c : Cmd) : Bool := bitAt (if c.op = 1 then 48 else 35) (c.w 3)
/-- LAYER of WAIN_PUSH_KV. -/
def Cmd.wLayer (c : Cmd) : Nat := c.fld 3 24 8
/-- POOL of WAIN_PUSH_KV. -/
def Cmd.wPool (c : Cmd) : Nat := c.fld 3 32 3
/-- HANDLE of WAIN_PUSH_KV. -/
def Cmd.wHandle (c : Cmd) : Nat := c.fld 7 0 32
/-- FIRST_ENTRY of WAIN_PUSH_KV. -/
def Cmd.wFirst (c : Cmd) : Nat := c.fld 7 32 16
/-- COUNT of WAIN_PUSH_KV. -/
def Cmd.wCount (c : Cmd) : Nat := c.fld 7 48 16

/-- Reserved bits. -/
def wainReserved (x : Cmd) : Bool :=
  decide (x.flags / 4 ≠ 0) || decide (x.fld 4 0 16 ≠ 0) || (if x.op = 1 then decide (x.fld 3 49 15 ≠ 0) else decide (x.fld 3 61 3 ≠ 0))

/-- A misaligned or overlapping range, LENGTH 0, COUNT outside its range, neither end here (R252, R255). -/
def State.wainBadOperand (s : State) (x : Cmd) (lb : Nat) : Bool :=
  if x.op = 1 then
    x.w 1 % 64 != 0 || x.w 2 % 64 != 0 || x.wLen == 0 || x.wLen % 64 != 0 || (x.wSrcDev != s.self && x.wDstDev != s.self) ||
      decide (2 ^ 48 < x.w 1 + x.wLen) || decide (2 ^ 48 < x.w 2 + x.wLen) ||
      (x.wSrcDev == x.wDstDev && overlap (x.w 1) x.wLen (x.w 2) x.wLen)
  else
    x.w 1 % 64 != 0 || x.w 2 % 8 != 0 || x.wCount == 0 || decide (32768 < x.wCount) || decide (32768 < x.wFirst + x.wCount) ||
      decide (2 ^ 48 < x.w 1 + x.wCount * lb)

/-- The checks of R255. -/
def wainChecks (c : Nat) (s : State) (x : Cmd) : Checks :=
  let pool := if x.op = 2 then s.pool x.lodge x.wPool else (none, St.ok)
  { first := if !s.on Reg.wanCtrlEnable || decide (s.stage < (if x.op = 1 then 2 else 4)) then St.notReady else St.ok
    reserved := wainReserved x
    range := decide (2 ^ 16 ≤ x.wTenant) || decide (2 ^ 18 ≤ x.fld 3 0 24) || (x.op == 1 && decide (2 ^ 18 ≤ x.wDstDev))
    mid := if s.tenantLodge x.wTenant ≠ some x.lodge then St.badTenant else St.ok
    rest :=
      if pool.2 ≠ St.ok then pool.2
      else if s.wainBadOperand x (match pool.1 with | some p => p.layerBytes | none => 0) then St.badOperand
      else if (s.core c).quarantined then St.coreQuarantined
      else St.ok }

/-! ## Engines (R232, R233) -/

/-- Streams open on an engine: sent, pulled and received ones. -/
def State.engLoad (s : State) (n : Nat) : Nat :=
  (s.wan.streams.filter fun e => e.2.engine == some n).length + (s.wan.pulls.filter fun e => e.2.engine == some n).length +
    (s.wan.recvs.filter fun e => e.2 == n).length

/-- The unreserved engine with the fewest open streams that has room. -/
def State.freeEngine (s : State) : Option Nat :=
  ((natsFrom s.wan.eng (16 - s.wan.eng)).filter fun n => s.engLoad n < s.rd Reg.wanCfgStreams).foldl (fun (b : Option Nat) n =>
    match b with
    | none => some n
    | some m => if s.engLoad n < s.engLoad m then some n else some m) none

/-! ## Blocks of a stream -/

/-- Blocks of a stream. -/
def Stream.total (x : Stream) : Nat := (x.segs.map fun g => blocksOf g.2.2).foldl (· + ·) 0

/-- Block `i` of a stream: source address, word 3, bytes. -/
def segBlock (kv : Bool) : List (Nat × Nat × Nat) → Nat → Option (Nat × Nat × Nat)
  | [], _ => none
  | (a, w, n) :: r, i =>
    if i < blocksOf n then some (a + 65536 * i, if kv then w + 64 * i * 2 ^ 48 else w + 65536 * i, min 65536 (n - 65536 * i))
    else segBlock kv r (i - blocksOf n)

/-- The command of a stream may send: it runs, or the stream serves a PULL. -/
def State.streamLive (s : State) (x : Stream) : Bool :=
  match x.cmd with
  | none => true
  | some c => match s.job x.core x.place with | some j => j.cmd == c && j.st == .run | none => false

/-- Put a stream. -/
def State.setStream (s : State) (k : Nat) (x : Stream) : State := { s with wan := { s.wan with streams := Tbl.put k x s.wan.streams } }
/-- Close a stream. -/
def State.closeStream (s : State) (k : Nat) : State := { s with wan := { s.wan with streams := Tbl.del k s.wan.streams } }.settleEng
/-- Close every stream and pull of a place. -/
def State.dropStreams (s : State) (c p : Nat) : State :=
  { s with wan := { s.wan with streams := s.wan.streams.filter fun e => !(e.2.core == c && e.2.place == p && e.2.cmd.isSome),
                               pulls := s.wan.pulls.filter fun e => !(e.2.core == c && e.2.place == p) } }.settleEng

/-- The command in a place is in KILL: what its blocks meet ends the wait for them and nothing else (R90, R253). -/
def State.inKill (s : State) (c p : Nat) : Bool := match s.job c p with | some j => j.st == .kill | none => false

/-- A WAIN command ends with a status, unless it is killed already: its streams close; the statuses of R255 fault its lodge context, SPAN_TIMEOUT orphans it. -/
def State.wainFail (s : State) (c p dst status : Nat) : State :=
  match s.job c p with
  | none => s.dropStreams c p
  | some j =>
    if j.st = .kill then s
    else
    let s := (s.dropStreams c p).endFar c p status
    let ring := if j.cmd.sched then 0xFF else j.cmd.ring
    if status = St.spanTimeout then s.orphanLodge j.cmd.lodge status 2 j.cmd.core ring j.cmd.tag j.cmd.wTenant dst
    else if ([St.notOwner, St.poolMismatch, St.badPagelist, St.noLodge, St.wainDamaged].contains status) then
      s.faultLodge j.cmd.lodge status 2 j.cmd.core ring j.cmd.tag
    else s

/-- Send one block of a stream (R236, R239): raw when it is a resend or no shorter coded. The status of reading its source. -/
def State.sendBlock (s : State) (x : Stream) (seq : Nat) (raw : Bool) : State × Nat :=
  match segBlock x.kv.isSome x.segs seq with
  | none => (s, St.ok)
  | some (a, w3, n) =>
    let st := s.readStatus x.lodge a n
    if st ≠ St.ok then (s.raiseUncorr x.lodge st [(a, n)], st)
    else
      let bs := s.peek x.lodge a n
      let coded := if x.compress && s.on Reg.wanCtrlCompEn && !raw then some (wainEncode bs) else none
      let (mode, nbits, body) := match coded with
        | some (k, b) => if b.length < n then (1, k, b) else (0, 0, bs)
        | none => (0, 0, bs)
      let kv := match x.kv with | some _ => 1 | none => 0
      let (w4, w5) := x.kv.getD (0, 0)
      let m := mkMsg (0x40 + mode * 2 ^ 12 + kv * 2 ^ 13) s.self x.tenant [x.id + seq * 2 ^ 32, n + nbits * 2 ^ 20, w3, w4, w5] body
      let s := ((s.touch x.lodge a n false).count Reg.wanBlkTxCount).count Reg.wanRawCount n
      let s := s.count Reg.wanWireCount body.length
      (s.sendReq 8 x.lodge x.dst m, St.ok)

/-- A stream fails with a status. -/
def State.streamFail (s : State) (k : Nat) (x : Stream) (status : Nat) : State :=
  let s := if status = St.wainDamaged then s.setBit Reg.wanErrBits 0
    else if status = St.spanTimeout then s.setBit Reg.wanErrBits 2 else s
  if x.cmd.isSome && !s.inKill x.core x.place then s.wainFail x.core x.place x.dst status else s.closeStream k

/-- A stream fails for a cause at this end; the device whose PULL it serves is told (R241, R255). -/
def State.streamLost (s : State) (k : Nat) (x : Stream) (seq status : Nat) : State :=
  let s := s.streamFail k x status
  if x.cmd.isSome then s
  else (s.bump Reg.wanNakTxCount).send 8 x.lodge x.dst (mkMsg 0x42 s.self x.tenant [x.id + seq * 2 ^ 32, 2 + status * 2 ^ 8] [])

/-- Streams of an engine that have a block to send and room in their window (R234). -/
def State.sendable (s : State) (n : Nat) : List (Nat × Stream) :=
  s.wan.streams.filter fun e => e.2.engine == some n && s.streamLive e.2 && decide (e.2.next < e.2.total) &&
    decide (e.2.open_.length < s.rd Reg.wanCfgWindow)

/-- The stream whose turn it is on an engine (R24, R232): lodges by weight, then the streams of the lodge in turn. -/
def State.engTurn (s : State) (n : Nat) : Wan × Option Nat :=
  let xs := s.sendable n
  let (cur, w) := wrrGrant s.wan.cur (16 * n) (fun l => s.rd Reg.lodCfgWeight l) (sortDedup (xs.map (·.2.lodge)))
  match w with
  | none => (s.wan, none)
  | some l =>
    match rrPick (Tbl.get 0 (16 * n + l) s.wan.ptr) ((xs.filter fun e => e.2.lodge == l).map (·.1)) with
    | none => (s.wan, none)
    | some k => ({ s.wan with cur := cur, ptr := Tbl.set 0 (16 * n + l) (k + 1) s.wan.ptr }, some k)

/-- A stream sends its next block. -/
def State.sendNext (s : State) (k : Nat) : State :=
  match Tbl.find k s.wan.streams with
  | none => s
  | some x =>
    let (s, st) := s.sendBlock x x.next false
    if st ≠ St.ok then s.streamLost k x x.next st else s.setStream k { x with next := x.next + 1, open_ := x.open_ ++ [(x.next, 0)] }

/-- An engine after it has chosen. -/
def State.setWan (s : State) (w : Wan) : State := { s with wan := w }

/-- An engine sends block after block, its streams in turn, while one has room. -/
def State.pumpEngine (s : State) (n : Nat) : Nat → State
  | 0 => s
  | fuel + 1 =>
    match (s.engTurn n).2 with
    | none => s
    | some k => ((s.setWan (s.engTurn n).1).sendNext k).pumpEngine n fuel

/-- The engine of a stream sends what the windows allow: at most 16 blocks of each of 8 streams, and a failure of each. -/
def State.pump (s : State) (k : Nat) : State :=
  match (Tbl.find k s.wan.streams).bind (·.engine) with
  | some n => s.pumpEngine n 136
  | none => s

/-- Every engine does. -/
def State.pumpAll (s : State) : State := (natsFrom 0 16).foldl (fun (s : State) n => s.pumpEngine n 136) s

/-- Open a stream: on an engine, or waiting for one (R233). -/
def State.openStream (s : State) (k : Nat) (x : Stream) : State := (s.setStream k { x with engine := s.freeEngine }).pump k

/-! ## The receiver (R240, R241, R249) -/

/-- The header of a block is damaged (R240). -/
def blockDamaged (m : Msg) : Bool :=
  let n := m.fld 2 0 17
  bits 8 4 m.kind != 0 || bits 14 2 m.kind != 0 || m.fld 2 17 3 != 0 || m.fld 2 40 24 != 0 || m.word 6 != 0 || m.word 7 != 0 ||
  m.fld 4 59 5 != 0 || m.fld 5 48 16 != 0 || decide (n < 64) || decide (65536 < n) || n % 64 != 0

/-- Where a block is to be written, or why it is refused (R241, R249). -/
def State.blockDst (s : State) (l : Nat) (kv : Bool) (w3 w4 w5 n : Nat) : Nat × Nat :=
  if !kv then (if w3 % 64 ≠ 0 then (0, St.addrFault) else (w3, s.accessStatus l w3 n))
  else
    match s.pool l (bits 56 3 w4) with
    | (none, st) => (0, st)
    | (some p, _) =>
      let page := bits 0 40 w3
      let layer := bits 40 8 w3
      let off := bits 48 16 w3 * 1024
      let dst := p.layerAddr page layer + off
      if p.pages ≤ page ∨ p.layers ≤ layer ∨ p.layerBytes < off + n then (0, St.badPagelist)
      else if bits 0 48 w5 ≠ p.key then (0, St.poolMismatch)
      else
        let st := firstBad [s.hdrStatus l p page, s.accessStatus l dst n]
        if st ≠ St.ok then (0, st)
        else if !s.mayAppend l p page (bits 32 24 w4) (bits 0 32 w4) then (0, St.notOwner)
        else (dst, St.ok)

/-- BLOCK_NAK. -/
def State.nak (s : State) (m : Msg) (reason status : Nat) : State :=
  let s := if reason = 2 then s.setBit Reg.wanErrBits 1 else s
  (s.bump Reg.wanNakTxCount).answer m 0x42 [m.word 1, reason + status * 2 ^ 8] []

/-- A block whose BLOCK_ACK waits for copies to go. -/
def State.holdAck (s : State) (m : Msg) (ts : List Nat) : State := { s with wan := { s.wan with acks := s.wan.acks ++ [(m, ts)] } }

/-- Write a block that passed every check, charged to its lodge: copies of its lines go first, then BLOCK_ACK (R234). -/
def State.writeBlock (s : State) (l dst : Nat) (m : Msg) (bs : List Byte) : State :=
  let (s, ts) := ((s.chargePath (s.pathAt l dst) l bs.length).poke l dst bs).invalTracked l dst bs.length 20 none 160 15
  let s := s.count Reg.wanBlkRxCount
  if ts = [] then s.ackBlock m else s.holdAck m ts

/-- An engine takes a stream that is received here. -/
def State.putRecv (s : State) (k e : Nat) : State := { s with wan := { s.wan with recvs := Tbl.put k e s.wan.recvs } }

/-- A block waits. -/
def State.holdBlock (s : State) (m : Msg) : State := { s with wan := { s.wan with held := s.wan.held ++ [m] } }

/-- A block that passed every check goes to the engine of its stream: of an own pull, or the one that its stream holds or takes now; with none, or
while the regulator of the tier holds its lodge back, it waits (R233, R289, R291). -/
def State.placeBlock (s : State) (l dst : Nat) (m : Msg) (bs : List Byte) : State :=
  if !s.mayTake l dst then s.holdBlock m
  else if (s.pullOf m).isSome || (Tbl.find (recvKey m) s.wan.recvs).isSome then s.writeBlock l dst m bs
  else
    match s.freeEngine with
    | some e => (s.putRecv (recvKey m) e).writeBlock l dst m bs
    | none => s.holdBlock m

/-- A pull fails; one of a killed command only closes. -/
def State.pullFail (s : State) (id : Nat) (p : Pull) (status : Nat) : State :=
  if s.inKill p.core p.place then s.closePull id else s.wainFail p.core p.place p.dev status

/-- WAIN_BLOCK (R240, R241, R283). -/
def State.blockIn (s : State) (m : Msg) : State :=
  let n := m.fld 2 0 17
  match (if blockDamaged m then none else decodePayload (bitAt 12 m.kind) (m.fld 2 20 20) n m.body) with
  | none => s.nak m 1 0
  | some bs =>
    match s.tenantLodge m.tenant with
    | none => s.nak m 2 St.noLodge
    | some l =>
      let (dst, st) := if (!s.on Reg.wanCtrlEnable && (s.pullOf m).isNone) || s.lodge l == 4 || s.lodge l == 5 then (0, St.notReady)
        else s.blockDst l (bitAt 13 m.kind) (m.word 3) (m.word 4) (m.word 5) n
      if st ≠ St.ok then
        let s := s.nak m 2 st
        match s.pullOf m with
        | some p => s.pullFail (m.fld 1 0 32) p st
        | none => s
      else s.placeBlock l dst m bs

/-! ## The sender's answers (R234, R235, R241) -/

/-- The stream that an answer names. -/
def State.streamOf (s : State) (m : Msg) : Option (Nat × Stream) :=
  let id := m.fld 1 0 32
  let k := (m.src + 1) * 2 ^ 32 + id
  match Tbl.find k s.wan.streams with
  | some x => some (k, x)
  | none => match Tbl.find id s.wan.streams with
    | some x => if x.dst = m.src then some (id, x) else none
    | none => none

/-- BLOCK_ACK: the window moves on; a stream with every block acknowledged completes. -/
def State.blockAckIn (s : State) (m : Msg) : State :=
  match s.streamOf m with
  | none => s
  | some (k, x) =>
    let x := { x with open_ := x.open_.filter (·.1 != m.fld 1 32 32) }
    let s := s.setStream k x
    if x.open_ = [] ∧ x.total ≤ x.next then ((s.closeStream k).wainDone x.core x.place).settlePrompt
    else (s.pump k).settlePrompt

/-- BLOCK_NAK. -/
def State.blockNakIn (s : State) (m : Msg) : State :=
  let s := s.bump Reg.wanNakRxCount
  match s.streamOf m with
  | none =>
    -- a served PULL that its source refuses
    match s.pullOf m with
    | some p => if m.fld 2 0 8 = 2 then s.pullFail (m.fld 1 0 32) p (m.fld 2 8 8) else s
    | none => s
  | some (k, x) =>
    if m.fld 2 0 8 = 2 then s.streamFail k x (m.fld 2 8 8)
    else
      match x.open_.find? (·.1 == m.fld 1 32 32) with
      | none => s
      | some (seq, n) =>
        if s.rd Reg.wanCfgResendMax ≤ n then s.streamLost k x seq St.wainDamaged
        else if !s.streamLive x then s
        else
          let (s, st) := s.sendBlock x seq true
          if st ≠ St.ok then s.streamLost k x seq st
          else (s.setStream k { x with open_ := x.open_.map fun b => if b.1 = seq then (seq, n + 1) else b }).bump Reg.wanResendCount

/-- BLOCK_TIMEOUT: a stream, or a pull that gets no block. -/
def State.blockTimeout (s : State) (k : Nat) : State :=
  match Tbl.find k s.wan.streams with
  | some x => if x.open_ = [] then s else s.streamFail k x St.spanTimeout
  | none =>
    match Tbl.find k s.wan.pulls with
    | some p => if p.engine.isSome then (s.setBit Reg.wanErrBits 2).pullFail k p St.spanTimeout else s
    | none => s

/-! ## WAIN_MOVE (R252) -/

/-- PULL goes out once the receiving stream has an engine. -/
def State.sendPull (s : State) (id : Nat) (p : Pull) : State :=
  match s.freeEngine with
  | none => s.setPull id { p with engine := none }
  | some e =>
    (s.setPull id { p with engine := some e }).sendReq 8 p.cmd.lodge p.dev (mkMsg 0x48 s.self p.cmd.wTenant
      [p.cmd.w 1, p.cmd.w 2, p.cmd.wLen + (if p.cmd.wCompress then 2 ^ 40 else 0), id] [])

/-- The next STREAM_ID. -/
def State.takeId (s : State) : State × Nat := ({ s with wan := { s.wan with nextId := (s.wan.nextId + 1) % 2 ^ 32 } }, s.wan.nextId)

/-- WAIN_MOVE in RUN. -/
def State.wainMove (s : State) (c p : Nat) (j : Job) : State :=
  let x := j.cmd
  let l := x.lodge
  if j.result ≠ 0 then s
  else if x.wSrcDev = s.self ∧ x.wDstDev = s.self then
    let st := firstBad [s.readStatus l (x.w 1) x.wLen, s.accessStatus l (x.w 2) x.wLen]
    if st ≠ St.ok then s.endJob c p j st
    else (s.touch l (x.w 1) x.wLen false).toFence c p { j with direct := [(x.w 2, s.peek l (x.w 1) x.wLen)] }
  else if s.noRoute l (if x.wSrcDev = s.self then x.wDstDev else x.wSrcDev) then s.endJob c p j 0x61
  else
    let s := s.setJob c p { j with result := 1 }
    let (s, id) := s.takeId
    if x.wSrcDev = s.self then
      s.openStream id { core := c, place := p, cmd := some x, dst := x.wDstDev, id := id, tenant := x.wTenant, lodge := l, engine := none,
                        compress := x.wCompress, kv := none, segs := [(x.w 1, x.w 2, x.wLen)], next := 0, open_ := [] }
    else s.sendPull id { core := c, place := p, cmd := x, dev := x.wSrcDev, engine := none, got := [] }

/-- A PULL is refused. -/
def State.refusePull (s : State) (m : Msg) (status : Nat) : State :=
  (s.bump Reg.wanNakTxCount).answer m 0x42 [m.fld 4 0 32, 2 + status * 2 ^ 8] []

/-- PULL at the source. -/
def State.pullIn (s : State) (m : Msg) : State :=
  let id := m.fld 4 0 32
  match s.tenantLodge m.tenant with
  | none => s.refusePull m St.noLodge
  | some l =>
    let n := m.fld 3 0 40
    let st := if !s.on Reg.wanCtrlEnable then St.notReady else s.readStatus l (m.word 1) n
    if st ≠ St.ok then (s.raiseUncorr l st [(m.word 1, n)]).refusePull m st
    else
      s.openStream ((m.src + 1) * 2 ^ 32 + id)
        { core := 160, place := 15, cmd := none, dst := m.src, id := id, tenant := m.tenant, lodge := l, engine := none,
          compress := bitAt 40 (m.word 3), kv := none, segs := [(m.word 1, m.word 2, n)], next := 0, open_ := [] }

/-! ## WAIN_PUSH_KV (R249 to R251) -/

/-- Why an entry of this home cannot be written, with the checks of R249: the refusal, else what reading its source says. -/
def State.hereStatus (s : State) (l w4 w5 : Nat) (g : Nat × Nat × Nat) : Nat :=
  firstBad [(s.blockDst l true g.2.1 w4 w5 g.2.2).2, s.readStatus l g.1 g.2.2]

/-- Open a stream of a push; it sends once all of them are placed. -/
def State.addStream (s : State) (x : Stream) : State :=
  (s.takeId.1).setStream s.takeId.2 { x with id := s.takeId.2, engine := s.freeEngine }

/-- The list of a push is known: one stream for each HOME; what lies at this home is written at the commit point, without a stream (log 105). -/
def State.pushGo (s : State) (c p : Nat) (j : Job) (ws : List Nat) : State :=
  let x := j.cmd
  match (s.pool x.lodge x.wPool).1 with
  | none => s.wainFail c p 0 St.badPool
  | some pool =>
    let lb := pool.layerBytes
    let segs := ((natsFrom 0 ws.length).zip ws).map fun e => (wordHome e.2, x.w 1 + e.1 * lb, wordPage e.2 + x.wLayer * 2 ^ 40, lb)
    let w4 := x.wHandle + x.fld 3 0 24 * 2 ^ 32 + x.wPool * 2 ^ 56
    let here := (segs.filter (·.1 == s.self)).map (·.2)
    let x4 : Stream := { core := c, place := p, cmd := some x, dst := 0, id := 0, tenant := x.wTenant, lodge := x.lodge, engine := none,
                         compress := x.wCompress, kv := some (w4, pool.key), segs := [], next := 0, open_ := [] }
    if segs.any fun g => s.noRoute x.lodge g.1 then s.endJob c p j 0x61
    else if segs.any fun g => s.wan.quiet.contains (g.1, x.wHandle) then s.wainFail c p s.self St.notOwner
    else
    match here.find? fun g => s.hereStatus x.lodge w4 pool.key g != St.ok with
    | some g => (s.raiseUncorr x.lodge (s.hereStatus x.lodge w4 pool.key g) [(g.1, lb)]).wainFail c p s.self (s.hereStatus x.lodge w4 pool.key g)
    | none =>
      let direct := here.map fun g => ((s.blockDst x.lodge true g.2.1 w4 pool.key g.2.2).1, s.peek x.lodge g.1 g.2.2)
      let s := here.foldl (fun (s : State) g => s.touch x.lodge g.1 g.2.2 false) s
      let s := s.setJob c p { j with direct := direct }
      let s := (sortDedup ((segs.filter (·.1 != s.self)).map (·.1))).foldl (fun (s : State) h =>
        s.addStream { x4 with dst := h, segs := (segs.filter (·.1 == h)).map (·.2) }) s
      s.pumpAll.wainDone c p

/-- WAIN_PUSH_KV in RUN: its list first, from LIST_DEV. -/
def State.wainPush (s : State) (c p : Nat) (j : Job) : State :=
  let x := j.cmd
  if j.result ≠ 0 then s
  else
    let s := s.setJob c p { j with result := 1 }
    let dev := x.fld 3 0 24
    let a := x.w 2 + 8 * x.wFirst
    if dev = s.self then
      let st := s.readStatus x.lodge a (8 * x.wCount)
      if st ≠ St.ok then (s.raiseUncorr x.lodge st [(a, 8 * x.wCount)]).wainFail c p dev st else s.pushGo c p { j with result := 1 } (s.listWords x.lodge (x.w 2) x.wFirst x.wCount)
    else if s.noRoute x.lodge dev then s.endJob c p j 0x61
    else
      (pieces (8 * x.wCount)).foldl (fun s (o, n) =>
        s.issue { kind := 19, engine := 8, dst := dev, lodge := x.lodge, core := c, place := p, cmd := some x, addr := 0, off := a + o, len := n,
                  aux := o, stale := false, msg := mkMsg 0x61 s.self x.wTenant [0, a + o, n] [], reply := none }) s

/-- A read of a push's list is answered: with all of them the streams open. -/
def State.pushReply (s : State) (tag : Nat) (m : Msg) : State :=
  match Tbl.find tag s.spn.out with
  | none => s
  | some pd =>
    match s.owner pd with
    | none => s.closeTag tag
    | some j =>
      let st := m.fld 1 32 8
      if st ≠ St.ok then (s.wainFail pd.core pd.place pd.dst st).dropReplies pd.core pd.place
      else
        let s := s.keepReply tag m
        if s.allAnswered pd.core pd.place then
          let ps := (s.pendsOf pd.core pd.place).filter fun e => e.2.kind == 19
          let bs := (natsFrom 0 (ceilDiv (8 * j.cmd.wCount) 65536)).flatMap fun i =>
            match ps.find? fun e => e.2.aux == 65536 * i with
            | some e => (match e.2.reply with | some r => r.body.take e.2.len | none => [])
            | none => []
          let ws := (natsFrom 0 j.cmd.wCount).map fun k => leNat ((bs.drop (8 * k)).take 8)
          let s := s.dropReplies pd.core pd.place
          match s.job pd.core pd.place with
          | some j => s.pushGo pd.core pd.place j ws
          | none => s
        else s

/-- What the commit of a WAIN command sends: LAYER_ACK (R250). -/
def State.wainCommit (s : State) (x : Cmd) : State :=
  if x.klass = 4 ∧ x.op = 2 then
    s.sendReq 8 x.lodge (x.fld 3 0 24) (mkMsg 0x47 s.self x.wTenant
      [x.wHandle + x.wLayer * 2 ^ 32 + (if bitAt 36 (x.w 3) then 2 ^ 40 else 0) + x.wCount * 2 ^ 48] [])
  else s

/-- Blocks of a stream that waited for an engine or for their lodge's regulator are taken up again, in order. -/
def State.takeHeld (s : State) (k : Nat) : State :=
  let ms := s.wan.held.filter fun m => recvKey m == k
  ms.foldl (fun (s : State) m => s.blockIn m) { s with wan := { s.wan with held := s.wan.held.filter fun m => recvKey m != k } }

/-- Every block that waits is tried again. -/
def State.retakeHeld (s : State) : State := (sortDedup (s.wan.held.map recvKey)).foldl (fun (s : State) k => s.takeHeld k) s

/-- Lodge and path of a block that its lodge's regulator holds back. -/
def State.heldPath (s : State) (m : Msg) : Option (Nat × Nat) :=
  match s.tenantLodge m.tenant with
  | none => none
  | some l =>
    let d := s.blockDst l (bitAt 13 m.kind) (m.word 3) (m.word 4) (m.word 5) (m.fld 2 0 17)
    if d.2 = St.ok ∧ !s.mayTake l d.1 then some (l, s.pathAt l d.1) else none

/-- STREAM_PLACE: a waiting stream, sent, pulled or received, takes an engine that has room (R233). -/
def State.streamPlace (s : State) (k : Nat) : State :=
  match Tbl.find k s.wan.streams with
  | some x => if x.engine = none then s.openStream k x else s
  | none =>
    match Tbl.find k s.wan.pulls with
    | some p => if p.engine = none then s.sendPull k p else s
    | none => s.takeHeld k

/-! ## Handover at the home (R244, R245) -/

/-- Put a handover. -/
def State.setHand (s : State) (k : Nat) (h : Hand) : State := { s with wan := { s.wan with hands := Tbl.put k h s.wan.hands } }

/-- FENCE to OLD_DEV. -/
def State.sendFence (s : State) (h : Hand) : State :=
  s.send 8 h.lodge (h.msg.fld 1 32 24) (mkMsg 0x44 s.self h.msg.tenant [h.msg.fld 1 0 32] [])

/-- The reserved engine with the fewest handovers, the lowest first. -/
def State.handEngine (s : State) : Nat :=
  let load (n : Nat) : Nat := (s.wan.hands.filter fun h => h.2.engine == n).length
  (natsFrom 0 s.wan.eng).foldl (fun b n => if load n < load b then n else b) 0

/-- The reads of the list a HANDOVER_REQ names, at the device that sent it: the state, and the tags of the requests. -/
def State.handReads (s : State) (l : Nat) (m : Msg) : State × List Nat :=
  (listPieces (m.fld 3 0 32) (m.fld 3 32 32)).foldl (fun (a : State × List Nat) (i, n) =>
    let p := a.1.listPend 18 l m.src m.tenant (m.word 2 + 8 * i) (8 * n) (i - m.fld 3 0 32) []
    let (s, t) := a.1.ask { p with addr := farKey m.src (m.fld 1 0 32) }
    (s, a.2 ++ [t])) (s, [])

/-- HANDOVER_REQ: the list is read from G. -/
def State.handoverReqIn (s : State) (m : Msg) : State :=
  let k := farKey m.src (m.fld 1 0 32)
  let h : Hand := ⟨m, (s.tenantLodge m.tenant).getD 0, s.handEngine, [], [], false, [], none⟩
  let count := m.fld 3 32 32
  if s.tenantLodge m.tenant = none then s.endHand k h St.noLodge 0
  else if !s.on Reg.wanCtrlEnable || s.lodge h.lodge == 4 || s.lodge h.lodge == 5 then s.endHand k h St.notReady 0
  else if 32768 < m.fld 3 0 32 + count then s.endHand k h St.badPagelist 0
  else
    let (s, ts) := s.handReads h.lodge m
    if ts = [] then (s.setHand k h).sendFence h else s.setHand k { h with reading := ts }

/-- A list read of a handover is answered: with all of them the entries are checked and FENCE goes out. -/
def State.handList (s : State) (tag : Nat) (m : Msg) : State :=
  match Tbl.find tag s.spn.out with
  | none => s
  | some pd =>
    match Tbl.find pd.addr s.wan.hands with
    | none => s.closeTag tag
    | some h =>
      let st := m.fld 1 32 8
      let rest := h.reading.filter (· != tag)
      if st ≠ St.ok then
        ({ s with spn := { s.spn with out := s.spn.out.filter fun e => !(e.2.kind == 18 && e.2.addr == pd.addr) } } : State).endHand pd.addr h st 0
      else
        let s := (s.keepReply tag m).setHand pd.addr { h with reading := rest }
        if rest ≠ [] then s
        else
          let ps := s.spn.out.filter fun e => e.2.kind == 18 && e.2.addr == pd.addr
          let s : State := { s with spn := { s.spn with out := s.spn.out.filter fun e => !(e.2.kind == 18 && e.2.addr == pd.addr) } }
          let words (i : Nat) : Nat :=
            match ps.find? fun e => decide (e.2.aux ≤ i) && decide (i < e.2.aux + e.2.len / 8) with
            | some e => (match e.2.reply with | some r => leNat ((r.body.drop (8 * (i - e.2.aux))).take 8) | none => 0)
            | none => 0
          let ws := (natsFrom 0 (h.msg.fld 3 32 32)).map words
          match (s.pool h.lodge (h.msg.fld 1 56 3)) with
          | (none, st) => s.endHand pd.addr h st 0
          | (some p, _) =>
            if ws.any fun w => wordHome w != s.self || decide (p.pages ≤ wordPage w) then s.endHand pd.addr h St.badPagelist 0
            else
              (s.setHand pd.addr { h with reading := [], pages := ws.map wordPage }).sendFence h

/-- The requests of a device that this home has accepted and not completed; a PULL that is served stands for itself. -/
def State.acceptedFrom (s : State) (dev : Nat) : List Msg :=
  ((s.spn.homeq.map (·.msg) ++ s.att.queue.map (·.msg) ++ s.emb.queue.map (·.msg) ++ s.wan.acks.map (·.1) ++ s.wan.held ++
    s.ldg.pageOps.map (·.2.1) ++ s.ldg.allocs.map (·.1)).filter fun m => m.src == dev) ++
  (s.wan.streams.filter fun e => e.2.cmd.isNone && e.2.dst == dev).map fun e => mkMsg 0x48 dev e.2.tenant [e.2.id] []

/-- FENCE_ACK at the home. -/
def State.fenceAckIn (s : State) (m : Msg) : State :=
  match s.wan.hands.find? fun h => h.2.msg.fld 1 0 32 == m.fld 1 0 32 && h.2.msg.fld 1 32 24 == m.src && !h.2.fenced && h.2.reading == [] with
  | none => s
  | some (k, h) => s.setHand k { h with fenced := true, earlier := s.acceptedFrom m.src }

/-- Recall the tracked copies of a page's lines held by a device other than `keep` (R191, R245): the tags awaited. -/
def State.recallPage (s : State) (l addr n keep : Nat) : State × List Nat :=
  (s.dirIn l addr n).foldl (fun (a : State × List Nat) e =>
    let others := e.2.sharers.filter (· != keep)
    if others = [] then a
    else
      let kept := e.2.sharers.filter (· == keep)
      let s : State := { a.1 with mem := { a.1.mem with dir := if kept = [] ∧ e.2.dies = [] then Tbl.del e.1 a.1.mem.dir
                                                               else Tbl.put e.1 { e.2 with sharers := kept } a.1.mem.dir } }
      let (s, ts) := others.foldl (fun (b : State × List Nat) d =>
        let (s, t) := b.1.tell (b.1.lineInval 7 d e.1 160 15)
        (s, b.2 ++ [t])) (s.bump Reg.memDirRecallCount, [])
      ({ s with mem := { s.mem with recalls := s.mem.recalls ++ [(e.1, ts)] } }, a.2 ++ ts)) (s, [])

/-- A page of a handover that may change its owner, or has done so (R245): the old owner's with SHARE 0, or the new one's. -/
def State.movesOwner (s : State) (h : Hand) (p : Pool) (n : Nat) : Bool :=
  (s.hdr h.lodge p n 0 == ownerWord (h.msg.fld 1 32 24) (h.msg.fld 1 0 32) && s.share h.lodge p n == 0) ||
  s.hdr h.lodge p n 0 == ownerWord h.msg.src (h.msg.fld 1 0 32)

/-- Every page of a handover gets the new owner. -/
def State.newOwner (s : State) (h : Hand) (p : Pool) : State :=
  h.pages.foldl (fun (s : State) n => s.setHdr h.lodge p n 0 (ownerWord h.msg.src (h.msg.fld 1 0 32))) s

/-- The copies of the lines of its pages that other devices than the new owner hold are recalled: the tags awaited. -/
def State.recallPages (s : State) (h : Hand) (p : Pool) : State × List Nat :=
  h.pages.foldl (fun (a : State × List Nat) n =>
    let (s, t) := a.1.recallPage h.lodge (p.pageAddr n) p.pageBytes h.msg.src
    (s, a.2 ++ t)) (s, [])

/-- The pages of a handover have changed their owner: it ends, or waits for the copies recalled. -/
def State.ownerMoved (s : State) (k : Nat) (h : Hand) (ts : List Nat) : State :=
  if ts = [] then s.endHand k { h with recalls := some [] } St.ok h.pages.length else s.setHand k { h with recalls := some ts }

/-- OWNERSHIP_CHANGE with its pool read: every page or none. -/
def State.moveOwner (s : State) (k : Nat) (h : Hand) (p : Pool) : State :=
  let st := firstBad (h.pages.map fun n => s.hdrStatus h.lodge p n)
  if st ≠ St.ok then s.endHand k h st 0
  else if !h.pages.all (s.movesOwner h p) then s.endHand k h St.notOwner 0
  else
    let (s, ts) := (s.newOwner h p).recallPages h p
    s.ownerMoved k h ts

/-- A handover waits: for its fence, for a request accepted earlier, or for the copies recalled. -/
def State.handWaits (s : State) (h : Hand) : Bool :=
  !h.fenced || h.recalls.isSome || h.earlier.any (s.acceptedFrom (h.msg.fld 1 32 24)).contains

/-- OWNERSHIP_CHANGE (R245): once the earlier requests are complete. -/
def State.ownershipChange (s : State) (k : Nat) : State :=
  match Tbl.find k s.wan.hands with
  | none => s
  | some h =>
    if s.handWaits h then s
    else
      match (s.pool h.lodge (h.msg.fld 1 56 3)) with
      | (none, st) => s.endHand k h st 0
      | (some p, _) => s.moveOwner k h p

/-- FENCE_TIMEOUT (R244). -/
def State.fenceTimeout (s : State) (k : Nat) : State :=
  match Tbl.find k s.wan.hands with
  | none => s
  | some h => if h.fenced ∨ h.reading ≠ [] then s else s.endHand k h St.spanTimeout 0

/-! ## The commands -/

/-- WAIN_MOVE (R252). -/
def execWainMove (core : Fin 160) (place : Fin 4) (s : State) : Out :=
  .next (s.runSlot core (wainPlace place) 4 1 (wainChecks core) fun s j => (s.setJob core (wainPlace place) j).wainMove core (wainPlace place) j).choices
/-- WAIN_PUSH_KV (R250). -/
def execWainPushKv (core : Fin 160) (place : Fin 4) (s : State) : Out :=
  .next (s.runSlot core (wainPlace place) 4 2 (wainChecks core) fun s j => (s.setJob core (wainPlace place) j).wainPush core (wainPlace place) j).choices
/-- WAIN_BLOCK (R240). -/
def execWainBlock (m : Msg) (s : State) : Out := .next (s.blockIn m).choices
/-- BLOCK_ACK (R234). -/
def execBlockAck (m : Msg) (s : State) : Out := .next (s.blockAckIn m).choices
/-- BLOCK_NAK (R241). -/
def execBlockNak (m : Msg) (s : State) : Out := .next (s.blockNakIn m).choices
/-- BLOCK_TIMEOUT (R235). -/
def execBlockTimeout (stream : Nat) (s : State) : Out := .next (s.blockTimeout stream).choices
/-- STREAM_PLACE (R233). -/
def execStreamPlace (stream : Nat) (s : State) : Out := .next (s.streamPlace stream)
/-- HANDOVER_REQ (R244). -/
def execHandoverReq (m : Msg) (s : State) : Out := .next (s.handoverReqIn m).choices
/-- FENCE_ACK (R244). -/
def execFenceAck (m : Msg) (s : State) : Out := .next (s.fenceAckIn m).choices
/-- OWNERSHIP_CHANGE (R245). -/
def execOwnershipChange (device handle : Nat) (s : State) : Out := .next (s.ownershipChange (farKey device handle)).choices
/-- FENCE_TIMEOUT (R244). -/
def execFenceTimeout (device handle : Nat) (s : State) : Out := .next (s.fenceTimeout (farKey device handle)).choices
/-- PULL (R252). -/
def execPull (m : Msg) (s : State) : Out := .next (s.pullIn m).choices

end Sys2Proof.Machine
end

