-- ==== Sys2Proof/Machine/Replies.lean ====
section
/-!
DEFINITION. Answers to span requests and their absence (R379, R383, R390, R395), handed to the agent that asked: SPAN and MEMORY
commands, attention, the ledger, the Wain engines.
-/

namespace Sys2Proof.Machine

/-- The kind of a request outstanding. -/
def State.pendKind (s : State) (tag : Nat) : Option Nat := (Tbl.find tag s.spn.out).map (·.kind)

/-- SP_READ_RSP. -/
def State.readReply (s : State) (m : Msg) : State :=
  match s.pendKind m.tag with
  | some 15 => s.pageListRead m.tag m.status m.body
  | some 18 => s.handList m.tag m
  | some 19 => s.pushReply m.tag m
  | _ => s.spReadRspIn m

/-- SP_ACK. -/
def State.ackReply (s : State) (m : Msg) : State :=
  match s.pendKind m.tag with
  | some 16 => s.listWritten m.tag m.status
  | _ => s.spAckIn m

/-- A timeout is counted (R390). -/
def State.countTimeout (s : State) : State := (s.bump Reg.spnTimeoutCntCount).setBit Reg.spnErrBits 0

/-- SPAN_TIMEOUT. -/
def State.noReply (s : State) (tag : Nat) : State :=
  match Tbl.find tag s.spn.out with
  | none => s
  | some pd =>
    if pd.reply.isSome then s
    else
      match pd.kind with
      | 15 => s.countTimeout.pageListRead tag St.spanTimeout []
      | 16 => s.countTimeout.listWritten tag St.spanTimeout
      | 18 =>
        let s := s.countTimeout.closeTag tag
        match Tbl.find pd.addr s.wan.hands with
        | some h => s.endHand pd.addr h St.spanTimeout 0
        | none => s
      | 19 =>
        let own := (s.owner pd).isSome
        let s := s.countTimeout.closeTag tag
        if own then (s.wainFail pd.core pd.place pd.dst St.spanTimeout).dropReplies pd.core pd.place else s
      | _ => s.spanTimeout tag

/-- SP_READ_RSP (R383). -/
def execSpReadRsp (m : Msg) (s : State) : Out := .next (s.readReply m).choices
/-- SP_ACK (R395). -/
def execSpAck (m : Msg) (s : State) : Out := .next (s.ackReply m).choices
/-- SPAN_TIMEOUT (R390). -/
def execSpanTimeout (tag : Nat) (s : State) : Out := .next (s.noReply tag).choices
/-- ATT_RSP (R162); a fence that waited for an append is answered (R244). -/
def execAttRsp (m : Msg) (s : State) : Out := .next (s.attReply (m.fld 1 0 32) { m with w := m.w.take 7 }).settlePrompt.choices

end Sys2Proof.Machine
end

