-- ==== Sys2Proof/Machine/Embed.lean ====
section
/-!
DEFINITION. Embedding tables (R257 to R273): table records and row directories, lookups and their combination, prefetch, versioned row
replacement.
-/

namespace Sys2Proof

/-! ## EMB_REQ bodies (R271) -/

/-- Bag lengths of an EMB_REQ. -/
def Msg.embLens (m : Msg) : List Nat := (natsFrom 0 (m.fld 3 0 15)).map fun i => m.at_ (4 * i) 4
/-- Bytes of `n` 32-bit words, padded. -/
def padWords (n : Nat) : Nat := ceilDiv (4 * n) 8 * 8
/-- Its local rows. -/
def Msg.embRows (m : Msg) : List Nat := (natsFrom 0 (m.fld 3 16 21)).map fun i => m.at_ (padWords (m.fld 3 0 15) + 4 * i) 4
/-- Its weights. -/
def Msg.embWeights (m : Msg) : List Machine.F32 :=
  (natsFrom 0 (m.fld 3 16 21)).map fun i =>
    if bitAt 40 (m.word 1) then BitVec.ofNat 32 (m.at_ (padWords (m.fld 3 0 15) + padWords (m.fld 3 16 21) + 4 * i) 4) else 0x3F800000

end Sys2Proof

namespace Sys2Proof.Machine

/-! ## Tables (R257, R258) -/

/-- A table record. -/
structure ETable where
  /-- ROWS -/
  rows : Nat
  /-- D -/
  d : Nat
  /-- H -/
  h : Nat
  /-- TABLE_KEY -/
  key : Nat
  /-- DIR_ADDR -/
  dir : Nat
  /-- HEAP_ADDR -/
  heap : Nat
  /-- HEAP_LEN -/
  len : Nat
  /-- the home list -/
  homes : List Nat
  /-- SELF -/
  self : Nat
  /-- IS_HOME -/
  isHome : Bool
  deriving DecidableEq, Repr

/-- The address of record `t` of a lodge. -/
def State.tableAddr (s : State) (l t : Nat) : Nat := s.rd Reg.embTblAddr l * 64 + 64 * t

/-- Strictly ascending. -/
def ascending : List Nat → Bool
  | a :: b :: r => decide (a < b) && ascending (b :: r)
  | _ => true

/-- The record of a table when it meets R257; else the status. -/
def State.table (s : State) (l t : Nat) : Option ETable × Nat :=
  let a := s.tableAddr l t
  let st := s.readStatus l a 64
  if st = St.memUncorr then (none, st)
  else if st ≠ St.ok then (none, St.badTable)
  else
    let w (i : Nat) := s.peekNat l (a + 8 * i) 8
    let h := bits 48 7 (w 0)
    let list := w 5
    let spare := bits 43 5 (w 0) != 0 || bits 55 8 (w 0) != 0 || bits 48 16 (w 1) != 0 || bits 48 16 (w 2) != 0 || bits 48 16 (w 3) != 0 ||
      bits 38 26 (w 4) != 0 || bits 48 16 (w 5) != 0 || bits 7 57 (w 6) != 0 || w 7 != 0
    let homes := (natsFrom 0 h).map fun i => s.peekNat l (list + 4 * i) 4
    let e : ETable := ⟨bits 0 32 (w 0), bits 32 11 (w 0), h, bits 0 48 (w 1), bits 0 48 (w 2), bits 0 48 (w 3), bits 0 38 (w 4), homes,
      bits 0 6 (w 6), bitAt 6 (w 6)⟩
    if !bitAt 63 (w 0) || spare || e.rows == 0 || decide (e.d < 32) || decide (1024 < e.d) || e.d % 32 != 0 || h == 0 || decide (64 < h) ||
        e.dir % 64 != 0 || e.heap % 64 != 0 || e.len % 64 != 0 || s.readStatus l list (4 * h) != St.ok || !ascending homes ||
        homes.any (fun x => decide (2 ^ 24 ≤ x)) || (e.isHome && (decide (h ≤ e.self) || homes.getD e.self 0 != s.self)) then
      (none, St.badTable)
    else (some e, St.ok)

/-- Local rows of a home. -/
def ETable.localRows (e : ETable) : Nat := if e.rows ≤ e.self then 0 else ceilDiv (e.rows - e.self) e.h

/-- A row's format by code, with its bytes. -/
def rowFmt (code : Nat) : Option Fmt := if code = 8 ∨ code = 9 ∨ code = 10 then Fmt.ofCode code else none

/-- The slot of a directory entry: format code, heap offset in 64-byte units, scale. -/
def dirSlot (w0 w1 w2 : Nat) (b : Bool) : Nat × Nat × Nat :=
  if b then (bits 4 4 w0, bits 32 32 w1, bits 32 32 w2) else (bits 0 4 w0, bits 0 32 w1, bits 0 32 w2)

/-! ## Partial sums at a home (R261 to R263) -/

/-- Where a local row lies: format, address and bytes of its current slot, and its scale; or a status (R262, R263). -/
def State.rowSlot (s : State) (l : Nat) (e : ETable) (r : Nat) : Nat ⊕ (Fmt × Nat × Nat × Nat) :=
  if e.localRows ≤ r then .inl St.badIndex
  else
    let a := e.dir + 32 * r
    let st := s.readStatus l a 32
    if st ≠ St.ok then .inl st
    else
      let w (i : Nat) := s.peekNat l (a + 8 * i) 8
      let (c, off, sc) := dirSlot (w 0) (w 1) (w 2) (bitAt 8 (w 0))
      match rowFmt c with
      | none => .inl St.badIndex
      | some f =>
        let n := f.bytesOf e.d
        if e.len < 64 * off + ceilDiv n 64 * 64 then .inl St.addrFault
        else
          let st := s.readStatus l (e.heap + 64 * off) n
          if st ≠ St.ok then .inl st else .inr (f, e.heap + 64 * off, n, sc)

/-- What reading a row reads. -/
def State.rowReads (s : State) (l : Nat) (e : ETable) (r : Nat) : List (Nat × Nat) :=
  match s.rowSlot l e r with
  | .inl _ => []
  | .inr (_, a, n, _) => [(e.dir + 32 * r, 32), (a, n)]

/-- One row: its elements with the flags of decoding them (R259, R63), or a status. -/
def State.embRow (s : State) (l : Nat) (e : ETable) (r : Nat) : Nat ⊕ Fl (List F32) :=
  match s.rowSlot l e r with
  | .inl st => .inl st
  | .inr (f, a, n, sc) =>
    let bs := s.peek l a n
    .inr (Fl.mapList (fun i => if f == .fp16 then decode32 f (elemAt f bs i) 0 else decodeRow32 f (elemAt f bs i) sc) (natsFrom 0 e.d))

/-- The partial of one bag: rows with weights, in order; the status and position of the first bad one. -/
def State.embBag (s : State) (l : Nat) (e : ETable) : Nat → List (Nat × F32) → Fl (List F32) → (Nat × Nat) ⊕ Fl (List F32)
  | _, [], acc => .inr acc
  | k, (r, w) :: rest, acc =>
    match s.embRow l e r with
    | .inl st => .inl (st, k)
    | .inr xs => s.embBag l e (k + 1) rest (xs.bind fun x => acc.bind fun a => Fl.zipList (fma32 w) x a)

/-- The partials of every bag; a bag with no row here is absent. -/
def State.embBags (s : State) (l : Nat) (e : ETable) : Nat → List Nat → List (Nat × F32) → (Nat × Nat) ⊕ Fl (List (Option (List F32)))
  | _, [], _ => .inr (Fl.pure [])
  | k, n :: ns, rows =>
    match s.embBag l e k (rows.take n) (Fl.pure (List.replicate e.d 0)), s.embBags l e (k + n) ns (rows.drop n) with
    | .inl x, _ => .inl x
    | _, .inl x => .inl x
    | .inr acc, .inr r => .inr (acc.bind fun a => r.map ((if n = 0 then none else some a) :: ·))

/-! ## The home's queue (R265, R271) -/

/-- EMB_RSP or EMB_UPD_RSP with a status. -/
def embRsp (self : Nat) (m : Msg) (status pos : Nat) (rest : List Nat) (body : List Byte) : Msg :=
  ⟨if m.kind = 0x50 then 0x51 else 0x53, self, m.tenant, (m.fld 1 0 32 + status * 2 ^ 32 + pos % 2 ^ 24 * 2 ^ 40) :: rest, body⟩

/-- An answer without a result: of an EMB_REQ with NBAGS and a bitmap in which no bag is present (R271). -/
def embRefusal (self : Nat) (m : Msg) (status pos : Nat) : Msg :=
  if m.kind = 0x50 then embRsp self m status pos [0, m.fld 3 0 15] (List.replicate (8 * ceilDiv (m.fld 3 0 15) 64) 0)
  else embRsp self m status pos [0] []

/-- What a message is refused with before its effect; ENABLE does not stop the part of a command of this device (R273). -/
def State.embGate (s : State) (m : Msg) : Nat :=
  if !s.on Reg.embCtrlEnable && m.src != s.self then St.notReady
  else match s.tenantLodge m.tenant with
    | none => St.noLodge
    | some l =>
      if m.src ≠ s.self ∧ (s.rd Reg.lodPersonaPersona = 0 ∨ s.lodge l = 4 ∨ s.lodge l = 5) then St.notReady
      else match s.table l (m.fld 1 32 8) with
        | (some e, _) => if e.key = m.fld 2 0 48 ∧ e.isHome then St.ok else St.tableMismatch
        | (none, st) => if st = St.memUncorr then st else St.tableMismatch

/-- A promotion waits for an engine, or is skipped when the engines' queue is full (R264). -/
def State.queueProm (s : State) (k : Nat) : State :=
  if s.emb.prom.length < Config.promQueue then { s with emb := { s.emb with prom := s.emb.prom ++ [k] } } else s.bump Reg.embPfSkipCount

/-- The page of one row of an EMB_PREFETCH: one that may go to T1 is promoted, or waits for an engine (R264). -/
def State.fetchRow (s : State) (l : Nat) (e : ETable) (r : Nat) : State :=
  let a := e.dir + 32 * r
  if e.localRows ≤ r ∨ s.readStatus l a 32 ≠ St.ok then s
  else
    let w (i : Nat) := s.peekNat l (a + 8 * i) 8
    let (c, off, _) := dirSlot (w 0) (w 1) (w 2) (bitAt 8 (w 0))
    let k := pageKey l (pageOf (e.heap + 64 * off))
    if (rowFmt c).isNone || !s.embMobile k || s.emb.prom.contains k then s
    else if s.engineFree then s.embPromote k
    else s.queueProm k

/-- The pages of an EMB_PREFETCH. -/
def State.embFetch (s : State) (l : Nat) (e : ETable) (rows : List Nat) : State := rows.foldl (fun (s : State) r => s.fetchRow l e r) s

/-- The bitmap and values of an EMB_RSP. -/
def embBody (ps : List (Option (List F32))) : List Byte :=
  (natsFrom 0 (ceilDiv ps.length 64)).flatMap (fun i =>
    leBytes 8 (((natsFrom 0 64).zip ((ps.drop (64 * i)).take 64)).foldl (fun a x => if x.2.isSome then a + 2 ^ x.1 else a) 0)) ++
  ps.flatMap fun p => match p with | some xs => xs.flatMap fun x => leBytes 4 x.toNat | none => []

/-- Flags of arithmetic for a command of this device at its own home. -/
def State.noteFlags (s : State) (tag : Nat) (f : Flags) : State :=
  match (Tbl.find tag s.spn.out).bind fun pd => (s.owner pd).map fun j => (pd, j) with
  | some (pd, j) => s.setJob pd.core pd.place { j with flags := j.flags ||| f }
  | none => s

/-- An uncorrectable error in a directory entry or a row (R263, R273). -/
def State.embUncorr (s : State) (l : Nat) (e : ETable) (st : Nat) : State :=
  if st = St.memUncorr then (s.setBit Reg.embErrBits 3).raiseUncorr l st [(e.dir, 32 * e.localRows), (e.heap, e.len)] else s

/-- Serve an EMB_REQ. The flags of a command of this device reach its record; no field carries them to another device (log 106). -/
def State.embServe (s : State) (l : Nat) (m : Msg) : State × Msg :=
  match (s.table l (m.fld 1 32 8)).1 with
  | none => (s, embRefusal s.self m St.tableMismatch 0)
  | some e =>
    let nb := m.fld 3 0 15
    let s := if m.src = s.self then s else s.count Reg.embReqCntCount
    if bitAt 41 (m.word 1) then
      (if s.stage = 4 then s.embFetch l e m.embRows else s,
        embRsp s.self m St.ok 0 [0, nb] (embBody (m.embLens.map fun n => if n = 0 then none else some [])))
    else
      match s.embBags l e 0 m.embLens (m.embRows.zip m.embWeights) with
      | .inl (st, k) =>
        let s := s.touchReads l ((m.embRows.take k).flatMap (s.rowReads l e))
        (s.embUncorr l e st, embRefusal s.self m st k)
      | .inr ps =>
        let s := (s.touchReads l (m.embRows.flatMap (s.rowReads l e))).count Reg.embIdxCount (m.fld 3 16 21)
        (if m.src = s.self then s.noteFlags (m.fld 1 0 32) ps.fl else s, embRsp s.self m St.ok 0 [0, nb] (embBody ps.val))

/-- Bytes of ranges that lie in a tier. -/
def State.tierBytes (s : State) (l : Nat) (rs : List (Nat × Nat)) (tier : Nat) : Nat :=
  (rs.flatMap fun r => (pagesOf r.1 r.2).map fun pg =>
    if (s.page l (pg * 2 ^ 21)).map (·.tier) = some tier then min (r.1 + r.2) ((pg + 1) * 2 ^ 21) - max r.1 (pg * 2 ^ 21) else 0).foldl (· + ·) 0

/-- What the rows of a lookup take from the regulators of the three tiers (R262). -/
def State.embBytes (s : State) (l : Nat) (rs : List (Nat × Nat)) : Nat × Nat × Nat :=
  (s.tierBytes l rs 1, s.tierBytes l rs 2, s.tierBytes l rs 3)

/-- The regulators of the home's lodge grant what they can (R262, R289). -/
def State.embGrant (s : State) (l : Nat) (n : Nat × Nat × Nat) : State × (Nat × Nat × Nat) :=
  let a := s.grantAll 0 l n.1
  let b := a.1.grantAll 1 l n.2.1
  let c := b.1.grantAll 2 l n.2.2
  (c.1, a.2, b.2, c.2)

/-- An EMB_REQ at the home: its answer, or none while a stack that holds rows is suspended for temperature or grants are due (R126, R192, R262). -/
def State.embTry (s : State) (w : EmbWork) : State × Option Msg × EmbWork :=
  match (s.table w.lodge (w.msg.fld 1 32 8)).1 with
  | none => (s, some (embRefusal s.self w.msg St.tableMismatch 0), w)
  | some e =>
    let rs := if bitAt 41 (w.msg.word 1) then [] else w.msg.embRows.flatMap (s.rowReads w.lodge e)
    if s.suspendedAt (s.keysOf w.lodge rs) then (s, none, w)
    else
      let g := s.embGrant w.lodge (w.left.getD (s.embBytes w.lodge rs))
      if g.2 = (0, 0, 0) then
        let v := g.1.embServe w.lodge w.msg
        (v.1, some v.2, w)
      else (g.1, none, { w with left := some g.2 })

/-- Row `i` of an EMB_UPD: offset of its record in the body. -/
def updOffset (d : Nat) (m : Msg) : Nat → Nat
  | 0 => 0
  | i + 1 =>
    let o := updOffset d m i
    let n := match rowFmt (m.at_ (o + 4) 1 % 16) with | some f => f.bytesOf d | none => 0
    o + 32 + ceilDiv n 64 * 64

/-- What comes of row `i` of an update: 0 to be applied, 1 applied already, 2 in conflict, or 16 + a status. -/
def State.updRow (s : State) (l : Nat) (e : ETable) (m : Msg) (i : Nat) : Nat :=
  let o := updOffset e.d m i
  let r := m.at_ o 4
  let a := e.dir + 32 * r
  if e.localRows ≤ r then 16 + St.badIndex
  else
    let st := s.readStatus l a 32
    if st ≠ St.ok then 16 + st
    else
      let cur := s.peekNat l (a + 4) 4
      let v := m.at_ (o + 12) 4
      if v = (cur + 1) % 2 ^ 32 then
        match rowFmt (m.at_ (o + 4) 1 % 16) with
        | none => 16 + St.badOperand
        | some f =>
          let off := m.at_ (o + 8) 4
          if e.len < 64 * off + ceilDiv (f.bytesOf e.d) 64 * 64 then 16 + St.addrFault
          else
            let st := s.accessStatus l (e.heap + 64 * off) (f.bytesOf e.d)
            if st ≠ St.ok then 16 + st else 0
      else if (cur + 2 ^ 32 - v) % 2 ^ 32 < 2 ^ 31 then 1 else 2

/-- Write a row and flip its entry in one step (R265). -/
def State.flipRow (s : State) (l : Nat) (e : ETable) (m : Msg) (i : Nat) : State :=
  let o := updOffset e.d m i
  let a := e.dir + 32 * m.at_ o 4
  let c := m.at_ (o + 4) 1 % 16
  match rowFmt c with
  | none => s
  | some f =>
    let off := m.at_ (o + 8) 4
    let n := f.bytesOf e.d
    let s := (s.poke l (e.heap + 64 * off) ((m.body.drop (o + 32)).take n))
    let s := (s.invalTracked l (e.heap + 64 * off) n 6 none 160 15).1
    let w0 := s.peekNat l a 8
    let w1 := s.peekNat l (a + 8) 8
    let w2 := s.peekNat l (a + 16) 8
    let b := !bitAt 8 w0
    let lo := if b then 32 else 0
    let w0 := putBits 32 32 (m.at_ (o + 12) 4) (putBits 8 1 (if b then 1 else 0) (putBits (if b then 4 else 0) 4 c w0))
    let s := s.poke l a (leBytes 8 w0 ++ leBytes 8 (putBits lo 32 off w1) ++ leBytes 8 (putBits lo 32 (m.at_ (o + 16) 4) w2))
    (s.invalTracked l a 32 6 none 160 15).1.count Reg.embUpdCntCount

/-- Rows of an update that need no flip are passed over; it stops at the first that does: the work, and its end. -/
def State.updPass (s : State) (e : ETable) : Nat → EmbWork → EmbWork × Option Nat
  | 0, w => (w, some St.ok)
  | fuel + 1, w =>
    if w.msg.fld 3 0 16 ≤ w.next then (w, some St.ok)
    else
      let r := s.updRow w.lodge e w.msg w.next
      if r = 0 then (w, none)
      else if r = 1 then s.updPass e fuel { w with next := w.next + 1, applied := w.applied + 1 }
      else if r = 2 then s.updPass e fuel { w with next := w.next + 1, conflict := w.conflict + 1 }
      else (w, some (r - 16))

/-! ## The requester (R261, R263) -/

/-- A command that ends with BAD_INDEX carries the position in RESULT (R263). -/
def State.badIndex (s : State) (c p k : Nat) : State :=
  match s.job c p with
  | none => s
  | some j =>
    let s := ((s.dropJob c p).releaseJob j).finish j.cmd j.cmd.core St.badIndex j.flags k
    (s.bump Reg.embBadidxCount).setBit Reg.embErrBits 0

/-- NBAGS, or COUNT of an update. -/
def Cmd.eCount (c : Cmd) : Nat := c.fld 3 48 16
/-- TABLE. -/
def Cmd.eTable (c : Cmd) : Nat := c.fld 7 52 8
/-- IDX_ADDR or LIST_ADDR. -/
def Cmd.eIdx (c : Cmd) : Nat := c.fld 1 0 48
/-- WGT_ADDR. -/
def Cmd.eWgt (c : Cmd) : Nat := c.fld 2 0 48
/-- BAG_ADDR. -/
def Cmd.eBag (c : Cmd) : Nat := c.fld 3 0 48
/-- OUT_ADDR. -/
def Cmd.eOut (c : Cmd) : Nat := c.fld 7 0 48
/-- WEIGHTED. -/
def Cmd.eWeighted (c : Cmd) : Bool := bitAt 2 c.flags
/-- FMT_C is BF16. -/
def Cmd.eFmt (c : Cmd) : Nat := c.fld 7 48 4

/-- The bag offsets of a command. -/
def State.bags (s : State) (x : Cmd) : List Nat := (natsFrom 0 (x.eCount + 1)).map fun i => s.peekNat x.lodge (x.eBag + 4 * i) 4

/-- The indices of a command with their bag, position, and weight. -/
def State.embIdx (s : State) (x : Cmd) : List (Nat × Nat × Nat × Nat) :=
  let b := s.bags x
  (natsFrom 0 x.eCount).flatMap fun i =>
    (natsFrom (b.getD i 0) (b.getD (i + 1) 0 - b.getD i 0)).map fun k =>
      (i, k, s.peekNat x.lodge (x.eIdx + 4 * k) 4, if x.eWeighted then s.peekNat x.lodge (x.eWgt + 4 * k) 4 else 0x3F800000)

/-- The EMB_REQ for one home, from its part of the indices. -/
def State.embReqMsg (s : State) (x : Cmd) (e : ETable) (part : List (Nat × Nat × Nat × Nat)) : Msg :=
  let words (l : List Nat) : List Byte := l.flatMap (leBytes 4) ++ List.replicate (ceilDiv (4 * l.length) 8 * 8 - 4 * l.length) 0
  { kind := 0x50, src := s.self, tenant := s.tenantFor x.lodge,
    w := [x.eTable * 2 ^ 32 + (if x.eWeighted then 2 ^ 40 else 0) + (if x.op = 2 then 2 ^ 41 else 0), e.key, x.eCount + part.length * 2 ^ 16],
    body := words ((natsFrom 0 x.eCount).map fun i => (part.filter (·.1 == i)).length) ++ words (part.map fun i => i.2.2.1 / e.h) ++
      (if x.eWeighted then words (part.map fun i => i.2.2.2) else []) }

/-- The values of bag `i` in an answer, when its bit is set. -/
def rspBag (m : Msg) (nb d i : Nat) : Option (List F32) :=
  if !bitAt (i % 64) (m.at_ (8 * (i / 64)) 8) then none
  else
    let before := ((natsFrom 0 i).filter fun k => bitAt (k % 64) (m.at_ (8 * (k / 64)) 8)).length
    let o := ceilDiv nb 64 * 8 + before * d * 4
    some ((natsFrom 0 d).map fun k => BitVec.ofNat 32 (m.at_ (o + 4 * k) 4))

/-- The first offending positions that the homes of a command have answered with BAD_INDEX (R263); an update has none, and 0 stands for it. -/
def State.badPos (s : State) (x : Cmd) (rs : List Pend) : List Nat :=
  let ix := s.embIdx x
  rs.filterMap fun q =>
    match q.reply with
    | some m =>
      if m.fld 1 32 8 ≠ St.badIndex then none
      else if q.kind ≠ 10 then some 0
      else
        let part := ix.filter fun i => match (s.table x.lodge x.eTable).1 with | some e => i.2.2.1 % e.h == q.aux | none => false
        some (part.getD (m.fld 1 40 24) (0, 0, 0, 0)).2.1
    | none => none

/-- Every answer of a command has come: a bad index ends it with the first offending position (R263); else the partials of a lookup are added in
list order and stored (R261). -/
def State.embFinish (s : State) (c p : Nat) (j : Job) : State :=
  let x := j.cmd
  let rs := (((s.pendsOf c p).filter fun q => q.2.reply.isSome).map (·.2))
  let s0 := s.dropReplies c p
  if s.badPos x rs ≠ [] then s0.badIndex c p ((s.badPos x rs).foldl min 1048576)
  else if x.op = 2 then s0.toFence c p { j with result := 0 }
  else if x.op = 3 then
    s0.toFence c p { j with result := (rs.map fun q => match q.reply with | some m => m.fld 2 16 16 | none => 0).foldl (· + ·) 0 }
  else
    match (s.table x.lodge x.eTable).1 with
    | none => s0.endFar c p St.badTable
    | some e =>
      let parts := (natsFrom 0 e.h).filterMap fun i => (rs.find? fun q => q.aux == i).bind (·.reply)
      let f : Fmt := if x.eFmt = 0 then .fp32 else .bf16
      let row (i : Nat) : Fl (List Byte) :=
        let sum := Fl.fold (fun acc v => Fl.zipList add32 acc v) (List.replicate e.d (0 : F32)) (parts.filterMap fun m => rspBag m x.eCount e.d i)
        (sum.bind fun v => Fl.mapList (encodeOne f) v).map fun cs => cs.flatMap (leBytes (if x.eFmt = 0 then 4 else 2))
      let rows := (natsFrom 0 x.eCount).map row
      let flags := (rows.map (·.fl)).foldl (· ||| ·) 0
      let n := e.d * (if x.eFmt = 0 then 4 else 2)
      s0.endRun c p j ⟨((natsFrom 0 x.eCount).zip rows).map fun r => ⟨0, x.eOut + r.1 * n, r.2.val⟩, flags ||| j.flags, 0, [], 0⟩

/-- An answer to an embedding message of this device. -/
def State.embReply (s : State) (tag : Nat) (m : Msg) : State :=
  match Tbl.find tag s.spn.out with
  | none => s
  | some pd =>
    if (pd.kind ≠ 10 ∧ pd.kind ≠ 11) ∨ pd.reply.isSome then s
    else
      match s.owner pd with
      | none => s.closeTag tag
      | some _ =>
        let (c, p) := (pd.core, pd.place)
        let st := m.fld 1 32 8
        if st ≠ St.ok ∧ st ≠ St.badIndex then
          let s := if st = St.tableMismatch then s.setBit Reg.embErrBits 1 else s
          ((s.closeTag tag).endFarFault c p st (farFault st || st == St.tableMismatch)).dropReplies c p
        else
          let s := s.keepReply tag m
          match s.job c p with
          | some j => if s.allAnswered c p then s.embFinish c p j else s
          | none => s

/-- An answer on its way: to another device, or to this device's own command. -/
def State.embDeliver (s : State) (l : Nat) (dst : Nat) (m : Msg) : State :=
  if dst = s.self then s.embReply (m.fld 1 0 32) m else s.send 8 l dst m

/-! ## The pump of the home's queue -/

/-- Move the queue on: what may be served is served; an update stops at a row that waits for ROW_FLIP. -/
def State.embDrain (s : State) : List EmbWork → List EmbWork → State
  | [], keep => { s with emb := { s.emb with queue := keep } }
  | w :: r, keep =>
    if keep.any fun v => v.msg.src == w.msg.src then s.embDrain r (keep ++ [w])
    else if w.msg.kind = 0x50 then
      match s.embTry w with
      | (s, some m, _) => (s.embDeliver w.lodge w.msg.src m).embDrain r keep
      | (s, none, v) => s.embDrain r (keep ++ [v])
    else
      match (s.table w.lodge (w.msg.fld 1 32 8)).1 with
      | none => (s.embDeliver w.lodge w.msg.src (embRefusal s.self w.msg St.tableMismatch 0)).embDrain r keep
      | some e =>
        let (v, fin) := s.updPass e (w.msg.fld 3 0 16 + 1) w
        let new := v.conflict - w.conflict
        let s := if new = 0 then s else (s.bump Reg.embConflictCount new).setBit Reg.embErrBits 4
        match fin with
        | none => s.embDrain r (keep ++ [v])
        | some st => ((s.embUncorr v.lodge e st).embDeliver v.lodge v.msg.src (embRsp s.self v.msg st 0 [v.applied % 2 ^ 16 + v.conflict % 2 ^ 16 * 2 ^ 16] [])).embDrain r keep

/-- What is in the queue goes on as far as it can. -/
def State.embGo (s : State) : State :=
  let q := s.emb.queue
  ({ s with emb := { s.emb with queue := [] } } : State).embDrain q []

/-- A message goes into the home queue, unless it is refused. -/
def State.embTake (s : State) (m : Msg) : State :=
  let g := s.embGate m
  if g ≠ St.ok then s.embDeliver ((s.tenantLodge m.tenant).getD 16) m.src (embRefusal s.self m g 0)
  else ({ s with emb := { s.emb with queue := s.emb.queue ++ [⟨m, (s.tenantLodge m.tenant).getD 0, 0, 0, 0, none⟩] } } : State).embGo

/-- Messages held back go into the home queue while it has room, oldest first (R25). -/
def State.embRoom (s : State) : Nat → State
  | 0 => s
  | n + 1 =>
    match s.emb.held with
    | [] => s
    | m :: r =>
      if s.emb.queue.length < 512 then ((({ s with emb := { s.emb with held := r } } : State).unstick m).embTake m).embRoom n else s

/-- Look at the queue again, and then at what is held back for it. -/
def State.embPump (s : State) : State :=
  let s := s.embGo
  s.embRoom s.emb.held.length

/-- A message is offered to the home queue: with 512 there, or others held back already, it is held back (R25, R272). -/
def State.embAccept (s : State) (m : Msg) : State :=
  if 512 ≤ s.emb.queue.length ∨ s.emb.held ≠ [] then { s with emb := { s.emb with held := s.emb.held ++ [m] } } else s.embTake m

/-- ROW_FLIP: the oldest update that waits writes its row and flips it; no lookup is reading, since each is served whole. -/
def State.rowFlip (s : State) : State :=
  match s.emb.queue.find? fun w => w.msg.kind == 0x52 with
  | none => s
  | some w =>
    match (s.table w.lodge (w.msg.fld 1 32 8)).1 with
    | none => s.embPump
    | some e =>
      if s.updRow w.lodge e w.msg w.next ≠ 0 then s.embPump
      else
        let s := s.flipRow w.lodge e w.msg w.next
        let go (v : EmbWork) : EmbWork := if v = w then { v with next := v.next + 1, applied := v.applied + 1 } else v
        ({ s with emb := { s.emb with queue := s.emb.queue.map go } } : State).embPump

/-! ## EMBED commands (R268 to R270) -/

/-- Reserved bits. -/
def embReserved (x : Cmd) : Bool :=
  decide (x.flags / 8 ≠ 0) || decide (x.fld 4 0 16 ≠ 0) || x.fld 1 48 16 != 0 || x.fld 2 48 16 != 0 || x.fld 7 60 4 != 0 ||
  (if x.op = 3 then x.w 2 != 0 || x.eBag != 0 || x.fld 7 0 52 != 0
   else (!x.eWeighted && x.eWgt != 0) || (x.op == 2 && x.fld 7 0 52 != 0))

/-- What reading the arrays of a command meets. -/
def State.embRead (s : State) (x : Cmd) : Nat :=
  if x.op = 3 then s.readStatus x.lodge x.eIdx (32 * x.eCount)
  else
    let st := s.readStatus x.lodge x.eBag (4 * (x.eCount + 1))
    if st ≠ St.ok then st
    else
      let n := (s.bags x).getLastD 0
      firstBad [s.readStatus x.lodge x.eIdx (4 * n), if x.eWeighted then s.readStatus x.lodge x.eWgt (4 * n) else St.ok]

/-- Record `i` of an update list. -/
def State.updRec (s : State) (x : Cmd) (i k : Nat) : Nat := s.peekNat x.lodge (x.eIdx + 32 * i + 8 * k) 8

/-- D of the table of a command. -/
def State.tableD (s : State) (x : Cmd) : Nat := match (s.table x.lodge x.eTable).1 with | some e => e.d | none => 0

/-- BAD_OPERAND of R270, and of R82 for an output that runs past the lodge's range (R104, R268). -/
def State.embBadOperand (s : State) (x : Cmd) : Bool :=
  x.eCount == 0 || x.eIdx % 64 != 0 ||
  (if x.op = 3 then (natsFrom 0 x.eCount).any fun i =>
      (rowFmt (bits 32 4 (s.updRec x i 0))).isNone || bits 36 28 (s.updRec x i 0) != 0 || bits 32 32 (s.updRec x i 2) != 0 ||
        bits 48 16 (s.updRec x i 3) != 0 || s.updRec x i 3 % 64 != 0
   else
     let b := s.bags x
     x.eBag % 64 != 0 || b.headD 0 != 0 || (b.zip (b.drop 1)).any (fun y => decide (y.2 < y.1)) || decide (1048576 < b.getLastD 0) ||
       (x.op == 1 && (decide (1 < x.eFmt) || decide (2 ^ 48 < x.eOut + x.eCount * (s.tableD x * (if x.eFmt = 0 then 4 else 2))))))

/-- The checks of R270. -/
def embChecks (c : Nat) (s : State) (x : Cmd) : Checks :=
  { first := if !s.on Reg.embCtrlEnable || (x.op != 2 && decide (s.stage < 2)) then St.notReady else St.ok
    reserved := embReserved x
    range := x.op != 3 && decide (16384 < x.eCount)
    mid := (s.table x.lodge x.eTable).2
    rest :=
      if s.embRead x ≠ St.ok ∧ x.eCount ≠ 0 ∧ (s.embRead x ≠ St.addrFault ∨ x.op = 3 ∨ (s.bags x).getLastD 0 ≤ 1048576) then s.embRead x
      else if s.embBadOperand x then St.badOperand
      else if (s.core c).quarantined then St.coreQuarantined
      else St.ok }

/-- One message of a command: to another device, or, for this one, kept back with its tag. -/
def State.embSend (s : State) (c p : Nat) (x : Cmd) (kind pos dev : Nat) (m : Msg) : State × List Msg :=
  let pd : Pend := { kind := kind, engine := 8, dst := dev, lodge := x.lodge, core := c, place := p, cmd := some x, addr := 0, off := 0, len := 0,
                     aux := pos, stale := false, msg := m, reply := none }
  if (s.owner pd).isNone then (s, [])
  else if dev ≠ s.self then (s.issue pd, [])
  else
    let t := s.spn.nextTag
    let m := m.tagged t
    let s := { s with spn := { s.spn with nextTag := (t + 1) % 2 ^ 32, out := Tbl.put t { pd with msg := m } s.spn.out } }
    (s.awaitTag c p t, [m])

/-- The messages kept back reach this device's own engine, while their command goes on. -/
def State.embLocal (s : State) (m : Msg) : State :=
  match Tbl.find (m.fld 1 0 32) s.spn.out with
  | none => s
  | some pd => if (s.owner pd).isSome then s.embAccept m else s.closeTag (m.fld 1 0 32)

/-- The messages of a command, position, home and message each. -/
def State.embSendAll (s : State) (c p : Nat) (x : Cmd) (kind : Nat) (l : List (Nat × Nat × Msg)) : State :=
  let (s, ms) := l.foldl (fun (a : State × List Msg) q =>
    let (s, m) := a.1.embSend c p x kind q.1 q.2.1 q.2.2
    (s, a.2 ++ m)) (s, [])
  ms.foldl State.embLocal s

/-- EMB_LOOKUP and EMB_PREFETCH in RUN (R261, R264): far homes first, then this device. -/
def State.embLookup (s : State) (c p : Nat) (j : Job) : State :=
  let x := j.cmd
  if j.result ≠ 0 then s
  else match (s.table x.lodge x.eTable).1 with
    | none => s.endJob c p j St.badTable
    | some e =>
      let n := x.eCount * e.d * (if x.eFmt = 0 then 4 else 2)
      let st := firstBad [s.embRead x, if x.op = 1 then s.accessStatus x.lodge x.eOut n else St.ok]
      let ix := s.embIdx x
      if x.op = 2 ∧ s.stage < 4 then s.toFence c p j
      else if st ≠ St.ok then s.endJob c p j st
      else match ix.find? fun i => decide (e.rows ≤ i.2.2.1) with
        | some i => (s.setJob c p j).badIndex c p i.2.1
        | none =>
          let s := s.touchReads x.lodge ([(x.eBag, 4 * (x.eCount + 1)), (x.eIdx, 4 * ix.length)] ++ (if x.eWeighted then [(x.eWgt, 4 * ix.length)] else []))
          let s := s.setJob c p { j with result := 1 }
          let parts := (natsFrom 0 e.h).filterMap fun h =>
            let part := ix.filter fun i => i.2.2.1 % e.h == h
            if part = [] then none else some (h, e.homes.getD h 0, s.embReqMsg x e part)
          let order := (parts.filter fun q => q.2.1 != s.self) ++ parts.filter fun q => q.2.1 == s.self
          if order.any fun q => s.noRoute x.lodge q.2.1 then s.endJob c p j 0x61
          else
          let s := s.embSendAll c p x 10 order
          match s.job c p with
          | some k => if order = [] ∧ k.cmd = x then s.embFinish c p k else s
          | none => s

/-- EMB_UPDATE in RUN (R265): one message to each home that has a row. -/
def State.embUpdate (s : State) (c p : Nat) (j : Job) : State :=
  let x := j.cmd
  if j.result ≠ 0 then s
  else match (s.table x.lodge x.eTable).1 with
    | none => s.endJob c p j St.badTable
    | some e =>
      let bytes (i : Nat) : Nat := match rowFmt (bits 32 4 (s.updRec x i 0)) with | some f => f.bytesOf e.d | none => 0
      let st := firstBad (s.embRead x :: (natsFrom 0 x.eCount).map fun i => s.readStatus x.lodge (s.updRec x i 3) (bytes i))
      if st ≠ St.ok then s.endJob c p j st
      else
        let s := s.setJob c p { j with result := 1 }
        let parts := (natsFrom 0 e.h).filterMap fun h =>
          let mine := (natsFrom 0 x.eCount).filter fun i => bits 0 32 (s.updRec x i 0) % e.h == h
          let body := mine.flatMap fun i =>
            let w0 := s.updRec x i 0
            let n := bytes i
            leBytes 8 (w0 / 2 ^ 32 * 2 ^ 32 + bits 0 32 w0 / e.h) ++ leBytes 8 (s.updRec x i 1) ++ leBytes 8 (s.updRec x i 2) ++ leBytes 8 0 ++
              s.peek x.lodge (s.updRec x i 3) n ++ List.replicate (ceilDiv n 64 * 64 - n) 0
          if mine = [] then none
          else some (h, e.homes.getD h 0, mkMsg 0x52 s.self (s.tenantFor x.lodge) [x.eTable * 2 ^ 32, e.key, mine.length] body)
        let order := (parts.filter fun q => q.2.1 != s.self) ++ parts.filter fun q => q.2.1 == s.self
        if order.any fun q => s.noRoute x.lodge q.2.1 then s.endJob c p j 0x61
        else s.embSendAll c p x 11 order

/-- EMB_REPLY_TIMEOUT (R263). -/
def State.embTimeout (s : State) (tag : Nat) : State :=
  match Tbl.find tag s.spn.out with
  | none => s
  | some pd =>
    if (pd.kind ≠ 10 ∧ pd.kind ≠ 11) ∨ pd.reply.isSome then s
    else
      let s := (s.bump Reg.embTimeoutCntCount).setBit Reg.embErrBits 2
      match s.owner pd with
      | none => s.closeTag tag
      | some _ => ((s.closeTag tag).orphanCmd pd.core pd.place pd.dst).dropReplies pd.core pd.place

/-! ## The commands -/

/-- EMB_LOOKUP (R261). -/
def execEmbLookup (core : Fin 160) (place : Fin 8) (s : State) : Out :=
  .next (s.runSlot core (place + 1) 8 1 (embChecks core) fun s j => (s.setJob core (place + 1) j).embLookup core (place + 1) j).choices
/-- EMB_PREFETCH (R264). -/
def execEmbPrefetch (core : Fin 160) (place : Fin 8) (s : State) : Out :=
  .next (s.runSlot core (place + 1) 8 2 (embChecks core) fun s j => (s.setJob core (place + 1) j).embLookup core (place + 1) j).choices
/-- EMB_UPDATE (R265). -/
def execEmbUpdate (core : Fin 160) (place : Fin 8) (s : State) : Out :=
  .next (s.runSlot core (place + 1) 8 3 (embChecks core) fun s j => (s.setJob core (place + 1) j).embUpdate core (place + 1) j).choices
/-- EMB_REQ (R261). -/
def execEmbReq (m : Msg) (s : State) : Out := .next (s.embAccept { m with kind := 0x50 }).choices
/-- EMB_RSP (R261). -/
def execEmbRsp (m : Msg) (s : State) : Out := .next (s.embReply (m.fld 1 0 32) m).choices
/-- EMB_REPLY_TIMEOUT (R263). -/
def execEmbReplyTimeout (tag : Nat) (s : State) : Out := .next (s.embTimeout tag).choices
/-- EMB_UPD (R265). -/
def execEmbUpd (m : Msg) (s : State) : Out := .next (s.embAccept { m with kind := 0x52 }).choices
/-- ROW_FLIP (R265). -/
def execRowFlip (s : State) : Out := .next s.rowFlip
/-- EMB_UPD_RSP (R271). -/
def execEmbUpdRsp (m : Msg) (s : State) : Out := .next (s.embReply (m.fld 1 0 32) m).choices

end Sys2Proof.Machine
end

