-- ==== Sys2Proof/Machine/Commit.lean ====
section
/-!
DEFINITION. What ends a command in a place: the commit point (R83), the end of a kill (R90), the command limit (R92); shadow
comparisons and quarantine (R93 to R95); the core map (R439); the ADMIN commands (R336).
-/

namespace Sys2Proof.Machine

/-! ## The commit point (R83) -/

/-- A DIRECT output lies on a lost tray device: its write is never acknowledged (R197). -/
def State.directLost (s : State) (j : Job) : Bool :=
  j.direct.any fun d => s.accessStatus j.cmd.lodge d.1 d.2.length == St.trayLost

/-- Copies of HELD lines that a command wrote are invalidated before its writes count as acknowledged (R187, R83 step 1): the state
and the tags of the answers. -/
def State.invalWritten (s : State) (c p : Nat) (j : Job) : State × List Nat :=
  j.direct.foldl (fun (a : State × List Nat) d =>
    let (s, ts) := a.1.invalTracked j.cmd.lodge d.1 d.2.length 6 none c p
    (s, a.2 ++ ts)) (s, [])

/-- A compute command's committed writes go through its die's line cache (R190). -/
def State.dieCommit (s : State) (c p : Nat) (j : Job) : State := if p = 0 then s.dieWrites c j else s

/-- What other agents do once a place is free: refresh debt, moves that waited for a pin to end, Prompt-side answers, the boundary of a step
(R124, R183, R244, R212). -/
def State.afterPlace (s : State) (x : Cmd) : State :=
  let s := s.payDebt.retryMoves.settlePrompt
  if x.sched && !s.stepBusy x.slot then s.slotBoundary x.slot else s

/-- COMMIT: a command in FENCE whose writes are all acknowledged and that no earlier command of its ring precedes at the core
(R69, R83, R104). -/
def State.commit (s : State) (c p : Nat) : State :=
  match s.job c p with
  | none => s
  | some j =>
    if j.st = .fence ∧ j.waiting = [] ∧ (s.core c).inOrder j.cmd p then
      if s.directLost j then (s.endJob c p j St.trayLost).afterPlace j.cmd
      else
        let (s, ts) := s.invalWritten c p j
        if ts = [] then (((s.commitJob c p j).dieCommit c p j).wainCommit j.cmd).afterPlace j.cmd
        else s.setJob c p { j with waiting := ts }
    else s

/-! ## Kills (R90 to R92) -/

/-- Requests of a killed command that other devices have not answered (R90). -/
def State.farOpen (s : State) (c p : Nat) (x : Cmd) : Bool :=
  s.spn.out.any fun e => e.2.core == c && e.2.place == p && e.2.reply.isNone &&
    match e.2.cmd with | some y => y.ring == x.ring && y.seq == x.seq && y.words == x.words | none => false

/-- KILL_DONE: every issued access of a killed command is acknowledged: no request of it is open, no packet, none of its stream
blocks. -/
def State.killEnd (s : State) (c p : Nat) : State :=
  match s.job c p with
  | none => s
  | some j =>
    if j.st = .kill then
      if s.farOpen c p j.cmd || s.fieldOpen c p j.cmd || (s.wan.streams.any fun x => x.2.core == c && x.2.place == p && x.2.open_ != []) ||
          (s.wan.pulls.any fun x => x.2.core == c && x.2.place == p && x.2.engine.isSome) then s
      else ((s.dropStreams c p).endKill c p j).afterPlace j.cmd
    else s

/-- CMD_TIMEOUT: the limit of a command in RUN or FENCE has passed; it is killed and ends with CMD_TIMEOUT. A command that spins on
an arrival counter is bounded by the watchdog instead (R389). -/
def State.limit (s : State) (c p : Nat) : State :=
  match s.job c p with
  | none => s
  | some j =>
    let spins := j.st == .run && j.cmd.klass == 6 && j.cmd.op == 6
    if !spins && (j.st == .run || j.st == .fence) then
      let s := (s.setJob c p (j.toKill false true St.cmdTimeout)).modCore c fun k => k.dropShadows j.cmd
      (s.count Reg.cmpKillCntCount 1 c).setBit Reg.cmpErrBits 0 c
    else s

/-! ## Shadows and quarantine (R94, R95, R438, R440) -/

/-- A command on a core that is quarantined now: killed, with a record; a step's command abandons its step instead. -/
def Job.quarantine (j : Job) : Job :=
  if j.st = .kill then j else j.toKill false (!j.cmd.sched) St.coreQuarantined

/-- Shadows in flight on a core that is quarantined, which runs nothing further: those of core c − 40 are abandoned (R94, R95). -/
def State.abandonAt (s : State) (c : Nat) : State :=
  let o := (c + 120) % 160
  let n := (s.core o).shadows.length
  (s.modCore o fun k => { k with shadows := [] }).bump Reg.cmpShadowSkipCount n o

/-- A core is quarantined (R95): its commands are killed, steps that lose a command are abandoned and held (R440), the alarm. -/
def State.quarantine (s : State) (c cause : Nat) : State :=
  let k := s.core c
  if k.quarantined then s
  else
    let hit := k.places.filter fun p => p.2.st != .kill
    let s := s.setCore c { k with quarantined := true, shadows := k.shadows.filter fun h => !(hit.any fun p => p.2.cmd.ring == h.ring && p.2.cmd.seq == h.seq),
                                  places := k.places.map fun p => (p.1, p.2.quarantine) }
    let s := (s.count Reg.cmpKillCntCount hit.length c).abandonAt c
    let s := (hit.filter fun p => p.2.cmd.sched).foldl (fun (s : State) p => s.holdSlot p.2.cmd.slot) s
    s.alarm 0x08 0xF c (c + cause * 2 ^ 8) 0

/-- Both suspect counts have reached QUAR_LIMIT, which is not 0. -/
def State.suspect (s : State) (c : Nat) : Bool :=
  let q := s.rd Reg.cmpShadowCfgQuarLimit c
  q != 0 && decide (q ≤ (s.core c).suspectUp) && decide (q ≤ (s.core c).suspectDown)

/-- What a core that took part in a mismatch counts (R94, R435). -/
def State.missed (s : State) (c : Nat) : State :=
  ((s.bump Reg.cmpShadowMissCount 1 c).count Reg.hltRetryValue 1 c).setBit Reg.cmpErrBits 3 c

/-- A mismatch between core `c` and its partner (R95). CRC-32C of the operand stream is a free word: the spec gives no byte order of the
stream (log 116). -/
def State.mismatch (s : State) (c : Nat) (h : Shadow) (tempA tempB mvA mvB : Nat) : State :=
  let p := (c + 40) % 160
  let s := (s.missed c).missed p
  let s := s.modCore c fun k => { k with suspectUp := satAdd 255 k.suspectUp 1 }
  let s := s.modCore p fun k => { k with suspectDown := satAdd 255 k.suspectDown 1 }
  let crc := (Config.freeWord s.free).toNat
  let s := (s.useFree 1).error 0x41 h.lodge c (c + p * 2 ^ 8 + h.tile * 2 ^ 16 + h.tag * 2 ^ 32 + tempA % 2 ^ 10 * 2 ^ 48)
    (tempB % 2 ^ 10 + mvA % 2 ^ 11 * 2 ^ 10 + mvB % 2 ^ 11 * 2 ^ 21 + crc * 2 ^ 32)
  let s := if s.suspect c then s.quarantine c 0 else s
  if s.suspect p then s.quarantine p 0 else s

/-- SHADOW_COMPARE: the oldest shadow of a core is compared. -/
def State.compareShadow (s : State) (c : Nat) (differs : Bool) (tempA tempB mvA mvB : Nat) : State :=
  match (s.core c).shadows with
  | [] => s
  | h :: r =>
    let s := (s.modCore c fun k => { k with shadows := r }).count Reg.cmpShadowRunCount 1 c
    if differs then s.mismatch c h tempA tempB mvA mvB else s

/-- SHADOW_ABANDON: the oldest shadow of a core has not finished within 100 µs. -/
def State.abandonShadow (s : State) (c : Nat) : State :=
  match (s.core c).shadows with
  | [] => s
  | _ :: r => (s.modCore c fun k => { k with shadows := r }).bump Reg.cmpShadowSkipCount 1 c

/-- A write of CMP_SHADOW_SEED: the LFSR is loaded; 0 is discarded (R96). -/
def State.seedShadow (s : State) (c v : Nat) : State :=
  if v % 2 ^ 32 = 0 then s.discard
  else
    let s := s.wr Reg.cmpShadowSeedSeed v c
    { s with lfsrs := Tbl.set (c + 1) c (v % 2 ^ 32) s.lfsrs }

/-- A write of 1 to RELEASE (R96): the core is IDLE again (R89). -/
def State.releaseCore (s : State) (c : Nat) : State :=
  s.modCore c fun k => { k with quarantined := false, suspectUp := 0, suspectDown := 0,
                                stage := if Tbl.find 0 k.places = none then s.rd Reg.cmpCsCfgStagePages c else k.stage }

/-- Logical core `c` has a command queued or running (R439). -/
def State.coreBusy (s : State) (c : Nat) : Bool :=
  s.cores.any fun e => (e.2.queue.any fun x => x.core == c) || e.2.places.any fun p => p.2.cmd.core == c

/-- A write of HLT_CORE_MAP (R439). -/
def State.mapCore (s : State) (c phys : Nat) : State :=
  if s.coreBusy c || decide (160 ≤ phys) || (s.core phys).quarantined || (s.hif.rings.any fun e => (e.2.hold.map (·.core)) == some c) then s.discard
  else s.wr Reg.hltCoreMapPhys phys c

/-- A write of LODGE_MASK or ENABLE (R96): commands of a lodge that leaves the mask complete with OUT_OF_RANGE. -/
def State.maskCore (s : State) (c : Nat) : State :=
  let out := (s.core c).queue.filter fun x => !s.inMask c x.lodge
  let s := s.modCore c fun k => { k with queue := k.queue.filter fun x => s.inMask c x.lodge }
  out.foldl (fun (s : State) x => s.complete x x.core St.outOfRange 0) s

/-! ## ADMIN (R336) -/

/-- The oldest ADMIN descriptor of an opcode, when it is the oldest of its ring there. -/
def State.nextAdmin (s : State) (op : Nat) : Option Cmd :=
  s.hif.adminQ.find? fun x => x.op == op && s.active x.lodge &&
    !(s.hif.adminQ.any fun y => y.ring == x.ring && decide (y.seq < x.seq) && y.op != op)

/-- A reserved field of an ADMIN descriptor is nonzero. -/
def adminReserved (x : Cmd) : Bool := x.flags / 2 != 0 || x.core != 0 || (natsFrom 1 7).any fun i => x.w i != 0

/-- Run an ADMIN descriptor once its record has room. -/
def State.admin (s : State) (op : Nat) (k : State → Cmd → State) : State :=
  match s.nextAdmin op with
  | none => s
  | some x =>
    let take (s : State) : State := { s with hif := { s.hif with adminQ := dequeue x s.hif.adminQ } }
    if adminReserved x then (take s).complete x 0xFF St.badReserved 0 else k (take s) x

/-- BARRIER: it waits for the earlier descriptors of its ring (R336). -/
def State.barrier (s : State) (x : Cmd) : State :=
  let n := ((s.ring x.ring).live.filter (· < x.seq)).length
  let s := s.modRing x.ring fun r => { r with barriers := r.barriers ++ [(x, n)] }
  s.settleBarriers x.ring (s.ring x.ring).barriers.length

/-! ## The commands -/

/-- NOP (R336). -/
def execNop (s : State) : Out := .next (s.admin 1 fun s x => s.complete x 0xFF St.ok 0).choices
/-- BARRIER (R336). -/
def execBarrier (s : State) : Out := .next (s.admin 2 fun s x => s.barrier x).choices
/-- COMMIT (R83). -/
def execCommit (core : Fin 160) (place : Fin 13) (s : State) : Out := .next (s.commit core place).choices
/-- KILL_DONE (R90). -/
def execKillDone (core : Fin 160) (place : Fin 13) (s : State) : Out := .next (s.killEnd core place).choices
/-- CMD_TIMEOUT (R92). -/
def execCmdTimeout (core : Fin 160) (place : Fin 13) (s : State) : Out := .next (s.limit core place)
/-- SHADOW_COMPARE (R94, R95). -/
def execShadowCompare (core : Fin 160) (differs : Bool) (tempA tempB mvA mvB : Nat) (s : State) : Out :=
  .next (s.compareShadow core differs tempA tempB mvA mvB)
/-- SHADOW_ABANDON (R94). -/
def execShadowAbandon (core : Fin 160) (s : State) : Out := .next (s.abandonShadow core)
/-- SEED (R93). -/
def execSeed (core : Fin 160) (seed : Nat) (s : State) : Out := .next (s.seedShadow core seed)
/-- RELEASE (R96). -/
def execRelease (core : Fin 160) (s : State) : Out := .next (s.releaseCore core).choices
/-- CORE_MAP (R439). -/
def execCoreMap (core : Fin 160) (phys : Nat) (s : State) : Out := .next (s.mapCore core phys)

end Sys2Proof.Machine
end

