-- ==== Sys2Proof/Machine/Host.lean ====
section
/-!
DEFINITION. The host interface: wake writes and doorbell records (R329 to R331), descriptor fetch (R331, R335, R283), room in
completion rings (R333), enabling and disabling of rings (R334), host loss and function-level reset (R321 to R323), the interrupt
hold time (R340).
-/

namespace Sys2Proof.Machine

/-! ## Rings -/

/-- A ring is ACTIVE. -/
def State.ringActive (s : State) (r : Nat) : Bool := s.rd Reg.hifRingStatusState r == 1

/-- The device may read the host: it is not lost, the function is in D0 and no power-down runs (R321, R322, R469). -/
def State.hostUp (s : State) : Bool := !s.on Reg.hifStatusHostLost && !s.hif.d3 && s.pwr.offAt.isNone

/-- A ring enters STOPPED (R331, R340). -/
def State.stopRing (s : State) (r reason : Nat) : State :=
  ((s.wr Reg.hifRingStatusState 2 r).wr Reg.hifRingStatusReason reason r).devCause 1

/-- The submit rings that name a completion ring. -/
def State.submitsOf (s : State) (cq : Nat) : List Nat :=
  (natsFrom 0 256).filter fun r => s.rd Reg.hifRingCfgType r == 0 && s.cqOf r == cq &&
    (s.rd Reg.hifRingCfgEnable r == 1 || (s.ring r).live != [])

/-- Records that wait for room are written while there is room (R333). -/
def State.flushRing (s : State) (cq : Nat) : Nat → State
  | 0 => s
  | n + 1 =>
    match (s.ring cq).waiting with
    | [] => s
    | (c, core, status, flags, result) :: rest =>
      if s.hasRoom cq 1 then
        ((s.modRing cq fun x => { x with waiting := rest }).finish c core status (BitVec.ofNat 4 flags) result).flushRing cq n
      else s

/-- Insert a waiting command by the time it entered DECODE. -/
def insertSince (x : Nat × Nat × Job) : List (Nat × Nat × Job) → List (Nat × Nat × Job)
  | [] => [x]
  | y :: r => if x.2.2.since < y.2.2.since then x :: y :: r else y :: insertSince x r

/-- Commands in DECODE that wait for a completion entry of a ring, oldest first. -/
def State.stalledOn (s : State) (cq : Nat) : List (Nat × Nat × Job) :=
  (s.jobs.filter fun j => j.2.2.st == .decode && j.2.2.stalled && !j.2.2.reserved && !j.2.2.cmd.sched && s.cqOf j.2.2.cmd.ring == cq).foldl
    (fun l x => insertSince x l) []

/-- A freed entry of a completion ring is granted once among the commands in DECODE that wait for one: round-robin over their submit rings
(R24, R504), which are all of the completion ring's own lodge (R334). Within a ring the command that has been in DECODE longest goes first
(DESIGN CHOICE: R333 names no order). A refused command writes its record, another takes its reservation and decodes on. -/
def State.serveOne (s : State) (cq : Nat) : State :=
  let xs := s.stalledOn cq
  match rrPick (s.ring cq).turn (sortDedup (xs.map fun x => x.2.2.cmd.ring)) with
  | none => s
  | some r =>
    match xs.find? fun x => x.2.2.cmd.ring == r with
    | none => s
    | some x =>
      let s := s.modRing cq fun q => { q with turn := r + 1 }
      if x.2.2.status ≠ 0 then s.failDecode x.1 x.2.1 x.2.2 x.2.2.status
      else (s.reserve cq).setJob x.1 x.2.1 { x.2.2 with reserved := true }

/-- Room found: one grant after another, while there is room (R333). -/
def State.serveStalled (s : State) (cq : Nat) : Nat → State
  | 0 => s
  | n + 1 => if s.hasRoom cq 1 ∧ s.stalledOn cq ≠ [] then (s.serveOne cq).serveStalled cq n else s

/-- What waits for room at a completion ring goes on: records first, then BARRIERs by ring, then commands in DECODE (DESIGN CHOICE: R333
names no order among the three). -/
def State.roomFound (s : State) (cq : Nat) : State :=
  let s := s.flushRing cq (s.ring cq).waiting.length
  let s := (s.submitsOf cq).foldl (fun (s : State) r => s.settleBarriers r (s.ring r).barriers.length) s
  s.serveStalled cq (s.stalledOn cq).length

/-- A doorbell record has been read (R329, R331): its HOST_IDX is taken, or stops the ring. -/
def State.doorbell (s : State) (r hostIdx : Nat) : State :=
  let h := hostIdx % 2 ^ 32
  let d := s.devIdx r
  let ahead := if s.rd Reg.hifRingCfgType r = 0 then (h + 2 ^ 32 - d) % 2 ^ 32 else (d + 2 ^ 32 - h) % 2 ^ 32
  if s.ringSize r < ahead then s.stopRing r 1
  else
    let s := s.modRing r fun x => { x with hostIdx := h }
    if s.rd Reg.hifRingCfgType r = 1 then s.roomFound r else s

/-- DOORBELL_READ: the record of a marked ring is read; the mark is cleared as the read is issued (R330). -/
def State.doorbellRead (s : State) (r hostIdx : Nat) : State :=
  if (s.ring r).mark && s.ringActive r && s.hostUp then (s.modRing r fun x => { x with mark := false }).doorbell r hostIdx else s

/-- POLL: every ACTIVE ring's record is read again every POLL_US, unless that is 0 (R330). -/
def State.poll (s : State) (r hostIdx : Nat) : State :=
  if s.rd Reg.hifCtrlPollUs != 0 && s.ringActive r && s.hostUp then (s.modRing r fun x => { x with mark := false }).doorbell r hostIdx else s

/-- CQ_ROOM_POLL: the record of a completion or step ring without room is read again every µs (R333). -/
def State.roomPoll (s : State) (r hostIdx : Nat) : State :=
  if s.rd Reg.hifRingCfgType r != 0 && s.ringActive r && s.hostUp then s.doorbell r hostIdx else s

/-! ## Descriptor fetch (R331) -/

/-- Fetching is paused before the clock change of stage 4 (R460), where STOP_AT lets bring-up rise that far (R457, log 151). -/
def State.paused (s : State) : Bool := s.stage == 3 && s.pwr.tested.length == 160 && decide (4 ≤ s.rd Reg.rveBringupStopAt)

/-- A submit ring with a descriptor to fetch. -/
def State.fetchable (s : State) (r : Nat) : Bool :=
  s.rd Reg.hifRingCfgType r == 0 && s.rd Reg.hifRingCfgEnable r == 1 && s.ringActive r && s.devIdx r != (s.ring r).hostIdx &&
    (s.ring r).hold.isNone

/-- The ring whose turn it is: lodges by weight, then rings in turn (R331, R24). The arbiters after it, and the ring. -/
def State.fetchTurn (s : State) : Lod × Option Nat :=
  let rs := (natsFrom 0 256).filter s.fetchable
  let lodgeOf (r : Nat) := s.rd Reg.hifRingCfgLodge r
  let (cur, w) := wrrGrant s.lod.fetchCur 0 (fun l => s.rd Reg.lodCfgWeight l) (sortDedup (rs.map lodgeOf))
  match w with
  | none => (s.lod, none)
  | some l =>
    match rrPick (Tbl.get 0 l s.lod.fetchPtr) (rs.filter fun r => lodgeOf r == l) with
    | none => (s.lod, none)
    | some r => ({ s.lod with fetchCur := cur, fetchPtr := Tbl.set 0 l (r + 1) s.lod.fetchPtr }, some r)

/-- The command of a fetched descriptor. -/
def State.fetched (s : State) (r : Nat) (words : List Nat) : Cmd :=
  { words := (natsFrom 0 8).map fun i => words.getD i 0 % 2 ^ 64, ring := r, sched := false, slot := 0, lodge := s.rd Reg.hifRingCfgLodge r,
    cls := s.rd Reg.lodRingClass r, clients := [s.rd Reg.lodRingClient r], idx := s.devIdx r, seq := s.hif.fetched, kills := 0, arrived := s.now, waitBase := 0, done := false }

/-- The class goes to a core. -/
def coreClass (k : Nat) : Bool := decide (2 ≤ k) && decide (k ≤ 8)

/-- Reserved bits of a FIELD descriptor (R423), the fields an opcode does not use among them. -/
def fieldReserved (x : Cmd) : Bool :=
  let op := x.op
  decide (x.flags / 16 ≠ 0) || decide (x.fld 4 0 16 ≠ 0) || decide (x.fld 7 52 12 ≠ 0) || decide (x.fld 2 32 32 ≠ 0) ||
  (bitAt 2 x.flags && op != 4) ||
  (if op = 1 then x.w 1 != 0 || x.w 2 != 0 || x.w 7 != 0
   else if op = 2 then x.w 1 != 0 || x.w 3 != 0 || x.w 7 != 0
   else if op = 3 then x.w 7 != 0
   else if op = 5 then x.arrival != 0
   else false)

/-- Reserved bits of a descriptor whose class names a core; a reserved opcode has none beyond bits [15:0] of word 0 (R335). -/
def ringReserved (x : Cmd) : Bool :=
  knownOp x.klass x.op &&
    (if x.klass = 2 then computeReserved x
     else if x.klass = 3 then
       if x.op < 0x20 then memReserved x else if x.op < 0x30 then nearReserved x else attReserved x
     else if x.klass = 4 then wainReserved x
     else if x.klass = 5 then tallyReserved x
     else if x.klass = 6 then spanReserved x
     else if x.klass = 7 then fieldReserved x
     else embReserved x)

/-- The status that completes a descriptor at its ring, and the CORE of that record (R335, R337, R88, R283); 0 hands it on. -/
def State.ringVerdict (s : State) (x : Cmd) : Nat × Nat :=
  if x.version ≠ 1 then (St.badVersion, 0xFF)
  else if x.klass = 0 ∨ 10 ≤ x.klass then (St.badOpcode, 0xFF)
  else if coreClass x.klass && decide (160 ≤ x.core) then (if ringReserved x then St.badReserved else St.outOfRange, 0xFF)
  else if !s.active x.lodge && !(x.klass == 1 && (x.op == 3 || x.op == 4)) then
    (St.lodgeFaulted, if coreClass x.klass then x.core else 0xFF)
  else if x.klass = 1 && !(decide (1 ≤ x.op) && decide (x.op ≤ 6)) then (St.badOpcode, 0xFF)
  else if x.klass = 9 && !(x.op == 1 || x.op == 2) then (St.badOpcode, 0xFF)
  else (0, 0)

/-- A descriptor goes to its target, which is a core queue, the ledger or the ADMIN queue; it waits at the ring while its core's
queue is full (R331, R98). -/
def State.dispatch (s : State) (x : Cmd) : State :=
  let v := s.ringVerdict x
  if v.1 ≠ 0 then s.complete x v.2 v.1 0
  else if x.klass = 1 then { s with hif := { s.hif with ledgerQ := s.hif.ledgerQ ++ [x] } }
  else if x.klass = 9 then { s with hif := { s.hif with adminQ := s.hif.adminQ ++ [x] } }
  else
    let c := s.phys x.core
    if (s.core c).load < 16 then s.reachCore c x else s.modRing x.ring fun r => { r with hold := some x }

/-- The fetch arbiters move on and the fetch is counted. -/
def State.tookFetch (s : State) (l : Lod) : State := { s with lod := l, hif := { s.hif with fetched := s.hif.fetched + 1 } }

/-- DESCRIPTOR_FETCH: the next descriptor of the ring whose turn it is has been read. -/
def State.fetch (s : State) (r : Nat) (words : List Nat) (error : Bool) : State :=
  let t := s.fetchTurn
  if s.hostUp && !s.paused && t.2 == some r then
    if error then s.stopRing r 3
    else
      let x := s.fetched r words
      let s := (s.tookFetch t.1).modRing r fun k => { k with live := k.live ++ [x.seq] }
      ((s.count Reg.hifRingIdxDevIdx 1 r).writeDevIdx r).dispatch x
  else s

/-! ## Host loss and resets (R321 to R323) -/

/-- HOST_READ_TIMEOUT (R322). -/
def State.hostLost (s : State) (r : Nat) : State :=
  if s.on Reg.hifStatusHostLost then s
  else
    let s := ((s.modRing r fun x => { x with mark := false }).wr Reg.hifStatusHostLost 1).devCause 0
    let s := ((natsFrom 0 256).filter s.ringActive).foldl (fun (s : State) r => s.stopRing r 2) s
    ({ s with hif := { s.hif with halted := true } } : State).alarm 0x00 0xF 0xFF 0 0

/-- HOST_RESUME (R322). -/
def State.hostResume (s : State) : State :=
  let s := s.wr Reg.hifStatusHostLost 0
  { s with hif := { s.hif with halted := false } }

/-- A job's reservation goes with its completion ring (R323). -/
def Job.unreserved (j : Job) : Job := { j with reserved := false, stalled := false }

/-- What remains of a ring when FLR closes it: the commands already accepted. -/
def Ring.closed (r : Ring) : Ring := { Ring.reset with live := r.live, barriers := r.barriers, hold := r.hold }

/-- Registers of the HIF block, the link's own SPEED and WIDTH apart, and GLB_SCRATCH. -/
def flrReg (k : Nat) : Bool :=
  (decide (8 * 0x800000 ≤ k) && decide (k < 8 * 0xC00000) && k != Reg.hifStatusSpeed.key 0 0 && k != Reg.hifStatusWidth.key 0 0) ||
    k == Reg.glbScratchValue.key 0 0

/-- A function-level reset (R323): configuration space returns to reset, D0 with it; rings and MSI-X vectors are disabled, the HIF block and GLB_SCRATCH return to their reset values,
records due are dropped and counted, step schedulers halt. -/
def State.flr (s : State) : State :=
  let due := (s.hif.rings.map fun e => e.2.waiting.length).foldl (· + ·) 0
  let gone := s.hif.rings.flatMap fun e => e.2.waiting.map (·.1)
  let s : State := { s with
    regs := s.regs.filter fun e => !flrReg e.1,
    cores := s.cores.map fun e => (e.1, { e.2 with places := e.2.places.map fun p => (p.1, p.2.unreserved) }),
    hif := { s.hif with rings := s.hif.rings.map fun e => (e.1, e.2.closed), msix := [], pba := [], halted := true, d3 := false } }
  let s := gone.foldl (fun (s : State) x => s.unlive x) s
  if due = 0 then s else (s.bump Reg.hifCplDropCount due).devCause 3

/-! ## Ring set-up (R334) -/

/-- The writes of ENABLE = 1 that the device refuses. -/
def State.enableRefused (s : State) (r : Nat) : Bool :=
  s.lodge (s.rd Reg.hifRingCfgLodge r) == 0 || s.rd Reg.hifRingStatusState r != 0 ||
    (s.rd Reg.hifRingCfgType r == 0 &&
      !(s.rd Reg.hifRingCfgEnable (s.cqOf r) == 1 && s.rd Reg.hifRingCfgType (s.cqOf r) == 1 &&
        s.rd Reg.hifRingCfgLodge (s.cqOf r) == s.rd Reg.hifRingCfgLodge r)) ||
    (s.rd Reg.hifRingCfgType r == 2 && (natsFrom 0 8).any fun k =>
      s.on Reg.ldgModelCfgValid k && s.rd Reg.ldgModelCfgLodge k == s.rd Reg.hifRingCfgLodge r &&
        decide (2 ^ s.rd Reg.hifRingCfgSizeLog2 r < s.rd Reg.ldgModelBatchBatchMax k + 1))

/-- RING_ENABLE: both indices start at 0 (R329, R334). Commands accepted before an FLR go on and keep their place in ring order (R323). -/
def State.enableRing (s : State) (r : Nat) : State :=
  if s.rd Reg.hifRingCfgEnable r = 1 then s
  else if s.enableRefused r then s.discard
  else
    let s := ((s.wr Reg.hifRingCfgEnable 1 r).wr Reg.hifRingStatusState 1 r).wr Reg.hifRingStatusReason 0 r
    (s.wr Reg.hifRingIdxDevIdx 0 r).setRing r (s.ring r).closed

/-- The writes of ENABLE = 0 that the device refuses. -/
def State.disableRefused (s : State) (r : Nat) : Bool :=
  (s.rd Reg.hifRingCfgType r == 1 && s.submitsOf r != []) ||
    (s.rd Reg.hifRingCfgType r == 2 && s.ldg.entries.any fun e => e.2.req.stepRing == r)

/-- RING_DISABLE: fetching stops at once; a submit ring reads DISABLED once every fetched descriptor has its record (R334). -/
def State.disableRing (s : State) (r : Nat) : State :=
  if s.rd Reg.hifRingCfgEnable r = 0 then s
  else if s.disableRefused r then s.discard
  else if s.rd Reg.hifRingCfgType r = 0 then (s.wr Reg.hifRingCfgEnable 0 r).settleRing r
  else ((s.wr Reg.hifRingCfgEnable 0 r).wr Reg.hifRingStatusState 0 r).wr Reg.hifRingStatusReason 0 r

/-- WAKE_WRITE (R330). -/
def State.wake (s : State) (r offset size : Nat) : State :=
  if offset = 0 ∧ size = 4 ∧ s.ringActive r = true then s.modRing r fun x => { x with mark := true } else s.discard

/-- INTERRUPT_HOLD: the oldest counted record has been pending for HOLD_US (R340). -/
def State.holdFire (s : State) (r : Nat) : State :=
  if (s.ring r).irqPend = 0 then s
  else
    let s := s.modRing r fun x => { x with irqPend := 0 }
    let v := s.rd Reg.hifRingCfgVector r
    if v = 0 then s else s.fire v

/-! ## The commands -/

/-- WAKE_WRITE (R330). -/
def execWakeWrite (page : Fin 256) (offset size : Nat) (s : State) : Out := .next (s.wake page offset size)
/-- DOORBELL_READ (R331). -/
def execDoorbellRead (ring : Fin 256) (hostIdx : Nat) (s : State) : Out := .next (s.doorbellRead ring hostIdx).choices
/-- DESCRIPTOR_FETCH (R331). -/
def execDescriptorFetch (ring : Fin 256) (words : List Nat) (error : Bool) (s : State) : Out := .next (s.fetch ring words error).choices
/-- POLL (R330). -/
def execPoll (ring : Fin 256) (hostIdx : Nat) (s : State) : Out := .next (s.poll ring hostIdx).choices
/-- CQ_ROOM_POLL (R333). -/
def execCqRoomPoll (ring : Fin 256) (hostIdx : Nat) (s : State) : Out := .next (s.roomPoll ring hostIdx).choices
/-- HOST_READ_TIMEOUT (R322). -/
def execHostReadTimeout (ring : Fin 256) (s : State) : Out := .next (s.hostLost ring)
/-- HOST_RESUME (R322). -/
def execHostResume (s : State) : Out := .next s.hostResume
/-- INTERRUPT_HOLD (R340). -/
def execInterruptHold (ring : Fin 256) (s : State) : Out := .next (s.holdFire ring)
/-- RING_ENABLE (R334). -/
def execRingEnable (ring : Fin 256) (s : State) : Out := .next (s.enableRing ring)
/-- RING_DISABLE (R334). -/
def execRingDisable (ring : Fin 256) (s : State) : Out := .next (s.disableRing ring)
/-- FLR (R323). -/
def execFlr (s : State) : Out := .next s.flr.choices
/-- PCIE_RESET (R455): as FLR; the link retrains. -/
def execPcieReset (s : State) : Out := .next s.flr.choices
/-- D3HOT (R321): fetching stops without the alarm, or goes on in D0. -/
def execD3hot (on : Bool) (s : State) : Out := .next { s with hif := { s.hif with d3 := on } }

end Sys2Proof.Machine
end

