-- ==== Sys2Proof/Machine/Lodge.lean ====
section
/-!
DEFINITION. Lodges: LOD_CMD and its operations (R276 to R282, R295), personas and drain (R296 to R298), the bandwidth regulators
(R288 to R291).
-/

namespace Sys2Proof.Machine

/-! ## LOD_CMD (R276) -/

/-- A write to LOD_CMD starts the operation unless one is running; its STATUS shows once it has completed. -/
def State.lodCmd (s : State) (op lodge : Nat) (run : State → State × Nat × Nat × Nat) : State :=
  if s.on Reg.lodCmdStatusBusy then s.discard.setBit Reg.lodErrBits 3
  else
    let (s, l, status, count) := run s
    { s.wr Reg.lodCmdStatusBusy 1 with lod := { s.lod with op := some (op, (if l = 16 then lodge else l), status, count) } }

/-- The common checks: the lodge's range, then the states the operation is allowed in. -/
def State.lodAllowed (s : State) (lodge : Nat) (states : List Nat) : Nat :=
  if 16 ≤ lodge then St.outOfRange else if states.contains (s.lodge lodge) then St.ok else St.badOperand

/-- LOD_CMD_DONE: STATUS, LODGE and COUNT are written and BUSY clears (R276, R299). -/
def State.lodCmdDone (s : State) : State :=
  match s.lod.op with
  | none => s
  | some (op, l, status, count) =>
    let s : State := { s with lod := { s.lod with op := none } }
    let s := ((s.wr Reg.lodCmdStatusBusy 0).wr Reg.lodCmdStatusStatus status).wr Reg.lodCmdStatusLodge l
    if op = 7 ∧ status = St.ok then s.wr Reg.lodCmdResultCount count else s

/-! ## Configuration of a lodge -/

/-- The registers of lodge `l`, as bit addresses: LOD, MEM, ATT, LDG, EMB, TLY, SPN, FLD and HIF (every register that exists once for each
lodge; log 47). -/
def lodgeReg (l k : Nat) : Bool :=
  [(0x01001000, 0x100), (0x01401000, 0x40), (0x01C00100, 8), (0x01C00180, 4), (0x00C00100, 0x10), (0x03800100, 8), (0x03000100, 4),
   (0x03C00200, 8), (0x03D00400, 0x10), (0x00800100, 4)].any fun b => decide (8 * (b.1 + b.2 * l) ≤ k) && decide (k < 8 * (b.1 + b.2 * (l + 1)))

/-- Every register of a lodge at its reset value. -/
def State.resetLodgeRegs (s : State) (l : Nat) : State := { s with regs := s.regs.filter fun e => !lodgeReg l e.1 }

/-- An entry of the lodge is not FREE. -/
def State.hasEntries (s : State) (l : Nat) : Bool := s.ldg.entries.any fun e => e.2.req.lodge == l

/-- A ring is bound to the lodge (R328). -/
def State.ringBound (s : State) (l : Nat) : Bool :=
  (natsFrom 0 256).any fun r => s.rd Reg.hifRingCfgLodge r == l &&
    (s.rd Reg.hifRingCfgEnable r == 1 || (s.rd Reg.hifRingCfgType r == 0 && s.rd Reg.hifRingStatusState r != 0))

/-- CREATE: the lowest ABSENT lodge becomes ACTIVE with reset configuration. -/
def State.create (s : State) : State × Nat × Nat × Nat :=
  if s.stage < 2 then (s, 0, St.notReady, 0)
  else
    match (natsFrom 0 16).find? fun l => s.lodge l == 0 with
    | none => (s, 0, St.noLodge, 0)
    | some l => ((s.resetLodgeRegs l).wr Reg.lodStateState 1 l, l, St.ok, 0)

/-- BIND (R277). -/
def State.bind (s : State) (l t : Nat) : State × Nat :=
  let v := s.lodAllowed l [1, 2, 3, 5]
  if v ≠ St.ok then (s, v)
  else if 2 ^ 16 ≤ t then (s, St.outOfRange)
  else
    match s.tenantLodge t with
    | some k => (s, if k = l then St.ok else St.badTenant)
    | none => ({ s with lod := { s.lod with tenants := Tbl.put t l s.lod.tenants } }, St.ok)

/-- A non-FREE entry, an open Wain stream or an open field connection of the lodge carries the tenant (R277, R404). -/
def State.tenantUsed (s : State) (l t : Nat) : Bool :=
  (s.ldg.entries.any fun e => e.2.req.lodge == l && e.2.req.tenant == t) ||
  (s.wan.streams.any fun e => e.2.lodge == l && e.2.tenant == t) ||
  (s.wan.pulls.any fun e => e.2.cmd.lodge == l && e.2.cmd.wTenant == t) ||
  (s.wan.acks.any fun a => a.1.tenant == t) || (s.wan.held.any fun m => m.tenant == t) ||
  (s.fld.conns.any fun e => e.2.lodge == l && e.2.tenant == t)

/-- UNBIND (R277). -/
def State.unbind (s : State) (l t : Nat) : State × Nat :=
  let v := s.lodAllowed l [1, 2, 3, 4, 5]
  if v ≠ St.ok then (s, v)
  else if 2 ^ 16 ≤ t then (s, St.outOfRange)
  else if s.tenantLodge t ≠ some l then (s, St.badTenant)
  else if s.tenantUsed l t then (s, St.busy)
  else ({ s with lod := { s.lod with tenants := Tbl.del t s.lod.tenants } }, St.ok)

/-- RESET (R282, R313, R387): the fault record, Tally counts and arrival counts are cleared. -/
def State.resetLodge (s : State) (l : Nat) : State × Nat :=
  let v := s.lodAllowed l [2, 5]
  if v ≠ St.ok then (s, v)
  else if s.hasEntries l then (s, St.busy)
  else
    let s := [Reg.lodFaultStatus, Reg.lodFaultSource, Reg.lodFaultFaultCnt, Reg.lodFaultCore, Reg.lodFaultRing, Reg.lodFaultTagTag,
      Reg.lodFaultTimeValue].foldl (fun (s : State) f => s.wr f 0 l) s
    let s : State := { s with
      tallies := s.tallies.map fun e => (e.1, if e.2.lodge = l then { e.2 with count := 0, ovf := false } else e.2),
      groups := s.groups.map fun e => (e.1, if e.2.lodge = l then { e.2 with sum := 0 } else e.2),
      spn := { s.spn with arr := s.spn.arr.map fun e => (e.1, if e.2.lodge = l then { e.2 with count := 0 } else e.2) } }
    (s.wr Reg.lodStateState 1 l, St.ok)

/-! ## TEARDOWN (R281) -/

/-- Requests that wait at this home for a lodge are answered with a status. -/
def State.refuseHome (s : State) (l status : Nat) : State :=
  let far (d : Nat) : Bool := d != s.self
  let att := s.att.queue.filter fun w => w.lodge == l
  let emb := s.emb.queue.filter fun w => w.lodge == l
  let s : State := { s with att := { s.att with queue := s.att.queue.filter fun w => w.lodge != l },
                            emb := { s.emb with queue := s.emb.queue.filter fun w => w.lodge != l } }
  let s := (att.filter fun w => far w.msg.src).foldl (fun (s : State) w => s.send 8 l w.msg.src (attRsp s.self w.msg status [] [])) s
  (emb.filter fun w => far w.msg.src).foldl (fun (s : State) w => s.send 8 l w.msg.src (embRefusal s.self w.msg status 0)) s

/-- Every open Wain stream of a lodge closes without further blocks; a pull does too. -/
def State.closeStreams (s : State) (l : Nat) : State :=
  { s with wan := { s.wan with streams := s.wan.streams.filter fun e => e.2.lodge != l,
                               pulls := s.wan.pulls.filter fun e => e.2.cmd.lodge != l } }.settleEng

/-- The field connections of a lodge become FREE (R404). -/
def State.closeConns (s : State) (l : Nat) : State := { s with fld := { s.fld with conns := s.fld.conns.filter fun e => e.2.lodge != l } }

/-- Every pin of a lodge's pages is released. -/
def State.dropPins (s : State) (l : Nat) : State :=
  let un (j : Job) : Job := { j with pins := j.pins.filter fun k => keyLodge k != l }
  { s with cores := s.cores.map fun e => (e.1, { e.2 with places := e.2.places.map fun p => (p.1, un p.2) }),
           att := { s.att with queue := s.att.queue.map fun w => { w with pins := w.pins.filter fun k => keyLodge k != l } } }

/-- A KV page returns to its pool: words 0 to 3 of its header are zeroed. -/
def State.freeKvPage (s : State) (l : Nat) (p : Pool) (n : Nat) : State :=
  if (s.page l (p.pageAddr n)).isSome then s.pokeRaw l (p.pageAddr n) (leBytes 32 0) else s

/-- Every KV page of the lodge's pools returns to its pool. -/
def State.freeKv (s : State) (l : Nat) : State :=
  let s := (natsFrom 0 8).foldl (fun (s : State) i =>
    match (s.pool l i).1 with
    | none => s
    | some p => (natsFrom 0 p.pages).foldl (fun (s : State) n => s.freeKvPage l p n) s) s
  { s with att := { s.att with index := Tbl.clear (l * 2 ^ 36) ((l + 1) * 2 ^ 36) s.att.index } }

/-- TEARDOWN: FAULTED first when ACTIVE, then streams, pins and KV pages. -/
def State.teardown (s : State) (l : Nat) : State × Nat :=
  let v := s.lodAllowed l [1, 2, 3]
  if v ≠ St.ok then (s, v)
  else
    let s := if s.lodge l = 1 then s.faultLodge l St.cancelled 6 0 0 0 else s
    let s := s.wr Reg.lodStateState 4 l
    let s := ((((s.refuseHome l St.notReady).closeStreams l).closeConns l).dropPins l).freeKv l
    (s.homeRun, St.ok)

/-- HALTED: every kill of the lodge has left KILL (R281). -/
def State.halt (s : State) (l : Nat) : State :=
  if s.lodge l = 4 ∧ !(s.jobs.any fun j => j.2.2.cmd.lodge == l) then s.wr Reg.lodStateState 5 l else s

/-! ## DESTROY (R278) -/

/-- The bindings of a lodge are removed. -/
def State.unbindLodge (s : State) (l : Nat) : State :=
  { s with lod := { s.lod with tenants := s.lod.tenants.filter fun e => e.2 != l } }

/-- What the units hold of a lodge: backed core-store pages, Tallies and groups, keys, the page index, arrival counters, cached lines, client
records and regulator buckets. -/
def State.forgetLodge (s : State) (l : Nat) : State :=
  { s with
    cores := s.cores.map fun e => (e.1, { e.2 with pageMap := Tbl.clear (l * 512) ((l + 1) * 512) e.2.pageMap }),
    tallies := s.tallies.filter fun e => e.2.lodge != l,
    groups := s.groups.filter fun e => e.2.lodge != l,
    tlg := { s.tlg with keys := Tbl.del l s.tlg.keys },
    att := { s.att with index := Tbl.clear (l * 2 ^ 36) ((l + 1) * 2 ^ 36) s.att.index },
    spn := { s.spn with arr := s.spn.arr.filter fun e => e.2.lodge != l, cache := s.spn.cache.filter fun c => c.lodge != l },
    lod := { s.lod with clients := Tbl.clear (l * 2 ^ 17) ((l + 1) * 2 ^ 17) s.lod.clients,
                        minTok := Tbl.clear (l * 8) (l * 8 + 8) s.lod.minTok, maxTok := Tbl.clear (l * 8) (l * 8 + 8) s.lod.maxTok,
                        pathWait := s.lod.pathWait.filter fun k => k % 16 != l } }

/-- Steps 1 to 6 of R278. -/
def State.destroyLodge (s : State) (l : Nat) : State :=
  let s := (((s.unbindLodge l).refuseHome l St.noLodge).closeStreams l).closeConns l
  let s := (natsFrom 0 8).foldl (fun (s : State) k => if s.rd Reg.ldgModelCfgLodge k = l then s.wr Reg.ldgModelCfgValid 0 k else s) s
  let s := (s.mem.pages.filter fun e => keyLodge e.1 == l).foldl (fun (s : State) e => s.unmapPage l (e.1 % 2 ^ 27)) s
  let s := (s.spn.repl.filter fun r => r.lodge == l).foldl (fun (s : State) r => s.dropReplica r) s
  (s.forgetLodge l).resetLodgeRegs l

/-- DESTROY: refused while a ring is bound to the lodge or an entry is not FREE. -/
def State.destroy (s : State) (l : Nat) : State × Nat :=
  let v := s.lodAllowed l [1, 5]
  if v ≠ St.ok then (s, v)
  else if s.ringBound l || s.hasEntries l then (s, St.busy)
  else (s.destroyLodge l, St.ok)

/-! ## CLIENT_DUMP (R293, R295) -/

/-- A client record as 256 bytes. -/
def Client.bytes (c : Client) (lodge client : Nat) (ovf : Bool) : List Byte :=
  leBytes 8 (client + lodge * 2 ^ 16 + (if ovf then 2 ^ 20 else 0)) ++ leBytes 8 c.waitSum ++ leBytes 8 c.waitMax ++ leBytes 8 c.waits ++
  leBytes 8 c.preempt ++ leBytes 8 c.fallback ++ leBytes 8 c.late ++ leBytes 8 c.admits ++ leBytes 8 c.tokens ++ List.replicate 56 0 ++
  (natsFrom 0 16).flatMap fun i => leBytes 8 (Tbl.get 0 i c.hist)

/-- One record copied: zeroed with CLEAR, given up with FREE when its client has no entry in the lodge. -/
def State.dumpClient (s : State) (l : Nat) (clear free : Bool) (base i key : Nat) : State :=
  let ovf := key % 2 ^ 17 == 2 ^ 16
  let client := if ovf then 0 else key % 2 ^ 16
  let c := (Tbl.find key s.lod.clients).getD Client.zero
  let s := s.hostWrite (base + 256 * i) (c.bytes l client ovf)
  let idle := !(s.ldg.entries.any fun e => e.2.req.lodge == l && e.2.req.client == client)
  if free && !ovf && idle then { s with lod := { s.lod with clients := Tbl.del key s.lod.clients } }
  else if clear && (Tbl.find key s.lod.clients).isSome then { s with lod := { s.lod with clients := Tbl.put key Client.zero s.lod.clients } }
  else s

/-- CLIENT_DUMP: clients ascending, the overflow record last. -/
def State.clientDump (s : State) (l : Nat) (clear free : Bool) : State × Nat × Nat :=
  let v := s.lodAllowed l [1, 2, 3, 4, 5]
  if v ≠ St.ok then (s, v, 0)
  else
    let ovf := clientKey l (2 ^ 16)
    let keys := ((s.lod.clients.filter fun e => decide (l * 2 ^ 17 ≤ e.1) && decide (e.1 < ovf)).map (·.1)) ++ [ovf]
    let base := s.rd Reg.lodCmdAddrAddr * 256
    (keys.zipIdx.foldl (fun (s : State) k => s.dumpClient l clear free base k.2 k.1) s, St.ok, keys.length)

/-! ## Personas and drain (R296 to R298) -/

/-- A write of DRAIN (R297). -/
def State.drainWrite (s : State) (on : Bool) : State :=
  let s := s.flag Reg.lodPersonaDrain on
  if on then s.wr Reg.ldgCtrlEnable 0 else s

/-- No KV page of a lodge's pools is owned or shared. -/
def State.kvIdle (s : State) (l : Nat) : Bool :=
  (natsFrom 0 8).all fun i =>
    match (s.pool l i).1 with
    | none => true
    | some p => (natsFrom 0 p.pages).all fun n => s.hdrStatus l p n != St.ok || !s.pageUsed l p n

/-- DRAINED (R297). -/
def State.drained (s : State) : Bool :=
  s.ldg.entries == [] && s.cores.all (fun e => e.2.queue == [] && e.2.places == []) && s.hif.ledgerQ == [] && s.hif.adminQ == [] &&
  s.hif.rings.all (fun e => e.2.hold.isNone && e.2.barriers == []) && s.ldg.slots.all (fun e => e.2.todo == [] && e.2.left == []) &&
  s.wan.streams == [] && s.wan.pulls == [] && s.wan.recvs == [] && s.wan.held == [] && s.att.queue.all (fun w => w.pins == []) && s.att.held == [] &&
  s.spn.out == [] && s.spn.todo == [] && (natsFrom 0 16).all s.kvIdle

/-- A write of PERSONA: only while DRAINED and no change is in progress (R298). -/
def State.personaWrite (s : State) (p : Nat) : State :=
  if s.on Reg.lodPersonaPersonaBusy || !s.drained then s.discard
  else { s.wr Reg.lodPersonaPersonaBusy 1 with lod := { s.lod with newPersona := some (p % 4) } }

/-- PERSONA_DONE. -/
def State.personaDone (s : State) : State :=
  match s.lod.newPersona with
  | none => s
  | some p => { (s.wr Reg.lodPersonaPersona p).wr Reg.lodPersonaPersonaBusy 0 with lod := { s.lod with newPersona := none } }

/-! ## Regulators (R288 to R291) -/

/-- Ports UP in a mode. -/
def State.portsUp (s : State) (mode : Nat) : List Nat :=
  (natsFrom 0 8).filter fun n => s.rd Reg.lnkStatusState n == 2 && s.rd Reg.lnkCtrlMode n == mode

/-- Bytes per µs of a Chroit port at its RATE (R344). -/
def State.portRate (s : State) (n : Nat) : Nat := 200000 / 2 ^ s.rd Reg.lnkStatusRate n

/-- CAP of a path (R288). -/
def State.pathCap (s : State) (p : Nat) : Nat :=
  if p = 0 then
    if s.stage < 4 then 0
    else
      let one := 8000000 * s.rd Reg.nbuRateRate / 64
      (natsFrom 0 8).foldl (fun n i => n + (if bitAt i (s.rd Reg.nbuStatusHot) then one * 977 / 1000 else one)) 0
  else if p = 1 then (if s.stage < 2 then 0 else 1200000)
  else if p = 2 then 240000 * ((natsFrom 0 4).filter fun n => s.rd Reg.memTrayUp n == 1).length
  else if p = 3 then Config.hostCap (s.rd Reg.hifStatusSpeed) (s.rd Reg.hifStatusWidth)
  else if p = 4 then (s.portsUp 0).foldl (fun c n => c + (s.portRate n - Tbl.get 0 n s.lnk.fwdLast)) 0
  else (s.portsUp 1).foldl (fun c n => c + s.portRate n) 0

/-- A packet received on a connection of the lodge waits for the regulator of a path (R408). -/
def State.rxWaits (s : State) (l p : Nat) : Bool :=
  s.fld.conns.any fun e => e.2.lodge == l && e.2.rxTags == [] && e.2.rxDone == none &&
    match e.2.rxWait with | (_, q) :: _ => (s.page l q.addr).isSome && s.pathAt l q.addr == p | [] => false

/-- A lodge has a request waiting on a path. -/
def State.waitsOn (s : State) (l p : Nat) : Bool :=
  if p = 4 then s.sent.any fun m => m.lodge == l
  else if p = 5 then s.fld.conns.any fun e => e.2.lodge == l && e.2.queue != []
  else s.lod.pathWait.contains (p * 16 + l) || s.rxWaits l p || s.wan.held.any (fun m => s.heldPath m == some (l, p)) || (p == 0 && s.att.queue.any fun w => w.lodge == l && w.left.isSome) ||
    s.emb.queue.any fun w => w.lodge == l && match w.left with | some (a, b, c) => [a, b, c].getD p 0 != 0 | none => false

/-- One microsecond of one lodge on one path. -/
def State.refillOne (s : State) (p cap l : Nat) : State :=
  let s := if s.waitsOn l p && decide (s.maxTok l p ≤ 0) then s.bump Reg.lodThrottleCount 1 l p else s
  let up := s.rd Reg.lodMaxShare l p * cap / 1024
  let eb : Int := ((max (s.rd Reg.lodBurstKib l p * 1024) up : Nat) : Int)
  let mn := min (s.minTok l p + ((s.rd Reg.lodMinShare l p * cap / 1024 : Nat) : Int)) eb
  let mx := min (s.maxTok l p + ((up : Nat) : Int)) eb
  { s with lod := { s.lod with minTok := Tbl.put (l * 8 + p) mn s.lod.minTok, maxTok := Tbl.put (l * 8 + p) mx s.lod.maxTok } }

/-- One microsecond of one path: CAP is computed again and the buckets of every lodge are filled (R288, R289). -/
def State.fillPath (s : State) (p : Nat) : State :=
  let cap := s.pathCap p
  let s := s.wr Reg.lodPathCapBytesPerUs cap p
  ((natsFrom 0 16).filter fun l => s.lodge l != 0).foldl (fun (s : State) l => s.refillOne p cap l) s

/-- Every path is filled. -/
def State.fillBuckets (s : State) : State :=
  let s := (natsFrom 0 6).foldl (fun (s : State) p => s.fillPath p) s
  { s with lnk := { s.lnk with fwd := [], fwdLast := s.lnk.fwd }, lod := { s.lod with devUsed := [] } }

/-- Device traffic of `n` bytes keeps to 1/64 of CAP in this microsecond (R291). -/
def State.devRoom (s : State) (p n : Nat) : Bool := decide (Tbl.get 0 p s.lod.devUsed + n ≤ s.pathCap p / 64)

/-- Device traffic is granted: it is charged to no lodge (R291). -/
def State.devCharge (s : State) (p n : Nat) : State :=
  { s with lod := { s.lod with devUsed := Tbl.set 0 p (Tbl.get 0 p s.lod.devUsed + n) s.lod.devUsed } }

/-- REFILL: the buckets, and then the work that waited for them (R136, R289; DEDUCED, log 134, log 149). -/
def State.refill (s : State) : State := (s.fillBuckets.attWake.embPump.retakeHeld.pumpConns).choices

/-- The lodges that may be granted on a path, and whether they are guaranteed (R289). -/
def State.grantSet (s : State) (p : Nat) (ls : List Nat) : List Nat × Bool :=
  let el := ls.filter fun l => decide (0 < s.maxTok l p)
  let gu := el.filter fun l => decide (0 < s.minTok l p)
  if gu = [] then (el, false) else (gu, true)

/-- The lodges whose requests are left waiting at a grant point of a path. -/
def State.pathLeft (s : State) (p : Nat) (rest : List (Nat × Nat)) : State :=
  let new := sortDedup ((rest.filter fun r => decide (r.1 < 16)).map fun r => p * 16 + r.1)
  { s with lod := { s.lod with pathWait := (s.lod.pathWait.filter fun k => k / 16 != p) ++ new } }

/-- PATH_GRANT: device traffic first, uncharged, within its share of the microsecond; then one lodge's oldest request (R289, R291). What is left
waits. -/
def State.pathGrant (s : State) (p : Nat) (reqs : List (Nat × Nat)) : State :=
  match reqs.find? fun r => decide (16 ≤ r.1) && s.devRoom p r.2 with
  | some d => (s.devCharge p d.2).pathLeft p (reqs.erase d)
  | none =>
    let (set, guaranteed) := s.grantSet p (sortDedup ((reqs.filter fun r => decide (r.1 < 16)).map (·.1)))
    let (cur, w) := wrrGrant s.lod.pathCur (p * 16) (fun l => s.rd Reg.lodCfgWeight l) set
    match w.bind fun l => reqs.find? fun r => r.1 == l with
    | none => s.pathLeft p reqs
    | some r => (({ s with lod := { s.lod with pathCur := cur } } : State).charge p r.1 r.2 guaranteed).pathLeft p (reqs.erase r)

/-! ## The commands -/

/-- An operation that names its lodge. -/
def State.lodOp (s : State) (op l : Nat) (run : State → State × Nat) : State :=
  s.lodCmd op (l % 16) fun s => let r := run s; (r.1, 16, r.2, 0)

/-- CREATE (R276). -/
def execCreate (s : State) : Out := .next (s.lodCmd 1 0 State.create)
/-- DESTROY (R278). -/
def execDestroy (lodge : Nat) (s : State) : Out := .next (s.lodOp 2 lodge fun s => s.destroy lodge).choices
/-- BIND (R277): LOD_CMD_ARG holds the tenant. -/
def execBind (lodge tenant : Nat) (s : State) : Out :=
  .next ((s.wr Reg.lodCmdArgTenant tenant).lodOp 3 lodge fun s => s.bind lodge (s.rd Reg.lodCmdArgTenant))
/-- UNBIND (R277). -/
def execUnbind (lodge tenant : Nat) (s : State) : Out :=
  .next ((s.wr Reg.lodCmdArgTenant tenant).lodOp 4 lodge fun s => s.unbind lodge (s.rd Reg.lodCmdArgTenant))
/-- LODGE_RESET (R282). -/
def execLodgeReset (lodge : Nat) (s : State) : Out := .next (s.lodOp 5 lodge fun s => s.resetLodge lodge).choices
/-- TEARDOWN (R281). -/
def execTeardown (lodge : Nat) (s : State) : Out := .next (s.lodOp 6 lodge fun s => s.teardown lodge).choices
/-- HALTED (R281). -/
def execHalted (lodge : Fin 16) (s : State) : Out := .next (s.halt lodge)
/-- CLIENT_DUMP (R295). -/
def execClientDump (lodge : Nat) (clear free : Bool) (s : State) : Out :=
  .next (s.lodCmd 7 (lodge % 16) fun s => let r := s.clientDump lodge clear free; (r.1, 16, r.2.1, r.2.2))
/-- LOD_CMD_DONE (R276). -/
def execLodCmdDone (s : State) : Out := .next s.lodCmdDone
/-- DRAIN (R297). -/
def execDrain (on : Bool) (s : State) : Out := .next (s.drainWrite on)
/-- PERSONA (R298). -/
def execPersona (persona : Nat) (s : State) : Out := .next (s.personaWrite persona)
/-- PERSONA_DONE (R298). -/
def execPersonaDone (s : State) : Out := .next s.personaDone
/-- REFILL (R289). -/
def execRefill (s : State) : Out := .next s.refill
/-- PATH_GRANT (R289). -/
def execPathGrant (path : Fin 6) (requests : List (Nat × Nat)) (s : State) : Out := .next (s.pathGrant path requests)

end Sys2Proof.Machine
end

