-- ==== Sys2Proof/Machine/SpanMaster.lean ====
section
/-!
DEFINITION. What arrives at a device from its span: the delivery of a message to its layer (R346, R374, R405), forwarding (R374), the
master lease and its beats (R376, R377), isolation (R378).
-/

namespace Sys2Proof.Machine

/-! ## Delivery -/

/-- Ledger messages by their MSG code (R211, R218, R443). -/
def State.deliverLedger (s : State) (k : Nat) (m : Msg) : State :=
  if k = 0x20 then s.prefillIn m
  else if k = 0x21 then s.prefillAckIn m
  else if k = 0x22 then s.prefillDoneIn m
  else if k = 0x23 then s.prefillCancelIn m
  else if k = 0x24 then s.pageOpIn m
  else if k = 0x25 then s.pageRspIn m
  else if k = 0x26 then s.groupMapIn m
  else if k = 0x27 then s.groupMapAckIn m
  else if k = 0x28 then s.groupCheckIn m
  else if k = 0x29 then s.groupRspIn m
  else if k = 0x2A then s.groupStepIn m
  else if k = 0x2B then s.groupNodeIn m
  else if k = 0x2C then s.groupAckIn m
  else s

/-- Attention, Wain and embedding messages (R161, R241, R263). -/
def State.deliverHome (s : State) (k : Nat) (m : Msg) : State :=
  if k = 0x30 then s.attReqIn m
  else if k = 0x31 then (s.attReply (m.fld 1 0 32) { m with w := m.w.take 7 }).settlePrompt
  else if k = 0x40 then s.blockIn m
  else if k = 0x41 then s.blockAckIn m
  else if k = 0x42 then s.blockNakIn m
  else if k = 0x43 then s.handoverReqIn m
  else if k = 0x44 then s.fenceIn m
  else if k = 0x45 then s.fenceAckIn m
  else if k = 0x46 then s.handoverRspIn m
  else if k = 0x47 then s.layerAckIn m
  else if k = 0x48 then s.pullIn m
  else if k = 0x50 then s.embAccept { m with kind := 0x50 }
  else if k = 0x52 then s.embAccept { m with kind := 0x52 }
  else if k = 0x51 ∨ k = 0x53 then s.embReply (m.fld 1 0 32) m
  else s

/-! ## Isolation (R377, R378) -/

/-- MSG code of a message at egress, forwarded or not (R374). -/
def Sent.code (h : Sent) : Nat := (if h.msg.kind % 2 ^ 8 = 0x60 then (Msg.ofBytes h.msg.body).kind else h.msg.kind) % 2 ^ 8

/-- A request that an agent of this device originates: the ledger messages, ATT_REQ, WAIN_BLOCK, HANDOVER_REQ, LAYER_ACK, PULL, EMB_REQ,
EMB_UPD and the requests of SPAN commands (R378). A PREFILL_ACK, PREFILL_DONE, PAGE_RSP, GROUP_MAP_ACK, GROUP_RSP or GROUP_ACK answers a request and is no
request; what is forwarded is of another device. -/
def Sent.own (h : Sent) : Bool :=
  h.lodge != 17 && [0x20, 0x23, 0x24, 0x26, 0x28, 0x2A, 0x2B, 0x30, 0x40, 0x43, 0x47, 0x48, 0x50, 0x52, 0x61, 0x63, 0x65, 0x66].contains h.code

/-- Requests that stand at egress when the device becomes isolated are held there as later ones are (R378). -/
def State.holdSent (s : State) : State :=
  { s with sent := s.sent.filter fun h => !h.own, spn := { s.spn with held := s.spn.held ++ s.sent.filter Sent.own } }

/-- The span line cache is emptied and every replica is invalid (R378). -/
def State.dropCopies (s : State) : State :=
  { s with spn := { s.spn with cache := [], repl := s.spn.repl.map fun r => { r with valid := false, pieces := 33 } } }

/-- The device enters ISOLATED: its requests are held, its copies go, the alarm is raised. -/
def State.isolate (s : State) (cause second : Nat) : State :=
  if s.isolated then s
  else
    let s := ((s.wr Reg.spnStatusIsolated 1).setBit Reg.spnErrBits 1).holdSent.dropCopies
    s.alarm 0x03 0xF 0xFF (s.rd Reg.spnStatusMasterDev + cause * 2 ^ 24) second

/-- The route to the master names no port that is UP (R377). -/
def State.masterCut (s : State) : Bool :=
  let d := s.rd Reg.spnStatusMasterDev
  s.assigned && d != 0xFFFFFF && d != s.self &&
    !((bitList 8 (s.rd Reg.spnRoutePorts (member d))).any fun p => s.rd Reg.lnkStatusState p == 2)

/-- A port has left UP, or a route has changed. -/
def State.checkRoute (s : State) : State := if s.masterCut then s.isolate 1 0 else s

/-- A time lies within LOSS_US of now. -/
def State.recent (s : State) (t : Nat) : Bool := decide ((s.now + 2 ^ 64 - t) % 2 ^ 64 ≤ s.rd Reg.spnTimingLossUs * 1000)

/-- A beat is accepted; beats of two senders within LOSS_US isolate (R377). -/
def State.beatIn (s : State) (src : Nat) : State :=
  let two := match s.spn.beat with | some (d, t) => d != src && s.recent t | none => false
  let old := s.rd Reg.spnStatusMasterDev
  let s := { s.wr Reg.spnStatusMasterDev src with spn := { s.spn with beat := some (src, s.now) } }
  if two then ((s.wr Reg.spnStatusMasterDev old).isolate 2 src).wr Reg.spnStatusMasterDev src |>.setBit Reg.spnErrBits 4 else s.checkRoute

/-- BEAT_LOSS: no beat for LOSS_US. -/
def State.beatLoss (s : State) : State :=
  if s.assigned then ({ s with spn := { s.spn with beat := none } } : State).isolate 0 0 else s

/-- A held message goes on its way. -/
def State.releaseHeld (s : State) (h : Sent) : State :=
  if s.beyond h.dst then s.send 8 h.lodge h.dst h.msg else { s with sent := s.sent ++ [h] }

/-- REJOIN (R378): only while a beat has arrived within LOSS_US; held messages are released in order. -/
def State.rejoin (s : State) : State :=
  if s.isolated && (match s.spn.beat with | some (_, t) => s.recent t | none => false) then
    let held := s.spn.held
    let s := { s.wr Reg.spnStatusIsolated 0 with spn := { s.spn with held := [] } }
    held.foldl (fun (s : State) h => s.releaseHeld h) s
  else s.discard

/-! ## The master (R376) -/

/-- Span time is valid. -/
def State.spanValid (s : State) : Bool := s.on Reg.lnkStimeStatusValid

/-- Span time (R366): it wraps at 2^64. -/
def State.spanTime (s : State) : Nat := ((s.now : Int) + s.lnk.offset).emod (2 ^ 64) |>.toNat

/-- What a lease is compared with: span time, or the device timestamp while span time is not valid. -/
def State.leaseClock (s : State) : Nat := if s.spanValid then s.spanTime else s.now

/-- The device is master. -/
def State.master (s : State) : Bool := s.on Reg.spnStatusMaster

/-- The source of span time: it keeps a valid span time running, else starts it at its own timestamp (R366). -/
def State.becomeSource (s : State) : State :=
  let s : State := { s with lnk := { s.lnk with offset := if s.spanValid then s.lnk.offset else 0, slew := 0, hold := 0 } }
  ((s.wr Reg.lnkStimeStatusValid 1).wr Reg.lnkStimeStatusSource 1).wr Reg.lnkStimeStatusHops 0

/-- Both duties of the master stop at once. -/
def State.endMaster (s : State) (revoked : Nat) : State :=
  if s.master then
    let s := ((s.wr Reg.spnStatusMaster 0).wr Reg.lnkStimeStatusSource 0).setBit Reg.spnErrBits 2
    s.error 0x43 0xF 0xFF (s.rd Reg.spnLeaseValue) revoked
  else s

/-- A write of the lease's high half grants or renews mastership, or ends it where the lease is not later than the member's time (R376). -/
def State.leaseWrite (s : State) (until_ns : Nat) : State :=
  let s := s.wr Reg.spnLeaseValue until_ns
  if s.leaseClock < s.rd Reg.spnLeaseValue then (if s.master then s else s.becomeSource.wr Reg.spnStatusMaster 1)
  else s.endMaster 0

/-- BEAT_TIMER: the master sends MASTER_BEAT to every member, and counts its own beat. -/
def State.beatTimer (s : State) : State :=
  if s.master then
    let s := s.others.foldl (fun (s : State) d => s.send 8 16 d (mkMsg 0x69 s.self 0 [s.rd Reg.spnLeaseValue] [])) s
    s.beatIn s.self
  else s

/-! ## Forwarding (R374) -/

/-- A message for this device's layers. -/
def State.deliver (s : State) (m : Msg) : State :=
  let k := m.kind % 2 ^ 8
  if k = 0x69 then s.beatIn m.src
  else if k = 0x61 ∨ k = 0x63 ∨ k = 0x65 ∨ k = 0x66 then s.homeAccept { m with kind := k }
  else if k = 0x62 then s.readReply m
  else if k = 0x64 then s.ackReply m
  else if k = 0x67 then s.spInvalIn m
  else if k = 0x68 then s.spRepubIn m
  else if k < 0x30 then s.deliverLedger k m
  else s.deliverHome k m

/-- SPAN_FWD arrives: the destination unwraps it, another member forwards it by its own route. -/
def State.forward (s : State) (m : Msg) : State :=
  let dst := m.fld 1 0 24
  let hops := m.fld 1 24 6
  let inner := Msg.ofBytes m.body
  if dst = s.self then s.deliver inner
  else if hops = 63 then (s.bump Reg.spnFwdDropCount).setBit Reg.spnErrBits 3
  else
    let w : Msg := { m with w := match m.w with | [] => [] | a :: r => (a + 2 ^ 24) :: r }
    let p := s.routePort 8 dst
    let n := w.bytes.length
    let s := s.count Reg.spnFwdCount n
    let s : State := { s with sent := s.sent ++ [⟨dst, p, atBulk inner.kind w, 17, w⟩] }
    match p with
    | some p => { s with lnk := { s.lnk with fwd := Tbl.set 0 p (Tbl.get 0 p s.lnk.fwd + n) s.lnk.fwd } }
    | none => s

/-- A message off a port. -/
def State.arriveMsg (s : State) (m : Msg) : State := if m.kind % 2 ^ 8 = 0x60 then s.forward m else s.deliver m

/-! ## The commands -/

/-- SPAN_FWD (R374). -/
def execSpanFwd (_port : Fin 8) (m : Msg) (s : State) : Out := .next (s.forward m).choices
/-- MASTER_BEAT (R377). -/
def execMasterBeat (m : Msg) (s : State) : Out := .next (s.beatIn m.src)
/-- BEAT_TIMER (R376). -/
def execBeatTimer (s : State) : Out := .next s.beatTimer
/-- BEAT_LOSS (R377). -/
def execBeatLoss (s : State) : Out := .next s.beatLoss
/-- LEASE_EXPIRY (R376). -/
def execLeaseExpiry (s : State) : Out := .next (s.endMaster 0)
/-- LEASE_GRANT (R376). -/
def execLeaseGrant (until_ns : Nat) (s : State) : Out := .next (s.leaseWrite until_ns)
/-- LEASE_REVOKE (R376). -/
def execLeaseRevoke (s : State) : Out := .next (s.endMaster 1)
/-- REJOIN (R378). -/
def execRejoin (s : State) : Out := .next s.rejoin

end Sys2Proof.Machine
end

