-- ==== Sys2Proof/Machine/Links.lean ====
section
/-!
DEFINITION. The Chroit links (R344 to R367): flits, sequence and replay, training and retrain, span time.
-/

namespace Sys2Proof.Machine

/-! ## Ports -/

/-- STATE of a port (R358). -/
def State.linkState (s : State) (n : Nat) : Nat := s.rd Reg.lnkStatusState n
/-- The port is in span mode and UP. -/
def State.spanUp (s : State) (n : Nat) : Bool := s.linkState n == 2 && s.rd Reg.lnkCtrlMode n == 0

/-- Distance from `b` up to `a` among the 4,096 numbers. -/
def seqDiff (a b : Nat) : Nat := (a + 4096 - b % 4096) % 4096

/-- The 256 bytes of a flit; zeros fill it (R347). -/
def flitData (bs : List Byte) : List Byte := (bs ++ List.replicate 256 0).take 256

/-- Flits of a partly received message. -/
def openFlits : Option (List Byte) → Nat
  | none => 0
  | some bs => ceilDiv bs.length 256

/-- Flits a port discards when it loses its peer: unacknowledged ones, and those of partly received messages. -/
def LPort.held (p : LPort) : Nat := p.unacked.length + openFlits p.rxBulk + openFlits p.rxExpr

/-- Both buffers are emptied (R362, R364). -/
def LPort.emptied (p : LPort) : LPort :=
  { p with unacked := [], replay := 0, freed := (0, 0), since := 0, ackDue := false, nakDue := false, discarding := false, skip := 0,
           rxBulk := none, rxExpr := none, txBulk := none, txExpr := none, run := 0, due := [] }

/-! ## Training (R358 to R362) -/

/-- Fields of a port that has no rate and no phase. -/
def State.noRate (s : State) (n : Nat) : State :=
  ((s.wr Reg.lnkStatusRate 3 n).wr Reg.lnkStatusPhase 3 n).modLport n fun p => { p with fast := false, hello := none, seenTx := false, hops := none }

/-- A port drops what it held (R364). -/
def State.emptyPort (s : State) (n : Nat) : State :=
  ({ s with lnk := { s.lnk with stuck := s.lnk.stuck.filter fun x => x.2.1 != n } } : State).modLport n LPort.emptied

/-- The port enters ABSENT (4) or REFUSED (5): it drops what it held (R364). -/
def State.portLost (s : State) (n st fail : Nat) : State :=
  let was := s.linkState n
  let p := s.lport n
  let s := ((s.noRate n).wr Reg.lnkStatusState st n).wr Reg.lnkStatusFail fail n
  let s := s.setBit Reg.lnkErrBits (if st = 4 then 0 else 3) n
  let s := if was = 2 ∨ was = 3 ∨ p.held ≠ 0 then (s.bump Reg.lnkDropCount p.held n).setBit Reg.lnkErrBits 2 n else s
  let s := s.emptyPort n
  let s := s.error 0x48 0xF (200 + n) (n + st * 2 ^ 8 + fail * 2 ^ 16 + p.peer.getD 0 * 2 ^ 24) 0
  s.checkRoute

/-- Rate of an attempt in the sequence of nine (R360). -/
def attemptRate (k : Nat) : Nat := (k - 1) / 3

/-- An attempt begins at its SIGNAL phase. -/
def State.beginAttempt (s : State) (n k : Nat) : State :=
  let s := ((s.wr Reg.lnkStatusState 1 n).wr Reg.lnkStatusAttempt k n).wr Reg.lnkStatusRate (attemptRate k) n
  (s.wr Reg.lnkStatusPhase 0 n).modLport n fun p => { p with fast := false, hello := none, seenTx := false }

/-- The first attempt of a sequence: none above MAX_RATE; RATE 2 only at stages 2 and 3 (R361). -/
def State.firstAttempt (s : State) (n : Nat) : Nat := 3 * (if s.stage < 4 then 2 else s.rd Reg.lnkCtrlMaxRate n) + 1

/-- The port becomes DISABLED; it keeps what waits for acknowledgement until a peer is known. -/
def State.disablePort (s : State) (n : Nat) : State :=
  let was := s.linkState n
  let s := ((s.noRate n).wr Reg.lnkStatusState 0 n).wr Reg.lnkStatusAttempt 0 n
  if was = 2 then s.checkRoute else s

/-- A full training starts, where ENABLE and the stage allow one. -/
def State.startTraining (s : State) (n : Nat) : State :=
  if s.rd Reg.lnkCtrlEnable n = 0 ∨ s.stage < 2 then s.disablePort n
  else
    let was := s.linkState n
    let s := (s.modLport n fun p => { p with hops := none, replay := 0, due := [], ackDue := false, nakDue := false }).wr Reg.lnkStatusVersion 0 n
    let s := s.beginAttempt n (s.firstAttempt n)
    if was = 2 then s.checkRoute else s

/-- An attempt fails: the next one, or ABSENT after the ninth. -/
def State.failAttempt (s : State) (n fail : Nat) : State :=
  let s := (s.bump Reg.lnkTrainFailCount 1 n).count Reg.hltRetrainValue 1 (200 + n)
  let k := s.rd Reg.lnkStatusAttempt n
  if 9 ≤ k then s.portLost n 4 fail else (s.wr Reg.lnkStatusFail fail n).beginAttempt n (k + 1)

/-- EXCHANGE, or ALIGN in field mode, completes: the port is UP and replays what it holds from the peer's NEXT_SEQ (R359, R363). -/
def State.portUp (s : State) (n : Nat) : State :=
  let p := s.lport n
  let s := (s.wr Reg.lnkStatusState 2 n).wr Reg.lnkStatusPhase 3 n
  if s.rd Reg.lnkCtrlMode n = 1 then s.modLport n fun p => { p with fast := false }
  else
    let next := p.peerHello.1
    let kept := p.unacked.dropWhile fun f => decide (2048 ≤ seqDiff f.seq next)
    let kept := (kept.zipIdx).map fun e => { e.1 with seq := (next + e.2) % 4096, tries := 0 }
    let cut (b : Nat) (express : Bool) : Nat := b - (kept.filter fun f => f.express == express).length
    s.modLport n fun p =>
      { p with unacked := kept, replay := kept.length, tx := (next + kept.length) % 4096,
               credit := if p.fast then p.credit else (cut p.peerHello.2.1 false, cut p.peerHello.2.2 true),
               freed := if p.fast then p.freed else (0, 0),
               discarding := false, skip := 0, since := 0, ackDue := false, nakDue := false,
               peer := some (s.rd Reg.lnkPeerDevice n), fast := false, hello := none, seenTx := false, run := 0,
               due := (if kept = [] then [] else [⟨2, next, 0, 0⟩]) ++ [⟨4, 0, 0, 0⟩] }

/-- A port is in its EXCHANGE phase. -/
def State.exchanging (s : State) (n : Nat) : Bool :=
  (s.linkState n == 1 || s.linkState n == 3) && s.rd Reg.lnkStatusPhase n == 2

/-- A HELLO with HELLO_SEEN has been both received and sent. -/
def State.settleExchange (s : State) (n : Nat) : State :=
  if s.exchanging n && (s.lport n).hello == some true && (s.lport n).seenTx then s.portUp n else s

/-- The highest common version of the 1 to 3 this device offers; 0 none. -/
def agreedVersion (v : Nat) : Nat := if bitAt 3 v then 3 else if bitAt 2 v then 2 else if bitAt 1 v then 1 else 0

/-- A HELLO arrives (R362). -/
def State.helloIn (s : State) (n versions : Nat) (seen : Bool) (dev peerPort bulk expr next : Nat) : State :=
  if !s.exchanging n || s.rd Reg.lnkCtrlMode n == 1 then s
  else
    let dev := dev % 2 ^ 24
    let s := ((s.wr Reg.lnkPeerDevice dev n).wr Reg.lnkPeerPort peerPort n).wr Reg.lnkPeerValid 1 n
    let v := agreedVersion versions
    if v = 0 then (s.wr Reg.lnkStatusVersion 0 n).portLost n 5 5
    else
      let s := s.wr Reg.lnkStatusVersion v n
      if s.assigned && dev != 0xFFFFFF && (dev == s.self || spanOf dev % 2 ^ 12 != spanOf s.self % 2 ^ 12) then s.portLost n 5 6
      else
        let p := s.lport n
        let other := match p.peer with | some d => d != dev | none => false
        let s :=
          if other then
            (s.bump Reg.lnkDropCount p.held n).modLport n fun p => { p.emptied with tx := 0, rx := 0, peer := none, hello := p.hello, seenTx := p.seenTx }
          else s
        (s.modLport n fun p => { p with hello := some seen, peerHello := (next % 4096, bulk % 2 ^ 16, expr % 2 ^ 16) }).settleExchange n

/-- TRAINING_PHASE_DONE: the next phase begins. The last phase is done once a HELLO has been received. -/
def State.phaseDone (s : State) (n : Nat) : State :=
  let st := s.linkState n
  if st ≠ 1 ∧ st ≠ 3 then s
  else
    let ph := s.rd Reg.lnkStatusPhase n
    if ph = 0 then s.wr Reg.lnkStatusPhase 1 n
    else if ph = 1 then (if s.rd Reg.lnkCtrlMode n = 1 then s.portUp n else s.wr Reg.lnkStatusPhase 2 n)
    else if (s.lport n).hello.isSome then s.portUp n
    else s

/-- TRAINING_PHASE_LIMIT: the attempt fails by its phase. -/
def State.phaseLimit (s : State) (n : Nat) : State :=
  if s.linkState n = 1 then s.failAttempt n (s.rd Reg.lnkStatusPhase n + 1) else s

/-- TRAINING_RETRY, from ABSENT or REFUSED. -/
def State.trainingRetry (s : State) (n : Nat) : State :=
  if s.linkState n = 4 ∨ s.linkState n = 5 then s.startTraining n else s

/-- UNPLUG (R360, R364): ABSENT at once, with FAIL 4. -/
def State.unplug (s : State) (n : Nat) : State :=
  let st := s.linkState n
  if st = 1 ∨ st = 2 ∨ st = 3 then s.portLost n 4 4 else s

/-- Every port that is UP starts a full training (R362). -/
def State.retrainAll (s : State) : State :=
  ((natsFrom 0 8).filter fun n => s.linkState n == 2).foldl (fun (s : State) n => s.startTraining n) s

/-- Entry to stage 4: ports UP below MAX_RATE train from the top (R361). -/
def State.retrainSlow (s : State) : State :=
  ((natsFrom 0 8).filter fun n => s.linkState n == 2 && decide (s.rd Reg.lnkCtrlMaxRate n < s.rd Reg.lnkStatusRate n)).foldl
    (fun (s : State) n => s.startTraining n) s

/-- Entry to stage 2: enabled ports start to train. -/
def State.trainPorts (s : State) : State :=
  ((natsFrom 0 8).filter fun n => s.linkState n == 0).foldl (fun (s : State) n => s.startTraining n) s

/-- DEVICE_ID_ASSIGN (R370): only with every ring disabled and no span request outstanding. -/
def State.assignId (s : State) (d : Nat) : State :=
  let idle := (natsFrom 0 256).all fun r => s.rd Reg.hifRingCfgEnable r == 0
  if idle && s.spn.out == [] && s.spn.todo == [] && decide (d < 2 ^ 18) then (s.wr Reg.spnIdDevice d).retrainAll else s.discard

/-! ## Fast retrain (R363) -/

/-- A fast retrain starts: RETRAIN_REQ goes first; data waits. -/
def State.fastRetrain (s : State) (n cause : Nat) : State :=
  if s.linkState n ≠ 2 then s
  else
    let field := s.rd Reg.lnkCtrlMode n == 1
    let s := ((s.wr Reg.lnkStatusState 3 n).wr Reg.lnkStatusPhase 0 n).wr Reg.lnkStatusFail cause n
    let s := ((s.bump Reg.lnkRetrainCount 1 n).count Reg.hltRetrainValue 1 (200 + n)).setBit Reg.lnkErrBits 1 n
    let s := s.trace 0x80 0xF (200 + n) (n + cause * 2 ^ 8) 0
    let s := s.modLport n fun p =>
      { p with fast := true, hello := none, seenTx := false, replay := 0, ackDue := false, nakDue := false, run := 0, hops := none,
               due := if field then [] else [⟨6, cause, 0, 0⟩] }
    s.checkRoute

/-- RETRAIN_PHASE_LIMIT: a full training follows. -/
def State.retrainLimit (s : State) (n : Nat) : State :=
  if s.linkState n = 3 then s.startTraining n else s

/-! ## Sequence, acknowledgement and replay (R351 to R357) -/

/-- Replay every unacknowledged flit, after a REPLAY_START; a flit replayed TRIES_MAX times retrains instead (R353, R355). -/
def State.startReplay (s : State) (n next : Nat) : State :=
  let p := s.lport n
  if p.unacked.any fun f => decide (s.rd Reg.lnkRetrainCfgTriesMax ≤ f.tries) then s.fastRetrain n 7
  else s.modLport n fun p => { p with replay := p.unacked.length, due := (p.due.filter fun c => c.op != 2) ++ [⟨2, next, 0, 0⟩] }

/-- ACK_SEQ frees what it covers; a replay goes on from the first flit not covered (R352, R357). -/
def LPort.acked (p : LPort) (seq : Nat) : LPort :=
  match p.unacked with
  | [] => p
  | f :: _ =>
    let k := seqDiff (seq + 1) f.seq
    if k ≤ p.unacked.length then
      let r := p.unacked.drop k
      { p with unacked := r, replay := min p.replay r.length }
    else p

/-- The fields every CONTROL flit carries: ACK_SEQ and both credits (R350, R356). -/
def State.controlIn (s : State) (n seq bulk expr : Nat) : State :=
  s.modLport n fun p =>
    let q := p.acked seq
    { q with credit := (q.credit.1 + bulk % 2 ^ 16, q.credit.2 + expr % 2 ^ 16) }

/-- ACK. -/
def State.ackFlit (s : State) (n seq bulk expr : Nat) : State := if s.spanUp n then s.controlIn n seq bulk expr else s

/-- NAK: what it acknowledges is freed, then everything else is sent again. -/
def State.nakFlit (s : State) (n seq bulk expr : Nat) : State :=
  if s.spanUp n then ((s.bump Reg.lnkNakRxCount 1 n).controlIn n seq bulk expr).startReplay n ((seq + 1) % 4096) else s

/-- REPLAY_START: a receiver that discards takes the number; another discards what lies below the one it expects (R353). -/
def State.replayStart (s : State) (n next : Nat) : State :=
  if s.spanUp n then
    s.modLport n fun p =>
      let back := seqDiff p.rx next
      if back < 2048 then { p with discarding := false, skip := back }
      else if p.discarding then { p with discarding := false, skip := 0, rx := next }
      else { p with skip := 0 }
  else s

/-- BAD_FLIT (R353, R350): data waits for a replay; a CONTROL flit is only discarded. -/
def State.badFlit (s : State) (n : Nat) (k : BadKind) : State :=
  let s := match k with
    | .codeword => if s.linkState n = 2 then s.bump Reg.lnkCwUncorrCount 1 n else s
    | _ => s
  if !s.spanUp n then s
  else match k with
    | .control => (s.bump Reg.lnkCtlCrcCount 1 n).setBit Reg.lnkErrBits 4 n
    | _ => s.modLport n fun p => if p.discarding then p else { p with discarding := true, nakDue := true, skip := 0 }

/-- REPLAY_TIMEOUT: as though a NAK had arrived. -/
def State.replayTimeout (s : State) (n : Nat) : State :=
  match (s.lport n).unacked with
  | [] => s
  | f :: _ => if s.spanUp n then (s.count Reg.hltRetryValue 1 (200 + n)).startReplay n f.seq else s

/-- NAK_RETRY. -/
def State.nakRetry (s : State) (n : Nat) : State :=
  if s.spanUp n && (s.lport n).discarding then s.modLport n fun p => { p with nakDue := true } else s

/-- ACK_TIMER. -/
def State.ackTimer (s : State) (n : Nat) : State :=
  if s.spanUp n && (s.lport n).since != 0 then s.modLport n fun p => { p with ackDue := true } else s

/-- A context after a flit: `none` where the flit breaks R348. -/
def placeFlit (ctx : Option (List Byte)) (first : Bool) (data : List Byte) : Option (List Byte) :=
  match ctx with
  | none => if first then some data else none
  | some bs => if first then none else some (bs ++ data)

/-- Corrected codewords and symbols that the decoder reports; 65,536 codewords raise the part's CORR (R369, R435). -/
def State.countCorr (s : State) (n cw sym : Nat) : State :=
  let s := (s.bump Reg.lnkCwCorrCount cw n).bump Reg.lnkSymCorrCount sym n
  let c := (s.lport n).corr + cw
  (s.count Reg.hltCorrValue (c / 65536) (200 + n)).modLport n fun p => { p with corr := c % 65536 }

/-- After a message has been handed on: one that is held back for a full home queue keeps the buffer of its last flit (R25, R356; DEDUCED, log 140). -/
def State.stick (s : State) (n : Nat) (express : Bool) (was : Nat × Nat) : State :=
  match (if was.1 < s.att.held.length then s.att.held.getLast? else if was.2 < s.emb.held.length then s.emb.held.getLast? else none) with
  | some m =>
      ({ s with lnk := { s.lnk with stuck := s.lnk.stuck ++ [(m, n, express)] } } : State).modLport n fun p =>
        { p with freed := if express then (p.freed.1, p.freed.2 - 1) else (p.freed.1 - 1, p.freed.2) }
  | none => s

/-- DATA_FLIT: a good data flit (R348, R352, R353). -/
def State.dataFlit (s : State) (n : Nat) (express first last : Bool) (data : List Byte) (cw sym : Nat) : State :=
  let s := if s.linkState n = 2 then s.countCorr n cw sym else s
  if !s.spanUp n then s
  else
    let p := s.lport n
    if p.discarding then s
    else
      let due := decide (s.rd Reg.lnkReplayCfgAckFlits ≤ p.since + 1)
      if p.skip ≠ 0 then s.modLport n fun p => { p with skip := p.skip - 1, since := p.since + 1, ackDue := p.ackDue || due }
      else
        match placeFlit (if express then p.rxExpr else p.rxBulk) first (flitData data) with
        | none => s.badFlit n .flit
        | some bs =>
          let ctx := if last then none else some bs
          let s := s.modLport n fun p =>
            { p with rx := (p.rx + 1) % 4096, since := p.since + 1, ackDue := p.ackDue || due,
                     freed := if express then (p.freed.1, p.freed.2 + 1) else (p.freed.1 + 1, p.freed.2),
                     rxExpr := if express then ctx else p.rxExpr, rxBulk := if express then p.rxBulk else ctx }
          let s := s.count Reg.lnkRxCount 1 n
          if last then (s.arriveMsg (Msg.ofBytes bs)).stick n express (s.att.held.length, s.emb.held.length) else s

/-! ## The sender's slots (R349) -/

/-- CRC-3 of a flit's KIND, LEVEL, FIRST and LAST: x^3 + x + 1, initial value 0, bit 4 first (R346). -/
def crc3 (x : Nat) : Nat :=
  [4, 3, 2, 1, 0].foldl (fun c i =>
    let top := (bitAt 2 c) != (bitAt i x)
    let c := c * 2 % 8
    if top then c ^^^ 3 else c) 0

/-- The sideband byte. -/
def sideband (kind : Nat) (express first last : Bool) : Nat :=
  let x := kind + (if express then 4 else 0) + (if first then 8 else 0) + (if last then 16 else 0)
  x + crc3 x * 32

/-- A CONTROL flit (R350). -/
def controlFlit (w0 w1 w2 w3 : Nat) : List Byte :=
  let b := leBytes 8 w0 ++ leBytes 8 w1 ++ leBytes 8 w2 ++ leBytes 8 w3 ++ List.replicate 220 0
  b ++ leBytes 4 (crc32c b)

/-- Put a flit on the lanes. -/
def State.putFlit (s : State) (n sb : Nat) (bs : List Byte) : State := s.modLport n fun p => { p with flit := (sb, bs) }

/-- The HELLO of this port (R350, R356). -/
def State.helloFlit (s : State) (n : Nat) : List Byte :=
  let p := s.lport n
  controlFlit (2 ^ 48) (0xE + (if p.hello.isSome then 16 else 0) + s.self * 2 ^ 8 + n * 2 ^ 32) (2048 + 256 * 2 ^ 16 + 2047 * 2 ^ 32) p.rx

/-- HOPS that this device sends (R366). -/
def State.hopsOut (s : State) : Nat := if s.on Reg.lnkStimeStatusSource then 0 else s.rd Reg.lnkStimeStatusHops + 1

/-- Words 1 to 3 of a CONTROL operation, with the times of this slot. -/
def State.ctlWords (s : State) (c : LCtl) : Nat × Nat × Nat :=
  if c.op = 3 then (s.spanTime, s.hopsOut + (if s.spanValid then 2 ^ 6 else 0), 0)
  else if c.op = 4 then (s.now, 0, 0)
  else if c.op = 5 then (c.w1, c.w2, s.now)
  else (c.w1, c.w2, c.w3)

/-- A due CONTROL flit goes out. -/
def State.sendControl (s : State) (n : Nat) (up : Bool) : State :=
  let p := s.lport n
  let c : LCtl := p.due.headD ⟨0, 0, 0, 0⟩
  let (w1, w2, w3) := s.ctlWords c
  let ackBits := (p.rx + 4095) % 4096 + 2 ^ 12 + (if p.nakDue then 2 ^ 13 else 0) + min p.freed.1 0xFFFF * 2 ^ 16 + min p.freed.2 0xFFFF * 2 ^ 32
  let w0 := (if up then ackBits else 0) + c.op * 2 ^ 48
  let s := if up && p.nakDue then (s.bump Reg.lnkNakTxCount 1 n).count Reg.hltRetryValue 1 (200 + n) else s
  let s := s.putFlit n (sideband 2 false false false) (controlFlit w0 w1 w2 w3)
  s.modLport n fun p =>
    if up then { p with due := p.due.drop 1, ackDue := false, nakDue := false, since := 0, freed := (p.freed.1 - min p.freed.1 0xFFFF, p.freed.2 - min p.freed.2 0xFFFF) }
    else { p with due := p.due.drop 1 }

/-- A replayed flit goes out. -/
def State.sendReplay (s : State) (n : Nat) : State :=
  let p := s.lport n
  let i := p.unacked.length - p.replay
  match p.unacked[i]? with
  | none => s
  | some f =>
    let s := (s.bump Reg.lnkReplayFlitsCount 1 n).putFlit n (sideband 1 f.express f.first f.last) f.data
    s.modLport n fun p => { p with replay := p.replay - 1, unacked := p.unacked.set i { f with tries := f.tries + 1 } }

/-- The next new flit of a message takes a sequence number and a credit (R351, R356). -/
def State.sendNew (s : State) (n : Nat) (express : Bool) (m : LSend) : State :=
  let data := flitData m.rest
  let rest := m.rest.drop 256
  let last := rest.isEmpty
  let f : Flit := ⟨(s.lport n).tx, express, !m.begun, last, data, 0⟩
  let s := (s.count Reg.lnkTxCount 1 n).putFlit n (sideband 1 express f.first last) data
  let keep : Option LSend := if last then none else some ⟨true, rest⟩
  s.modLport n fun p =>
    { p with unacked := p.unacked ++ [f], tx := (p.tx + 1) % 4096,
             credit := if express then (p.credit.1, p.credit.2 - 1) else (p.credit.1 - 1, p.credit.2),
             txExpr := if express then keep else p.txExpr, txBulk := if express then p.txBulk else keep }

/-- The first message of a level that waits for the port, and the queue without it. -/
def takeSent (n : Nat) (ok : Sent → Bool) : List Sent → Option (Sent × List Sent)
  | [] => none
  | x :: r => if x.port == some n && ok x then some (x, r) else (takeSent n ok r).map fun e => (e.1, x :: e.2)

/-- The weight of a requester at a port: a lodge's WEIGHT, FWD_WEIGHT of forwarded traffic (R374). -/
def State.egressWeight (s : State) (l : Nat) : Nat := if l = 17 then s.rd Reg.spnTimeoutFwdWeight else s.rd Reg.lodCfgWeight l

/-- Where the weighted round-robin counts of a level stand among those of a port: each level has its own arbiter (DEDUCED, log 139). -/
def levelBase (bulk : Bool) : Nat := if bulk then 0 else 32

/-- A message leaves for the lanes: an ATT_REQ of this device is counted as sent (R166). -/
def State.beginSend (s : State) (r : List Sent) (x : Sent) : State :=
  let s : State := { s with sent := r }
  if x.code = 0x30 ∧ x.lodge ≠ 17 then s.count Reg.attReqOutCount else s

/-- The message of a level that a port takes next, within the regulators of path 4: device traffic first, within its share of the microsecond,
then by weighted round-robin over the lodges that may be granted and forwarded traffic (R288, R289, R291, R348). -/
def State.chooseSent (s : State) (n : Nat) (bulk : Bool) : State × Option Sent :=
  match takeSent n (fun x => x.bulk == bulk && x.lodge == 16 && s.devRoom 4 x.msg.bytes.length) s.sent with
  | some (x, r) => ((s.beginSend r x).devCharge 4 x.msg.bytes.length, some x)
  | none =>
    let ls := sortDedup ((s.sent.filter fun x => x.port == some n && x.bulk == bulk).map (·.lodge))
    let g := s.grantSet 4 (ls.filter fun l => decide (l < 16))
    let reqs := g.1 ++ ls.filter fun l => l == 17
    let w := wrrGrant (s.lport n).cur (levelBase bulk) s.egressWeight reqs
    match w.2.bind fun l => takeSent n (fun x => x.bulk == bulk && x.lodge == l) s.sent with
    | none => (s, none)
    | some (x, r) =>
      let s := (s.beginSend r x).modLport n fun p => { p with cur := w.1 }
      (if x.lodge < 16 then s.charge 4 x.lodge x.msg.bytes.length g.2 else s, some x)

/-- The message of a level that is chosen, as it begins. -/
def State.nextSend (s : State) (n : Nat) (bulk : Bool) : State × Option LSend :=
  let c := s.chooseSent n bulk
  (c.1, c.2.map fun x => ⟨false, x.msg.bytes⟩)

/-- The bulk message under way, or the next one begun. -/
def State.bulkNext (s : State) (n : Nat) : State × Option LSend :=
  match (s.lport n).txBulk with
  | some m => (s, some m)
  | none => s.nextSend n true

/-- The express message under way, or the next one begun. -/
def State.exprNext (s : State) (n : Nat) : State × Option LSend :=
  match (s.lport n).txExpr with
  | some m => (s, some m)
  | none => s.nextSend n false

/-- A bulk flit waits: a message under way, or one that may begin. -/
def State.bulkWaits (s : State) (n : Nat) : Bool := (s.bulkNext n).2.isSome
/-- An express flit waits. -/
def State.exprWaits (s : State) (n : Nat) : Bool := (s.exprNext n).2.isSome

/-- IDLE. -/
def State.sendIdle (s : State) (n : Nat) : State := s.putFlit n (sideband 0 false false false) (List.replicate 256 0)

/-- A bulk flit goes out. -/
def State.sendBulk (s : State) (n : Nat) : State :=
  match s.bulkNext n with
  | (s, some m) => (s.sendNew n false m).modLport n fun p => { p with run := 0 }
  | (s, none) => s.sendIdle n

/-- An express flit goes out; while a bulk flit waits with credit it is counted. -/
def State.sendExpr (s : State) (n : Nat) (waiting : Bool) : State :=
  match s.exprNext n with
  | (s, some m) => (s.sendNew n true m).modLport n fun p => { p with run := if waiting then p.run + 1 else 0 }
  | (s, none) => s.sendIdle n

/-- A data slot: express, bulk or IDLE, and the stall at 2,047 unacknowledged flits (R349, R354, R356). -/
def State.dataSlot (s : State) (n : Nat) : State :=
  let p := s.lport n
  let b := s.bulkWaits n && decide (0 < p.credit.1)
  let e := s.exprWaits n && decide (0 < p.credit.2)
  if !b && !e then s.sendIdle n
  else if 2047 ≤ p.unacked.length then (s.bump Reg.lnkStallCount 1 n).sendIdle n
  else if b && (!e || decide (8 ≤ p.run)) then s.sendBulk n
  else s.sendExpr n b

/-- TRAIN flits; their pattern is not stated. -/
def State.sendTrain (s : State) (n : Nat) : State :=
  (s.putFlit n (sideband 3 false false false) (s.freeBytes 256)).useFree 256

/-- FLIT_SLOT (R349, R359, R363). -/
def State.flitSlot (s : State) (n : Nat) : State :=
  let st := s.linkState n
  if s.rd Reg.lnkCtrlMode n = 1 ∨ (st ≠ 1 ∧ st ≠ 2 ∧ st ≠ 3) then (if st = 1 ∨ st = 3 then s.sendTrain n else s)
  else
    let p := s.lport n
    if st = 2 then
      if p.nakDue || p.ackDue || p.due != [] then s.sendControl n true
      else if p.replay ≠ 0 then s.sendReplay n
      else s.dataSlot n
    else if p.due ≠ [] then s.sendControl n false
    else if s.rd Reg.lnkStatusPhase n = 2 then
      let seen := p.hello.isSome
      let s := s.putFlit n (sideband 2 false false false) (s.helloFlit n)
      (s.modLport n fun p => { p with seenTx := p.seenTx || seen }).settleExchange n
    else s.sendTrain n

/-! ## Span time (R366, R367) -/

/-- A CONTROL operation becomes due. -/
def State.ctlDue (s : State) (n : Nat) (c : LCtl) : State := s.modLport n fun p => { p with due := p.due ++ [c] }

/-- TIME_SEND: TIME on every span-mode port that is UP, unless its HOPS would pass 63. -/
def State.timeSend (s : State) : State :=
  if s.spanValid && decide (s.hopsOut ≤ 63) then (s.portsUp 0).foldl (fun (s : State) n => s.ctlDue n ⟨3, 0, 0, 0⟩) s else s

/-- The port followed: lowest HOPS, then lowest port. -/
def State.followed (s : State) : Option Nat :=
  let c := (s.portsUp 0).filterMap fun n => (s.lport n).hops.map fun h => (h, n)
  match c with
  | [] => none
  | e :: r => some (r.foldl (fun b x => if x.1 < b.1 then x else b) e).2

/-- Correct span time towards a target (R367). -/
def State.correctTime (s : State) (target : Nat) : State :=
  let err : Int := (target : Int) - (s.spanTime : Int)
  if !s.spanValid then
    { s with lnk := { s.lnk with offset := (target : Int) - (s.now : Int), slew := 0, hold := 0 } }
  else if 1000 < err then { s with lnk := { s.lnk with offset := s.lnk.offset + err, slew := 0, hold := 0 } }
  else if err < -1000 then { s with lnk := { s.lnk with slew := 0, hold := (-err - 1000).toNat } }
  else { s with lnk := { s.lnk with slew := err, hold := 0 } }

/-- TIME. -/
def State.timeIn (s : State) (n tSend hops : Nat) (valid : Bool) : State :=
  if !s.spanUp n || !valid || s.on Reg.lnkStimeStatusSource then s
  else
    let s := s.modLport n fun p => { p with hops := some hops }
    if s.followed = some n then
      let s := s.correctTime ((tSend + s.rd Reg.lnkDelayDelayNs n) % 2 ^ 64)
      ((s.wr Reg.lnkStimeStatusValid 1).wr Reg.lnkStimeStatusHops hops).wr Reg.lnkStimeStatusPort n
    else s

/-- SPAN_TIME_LOST. -/
def State.spanTimeLost (s : State) : State :=
  if s.spanValid && !s.on Reg.lnkStimeStatusSource then
    let s := (s.wr Reg.lnkStimeStatusValid 0).wr Reg.lnkStimeStatusSyncLost 1
    let s := (natsFrom 0 8).foldl (fun (s : State) n => s.modLport n fun p => { p with hops := none }) s
    s.alarm 0x04 0xF 0xFF 0 0
  else s

/-- DELAY_RSP: the one-way delay; a result that DELAY_NS cannot hold is not stated. -/
def State.delayRsp (s : State) (n t1 t2 t3 : Nat) : State :=
  if !s.spanUp n then s
  else
    let d : Int := (((s.now : Int) - t1) - ((t3 : Int) - t2)) / 2
    if 0 ≤ d ∧ d < 65536 then s.wr Reg.lnkDelayDelayNs d.toNat n
    else (s.wr Reg.lnkDelayDelayNs (Config.freeNat s.free) n).useFree 1

/-- One nanosecond of span time: held, or slewed by 1 ns in 10 µs (R367). -/
def State.tickSpanTime (s : State) : State :=
  if s.lnk.hold ≠ 0 then { s with lnk := { s.lnk with offset := s.lnk.offset - 1, hold := s.lnk.hold - 1 } }
  else if s.lnk.slew ≠ 0 ∧ s.now % 10000 = 0 then
    let d : Int := if 0 < s.lnk.slew then 1 else -1
    { s with lnk := { s.lnk with offset := s.lnk.offset + d, slew := s.lnk.slew - d } }
  else s

/-! ## The commands -/

/-- HELLO (R362). -/
def execHello (port : Fin 8) (versions : Fin 16) (helloSeen : Bool) (device : Nat) (peerPort : Fin 8) (bulkBuf exprBuf _replayMax nextSeq : Nat)
    (s : State) : Out := .next (s.helloIn port versions helloSeen device peerPort bulkBuf exprBuf nextSeq)
/-- REPLAY_START (R353). -/
def execReplayStart (port : Fin 8) (nextSeq : Fin 4096) (s : State) : Out := .next (s.replayStart port nextSeq)
/-- ACK (R352). -/
def execAck (port : Fin 8) (seq : Fin 4096) (bulk expr : Nat) (s : State) : Out := .next (s.ackFlit port seq bulk expr)
/-- NAK (R353). -/
def execNak (port : Fin 8) (seq : Fin 4096) (bulk expr : Nat) (s : State) : Out := .next (s.nakFlit port seq bulk expr)
/-- BAD_FLIT (R353). -/
def execBadFlit (port : Fin 8) (kind : BadKind) (s : State) : Out := .next (s.badFlit port kind)
/-- ACK_TIMER (R352). -/
def execAckTimer (port : Fin 8) (s : State) : Out := .next (s.ackTimer port)
/-- REPLAY_TIMEOUT (R355). -/
def execReplayTimeout (port : Fin 8) (s : State) : Out := .next (s.replayTimeout port)
/-- NAK_RETRY (R355). -/
def execNakRetry (port : Fin 8) (s : State) : Out := .next (s.nakRetry port)
/-- TIME (R367). -/
def execTime (port : Fin 8) (tSend : Nat) (hops : Fin 64) (valid : Bool) (s : State) : Out := .next (s.timeIn port tSend hops valid)
/-- TIME_SEND (R366). -/
def execTimeSend (s : State) : Out := .next s.timeSend
/-- DELAY_REQ (R366): answered with T1, the time of arrival and, at its slot, the time of departure. -/
def execDelayReq (port : Fin 8) (t1 : Nat) (s : State) : Out :=
  .next (if s.spanUp port then s.ctlDue port ⟨5, t1 % 2 ^ 64, s.now, 0⟩ else s)
/-- DELAY_RSP (R366). -/
def execDelayRsp (port : Fin 8) (t1 t2 t3 : Nat) (s : State) : Out := .next (s.delayRsp port t1 t2 t3)
/-- DELAY_MEASURE (R366). -/
def execDelayMeasure (port : Fin 8) (s : State) : Out := .next (if s.spanUp port then s.ctlDue port ⟨4, 0, 0, 0⟩ else s)
/-- SPAN_TIME_LOST (R367). -/
def execSpanTimeLost (s : State) : Out := .next s.spanTimeLost
/-- RETRAIN_REQ (R363). -/
def execRetrainReq (port : Fin 8) (_cause : Fin 16) (s : State) : Out := .next (if s.spanUp port then s.fastRetrain port 10 else s)
/-- RETRAIN (R363). -/
def execRetrain (port : Fin 8) (s : State) : Out := .next (s.fastRetrain port 11)
/-- LOCK_LOSS (R363). -/
def execLockLoss (port : Fin 8) (s : State) : Out := .next (s.fastRetrain port 9)
/-- UNCORR_LIMIT (R363). -/
def execUncorrLimit (port : Fin 8) (s : State) : Out := .next (s.fastRetrain port 8)
/-- RETRAIN_PHASE_LIMIT (R363). -/
def execRetrainPhaseLimit (port : Fin 8) (s : State) : Out := .next (s.retrainLimit port)
/-- TRAINING_PHASE_DONE (R359). -/
def execTrainingPhaseDone (port : Fin 8) (s : State) : Out := .next (s.phaseDone port)
/-- TRAINING_PHASE_LIMIT (R359). -/
def execTrainingPhaseLimit (port : Fin 8) (s : State) : Out := .next (s.phaseLimit port)
/-- TRAINING_RETRY (R360). -/
def execTrainingRetry (port : Fin 8) (s : State) : Out := .next (s.trainingRetry port)
/-- UNPLUG (R360). -/
def execUnplug (port : Fin 8) (s : State) : Out := .next (s.unplug port)
/-- FLIT_SLOT (R349). -/
def execFlitSlot (port : Fin 8) (s : State) : Out := .next (s.flitSlot port)
/-- DATA_FLIT (R352). -/
def execDataFlit (port : Fin 8) (express first last : Bool) (data : List Byte) (corrCw corrSym : Nat) (s : State) : Out :=
  .next (s.dataFlit port express first last data corrCw corrSym).choices
/-- DEVICE_ID_ASSIGN (R370). -/
def execDeviceIdAssign (device : Nat) (s : State) : Out := .next (s.assignId device)

end Sys2Proof.Machine
end

