-- ==== Sys2Proof/Machine/Field.lean ====
section
/-!
DEFINITION. The field (R398 to R425): FIELD commands, the sender of a connection, egress order and gates, frames, the receiver of
packets, field time.
-/

namespace Sys2Proof.Machine

/-! ## Field time (R420) -/

/-- Field time. -/
def State.fieldTime (s : State) : Nat := ((s.now : Int) + s.fld.offset).emod (2 ^ 64) |>.toNat
/-- Field time is VALID. -/
def State.fieldValid (s : State) : Bool := s.on Reg.fldTimeStatusValid
/-- Port `p` is in field mode. -/
def State.fieldMode (s : State) (p : Nat) : Bool := s.rd Reg.lnkCtrlMode (4 + p) == 1
/-- It is a field port and UP. -/
def State.fieldUp (s : State) (p : Nat) : Bool := s.fieldMode p && s.linkState (4 + p) == 2

/-! ## Descriptor and context (R403, R423) -/

/-- The connection of FAR. -/
def Cmd.farConn (c : Cmd) : Nat := c.fld 2 0 16
/-- WAIT_CONN. -/
def Cmd.waitConn (c : Cmd) : Nat := c.fld 4 16 16

/-- Word `i` of the context at LOCAL. -/
def State.ctxWord (s : State) (x : Cmd) (i : Nat) : Nat := s.peekNat x.lodge (x.local_ + 8 * i) 8

/-- The connection that a context describes. -/
def State.ctxConn (s : State) (x : Cmd) : Conn :=
  let w := s.ctxWord x
  { lodge := x.lodge, mac := bits 0 48 (w 0), port := bits 48 2 (w 0), tc := bits 51 3 (w 0), ip := w 1 + w 2 * 2 ^ 64, tenant := bits 0 24 (w 3),
    peer := bits 24 24 (w 3), udp := bits 48 16 (w 3), rate := bits 0 16 (w 4), burst := bits 16 24 (w 4), window := bits 40 11 (w 4),
    dev := bits 0 24 (w 6), error := false, tx := bits 0 32 (w 5), rx := bits 32 32 (w 5), queue := [], sent := [], again := none, sixteen := 0,
    tries := 0, naked := false, credit := ((80 * bits 16 24 (w 4) : Nat) : Int), tLast := s.now, parked := none, compl := 0, rxMsg := [],
    rxWait := [], rxTags := [], rxDone := none, change := none }

/-- A context field outside R403, or a port that is no field port. -/
def State.ctxBad (s : State) (x : Cmd) : Bool :=
  let w := s.ctxWord x
  let c := s.ctxConn x
  bits 50 1 (w 0) != 0 || bits 54 10 (w 0) != 0 || bits 51 13 (w 4) != 0 || bits 24 40 (w 6) != 0 || w 7 != 0 ||
  decide (2 ^ 16 ≤ c.tenant) || decide (2 ^ 16 ≤ c.peer) || decide (16000 < c.rate) || decide (c.burst < 4096) || c.window == 0 ||
  decide (1024 < c.window) || !s.fieldMode c.port

/-- Connections of a lodge. -/
def State.connsOf (s : State) (l : Nat) : Nat := (s.fld.conns.filter fun e => e.2.lodge == l).length
/-- The lowest free index. -/
def State.freeConn (s : State) : Option Nat :=
  (natsFrom 0 (min 65536 (s.fld.conns.length + 1))).find? fun i => (s.conn i).isNone
/-- OPEN cannot have a connection (R425). -/
def State.connsFull (s : State) (l : Nat) : Bool := decide (s.rd Reg.fldConnQuotaQuota l ≤ s.connsOf l) || s.freeConn.isNone

/-- A connection is not the lodge's own. -/
def State.notOwn (s : State) (l k : Nat) : Bool := match s.conn k with | some c => c.lodge != l | none => true
/-- A connection is in ERROR. -/
def State.inError (s : State) (k : Nat) : Bool := match s.conn k with | some c => c.error | none => false

/-- The checks of R424. -/
def fieldChecks (c : Nat) (s : State) (x : Cmd) : Checks :=
  let op := x.op
  let ctx := op == 1 || op == 3
  let data := op == 4 || op == 5
  { first := if s.stage < 2 ∨ !s.on Reg.fldCtrlEnable ∨ !((natsFrom 0 4).any s.fieldMode) then St.notReady else St.ok
    reserved := fieldReserved x
    range := x.fld 2 16 8 != 0
    mid := if op ≠ 1 ∧ x.farSpace ≠ 0x10 then 0x62 else St.ok
    rest :=
      if (op ≠ 1 ∧ s.notOwn x.lodge x.farConn) ∨ (x.chain ∧ s.notOwn x.lodge x.waitConn) then badConn
      else if op ≠ 1 ∧ op ≠ 2 ∧ s.inError x.farConn then connErr
      else if (ctx || data) && decide (x.local_ % 64 ≠ 0) then St.badOperand
      else if ctx && s.readStatus x.lodge x.local_ 64 != St.ok then s.readStatus x.lodge x.local_ 64
      else if op = 1 ∧ s.tenantLodge (s.ctxConn x).tenant ≠ some x.lodge then St.badTenant
      else if ctx && s.ctxBad x then St.badOperand
      else if op = 1 ∧ s.connsFull x.lodge then connFull
      else if data && (x.spLen == 0 || decide (x.spLen % 64 ≠ 0) || decide (2 ^ 48 < x.local_ + x.spLen)) then St.badOperand
      else if (s.core c).quarantined then St.coreQuarantined
      else St.ok }

/-- One occurrence of a FIELD row. -/
def State.runField (s : State) (c p op : Nat) (run : State → Job → State) : State := s.runSlot c p 7 op (fieldChecks c) run

/-! ## The commands (R404, R416, R422) -/

/-- A connection becomes READY. -/
def State.putConn (s : State) (k : Nat) (c : Conn) : State := { s with fld := { s.fld with conns := Tbl.put k c s.fld.conns } }

/-- FLD_CONN_OPEN: the context that RUN reads meets the checks of R424 again (log 150). -/
def State.connOpen (s : State) (c p : Nat) (j : Job) : State :=
  let x := j.cmd
  let st := s.readStatus x.lodge x.local_ 64
  if st ≠ St.ok then s.endJob c p j st
  else
    match s.freeConn with
    | none => s.endJob c p j connFull
    | some k =>
      if s.tenantLodge (s.ctxConn x).tenant ≠ some x.lodge then s.endJob c p j St.badTenant
      else if s.ctxBad x then s.endJob c p j St.badOperand
      else if s.connsFull x.lodge then s.endJob c p j connFull
      else ((s.putConn k (s.ctxConn x)).touch x.lodge x.local_ 64 false).toFence c p { j with result := k }

/-- A command of the connection is outstanding: it waits, runs or leaves KILL in a place, the closing command apart. -/
def State.connBusy (s : State) (k c p : Nat) : Bool :=
  s.jobs.any fun e => !(e.1 == c && e.2.1 == p) && e.2.2.cmd.klass == 7 && (e.2.2.cmd.op == 4 || e.2.2.cmd.op == 5) &&
    e.2.2.cmd.farConn == k && (e.2.2.st == .wait || e.2.2.st == .run || e.2.2.st == .kill)

/-- FLD_CONN_CLOSE: BUSY while a command of a READY connection is outstanding; on one in ERROR the CLOSE waits in RUN until none is (R404). -/
def State.connClose (s : State) (c p : Nat) (j : Job) : State :=
  let k := j.cmd.farConn
  if s.notOwn j.cmd.lodge k then s.endJob c p j badConn
  else if s.connBusy k c p && s.inError k then s
  else if s.connBusy k c p then s.endJob c p j St.busy
  else ({ s with fld := { s.fld with conns := Tbl.del k s.fld.conns } } : State).toFence c p j

/-- FLD_CONN_MODIFY: RATE, BURST and TC change at the next packet boundary. -/
def State.connModify (s : State) (c p : Nat) (j : Job) : State :=
  let x := j.cmd
  let st := s.readStatus x.lodge x.local_ 64
  if st ≠ St.ok then s.endJob c p j st
  else if s.notOwn x.lodge x.farConn then s.endJob c p j badConn
  else if s.inError x.farConn then s.endJob c p j connErr
  else if s.ctxBad x then s.endJob c p j St.badOperand
  else
    let n := s.ctxConn x
    let s := s.modConn x.farConn fun k => { k with change := some (n.rate, n.burst, n.tc) }
    (s.touch x.lodge x.local_ 64 false).toFence c p j

/-- FLD_WRITE and FLD_READ join the connection's send queue; they wait there for their acknowledgement or their responses. -/
def State.connQueue (s : State) (c p : Nat) (j : Job) (write : Bool) : State :=
  let x := j.cmd
  if x.done then s
  else if s.notOwn x.lodge x.farConn then s.endJob c p j badConn
  else if s.inError x.farConn then s.endJob c p j connErr
  else
    let st := if write then s.readStatus x.lodge x.local_ x.spLen else s.accessStatus x.lodge x.local_ x.spLen
    if st ≠ St.ok then s.endJob c p j st
    else
      let y := { x with done := true }
      let item : FItem := { kind := if write then 1 else 2, core := c, place := p, cmd := some y, addr := x.farOff, local_ := x.local_, len := x.spLen,
                            arr := if write && bitAt 2 x.flags then some x.arrival else none, psn := 0, next := 0, body := [], held := false }
      let s := if write then s.touch x.lodge x.local_ x.spLen false else s
      let s := s.setJob c p { j with cmd := y, result := if write then ceilDiv x.spLen s.payloadMax else 0 }
      s.modConn x.farConn fun k => { k with queue := k.queue ++ [item] }

/-! ## The sender of a connection (R407, R409) -/

/-- A packet to send: its header, its extension and its payload (R401, R402). -/
structure FOut where
  /-- OP -/
  op : Nat
  /-- PSN -/
  psn : Nat
  /-- FIRST -/
  first : Bool
  /-- LAST -/
  last : Bool
  /-- ACK_REQ -/
  ackReq : Bool
  /-- extension words, where there is one -/
  ext : Option (Nat × Nat)
  /-- payload -/
  payload : List Byte
  /-- SYNDROME, STATUS, ACK_PSN -/
  ack : Nat × Nat × Nat
  deriving DecidableEq, Repr

/-- Packets unacknowledged on a connection, in PSNs. -/
def Conn.inFlight (c : Conn) : Nat := (c.sent.map (·.count)).foldl (· + ·) 0

/-- Packets unacknowledged of a field engine (R422). -/
def State.engineFlight (s : State) (e : Nat) : Nat :=
  (s.fld.conns.map fun k => ((k.2.sent.filter fun p => decide (p.core < 160) && p.core / 20 == e).map (·.count)).foldl (· + ·) 0).foldl (· + ·) 0

/-- The packet to be sent again next. -/
def Conn.resend (c : Conn) : Option FPkt :=
  c.again.bind fun a => c.sent.find? fun p => decide (psnDiff (p.psn + p.count - 1) a < 2 ^ 31)

/-- The next new packet of a queue item that is not a response, and the item after it (R402, R407). -/
def State.cutItem (s : State) (c : Conn) (x : FItem) : FPkt × FItem :=
  let pm := s.payloadMax
  let left := x.len - x.next
  let n := if x.kind = 2 then min (min 65536 (c.window * pm)) left else min pm left
  let last := x.next + n == x.len
  let count := if x.kind = 2 then ceilDiv n pm else 1
  ({ kind := x.kind, psn := c.tx, count := count, first := x.next == 0, last := last, ackReq := last || (c.sixteen + 1) % 16 == 0, core := x.core, place := x.place,
     cmd := x.cmd, addr := x.addr + x.next, local_ := x.local_ + x.next, len := n, arr := x.arr, got := 0, asked := false, body := (x.body.drop x.next).take n },
   { x with next := x.next + n, held := false })

/-- An item whose command no longer runs goes. -/
def State.liveItem (s : State) (x : FItem) : Bool := !(x.kind == 1 || x.kind == 2) || (s.fieldOwner x.core x.place x.cmd).isSome

/-- The window admits a new packet. -/
def Conn.admits (c : Conn) (p : FPkt) : Bool := decide (c.inFlight + p.count ≤ c.window)

/-- The engine admits it. -/
def State.engineAdmits (s : State) (p : FPkt) : Bool := decide (160 ≤ p.core) || decide (s.engineFlight (p.core / 20) + p.count ≤ 4096)

/-- What a connection sends next. -/
inductive FHead where
  /-- a packet again -/
  | again (p : FPkt)
  /-- a response of the queue's item `i` -/
  | response (i : Nat) (x : FItem)
  /-- a new packet of the queue's first item -/
  | fresh (p : FPkt) (x : FItem)
  deriving DecidableEq, Repr

/-- The head packet of a connection; a response goes past an item that waits for the window or its engine. -/
def State.headOf (s : State) (c : Conn) : Option FHead :=
  if c.error then none
  else match c.resend with
  | some p => some (.again p)
  | none =>
    let q := c.queue.filter s.liveItem
    let response (_ : Unit) : Option FHead := (q.zipIdx.find? fun e => e.1.kind == 3).map fun e => .response e.2 e.1
    match q with
    | [] => none
    | x :: _ =>
      if x.kind = 3 then some (.response 0 x)
      else
        let (p, x') := s.cutItem c x
        if c.admits p && s.engineAdmits p then some (.fresh p x') else response ()

/-- A packet as it goes out: the bytes of a WRITE are read from their source, a READ_REQ asks from its first missing PSN. -/
def State.pktOut (s : State) (c : Conn) (p : FPkt) : FOut :=
  if p.kind = 2 then
    let o := p.got * s.payloadMax
    ⟨2, (p.psn + p.got) % 2 ^ 32, p.first, p.last, p.ackReq, some (p.addr + o, p.len - o), [], (0, 0, 0)⟩
  else if p.kind = 1 then
    ⟨1, p.psn, p.first, p.last, p.ackReq, some (p.addr, match p.arr with | some a => a + 2 ^ 12 | none => 0), s.peek c.lodge p.local_ p.len, (0, 0, 0)⟩
  else ⟨5, p.psn, p.first, p.last, p.ackReq, none, p.body, (0, 0, 0)⟩

/-- What goes out for a head packet. -/
def State.headOut (s : State) (c : Conn) : FHead → FOut
  | .again p => s.pktOut c p
  | .fresh p _ => s.pktOut c p
  | .response _ x =>
    let pm := s.payloadMax
    ⟨3, (x.psn + x.next / pm) % 2 ^ 32, x.next == 0, decide (x.len ≤ x.next + pm), false, none, (x.body.drop x.next).take pm, (0, 0, 0)⟩

/-- Frame length from destination MAC through FCS (R399). -/
def State.frameLen (s : State) (p : Nat) (o : FOut) : Nat :=
  14 + (if s.on Reg.fldMacHiVlanEn p then 4 else 0) + 40 + 8 + 32 + (if o.ext.isSome then 16 else 0) + o.payload.length + 8

/-! ## Frames (R399, R401) -/

/-- Bytes of a number, most significant first. -/
def beBytes (n v : Nat) : List Byte := (leBytes n v).reverse

/-- One's complement sum of 16-bit words (RFC 768, RFC 1071). -/
def onesSum (bs : List Byte) : Nat :=
  let w := (natsFrom 0 (ceilDiv bs.length 2)).map fun i => (bs.getD (2 * i) 0).toNat * 256 + (bs.getD (2 * i + 1) 0).toNat
  let t := w.foldl (· + ·) 0
  let f (x : Nat) := x % 65536 + x / 65536
  f (f (f t))

/-- The Internet checksum over the IPv6 pseudo-header and a payload; 0 is sent as 0xFFFF. -/
def checksum6 (src dst : List Byte) (next : Nat) (body : List Byte) : Nat :=
  let c := 65535 - onesSum (src ++ dst ++ beBytes 4 body.length ++ [0, 0, 0, BitVec.ofNat 8 next] ++ body)
  if c = 0 then 65535 else c

/-- One bit of the Ethernet CRC. -/
def fcsBit (x : Nat) : Nat := if x % 2 = 1 then (x / 2) ^^^ 0xEDB88320 else x / 2
/-- The Ethernet frame check sequence (IEEE 802.3). -/
def fcs (bs : List Byte) : Nat :=
  (bs.foldl (fun c b => (natsFrom 0 8).foldl (fun c _ => fcsBit c) (c ^^^ b.toNat)) 0xFFFFFFFF) ^^^ 0xFFFFFFFF

/-- The port's IPv6 address, byte 0 first. -/
def State.portIp (s : State) (p : Nat) : List Byte := (natsFrom 0 4).flatMap fun k => leBytes 4 (s.rd Reg.fldIpAddr p k)

/-- DSCP of a class. -/
def State.dscp (s : State) (tc : Nat) : Nat := if tc < 5 then s.rd Reg.fldDscpLoDscp tc else s.rd Reg.fldDscpHiDscp (tc - 5)

/-- Ethernet header, with its tag where VLAN_EN is set. -/
def State.etherHead (s : State) (p mac tc : Nat) : List Byte :=
  beBytes 6 mac ++ beBytes 6 (s.rd Reg.fldMacMac p) ++
  (if s.on Reg.fldMacHiVlanEn p then beBytes 2 0x8100 ++ beBytes 2 (tc * 2 ^ 13 + s.rd Reg.fldMacHiVlanId p) else []) ++ beBytes 2 0x86DD

/-- IPv6 header. -/
def ip6Head (tcByte flow len next hops : Nat) (src dst : List Byte) : List Byte :=
  beBytes 4 (6 * 2 ^ 28 + tcByte * 2 ^ 20 + flow) ++ beBytes 2 len ++ [BitVec.ofNat 8 next, BitVec.ofNat 8 hops] ++ src ++ dst

/-- A frame with its FCS. -/
def sealFrame (bs : List Byte) : List Byte := bs ++ leBytes 4 (fcs bs)

/-- The field header (R401). -/
def Conn.header (c : Conn) (own : Nat) (o : FOut) : List Byte :=
  let f (b : Bool) (k : Nat) := if b then 2 ^ k else 0
  leBytes 8 (1 + o.op * 2 ^ 4 + f o.first 8 + f o.last 9 + f o.ackReq 10 + c.tenant * 2 ^ 16 + c.peer * 2 ^ 40) ++
  leBytes 8 (o.psn + own * 2 ^ 32) ++ leBytes 8 (o.payload.length + o.ack.1 * 2 ^ 16 + o.ack.2.1 * 2 ^ 24 + o.ack.2.2 * 2 ^ 32) ++ leBytes 8 0

/-- A field packet as a frame (R399). -/
def State.fieldFrame (s : State) (k : Nat) (c : Conn) (o : FOut) : List Byte :=
  let core := c.header k o ++ (match o.ext with | some (a, b) => leBytes 8 a ++ leBytes 8 b | none => []) ++ o.payload
  let body := core ++ leBytes 4 (crc32c core)
  let src := s.portIp c.port
  let dst := leBytes 16 c.ip
  let udp (sum : Nat) := beBytes 2 c.udp ++ beBytes 2 (s.rd Reg.fldCtrlUdpPort) ++ beBytes 2 (8 + body.length) ++ beBytes 2 sum ++ body
  let sum := checksum6 src dst 17 (udp 0)
  sealFrame (s.etherHead c.port c.mac c.tc ++ ip6Head (s.dscp c.tc * 4) c.udp (8 + body.length) 17 64 src dst ++ udp sum)

/-- A Neighbour Advertisement of the port's address (RFC 4861). -/
def State.advertFrame (s : State) (p mac ip : Nat) : List Byte :=
  let src := s.portIp p
  let anon := ip == 0
  let dst := if anon then beBytes 16 (0xFF02 * 2 ^ 112 + 1) else leBytes 16 ip
  let icmp (sum : Nat) := [BitVec.ofNat 8 136, 0] ++ beBytes 2 sum ++ beBytes 4 (if anon then 0x20000000 else 0x60000000) ++ src ++
    [2, 1] ++ beBytes 6 (s.rd Reg.fldMacMac p)
  let sum := checksum6 src dst 58 (icmp 0)
  sealFrame (s.etherHead p (if anon then 0x333300000001 else mac) 0 ++ ip6Head 0 0 32 58 255 src dst ++ icmp sum)

/-! ## Gates (R417 to R419) -/

/-- Entry of a list at a position of its cycle: the first that ends beyond it, else the last. -/
def entryAt (interval : Nat → Nat) (len pos : Nat) : Nat :=
  let r := (natsFrom 0 len).foldl (fun (a : Option Nat × Nat) e =>
    match a.1 with
    | some k => (some k, a.2)
    | none => if pos < a.2 + interval e then (some e, 0) else (none, a.2 + interval e)) (none, 0)
  r.1.getD (len - 1)

/-- Position in the cycle of a base time; a cycle of 0 never ends. -/
def cyclePos (t base cycle : Nat) : Nat :=
  if cycle = 0 then t - base else (((t : Int) - (base : Int)).emod (cycle : Int)).toNat

/-- GATES of the operational list at a field time. -/
def State.operGates (s : State) (p t : Nat) : Nat :=
  let n := (s.fport p).operLen
  if n = 0 then 255
  else s.rd Reg.fldGclOperGates p (entryAt (fun e => s.rd Reg.fldGclOperIntervalNs p e) n (cyclePos t (s.rd Reg.fldGclObaseValue p) (s.rd Reg.fldGclOcycleValue p)))

/-- GATES of the admin list at a field time. -/
def State.adminGates (s : State) (p t : Nat) : Nat :=
  let n := s.rd Reg.fldGclCtrlAdminLen p
  if n = 0 then 255
  else s.rd Reg.fldGclAdminGates p (entryAt (fun e => s.rd Reg.fldGclAdminIntervalNs p e) n (cyclePos t (s.rd Reg.fldGclAbaseValue p) (s.rd Reg.fldGclAcycleValue p)))

/-- The gate of a class at a field time, under the effective schedule (R418). -/
def State.gateOpenAt (s : State) (p tc t : Nat) : Bool :=
  if !s.on Reg.fldGclCtrlGateEn p then true
  else match (s.fport p).takeover with
  | some k => bitAt tc (if k ≤ t then s.adminGates p t else s.operGates p t)
  | none => bitAt tc (s.operGates p t)

/-- Nanoseconds that a frame's wire time reaches into (R398). -/
def State.wireNs (s : State) (p len : Nat) : Nat := ceilDiv ((len + 20) * 2 ^ s.rd Reg.lnkStatusRate (4 + p)) 200

/-- The gate is open throughout a frame's wire time from now (R414). -/
def State.gateOpen (s : State) (p tc len : Nat) : Bool :=
  (natsFrom 0 (s.wireNs p len)).all fun i => s.gateOpenAt p tc (s.fieldTime + i)

/-- The takeover time of R418. -/
def State.takeoverTime (s : State) (p : Nat) : Nat :=
  let base := s.rd Reg.fldGclAbaseValue p
  let cycle := s.rd Reg.fldGclAcycleValue p
  let least := s.fieldTime + 1000
  if least ≤ base then base else if cycle = 0 then least else base + ceilDiv (least - base) cycle * cycle

/-- The admin list cannot be taken over. -/
def State.adminBad (s : State) (p : Nat) : Bool :=
  let n := s.rd Reg.fldGclCtrlAdminLen p
  decide (256 < n) || (n == 0 && s.on Reg.fldGclCtrlGateEn p) || (natsFrom 0 n).any fun e => decide (s.rd Reg.fldGclAdminIntervalNs p e < 100)

/-- CHANGE. -/
def State.armList (s : State) (p : Nat) : State :=
  if s.on Reg.fldGclCtrlPending p then s.discard
  else if s.adminBad p then s.discard.setBit Reg.fldErrBits 2
  else (s.wr Reg.fldGclCtrlPending 1 p).modFport p fun f => { f with takeover := if s.fieldValid then some (s.takeoverTime p) else none }

/-- GCL_TAKEOVER: the admin list becomes operational at entry 0. -/
def State.takeOver (s : State) (p : Nat) : State :=
  if s.on Reg.fldGclCtrlPending p && s.fieldValid then
    let n := s.rd Reg.fldGclCtrlAdminLen p
    let s := (natsFrom 0 256).foldl (fun (s : State) e =>
      (s.wr Reg.fldGclOperGates (s.rd Reg.fldGclAdminGates p e) p e).wr Reg.fldGclOperIntervalNs (s.rd Reg.fldGclAdminIntervalNs p e) p e) s
    let s := (s.wr Reg.fldGclOcycleValue (s.rd Reg.fldGclAcycleValue p) p).wr Reg.fldGclObaseValue (s.rd Reg.fldGclAbaseValue p) p
    ((s.wr Reg.fldGclCtrlPending 0 p).wr Reg.fldGclCtrlEntry 0 p).modFport p fun f => { f with operLen := n, takeover := none }
  else s

/-- GATE_ENTRY: the next entry, or entry 0 where the list or its cycle ends. -/
def State.nextGate (s : State) (p : Nat) : State :=
  let n := (s.fport p).operLen
  if n = 0 then s
  else
    let e := s.rd Reg.fldGclCtrlEntry p + 1
    let start := ((natsFrom 0 e).map fun i => s.rd Reg.fldGclOperIntervalNs p i).foldl (· + ·) 0
    s.wr Reg.fldGclCtrlEntry (if n ≤ e ∨ s.rd Reg.fldGclOcycleValue p ≤ start then 0 else e) p

/-! ## Egress order (R414 to R416) -/

/-- Index of a connection's flow. -/
def Conn.flow (c : Conn) : Nat := 8 * c.lodge + c.tc

/-- Connections of a port. -/
def State.portConns (s : State) (p : Nat) : List (Nat × Conn) := s.fld.conns.filter fun e => e.2.port == p

/-- Credit up to this instant (R416). -/
def Conn.refilled (c : Conn) (now : Nat) : Conn :=
  { c with credit := min ((80 * c.burst : Nat) : Int) (c.credit + ((c.rate * (now - c.tLast) : Nat) : Int)), tLast := now }

/-- A change of RATE, BURST and TC takes effect: C up to this instant under the old RATE, capped at the new BURST (R416). -/
def Conn.changed (c : Conn) (now : Nat) : Conn :=
  match c.change with
  | none => c
  | some (r, b, tc) =>
    let c := if c.rate = 0 then { c with tLast := now } else c.refilled now
    let cr := min c.credit ((80 * b : Nat) : Int)
    let slot := if r = 0 ∨ 0 ≤ cr then none else some ((now / 100 + ((-cr + 100 * r - 1) / (100 * r)).toNat) % 4096)
    { c with rate := r, burst := b, tc := tc, credit := cr, change := none, parked := c.parked.bind fun _ => slot }

/-- Before a packet: credit is computed, and a connection without credit is parked. -/
def Conn.settled (c : Conn) (now : Nat) : Conn :=
  if c.rate = 0 ∨ c.parked.isSome then c
  else
    let c := c.refilled now
    if 0 ≤ c.credit then c else { c with parked := some ((now / 100 + ((-c.credit + 100 * c.rate - 1) / (100 * c.rate)).toNat) % 4096) }

/-- The connection whose turn it is among some of a flow. -/
def FPort.pick (f : FPort) (flow : Nat) (ks : List Nat) : Option Nat := rrPick (Tbl.get 0 flow f.turn) (sortDedup ks)

/-- Weight of a flow. -/
def State.flowWeight (s : State) (flow : Nat) : Nat := s.rd Reg.fldTcwTcw (flow / 8) (flow % 8)

/-- Serial comparison of 64-bit tags: `a` before `b`. -/
def tagBefore (a b : Nat) : Bool := decide (2 ^ 63 ≤ (a + 2 ^ 64 - b % 2 ^ 64) % 2 ^ 64)

/-- The head tag of a flow from the frame it will send next (R415). -/
def State.tagOf (s : State) (p flow len : Nat) : Nat :=
  let f := s.fport p
  let l := Tbl.get 0 flow f.last
  ((if tagBefore f.v l then l else f.v) + ceilDiv (len * 256) (s.flowWeight flow)) % 2 ^ 64

/-- Flows of a port that have something to send, ascending. -/
def State.backlogged (s : State) (p : Nat) : List Nat :=
  sortDedup (((s.portConns p).filter fun e => (s.headOf e.2).isSome).map fun e => e.2.flow)

/-- Frame length of the packet a flow will send next. -/
def State.nextLen (s : State) (p flow : Nat) : Nat :=
  let cs := (s.portConns p).filter fun e => e.2.flow == flow && (s.headOf e.2).isSome
  match (s.fport p).pick flow (cs.map (·.1)) with
  | none => 0
  | some k => match (s.conn k).bind fun c => (s.headOf c).map fun h => s.headOut c h with
    | some o => s.frameLen p o
    | none => 0

/-- Head tags: of flows that became backlogged, and of one that started a packet. -/
def State.refreshTags (s : State) (p : Nat) (again : Option Nat) : State :=
  let fs := s.backlogged p
  let old := (s.fport p).head.filter fun e => fs.contains e.1 && some e.1 != again
  let new := (fs.filter fun f => (Tbl.find f old).isNone).foldl (fun (t : Tbl Nat) f => Tbl.put f (s.tagOf p f (s.nextLen p f)) t) old
  s.modFport p fun f => { f with head := new }

/-- An item whose next packet its engine holds back counts one wait (R422). -/
def State.countStalls (s : State) (p : Nat) : State :=
  (s.portConns p).foldl (fun (s : State) e =>
    match e.2.queue with
    | [] => s
    | x :: r =>
      if x.kind ≠ 3 ∧ !x.held ∧ e.2.resend.isNone ∧ e.2.admits (s.cutItem e.2 x).1 ∧ !s.engineAdmits (s.cutItem e.2 x).1 then
        (s.bump Reg.fldStallCount).modConn e.1 fun c => { c with queue := { x with held := true } :: r }
      else s) s

/-- The connection after its head packet, with a payload of `n` bytes, has started. -/
def Conn.started (c : Conn) (h : FHead) (n : Nat) : Conn :=
  match h with
  | .again p =>
    let after := c.sent.find? fun q => decide (0 < psnDiff q.psn p.psn) && decide (psnDiff q.psn p.psn < 2 ^ 31)
    { c with again := after.map (·.psn) }
  | .response i x =>
    { c with queue := if x.next + n < x.len then c.queue.set i { x with next := x.next + n } else c.queue.eraseIdx i }
  | .fresh p x =>
    { c with queue := if x.next < x.len then x :: c.queue.drop 1 else c.queue.drop 1, sent := c.sent ++ [p], tx := (c.tx + p.count) % 2 ^ 32,
             sixteen := (c.sixteen + 1) % 16 }

/-- A frame starts at a port. -/
def State.startFrame (s : State) (p : Nat) (bs : List Byte) : State := (s.count Reg.fldTxPktCount 1 p).modFport p fun f => { f with frame := bs }

/-- The packet of a head that is no response. -/
def FHead.pkt : FHead → Option FPkt
  | .again p => some p
  | .fresh p _ => some p
  | .response _ _ => none

/-- A source that can no longer be read ends its command (R43, R169). -/
def State.sourceLost (s : State) (c : Conn) (h : FHead) : Option (FPkt × Nat) :=
  h.pkt.bind fun p =>
    let st := s.readStatus c.lodge p.local_ p.len
    if p.kind = 1 ∧ st ≠ St.ok ∧ (s.fieldOwner p.core p.place p.cmd).isSome then some (p, st) else none

/-- The chosen data packet starts (R414 to R416). -/
def State.startData (s : State) (p k : Nat) (c : Conn) (h : FHead) (guaranteed : Bool) : State :=
  match s.sourceLost c h with
  | some (q, st) => (s.raiseUncorr c.lodge st [(q.local_, q.len)]).endPlace (q.core, q.place) st
  | none =>
    let o := s.headOut c h
    let len := s.frameLen p o
    let s := match h with | .again _ => s.bump Reg.fldRetxCount | _ => s
    let s := s.startFrame p (s.fieldFrame k c o)
    let s := s.modConn k fun c =>
      let c := ({ c with queue := c.queue.filter s.liveItem } : Conn).started h o.payload.length
      { c with credit := if c.rate = 0 then c.credit else c.credit - ((80 * len : Nat) : Int), tLast := s.now }
    let s := s.charge 5 c.lodge len guaranteed
    let tag := Tbl.get 0 c.flow (s.fport p).head
    let s := s.modFport p fun f => { f with v := tag, last := Tbl.set 0 c.flow tag f.last, turn := Tbl.set 0 c.flow (k + 1) f.turn }
    let s := s.modConn k fun c => if (s.headOf c).isSome then c.settled s.now else c
    s.refreshTags p (some c.flow)

/-- A control packet goes out. -/
def State.sendCtl (s : State) (p : Nat) (x : FCtl) : State :=
  let s := s.modFport p fun f => { f with ctl := f.ctl.erase x }
  if x.kind = 2 then s.startFrame p (s.advertFrame p x.mac x.ip)
  else if x.kind = 3 then
    let t := s.fieldTime
    let s : State := { s with fld := { s.fld with reqAt := some t } }
    (s.startFrame p (s.freeBytes 110)).useFree 110
  else
    match s.conn x.conn with
    | none => s
    | some c => s.startFrame p (s.fieldFrame x.conn c ⟨4, 0, false, false, false, none, [], (x.syndrome, x.status, x.psn)⟩)

/-- The class of a control packet: that of its connection; 0 of the others. -/
def State.ctlClass (s : State) (x : FCtl) : Nat := if x.kind < 2 then (match s.conn x.conn with | some c => c.tc | none => 0) else 0

/-- The control packet that goes first, among those whose gate is open (R414). -/
def State.firstCtl (s : State) (p : Nat) : Option FCtl :=
  (natsFrom 0 4).findSome? fun k => (s.fport p).ctl.find? fun x => x.kind == k && s.gateOpen p (s.ctlClass x) (if k < 2 then 102 else 110)

/-- The data packet chosen: the eligible flow of least tag among the lodges that path 5 may grant, then its connections in turn. -/
def State.chooseData (s : State) (p : Nat) : Option (Nat × Conn × FHead × Bool) :=
  let ready := (s.portConns p).filterMap fun e =>
    (s.headOf e.2).bind fun h =>
      if e.2.parked.isNone && s.gateOpen p e.2.tc (s.frameLen p (s.headOut e.2 h)) then some (e.1, e.2, h) else none
  let (set, guaranteed) := s.grantSet 5 (sortDedup (ready.map fun e => e.2.1.lodge))
  let may := ready.filter fun e => set.contains e.2.1.lodge
  let best := (sortDedup (may.map fun e => e.2.1.flow)).foldl (fun (b : Option (Nat × Nat)) f =>
    let t := Tbl.get 0 f (s.fport p).head
    match b with
    | none => some (f, t)
    | some (g, u) => if tagBefore t u then some (f, t) else some (g, u)) none
  best.bind fun (f, _) =>
    let mine := may.filter fun e => e.2.1.flow == f
    ((s.fport p).pick f (mine.map (·.1))).bind fun k => (mine.find? fun e => e.1 == k).map fun e => (e.1, e.2.1, e.2.2, guaranteed)

/-- PACKET_BOUNDARY. -/
def State.packetBoundary (s : State) (p : Nat) : State :=
  if !s.fieldUp p then s
  else
    let s : State := { s with fld := { s.fld with conns := s.fld.conns.map fun e => (e.1, if e.2.port == p then e.2.changed s.now else e.2) } }
    let s := s.countStalls p
    let s : State := { s with fld := { s.fld with conns := s.fld.conns.map fun e =>
      (e.1, if e.2.port == p && (s.headOf e.2).isSome then e.2.settled s.now else e.2) } }
    let s := s.refreshTags p none
    match s.firstCtl p with
    | some x => s.sendCtl p x
    | none =>
      match s.chooseData p with
      | some (k, c, h, g) => s.startData p k c h g
      | none => s

/-- WHEEL_SLOT: connections parked in the slot are eligible again. -/
def State.wheelSlot (s : State) (slot : Nat) : State :=
  { s with fld := { s.fld with conns := s.fld.conns.map fun e =>
    (e.1, if e.2.parked == some slot then { e.2.refilled s.now with parked := none } else e.2) } }

/-! ## Acknowledgements (R409, R410, R412) -/

/-- Nothing of a command is left on its connection. -/
def Conn.doneWith (c : Conn) (core place : Nat) (cmd : Option Cmd) : Bool :=
  !(c.sent.any fun p => p.core == core && p.place == place && p.cmd == cmd) && !(c.queue.any fun x => x.core == core && x.place == place && x.cmd == cmd)

/-- A command with nothing left reaches its commit point. -/
def State.fieldDone (s : State) (k core place : Nat) (cmd : Option Cmd) : State :=
  match s.conn k, s.fieldOwner core place cmd with
  | some c, some j => if c.doneWith core place cmd then s.toFence core place j else s
  | _, _ => s

/-- An ACK covers a packet: its last PSN is not beyond ACK_PSN. -/
def covered (ack : Nat) (p : FPkt) : Bool := p.kind != 2 && decide (psnDiff ack (p.psn + p.count - 1) < 2 ^ 31)

/-- Nothing is left to send again. -/
def Conn.tidy (c : Conn) : Conn := if c.resend.isNone then { c with again := none } else c

/-- Packets up to ACK_PSN are freed; commands whose last packet it covers commit. -/
def State.freeTo (s : State) (k ack : Nat) : State :=
  match s.conn k with
  | none => s
  | some c =>
    let gone := c.sent.filter (covered ack)
    let left := c.sent.filter fun p => !covered ack p
    let s := s.modConn k fun c => ({ c with sent := left, tries := if gone = [] then c.tries else 0 } : Conn).tidy
    (gone.filter (·.last)).foldl (fun (s : State) p => s.fieldDone k p.core p.place p.cmd) s

/-- Send again from a PSN, or give the connection up (R409). -/
def State.sendAgain (s : State) (k psn : Nat) : State :=
  match s.conn k with
  | none => s
  | some c =>
    if s.rd Reg.fldRetryRetryMax ≤ c.tries then s.retriesOut k
    else s.modConn k fun c => { c with again := some (psn % 2 ^ 32), tries := c.tries + 1 }

/-- NAK_REFUSED: the command of the first packet not covered completes with STATUS, its lodge context faults (R410). -/
def State.refused (s : State) (k ack status : Nat) : State :=
  match (s.conn k).bind fun c => c.sent.find? fun p => decide (psnDiff (p.psn + p.count - 1) (ack + 1) < 2 ^ 31) with
  | none => s.enterError k connErr
  | some p =>
    match s.fieldOwner p.core p.place p.cmd with
    | none => s.enterError k connErr
    | some j =>
      let s := s.endPlace (p.core, p.place) status
      let s := if isFault status then s
        else s.faultLodge j.cmd.lodge status 2 j.cmd.core (if j.cmd.sched then 0xFF else j.cmd.ring) j.cmd.tag
      s.enterError k connErr

/-- FIELD_ACK. -/
def State.ackIn (s : State) (k : Nat) (p : FIn) : State :=
  if p.syndrome = 0 then s.freeTo k p.ackPsn
  else if p.syndrome = 1 then ((s.bump Reg.fldNakRxCount).freeTo k p.ackPsn).sendAgain k (p.ackPsn + 1)
  else ((s.bump Reg.fldNakRxCount).freeTo k p.ackPsn).refused k p.ackPsn p.status

/-- READ_RSP: the bytes go to LOCAL; a gap asks again from the first missing PSN, once until that response has come (log 64). -/
def State.rspIn (s : State) (k : Nat) (p : FIn) : State :=
  match s.conn k with
  | none => s
  | some c =>
    match c.sent.find? fun r => r.kind == 2 && decide (psnDiff p.psn r.psn < r.count) with
    | none => s
    | some r =>
      let i := psnDiff p.psn r.psn
      let pm := s.payloadMax
      if i < r.got then s
      else if r.got < i then
        if r.asked then s
        else (s.modConn k fun c => { c with sent := c.sent.map fun x => if x = r then { r with asked := true } else x }).sendAgain k (r.psn + r.got)
      else
        let own := (s.fieldOwner r.core r.place r.cmd).isSome
        let s := if own then s.addDirect r.core r.place (r.local_ + i * pm) (p.payload.take (min pm (r.len - i * pm))) else s
        let r' := { r with got := r.got + 1, asked := false }
        let s := s.modConn k fun c =>
          ({ c with tries := 0, sent := if r'.got = r.count then c.sent.filter (· != r) else c.sent.map fun x => if x = r then r' else x } : Conn).tidy
        if r'.got = r.count ∧ r.last then s.fieldDone k r.core r.place r.cmd else s

/-- RETRY_TIMEOUT. -/
def State.retryTimeout (s : State) (k : Nat) : State :=
  match s.conn k with
  | none => s
  | some c =>
    match c.sent with
    | [] => s
    | p :: _ => if c.error then s else s.sendAgain k (p.psn + p.got)

/-! ## Receiving packets (R400, R405, R408) -/

/-- Word 0 of a carried message names the packet's tenant. -/
def msgTenantOk (c : Conn) (p : FIn) : Bool := !p.first || bits 40 24 (leNat (p.payload.take 8)) == c.tenant

/-- The connection a packet is accepted on (R405). -/
def State.acceptOn (s : State) (p : FIn) (isMsg : Bool) : Option Conn :=
  match s.conn p.dstConn with
  | none => none
  | some c => if !c.error && p.tenant == c.tenant && p.srcConn == c.peer && p.ip == c.ip && (!isMsg || msgTenantOk c p) then some c else none

/-- A packet arrives at a port: discarded while ENABLE is 0, counted where it is not accepted. -/
def State.packetIn (s : State) (port : Nat) (p : FIn) (isMsg : Bool) (f : State → Conn → State) : State :=
  if !s.fieldUp port || !s.on Reg.fldCtrlEnable then s
  else
    match s.acceptOn p isMsg with
    | none => (s.bump Reg.fldTenantDropCount 1 port).setBit Reg.fldErrBits 0
    | some c => f (s.count Reg.fldRxPktCount 1 port) c

/-- Acknowledge up to EPSN − 1, once the writes before are visible. -/
def State.ackSoon (s : State) (k : Nat) : State :=
  match s.conn k with
  | none => s
  | some c =>
    match c.rxDone with
    | some (_, arr) => s.modConn k fun c => { c with rxDone := some (true, arr) }
    | none => s.fieldCtl k 0 c.appliedTo 0 0

/-- A packet with a PSN (R408): `now` says what it does when it is the one expected, `late` when it is behind. -/
def State.inOrder (s : State) (k : Nat) (c : Conn) (p : FIn) (count : Nat) (expected late : State → State) : State :=
  let d := psnDiff p.psn c.rx
  if d = 0 then expected (s.modConn k fun c => { c with rx := (c.rx + count) % 2 ^ 32, naked := false })
  else if 2 ^ 31 ≤ d then
    let s := late s
    if p.ackReq then s.ackSoon k else s
  else if c.naked then s
  else ((s.fieldCtl k 1 (c.rx + 2 ^ 32 - 1) 1 0).bump Reg.fldNakTxCount).modConn k fun c => { c with naked := true }

/-- A WRITE or READ_REQ joins what is applied in PSN order. -/
def State.waitRx (s : State) (k : Nat) (write : Bool) (p : FIn) : State :=
  (s.modConn k fun c => { c with rxWait := c.rxWait ++ [(write, p)] }).pumpRx k

/-- FIELD_WRITE. -/
def State.writeIn (s : State) (port : Nat) (p : FIn) : State :=
  s.packetIn port p false fun s c => s.inOrder p.dstConn c p 1 (fun s => s.waitRx p.dstConn true p) id

/-- READ_REQ. -/
def State.reqIn (s : State) (port : Nat) (p : FIn) : State :=
  let n := bits 0 40 p.w1
  s.packetIn port p false fun s c =>
    s.inOrder p.dstConn c p (ceilDiv n s.payloadMax) (fun s => s.waitRx p.dstConn false p) (fun s => s.serveRead p.dstConn c p)

/-- MSG: its bytes gather; the last packet delivers the message to its layer. -/
def State.msgIn (s : State) (port : Nat) (p : FIn) : State :=
  let k := p.dstConn
  s.packetIn port p true fun s c =>
    s.inOrder k c p 1 (fun s =>
      let bs := (if p.first then [] else c.rxMsg) ++ p.payload
      let s := s.modConn k fun c => { c with rxMsg := if p.last then [] else bs }
      let s := if p.last then s.arriveMsg (Msg.ofBytes bs) else s
      if p.ackReq then s.ackSoon k else s) id

/-! ## PTP (R420, R421) -/

/-- A signed value in 16 bits, saturating. -/
def sat16 (x : Int) : Nat := ((max (-32768) (min 32767 x)).emod 65536).toNat

/-- A PTP message of a port is passed to the clock. -/
def State.ptpOn (s : State) (port domain : Nat) : Bool :=
  s.fieldUp port && s.on Reg.fldPtpCfgPtpEn && bitAt port (s.rd Reg.fldPtpCfgPorts) && domain == s.rd Reg.fldPtpCfgDomain

/-- Takeover times of armed lists, when VALID returns. -/
def State.rearm (s : State) : State :=
  ((natsFrom 0 4).filter fun p => s.on Reg.fldGclCtrlPending p).foldl (fun (s : State) p =>
    s.modFport p fun f => { f with takeover := some (s.takeoverTime p) }) s

/-- PTP_SYNC. -/
def State.ptpSync (s : State) (port domain t1 : Nat) : State :=
  if !s.ptpOn port domain then s
  else
    let t2 := s.fieldTime
    let off : Int := (t2 : Int) - (t1 : Int) - s.fld.delay
    let step := decide (1000 < off) || decide (off < -1000)
    let near := decide (-100 < off) && decide (off < 100)
    let good := if near then min 16 (s.fld.good + 1) else 0
    let t2' := if step then ((t2 : Int) - off).toNat else t2
    let s := s.wr Reg.fldTimeStatusOffsetNs (sat16 off)
    let s : State := { s with fld := { s.fld with offset := if step then s.fld.offset - off else s.fld.offset,
                                                  slew := if step then 0 else -off, good := good, sync := some (t1, t2') } }
    let s := if good = 16 ∧ !s.fieldValid then (s.wr Reg.fldTimeStatusValid 1).rearm else s
    s.modFport port fun f => { f with ctl := if f.ctl.any fun x => x.kind == 3 then f.ctl else f.ctl ++ [⟨3, 0, 0, 0, 0, 0, 0⟩] }

/-- PTP_DELAY_RESP: path delay of the default delay request-response profile. -/
def State.ptpDelay (s : State) (port domain t4 : Nat) : State :=
  if !s.ptpOn port domain then s
  else match s.fld.sync, s.fld.reqAt with
  | some (t1, t2), some t3 =>
    let d : Int := (((t2 : Int) - t1) + ((t4 : Int) - t3)) / 2
    { s with fld := { s.fld with delay := d, reqAt := none } }
  | _, _ => s

/-- PTP_LOST. -/
def State.ptpLost (s : State) : State :=
  if s.fieldValid then
    let s := (s.wr Reg.fldTimeStatusValid 0).wr Reg.fldTimeStatusSyncLost 1
    let s : State := { s with fld := { s.fld with good := 0 } }
    let s := (natsFrom 0 4).foldl (fun (s : State) p => s.modFport p fun f => { f with takeover := none }) s
    s.alarm 0x05 0xF 0xFF 0 0
  else s

/-- One nanosecond of field time: slewed by 1 ns in 10 µs (R421). -/
def State.tickFieldTime (s : State) : State :=
  if s.fld.slew ≠ 0 ∧ s.now % 10000 = 0 then
    let d : Int := if 0 < s.fld.slew then 1 else -1
    { s with fld := { s.fld with offset := s.fld.offset + d, slew := s.fld.slew - d } }
  else s

/-! ## The commands -/

/-- FLD_CONN_OPEN (R403). -/
def execFldConnOpen (core : Fin 160) (place : Fin 4) (s : State) : Out :=
  .next (s.runField core (wainPlace place) 1 fun s j => s.connOpen core (wainPlace place) j).choices
/-- FLD_CONN_CLOSE (R404). -/
def execFldConnClose (core : Fin 160) (place : Fin 4) (s : State) : Out :=
  .next (s.runField core (wainPlace place) 2 fun s j => s.connClose core (wainPlace place) j).choices
/-- FLD_CONN_MODIFY (R416). -/
def execFldConnModify (core : Fin 160) (place : Fin 4) (s : State) : Out :=
  .next (s.runField core (wainPlace place) 3 fun s j => s.connModify core (wainPlace place) j).choices
/-- FLD_WRITE (R407, R412). -/
def execFldWrite (core : Fin 160) (place : Fin 4) (s : State) : Out :=
  .next (s.runField core (wainPlace place) 4 fun s j => s.connQueue core (wainPlace place) j true).choices
/-- FLD_READ (R407, R412). -/
def execFldRead (core : Fin 160) (place : Fin 4) (s : State) : Out :=
  .next (s.runField core (wainPlace place) 5 fun s j => s.connQueue core (wainPlace place) j false).choices
/-- FIELD_WRITE (R408). -/
def execFieldWrite (port : Fin 4) (p : FIn) (s : State) : Out := .next (s.writeIn port p).choices
/-- READ_REQ (R402). -/
def execReadReq (port : Fin 4) (p : FIn) (s : State) : Out := .next (s.reqIn port p).choices
/-- READ_RSP (R409). -/
def execReadRsp (port : Fin 4) (p : FIn) (s : State) : Out := .next (s.packetIn port p false fun s _ => s.rspIn p.dstConn p).choices
/-- FIELD_ACK (R409). -/
def execFieldAck (port : Fin 4) (p : FIn) (s : State) : Out := .next (s.packetIn port p false fun s _ => s.ackIn p.dstConn p).choices
/-- MSG (R405). -/
def execMsg (port : Fin 4) (p : FIn) (s : State) : Out := .next (s.msgIn port p).choices
/-- RX_DROP (R400). -/
def execRxDrop (port : Fin 4) (s : State) : Out := .next (if s.fieldUp port then s.bump Reg.fldRxDropCount 1 port else s)
/-- NEIGHBOUR_SOLICITATION (R400). -/
def execNeighbourSolicitation (port : Fin 4) (mac ip : Nat) (s : State) : Out :=
  .next (if s.fieldUp port then s.modFport port fun f => { f with ctl := f.ctl ++ [⟨2, 0, 0, 0, 0, mac % 2 ^ 48, ip % 2 ^ 128⟩] } else s)
/-- RETRY_TIMEOUT (R409). -/
def execRetryTimeout (conn : Nat) (s : State) : Out := .next (s.retryTimeout conn).choices
/-- PACKET_BOUNDARY (R414). -/
def execPacketBoundary (port : Fin 4) (s : State) : Out := .next (s.packetBoundary port).choices
/-- WHEEL_SLOT (R416). -/
def execWheelSlot (slot : Fin 4096) (s : State) : Out := .next (s.wheelSlot slot)
/-- GATE_ENTRY (R417). -/
def execGateEntry (port : Fin 4) (s : State) : Out := .next (s.nextGate port)
/-- CHANGE (R418). -/
def execChange (port : Fin 4) (s : State) : Out := .next (s.armList port)
/-- GCL_TAKEOVER (R418). -/
def execGclTakeover (port : Fin 4) (s : State) : Out := .next (s.takeOver port)
/-- PTP_SYNC (R421). -/
def execPtpSync (port : Fin 4) (domain t1 : Nat) (s : State) : Out := .next (s.ptpSync port domain t1)
/-- PTP_DELAY_RESP (R420). -/
def execPtpDelayResp (port : Fin 4) (domain t4 : Nat) (s : State) : Out := .next (s.ptpDelay port domain t4)
/-- PTP_LOST (R421). -/
def execPtpLost (s : State) : Out := .next s.ptpLost

end Sys2Proof.Machine
end

