-- ==== Sys2Proof/Machine/Health.lean ====
section
/-!
DEFINITION. Health (R427 to R451): the score, self-tests, held slots, shrinking, HLT_VERIFY, device faults, the event log's switch and
Porter's summaries.
-/

namespace Sys2Proof.Machine

/-! ## Event log and sources -/

/-- LOG_EN: setting it starts both counts anew (R451). -/
def State.logEnable (s : State) (on : Bool) : State :=
  let was := s.on Reg.hltCtrlLogEn
  let s := s.flag Reg.hltCtrlLogEn on
  if on && !was then ((s.wr Reg.hltLogProdCount 0).wr Reg.hltLogConsCount 0).logAlarms 64 else s

/-- The driver has consumed records; pending alarm slots take the room (R431). -/
def State.logConsumed (s : State) (n : Nat) : State := (s.wr Reg.hltLogConsCount n).logAlarms 64

/-- Every source gains a token (R432). -/
def State.tokenRefill (s : State) : State :=
  { s with hlt := { s.hlt with sources := (s.hlt.sources.map fun e => (e.1, e.2.1 - 1, e.2.2)).filter fun e => e.2 != (0, 0) } }

/-- A summary while Porter's queue is full: raised and not forwarded, by class (R434, R475). -/
def State.porterSummary (s : State) : State :=
  if s.hlt.portq.length < 32 then s
  else
    let c (k : Nat) : List Nat := [min 65535 (Tbl.get 0 k s.hlt.raised), min 65535 (Tbl.get 0 k s.hlt.unsent)]
    { s with prt := { s.prt with summaries := s.prt.summaries ++ [c 0 ++ c 1 ++ c 2] }, hlt := { s.hlt with raised := [], unsent := [] } }

/-! ## Scores (R435 to R437) -/

/-- Parts. -/
def partCount : Nat := 212

/-- Kind of a part. -/
def partKind (i : Nat) : Nat := if i < 160 then 0 else if i < 168 then 1 else if i < 200 then 2 else if i < 208 then 3 else 4

/-- Increase of a counter since the last update. -/
def State.increase (s : State) (i k now : Nat) : Nat := (now + 2 ^ 32 - Tbl.get 0 (4 * i + k) s.hlt.base) % 2 ^ 32

/-- The score of a part after an update (R436). -/
def State.nextScore (s : State) (i : Nat) : Nat :=
  let k := partKind i
  let v := s.rd Reg.hltScoreValue i
  let v := v - ceilDiv v (2 ^ s.rd Reg.hltKwDecayLog2 k)
  min (2 ^ 32 - 1) (v + s.rd Reg.hltKwWCorr k * s.increase i 0 (s.rd Reg.hltCorrValue i) + s.rd Reg.hltKwWRetry k * s.increase i 1 (s.rd Reg.hltRetryValue i) +
    s.rd Reg.hltKwWRetrain k * s.increase i 2 (s.rd Reg.hltRetrainValue i))

/-- Update one part's score. -/
def State.scorePart (s : State) (i : Nat) : State :=
  let v := s.nextScore i
  let base := Tbl.set 0 (4 * i) (s.rd Reg.hltCorrValue i)
    (Tbl.set 0 (4 * i + 1) (s.rd Reg.hltRetryValue i) (Tbl.set 0 (4 * i + 2) (s.rd Reg.hltRetrainValue i) s.hlt.base))
  { s.wr Reg.hltScoreValue v i with hlt := { s.hlt with base := base } }

/-- One threshold for one part: whether it is marked afterwards, and whether the event is raised (R437). -/
def crossed (v limit : Nat) (marked : Bool) : Bool × Bool :=
  if limit ≤ v then (true, !marked) else (marked && !decide (2 * v < limit), false)

/-- HEALTH_ALARM. -/
def State.alarmPart (s : State) (i : Nat) : State :=
  let v := s.rd Reg.hltScoreValue i
  let c := crossed v (s.rd Reg.hltKalarmAlarm (partKind i)) (s.hlt.alarmed.contains i)
  let s : State := { s with hlt := { s.hlt with alarmed := if c.1 then sortDedup (i :: s.hlt.alarmed) else s.hlt.alarmed.filter (· != i) } }
  if c.2 then s.alarm 0x07 0xF i v 0 else s

/-- HEALTH_WARN. -/
def State.warnPart (s : State) (i : Nat) : State :=
  let v := s.rd Reg.hltScoreValue i
  let c := crossed v (s.rd Reg.hltKwarnWarn (partKind i)) (s.hlt.warned.contains i)
  let s : State := { s with hlt := { s.hlt with warned := if c.1 then sortDedup (i :: s.hlt.warned) else s.hlt.warned.filter (· != i) } }
  if c.2 then s.error 0x44 0xF i v 0 else s

/-- SCORE_UPDATE: parts in ascending index; alarms before errors (R433). -/
def State.scoreUpdate (s : State) : State :=
  let ps := natsFrom 0 partCount
  let s := ps.foldl (fun (s : State) i => s.scorePart i) s
  let s := ps.foldl (fun (s : State) i => s.alarmPart i) s
  ps.foldl (fun (s : State) i => s.warnPart i) s

/-! ## Cores and slots (R438, R440, R442) -/

/-- CORE_SELF_TEST: a test that ends at stage 3. -/
def State.selfTest (s : State) (c : Nat) (pass : Bool) : State :=
  if s.stage ≠ 3 ∨ s.pwr.tested.contains c then s
  else
    let s : State := { s with pwr := { s.pwr with tested := sortDedup (c :: s.pwr.tested) } }
    let s := s.flag Reg.hltCorePassPass pass c
    if pass then s else s.quarantine c 1

/-- The slot is held no more. -/
def State.unheld (s : State) (k : Nat) : State := { s with hlt := { s.hlt with held := s.hlt.held.filter (· != k) } }

/-- HLT_RESUME: the slot is held no more; its abandoned step runs again from its first command, with its Tally bases captured again (R306). -/
def State.resumeSlot (s : State) (k : Nat) : State :=
  if s.hlt.held.contains k then
    let s := s.unheld k
    (if (s.slotOf k).running then s.modSlot k fun x => { x with started := s.now, nodeAt := [] } else s).restart k
  else s

/-- A write of HLT_RESUME. -/
def State.resumeSlots (s : State) (m : Nat) : State := (bitList 8 m).foldl (fun (s : State) k => s.resumeSlot k) s

/-- GO of HLT_SHRINK: BUSY while a shrink of the slot is pending, BAD_GROUP for the leader. -/
def State.shrinkGo (s : State) (slot m : Nat) : State :=
  let s := (s.wr Reg.hltShrinkMember m).wr Reg.hltShrinkSlot slot
  if s.shrinking slot then s.wr Reg.hltShrinkStatus St.busy
  else if s.assigned && member s.self == m then s.wr Reg.hltShrinkStatus St.badGroup
  else s.modSlot slot fun x => { x with shrink := some m }

/-! ## HLT_VERIFY (R447) -/

/-- Records of the table: FIRST, PAGES and HASH; none where the run ends with ERR. -/
def State.verifyRows (s : State) : Option (List (Nat × Nat × List Byte)) :=
  let l := s.rd Reg.hltVerifyLodge
  let a := s.rd Reg.hltVerifyAddrAddr * 16
  let n := s.rd Reg.hltVerifyEntries
  if s.readStatus l a (48 * n) ≠ St.ok then none
  else
    let rows := (natsFrom 0 n).map fun i =>
      let w (k : Nat) := s.peekNat l (a + 48 * i + 8 * k) 8
      (w 0, w 1, s.peek l (a + 48 * i + 16) 32)
    if rows.any fun r => decide (2 ^ 48 ≤ r.1) || decide (2 ^ 26 ≤ r.2.1) || decide (r.1 % 2 ^ 21 ≠ 0) || !s.translates l r.1 (r.2.1 * 2 ^ 21) then none
    else some rows

/-- A run of HLT_VERIFY in persona 0 has ended: step 5 of repair admission (R446; DESIGN CHOICE, log 69). -/
def State.repairVerify (s : State) (ok : Bool) : State :=
  if s.rd Reg.lodPersonaPersona = 0 then s.trace 0x82 (s.rd Reg.hltVerifyLodge) 0xFF (5 + if ok then 2 ^ 8 else 0) 0 else s

/-- START of HLT_VERIFY. -/
def State.verifyStart (s : State) : State :=
  if s.on Reg.hltVerifyBusy then s.discard
  else
    let s := ((s.wr Reg.hltVerifyErr 0).wr Reg.hltVerifyMismatch 0).wr Reg.hltVerifyFirstFirstBad 0
    match s.verifyRows with
    | none => (s.wr Reg.hltVerifyErr 1).repairVerify false
    | some _ => s.wr Reg.hltVerifyBusy 1

/-- A range differs from its manifest: poisoned data never match. -/
def State.rangeDiffers (s : State) (r : Nat × Nat × List Byte) : Bool :=
  let l := s.rd Reg.hltVerifyLodge
  let n := r.2.1 * 2 ^ 21
  s.readStatus l r.1 n != St.ok || sha256 (s.peek l r.1 n) != r.2.2

/-- VERIFY_DONE: every range is hashed; each that differs raises COPY_DIFFER. -/
def State.verifyDone (s : State) : State :=
  if !s.on Reg.hltVerifyBusy then s
  else
    let s := s.wr Reg.hltVerifyBusy 0
    match s.verifyRows with
    | none => (s.wr Reg.hltVerifyErr 1).repairVerify false
    | some rows =>
      let bad := rows.zipIdx.filter fun e => s.rangeDiffers e.1
      let l := s.rd Reg.hltVerifyLodge
      let s := bad.foldl (fun (s : State) e => (s.bump Reg.hltCopyDiffCount).error 0x46 l 0xFF (e.2 * 2 ^ 32) e.1.1) s
      let s := s.wr Reg.hltVerifyMismatch (min 4095 bad.length)
      (s.wr Reg.hltVerifyFirstFirstBad (match bad with | [] => 0 | e :: _ => e.2)).repairVerify (bad == [])

/-! ## Device faults (R450) -/

/-- SOURCE of a resource. -/
def faultSource (resource : Nat) : Nat := if resource = 0 then 3 else if resource ≤ 2 then 5 else 7

/-- DEVICE_FAULT. -/
def State.deviceFault (s : State) (resource index : Nat) : State :=
  if 5 < resource then s
  else
    let src := faultSource resource
    let i := if resource = 3 ∨ resource = 4 then index % 8 else 0
    let s := (s.wr Reg.hltStatusDeviceFault 1).alarm 0x09 0xF 0xFF (resource + i * 2 ^ 8 + src * 2 ^ 16) 0
    let st := if src = 7 then St.lodgeFaulted else St.memUncorr
    ((natsFrom 0 16).filter fun l => s.lodge l == 1).foldl (fun (s : State) l => s.faultLodge l st src 0 0 0) s

/-! ## The commands -/

/-- LOG_EN (R451). -/
def execLogEn (on : Bool) (s : State) : Out := .next (s.logEnable on)
/-- ALARM_RECORD (R431). -/
def execAlarmRecord (consumed : Nat) (s : State) : Out := .next (s.logConsumed consumed)
/-- TOKEN_REFILL (R432). -/
def execTokenRefill (s : State) : Out := .next s.tokenRefill
/-- PORTER_SUMMARY (R434). -/
def execPorterSummary (s : State) : Out := .next s.porterSummary
/-- SCORE_UPDATE (R436). -/
def execScoreUpdate (s : State) : Out := .next s.scoreUpdate
/-- CORE_SELF_TEST (R438). -/
def execCoreSelfTest (core : Fin 160) (pass : Bool) (s : State) : Out := .next (s.selfTest core pass).choices
/-- HLT_RESUME (R440). -/
def execHltResume (slots : Nat) (s : State) : Out := .next (s.resumeSlots slots).choices
/-- SHRINK (R442). -/
def execShrink (slot : Fin 8) (member : Fin 64) (s : State) : Out := .next (s.shrinkGo slot member)
/-- HLT_VERIFY (R447). -/
def execHltVerify (s : State) : Out := .next s.verifyStart
/-- VERIFY_DONE (R447). -/
def execVerifyDone (s : State) : Out := .next s.verifyDone
/-- DEVICE_FAULT (R450). -/
def execDeviceFault (resource index : Nat) (s : State) : Out := .next (s.deviceFault resource index).choices

end Sys2Proof.Machine
end

