-- ==== Sys2Proof/Machine/Power.lean ====
section
/-!
DEFINITION. Clocks, power and bring-up (R452 to R471), encryption keys (R199, R483), measured boot (R480 to R482), removal and
power-down causes (R492 to R494), the PPS pin (R485).
-/

namespace Sys2Proof.Machine

/-! ## Cap table (R461, R462) -/

/-- DUTY and RATE of each cap from 350 W in steps of 25 W. -/
def capTable : List (Nat × Nat) :=
  [(30, 32), (32, 34), (35, 36), (37, 38), (40, 41), (42, 43), (45, 45), (47, 48), (50, 50), (52, 52), (55, 55), (57, 57), (60, 60), (62, 62), (64, 64)]

/-- The table entry of a cap. -/
def capEntry (w : Nat) : Nat × Nat := capTable.getD ((w - 350) / 25) (64, 64)

/-- HIGHEST (R461). -/
def State.highest (s : State) : Nat := if s.variant = 1 then 450 else 700

/-- TABLE_DUTY and the RATE to move to, as the stage has them. -/
def State.useCap (s : State) : State :=
  let e := if s.stage = 4 then capEntry (s.rd Reg.rveCapCapW) else (64, 64)
  let s := { s.wr Reg.rveLimitTableDuty e.1 with pwr := { s.pwr with target := e, loop := s.pwr.loop.filter (· < e.1) } }
  s.wr Reg.rveLimitLoopSteps (match s.pwr.loop with | some d => e.1 - d | none => 0)

/-- A write of CAP_W. -/
def State.capWrite (s : State) (w : Nat) : State :=
  if 350 ≤ w ∧ w ≤ s.highest ∧ w % 25 = 0 then (s.wr Reg.rveCapCapW w).useCap
  else s.discard.setBit Reg.rveErrBits 0

/-- The thermal DUTY of a die (R467). -/
def State.thermalDuty (s : State) (die : Nat) : Nat :=
  if bitAt die (s.rd Reg.rveStatusThrottled) then max 8 (s.rd Reg.rveLimitTableDuty / 2) else 64

/-- Every core is IDLE: no command in it, none queued. -/
def State.allIdle (s : State) : Bool := s.cores.all fun e => e.2.queue == [] && e.2.places == []

/-- The DUTY to move to: the lowest of the table, the loop and the thermal limits (R463), and 8 while the clock change waits for it (R460). -/
def State.dutyGoal (s : State) : Nat :=
  (natsFrom 0 4).foldl (fun d i => min d (s.thermalDuty i))
    (min (min (s.rd Reg.rveLimitTableDuty) (s.pwr.loop.getD 64)) (if s.paused && s.allIdle then 8 else 64))

/-- One paced step: one unit up, up to four units down (R465). -/
def pace (cur goal : Nat) : Nat := if cur < goal then cur + 1 else if goal + 4 ≤ cur then cur - 4 else goal

/-- RAMP_STEP. -/
def State.rampMove (s : State) : State :=
  let r := pace (s.rd Reg.nbuRateRate) s.pwr.target.2
  ((s.wr Reg.rveLimitDuty (pace (s.rd Reg.rveLimitDuty) s.dutyGoal)).wr Reg.nbuRateRate r).wr Reg.rveLimitRate r

/-- POWER_LOOP (R464): readings, then the loop DUTY down, or up after 10 ms below the cap. -/
def State.powerLoop (s : State) (avg peak mv ma mj : Nat) (below floorHeld : Bool) : State :=
  let s := s.wr Reg.rvePowerAvgW (min avg 4095)
  let s := s.wr Reg.rvePowerPeakW (max (s.rd Reg.rvePowerPeakW) (min peak 4095))
  let s := ((s.wr Reg.rveInputMv (min mv 65535)).wr Reg.rveInputMa (min ma 65535)).count Reg.rveEnergyMj mj
  let s := s.flag Reg.rveStatusInLimit (decide (20000 < ma))
  let cap := s.rd Reg.rveCapCapW
  let table := s.rd Reg.rveLimitTableDuty
  let cur := s.pwr.loop.getD table
  let s :=
    if cap < avg ∧ 8 < cur then ({ s with pwr := { s.pwr with loop := some (max 8 (cur - 2)) } } : State).bump Reg.rveLoopCntCount
    else if below ∧ avg < cap - 25 then { s with pwr := { s.pwr with loop := if cur + 2 < table then some (cur + 2) else none } }
    else s
  let s := s.wr Reg.rveLimitLoopSteps (match s.pwr.loop with | some d => table - d | none => 0)
  if floorHeld ∧ cur = 8 ∧ cap + 25 < avg then
    (s.setBit Reg.rveErrBits 1).alarm 0x0B 0xF 0xFF (min avg 4095 + cur * 2 ^ 16 + cap * 2 ^ 32) 0
  else s

/-! ## Off and on (R455, R468, R469, R494) -/

/-- The state after everything but what a reset keeps has gone: RVE_CAUSE, and what lies outside the module or in its flash and fuses. -/
def State.wiped (s : State) : State :=
  let t : State := { State.reset with
    pending := s.pending
    now := s.now
    free := s.free
    variant := s.variant
    hif := { State.reset.hif with mem := s.hif.mem }
    pwr := { State.reset.pwr with rails := s.pwr.rails, switch := s.pwr.switch, mrst := s.pwr.mrst, temps := s.pwr.temps }
    prt := { State.reset.prt with bankA := s.prt.bankA, bankB := s.prt.bankB, booted := s.prt.booted, next := s.prt.next, strap := s.prt.strap }
    tlg := { s.tlg with version := 0, fw := 0, keys := [] } }
  let t := ((t.wr Reg.rveCauseLastReset (s.rd Reg.rveCauseLastReset)).wr Reg.rveCauseLastOff (s.rd Reg.rveCauseLastOff)).wr
    Reg.rveCauseTripSensor (s.rd Reg.rveCauseTripSensor)
  t.wr Reg.rveCapCapW s.highest

/-- Stage 0 begins: the timestamp starts at 0 (R453), the reference and the PLL as they are. -/
def State.stage0 (s : State) : State :=
  let ok := s.pwr.rails == 2 && !s.pwr.refHeld
  (({ s with now := 0 } : State).flag Reg.clkStatusRefOk ok).flag Reg.clkStatusSysLock ok

/-- A module reset with a cause: everything but RVE_CAUSE, CLK_REF_LOSS and the input switch (R455). -/
def State.moduleReset (s : State) (cause : Nat) : State :=
  let t := (s.wiped.wr Reg.clkRefLossCount (s.rd Reg.clkRefLossCount)).wr Reg.rveCauseLastReset cause
  t.stage0

/-- The module is powered, its compute rails on. -/
def State.powered (s : State) : Bool := s.pwr.rails == 2

/-- POWER_UP: rails in sequence, to stage 0; a module reset held by MRST_N follows (R469, R494). -/
def State.powerUp (s : State) : State :=
  if s.powered || s.pwr.waitOn then s
  else
    let due := s.pwr.mrstDue
    let t : State := { s with pwr := { s.pwr with rails := 2, switch := true } }
    let t := (t.wiped.wr Reg.rveCauseLastReset 0).stage0
    if due then t.moduleReset 1 else t

/-- Place of a cause in the order of R494. -/
def causeRank (c : Nat) : Nat := ([6, 2, 3, 1, 4, 5].findIdx? (· == c)).getD 6

/-- The input switch opens for these causes (R469). -/
def opensSwitch (c : Nat) : Bool := [1, 2, 3, 6].contains c

/-- A power-down has just begun: other causes of the same microsecond still count (R494). -/
def State.justOff (s : State) : Bool := !s.powered && (match s.pwr.offAt with | some t => decide (s.now < t + 1000) | none => false)

/-- A power-down cause is latched (R469, R494): everything stops and memory is lost. -/
def State.powerDown (s : State) (cause : Nat) : State :=
  let first := s.powered
  let same := s.justOff
  let old := s.rd Reg.rveCauseLastOff
  let last := if first then cause else if same && decide (causeRank cause < causeRank old) then cause else old
  let sw := s.pwr.switch && !opensSwitch cause
  let w := (cause == 4 || cause == 5 || s.pwr.waitOn) && cause != 6
  let t := if first then { s.wiped with pwr := { s.wiped.pwr with offAt := some s.now } } else s
  { t.wr Reg.rveCauseLastOff last with
    pwr := { t.pwr with rails := if cause = 6 then 0 else min t.pwr.rails 1, switch := sw, waitOn := w } }

/-- STG2_N is asserted low whenever the stage is 2 or higher (R457). -/
def State.stg2Low (s : State) : Bool := decide (2 ≤ s.stage)

/-- Boundary scan ends: BYPASS is selected in its place (R484). -/
def State.endBoundary (s : State) : State :=
  { s with prt := { s.prt with jtag := if s.prt.jtag = .boundary then .bypass else s.prt.jtag } }

/-- MRST_N: low for 1 µs resets the module; released, it ends boundary scan (R484); while the module is off it is held, during a power-down it has no effect (R455, R494). -/
def State.mrstPin (s : State) (low : Bool) : State :=
  let s : State := { s with pwr := { s.pwr with mrst := low } }
  if !low then s.endBoundary
  else if s.powered then s.moduleReset 1
  else
    let going := match s.pwr.offAt with | some t => decide (s.now < t + 100000) | none => false
    if going then s else { s with pwr := { s.pwr with mrstDue := true } }

/-- REFCLK_LOSS (R454). -/
def State.refLoss (s : State) : State :=
  if s.powered then
    let t := (s.bump Reg.clkRefLossCount).moduleReset 5
    ({ t with pwr := { t.pwr with refHeld := true } } : State).stage0
  else s

/-- REFCLK_RESTORED. -/
def State.refBack (s : State) : State := if s.pwr.refHeld then ({ s with pwr := { s.pwr with refHeld := false } } : State).stage0 else s

/-- The RVE_RESET sequence (R456). -/
def State.resetKey (s : State) (v : Nat) : State :=
  let open_ := match s.pwr.key with | some t => decide (s.now - t ≤ 1000000) | none => false
  if v = 0x5EED0001 then { s with pwr := { s.pwr with key := some s.now } }
  else if v == 0x5EED0002 && open_ then s.moduleReset 3
  else ({ s with pwr := { s.pwr with key := none } } : State).discard

/-! ## Sensors (R467) -/

/-- Alarm threshold of a sensor coded as TRIP_SENSOR, °C. -/
def alarmC (n : Nat) : Nat := if n < 5 then 100 else if n = 5 then 95 else if n = 6 then 115 else 98
/-- Trip threshold, °C. -/
def tripC (n : Nat) : Nat := if n < 5 then 110 else if n = 5 then 105 else if n = 6 then 125 else 105

/-- A sensor is read. -/
def State.reading (s : State) (n t : Nat) : State :=
  let s : State := { s with pwr := { s.pwr with temps := Tbl.set 0 n t s.pwr.temps } }
  if n < 7 then (s.wr Reg.rveTempTemp t n).wr Reg.rveTempPeak (max (s.rd Reg.rveTempPeak n) t) n
  else if 8 ≤ n then s.nbThermal (n - 8) t
  else s

/-- THROTTLE of a compute die. -/
def State.throttleDie (s : State) (die t : Nat) : State :=
  let s := s.reading die t
  if s.rd Reg.rveThermThrottleC * 4 ≤ t then s.setBit Reg.rveStatusThrottled die
  else if t < (s.rd Reg.rveThermThrottleC - s.rd Reg.rveThermHystC) * 4 then s.clrBit Reg.rveStatusThrottled die
  else s

/-- THERMAL: raised once, until the sensor re-arms. -/
def State.thermalRead (s : State) (n t : Nat) : State :=
  if n = 7 then s
  else
    let s := s.reading n t
    if alarmC n * 4 ≤ t then
      if s.pwr.hot.contains n then s
      else
        let s : State := { s with pwr := { s.pwr with hot := sortDedup (n :: s.pwr.hot) } }
        (s.setBit Reg.rveErrBits 2).alarm 0x0A 0xF 0xFF (n + t * 2 ^ 8) 0
    else if t < (alarmC n - 5) * 4 then { s with pwr := { s.pwr with hot := s.pwr.hot.filter (· != n) } }
    else s

/-- THERMAL_TRIP. -/
def State.thermalTrip (s : State) (n t : Nat) : State :=
  if n = 7 then s
  else
    let s := s.reading n t
    if tripC n * 4 ≤ t ∧ (s.powered ∨ s.justOff) then
      let u := s.powerDown 4
      if u.rd Reg.rveCauseLastOff = 4 ∧ (s.powered ∨ s.rd Reg.rveCauseLastOff ≠ 4) then u.wr Reg.rveCauseTripSensor n else u
    else s

/-- Every sensor reads below its alarm threshold less 10 °C (R469). -/
def State.coolEnough (s : State) : Bool := s.pwr.temps.all fun e => decide (e.2 < (alarmC e.1 - 10) * 4)

/-! ## Boot (R480 to R482) -/

/-- Words written into a bank. -/
def State.bank (s : State) (b : Nat) : Tbl (Option Nat) := if b = 0 then s.prt.bankA else s.prt.bankB

/-- Result of verifying a bank, as VERIFY of PRT_FW codes it. -/
def State.verifyBank (s : State) (b : Nat) : Nat :=
  let w := s.bank b
  if !Config.imageOk b w then 1
  else if sha384 (Config.imageKey b w) ≠ Config.fuseKeyHash then 2
  else if !Config.ecdsaOk (Config.imageKey b w) (Config.imageSig b w) (sha384 (Config.imageSigned b w)) then 3
  else if Config.imageVersion b w < s.tlg.rollback then 4
  else 0

/-- What measurement `m` digests. -/
def State.measured (s : State) (b m : Nat) : List Byte :=
  if m = 0 then Config.romConfig Config.fuseKeyHash s.tlg.rollback s.tlg.debug else Config.imagePart m b (s.bank b)

/-- Bytes of a measurement register. -/
def State.meas (s : State) (m : Nat) : List Byte := (natsFrom 0 12).flatMap fun w => leBytes 4 (s.rd Reg.tlgMeasDigest m w)

/-- Extend a measurement register: SHA-384 of its old value and a digest. -/
def State.extend (s : State) (m : Nat) (digest : List Byte) : State :=
  let d := sha384 (s.meas m ++ digest)
  (natsFrom 0 12).foldl (fun (s : State) w => s.wr Reg.tlgMeasDigest (leNat ((d.drop (4 * w)).take 4)) m w) s

/-- MEASURED_BOOT. -/
def State.measuredBoot (s : State) : State :=
  if s.stage ≠ 0 ∨ !s.powered ∨ s.pwr.refHeld ∨ s.on Reg.tlgStatusBootFail then s
  else
    let s := s.wr Reg.tlgStatusClassesOk 1
    let b := s.prt.next % 2
    let pick := if s.verifyBank b = 0 then some b else if s.verifyBank (1 - b) = 0 then some (1 - b) else none
    match pick with
    | none => s.wr Reg.tlgStatusBootFail 1
    | some b =>
      let s := (natsFrom 0 4).foldl (fun (s : State) m => s.extend m (sha384 (s.measured b m))) s
      let v := Config.imageVersion b (s.bank b)
      let s : State := { s with prt := { s.prt with booted := b },
                                tlg := { s.tlg with version := v, fw := Config.imageFw b (s.bank b), rollback := max s.tlg.rollback v } }
      (s.wr Reg.tlgStatusBootOk 1).wr Reg.glbStageStage 1

/-! ## Stages (R457 to R460) -/

/-- T2_TRAINED: at least 28 channels raise the stage to 2; fewer stop bring-up there, with an alarm. -/
def State.t2Trained (s : State) (channels width : Nat) : State :=
  if s.stage ≠ 1 then s
  else if popcount 32 channels < 28 then (s.useFree 1).alarm 0x09 0xF 0xFF (Config.freeNat s.free) 0
  else
    let s := ((s.wr Reg.memT2ChT2ch channels).wr Reg.memT2OfferFrames (t2Offer channels)).wr Reg.glbStageStage 2
    (((s.wr Reg.hifStatusSpeed 4).wr Reg.hifStatusWidth width).wr Reg.clkStatusSerdesLock 1).trainPorts

/-- T1_TRAINED: each stack has passed or failed. -/
def State.t1Trained (s : State) (pass : Nat) : State :=
  if s.stage = 2 ∧ 3 ≤ s.rd Reg.rveBringupStopAt then
    let s := ((s.wr Reg.nbuSelftestPass pass).wr Reg.nbuSelftestFail (255 - pass)).wr Reg.glbStageStage 3
    if pass = 255 then s else s.setBit Reg.nbuErrBits 0
  else s

/-- CLOCK_CHANGE (R460): the divider switches at a DUTY of 8, and the stage becomes 4. -/
def State.clockChange (s : State) (speed : Nat) : State :=
  if s.paused && s.allIdle then
    let s := (((s.wr Reg.rveLimitDuty 8).wr Reg.clkStatusCoreDiv 4).wr Reg.glbStageStage 4).useCap
    ((s.wr Reg.hifStatusSpeed speed).retrainSlow).enumerate
  else s

/-- STOP_AT. -/
def State.stopAt (s : State) (v : Nat) : State := if 2 ≤ v ∧ v ≤ 4 then s.wr Reg.rveBringupStopAt v else s.discard

/-- CORE_GATE: a core with nothing in it is clock-gated (R465). -/
def State.gateCore (s : State) (c : Nat) : State :=
  if (s.core c).queue = [] ∧ (s.core c).places = [] then { s with pwr := { s.pwr with gated := sortDedup (c :: s.pwr.gated) } } else s

/-! ## Keys (R198, R199, R483) -/

/-- The lodge holds a T2 or T3 frame, kept source frames of harvest pages, unfinished migrations and replicas among them (R175, R184). -/
def State.holdsOuter (s : State) (l : Nat) : Bool :=
  (s.mem.pages.any fun e => keyLodge e.1 == l && (e.2.tier != 1 || e.2.harvest.isSome)) ||
  (s.mem.migr.any fun e => keyLodge e.1 == l && (e.2.tier == 2 || e.2.tier == 3)) || s.spn.repl.any fun r => r.lodge == l

/-- The keys of a lodge are destroyed (R483). -/
def State.dropKey (s : State) (l : Nat) : State := { s with tlg := { s.tlg with keys := Tbl.del l s.tlg.keys } }

/-- A write of ENCRYPT. -/
def State.encryptWrite (s : State) (l : Nat) (on : Bool) : State :=
  if s.on Reg.memLodgeCfgEncrypt l == on then s
  else if s.holdsOuter l then s.discard.setBit Reg.memErrBits 6
  else
    let s := s.flag Reg.memLodgeCfgEncrypt on l
    if on then s else (s.dropKey l).wr Reg.memLodgeCfgKeyReady 0 l

/-- KEY_INSTALL: Tollgate draws two 256-bit keys from its random generator, free bytes, and installs them. -/
def State.keyInstall (s : State) (l : Nat) : State :=
  if s.on Reg.memLodgeCfgEncrypt l && !s.tlg.debug then
    (({ s with tlg := { s.tlg with keys := Tbl.put l (s.freeBytes 64) s.tlg.keys } } : State).useFree 64).wr Reg.memLodgeCfgKeyReady 1 l
  else s

/-! ## PPS (R485) -/

/-- An edge of PPS_IN and how long it stays high. -/
def State.ppsEdge (s : State) (high : Nat) : State :=
  let late := match s.prt.pps with | some t => decide (500000000 ≤ s.now - t) | none => true
  if decide (100 ≤ high) && late then
    let s := ((s.wr Reg.prtPpsTsNs s.now).wr Reg.prtPpsStNs s.spanTime).wr Reg.prtPpsFtNs s.fieldTime
    { s.count Reg.prtPpsCntCount with prt := { s.prt with pps := some s.now } }
  else s.bump Reg.prtPpsRejectCount

/-! ## The commands -/

/-- POWER_UP (R469). -/
def execPowerUp (s : State) : Out := .next s.powerUp
/-- MEASURED_BOOT (R481). -/
def execMeasuredBoot (s : State) : Out := .next s.measuredBoot
/-- T2_TRAINED (R457). -/
def execT2Trained (channels : Nat) (width : Fin 32) (s : State) : Out := .next (s.t2Trained channels width)
/-- T1_TRAINED (R457). -/
def execT1Trained (pass : Fin 256) (s : State) : Out := .next (s.t1Trained pass).choices
/-- CLOCK_CHANGE (R460). -/
def execClockChange (speed : Fin 8) (s : State) : Out := .next (s.clockChange speed).choices
/-- RAMP_STEP (R465). -/
def execRampStep (s : State) : Out := .next s.rampMove
/-- POWER_LOOP (R464). -/
def execPowerLoop (avg peak mv ma mj : Nat) (below floorHeld : Bool) (s : State) : Out := .next (s.powerLoop avg peak mv ma mj below floorHeld)
/-- CORE_GATE (R465). -/
def execCoreGate (core : Fin 160) (s : State) : Out := .next (s.gateCore core)
/-- CAP_W (R461). -/
def execCapW (watts : Nat) (s : State) : Out := .next (s.capWrite watts)
/-- STOP_AT (R457). -/
def execStopAt (v : Nat) (s : State) : Out := .next (s.stopAt v)
/-- RVE_RESET (R456). -/
def execRveReset (value : Word32) (s : State) : Out := .next (s.resetKey value.toNat)
/-- ENCRYPT (R199). -/
def execEncrypt (lodge : Fin 16) (on : Bool) (s : State) : Out := .next (s.encryptWrite lodge on)
/-- KEY_INSTALL (R483). -/
def execKeyInstall (lodge : Fin 16) (s : State) : Out := .next (s.keyInstall lodge)
/-- MRST_N (R455). -/
def execMrstN (low : Bool) (s : State) : Out := .next (s.mrstPin low)
/-- WATCHDOG (R486). -/
def execWatchdog (s : State) : Out := .next (if s.powered then s.moduleReset 4 else s)
/-- REFCLK_LOSS (R454). -/
def execRefclkLoss (s : State) : Out := .next s.refLoss
/-- REFCLK_RESTORED (R454). -/
def execRefclkRestored (s : State) : Out := .next s.refBack
/-- UNDERVOLTAGE (R468). -/
def execUndervoltage (s : State) : Out := .next (s.powerDown 1)
/-- OVERVOLTAGE (R468). -/
def execOvervoltage (s : State) : Out := .next (s.powerDown 2)
/-- OVERCURRENT (R468, R471). -/
def execOvercurrent (s : State) : Out := .next ((s.powerDown 3).setBit Reg.rveErrBits 3)
/-- REVERSE_CURRENT (R468): the input switch opens. -/
def execReverseCurrent (s : State) : Out := .next { s with pwr := { s.pwr with switch := false } }
/-- REMOVAL (R492). -/
def execRemoval (s : State) : Out := .next (s.powerDown 6)
/-- INSERTION (R492). -/
def execInsertion (s : State) : Out := .next s.powerUp
/-- THROTTLE (R467). -/
def execThrottle (die : Fin 4) (temp : Fin 1024) (s : State) : Out := .next (s.throttleDie die temp)
/-- THERMAL (R467). -/
def execThermal (sensor : Fin 16) (temp : Fin 1024) (s : State) : Out := .next (s.thermalRead sensor temp)
/-- THERMAL_TRIP (R467). -/
def execThermalTrip (sensor : Fin 16) (temp : Fin 1024) (s : State) : Out := .next (s.thermalTrip sensor temp)
/-- STACK_HOT (R124). -/
def execStackHot (stack : Fin 8) (temp : Fin 1024) (s : State) : Out := .next (s.reading (stack + 8) temp)
/-- T2_HOT (R467). -/
def execT2Hot (temp : Fin 1024) (s : State) : Out :=
  .next { s.reading 5 temp with pwr := { (s.reading 5 temp).pwr with t2Hot := decide (340 < temp.val) } }
/-- PPS (R485). -/
def execPps (highNs : Nat) (s : State) : Out := .next (s.ppsEdge highNs)

end Sys2Proof.Machine
end

