-- ==== Sys2Proof/Machine/Bus.lean ====
section
/-!
DEFINITION. Accesses to BAR0 (R10 to R12, R46, R324 to R327): blocks and rights, reads, writes, and the effect of the writes
that trigger an action or that a rule refuses.
-/

namespace Sys2Proof.Machine

/-! ## Registers and their fields -/

/-- The instances of an index whose fields can reach the 32 bits from `a`: lowest bit `k + i · s`, extent `w`. -/
def nearIdx (n s k w a : Nat) : List Nat :=
  if s = 0 then [0]
  else
    let first := if a < k + w then 0 else (a - (k + w)) / s + 1
    let last := if a + 31 < k then 0 else min n ((a + 31 - k) / s + 1)
    natsFrom first (last - first)

/-- The instances of a field with a bit in the register at byte offset `off`. -/
def Fld.insts (f : Fld) (off : Nat) : List (Nat × Nat) :=
  let a := 8 * off
  let is := nearIdx f.n1 f.s1 (f.key 0 0) (f.width + (f.n2 - 1) * f.s2) a
  (is.flatMap fun i => (nearIdx f.n2 f.s2 (f.key i 0) f.width a).map fun j => (i, j)).filter fun p =>
    decide (f.key p.1 p.2 < a + 32) && decide (a < f.key p.1 p.2 + f.width)

/-- The field lies in the register at `off`: its instance. -/
def Fld.hit (f : Fld) (off : Nat) : Option (Nat × Nat) := (f.insts off).head?

/-- A block of R325: base, size, what the host port may do, what Porter may do (read, write), its fields. -/
structure Blk where
  /-- base -/
  base : Nat
  /-- bytes -/
  size : Nat
  /-- the host may write -/
  hostW : Bool
  /-- Porter may read -/
  porterR : Bool
  /-- Porter may write -/
  porterW : Bool
  /-- fields -/
  flds : List Fld

/-- The block table of R325; the host reads every block but the reserved one. -/
def blocks : List Blk :=
  [⟨0x00000000, 0x100000, true, true, false, Reg.blockGlb⟩, ⟨0x00100000, 0x100000, false, true, true, Reg.blockClk⟩,
   ⟨0x00200000, 0x100000, true, true, true, Reg.blockRve⟩, ⟨0x00300000, 0x100000, false, true, false, Reg.blockTlg⟩,
   ⟨0x00400000, 0x400000, true, true, true, Reg.blockPrt⟩, ⟨0x00800000, 0x400000, true, false, false, Reg.blockHif⟩,
   ⟨0x00C00000, 0x400000, true, false, false, Reg.blockLdg⟩, ⟨0x01000000, 0x400000, true, false, false, Reg.blockLod⟩,
   ⟨0x01400000, 0x400000, true, false, false, Reg.blockMem⟩, ⟨0x01800000, 0x400000, true, false, false, Reg.blockNbu⟩,
   ⟨0x01C00000, 0x400000, true, false, false, Reg.blockAtt⟩, ⟨0x02000000, 0x1000000, true, false, false, Reg.blockCmp⟩,
   ⟨0x03000000, 0x400000, true, false, false, Reg.blockTly⟩, ⟨0x03400000, 0x400000, true, false, false, Reg.blockWan⟩,
   ⟨0x03800000, 0x200000, true, false, false, Reg.blockEmb⟩, ⟨0x03A00000, 0x200000, true, false, false, Reg.blockLnk⟩,
   ⟨0x03C00000, 0x100000, true, false, false, Reg.blockSpn⟩, ⟨0x03D00000, 0x100000, true, false, false, Reg.blockFld⟩,
   ⟨0x03E00000, 0x100000, true, true, true, Reg.blockHlt⟩]

/-- The block of an offset; none in the reserved block and outside BAR0. -/
def blockAt (off : Nat) : Option Blk := blocks.find? fun b => decide (b.base ≤ off) && decide (off < b.base + b.size)

/-- The fields of a register with their instances. -/
def regFields (off : Nat) : List (Fld × Nat × Nat) :=
  match blockAt off with
  | some b => b.flds.flatMap fun f => (f.insts off).map fun p => (f, p)
  | none => []

/-- What a port may do at an offset (R325). -/
def portReads (p : BusPort) (off : Nat) : Bool :=
  match blockAt off with
  | some b => p == .host || b.porterR
  | none => false
/-- Writing. -/
def portWrites (p : BusPort) (off : Nat) : Bool :=
  match blockAt off with
  | some b => if p = .host then b.hostW else b.porterW
  | none => false

/-! ## Fields computed on read -/

/-- STATE of CMP_STATUS (R89), from the compute slot. -/
def State.coreState (s : State) (c : Nat) : Nat :=
  let k := s.core c
  match s.job c 0 with
  | some j => (match j.st with | .decode => 1 | .wait => 2 | .run => 3 | .fence => 4 | .kill => 6)
  | none => if k.quarantined then 7 else 0

/-- Near-bank places of a core in use. -/
def State.nearUsed (s : State) (c : Nat) : Nat := ((s.core c).places.filter fun e => kindOf e.1 == 1).length

/-- Streams open on an engine; handovers count as work of their engine. -/
def State.streamsOn (s : State) (e : Nat) : Nat := s.engLoad e

/-- The sum of the bits for which a test holds. -/
def maskOf (n : Nat) (f : Nat → Bool) : Nat := (natsFrom 0 n).foldl (fun m i => if f i then m + 2 ^ i else m) 0

/-- The fields whose value follows from other state, with the value of instance `(i, j)`. -/
def derived : List (Fld × (State → Nat → Nat → Nat)) :=
  [(Reg.cmpStatusState, fun s i _ => s.coreState i),
   (Reg.cmpStatusLodge, fun s i _ => (s.core i).lodge),
   (Reg.cmpStatusQueueDepth, fun s i _ => (s.core i).queue.length),
   (Reg.cmpQuarQuarantined, fun s i _ => if (s.core i).quarantined then 1 else 0),
   (Reg.cmpQuarSuspectUp, fun s i _ => min 255 (s.core i).suspectUp),
   (Reg.cmpQuarSuspectDown, fun s i _ => min 255 (s.core i).suspectDown),
   (Reg.nbuStatusActive, fun s _ _ => maskOf 8 s.stackWork),
   (Reg.nbuSlotActive, fun s i _ => s.nearUsed i),
   (Reg.attStatusSauBusy, fun s _ _ => (natsFrom 0 32).foldl (fun v i => if s.sauBusy (i / 4) (i % 4) then v + 2 ^ i else v) 0),
   (Reg.attQueueDepth, fun s _ _ => s.att.queue.length),
   (Reg.memStatusMigActive, fun s _ _ => s.mem.migr.length),
   (Reg.memStatusTrayUp, fun s _ _ => maskOf 4 fun n => s.mem.trays.any fun t => t.port == n && t.enabled && !t.lost),
   (Reg.memDirUsedEntries, fun s _ _ => s.mem.dir.length),
   (Reg.memUseFrames, fun s i j => s.tierUse i (j + 1)),
   (Reg.ldgFreeCount, fun s _ _ => 65536 - s.ldg.entries.length),
   (Reg.ldgActiveCount, fun s _ _ => (s.ldg.entries.filter fun e => decide (1 ≤ e.2.st) && decide (e.2.st ≤ 7)).length),
   (Reg.wanStatusBusy, fun s _ _ => maskOf 16 fun e => s.streamsOn e != 0 || s.wan.hands.any fun h => h.2.engine == e),
   (Reg.wanStatusStreams, fun s _ _ => ((natsFrom 0 16).map s.engLoad).foldl (· + ·) 0),
   (Reg.wanEngStreams, fun s i _ => s.streamsOn i),
   (Reg.wanEngReserved, fun s i _ => if i < s.wan.eng then 1 else 0),
   (Reg.embQueueDepth, fun s _ _ => s.emb.queue.length),
   (Reg.lodPersonaDrained, fun s _ _ => if s.drained then 1 else 0),
   (Reg.lodClientFreeCount, fun s _ _ => 65536 - s.clientsUsed),
   (Reg.lodStateTenants, fun s i _ => min 65535 (s.lod.tenants.filter fun e => e.2 == i).length),
   (Reg.lodCoresCompute, fun s i _ => min 255 (s.running 0 i)),
   (Reg.lodCoresNear, fun s i _ => min 255 (s.running 1 i)),
   (Reg.lodCoresWain, fun s i _ => min 255 (s.running 2 i)),
   (Reg.tlyFreeCount, fun s _ _ => 8192 - s.tallies.length),
   (Reg.tlyQuotaUsed, fun s i _ => (s.tallies.filter fun e => e.2.lodge == i).length),
   (Reg.glbRevFw, fun s _ _ => s.tlg.fw),
   (Reg.glbStageReduced, fun s _ _ => if s.stage = 2 ∨ s.stage = 3 then 1 else 0),
   (Reg.glbTimeNs, fun s _ _ => s.now),
   (Reg.lnkStimeNs, fun s _ _ => s.spanTime),
   (Reg.lnkReplayOutstanding, fun s i _ => (s.lport i).unacked.length),
   (Reg.lnkReplayTxSeq, fun s i _ => (s.lport i).tx),
   (Reg.spnEngOutstanding, fun s i _ => (s.spn.out.filter fun e => e.2.engine == i).length),
   (Reg.spnCacheLines, fun s _ _ => s.spn.cache.length),
   (Reg.spnArrUsed, fun s i _ => (s.spn.arr.filter fun e => e.2.lodge == i).length),
   (Reg.fldTimeNs, fun s _ _ => s.fieldTime),
   (Reg.fldConnFreeCount, fun s _ _ => 65536 - s.fld.conns.length),
   (Reg.hltStatusDegraded, fun s _ _ =>
     if s.hlt.alarmed != [] || (natsFrom 0 160).any (fun c => s.rd Reg.hltCoreMapPhys c != c) then 1 else 0),
   (Reg.hltStatusHeld, fun s _ _ => maskOf 8 s.hlt.held.contains),
   (Reg.hltShrinkPending, fun s _ _ => if (natsFrom 0 8).any s.shrinking then 1 else 0),
   (Reg.rveCapHighest, fun s _ _ => s.highest),
   (Reg.rveStatusLoop, fun s _ _ => if s.rd Reg.rveLimitLoopSteps = 0 then 0 else 1),
   (Reg.prtStatusQueue, fun s _ _ => s.hlt.portq.length),
   (Reg.prtStatusSummary, fun s _ _ => if 32 ≤ s.hlt.portq.length then 1 else 0),
   (Reg.prtStatusAddrStrap, fun s _ _ => s.prt.strap),
   (Reg.prtFwBooted, fun s _ _ => s.prt.booted),
   (Reg.prtFwNext, fun s _ _ => s.prt.next),
   (Reg.tlgStatusDebug, fun s _ _ => if s.tlg.debug then 1 else 0),
   (Reg.tlgStatusKeys, fun s _ _ => maskOf 16 fun l => s.on Reg.memLodgeCfgKeyReady l),
   (Reg.tlgRollbackValue, fun s _ _ => s.tlg.rollback),
   (Reg.tlgVersionValue, fun s _ _ => s.tlg.version)]

/-- What a read of a field finds: WO fields read zero (R10). -/
def State.peekFld (s : State) (f : Fld) (i j : Nat) : Nat :=
  match f.ty with
  | .wo => 0
  | .dv =>
    (match derived.find? (fun d => d.1.base == f.base && d.1.lsb == f.lsb) with
    | some d => d.2 s i j % 2 ^ f.width
    | none => s.rd f i j)
  | _ => s.rd f i j

/-! ## Reads (R10, R12) -/

/-- The bits of a field that the register from bit `a` shows. -/
def regPart (a k v : Nat) : Nat := if a ≤ k then v * 2 ^ (k - a) % 2 ^ 32 else v / 2 ^ (a - k) % 2 ^ 32

/-- Word `k` of the pending-bit array. -/
def State.pbaWord (s : State) (k : Nat) : Nat := maskOf 32 fun b => s.hif.pba.contains (32 * k + b)

/-- The words of the MSI-X table (R324). -/
def msixWord (off : Nat) : Option Nat := if 0x840000 ≤ off ∧ off < 0x844000 then some ((off - 0x840000) / 4) else none

/-- The current value of a register. -/
def State.regValue (s : State) (off : Nat) : Nat :=
  match msixWord off with
  | some k => Tbl.get (if k % 4 = 3 then 1 else 0) k s.hif.msix
  | none =>
    if 0x848000 ≤ off ∧ off < 0x848080 then s.pbaWord ((off - 0x848000) / 4)
    else (regFields off).foldl (fun n e => n + regPart (8 * off) (e.1.key e.2.1 e.2.2) (s.peekFld e.1 e.2.1 e.2.2)) 0

/-- The register is the low half of a 64-bit quantity. -/
def isLow (off : Nat) : Bool := (regFields off).any fun e => decide (8 * off + 32 < e.1.key e.2.1 e.2.2 + e.1.width)
/-- Or the high half. -/
def isHigh (off : Nat) : Bool := (regFields off).any fun e => decide (e.1.key e.2.1 e.2.2 < 8 * off)

/-- A port's latch. -/
def State.latch (s : State) (p : BusPort) : Option (Nat × Nat) := if p = .host then s.hif.hostLatch else s.hif.porterLatch
/-- Load a port's latch. -/
def State.setLatch (s : State) (p : BusPort) (x : Nat × Nat) : State :=
  match p with
  | .host => { s with hif := { s.hif with hostLatch := some x } }
  | .porter => { s with hif := { s.hif with porterLatch := some x } }

/-- Clear the RC fields of a register. -/
def State.clearRc (s : State) (off : Nat) : State :=
  ((regFields off).filter fun e => e.1.ty == .rc).foldl (fun (s : State) e => s.wr e.1 0 e.2.1 e.2.2) s

/-- A read of a register that the port may read: the value and the state after it. -/
def State.regRead (s : State) (p : BusPort) (off : Nat) : State × Nat :=
  let cur := s.regValue off
  let v :=
    if isHigh off then
      match s.latch p with
      | some (b, h) => if b + 4 = off then h else cur
      | none => cur
    else cur
  ((if isLow off then s.setLatch p (off, s.regValue (off + 4)) else s).clearRc off, v)

/-- A read by either port: a register denied reads zero, and Porter counts it (R325, R474). -/
def State.busRead (s : State) (p : BusPort) (off : Nat) : State × Nat :=
  if portReads p off then s.regRead p off
  else (if p = .porter then s.bump Reg.prtRefusedCount else s, 0)

/-! ## Writes (R10, R46) -/

/-- The value of a field after a write of `v` to the register from bit `a`. -/
def merged (a k w old v : Nat) : Nat :=
  if a ≤ k then
    let n := min w (32 - (k - a))
    old / 2 ^ n * 2 ^ n + v / 2 ^ (k - a) % 2 ^ n
  else
    let sh := a - k
    let n := min (w - sh) 32
    old % 2 ^ sh + v % 2 ^ n * 2 ^ sh + old / 2 ^ (sh + n) * 2 ^ (sh + n)

/-- The bits a write carries for a field that lies whole in the register. -/
def given (f : Fld) (off i j v : Nat) : Nat := v / 2 ^ (f.key i j - 8 * off) % 2 ^ f.width

/-- An RW field would leave its range. -/
def State.outOfRange (s : State) (off v : Nat) : Bool :=
  (regFields off).any fun e =>
    e.1.ty == .rw &&
      (let n := merged (8 * off) (e.1.key e.2.1 e.2.2) e.1.width (s.rd e.1 e.2.1 e.2.2) v
       decide (n < e.1.lo) || decide (e.1.hi < n))

/-- RW fields take the written value, W1C fields lose the bits written as 1 (R10). -/
def State.store (s : State) (off v : Nat) : State :=
  (regFields off).foldl (fun (t : State) e =>
    let k := e.1.key e.2.1 e.2.2
    let old := s.rd e.1 e.2.1 e.2.2
    match e.1.ty with
    | .rw => t.wr e.1 (merged (8 * off) k e.1.width old v) e.2.1 e.2.2
    | .w1c => t.wr e.1 (old - Nat.land old (given e.1 off e.2.1 e.2.2 v)) e.2.1 e.2.2
    | _ => t) s

/-- A field over all its instances of the first index, summed. -/
def State.sumOf (s : State) (f : Fld) (j : Nat) : Nat := (natsFrom 0 f.n1).foldl (fun n i => n + s.rd f i j) 0

/-- A field of one instance differs between two states. -/
def moved (s t : State) (f : Fld) (i : Nat) (j : Nat := 0) : Bool := s.rd f i j != t.rd f i j

/-- The instance of one of these fields that the register holds. -/
def hitAny (fs : List Fld) (off : Nat) : Option (Nat × Nat) := fs.findSome? fun f => f.hit off

/-- An enabled step ring of the lodge of slot `k` is smaller than BATCH_MAX + 1 (R221). -/
def State.ringSmall (s : State) (k : Nat) : Bool :=
  (natsFrom 0 256).any fun r =>
    s.on Reg.hifRingCfgEnable r && s.rd Reg.hifRingCfgType r == 2 && s.rd Reg.hifRingCfgLodge r == s.rd Reg.ldgModelCfgLodge k &&
      decide (2 ^ s.rd Reg.hifRingCfgSizeLog2 r < s.rd Reg.ldgModelBatchBatchMax k + 1)

/-- Registers of a slot that change only while VALID is 0 (R231). -/
def slotFields : List Fld :=
  [Reg.ldgModelCfgLodge, Reg.ldgModelCfgMaxDraft, Reg.ldgModelCfgKvPool, Reg.ldgModelCfgNsteer, Reg.ldgModelCfgInitRate,
   Reg.ldgModelBatchPrefillTokens, Reg.ldgModelHomeHome, Reg.ldgModelHomeHomePool, Reg.ldgPromptMask, Reg.ldgEstAddr,
   Reg.ldgBasisAddr, Reg.ldgLiveryAddr, Reg.ldgLiveryCapCap, Reg.ldgKeyKey]

/-- The rules of R231 and R221 for the registers of slot `k`: `t` is what the write would leave. -/
def State.slotBreaks (s t : State) (off k : Nat) : Bool :=
  let valid := s.on Reg.ldgModelCfgValid k
  let home := t.rd Reg.ldgModelHomeHome k
  (valid && slotFields.any fun f => moved s t f k) ||
  (decide (2 ^ 18 ≤ home) && home != 0xFFFFFF) ||
  (decide (s.rd Reg.ldgModelBatchBatchMax k < t.rd Reg.ldgModelBatchBatchMax k) && t.ringSmall k) ||
  (valid && !t.on Reg.ldgModelCfgValid k && s.ldg.entries.any fun e => e.2.req.model == k || e.2.req.fbModel == k) ||
  ((Reg.ldgModelCfgValid.hit off).isSome && t.on Reg.ldgModelCfgValid k &&
    ((t.pool (t.rd Reg.ldgModelCfgLodge k) (t.rd Reg.ldgModelCfgKvPool k)).1.isNone || t.ringSmall k))

/-- A write that a rule of its register refuses: `t` is what it would leave (R175, R221, R231, R275, R285, R290, R301, R334, R387,
R397, R418, R426, R451). -/
def State.breaks (s t : State) (off : Nat) : Bool :=
  (match Reg.nbuThermHystC.hit off with
   | some _ => decide (t.rd Reg.nbuThermSuspendC < t.rd Reg.nbuThermThrottleC) || decide (95 < t.rd Reg.nbuThermSuspendC) ||
       t.rd Reg.nbuThermHystC == 0
   | none => false) ||
  (match Reg.memResFrames.hit off with
   | some (l, j) => decide (s.rd Reg.memResFrames l j < t.rd Reg.memResFrames l j) && decide (t.tierOffer (j + 1) < t.sumOf Reg.memResFrames j)
   | none => false) ||
  (match hitAny [Reg.lodCsQuotaPages, Reg.cmpCsCfgStagePages] off with
   | some _ =>
     let n := t.sumOf Reg.lodCsQuotaPages 0
     (natsFrom 0 160).any fun c => decide (512 < n + t.rd Reg.cmpCsCfgStagePages c)
   | none => false) ||
  (match Reg.lodCfgCoreMin.hit off with
   | some (l, _) => decide (160 < t.sumOf Reg.lodCfgCoreMin 0) || decide (t.rd Reg.lodCfgCoreMax l < t.rd Reg.lodCfgCoreMin l)
   | none => false) ||
  (match hitAny [Reg.lodMinShare, Reg.lodMaxShare] off with
   | some (l, j) => decide (1008 < t.sumOf Reg.lodMinShare j) || decide (t.rd Reg.lodMaxShare l j < t.rd Reg.lodMinShare l j)
   | none => false) ||
  (match Reg.lodRingClient.hit off with
   | some (r, _) => (s.on Reg.hifRingCfgEnable r || s.rd Reg.hifRingStatusState r != 0) &&
       (moved s t Reg.lodRingClient r || moved s t Reg.lodRingClass r)
   | none => false) ||
  (match Reg.tlyQuotaQuota.hit off with
   | some _ => decide (8192 < t.sumOf Reg.tlyQuotaQuota 0)
   | none => false) ||
  (match Reg.spnArrQuota.hit off with
   | some _ => decide (4096 < t.sumOf Reg.spnArrQuota 0)
   | none => false) ||
  (match Reg.fldConnQuotaQuota.hit off with
   | some _ => decide (65536 < t.sumOf Reg.fldConnQuotaQuota 0)
   | none => false) ||
  (match hitAny [Reg.hifRingBaseAddr, Reg.hifRingDbAddr] off with
   | some (r, _) => s.on Reg.hifRingCfgEnable r && (moved s t Reg.hifRingBaseAddr r || moved s t Reg.hifRingDbAddr r)
   | none => false) ||
  (match Reg.ldgListSizeBlocks.hit off with
   | some (l, _) => moved s t Reg.ldgListSizeBlocks l && s.hasEntries l
   | none => false) ||
  (match hitAny [Reg.ldgModelCfgValid, Reg.ldgModelBatchBatchMax, Reg.ldgModelHomeHome, Reg.ldgPromptMask, Reg.ldgEstAddr,
      Reg.ldgBasisAddr, Reg.ldgLiveryAddr, Reg.ldgLiveryCapCap, Reg.ldgKeyKey] off with
   | some (k, _) => s.slotBreaks t off k
   | none => false) ||
  (match Reg.spnTimingBeatUs.hit off with
   | some _ => decide (t.rd Reg.spnTimingLossUs < 3 * t.rd Reg.spnTimingBeatUs)
   | none => false) ||
  (match Reg.fldCtrlPayloadMax.hit off with
   | some _ => moved s t Reg.fldCtrlPayloadMax 0 && s.fld.conns != []
   | none => false) ||
  (match hitAny [Reg.fldGclAcycleValue, Reg.fldGclAbaseValue, Reg.fldGclAdminGates] off with
   | some (p, _) => s.on Reg.fldGclCtrlPending p
   | none => false) ||
  (match Reg.fldGclAcycleValue.hit off with
   | some (p, _) => decide (t.rd Reg.fldGclAcycleValue p < 200) || decide (1000000000 < t.rd Reg.fldGclAcycleValue p)
   | none => false) ||
  (match Reg.fldGclAdminIntervalNs.hit off with
   | some (p, e) => decide (t.rd Reg.fldGclAdminIntervalNs p e < 100)
   | none => false) ||
  (match hitAny [Reg.hltLogAddr, Reg.hltLogCfgSizeLog2] off with
   | some _ => s.on Reg.hltCtrlLogEn && (moved s t Reg.hltLogAddr 0 || moved s t Reg.hltLogCfgSizeLog2 0)
   | none => false)

/-- A refused write: counted, with the block's own error bit where the spec gives one (R175). -/
def State.refuseWrite (s : State) (off : Nat) : State :=
  if (Reg.memResFrames.hit off).isSome then s.discard.setBit Reg.memErrBits 5 else s.discard

/-! ## Registers whose write is an action -/

/-- A write of HIF_RING_CFG: ENABLE by R334, the other fields only while ENABLE is 0. -/
def State.ringCfgWrite (s : State) (off r v : Nat) : State :=
  let on : Bool := v % 2 == 1
  if s.outOfRange off v then s.discard
  else if s.on Reg.hifRingCfgEnable r then
    if s.store off (v - v % 2 + 1) ≠ s then s.discard
    else if on then s else s.disableRing r
  else
    let t := s.store off (v - v % 2)
    if !on then t else if t.enableRefused r then s.discard else t.enableRing r

/-- A write of LOD_CMD (R276). -/
def State.lodCmdWrite (s : State) (v : Nat) : State :=
  let op := bits 0 4 v
  let l := bits 8 8 v
  match op with
  | 1 => s.lodCmd 1 0 State.create
  | 2 => s.lodOp 2 l fun s => s.destroy l
  | 3 => s.lodOp 3 l fun s => s.bind l (s.rd Reg.lodCmdArgTenant)
  | 4 => s.lodOp 4 l fun s => s.unbind l (s.rd Reg.lodCmdArgTenant)
  | 5 => s.lodOp 5 l fun s => s.resetLodge l
  | 6 => s.lodOp 6 l fun s => s.teardown l
  | 7 => s.lodCmd 7 (l % 16) fun s => let r := s.clientDump l (bitAt 16 v) (bitAt 17 v); (r.1, 16, r.2.1, r.2.2)
  | _ => s.lodOp op l fun s => (s, if 16 ≤ l then St.outOfRange else St.badOpcode)

/-- A write of LOD_PERSONA: discarded while a change is in progress, or when it changes PERSONA while DRAINED is 0 (R297, R298). -/
def State.personaCfgWrite (s : State) (v : Nat) : State :=
  let p := bits 0 2 v
  if s.on Reg.lodPersonaPersonaBusy then s.discard
  else if p = s.rd Reg.lodPersonaPersona then s.drainWrite (bitAt 2 v)
  else if !s.drained then s.discard
  else (s.personaWrite p).drainWrite (bitAt 2 v)

/-- A write of LDG_CTRL: ENABLE stays 0 while DRAIN is 1 (R297). -/
def State.ledgerCtrlWrite (s : State) (off v : Nat) : State :=
  let t := s.store off v
  if s.on Reg.lodPersonaDrain && bitAt 0 v then (t.wr Reg.ldgCtrlEnable 0).discard else t

/-- A write of MEM_LODGE_CFG: ENCRYPT by R199. -/
def State.memLodgeWrite (s : State) (off l v : Nat) : State :=
  let on := bitAt 0 v
  if s.on Reg.memLodgeCfgEncrypt l != on && s.holdsOuter l then s.encryptWrite l on
  else (s.encryptWrite l on).store off v

/-- A write of LNK_CTRL (R358, R363, R365). -/
def State.linkCtrlWrite (s : State) (off n v : Nat) : State :=
  let was := s.on Reg.lnkCtrlEnable n
  let mode := bits 1 1 v
  if s.outOfRange off v || (mode != s.rd Reg.lnkCtrlMode n && was) || (mode == 1 && decide (n < 4)) then s.discard
  else
    let t := s.store off v
    let t := if was && !bitAt 0 v then t.disablePort n else if !was && bitAt 0 v then t.startTraining n else t
    if bitAt 4 v then t.fastRetrain n 11 else t

/-- A write of SPN_CTRL (R376, R378). -/
def State.spanCtrlWrite (s : State) (off v : Nat) : State :=
  let t := s.store off v
  let t := if bitAt 1 v then t.rejoin else t
  if bitAt 2 v then t.endMaster 1 else t

/-- A write of FLD_GCL_CTRL: the admin registers are locked while PENDING (R418). -/
def State.gclCtrlWrite (s : State) (off p v : Nat) : State :=
  if s.outOfRange off v || (s.on Reg.fldGclCtrlPending p && (bitAt 1 v || bits 8 9 v != s.rd Reg.fldGclCtrlAdminLen p)) then s.discard
  else
    let t := s.store off v
    if bitAt 1 v then t.armList p else t

/-- A write of HLT_CTRL. -/
def State.healthCtrlWrite (s : State) (off v : Nat) : State :=
  ((s.store off v).flag Reg.hltCtrlLogEn (s.on Reg.hltCtrlLogEn)).logEnable (bitAt 0 v)

/-- A write of HLT_VERIFY (R447). -/
def State.verifyWrite (s : State) (off v : Nat) : State :=
  if s.outOfRange off v then s.discard
  else if bitAt 17 v then (if s.on Reg.hltVerifyBusy then s.discard else (s.store off v).verifyStart)
  else s.store off v

/-- The registers whose write is an action of its own. -/
def special : List (Fld × (State → Nat → Nat → Nat → State)) :=
  [(Reg.cmpShadowSeedSeed, fun s _ c v => s.seedShadow c v),
   (Reg.cmpQuarRelease, fun s _ c v => if bitAt 1 v then s.releaseCore c else s),
   (Reg.rveCapCapW, fun s _ _ v => s.capWrite (bits 0 10 v)),
   (Reg.rveResetKey, fun s _ _ v => s.resetKey v),
   (Reg.rveBringupStopAt, fun s _ _ v => s.stopAt (bits 0 3 v)),
   (Reg.hifCtrlHostResume, fun s off _ v => let t := s.store off v; if bitAt 0 v then t.hostResume else t),
   (Reg.hifRingCfgEnable, fun s off r v => s.ringCfgWrite off r v),
   (Reg.lodCmdOp, fun s _ _ v => s.lodCmdWrite v),
   (Reg.lodPersonaPersona, fun s _ _ v => s.personaCfgWrite v),
   (Reg.ldgCtrlEnable, fun s off _ v => s.ledgerCtrlWrite off v),
   (Reg.tlyDumpCmdStart, fun s _ _ v => if bitAt 0 v then s.tallyDumpStart (bitAt 1 v) (bits 8 4 v) else s),
   (Reg.memLodgeCfgEncrypt, fun s off l v => s.memLodgeWrite off l v),
   (Reg.lnkCtrlEnable, fun s off n v => s.linkCtrlWrite off n v),
   (Reg.spnIdDevice, fun s _ _ v => s.assignId (bits 0 24 v)),
   (Reg.spnCtrlEnable, fun s off _ v => s.spanCtrlWrite off v),
   (Reg.spnRoutePorts, fun s off _ v =>
     (s.store off (maskOf 8 fun n => bitAt n v && s.rd Reg.lnkCtrlMode n == 0)).checkRoute),
   (Reg.fldGclCtrlGateEn, fun s off p v => s.gclCtrlWrite off p v),
   (Reg.hltCtrlLogEn, fun s off _ v => s.healthCtrlWrite off v),
   (Reg.hltLogConsCount, fun s _ _ v => s.logConsumed v),
   (Reg.hltResumeSlot, fun s _ _ v => s.resumeSlots (bits 0 8 v)),
   (Reg.hltShrinkMember, fun s off _ v => if bitAt 9 v then s.shrinkGo (bits 6 3 v) (bits 0 6 v) else s.store off v),
   (Reg.hltVerifyEntries, fun s off _ v => s.verifyWrite off v),
   (Reg.hltCoreMapPhys, fun s _ c v => s.mapCore c (bits 0 8 v))]

/-- What follows a plain write. -/
def State.afterWrite (s : State) (off v : Nat) : State :=
  match Reg.cmpCtrlEnable.hit off with
  | some (c, _) => s.maskCore c
  | none =>
    if (Reg.wanCtrlEnable.hit off).isSome then s.settleEng
    else if (Reg.wanCfgWindow.hit off).isSome then s.pumpAll
    else if (Reg.spnMembersValue.hit off).isSome then s.checkRoute
    else if off = 0x03C00018 then s.leaseWrite (s.rd Reg.spnLeaseValue % 2 ^ 32 + v * 2 ^ 32)
    else
      match Reg.memHvCfgEntries.hit off with
      | some (k, _) => { s with mem := { s.mem with hvCheck := Tbl.del k s.mem.hvCheck } }
      | none => if (Reg.memCtrlMigrateEn.hit off).isSome then s.idleEngine else s

/-- A write of a word of the MSI-X table: unmasking a vector that is pending fires it (R340). -/
def State.msixWrite (s : State) (k v : Nat) : State :=
  let ctl := k % 4 == 3
  let s : State := { s with hif := { s.hif with msix := Tbl.set (if ctl then 1 else 0) k (if ctl then v % 2 else v) s.hif.msix } }
  if ctl && v % 2 == 0 && s.hif.pba.contains (k / 4) then
    ({ s with hif := { s.hif with pba := s.hif.pba.filter (· != k / 4) } } : State).fire (k / 4)
  else s

/-- A write of a register that the port may write. -/
def State.regWrite (s : State) (off v : Nat) : State :=
  match msixWord off with
  | some k => s.msixWrite k v
  | none =>
    match special.findSome? fun e => (e.1.hit off).map fun p => (e.2, p.1) with
    | some (f, i) => f s off i v
    | none =>
      if s.outOfRange off v then s.discard
      else
        let t := s.store off v
        if s.breaks t off then s.refuseWrite off else t.afterWrite off v

/-- A write by either port: one denied is discarded, and counted by the host interface or by Porter (R325, R327, R474). -/
def State.busWrite (s : State) (p : BusPort) (off v : Nat) : State :=
  if portWrites p off then s.regWrite off v
  else match p with
    | .host => s.discard
    | .porter => s.bump Reg.prtRefusedCount

/-- Porter is live: from stage 1, and after a power-down that leaves the management rail on (R469). -/
def State.porterLive (s : State) : Bool := decide (1 ≤ s.stage) || (s.pwr.waitOn && s.pwr.rails == 1)

/-- The host port reaches the device only from stage 2 (R321); Porter reaches it while it is live (R472). -/
def State.reached (s : State) (p : BusPort) : Bool :=
  match p with
  | .host => decide (2 ≤ s.stage)
  | .porter => s.porterLive

/-- A write command: only naturally aligned 32-bit accesses inside BAR0 act (R12). -/
def State.busStore (s : State) (p : BusPort) (off v : Nat) : State :=
  if !s.reached p || decide (2 ^ 26 ≤ off) then s
  else if off % 4 ≠ 0 then (if p = .host then s.badAccess else s)
  else s.busWrite p off v

/-- A read command: the value goes to the port. -/
def State.busLoad (s : State) (p : BusPort) (off : Nat) : State :=
  if !s.reached p || decide (2 ^ 26 ≤ off) then s
  else
    let r := if off % 4 ≠ 0 then (if p = .host then s.badAccess else s, 0) else s.busRead p off
    { r.1 with hif := { r.1.hif with lastRead := BitVec.ofNat 32 r.2 } }

/-- An access of another size or alignment: a read returns zero, a write is discarded, both are counted (R12). -/
def State.badSize (s : State) (write : Bool) (off size : Nat) : State :=
  if !s.reached .host || (size == 4 && off % 4 == 0) then s
  else if write then s.badAccess
  else { s.badAccess with hif := { s.badAccess.hif with lastRead := 0 } }

/-! ## The commands -/

/-- REGISTER_WRITE (R10). -/
def execRegisterWrite (p : BusPort) (offset : Nat) (value : Word32) (s : State) : Out := .next (s.busStore p offset value.toNat).choices
/-- READ_CLEAR (R10): the read returns the value and clears the RC fields. -/
def execReadClear (p : BusPort) (offset : Nat) (s : State) : Out := .next (s.busLoad p offset)
/-- LOW_HALF_READ (R12): the read loads the port's latch. -/
def execLowHalfRead (p : BusPort) (offset : Nat) (s : State) : Out := .next (s.busLoad p offset)
/-- BAR0_BAD_ACCESS (R12). -/
def execBar0BadAccess (write : Bool) (offset size : Nat) (s : State) : Out := .next (s.badSize write offset size)

end Sys2Proof.Machine
end

