-- ==== Sys2Proof/Machine/Porter.lean ====
section
/-!
DEFINITION. Porter's frames and transports (R472 to R479, R482), firmware staging (R480), JTAG (R484).
-/

namespace Sys2Proof.Machine

/-! ## Replies (R473, R474) -/

/-- One bit of the CRC-8 of R473. -/
def crc8Bit (c : Nat) : Nat := if 128 ≤ c then Nat.xor (c * 2 % 256) 7 else c * 2

/-- CRC-8 of bytes: polynomial x^8 + x^2 + x + 1, initial value 0, MSB first. -/
def crc8 (bs : List Byte) : Nat :=
  bs.foldl (fun c b => crc8Bit (crc8Bit (crc8Bit (crc8Bit (crc8Bit (crc8Bit (crc8Bit (crc8Bit (Nat.xor c b.toNat))))))))) 0

/-- A byte. -/
def byteOf (n : Nat) : Byte := BitVec.ofNat 8 n

/-- A reply frame: TAG, STATUS, COUNT words of data, CRC-8. -/
def replyFrame (tag status : Nat) (data : List Byte) : List Byte :=
  let b := [byteOf tag, byteOf status, byteOf (data.length / 4)] ++ data
  b ++ [byteOf (crc8 b)]

/-- The reply of the last committed frame of a port; on the UART the sync byte precedes it (R479). -/
def State.setReply (s : State) (t : FramePort) (bs : List Byte) : State :=
  match t with
  | .smbus => { s with prt := { s.prt with smbus := bs } }
  | .spi => { s with prt := { s.prt with spi := bs } }
  | .uart => { s with prt := { s.prt with uart := byteOf 0xA5 :: bs } }

/-- A reply without data or with. -/
def State.reply (s : State) (t : FramePort) (tag status : Nat) (data : List Byte := []) : State :=
  s.setReply t (replyFrame tag status data)

/-! ## Which frames are accepted (R472, R479, R482) -/

/-- The port is on, and carries frames. -/
def State.portOn (s : State) (t : FramePort) : Bool :=
  match t with
  | .smbus => s.on Reg.prtCtrlSmbEn
  | .spi => s.on Reg.prtCtrlSpiEn
  | .uart => s.on Reg.prtCtrlUartEn && s.on Reg.prtUartMode

/-- The ROM service of a failed boot, on SMBus and SPI (R482). -/
def State.romService (s : State) (t : FramePort) : Bool :=
  s.stage == 0 && s.on Reg.tlgStatusBootFail && (match t with | .uart => false | _ => true)

/-- The SPI target shifts out the reply of the last committed frame during each frame (R478). -/
def State.shiftOut (s : State) (t : FramePort) : State :=
  match t with
  | .spi => { s with prt := { s.prt with read := s.prt.spi } }
  | _ => s

/-- A committed frame: `rom` says that the ROM service accepts it, `bad` that a field is out of range (R474). -/
def State.frame (s : State) (t : FramePort) (tag : Nat) (rom bad : Bool) (run : State → State) : State :=
  if !s.portOn t then s
  else if s.porterLive then
    let s := s.shiftOut t
    if bad then s.reply t tag St.badOperand else run s
  else if s.romService t then
    let s := s.shiftOut t
    if !rom then s.reply t tag St.notReady else if bad then s.reply t tag St.badOperand else run s
  else s

/-! ## READ and WRITE -/

/-- ARG or COUNT of a register access out of range. -/
def regArgsBad (arg count : Nat) : Bool :=
  arg % 4 != 0 || count == 0 || decide (16 < count) || decide (2 ^ 26 < arg + 4 * count)

/-- Registers in the TLG and PRT blocks, which the ROM service reads. -/
def romRegs (arg count : Nat) : Bool := decide (0x300000 ≤ arg) && decide (arg + 4 * count ≤ 0x800000)

/-- Consecutive reads. -/
def State.readRun (s : State) (off : Nat) : Nat → State × List Byte
  | 0 => (s, [])
  | n + 1 =>
    let r := s.busRead .porter off
    let q := r.1.readRun (off + 4) n
    (q.1, leBytes 4 r.2 ++ q.2)

/-- Consecutive writes; a module reset ends them. -/
def State.writeRun (s : State) (off : Nat) : List Nat → State
  | [] => s
  | v :: r =>
    let t := s.busWrite .porter off (v % 2 ^ 32)
    if t.stage = 0 ∧ s.stage ≠ 0 then t else t.writeRun (off + 4) r

/-- READ. -/
def State.frameRead (s : State) (t : FramePort) (tag arg count : Nat) : State :=
  s.frame t tag (romRegs arg count) (regArgsBad arg count) fun s =>
    let r := s.readRun arg count
    r.1.reply t tag St.ok r.2

/-- WRITE: no reply where the write has reset the module. -/
def State.frameWrite (s : State) (t : FramePort) (tag arg count : Nat) (data : List Nat) : State :=
  s.frame t tag false (regArgsBad arg count || data.length != count) fun s =>
    let u := s.writeRun arg data
    if u.stage = 0 ∧ s.stage ≠ 0 then u else u.reply t tag St.ok

/-! ## Firmware staging (R480) -/

/-- The bank not booted. -/
def State.staging (s : State) : Nat := 1 - s.prt.booted % 2

/-- Words put into the staging bank. -/
def State.stageWords (s : State) (word : Nat) (ws : List Nat) : State :=
  let put (b : Tbl (Option Nat)) : Tbl (Option Nat) :=
    (ws.foldl (fun (p : Tbl (Option Nat) × Nat) v => (Tbl.put p.2 (some (v % 2 ^ 32)) p.1, p.2 + 1)) (b, word)).1
  if s.staging = 0 then { s with prt := { s.prt with bankA := put s.prt.bankA } }
  else { s with prt := { s.prt with bankB := put s.prt.bankB } }

/-- STAGE. -/
def State.frameStage (s : State) (t : FramePort) (tag arg count : Nat) (data : List Nat) : State :=
  s.frame t tag true
    (arg % 4 != 0 || count == 0 || decide (64 < count) || decide (2 ^ 25 < arg + 4 * count) || data.length != count)
    fun s => (s.stageWords (arg / 4) data).reply t tag St.ok

/-- ACTIVATE: a pass marks the staging bank for the next module reset. -/
def State.frameActivate (s : State) (t : FramePort) (tag arg count : Nat) : State :=
  s.frame t tag true (arg != 0 || count != 0) fun s =>
    let b := s.staging
    let v := s.verifyBank b
    let s := s.wr Reg.prtFwVerify v
    let s : State := if v = 0 then { s with prt := { s.prt with next := b } } else s
    s.reply t tag (if v = 0 then St.ok else St.badOperand) (leBytes 4 v)

/-! ## POWER, RESET, EVENTS -/

/-- What the ports were sent before a reset or a power-down stays sent. -/
def State.keepReplies (t s : State) : State :=
  { t with prt := { t.prt with smbus := s.prt.smbus, spi := s.prt.spi, uart := s.prt.uart, read := s.prt.read } }

/-- An ordered power-off waits for DRAINED (R469). -/
def State.orderedOff (s : State) : State :=
  if s.pwr.offDue && s.drained then (s.powerDown 5).keepReplies s else s

/-- POWER (R469). -/
def State.framePower (s : State) (t : FramePort) (tag arg count : Nat) : State :=
  s.frame t tag false (decide (2 < arg) || count != 0) fun s =>
    if arg = 1 then
      if s.powered then s.reply t tag St.ok
      else if s.coolEnough then ({ s with pwr := { s.pwr with waitOn := false } } : State).reply t tag St.ok
      else (s.bump Reg.prtRefusedCount).reply t tag St.busy
    else
      let s := s.reply t tag St.ok
      if !s.powered then s
      else if arg = 2 then (s.powerDown 5).keepReplies s
      else ({ s with pwr := { s.pwr with offDue := true } } : State).orderedOff

/-- RESET: the module reset follows the reply (R455). -/
def State.frameReset (s : State) (t : FramePort) (tag arg count : Nat) : State :=
  s.frame t tag true (arg != 0x5EED0001 || count != 0) fun s =>
    let s := s.reply t tag St.ok
    if s.powered then (s.moduleReset 2).keepReplies s else s

/-- An event's record (R429). -/
def Ev.bytes (e : Ev) : List Byte := leBytes 8 e.word0 ++ leBytes 8 e.time ++ leBytes 8 e.w2 ++ leBytes 8 e.w3

/-- A summary's record: TYPE 0xFF, the six counts in words 2 and 3 (R475); no rule gives its CLASS, COUNT and TIME. -/
def State.summaryBytes (s : State) (c : List Nat) : List Byte :=
  leBytes 8 (Config.freeNat s.free % 4 * 2 + 0xFF * 2 ^ 8 + 0xF * 2 ^ 16 + 0xFF * 2 ^ 20 + Config.freeNat (s.free + 1) % 2 ^ 24 * 2 ^ 40) ++
    leBytes 8 (Config.freeNat (s.free + 2) % 2 ^ 64) ++ ((natsFrom 0 8).flatMap fun i => leBytes 2 (c.getD i 0))

/-- Take the oldest event, or, with none queued, the oldest summary. -/
def State.takeEvent (s : State) : Option (State × List Byte) :=
  match s.hlt.portq with
  | e :: r => some ({ s with hlt := { s.hlt with portq := r } }, e.bytes)
  | [] =>
    match s.prt.summaries with
    | c :: r => some ({ s with prt := { s.prt with summaries := r }, free := s.free + 3 }, s.summaryBytes c)
    | [] => none

/-- Take up to `n` records. -/
def State.takeEvents (s : State) : Nat → State × List Byte
  | 0 => (s, [])
  | n + 1 =>
    match s.takeEvent with
    | none => (s, [])
    | some (t, b) =>
      let q := t.takeEvents n
      (q.1, b ++ q.2)

/-- EVENTS. -/
def State.frameEvents (s : State) (t : FramePort) (tag arg count : Nat) : State :=
  s.frame t tag false (arg != 0 || count == 0 || decide (2 < count)) fun s =>
    let r := s.takeEvents count
    r.1.reply t tag St.ok r.2

/-- FETCH. -/
def State.frameFetch (s : State) (t : FramePort) (tag arg count : Nat) : State :=
  s.frame t tag true (arg != 0 || count != 0) fun s => s.reply t tag St.ok

/-- ALERT_N is driven low: the queue holds an event, a summary is due, or the boot has failed (R475, R482). -/
def State.alertLow (s : State) : Bool := s.hlt.portq != [] || s.prt.summaries != [] || (s.stage == 0 && s.on Reg.tlgStatusBootFail)

/-! ## Transport errors (R476 to R479) -/

/-- Some service of Porter listens on the port. -/
def State.listens (s : State) (t : FramePort) : Bool := s.portOn t && (s.porterLive || s.romService t)

/-- A frame with a bad CRC: a reply on SMBus only (R476). -/
def State.badCrc (s : State) (t : FramePort) (tag : Nat) : State :=
  if !s.listens t then s
  else
    let s := (s.shiftOut t).bump Reg.prtFrameErrCrc
    match t with
    | .smbus => s.reply t tag St.badReserved
    | _ => s

/-- An SPI frame that does not end at 8L edges (R478). -/
def State.spiDiscard (s : State) (edges len : Nat) : State :=
  if !s.listens .spi then s
  else
    let s := s.shiftOut .spi
    if edges % 8 ≠ 0 then s.bump Reg.prtFrameErrPartial
    else if edges < 56 ∨ edges < 8 * len then s.bump Reg.prtFrameErrShort
    else if 8 * len < edges then (s.bump Reg.prtFrameErrOverlong).wr Reg.prtStatusOverlong 1
    else s

/-- What an instruction shifted in over JTAG selects (R484). -/
def State.jtagSelect (s : State) (c : Jtag) : Jtag :=
  match c with
  | .idcode => .idcode
  | .bypass => .bypass
  | .boundary => if s.pwr.mrst then .boundary else .bypass
  | .debug => if s.tlg.debug then .debug else .bypass
  | .other => .bypass

/-- The IDCODE register (R484). -/
def idcode : Nat := Config.jtagVersion % 16 * 2 ^ 28 + 0x1640 * 2 ^ 12 + Config.jedecCode % 2 ^ 11 * 2 + 1

/-! ## Time -/

/-- 1 ns passes, unless the reference is lost: clocks, an ordered power-off that has drained, the choices of every slot. -/
def State.tick (s : State) : State :=
  let s : State := if s.pwr.refHeld then s else { s with now := (s.now + 1) % 2 ^ 64 }
  s.tickSpanTime.tickFieldTime.orderedOff.choices

/-! ## The commands -/

/-- FETCH (R474). -/
def execFetch (t : FramePort) (tag arg count : Nat) (s : State) : Out := .next (s.frameFetch t tag arg count)
/-- READ (R474). -/
def execRead (t : FramePort) (tag arg count : Nat) (s : State) : Out := .next (s.frameRead t tag arg count)
/-- WRITE (R474). -/
def execWrite (t : FramePort) (tag arg count : Nat) (data : List Nat) (s : State) : Out := .next (s.frameWrite t tag arg count data).choices
/-- STAGE (R480). -/
def execStage (t : FramePort) (tag arg count : Nat) (data : List Nat) (s : State) : Out := .next (s.frameStage t tag arg count data)
/-- ACTIVATE (R480). -/
def execActivate (t : FramePort) (tag arg count : Nat) (s : State) : Out := .next (s.frameActivate t tag arg count)
/-- POWER (R474). -/
def execPower (t : FramePort) (tag arg count : Nat) (s : State) : Out := .next (s.framePower t tag arg count)
/-- RESET (R474). -/
def execReset (t : FramePort) (tag arg count : Nat) (s : State) : Out := .next (s.frameReset t tag arg count)
/-- EVENTS (R474). -/
def execEvents (t : FramePort) (tag arg count : Nat) (s : State) : Out := .next (s.frameEvents t tag arg count)
/-- FRAME_CRC_ERROR (R476). -/
def execFrameCrcError (t : FramePort) (tag : Nat) (s : State) : Out := .next (s.badCrc t tag)
/-- FRAME_DISCARD (R478). -/
def execFrameDiscard (edges len : Nat) (s : State) : Out := .next (s.spiDiscard edges len)
/-- UART_GAP (R479). -/
def execUartGap (s : State) : Out := .next (if s.listens .uart then s.bump Reg.prtFrameErrShort else s)
/-- BLOCK_READ (R477). -/
def execBlockRead (s : State) : Out := .next (if s.listens .smbus then { s with prt := { s.prt with read := s.prt.smbus } } else s)
/-- WRONG_PEC (R477): counted in CRC, and in a count of its own. -/
def execWrongPec (s : State) : Out :=
  .next (if s.listens .smbus then { s.bump Reg.prtFrameErrCrc with prt := { s.prt with pec := s.prt.pec + 1 } } else s)
/-- FRAMING_ERROR (R479): counted in OVERLONG of PRT_FRAME_ERR (R486). -/
def execFramingError (s : State) : Out :=
  .next (if s.on Reg.prtCtrlUartEn && s.porterLive then s.bump Reg.prtFrameErrOverlong else s)
/-- JTAG_INSTRUCTION (R484). -/
def execJtagInstruction (code : Jtag) (s : State) : Out := .next { s with prt := { s.prt with jtag := s.jtagSelect code } }

end Sys2Proof.Machine
end

