-- ==== Sys2Proof/Machine/Dispatch.lean ====
section
/-!
DEFINITION. One arm per command: each is one direct call of its meaning.
-/

namespace Sys2Proof.Machine

/-- The effect of a command on everything but the queue. -/
def exec (i : Instr) (s : State) : Host.Outcome State Fault Refusal :=
  match i with
  | .matmul core => Sys2Proof.Machine.execMatmul core s
  | .vector core => Sys2Proof.Machine.execVector core s
  | .convert core => Sys2Proof.Machine.execConvert core s
  | .copy core => Sys2Proof.Machine.execCopy core s
  | .signal core => Sys2Proof.Machine.execSignal core s
  | .nbMatvec core place => Sys2Proof.Machine.execNbMatvec core place s
  | .nbEltwise core place => Sys2Proof.Machine.execNbEltwise core place s
  | .nbNormsum core place => Sys2Proof.Machine.execNbNormsum core place s
  | .nbRowprog core place => Sys2Proof.Machine.execNbRowprog core place s
  | .attn core place => Sys2Proof.Machine.execAttn core place s
  | .kvAppend core place => Sys2Proof.Machine.execKvAppend core place s
  | .prefixMatch core place => Sys2Proof.Machine.execPrefixMatch core place s
  | .memMap core place => Sys2Proof.Machine.execMemMap core place s
  | .memUnmap core place => Sys2Proof.Machine.execMemUnmap core place s
  | .memSetattr core place => Sys2Proof.Machine.execMemSetattr core place s
  | .memRepublish core place => Sys2Proof.Machine.execMemRepublish core place s
  | .memHarvest core place => Sys2Proof.Machine.execMemHarvest core place s
  | .memFill core place => Sys2Proof.Machine.execMemFill core place s
  | .memCopy core place => Sys2Proof.Machine.execMemCopy core place s
  | .memCompare core place => Sys2Proof.Machine.execMemCompare core place s
  | .memReduce core place => Sys2Proof.Machine.execMemReduce core place s
  | .ledgerAdmit => Sys2Proof.Machine.execAdmit s
  | .ledgerCancel => Sys2Proof.Machine.execLedgerCancel s
  | .ledgerQuery => Sys2Proof.Machine.execLedgerQuery s
  | .ledgerRelease => Sys2Proof.Machine.execLedgerRelease s
  | .liveryLoad => Sys2Proof.Machine.execLiveryLoad s
  | .liveryDrop => Sys2Proof.Machine.execLiveryDrop s
  | .wainMove core place => Sys2Proof.Machine.execWainMove core place s
  | .wainPushKv core place => Sys2Proof.Machine.execWainPushKv core place s
  | .tallyAlloc core => Sys2Proof.Machine.execTallyAlloc core s
  | .tallyFree core => Sys2Proof.Machine.execTallyFree core s
  | .tallyGroup core => Sys2Proof.Machine.execTallyGroup core s
  | .tallyReckon core => Sys2Proof.Machine.execTallyReckon core s
  | .tallyRead core => Sys2Proof.Machine.execTallyRead core s
  | .spanRead core place => Sys2Proof.Machine.execSpanRead core place s
  | .spanWrite core place => Sys2Proof.Machine.execSpanWrite core place s
  | .spanAtomic core place => Sys2Proof.Machine.execSpanAtomic core place s
  | .spanCopy core place => Sys2Proof.Machine.execSpanCopy core place s
  | .spanInval core place => Sys2Proof.Machine.execSpanInval core place s
  | .arrivalWait core place => Sys2Proof.Machine.execArrivalWait core place s
  | .arrivalCtl core place => Sys2Proof.Machine.execArrivalCtl core place s
  | .fldConnOpen core place => Sys2Proof.Machine.execFldConnOpen core place s
  | .fldConnClose core place => Sys2Proof.Machine.execFldConnClose core place s
  | .fldConnModify core place => Sys2Proof.Machine.execFldConnModify core place s
  | .fldWrite core place => Sys2Proof.Machine.execFldWrite core place s
  | .fldRead core place => Sys2Proof.Machine.execFldRead core place s
  | .embLookup core place => Sys2Proof.Machine.execEmbLookup core place s
  | .embPrefetch core place => Sys2Proof.Machine.execEmbPrefetch core place s
  | .embUpdate core place => Sys2Proof.Machine.execEmbUpdate core place s
  | .nop => Sys2Proof.Machine.execNop s
  | .barrier => Sys2Proof.Machine.execBarrier s
  | .vectorNop core => Sys2Proof.Machine.execVectorNop core s
  | .ld core reg fmt opnd imm => Sys2Proof.Machine.execLd core reg fmt opnd imm s
  | .st core reg fmt opnd imm => Sys2Proof.Machine.execSt core reg fmt opnd imm s
  | .add core dst src1 src2 => Sys2Proof.Machine.execAdd core dst src1 src2 s
  | .mul core dst src1 src2 => Sys2Proof.Machine.execMul core dst src1 src2 s
  | .fma core dst src1 src2 src3 => Sys2Proof.Machine.execFma core dst src1 src2 src3 s
  | .max core dst src1 src2 => Sys2Proof.Machine.execMax core dst src1 src2 s
  | .min core dst src1 src2 => Sys2Proof.Machine.execMin core dst src1 src2 s
  | .recip core dst src1 => Sys2Proof.Machine.execRecip core dst src1 s
  | .rsqrt core dst src1 => Sys2Proof.Machine.execRsqrt core dst src1 s
  | .sqrt core dst src1 => Sys2Proof.Machine.execSqrt core dst src1 s
  | .div core dst src1 src2 => Sys2Proof.Machine.execDiv core dst src1 src2 s
  | .exp core dst src1 => Sys2Proof.Machine.execExp core dst src1 s
  | .log core dst src1 => Sys2Proof.Machine.execLog core dst src1 s
  | .exp2 core dst src1 => Sys2Proof.Machine.execExp2 core dst src1 s
  | .log2 core dst src1 => Sys2Proof.Machine.execLog2 core dst src1 s
  | .rsum core dst src1 => Sys2Proof.Machine.execRsum core dst src1 s
  | .rmax core dst src1 => Sys2Proof.Machine.execRmax core dst src1 s
  | .sel core dst src1 src2 src3 => Sys2Proof.Machine.execSel core dst src1 src2 src3 s
  | .rot core dst src1 src2 src3 => Sys2Proof.Machine.execRot core dst src1 src2 src3 s
  | .topk core dst src1 imm => Sys2Proof.Machine.execTopk core dst src1 imm s
  | .bcast core dst imm => Sys2Proof.Machine.execBcast core dst imm s
  | .loop core imm => Sys2Proof.Machine.execLoop core imm s
  | .endLoop core => Sys2Proof.Machine.execEndLoop core s
  | .rowNop core place => Sys2Proof.Machine.execRowNop core place s
  | .rowCopy core place bankD rowD bankA rowA => Sys2Proof.Machine.execRowCopy core place bankD rowD bankA rowA s
  | .init0 core place bankD rowD => Sys2Proof.Machine.execInit0 core place bankD rowD s
  | .init1 core place bankD rowD => Sys2Proof.Machine.execInit1 core place bankD rowD s
  | .rowAnd core place bankD rowD bankA rowA bankB rowB => Sys2Proof.Machine.execRowAnd core place bankD rowD bankA rowA bankB rowB s
  | .rowOr core place bankD rowD bankA rowA bankB rowB => Sys2Proof.Machine.execRowOr core place bankD rowD bankA rowA bankB rowB s
  | .rowXor core place bankD rowD bankA rowA bankB rowB => Sys2Proof.Machine.execRowXor core place bankD rowD bankA rowA bankB rowB s
  | .rowNot core place bankD rowD bankA rowA => Sys2Proof.Machine.execRowNot core place bankD rowD bankA rowA s
  | .rowEnd core place => Sys2Proof.Machine.execRowEnd core place s
  | .commit core place => Sys2Proof.Machine.execCommit core place s
  | .killDone core place => Sys2Proof.Machine.execKillDone core place s
  | .cmdTimeout core place => Sys2Proof.Machine.execCmdTimeout core place s
  | .spinTimeout core place => Sys2Proof.Machine.execSpinTimeout core place s
  | .waitRelease core place => Sys2Proof.Machine.execWaitRelease core place s
  | .shadowCompare core differs tempA tempB mvA mvB => Sys2Proof.Machine.execShadowCompare core differs tempA tempB mvA mvB s
  | .shadowAbandon core => Sys2Proof.Machine.execShadowAbandon core s
  | .pinReady core place => Sys2Proof.Machine.execPinReady core place s
  | .activationRoom core place => Sys2Proof.Machine.execActivationRoom core place s
  | .refreshDue stack channel => Sys2Proof.Machine.execRefreshDue stack channel s
  | .nbThermal stack temp => Sys2Proof.Machine.execNbThermal stack temp s
  | .channelGroupRamp stack => Sys2Proof.Machine.execChannelGroupRamp stack s
  | .epochEnd => Sys2Proof.Machine.execEpochEnd s
  | .migrationChunk lodge page uncorrectable => Sys2Proof.Machine.execMigrationChunk lodge page uncorrectable s
  | .cutover lodge page => Sys2Proof.Machine.execCutover lodge page s
  | .frameZeroed tier frame => Sys2Proof.Machine.execFrameZeroed tier frame s
  | .dirRecallTimeout lodge line => Sys2Proof.Machine.execDirRecallTimeout lodge line s
  | .invalAckTimeout tag => Sys2Proof.Machine.execInvalAckTimeout tag s
  | .trayTimeout port device => Sys2Proof.Machine.execTrayTimeout port device s
  | .trayRemoval port device => Sys2Proof.Machine.execTrayRemoval port device s
  | .trayHotadd port device gib speed width => Sys2Proof.Machine.execTrayHotadd port device gib speed width s
  | .replicaScrub => Sys2Proof.Machine.execReplicaScrub s
  | .stepRecordWrite slot => Sys2Proof.Machine.execStepRecordWrite slot s
  | .prefill m => Sys2Proof.Machine.execPrefill m s
  | .prefillAck m => Sys2Proof.Machine.execPrefillAck m s
  | .prefillDone m => Sys2Proof.Machine.execPrefillDone m s
  | .prefillCancel m => Sys2Proof.Machine.execPrefillCancel m s
  | .pageOp m => Sys2Proof.Machine.execPageOp m s
  | .pageRsp m => Sys2Proof.Machine.execPageRsp m s
  | .groupCheck m => Sys2Proof.Machine.execGroupCheck m s
  | .groupCheckRsp m => Sys2Proof.Machine.execGroupCheckRsp m s
  | .groupStep m => Sys2Proof.Machine.execGroupStep m s
  | .groupNode m => Sys2Proof.Machine.execGroupNode m s
  | .groupStepAck m => Sys2Proof.Machine.execGroupStepAck m s
  | .groupMap m => Sys2Proof.Machine.execGroupMap m s
  | .groupMapAck m => Sys2Proof.Machine.execGroupMapAck m s
  | .groupCheckTimeout entry => Sys2Proof.Machine.execGroupCheckTimeout entry s
  | .groupTimeout entry => Sys2Proof.Machine.execGroupTimeout entry s
  | .groupMapTimeout entry => Sys2Proof.Machine.execGroupMapTimeout entry s
  | .prefillTimeout entry => Sys2Proof.Machine.execPrefillTimeout entry s
  | .attReq m => Sys2Proof.Machine.execAttReq m s
  | .attRsp m => Sys2Proof.Machine.execAttRsp m s
  | .attTimeout tag => Sys2Proof.Machine.execAttTimeout tag s
  | .wainBlock m => Sys2Proof.Machine.execWainBlock m s
  | .blockAck m => Sys2Proof.Machine.execBlockAck m s
  | .blockNak m => Sys2Proof.Machine.execBlockNak m s
  | .blockTimeout stream => Sys2Proof.Machine.execBlockTimeout stream s
  | .streamPlace stream => Sys2Proof.Machine.execStreamPlace stream s
  | .handoverReq m => Sys2Proof.Machine.execHandoverReq m s
  | .fence m => Sys2Proof.Machine.execFence m s
  | .fenceAck m => Sys2Proof.Machine.execFenceAck m s
  | .ownershipChange device handle => Sys2Proof.Machine.execOwnershipChange device handle s
  | .fenceTimeout device handle => Sys2Proof.Machine.execFenceTimeout device handle s
  | .handoverRsp m => Sys2Proof.Machine.execHandoverRsp m s
  | .handoverTimeout handle => Sys2Proof.Machine.execHandoverTimeout handle s
  | .layerAck m => Sys2Proof.Machine.execLayerAck m s
  | .pull m => Sys2Proof.Machine.execPull m s
  | .embReq m => Sys2Proof.Machine.execEmbReq m s
  | .embRsp m => Sys2Proof.Machine.execEmbRsp m s
  | .embReplyTimeout tag => Sys2Proof.Machine.execEmbReplyTimeout tag s
  | .embUpd m => Sys2Proof.Machine.execEmbUpd m s
  | .rowFlip => Sys2Proof.Machine.execRowFlip s
  | .embUpdRsp m => Sys2Proof.Machine.execEmbUpdRsp m s
  | .spanFwd port m => Sys2Proof.Machine.execSpanFwd port m s
  | .spRead m => Sys2Proof.Machine.execSpRead m s
  | .spReadRsp m => Sys2Proof.Machine.execSpReadRsp m s
  | .spWrite m => Sys2Proof.Machine.execSpWrite m s
  | .spAck m => Sys2Proof.Machine.execSpAck m s
  | .spAtomic m => Sys2Proof.Machine.execSpAtomic m s
  | .spCopy m => Sys2Proof.Machine.execSpCopy m s
  | .spInval m => Sys2Proof.Machine.execSpInval m s
  | .spRepublish m => Sys2Proof.Machine.execSpRepublish m s
  | .republishTimeout tag => Sys2Proof.Machine.execRepublishTimeout tag s
  | .spanTimeout tag => Sys2Proof.Machine.execSpanTimeout tag s
  | .masterBeat m => Sys2Proof.Machine.execMasterBeat m s
  | .beatTimer => Sys2Proof.Machine.execBeatTimer s
  | .beatLoss => Sys2Proof.Machine.execBeatLoss s
  | .leaseExpiry => Sys2Proof.Machine.execLeaseExpiry s
  | .leaseGrant until_ns => Sys2Proof.Machine.execLeaseGrant until_ns s
  | .leaseRevoke => Sys2Proof.Machine.execLeaseRevoke s
  | .rejoin => Sys2Proof.Machine.execRejoin s
  | .deviceIdAssign device => Sys2Proof.Machine.execDeviceIdAssign device s
  | .hello port versions helloSeen device peerPort bulkBuf exprBuf replayMax nextSeq => Sys2Proof.Machine.execHello port versions helloSeen device peerPort bulkBuf exprBuf replayMax nextSeq s
  | .replayStart port nextSeq => Sys2Proof.Machine.execReplayStart port nextSeq s
  | .ack port seq bulk expr => Sys2Proof.Machine.execAck port seq bulk expr s
  | .nak port seq bulk expr => Sys2Proof.Machine.execNak port seq bulk expr s
  | .badFlit port kind => Sys2Proof.Machine.execBadFlit port kind s
  | .ackTimer port => Sys2Proof.Machine.execAckTimer port s
  | .replayTimeout port => Sys2Proof.Machine.execReplayTimeout port s
  | .nakRetry port => Sys2Proof.Machine.execNakRetry port s
  | .time port tSend hops valid => Sys2Proof.Machine.execTime port tSend hops valid s
  | .timeSend => Sys2Proof.Machine.execTimeSend s
  | .delayReq port t1 => Sys2Proof.Machine.execDelayReq port t1 s
  | .delayRsp port t1 t2 t3 => Sys2Proof.Machine.execDelayRsp port t1 t2 t3 s
  | .delayMeasure port => Sys2Proof.Machine.execDelayMeasure port s
  | .spanTimeLost => Sys2Proof.Machine.execSpanTimeLost s
  | .retrainReq port cause => Sys2Proof.Machine.execRetrainReq port cause s
  | .retrain port => Sys2Proof.Machine.execRetrain port s
  | .lockLoss port => Sys2Proof.Machine.execLockLoss port s
  | .uncorrLimit port => Sys2Proof.Machine.execUncorrLimit port s
  | .retrainPhaseLimit port => Sys2Proof.Machine.execRetrainPhaseLimit port s
  | .trainingPhaseDone port => Sys2Proof.Machine.execTrainingPhaseDone port s
  | .trainingPhaseLimit port => Sys2Proof.Machine.execTrainingPhaseLimit port s
  | .trainingRetry port => Sys2Proof.Machine.execTrainingRetry port s
  | .unplug port => Sys2Proof.Machine.execUnplug port s
  | .fieldWrite port p => Sys2Proof.Machine.execFieldWrite port p s
  | .readReq port p => Sys2Proof.Machine.execReadReq port p s
  | .readRsp port p => Sys2Proof.Machine.execReadRsp port p s
  | .fieldAck port p => Sys2Proof.Machine.execFieldAck port p s
  | .msg port p => Sys2Proof.Machine.execMsg port p s
  | .rxDrop port => Sys2Proof.Machine.execRxDrop port s
  | .neighbourSolicitation port mac ip => Sys2Proof.Machine.execNeighbourSolicitation port mac ip s
  | .retryTimeout conn => Sys2Proof.Machine.execRetryTimeout conn s
  | .packetBoundary port => Sys2Proof.Machine.execPacketBoundary port s
  | .wheelSlot slot => Sys2Proof.Machine.execWheelSlot slot s
  | .gateEntry port => Sys2Proof.Machine.execGateEntry port s
  | .change port => Sys2Proof.Machine.execChange port s
  | .gclTakeover port => Sys2Proof.Machine.execGclTakeover port s
  | .ptpSync port domain t1 => Sys2Proof.Machine.execPtpSync port domain t1 s
  | .ptpLost => Sys2Proof.Machine.execPtpLost s
  | .refill => Sys2Proof.Machine.execRefill s
  | .pathGrant path requests => Sys2Proof.Machine.execPathGrant path requests s
  | .wakeWrite page offset size => Sys2Proof.Machine.execWakeWrite page offset size s
  | .doorbellRead ring hostIdx => Sys2Proof.Machine.execDoorbellRead ring hostIdx s
  | .descriptorFetch ring words error => Sys2Proof.Machine.execDescriptorFetch ring words error s
  | .poll ring hostIdx => Sys2Proof.Machine.execPoll ring hostIdx s
  | .cqRoomPoll ring hostIdx => Sys2Proof.Machine.execCqRoomPoll ring hostIdx s
  | .hostReadTimeout ring => Sys2Proof.Machine.execHostReadTimeout ring s
  | .hostResume => Sys2Proof.Machine.execHostResume s
  | .interruptHold ring => Sys2Proof.Machine.execInterruptHold ring s
  | .ringEnable ring => Sys2Proof.Machine.execRingEnable ring s
  | .ringDisable ring => Sys2Proof.Machine.execRingDisable ring s
  | .flr => Sys2Proof.Machine.execFlr s
  | .pcieReset => Sys2Proof.Machine.execPcieReset s
  | .create => Sys2Proof.Machine.execCreate s
  | .destroy lodge => Sys2Proof.Machine.execDestroy lodge s
  | .bind lodge tenant => Sys2Proof.Machine.execBind lodge tenant s
  | .unbind lodge tenant => Sys2Proof.Machine.execUnbind lodge tenant s
  | .lodgeReset lodge => Sys2Proof.Machine.execLodgeReset lodge s
  | .teardown lodge => Sys2Proof.Machine.execTeardown lodge s
  | .halted lodge => Sys2Proof.Machine.execHalted lodge s
  | .clientDump lodge clear free => Sys2Proof.Machine.execClientDump lodge clear free s
  | .drain on => Sys2Proof.Machine.execDrain on s
  | .persona persona => Sys2Proof.Machine.execPersona persona s
  | .personaDone => Sys2Proof.Machine.execPersonaDone s
  | .tallyDump all lodge => Sys2Proof.Machine.execTallyDump all lodge s
  | .tallyDumpDone => Sys2Proof.Machine.execTallyDumpDone s
  | .hltVerify => Sys2Proof.Machine.execHltVerify s
  | .verifyDone => Sys2Proof.Machine.execVerifyDone s
  | .hltResume slots => Sys2Proof.Machine.execHltResume slots s
  | .shrink slot member => Sys2Proof.Machine.execShrink slot member s
  | .coreMap core phys => Sys2Proof.Machine.execCoreMap core phys s
  | .logEn on => Sys2Proof.Machine.execLogEn on s
  | .seed core seed => Sys2Proof.Machine.execSeed core seed s
  | .release core => Sys2Proof.Machine.execRelease core s
  | .scoreUpdate => Sys2Proof.Machine.execScoreUpdate s
  | .tokenRefill => Sys2Proof.Machine.execTokenRefill s
  | .alarmRecord consumed => Sys2Proof.Machine.execAlarmRecord consumed s
  | .porterSummary => Sys2Proof.Machine.execPorterSummary s
  | .deviceFault resource index => Sys2Proof.Machine.execDeviceFault resource index s
  | .coreSelfTest core pass => Sys2Proof.Machine.execCoreSelfTest core pass s
  | .powerUp => Sys2Proof.Machine.execPowerUp s
  | .measuredBoot => Sys2Proof.Machine.execMeasuredBoot s
  | .t2Trained channels width => Sys2Proof.Machine.execT2Trained channels width s
  | .t1Trained pass => Sys2Proof.Machine.execT1Trained pass s
  | .clockChange speed => Sys2Proof.Machine.execClockChange speed s
  | .rampStep => Sys2Proof.Machine.execRampStep s
  | .powerLoop avg peak mv ma mj below floorHeld => Sys2Proof.Machine.execPowerLoop avg peak mv ma mj below floorHeld s
  | .coreGate core => Sys2Proof.Machine.execCoreGate core s
  | .capW watts => Sys2Proof.Machine.execCapW watts s
  | .stopAt v => Sys2Proof.Machine.execStopAt v s
  | .rveReset value => Sys2Proof.Machine.execRveReset value s
  | .encrypt lodge on => Sys2Proof.Machine.execEncrypt lodge on s
  | .keyInstall lodge => Sys2Proof.Machine.execKeyInstall lodge s
  | .mrstN low => Sys2Proof.Machine.execMrstN low s
  | .watchdog => Sys2Proof.Machine.execWatchdog s
  | .refclkLoss => Sys2Proof.Machine.execRefclkLoss s
  | .refclkRestored => Sys2Proof.Machine.execRefclkRestored s
  | .undervoltage => Sys2Proof.Machine.execUndervoltage s
  | .overvoltage => Sys2Proof.Machine.execOvervoltage s
  | .overcurrent => Sys2Proof.Machine.execOvercurrent s
  | .reverseCurrent => Sys2Proof.Machine.execReverseCurrent s
  | .removal => Sys2Proof.Machine.execRemoval s
  | .insertion => Sys2Proof.Machine.execInsertion s
  | .throttle die temp => Sys2Proof.Machine.execThrottle die temp s
  | .thermal sensor temp => Sys2Proof.Machine.execThermal sensor temp s
  | .thermalTrip sensor temp => Sys2Proof.Machine.execThermalTrip sensor temp s
  | .pps highNs => Sys2Proof.Machine.execPps highNs s
  | .fetch t tag arg count => Sys2Proof.Machine.execFetch t tag arg count s
  | .read t tag arg count => Sys2Proof.Machine.execRead t tag arg count s
  | .write t tag arg count data => Sys2Proof.Machine.execWrite t tag arg count data s
  | .stage t tag arg count data => Sys2Proof.Machine.execStage t tag arg count data s
  | .activate t tag arg count => Sys2Proof.Machine.execActivate t tag arg count s
  | .power t tag arg count => Sys2Proof.Machine.execPower t tag arg count s
  | .reset t tag arg count => Sys2Proof.Machine.execReset t tag arg count s
  | .events t tag arg count => Sys2Proof.Machine.execEvents t tag arg count s
  | .frameCrcError t tag => Sys2Proof.Machine.execFrameCrcError t tag s
  | .frameDiscard edges len => Sys2Proof.Machine.execFrameDiscard edges len s
  | .uartGap => Sys2Proof.Machine.execUartGap s
  | .blockRead => Sys2Proof.Machine.execBlockRead s
  | .registerWrite p offset value => Sys2Proof.Machine.execRegisterWrite p offset value s
  | .readClear p offset => Sys2Proof.Machine.execReadClear p offset s
  | .lowHalfRead p offset => Sys2Proof.Machine.execLowHalfRead p offset s
  | .bar0BadAccess write offset size => Sys2Proof.Machine.execBar0BadAccess write offset size s
  | .flitSlot port => Sys2Proof.Machine.execFlitSlot port s
  | .dataFlit port express first last data corrCw corrSym => Sys2Proof.Machine.execDataFlit port express first last data corrCw corrSym s
  | .lodCmdDone => Sys2Proof.Machine.execLodCmdDone s
  | .d3hot on => Sys2Proof.Machine.execD3hot on s
  | .stackHot stack temp => Sys2Proof.Machine.execStackHot stack temp s
  | .t2Hot temp => Sys2Proof.Machine.execT2Hot temp s
  | .jtagInstruction code => Sys2Proof.Machine.execJtagInstruction code s
  | .wrongPec => Sys2Proof.Machine.execWrongPec s
  | .framingError => Sys2Proof.Machine.execFramingError s
  | .ptpDelayResp port domain t4 => Sys2Proof.Machine.execPtpDelayResp port domain t4 s

end Sys2Proof.Machine
end

