-- ==== Sys2Proof/Safety.lean ====
section
/-!
DEFINITION. What counts as a safe run: every step answers a next state, and every memory keeps its canonical form.
-/

namespace Sys2Proof.Machine

/-- The canonical form of a memory: addresses strictly rising, no listed byte equal to what an unlisted address reads as, zero (R172). -/
def Memory.wf (m : List Host.Cell) : Bool := Tbl.wf (0 : Byte) m

/-- The four memories that the block writes keep their canonical form: lodge memory (R170), the core stores (R81), the tile scratchpads (R71)
and what the device has written in host memory (R332); the registers and the cores keep theirs, in which a value written is the value read. -/
structure State.Inv (s : State) : Prop where
  /-- lodge memory -/
  bytes : Memory.wf s.mem.bytes = true
  /-- core stores -/
  store : Memory.wf s.coreStore = true
  /-- scratchpads -/
  pad : Memory.wf s.pad.bytes = true
  /-- host memory -/
  host : Memory.wf s.hif.mem = true
  /-- registers -/
  regs : Tbl.rising s.regs = true
  /-- cores -/
  cores : Tbl.rising s.cores = true

/-- The outcome is a next state: no fault and no refusal. -/
def Goes (o : Host.Outcome State Fault Refusal) : Prop := ∃ t, o = .next t

/-- What every operation of the block owes: it leaves the queue of waiting commands, the ordering variant and the DEBUG fuse alone and
keeps the canonical forms. -/
structure Keeps (s t : State) : Prop where
  /-- the queue of waiting commands is untouched -/
  pending : t.pending = s.pending
  /-- the ordering variant is fixed at manufacture (R5) -/
  variant : t.variant = s.variant
  /-- so is the DEBUG fuse (R484) -/
  debug : t.tlg.debug = s.tlg.debug
  /-- canonical memories stay canonical -/
  inv : s.Inv → t.Inv

/-! ## Terms the claims use -/

/-- A vector unit between two instructions: what the last one stored and read has reached its command, no fault stands, and its
registers are a table whose keys rise. -/
structure VecUnit.Settled (v : VecUnit) : Prop where
  /-- registers -/
  regs : Tbl.rising v.regs = true
  /-- no store is left -/
  stores : v.stores = []
  /-- no read is left -/
  loads : v.loads = []
  /-- no invalid code is left -/
  codes : v.badTernary = 0
  /-- no fault -/
  fault : v.fault = 0

/-- Nothing differs but the vector unit of one core and the flags of the command in its compute slot; the count of invalid codes is
written with what it held. -/
structure VecOnly (s t : State) (core : Nat) : Prop where
  /-- everything but cores and registers -/
  rest : t = { s with cores := t.cores, regs := t.regs }
  /-- every register but the count of invalid codes -/
  regs : ∀ d k, k ≠ Reg.cmpFmtExcCount.key core 0 → Tbl.get d k t.regs = Tbl.get d k s.regs
  /-- that count too, within its width -/
  count : s.rd Reg.cmpFmtExcCount core < 2 ^ 32 → t.rd Reg.cmpFmtExcCount core = s.rd Reg.cmpFmtExcCount core
  /-- other cores -/
  cores : ∀ c, c ≠ core → t.core c = s.core c
  /-- what else the core holds -/
  here : t.core core = { s.core core with vec := (t.core core).vec, places := (t.core core).places }
  /-- its other places -/
  places : ∀ p, p ≠ 0 → t.job core p = s.job core p
  /-- the command collects the flags (R63) -/
  job : t.job core 0 = (s.job core 0).map fun j => { j with flags := j.flags ||| (t.core core).vec.flags }

/-- Vector instruction `i` completes on a core: register `dst` holds the lanes of `x`, the flags of `x` are collected, the next
instruction follows, and every other register and everything else stays. -/
def VecPuts (s : State) (core : Fin 160) (i : Instr) (dst : Fin 32) (x : Fl (List F32)) : Prop :=
  ∃ t, exec i s = .next t ∧ VecOnly s t core ∧ (t.core core).vec.reg dst = x.val ∧
    (∀ r, r ≠ dst.val → (t.core core).vec.reg r = (s.core core).vec.reg r) ∧
    (t.core core).vec.flags = (s.core core).vec.flags ||| x.fl ∧ (t.core core).vec.pc = (s.core core).vec.pc + 1 ∧
    (t.core core).vec.loops = (s.core core).vec.loops

/-- The command `j` runs in place `p` of core `c`, with this class and opcode, its wait met and no answer awaited (R89). -/
structure Running (s : State) (c p klass op : Nat) (j : Job) : Prop where
  /-- it stands there -/
  here : s.job c p = some j
  /-- in RUN -/
  st : j.st = .run
  /-- it awaits no answer -/
  waiting : j.waiting = []
  /-- no status has been noted for it -/
  status : j.status = 0
  /-- CLASS -/
  klass : j.cmd.klass = klass
  /-- OPCODE -/
  op : j.cmd.op = op

/-- The work of a command ends: exec answers the slot choice (R285) after a state in which the job in place `p` of core `c` is in FENCE
with these outputs (R81, R89), every other place of every core is as it was, no byte of a core store or of host memory has changed,
and no byte of lodge memory outside the DIRECT ranges, which are undefined until the commit point (R82). -/
def Fences (s : State) (i : Instr) (c p : Nat) (j : Job) (stores : List Store) (flags : Flags) (result : Nat) : Prop :=
  ∃ t : State, exec i s = .next t.choices ∧
    t.job c p = some { j with st := .fence, since := s.now, direct := directOf stores, staged := s.stagedOf c j.cmd.lodge stores,
                              flags := flags, result := result } ∧
    (∀ d q, d ≠ c ∨ q ≠ p → t.job d q = s.job d q) ∧ t.coreStore = s.coreStore ∧ t.hif = s.hif ∧
    (∀ k, (∀ w ∈ directOf stores, k < memKey j.cmd.lodge w.1 ∨ memKey j.cmd.lodge w.1 + w.2.length ≤ k) →
      Tbl.get 0 k t.mem.bytes = Tbl.get 0 k s.mem.bytes)

end Sys2Proof.Machine
end

