-- ==== Sys2Proof/Certificates/Slice0/Obligations.lean ====
section
/-!
DEFINITION. The statements for the provers: what each family of commands does, what it leaves, and the invariant of every step.
-/

open Sys2Proof Sys2Proof.Machine

/-! ## The whole block -/

/-- A step takes the command at the front of the queue and is exec of it on the state with the queue's rest; with no command waiting, 1 ns
passes (a choice of this model: log 1). -/
def Obligations.StepRunsFront : Prop :=
  (∀ (s : State) (c : Instr) (r : List Instr), s.pending = c :: r → step s = exec c { s with pending := r }) ∧
    (∀ s : State, s.pending = [] → step s = .next s.tick)

/-- Every command is answered by a next state, and none touches the queue. -/
def Obligations.CommandsAnswer : Prop :=
  ∀ (c : Instr) (s : State), ∃ t, exec c s = .next t ∧ t.pending = s.pending

/-- R5, R484: from every state whose memories, registers and cores are in canonical form, whatever step follows, they are so again; the
queue has lost its front command and nothing else, and the variant and the DEBUG fuse are as before. -/
def Obligations.EveryStepKeepsInv : Prop :=
  ∀ s t : State, s.Inv → step s = .next t → t.Inv ∧ t.pending = s.pending.tail ∧ t.variant = s.variant ∧ t.tlg.debug = s.tlg.debug

/-- R14, R340, R439, R457, R461: what reset leaves: stage 0, no command waiting, empty queues and memories, logical cores on their own
physical cores, lodge vectors 1 + l, the cap at HIGHEST; the invariant holds. -/
def Obligations.ResetState : Prop :=
  State.reset.Inv ∧ State.reset.pending = [] ∧ State.reset.stage = 0 ∧ State.reset.now = 0 ∧
    (∀ f i j, State.reset.rd f i j = f.reset i) ∧
    (∀ c : Fin 160, State.reset.rd Reg.hltCoreMapPhys c = c) ∧ (∀ l : Fin 16, State.reset.rd Reg.hifLodgeVecVector l = 1 + l) ∧
    State.reset.rd Reg.rveCapCapW = State.reset.highest ∧ (∀ c p, State.reset.job c p = none) ∧
    (∀ l : Fin 16, State.reset.lodge l = 0) ∧ (∀ l a n, (State.reset.peek l a n).all (· == 0) = true)

/-- R10, R13: a register field reads as last written, cut to its width; a counter that saturates stops at its maximum, a free-running one
wraps; no other field changes. R10: a plain write touches only the fields of its register: every other register field, and everything that
is no register, stays. -/
def Obligations.RegisterFields : Prop :=
  (∀ (s : State) (f g : Fld) (v i j a b : Nat), s.Inv →
     (s.wr f v i j).rd f i j = v % 2 ^ f.width ∧
     (s.bump f v i j).rd f i j = min (2 ^ f.width - 1) (s.rd f i j + v) ∧
     (s.count f v i j).rd f i j = (s.rd f i j + v) % 2 ^ f.width ∧
     (g.key a b ≠ f.key i j → (s.wr f v i j).rd g a b = s.rd g a b ∧ (s.bump f v i j).rd g a b = s.rd g a b ∧
       (s.count f v i j).rd g a b = s.rd g a b)) ∧
  (∀ (s : State) (off v : Nat), s.Inv →
     s.store off v = { s with regs := (s.store off v).regs } ∧
     ∀ d k, (∀ e ∈ regFields off, k ≠ e.1.key e.2.1 e.2.2) → Tbl.get d k (s.store off v).regs = Tbl.get d k s.regs)

/-- R170, R186: bytes written at a lodge address are what a read there returns, and every other byte of every lodge stays. -/
def Obligations.LodgeMemory : Prop :=
  ∀ (s : State) (l a : Nat) (bs : List Byte), s.Inv →
    (s.poke l a bs).peek l a bs.length = bs ∧ (s.poke l a bs).Inv ∧
    (∀ m b, memKey m b < memKey l a ∨ memKey l a + bs.length ≤ memKey m b → (s.poke l a bs).peek m b 1 = s.peek m b 1) ∧
    (s.poke l a bs).coreStore = s.coreStore ∧ (s.poke l a bs).regs = s.regs ∧ (s.poke l a bs).hif = s.hif

/-- R504: a grant of the smooth weighted round-robin adds each requester's weight to its count, grants the one with the largest count, the
lower index on a tie, and takes the sum of the weights from the winner; who does not request neither gains nor loses. The unweighted pick is
the first requester at or after the pointer, else the first. -/
def Obligations.WeightedGrants : Prop :=
  ∀ (cur : Tbl Int) (base ptr : Nat) (weight : Nat → Nat) (reqs : List Nat), Tbl.rising cur = true → reqs.Pairwise (· < ·) → reqs ≠ [] →
    let g := wrrGrant cur base weight reqs
    let up (i : Nat) : Int := Tbl.get 0 (base + i) cur + weight i
    (∃ w ∈ reqs, g.2 = some w ∧ (∀ i ∈ reqs, up i < up w ∨ (up i = up w ∧ w ≤ i)) ∧
      (∀ i ∈ reqs, Tbl.get 0 (base + i) g.1 = up i - (if i = w then ((reqs.map weight).sum : Int) else 0))) ∧
    (∀ k, (∀ i ∈ reqs, k ≠ base + i) → Tbl.get 0 k g.1 = Tbl.get 0 k cur) ∧
    (∃ w ∈ reqs, rrPick ptr reqs = some w ∧
      ((ptr ≤ w ∧ ∀ i ∈ reqs, ptr ≤ i → w ≤ i) ∨ ((∀ i ∈ reqs, i < ptr) ∧ ∀ i ∈ reqs, w ≤ i)))

/-- R52: MAX and MIN of the vector unit, and RMAX across a row: the canonical NaN with a NaN operand, +0 above −0, a subnormal operand read
as the zero of its sign with FLUSHED set, and never a subnormal result. -/
def Obligations.MinMaxRules : Prop :=
  let nan (x : F32) := 0x7F800000 < x.toNat % 2 ^ 31
  let sub (x : F32) := 0 < x.toNat % 2 ^ 31 ∧ x.toNat % 2 ^ 31 < 2 ^ 23
  let zero (x : F32) : F32 := x &&& 0x80000000#32
  (∀ x y : F32, nan x ∨ nan y → (max32 x y).val = 0x7FC00000#32 ∧ (min32 x y).val = 0x7FC00000#32) ∧
  (max32 0#32 0x80000000#32).val = 0#32 ∧ (max32 0x80000000#32 0#32).val = 0#32 ∧
  (min32 0#32 0x80000000#32).val = 0x80000000#32 ∧ (min32 0x80000000#32 0#32).val = 0x80000000#32 ∧
  (∀ x y : F32, (sub x → max32 x y = (max32 (zero x) y).mark flagFlushed ∧ min32 x y = (min32 (zero x) y).mark flagFlushed) ∧
    (sub y → max32 x y = (max32 x (zero y)).mark flagFlushed ∧ min32 x y = (min32 x (zero y)).mark flagFlushed)) ∧
  (∀ x y : F32, ¬ sub (max32 x y).val ∧ ¬ sub (min32 x y).val) ∧
  (∀ xs : List F32, xs ≠ [] → (∃ x ∈ xs, nan x) → (rmax xs).val = 0x7FC00000#32) ∧
  (∀ (xs : List F32), (∃ x ∈ xs, sub x) → (rmax xs).fl &&& flagFlushed = flagFlushed) ∧
  (∀ xs : List F32, ¬ sub (rmax xs).val) ∧ (rmax [0#32, 0x80000000#32]).val = 0#32 ∧ (rmax [0x80000000#32, 0#32]).val = 0#32

/-- R214: the drafts accepted are the largest number a with every draft up to a equal to the token selected before it. -/
def Obligations.AcceptedDrafts : Prop :=
  ∀ drafts tokens : List Nat,
    let a := acceptedOf drafts tokens
    a ≤ drafts.length ∧ a ≤ tokens.length ∧ (∀ i, i < a → drafts[i]? = tokens[i]?) ∧
      ∀ b, b ≤ drafts.length → b ≤ tokens.length → (∀ i, i < b → drafts[i]? = tokens[i]?) → b ≤ a

/-- R436: an update ages the score of each part by its part over two to the power DECAY_LOG2, rounded up, adds the weighted increases of its
three counters since the last update, and saturates. -/
def Obligations.ScoresAge : Prop :=
  ∀ (s t : State) (i : Nat), s.Inv → i < 212 → exec .scoreUpdate s = .next t →
    let k := partKind i
    let v := s.rd Reg.hltScoreValue i
    let up (c : Nat) (f : Fld) := (s.rd f i + 2 ^ 32 - Tbl.get 0 (4 * i + c) s.hlt.base) % 2 ^ 32
    t.rd Reg.hltScoreValue i = min (2 ^ 32 - 1) (v - ceilDiv v (2 ^ s.rd Reg.hltKwDecayLog2 k) +
      s.rd Reg.hltKwWCorr k * up 0 Reg.hltCorrValue + s.rd Reg.hltKwWRetry k * up 1 Reg.hltRetryValue +
      s.rd Reg.hltKwWRetrain k * up 2 Reg.hltRetrainValue)

/-- R455, R453: what a module reset keeps: RVE_CAUSE but for its own cause, CLK_REF_LOSS, the host's memory, the flash banks, the fuses, the
input switch and the queue of commands. The device timestamp starts again at 0, the stage falls to 0, and every lodge, core, job, page and
connection is as at reset. -/
def Obligations.ModuleResetKeeps : Prop :=
  ∀ (s : State), s.powered = true →
    ∃ t, exec .watchdog s = .next t ∧ t.rd Reg.rveCauseLastReset = 4 ∧
      t.rd Reg.rveCauseLastOff = s.rd Reg.rveCauseLastOff % 8 ∧ t.rd Reg.rveCauseTripSensor = s.rd Reg.rveCauseTripSensor % 16 ∧
      t.rd Reg.clkRefLossCount = s.rd Reg.clkRefLossCount % 2 ^ Reg.clkRefLossCount.width ∧ t.rd Reg.rveCapCapW = s.highest ∧
      t.stage = 0 ∧ t.now = 0 ∧ t.pending = s.pending ∧ t.variant = s.variant ∧ t.hif.mem = s.hif.mem ∧ t.prt.bankA = s.prt.bankA ∧
      t.prt.bankB = s.prt.bankB ∧ t.prt.next = s.prt.next ∧ t.pwr.rails = s.pwr.rails ∧ t.pwr.switch = s.pwr.switch ∧
      t.tlg.debug = s.tlg.debug ∧ t.tlg.rollback = s.tlg.rollback ∧ t.mem = State.reset.mem ∧ t.cores = [] ∧ t.coreStore = [] ∧
      t.lod = State.reset.lod ∧ t.ldg = State.reset.ldg ∧ t.fld = State.reset.fld ∧ t.spn = State.reset.spn ∧ t.tallies = [] ∧
      ∀ d k, (∀ f ∈ [Reg.rveCauseLastReset, Reg.rveCauseLastOff, Reg.rveCauseTripSensor, Reg.clkRefLossCount, Reg.rveCapCapW, Reg.clkStatusRefOk,
        Reg.clkStatusSysLock], k ≠ f.key 0 0) → Tbl.get d k t.regs = d

/-- R473, R474: a reply frame is whole: its CRC-8 over all its bytes, the check byte among them, is 0, its length is 4 more than its data,
and its COUNT is the number of data words. -/
def Obligations.ReplyFramesCheck : Prop :=
  ∀ (tag status : Nat) (data : List Byte),
    crc8 (replyFrame tag status data) = 0 ∧ (replyFrame tag status data).length = data.length + 4 ∧
      (data.length < 1024 → ((replyFrame tag status data).getD 2 0).toNat = data.length / 4)

/-- R456: the RVE_RESET sequence: the first value always starts it afresh, the second within 1 ms of it resets the module, and any other
write cancels it, is discarded and counted; the registers take it from either port. -/
def Obligations.ResetSequence : Prop :=
  ∀ (s : State) (v : Word32),
    let fresh : State := { s with pwr := { s.pwr with key := some s.now } }
    let off : State := { s with pwr := { s.pwr with key := none } }
    let open_ := ∃ t, s.pwr.key = some t ∧ s.now - t ≤ 1000000
    (v = 0x5EED0001#32 → exec (.rveReset v) s = .next fresh) ∧
    (v = 0x5EED0002#32 → open_ → exec (.rveReset v) s = .next (s.moduleReset 3)) ∧
    (v ≠ 0x5EED0001#32 → ¬ (v = 0x5EED0002#32 ∧ open_) → exec (.rveReset v) s = .next off.discard) ∧
    (s.Inv → off.discard.rd Reg.hifRegErrDiscard = min (2 ^ Reg.hifRegErrDiscard.width - 1) (s.rd Reg.hifRegErrDiscard + 1)) ∧
    (∀ p, s.reached p = true → exec (.registerWrite p 0x00200044 v) s = .next (s.resetKey v.toNat).choices) ∧
    exec (.rveReset v) s = .next (s.resetKey v.toNat)

/-- R461: the cap: a value from 350 W to HIGHEST in steps of 25 W is taken; another leaves the cap, sets CAP_REFUSED and is counted; of two
writes the later, Porter's, holds; a module reset leaves HIGHEST. -/
def Obligations.CapWrites : Prop :=
  ∀ (s : State) (w : Nat), s.Inv →
    let highest := if s.variant = 1 then 450 else 700
    let good (x : Nat) := 350 ≤ x ∧ x ≤ highest ∧ x % 25 = 0
    s.highest = highest ∧
    (good w → ∃ t, exec (.capW w) s = .next t ∧ t.rd Reg.rveCapCapW = w ∧
      ∀ x, good x → ∃ u, exec (.capW x) t = .next u ∧ u.rd Reg.rveCapCapW = x) ∧
    (¬ good w → ∃ t, exec (.capW w) s = .next t ∧ t.rd Reg.rveCapCapW = s.rd Reg.rveCapCapW ∧ bitAt 0 (t.rd Reg.rveErrBits) = true ∧
      t.rd Reg.hifRegErrDiscard = min (2 ^ Reg.hifRegErrDiscard.width - 1) (s.rd Reg.hifRegErrDiscard + 1)) ∧
    (s.moduleReset 4).rd Reg.rveCapCapW = highest ∧ State.reset.rd Reg.rveCapCapW = State.reset.highest

/-- R485: an edge of PPS_IN that stays high for 100 ns, 500 ms after the last one accepted, latches the device timestamp, span time and
field time and adds 1 to PPS_CNT; any other adds 1 to PPS_REJECT; no clock changes. -/
def Obligations.PpsEdges : Prop :=
  ∀ (s : State) (high : Nat), s.Inv →
    let good := 100 ≤ high ∧ ∀ p, s.prt.pps = some p → 500000000 ≤ s.now - p
    ∃ t, exec (.pps high) s = .next t ∧ t.now = s.now ∧ t.spanTime = s.spanTime ∧ t.fieldTime = s.fieldTime ∧
      t = { s with regs := t.regs, prt := t.prt } ∧
      (good → t.rd Reg.prtPpsTsNs = s.now % 2 ^ 64 ∧ t.rd Reg.prtPpsStNs = s.spanTime ∧ t.rd Reg.prtPpsFtNs = s.fieldTime ∧
        t.rd Reg.prtPpsCntCount = (s.rd Reg.prtPpsCntCount + 1) % 2 ^ 32 ∧ t.rd Reg.prtPpsRejectCount = s.rd Reg.prtPpsRejectCount ∧
        t.prt = { s.prt with pps := some s.now }) ∧
      (¬ good → t = s.bump Reg.prtPpsRejectCount ∧
        t.rd Reg.prtPpsRejectCount = min (2 ^ 32 - 1) (s.rd Reg.prtPpsRejectCount + 1))

/-! ## The vector unit and the compute commands (R77 to R88) -/

/-- R78: ADD, MUL, FMA, MAX, MIN and DIV, lane by lane, with the frame. R78: RECIP, RSQRT, SQRT, EXP, LOG, EXP2 and LOG2, lane by lane, with
the frame. -/
def Obligations.VectorLaneOps : Prop :=
  (∀ (s : State) (core : Fin 160) (dst a b c : Fin 32), s.Inv → (s.core core).vec.Settled →
     let v := (s.core core).vec
     VecPuts s core (.add core dst a b) dst (Fl.zipList add32 (v.lanes a) (v.lanes b)) ∧
     VecPuts s core (.mul core dst a b) dst (Fl.zipList mul32 (v.lanes a) (v.lanes b)) ∧
     VecPuts s core (.fma core dst a b c) dst (fmaRow (v.lanes a) (v.lanes b) (v.lanes c)) ∧
     VecPuts s core (.max core dst a b) dst (Fl.zipList max32 (v.lanes a) (v.lanes b)) ∧
     VecPuts s core (.min core dst a b) dst (Fl.zipList min32 (v.lanes a) (v.lanes b)) ∧
     VecPuts s core (.div core dst a b) dst (Fl.zipList div32 (v.lanes a) (v.lanes b))) ∧
  (∀ (s : State) (core : Fin 160) (dst a : Fin 32), s.Inv → (s.core core).vec.Settled →
     let x := (s.core core).vec.lanes a
     VecPuts s core (.recip core dst a) dst (Fl.mapList recip32 x) ∧
     VecPuts s core (.rsqrt core dst a) dst (Fl.mapList rsqrt32 x) ∧
     VecPuts s core (.sqrt core dst a) dst (Fl.mapList sqrt32 x) ∧
     VecPuts s core (.exp core dst a) dst (Fl.mapList exp32 x) ∧
     VecPuts s core (.log core dst a) dst (Fl.mapList log32 x) ∧
     VecPuts s core (.exp2 core dst a) dst (Fl.mapList exp232 x) ∧
     VecPuts s core (.log2 core dst a) dst (Fl.mapList log232 x))

/-- R78, R80: RSUM, RMAX, SEL, ROT, TOPK and BCAST over a row, with the frame. R78, R79: NOP moves on; LOOP opens a frame at most four deep;
END goes back to the start of its loop while rounds are left and past it after the last. -/
def Obligations.VectorRowOps : Prop :=
  (∀ (s : State) (core : Fin 160) (dst a b c : Fin 32) (imm : Nat), s.Inv → (s.core core).vec.Settled →
     let v := (s.core core).vec
     VecPuts s core (.rsum core dst a) dst ((rsum (v.lanes a)).map v.splat) ∧
     VecPuts s core (.rmax core dst a) dst ((rmax (v.lanes a)).map v.splat) ∧
     VecPuts s core (.sel core dst a b c) dst (selRow (v.lanes a) (v.lanes b) (v.lanes c)) ∧
     VecPuts s core (.rot core dst a b c) dst (rotRow (v.lanes a) (v.lanes b) (v.lanes c)) ∧
     (1 ≤ imm → imm ≤ 8 → VecPuts s core (.topk core dst a imm) dst (topkRow (v.lanes a) imm)) ∧
     VecPuts s core (.bcast core dst imm) dst (Fl.pure (v.splat (BitVec.ofNat 32 (imm * 16))))) ∧
  (∀ (s : State) (core : Fin 160) (imm : Nat) (f : LoopFrame) (r : List LoopFrame), s.Inv → (s.core core).vec.Settled →
     let v := (s.core core).vec
     (∃ t : State, exec (.vectorNop core) s = .next t ∧ VecOnly s t core ∧ (t.core core).vec = { v with pc := v.pc + 1 }) ∧
     (1 ≤ imm → imm ≤ 65535 → v.depth < 4 → ∃ t : State, exec (.loop core imm) s = .next t ∧ VecOnly s t core ∧
       (t.core core).vec = { v with loops := ⟨v.pc + 1, imm, 0⟩ :: v.loops, pc := v.pc + 1 }) ∧
     (v.loops = f :: r → ∃ t : State, exec (.endLoop core) s = .next t ∧ VecOnly s t core ∧
       (t.core core).vec = if f.idx + 1 < f.total then { v with loops := { f with idx := f.idx + 1 } :: r, pc := f.start }
                           else { v with loops := r, pc := v.pc + 1 }))

/-- R78, R502: LD puts the converted row of its operand entry into the register and counts its invalid codes; ST adds the converted register
to the outputs of the command and changes no memory. Both where no page they read is HELD, whose directory (R190) a read changes too. -/
def Obligations.VectorLoadStore : Prop :=
  ∀ (s : State) (core : Fin 160) (reg : Fin 32) (fmt opnd : Fin 16) (imm : Nat) (j : Job) (f : Fmt) (e : OpEnt),
    s.Inv → (s.core core).vec.Settled → s.job core 0 = some j → Fmt.ofCode fmt = some f → j.optab[opnd.val]? = some e →
    let v := (s.core core).vec
    (e.role ≠ 3 → e.role ≠ 7 → e.role ≠ 4 → e.role ≠ 5 →
      let r := if e.role = 0 then s.rowIndex core j.cmd.lodge j.optab 4 v.row else v.row
      let d := s.rowData core j.cmd.lodge e f r imm v.n
      (e.role = 0 → s.indexStatus core j.cmd.lodge j.optab 4 v.row = St.ok) →
      s.rowStatus core j.cmd.lodge e f r imm v.n = St.ok →
      (∀ x ∈ (if e.role = 0 then indexReads j.optab 4 v.row else []) ++ rowReads e f r imm v.n, s.heldIn j.cmd.lodge x.1 x.2 = false) →
      ∃ t : State, exec (.ld core reg fmt opnd imm) s = .next t ∧ (t.core core).vec.reg reg = (d.to32 f).val ∧
        (∀ q, q ≠ reg.val → (t.core core).vec.reg q = v.reg q) ∧ (t.core core).vec.flags = v.flags ||| (d.to32 f).fl ∧
        (t.core core).vec.pc = v.pc + 1 ∧
        t.rd Reg.cmpFmtExcCount core = satAdd (2 ^ 32 - 1) (s.rd Reg.cmpFmtExcCount core) (d.badTernary f) % 2 ^ 32 ∧
        t.job core 0 = some { j with flags := j.flags ||| (t.core core).vec.flags } ∧
        t.mem.bytes = s.mem.bytes ∧ t = { s with cores := t.cores, regs := t.regs, mem := t.mem } ∧
        ∀ c, c ≠ core.val → t.core c = s.core c) ∧
    (e.role = 3 ∨ e.role = 7 → stFormat f = true →
      let r := if e.role = 3 then s.rowIndex core j.cmd.lodge j.optab 5 v.row else v.row
      let sts := rowStores e f r imm (encodeRow f (v.lanes reg)).val
      (e.role = 3 → s.indexStatus core j.cmd.lodge j.optab 5 v.row = St.ok) →
      s.outStatus core j.cmd.lodge e f r imm v.n sts = St.ok →
      (∀ x ∈ (if e.role = 3 then indexReads j.optab 5 v.row else []), s.heldIn j.cmd.lodge x.1 x.2 = false) →
      ∃ t : State, exec (.st core reg fmt opnd imm) s = .next t ∧
        t.job core 0 = some { j with direct := j.direct ++ directOf sts, staged := s.stageMore core j.cmd.lodge j.staged sts,
                                     flags := j.flags ||| (v.flags ||| (encodeRow f (v.lanes reg)).fl) } ∧
        (t.core core).vec = { v with flags := v.flags ||| (encodeRow f (v.lanes reg)).fl, pc := v.pc + 1 } ∧
        t.mem.bytes = s.mem.bytes ∧ t = { s with cores := t.cores, regs := t.regs, mem := t.mem } ∧
        ∀ c, c ≠ core.val → t.core c = s.core c)

/-- R86, R89: a COMPUTE command in RUN whose work meets no fault ends in FENCE with the outputs of its work. -/
def Obligations.ComputeRuns : Prop :=
  ∀ (s : State) (core : Fin 160) (j : Job), s.Inv → s.job core 0 = some j → j.st = .run → j.waiting = [] → j.status = 0 →
    j.cmd.klass = 2 →
    let u := s.beginCompute core j
    let k := { j with optab := u.optab j.cmd }
    (j.cmd.op = 1 → (u.matmul core k).fault = 0 → u.stageStatus core j.cmd.lodge (u.matmul core k).stores = St.ok →
      Fences s (.matmul core) core 0 k (u.matmul core k).stores (u.matmul core k).flags 0) ∧
    (j.cmd.op = 2 → (s.vector core { j with optab := s.optab j.cmd }).fault = 0 →
      u.stageStatus core j.cmd.lodge (s.vector core { j with optab := s.optab j.cmd }).outStores = St.ok →
      Fences s (.vector core) core 0 k (s.vector core { j with optab := s.optab j.cmd }).outStores
        (s.vector core { j with optab := s.optab j.cmd }).flags 0) ∧
    (j.cmd.op = 3 → (u.convert core k).fault = 0 → u.stageStatus core j.cmd.lodge (u.convert core k).stores = St.ok →
      Fences s (.convert core) core 0 k (u.convert core k).stores (u.convert core k).flags 0) ∧
    (j.cmd.op = 4 → (u.copyRows core k).fault = 0 → u.stageStatus core j.cmd.lodge (u.copyRows core k).stores = St.ok →
      Fences s (.copy core) core 0 k (u.copyRows core k).stores (u.copyRows core k).flags 0) ∧
    (j.cmd.op = 5 → Fences s (.signal core) core 0 k [] 0 0)

/-! ## The near-bank units (R90 to R130) -/

/-- R89, R108, R112, R113: a near-bank command in RUN on stacks that are not suspended, whose work and outputs meet no fault, ends in FENCE
with the outputs of its work; a row program runs up to its END word. -/
def Obligations.NearBankRuns : Prop :=
  ∀ (s : State) (core : Fin 160) (place : Fin 8) (j : Job), s.Inv → s.job core (nearPlace place) = some j → j.st = .run →
    j.waiting = [] → j.status = 0 → j.cmd.klass = 3 → s.suspended j = false →
    (j.cmd.op = 0x20 → (s.matvec core j).fault = 0 → s.stageStatus core j.cmd.lodge (s.matvec core j).stores = St.ok →
      Fences s (.nbMatvec core place) core (nearPlace place) j (s.matvec core j).stores (s.matvec core j).flags 0) ∧
    (j.cmd.op = 0x21 → (s.eltwiseRun core j).fault = 0 → s.stageStatus core j.cmd.lodge (s.eltwiseRun core j).stores = St.ok →
      Fences s (.nbEltwise core place) core (nearPlace place) j (s.eltwiseRun core j).stores (s.eltwiseRun core j).flags 0) ∧
    (j.cmd.op = 0x22 → (s.normsum core j).fault = 0 → s.stageStatus core j.cmd.lodge (s.normsum core j).stores = St.ok →
      Fences s (.nbNormsum core place) core (nearPlace place) j (s.normsum core j).stores (s.normsum core j).flags 0) ∧
    (j.cmd.op = 0x28 →
      let pages := s.windowPages j.cmd.lodge j.optab
      let prog := s.rowProg j.cmd j.optab
      (s.stacksOf j.pins).length ≤ 1 → s.rowRunFault pages prog { j with direct := [] } = St.ok →
      ∃ t : State, exec (.nbRowprog core place) s = .next t.choices ∧
        t.job core (nearPlace place) = some { s.rowRun pages prog { j with direct := [] } with st := .fence, since := s.now } ∧
        (∀ d q, d ≠ core.val ∨ q ≠ nearPlace place → t.job d q = s.job d q) ∧ t.coreStore = s.coreStore ∧ t.hif = s.hif)

/-- R119: the row words. Each names its stripes by window row and bank; its sources are what the program wrote itself or else memory; D
joins the outputs of the program, NOP changes none and END is the last write of the program. Memory outside stripe D keeps its bytes. -/
def Obligations.RowWords : Prop :=
  ∀ (s : State) (core : Fin 160) (place : Fin 8) (bd ba bb : Fin 32) (rd ra rb : Nat) (j : Job), s.Inv →
    s.job core (nearPlace place) = some j → j.cmd.klass = 3 → j.cmd.op = 0x28 → j.st = .run → s.suspended j = false →
    let p := nearPlace place
    let pages := s.windowPages j.cmd.lodge j.optab
    let n := pages.length
    let d := stripeAddr pages bd rd
    let a := s.stripeBytes j (stripeAddr pages ba ra)
    let b := s.stripeBytes j (stripeAddr pages bb rb)
    let puts (i : Instr) (bs : List Byte) : Prop := ∃ t : State, exec i s = .next t ∧
      t.job core p = some { j with direct := putStripe d bs j.direct } ∧ (∀ c q, c ≠ core.val ∨ q ≠ p → t.job c q = s.job c q) ∧
      t.coreStore = s.coreStore ∧ t.hif = s.hif ∧
      (∀ k, k < memKey j.cmd.lodge d ∨ memKey j.cmd.lodge d + stripe ≤ k → Tbl.get 0 k t.mem.bytes = Tbl.get 0 k s.mem.bytes) ∧
      t.rd Reg.nbuRowstepCount = (s.rd Reg.nbuRowstepCount + 64) % 2 ^ Reg.nbuRowstepCount.width
    let ok (w : RowWord) : Prop := w.bad n = false ∧ s.rowFault j pages w = St.ok
    (∃ t : State, exec (.rowNop core place) s = .next t ∧ t.job core p = some j ∧
      (∀ c q, c ≠ core.val ∨ q ≠ p → t.job c q = s.job c q) ∧ t.mem = s.mem ∧ t.coreStore = s.coreStore ∧ t.hif = s.hif) ∧
    (ok ⟨1, bd, rd, ba, ra, 0, 0⟩ → puts (.rowCopy core place bd rd ba ra) a) ∧
    (ok ⟨2, bd, rd, 0, 0, 0, 0⟩ → puts (.init0 core place bd rd) (List.replicate stripe 0)) ∧
    (ok ⟨3, bd, rd, 0, 0, 0, 0⟩ → puts (.init1 core place bd rd) (List.replicate stripe 0xFF)) ∧
    (ok ⟨4, bd, rd, ba, ra, bb, rb⟩ → puts (.rowAnd core place bd rd ba ra bb rb) (List.zipWith (· &&& ·) a b)) ∧
    (ok ⟨5, bd, rd, ba, ra, bb, rb⟩ → puts (.rowOr core place bd rd ba ra bb rb) (List.zipWith (· ||| ·) a b)) ∧
    (ok ⟨6, bd, rd, ba, ra, bb, rb⟩ → puts (.rowXor core place bd rd ba ra bb rb) (List.zipWith (· ^^^ ·) a b)) ∧
    (ok ⟨7, bd, rd, ba, ra, 0, 0⟩ → puts (.rowNot core place bd rd ba ra) (a.map (~~~ ·))) ∧
    (∃ t : State, exec (.rowEnd core place) s = .next t ∧ t.job core p = some { j with st := .fence, since := s.now } ∧
      (∀ c q, c ≠ core.val ∨ q ≠ p → t.job c q = s.job c q) ∧ t.coreStore = s.coreStore ∧ t.hif = s.hif)

/-- R105, R110: PIN_READY and ACTIVATION_ROOM take a near-bank command from WAIT to RUN once its wait is met, its pinned pages lie in T1 and
its X has room, and hold that room. R124, R125: a refresh that falls due in a channel at near-bank work is postponed up to MAX_POSTPONE times
and then taken with a suspension; in a channel with no such work it is taken at once. R128: channel groups join near-bank work one by one,
and leave it one by one, their channels executing NOP row steps until then. R126: a base-die temperature is latched; above 85 °C the stack
is hot; it is throttled and suspended from its thresholds on, and stays so until it has fallen by the hysteresis. The temperatures of other
stacks stay. -/
def Obligations.NearBankTiming : Prop :=
  (∀ (s : State) (core : Fin 160) (place : Fin 8) (j : Job), s.job core (nearPlace place) = some j → j.st = .wait →
     s.waitMet j.cmd = true → s.pinsReady j = true → s.actFits j = true →
     let room := if j.cmd.klass = 3 ∧ j.cmd.op = 0x20 then actBytes j.cmd.fM j.cmd.fK else 0
     exec (.pinReady core place) s = .next (s.setJob core (nearPlace place) { j with st := .run, since := s.now, abuf := room }) ∧
     exec (.activationRoom core place) s = .next (s.setJob core (nearPlace place) { j with st := .run, since := s.now, abuf := room })) ∧
  (∀ (s : State) (stack : Fin 8) (channel : Fin 64),
     let k := stack.val * 64 + channel
     let d := Tbl.get 0 k s.debt
     let g := Tbl.get 0 stack.val s.ramp
     (s.channelBusy stack channel = false → exec (.refreshDue stack channel) s = .next { s with debt := Tbl.set 0 k 0 s.debt }) ∧
     (s.channelBusy stack channel = true → d < s.rd Reg.nbuRefreshMaxPostpone →
       exec (.refreshDue stack channel) s = .next { s with debt := Tbl.set 0 k (d + 1) s.debt }) ∧
     (s.channelBusy stack channel = true → s.rd Reg.nbuRefreshMaxPostpone ≤ d →
       exec (.refreshDue stack channel) s =
         .next (({ s with debt := Tbl.set 0 k 0 s.debt } : State).bump Reg.nbuSuspCntRefresh)) ∧
     (s.stackBusy stack = true → g < 8 →
       exec (.channelGroupRamp stack) s = .next { s with ramp := Tbl.set 0 stack.val (g + 1) s.ramp }) ∧
     (s.stackBusy stack = true → 8 ≤ g → exec (.channelGroupRamp stack) s = .next s) ∧
     (s.stackBusy stack = false → g = 0 → exec (.channelGroupRamp stack) s = .next s) ∧
     (s.stackBusy stack = false → 0 < g → ∃ n : Nat, exec (.channelGroupRamp stack) s =
       .next ((({ s with ramp := Tbl.set 0 stack.val (g - 1) s.ramp } : State).count Reg.nbuRowstepCount n).useFree 1))) ∧
  (∀ (s : State) (stack : Fin 8) (temp : Nat), s.Inv → temp < 2 ^ Reg.nbuTempTemp.width →
     ∃ t : State, exec (.nbThermal stack temp) s = .next t ∧ t = { s with regs := t.regs, debt := t.debt } ∧ t.rd Reg.nbuTempTemp stack = temp ∧
       bitAt stack (t.rd Reg.nbuStatusHot) = decide (340 < temp) ∧
       bitAt stack (t.rd Reg.nbuStatusThrottled) = (decide (s.rd Reg.nbuThermThrottleC * 4 ≤ temp) ||
         (bitAt stack (s.rd Reg.nbuStatusThrottled) &&
           decide (s.rd Reg.nbuThermThrottleC * 4 ≤ temp + s.rd Reg.nbuThermHystC * 4))) ∧
       bitAt stack (t.rd Reg.nbuStatusSuspended) = (decide (s.rd Reg.nbuThermSuspendC * 4 ≤ temp) ||
         (bitAt stack (s.rd Reg.nbuStatusSuspended) &&
           decide (s.rd Reg.nbuThermSuspendC * 4 ≤ temp + s.rd Reg.nbuThermHystC * 4))) ∧
       ∀ u : Fin 8, u ≠ stack → t.rd Reg.nbuTempTemp u = s.rd Reg.nbuTempTemp u)

/-! ## Memory tiers (R166 to R199) -/

/-- R192, R194: FILL, COPY, COMPARE and REDUCE in RUN, in no suspended stack, whose ranges translate and hold no poison, end in FENCE with
their result as the DIRECT output at DST and with the pages they touch pinned where they lie. R177: at the end of an epoch every page's count
is halved. R179: a chunk copied is counted, up to 32. R181: after the last one the page takes its new tier and frame. Memory keeps its
bytes. -/
def Obligations.MemoryWork : Prop :=
  (∀ (s : State) (core : Fin 160) (place : Fin 8) (j : Job), s.Inv → s.job core (nearPlace place) = some j → j.st = .run →
     j.waiting = [] → j.status = 0 → j.cmd.klass = 3 →
     let x := j.cmd
     let k := { j with pins := x.mKeys }
     s.suspended k = false →
     (∀ r ∈ x.mReads, s.readStatus x.lodge r.1 r.2 = St.ok) → s.accessStatus x.lodge x.mWrite.1 x.mWrite.2 = St.ok →
     (x.op = 0x10 → Fences s (.memFill core place) core (nearPlace place) k [⟨0, x.mDst, fillBytes x.mSrcA x.mLen⟩] 0 0) ∧
     (x.op = 0x11 → Fences s (.memCopy core place) core (nearPlace place) k [⟨0, x.mDst, s.peek x.lodge x.mSrcA x.mLen⟩] 0 0) ∧
     (x.op = 0x12 → Fences s (.memCompare core place) core (nearPlace place) k
       [⟨0, x.mDst, leBytes 8 (firstDiff 0 (s.peek x.lodge x.mSrcA x.mLen) (s.peek x.lodge x.mSrcB x.mLen))⟩] 0 0) ∧
     (x.op = 0x13 →
       let v := (s.redVals x).bind fun l => encodeRow (if x.mFmtC = 0 then .fp32 else .bf16) l
       Fences s (.memReduce core place) core (nearPlace place) k [⟨0, x.mDst, v.val.1⟩] v.fl 0)) ∧
  (∀ (s : State) (lodge : Fin 16) (page : Nat) (m : Migr) (q : Page),
     let k := pageKey lodge page
     (∃ t : State, exec .epochEnd s = .next t ∧
       (∀ i p, Tbl.find i s.mem.pages = some p → Tbl.find i t.mem.pages = some { p with count := p.count / 2 }) ∧
       t = { s with mem := { s.mem with pages := t.mem.pages, migr := t.mem.migr } }) ∧
     (Tbl.find k s.mem.migr = some m → Tbl.find k s.mem.pages = some q →
       (m.chunk < 32 →
         let u := (s.chargePath (q.tier - 1) (keyLodge k) 65536).chargePath (m.tier - 1) (keyLodge k) 65536
         exec (.migrationChunk lodge page false) s =
           .next ({ u with mem := { u.mem with migr := Tbl.put k { m with chunk := m.chunk + 1 } u.mem.migr } } : State).choices) ∧
       (m.chunk = 32 → s.heldInPlace k = false →
         exec (.cutover lodge page) s = .next (((s.cutover k m q).idleEngine).attWake.choices) ∧
         Tbl.find k (s.cutover k m q).mem.pages =
           some { q with tier := m.tier, frame := m.frame, dirty := false, harvest := m.harvest.map fun h => (h, q.tier, q.frame) } ∧
         (s.cutover k m q).mem.bytes = s.mem.bytes)))

/-- R173, R174, R183: MEM_MAP in RUN maps its page into the frame it obtains, its bytes zero; with several pages it maps all or, as here,
each in order. MEM_UNMAP waits for pins and then takes its pages out of the map. MEM_HARVEST with harvest enabled and a good table moves the
slot's window to its ENTRY. -/
def Obligations.MapUnmapHarvest : Prop :=
  ∀ (s : State) (core : Fin 160) (place : Fin 8) (j : Job), s.Inv → s.job core (nearPlace place) = some j → j.st = .run →
    j.waiting = [] → j.status = 0 → j.cmd.klass = 3 → j.direct = [] →
    let p := nearPlace place
    let x := j.cmd
    (x.op = 1 → x.done = false → (∀ q ∈ x.mRange, Tbl.find (pageKey x.lodge q) s.mem.pages = none) →
      (s.mapPages x x.mRange).2 = St.ok →
      exec (.memMap core place) s =
        .next (((s.mapPages x x.mRange).1.setJob core p { j with cmd := { x with done := true }, st := .fence, since := s.now }).choices)) ∧
    (∀ q t f, x.mRange = [q] → s.backing x.lodge (s.mapOrder x) = some (t, f) → (t = 1 ∨ s.noKey x.lodge = false) →
      (s.mapPages x x.mRange).2 = St.ok ∧
      (s.mapPages x x.mRange).1.mem.pages =
        Tbl.put (pageKey x.lodge q) ⟨t, f, x.mTier, x.mLock, x.mAttr, 0, 0, 0, none, false⟩ s.mem.pages ∧
      ∀ i, i < 2 ^ 21 → Tbl.get 0 (memKey x.lodge (q * 2 ^ 21) + i) (s.mapPages x x.mRange).1.mem.bytes = 0) ∧
    (x.op = 2 → (∀ q ∈ x.mRange, s.pinned (pageKey x.lodge q) = false) →
      exec (.memUnmap core place) s =
        .next ((((x.mRange.foldl (fun s q => s.unmapPage x.lodge q) s).idleEngine).setJob core p
          { j with st := .fence, since := s.now }).choices)) ∧
    (x.op = 2 → (∃ q ∈ x.mRange, s.pinned (pageKey x.lodge q) = true) →
      exec (.memUnmap core place) s = .next ((s.setJob core p j).choices)) ∧
    (x.op = 5 →
      let slot := x.fld 2 16 3
      let n := s.rd Reg.memHvCfgEntries slot
      (s.on Reg.memCtrlHarvestEn = false ∨ n = 0 ∨ s.stage < 4 →
        exec (.memHarvest core place) s = .next ((s.setJob core p { j with st := .fence, since := s.now }).choices)) ∧
      (s.on Reg.memCtrlHarvestEn = true → n ≠ 0 → 4 ≤ s.stage → Tbl.get 0 slot s.mem.hvCheck = 1 →
        ∃ t : State, exec (.memHarvest core place) s = .next t.choices ∧ t.job core p = some { j with st := .fence, since := s.now } ∧
          t.rd Reg.memHvPosEntry slot = x.fld 2 0 16 % n % 2 ^ Reg.memHvPosEntry.width ∧ t.mem.bytes = s.mem.bytes ∧
          t.hif = s.hif ∧ t.coreStore = s.coreStore))

/-- R197: a device whose requests time out, or that is removed, is marked lost, flagged in MEM_ERR and raised as an alarm; one that is added
is listed after the frames of the others. R198, R199, R483: ENCRYPT changes only for a lodge without T2 or T3 frames, clearing KEY_READY
and destroying the keys with it, else the write is discarded with its error bit; two 256-bit keys are installed where ENCRYPT is 1 and the
device is not a debug device. -/
def Obligations.TraysAndKeys : Prop :=
  (∀ (s : State) (port : Fin 4) (device : Fin 16) (gib : Nat) (speed width : Fin 4), s.Inv →
     ((s.mem.trays.any fun t => t.port == port && t.idx == device && !t.lost) = true →
       ∃ t : State, exec (.trayTimeout port device) s = .next t.choices ∧ exec (.trayRemoval port device) s = .next t.choices ∧
         t.mem = { s.mem with trays := s.mem.trays.map fun u => if u.port = port.val ∧ u.idx = device.val then { u with lost := true } else u } ∧
         bitAt 3 (t.rd Reg.memErrBits) = true ∧ t.rd Reg.memTrayLost port = 1 ∧ t.rd Reg.hltStatusAlarm = 1 ∧ t.cores = s.cores) ∧
     ((s.mem.trays.any fun t => t.port == port && t.idx == device && !t.lost) = false → s.stage ≠ 4 →
       ∃ t : State, exec (.trayHotadd port device gib speed width) s = .next t ∧ t.rd Reg.memTrayUp port = 1 ∧
         t.rd Reg.memTraySpeed port = speed ∧ t.rd Reg.memTrayWidth port = width ∧
         t = { s with regs := t.regs, mem := { s.mem with trays := s.mem.trays ++
           [⟨port, device, s.mem.trays.foldl (fun n t => max n (t.base + t.frames)) 0, gib * 512, false, false⟩] } })) ∧
  (∀ (s : State) (l : Fin 16),
     (s.holdsOuter l = false → s.on Reg.memLodgeCfgEncrypt l = false → exec (.encrypt l true) s = .next (s.wr Reg.memLodgeCfgEncrypt 1 l)) ∧
     (s.holdsOuter l = false → s.on Reg.memLodgeCfgEncrypt l = true →
       exec (.encrypt l false) s = .next (((s.wr Reg.memLodgeCfgEncrypt 0 l).dropKey l).wr Reg.memLodgeCfgKeyReady 0 l)) ∧
     (∀ on, s.holdsOuter l = true → s.on Reg.memLodgeCfgEncrypt l ≠ on → exec (.encrypt l on) s = .next (s.discard.setBit Reg.memErrBits 6)) ∧
     (s.on Reg.memLodgeCfgEncrypt l = true → s.tlg.debug = false →
       ∃ t : State, exec (.keyInstall l) s = .next t ∧ t = { s with regs := t.regs, tlg := t.tlg, free := t.free } ∧
         t.rd Reg.memLodgeCfgKeyReady l = 1 ∧ ∃ ks, ks.length = 64 ∧ t.tlg = { s.tlg with keys := Tbl.put l ks s.tlg.keys }))

/-- R383, R385, R188, R191: what arrives to remove copies, and what goes on when a member stays silent. SP_INVAL drops the cached lines of
its range, marks the range's replicas invalid and counts; SP_REPUBLISH marks the replicas of another version invalid; the timeouts close the
requests of the silent member. R188, R189, R385, R449, R172: page attributes and versions once the members have answered, the replica
scrubber, and a zeroed frame. -/
def Obligations.CopiesRemoved : Prop :=
  (∀ (s : State) (m : Msg) (tag : Nat) (pd : Pend),
     (s.assigned = true → bitAt 32 (m.word 1) = false → m.fld 3 0 40 ≠ 0 →
       let off := m.word 2
       let n := m.fld 3 0 40
       exec (.spInval m) s = .next (((((s.dropLines m.src off n none).1.staleReplicas m.src (off / 2 ^ 21)
         ((off + n - 1) / 2 ^ 21 + 1 - off / 2 ^ 21) fun _ => true).bump Reg.spnInvalRxCount).spAck m St.ok 0).choices)) ∧
     (s.assigned = true →
       exec (.spRepublish m) s = .next (((s.staleReplicas m.src (m.word 2 / 2 ^ 21) (m.fld 3 0 26) fun r =>
         r.version != m.fld 3 32 32).spAck m St.ok 0).choices)) ∧
     (Tbl.find tag s.spn.out = some pd → pd.kind = 6 → (s.closeTag tag).job pd.core pd.place = none → s.owner pd = none →
       exec (.invalAckTimeout tag) s = .next (((s.closeTag tag).homeAcked tag).choices)) ∧
     (∀ j, Tbl.find tag s.spn.out = some pd → pd.kind = 5 → s.owner pd = some j → j.cmd.klass = 3 →
       exec (.republishTimeout tag) s = .next (((((s.setJob pd.core pd.place { j with status := St.spanTimeout }).closeTag tag).spanNext
         pd).homeAcked tag).choices)) ∧
     (∀ (l : Fin 16) line ts, s.mem.recalls.find? (·.1 == lineKey l (128 * line)) = some (lineKey l (128 * line), ts) →
       let dev := (ts.findSome? fun t => (Tbl.find t s.spn.out).map (·.dst)).getD 0
       let key := lineKey l (128 * line)
       exec (.dirRecallTimeout l line) s = .next ((ts.foldl (fun s t => (s.closeTag t).homeAcked t)
         ((s.setBit Reg.memErrBits 4).alarm 0x06 (key * 128 / 2 ^ 48) 0xFF dev (key * 128 % 2 ^ 48))).choices))) ∧
  (∀ (s : State) (core : Fin 160) (place : Fin 8) (j : Job),
     let c := core.val
     let p := nearPlace place
     (Running s c p 3 3 j → j.result = 1 → s.allAnswered c p = true →
       let pages := (s.mappedIn j.cmd).foldl (fun t k => Tbl.adjust k (fun q => { q with attr := j.cmd.mAttr }) t) s.mem.pages
       exec (.memSetattr core place) s = .next ((({ s with mem := { s.mem with
         pages := pages
         lines := linesOutside (memKey j.cmd.lodge j.cmd.mDst) (j.cmd.mPages * 2 ^ 21) s.mem.lines } } : State).toFence c p
         { j with result := 0 }).choices)) ∧
     (∀ k q, Running s c p 3 4 j → j.result = 0 → j.cmd.done = false → s.writesPending j.cmd = false → s.mappedIn j.cmd = [k] →
       Tbl.find k s.mem.pages = some q → q.version + 1 < 2 ^ 32 → Tbl.find k s.spn.holders = none → s.spn.todo = [] →
       let j' := { j with result := 1, cmd := { j.cmd with done := true } }
       let u := s.setJob c p j'
       exec (.memRepublish core place) s = .next ((({ u with
         mem := { u.mem with pages := Tbl.adjust k (fun r => { r with version := q.version + 1 }) u.mem.pages }
         spn := { u.spn with holders := Tbl.del k u.spn.holders } } : State).toFence c p { j' with result := 0 }).choices)) ∧
     (∀ r, s.rd Reg.hltScoreCfgScrubMs ≠ 0 → s.spn.repl.filter (·.valid) = [r] →
       exec .replicaScrub s = .next ((natsFrom 0 32).foldl (fun s i =>
         let off := r.page * 2 ^ 21 + 65536 * i
         (s.ask { kind := 14, engine := 8, dst := r.dev, lodge := r.lodge, core := 160, place := 15, cmd := none, addr := 0, off := off,
                  len := 65536, aux := r.page, stale := false,
                  msg := mkMsg 0x61 s.self (s.tenantFor r.lodge) [0, off, 65536] [], reply := none }).1)
         { s with spn := { s.spn with scrub := r.frame } })) ∧
     (∀ (tier : Fin 4) frame, s.mem.zeroing.contains (tier.val, frame) = true →
       exec (.frameZeroed tier frame) s = .next ((({ s with mem := { s.mem with zeroing := s.mem.zeroing.erase (tier.val, frame) } } :
         State).idleEngine).choices)))

/-! ## Attention (R131 to R165) -/

/-- R146, R152, R159, R162: ATTN and KV_APPEND in RUN, with their pool and every page list at this device and every input readable, send one
request for each sequence and home that holds rows to read or to append, those to other devices first, and wait for the answers. -/
def Obligations.AttentionIssues : Prop :=
  ∀ (s : State) (core : Fin 160) (place : Fin 8) (j : Job) (pool : Pool), s.Inv → s.job core (nearPlace place) = some j →
    j.st = .run → j.waiting = [] → j.status = 0 → j.cmd.klass = 3 → (s.pool j.cmd.lodge j.cmd.attPool).1 = some pool →
    let c := core.val
    let p := nearPlace place
    let k := { j with optab := s.optab j.cmd }
    let u := s.setJob c p k
    let qs := s.seqs j.cmd k.optab
    let l := u.attPlanCmd c p k pool
    s.pendsOf c p = [] → s.hasTodo c p = false → (∀ q ∈ qs, q.dev = s.self) →
    (∀ q ∈ qs, q.visible ≠ 0 → s.readStatus j.cmd.lodge q.off (8 * listLen q.visible) = St.ok) →
    s.tablesStatus j.cmd.lodge pool j.cmd.attLayer = St.ok →
    (∀ e, roleOf 0 k.optab = some e → ∀ r, r < j.cmd.fN →
      s.readStatus j.cmd.lodge (e.addr + r * e.stride) (pool.hq * pool.d * 2) = St.ok) →
    (∀ e, roleOf 1 k.optab = some e → ∀ r, r < j.cmd.fK →
      s.readStatus j.cmd.lodge (e.addr + r * e.stride) pool.appendBytes = St.ok) →
    (∀ e, roleOf 4 k.optab = some e → s.readStatus j.cmd.lodge e.addr (4 * j.cmd.fK) = St.ok) →
    u.wideEntry c p j.cmd qs = false → (∀ e ∈ l, e.2.1 = s.self ∨ s.reaches j.cmd.lodge e.2.1 = true) →
    (∀ e ∈ l, e.2.2.fld 3 0 16 ≠ 0 → (e.2.1, e.2.2.fld 2 0 32) ∉ s.wan.quiet) → l ≠ [] →
    (j.cmd.op = 0x30 → exec (.attn core place) s = .next ((((u.countSkips c p k pool).dropReplies c p).attIssue c p k l).choices)) ∧
    (j.cmd.op = 0x31 → exec (.kvAppend core place) s = .next (((u.dropReplies c p).attIssue c p k l).choices))

/-- R155: PREFIX_MATCH in RUN with candidates of this device only writes the number of leading candidates whose header and tokens match, at
most one less than the pages the prompt fills, as its DIRECT output. R160, R164: a request of another device is counted and served, or
refused with the status of its gate; ATT_TIMEOUT of a request that is out counts, flags and, its command gone, forgets it; with its command
there, poisons the outputs and orphans it. -/
def Obligations.AttentionMessages : Prop :=
  (∀ (s : State) (core : Fin 160) (place : Fin 8) (j : Job) (pool : Pool) (eg ev ec : OpEnt), s.Inv →
     s.job core (nearPlace place) = some j → j.st = .run → j.waiting = [] → j.status = 0 → j.cmd.klass = 3 → j.cmd.op = 0x32 →
     let c := core.val
     let p := nearPlace place
     let x := j.cmd
     let k := { j with optab := s.optab x }
     (s.pool x.lodge x.attPool).1 = some pool → roleOf 4 k.optab = some eg → roleOf 6 k.optab = some ev → roleOf 3 k.optab = some ec →
     s.readStatus x.lodge eg.addr (4 * x.fM) = St.ok → s.readStatus x.lodge ev.addr (8 * x.fN) = St.ok →
     s.accessStatus x.lodge ec.addr 4 = St.ok → s.pendsOf c p = [] → s.allAnswered c p = true →
     let cands := (natsFrom 0 x.fN).map fun i => (bits 0 24 (s.peekNat x.lodge (ev.addr + 8 * i) 8), bits 24 40 (s.peekNat x.lodge (ev.addr + 8 * i) 8))
     (∀ e ∈ cands, e.1 = s.self) →
     let tok (i : Nat) : List Byte := s.peek x.lodge (eg.addr + 256 * i) (min 256 (4 * x.fM - 256 * i))
     let n := matchCount (fun i parent e => s.candHere x.lodge pool x.attLivery parent e.2 (tok i)) 0 noParent cands
     n.2 = St.ok → Fences s (.prefixMatch core place) c p k [⟨0, ec.addr, leBytes 4 (min n.1 ((x.fM - 1) / 64))⟩] 0 0) ∧
  (∀ (s : State) (m : Msg) (tag l : Nat) (pd : Pend),
     let r : Msg := { m with w := m.w.take 7 }
     let u := s.count Reg.attReqInCount
     (s.att.queue.length < 512 → s.att.held = [] → m.src ≠ s.self → u.attGate r = St.ok → u.tenantLodge r.tenant = some l →
       exec (.attReq m) s = .next ((u.attAccept l r).choices)) ∧
     (s.att.queue.length < 512 → s.att.held = [] → m.src ≠ s.self → u.attGate r ≠ St.ok →
       exec (.attReq m) s = .next (((u.attReject (u.attGate r)).send 8 ((u.tenantLodge r.tenant).getD 16) r.src
         (attRsp u.self r (u.attGate r) [] [])).choices)) ∧
     (512 ≤ s.att.queue.length →
       exec (.attReq m) s = .next (({ s with att := { s.att with held := s.att.held ++ [r] } } : State).choices)) ∧
     (Tbl.find tag s.spn.out = some pd → pd.kind = 9 → pd.reply = none →
       let v := (s.bump Reg.attTimeoutCntCount).setBit Reg.attErrBits 3
       (v.owner pd = none → exec (.attTimeout tag) s = .next ((v.closeTag tag).choices)) ∧
       (∀ j, v.owner pd = some j →
         let outs := j.optab.filter fun e => e.role == 3 || e.role == 7
         let bytes (s : State) (e : OpEnt) : Nat := match (s.pool j.cmd.lodge j.cmd.attPool).1 with
           | some p => if e.role = 7 then p.auxBytes else p.hq * p.d * (if j.cmd.fmtC = 0 then 4 else 2)
           | none => 0
         let w := outs.foldl (fun s e => (natsFrom 0 j.cmd.fN).foldl (fun s r =>
           s.poisonRange j.cmd.lodge (e.addr + r * e.stride) (bytes s e)) s) v
         exec (.attTimeout tag) s = .next ((((w.closeTag tag).orphanCmd pd.core pd.place pd.dst).dropReplies pd.core pd.place).choices))))

/-! ## The span (R370 to R397) -/

/-- R379, R382 to R389: the SPAN commands in RUN. A read of this device's own memory takes the bytes; a read beyond it takes cached lines
and asks for the rest; a write and a copy go out in pieces of at most 64 KiB; an atomic applies its operation to the 8 bytes and returns the
old value; SPAN_INVAL drops lines and counts them; arrival counters are waited for, bound, freed and set. -/
def Obligations.SpanCommands : Prop :=
  ∀ (s : State) (core : Fin 160) (place : Fin 4) (j : Job),
    let c := core.val
    let p := wainPlace place
    let x := j.cmd
    let l := x.lodge
    (Running s c p 6 1 j → j.result = 0 → s.accessStatus l x.local_ x.spLen = St.ok → x.farDev = s.self → s.kvSpanOk l s.self x.farOff x.spLen false = true →
      s.readStatus l x.farOff x.spLen = St.ok →
      exec (.spanRead core place) s = .next (((s.touch l x.farOff x.spLen false).toFence c p
        { j with direct := [(x.local_, s.peek l x.farOff x.spLen)] }).choices)) ∧
    (Running s c p 6 1 j → j.result = 0 → s.accessStatus l x.local_ x.spLen = St.ok → x.farDev ≠ s.self → x.wantReplica = false →
      exec (.spanRead core place) s = .next ((((s.setJob c p { j with direct := [], result := 1 }).readPlain c p j x.farOff x.spLen
        x.local_).spanDone c p).choices)) ∧
    (Running s c p 6 2 j → j.result = 0 → x.farDev ≠ s.self → s.readStatus l x.local_ x.spLen = St.ok →
      let data := s.peek l x.local_ x.spLen
      exec (.spanWrite core place) s = .next ((((pieces x.spLen).foldl (fun s (o, n) =>
        s.issue (s.spanPend c p j 1 0x63 0 (x.farOff + o) n 0 [0, x.farOff + o, n] ((data.drop o).take n)))
        ((((s.touch l x.local_ x.spLen false).dropLines x.farDev x.farOff x.spLen none).1).setJob c p
          { j with result := 1 })).spanDone c p).choices)) ∧
    (Running s c p 6 3 j → s.pendsOf c p = [] → x.farDev = s.self → s.readStatus l x.local_ 16 = St.ok → s.accessStatus l (x.local_ + 16) 8 = St.ok →
      s.storeStatus l s.self x.farOff 8 = St.ok → s.readStatus l x.farOff 8 = St.ok → s.dirIn l (x.farOff / 128 * 128) 128 = [] →
      let old := s.peekNat l x.farOff 8
      exec (.spanAtomic core place) s = .next ((((((s.touch l x.local_ 16 false).setJob c p j).touch l x.farOff 8 false).pokeNat l x.farOff 8
        (atomicOp x.aop old (s.peekNat l x.local_ 8) (s.peekNat l (x.local_ + 8) 8))).toFence c p
        { j with direct := [(x.local_ + 16, leBytes 8 old)] }).choices)) ∧
    (Running s c p 6 5 j →
      exec (.spanInval core place) s = .next (((s.dropLines x.farDev x.farOff x.spLen (some l)).1.toFence c p
        { j with result := (s.spn.cache.filter fun k => k.inRange x.farDev x.farOff x.spLen && (some l == some k.lodge)).length }).choices)) ∧
    (∀ a, Running s c p 6 6 j → Tbl.find x.arrival s.spn.arr = some a → waitMet a.count (x.fld 3 0 32) = true →
      exec (.arrivalWait core place) s = .next ((s.toFence c p j).choices)) ∧
    (∀ a, Running s c p 6 6 j → Tbl.find x.arrival s.spn.arr = some a → waitMet a.count (x.fld 3 0 32) = false →
      exec (.arrivalWait core place) s = .next ((s.setJob c p j).choices)) ∧
    (∀ i, Running s c p 6 7 j → x.fld 3 0 2 = 0 → s.arrUsed l < s.rd Reg.spnArrQuota l → s.freeArrival = some i →
      exec (.arrivalCtl core place) s = .next ((({ s with spn := { s.spn with arr := Tbl.put i ⟨l, 0⟩ s.spn.arr } } : State).toFence c p
        { j with result := i }).choices)) ∧
    (Running s c p 6 7 j → x.fld 3 0 2 = 1 → s.arrBound l x.arrival = true → s.arrWaited x.arrival = false →
      exec (.arrivalCtl core place) s = .next ((({ s with spn := { s.spn with arr := Tbl.del x.arrival s.spn.arr } } : State).toFence c p
        j).choices)) ∧
    (Running s c p 6 7 j → 2 ≤ x.fld 3 0 2 → s.arrBound l x.arrival = true →
      exec (.arrivalCtl core place) s = .next ((({ s with spn := { s.spn with arr := Tbl.adjust x.arrival (fun k => { k with count := x.fld 3 32 32 }) s.spn.arr } } : State).toFence
        c p j).choices)) ∧
    (Running s c p 6 4 j → j.result = 0 → x.farDev ≠ s.self → s.readStatus l x.local_ x.spLen = St.ok →
      let u := (((s.touch l x.local_ x.spLen false).dropLines x.farDev x.farOff x.spLen none).1).setJob c p { j with result := 1 }
      let ps := pieces x.spLen
      exec (.spanCopy core place) s = .next ((if ps.length = 1 then u.copyLast c p { j with result := 1 }
        else (ps.take (ps.length - 1)).foldl (fun s (o, n) =>
          s.issue (s.copyPend c p j false o n (s.peek l (x.local_ + o) n))) u).choices))

/-- R380 to R388: a request of another member at its home, with nothing before it and no tracked copy to recall: a read is answered with the
bytes, a write stores its body, an atomic applies its operation and answers the old value, a copy stores its body and its last chunk counts
an arrival; each write, atomic and copy is acknowledged. -/
def Obligations.HomeRequests : Prop :=
  ∀ (s : State) (m : Msg) (l : Nat),
    let off := m.word 2
    let n := m.len
    s.spn.homeq = [] → s.tenantLodge m.tenant = some l →
    (s.homeGate { m with kind := 0x61 } = St.ok → s.attrAt l off = 0 → s.heldIn l off n = false →
      exec (.spRead m) s = .next (((s.touch l off n false).answer { m with kind := 0x61 } 0x62
        [m.tag, match s.page l off with | some p => p.version | none => 0] (s.peek l off n)).choices)) ∧
    (s.homeGate { m with kind := 0x63 } = St.ok → s.dirIn l off n = [] →
      exec (.spWrite m) s = .next (((s.poke l off (m.body.take n)).spAck { m with kind := 0x63 } St.ok 0).choices)) ∧
    (s.homeGate { m with kind := 0x65 } = St.ok → s.dirIn l (off / 128 * 128) 128 = [] →
      exec (.spAtomic m) s = .next ((((s.touch l off 8 false).pokeNat l off 8
        (atomicOp (m.fld 1 32 4) (s.peekNat l off 8) (m.word 3) (m.word 4))).spAck { m with kind := 0x65 } St.ok (s.peekNat l off 8)).choices)) ∧
    (s.homeGate { m with kind := 0x66 } = St.ok → s.dirIn l off n = [] → bitAt 32 (m.word 3) = true → bitAt 33 (m.word 3) = true →
      exec (.spCopy m) s = .next ((((s.poke l off (m.body.take n)).arrive (m.fld 3 34 12)).spAck { m with kind := 0x66 } St.ok 0).choices))

/-- R379, R383, R390, R395: answers to the requests of this device. The data of a read are installed in the cache as whole lines and go to
the command that asked; an acknowledgement closes its request; an answer that nothing awaits is counted; a request without answer is counted
and orphans the command's lodge context. -/
def Obligations.Replies : Prop :=
  ∀ (s : State) (m : Msg) (tag : Nat) (pd : Pend) (j : Job),
    (Tbl.find m.tag s.spn.out = none → exec (.spReadRsp m) s = .next ((s.bump Reg.spnLateCount).choices) ∧
      exec (.spAck m) s = .next ((s.bump Reg.spnLateCount).choices)) ∧
    (Tbl.find m.tag s.spn.out = some pd → pd.kind = 0 → s.owner pd = some j → m.status = St.ok →
      exec (.spReadRsp m) s = .next ((((((s.dropDiffering pd m).installLines pd (m.body.take pd.len)).addDirect pd.core pd.place pd.addr
        (m.body.take pd.len)).closeTag m.tag).spanNext pd).choices)) ∧
    (Tbl.find m.tag s.spn.out = some pd → pd.kind = 1 → m.status = St.ok →
      exec (.spAck m) s = .next (((s.closeTag m.tag).spanNext pd).choices)) ∧
    (Tbl.find m.tag s.spn.out = some pd → pd.kind = 2 → s.owner pd = some j → m.status = St.ok →
      exec (.spAck m) s = .next ((((s.closeTag m.tag).addDirect pd.core pd.place pd.addr (leBytes 8 (m.word 2))).spanNext pd).choices)) ∧
    (Tbl.find tag s.spn.out = some pd → pd.kind = 1 → pd.reply = none → s.owner pd = some j →
      let u := (s.bump Reg.spnTimeoutCntCount).setBit Reg.spnErrBits 0
      ((u.pendsOf pd.core pd.place).all fun e => e.2.kind == 1) = true → (s.spn.todo.all fun e => e.kind == 1) = true →
      exec (.spanTimeout tag) s = .next (((u.closeTag tag).orphanCmd pd.core pd.place pd.dst).choices)) ∧
    (∀ k, Tbl.find (m.fld 1 0 32) s.spn.out = some pd → pd.kind = 9 → pd.reply = none → s.owner pd = some j → m.fld 1 40 8 = St.ok →
      let u := s.keepReply (m.fld 1 0 32) { m with w := m.w.take 7 }
      u.job pd.core pd.place = some k → u.allAnswered pd.core pd.place = true →
      exec (.attRsp m) s = .next (((u.attFinish pd.core pd.place k).settlePrompt).choices))

/-- R374, R376 to R378: the master and isolation. A forwarded message at its destination is delivered, elsewhere sent on with one hop more,
and dropped at 63 hops; a beat names the master; a lost beat isolates; a lease makes and unmakes a master; REJOIN releases what was held. -/
def Obligations.SpanMaster : Prop :=
  ∀ (s : State) (port : Fin 8) (m : Msg) (n : Nat),
    let dst := m.fld 1 0 24
    (dst = s.self → exec (.spanFwd port m) s = .next ((s.deliver (Msg.ofBytes m.body)).choices)) ∧
    (dst ≠ s.self → m.fld 1 24 6 = 63 →
      exec (.spanFwd port m) s = .next (((s.bump Reg.spnFwdDropCount).setBit Reg.spnErrBits 3).choices)) ∧
    (∀ a r p, dst ≠ s.self → m.fld 1 24 6 ≠ 63 → m.w = a :: r →
      let w : Msg := { m with w := (a + 2 ^ 24) :: r }
      let u := s.count Reg.spnFwdCount w.bytes.length
      s.routePort 8 dst = some p →
      exec (.spanFwd port m) s = .next (({ u with
        sent := u.sent ++ [⟨dst, some p, atBulk (Msg.ofBytes m.body).kind w, 17, w⟩]
        lnk := { u.lnk with fwd := Tbl.set 0 p (Tbl.get 0 p u.lnk.fwd + w.bytes.length) u.lnk.fwd } } : State).choices)) ∧
    (s.spn.beat = none →
      exec (.masterBeat m) s = .next (({ s.wr Reg.spnStatusMasterDev m.src with spn := { s.spn with beat := some (m.src, s.now) } } :
        State).checkRoute)) ∧
    (s.assigned = true → exec .beatLoss s = .next (({ s with spn := { s.spn with beat := none } } : State).isolate 0 0)) ∧
    (s.master = true →
      exec .beatTimer s = .next ((s.others.foldl (fun (t : State) d => t.send 8 16 d (mkMsg 0x69 t.self 0 [t.rd Reg.spnLeaseValue] [])) s).beatIn
        (s.others.foldl (fun (t : State) d => t.send 8 16 d (mkMsg 0x69 t.self 0 [t.rd Reg.spnLeaseValue] [])) s).self)) ∧
    (s.master = true →
      let u := ((s.wr Reg.spnStatusMaster 0).wr Reg.lnkStimeStatusSource 0).setBit Reg.spnErrBits 2
      exec .leaseExpiry s = .next (u.error 0x43 0xF 0xFF (u.rd Reg.spnLeaseValue) 0) ∧
      exec .leaseRevoke s = .next (u.error 0x43 0xF 0xFF (u.rd Reg.spnLeaseValue) 1)) ∧
    (let u := s.wr Reg.spnLeaseValue n
     u.leaseClock < u.rd Reg.spnLeaseValue → u.master = false →
      exec (.leaseGrant n) s = .next (u.becomeSource.wr Reg.spnStatusMaster 1)) ∧
    (∀ d t, s.isolated = true → s.spn.beat = some (d, t) → s.recent t = true →
      exec .rejoin s = .next (s.spn.held.foldl (fun (u : State) h => u.releaseHeld h)
        { s.wr Reg.spnStatusIsolated 0 with spn := { s.spn with held := [] } })) ∧
    (s.isolated = false → exec .rejoin s = .next s.discard)

/-! ## Tallies (R300 to R320) -/

/-- R305, R310, R311, R316: the TALLY command `x` next in its ring's order, whose record has room and whose checks pass, leaves the queue,
has its effect and completes with OK: the lowest free Tally goes to the lodge, a Tally is freed, a group is configured or disbanded, a group
is reckoned, the counts are stored. R307, R315, R318, R319: a waiter whose wait is met leaves WAIT; one that is not met in time ends with
SPIN_TIMEOUT; a dump is written to the host, stays BUSY, and then reports its length. -/
def Obligations.TallyCommands : Prop :=
  (∀ (s : State) (core : Fin 160) (op : Nat) (x : Cmd), s.nextTally core op = some x →
     (x.sched = true ∨ s.hasRoom (s.cqOf x.ring) 1 = true) → s.tallyVerdict core x = St.ok →
     let u := (s.modCore core fun k => { k with queue := dequeue x k.queue }).recordWait x.lodge x.clients (s.now - x.arrived)
     let g := x.core * 16 + x.tGroup
     (∀ t, op = 1 → x.op = 1 → u.freeTally = some t →
       exec (.tallyAlloc core) s = .next ((({ u with tallies := Tbl.put t ⟨x.core, x.lodge, x.tGroup, 0, false, 0⟩ u.tallies } : State).finish
         x x.core St.ok 0 t).choices)) ∧
     (op = 2 → x.op = 2 →
       exec (.tallyFree core) s = .next ((({ u with tallies := Tbl.del x.tTally u.tallies } : State).finish x x.core St.ok 0 0).choices)) ∧
     (op = 3 → x.op = 3 → x.tDisband = true →
       exec (.tallyGroup core) s = .next ((({ u with groups := Tbl.del g u.groups } : State).finish x x.core St.ok 0 0).choices)) ∧
     (op = 3 → x.op = 3 → x.tDisband = false → Tbl.find g u.groups = none →
       exec (.tallyGroup core) s = .next ((({ u with groups := Tbl.put g ⟨x.lodge, x.tSlot, x.tEvery, 0⟩ u.groups } : State).finish
         x x.core St.ok 0 0).choices)) ∧
     (op = 4 → x.op = 4 →
       exec (.tallyReckon core) s = .next (((u.reckon x.core x.tGroup).1.finish x x.core St.ok 0 ((u.reckon x.core x.tGroup).2 % 2 ^ 32)).choices)) ∧
     (op = 5 → x.op = 5 → u.accessStatus x.lodge (x.w 2) (8 * x.tCount) = St.ok →
       let word (t : Nat) : List Byte :=
         match Tbl.find t u.tallies with
         | some y => leBytes 4 y.count ++ leBytes 4 (u.logical y)
         | none => leBytes 8 0
       exec (.tallyRead core) s = .next (((u.pokeHome x.lodge (x.w 2) ((natsFrom x.tTally x.tCount).flatMap word)).finish x x.core St.ok 0 0).choices))) ∧
  (∀ (s : State) (core : Fin 160) (place : Fin 13) (j : Job),
     (s.job core place = some j → j.st = .wait → s.waitMet j.cmd = true → s.pinsReady j = true → s.actFits j = true →
       (j.cmd.klass ≠ 3 ∨ j.cmd.op ≠ 0x20) → j.abuf = 0 →
       exec (.waitRelease core place) s = .next (s.setJob core place { j with st := .run, since := s.now })) ∧
     (s.job core place = some j → j.st = .wait → s.waitMet j.cmd = false → s.on Reg.tlyCtrlWdEn = true →
       exec (.spinTimeout core place) s = .next ((((s.bump Reg.tlySpinFaultCount).setBit Reg.tlyErrBits 2).endJob core place j
         St.spinTimeout).choices)) ∧
     (∀ all (l : Fin 16), s.on Reg.tlyDumpCmdBusy = false →
       let bs := s.dumpBytes all l
       exec (.tallyDump all l) s =
         .next { (s.hostWrite (s.rd Reg.tlyDumpAddr * 64) bs).wr Reg.tlyDumpCmdBusy 1 with tallyDump := some bs.length }) ∧
     (∀ n, s.tallyDump = some n →
       exec .tallyDumpDone s = .next { (s.wr Reg.tlyDumpCmdBusy 0).wr Reg.tlyDumpLenBytes n with tallyDump := none }))

/-! ## The guest ledger (R200 to R231) -/

/-- R206, R208, R222, R228, R229: the LEDGER descriptor `x` at the head of the ledger's queue, whose record has room, leaves the queue and
has its effect: an ADMIT that passes its checks takes the next FREE entry, and one that fails a check changes nothing but its record and the
count of rejects; a cancel marks a running request or ends a queued one, reaches the Prompt device of one in PREFILLING, and answers 1 for
one already ending or ended; a query stores the entry's words and answers its STATE; a release frees a FAULTED entry, or an ORPHANED one
whose lodge is neither FAULTED nor DRAINING; a handle that names no entry of the lodge is stale; a livery is loaded or dropped. R214 to R221:
a step record waits for room in its ring, and for the records of earlier boundaries, and is then written; at the boundary of a step `endStep`
verifies the batch and queues its records, and once these are written the next step starts, as it does on a slot where none runs. -/
def Obligations.LedgerCommands : Prop :=
  (∀ (s : State) (op : Nat) (q : Cmd), s.nextLedger op = some q → s.hasRoom (s.cqOf q.ring) 1 = true →
     let x : Cmd := { q with done := false }
     let u : State := { s with hif := { s.hif with ledgerQ := s.hif.ledgerQ.drop 1 } }
     (∀ i, op = 1 → u.admitVerdict x = St.ok → u.nextFree = some i →
       exec .ledgerAdmit s = .next ((u.admitStart i x).choices) ∧
       (x.lLog2 = 0 → u.admitStart i x = (((u.takeSlot i).reserve (s.cqOf x.ring)).setEntry i
         (((u.takeSlot i).reserve (s.cqOf x.ring)).newEntry i x)).admitPath i)) ∧
     (op = 1 → u.admitVerdict x ≠ St.ok →
       exec .ledgerAdmit s = .next (((u.ledgerDone x (u.admitVerdict x) 0).bump Reg.ldgRejectCntCount).choices)) ∧
     (∀ i e, op = 2 → ledgerVerdict x = St.ok → u.mine x.lodge x.lHandle = some (i, e) → 7 ≤ e.st ∨ e.cancel = true → e.st ≠ 1 →
       exec .ledgerCancel s = .next ((u.ledgerDone x St.ok 1).choices)) ∧
     (∀ i e a, op = 2 → ledgerVerdict x = St.ok → u.mine x.lodge x.lHandle = some (i, e) → e.st = 3 → e.cancel = false → e.prompt = some a →
       exec .ledgerCancel s = .next ((((u.setEntry i { e with cancel := true }).lsend e.req.lodge (u.memberDev a) 0x23 e.req.tenant
         [handleOf i e]).ledgerDone x St.ok 0).choices)) ∧
     (op = 2 ∨ op = 3 ∨ op = 4 → ledgerVerdict x = St.ok → u.mine x.lodge x.lHandle = none → (op = 3 → x.w 2 % 64 = 0) →
       (op = 2 → exec .ledgerCancel s = .next ((u.ledgerDone x St.staleHandle 0).choices)) ∧
       (op = 3 → exec .ledgerQuery s = .next ((u.ledgerDone x St.staleHandle 0).choices)) ∧
       (op = 4 → exec .ledgerRelease s = .next ((u.ledgerDone x St.staleHandle 0).choices))) ∧
     (∀ i e, op = 2 → ledgerVerdict x = St.ok → u.mine x.lodge x.lHandle = some (i, e) → e.st = 6 → e.cancel = false → e.prompt = none →
       exec .ledgerCancel s = .next (((u.setEntry i { e with cancel := true }).ledgerDone x St.ok 0).choices)) ∧
     (∀ i e, op = 2 → ledgerVerdict x = St.ok → u.mine x.lodge x.lHandle = some (i, e) → e.st = 5 → e.cancel = false →
       exec .ledgerCancel s = .next (((u.endOutside i 3).ledgerDone x St.ok 0).choices)) ∧
     (∀ i e, op = 3 → ledgerVerdict x = St.ok → u.mine x.lodge x.lHandle = some (i, e) → x.w 2 % 64 = 0 →
       u.accessStatus x.lodge (x.w 2) 256 = St.ok →
       exec .ledgerQuery s = .next (((u.pokeHome x.lodge (x.w 2) ((entryWords i e).flatMap (leBytes 8) ++
         List.replicate 128 0)).ledgerDone x St.ok e.st).choices)) ∧
     (∀ i e, op = 4 → ledgerVerdict x = St.ok → u.mine x.lodge x.lHandle = some (i, e) →
       e.st = 9 ∨ (e.st = 10 ∧ u.lodge x.lodge ≠ 3 ∧ u.lodge x.lodge ≠ 4) →
       exec .ledgerRelease s = .next ((((((u.endGroup i e e.agreed).releaseAll i false).modSlot e.req.model fun k =>
         { k with batch := k.batch.filter (· != i), pass := k.pass.filter (· != i), firsts := k.firsts.filter (· != i),
                  ended := k.ended.filter (· != i) }).freeEntry i true).ledgerDone x St.ok 0).choices)) ∧
     (op = 5 → u.liveryVerdict x = St.ok →
       let n := 64 * s.rd Reg.ldgModelCfgNsteer x.vSlot
       let dst := s.rd Reg.ldgLiveryAddr x.vSlot * 8192 + 8192 * x.vLivery
       u.readStatus x.lodge (x.w 2) n = St.ok → u.accessStatus x.lodge dst n = St.ok →
       let v := (u.pokeHome x.lodge dst (u.peek x.lodge (x.w 2) n)).touch x.lodge (x.w 2) n false
       exec .liveryLoad s = .next ((({ v with ldg := { v.ldg with
         liveries := sortDedup (liveryKey x.vSlot x.vLivery :: v.ldg.liveries) } } : State).ledgerDone x St.ok 0).choices)) ∧
     (op = 6 → u.liveryVerdict x = St.ok →
       exec .liveryDrop s = .next ((({ u with ldg := { u.ldg with
         liveries := u.ldg.liveries.filter (· != liveryKey x.vSlot x.vLivery) } } : State).ledgerDone x St.ok 0).choices))) ∧
  (∀ (s : State) (slot : Fin 8) (r : StepRec),
     let k := slot.val
     let x := s.slotOf k
     x.prefill = none → (s.ldg.entries.filter fun e => e.2.req.model == k && decide (9 ≤ e.2.st) && e.2.agreed != []) = [] →
     (s.stepBusy k = true → x.running = true → x.recs = [r] → r.lasts = [] → s.cqLive r.ring = true → s.hasRoom r.ring r.units.length = true →
       s.earlierRec r = false →
       exec (.stepRecordWrite slot) s = .next (((s.setSlot k { x with recs := [], stalled := false }).writeStepRec r).choices)) ∧
     (s.stepBusy k = true → x.running = true → x.recs = [r] → s.cqLive r.ring = true →
       (s.hasRoom r.ring r.units.length = false ∨ s.earlierRec r = true) → x.stalled = false →
       exec (.stepRecordWrite slot) s =
         .next ((((s.setSlot k { x with stalled := true }).bump Reg.ldgRingStallCount).setBit Reg.ldgErrBits 2).choices)) ∧
     (s.stepBusy k = false → s.hlt.held.contains k = false → s.guests k = [] → x.recs = [] → x.running = false → x.shrink = none →
       exec (.stepRecordWrite slot) s = .next (((s.reoffer k).startStep k).choices)) ∧
     (s.active (s.rd Reg.ldgModelCfgLodge k) = true → s.guests k = [] → x.recs = [] → s.atBoundary k = true →
       let t := s.endStep k
       let v := t.flushRecs k (t.slotOf k).recs.length
       (t.slotOf k).running = false → (t.slotOf k).shrink = none → (v.slotOf k).recs = [] → (v.slotOf k).running = false →
       exec (.stepRecordWrite slot) s = .next (((v.reoffer k).startStep k).choices)))

/-- R218, R442, R443: express groups. A member answers a GROUP_CHECK with its verdict and keeps the sequence when that is OK; the leader notes
each answer it waits for, and after the last one goes on with the entry, or refuses the request with the status of the lowest member that
refused; a GROUP_STEP puts its step, position, tokens and model into the member's record, and its END removes the record; a node is added to
the reduction of the entry, or of the record, it names, which then goes as far as it can; an acknowledgement is taken off the leader's list,
and one that reports a fault faults the lodge context; a new group map changes or removes the member's record; a silent member of a request
ends it, and R20 applies to its lodge. A message that names nothing here changes nothing. -/
def Obligations.ExpressGroups : Prop :=
  ∀ (s : State) (m : Msg) (i : Nat) (e : Entry),
    let h := m.fld 1 0 32
    let d := member m.src
    (s.groupVerdict m = St.ok →
      exec (.groupCheck m) s = .next (((s.setMember (farKey m.src h)
        { tenant := m.tenant, slot := m.fld 2 0 3, fb := m.fld 2 8 3, index := m.fld 1 35 6, log2 := m.fld 1 32 3, members := m.word 6,
          livery := if bitAt 16 (m.word 2) then 65536 else m.fld 2 32 16, lens := (m.fld 5 0 32, m.fld 5 32 32), step := 0, pos := 0,
          tokens := [], fallback := false, stepping := false, joined := false, red := Reduce.idle }).answer m 0x29 [h] []).choices)) ∧
    (s.groupVerdict m ≠ St.ok → exec (.groupCheck m) s = .next ((s.answer m 0x29 [h + s.groupVerdict m * 2 ^ 32] []).choices)) ∧
    (s.named h = some (i, e) → e.waitGroup = [d] → m.src = s.memberDev d → m.fld 1 32 8 = St.ok → e.st = 1 → e.failed = none →
      exec (.groupCheckRsp m) s =
        .next (((s.setEntry i { e with waitGroup := [], agreed := e.agreed ++ [d] }).admitPath i).choices)) ∧
    (s.named h = some (i, e) → e.waitGroup = [d] → m.src = s.memberDev d → e.st = 1 →
      (m.fld 1 32 8 ≠ St.ok → e.failed = none →
        exec (.groupCheckRsp m) s = .next (((s.setEntry i { e with waitGroup := [], failed := some (d, m.fld 1 32 8) }).admitFail i
          (m.fld 1 32 8)).choices)) ∧
      (∀ f st, m.fld 1 32 8 = St.ok → e.failed = some (f, st) →
        exec (.groupCheckRsp m) s = .next (((s.setEntry i { e with waitGroup := [], agreed := e.agreed ++ [d] }).admitFail i st).choices))) ∧
    (s.named h = some (i, e) → e.waitGroup.contains d = true → m.src = s.memberDev d → e.waitGroup.filter (· != d) ≠ [] →
      (m.fld 1 32 8 = St.ok → exec (.groupCheckRsp m) s =
        .next ((s.setEntry i { e with waitGroup := e.waitGroup.filter (· != d), agreed := e.agreed ++ [d] }).choices)) ∧
      (m.fld 1 32 8 ≠ St.ok → e.failed = none → exec (.groupCheckRsp m) s =
        .next ((s.setEntry i { e with waitGroup := e.waitGroup.filter (· != d), failed := some (d, m.fld 1 32 8) }).choices))) ∧
    (bitAt 37 (m.word 2) = true →
      exec (.groupStep m) s = .next (({ s with ldg := { s.ldg with members := Tbl.del (farKey m.src h) s.ldg.members } } : State).choices)) ∧
    (∀ r, bitAt 37 (m.word 2) = false → Tbl.find (farKey m.src h) s.ldg.members = some r →
      let x : Member := { r with
        step := m.fld 1 32 32, pos := m.fld 2 0 32, tokens := (natsFrom 0 (m.fld 2 32 4)).map fun n => m.fld (3 + n / 2) (32 * (n % 2)) 32,
        fallback := bitAt 36 (m.word 2), stepping := true, joined := false }
      ∃ t : State, exec (.groupStep m) s = .next (t.choices) ∧ t = { s with ldg := { s.ldg with members := t.ldg.members } } ∧
        Tbl.find (farKey m.src h) t.ldg.members = some x ∧
        ∀ k, k ≠ farKey m.src h → Tbl.find k t.ldg.members = Tbl.find k s.ldg.members) ∧
    (s.named h = none → s.ldg.members.find? (fun r => r.1 % 2 ^ 32 == h && bitAt d r.2.members) = none →
      exec (.groupCheckRsp m) s = .next (s.choices) ∧ exec (.groupNode m) s = .next (s.choices) ∧
      exec (.groupStepAck m) s = .next (s.choices) ∧ exec (.groupMapAck m) s = .next (s.choices)) ∧
    (s.named h = some (i, e) → e.st = 6 → e.group.contains d = true →
      let x := (m.fld 1 32 32, m.fld 2 0 16, d, m.body.take (4 * m.fld 3 0 32))
      exec (.groupNode m) s = .next ((((s.setEntry i { e with red := e.red.add x }).modSlot e.req.model fun x =>
        { x with nodeAt := Tbl.put d s.now x.nodeAt }).reduceEntry i (e.red.todo.length + 1)).choices)) ∧
    (s.named h = none → ∀ k r, s.ldg.members.find? (fun r => r.1 % 2 ^ 32 == h && bitAt d r.2.members) = some (k, r) →
      let x := (m.fld 1 32 32, m.fld 2 0 16, d, m.body.take (4 * m.fld 3 0 32))
      exec (.groupNode m) s = .next (((s.setMember k { r with red := r.red.add x }).reduceMember k (r.red.todo.length + 1)).choices)) ∧
    (s.named h = some (i, e) → e.waitStep.contains d = true → m.fld 2 0 8 = St.ok →
      exec (.groupStepAck m) s = .next ((s.setEntry i { e with waitStep := e.waitStep.filter (· != d) }).choices)) ∧
    (s.named h = some (i, e) → e.waitStep.contains d = true → m.fld 2 0 8 ≠ St.ok →
      exec (.groupStepAck m) s = .next (((s.setEntry i { e with waitStep := e.waitStep.filter (· != d) }).faultLodge e.req.lodge
        (m.fld 2 0 8) 3 0xFF 0xFF e.req.tag).choices)) ∧
    (Tbl.find (farKey m.src h) s.ldg.members = none →
      exec (.groupMap m) s = .next ((s.answer m 0x27 [h + St.staleHandle * 2 ^ 32] []).choices)) ∧
    (∀ r, Tbl.find (farKey m.src h) s.ldg.members = some r → bitAt (member s.self) (m.word 2) = false →
      exec (.groupMap m) s = .next ((({ s with ldg := { s.ldg with members := Tbl.del (farKey m.src h) s.ldg.members } } :
        State).answer m 0x27 [h] []).choices)) ∧
    (∀ r, Tbl.find (farKey m.src h) s.ldg.members = some r → bitAt (member s.self) (m.word 2) = true →
      let x : Member := { r with
        log2 := m.fld 1 32 3, members := m.word 2, index := ((bitList 64 (m.word 2)).filter (· < member s.self)).length }
      exec (.groupMap m) s = .next (((s.setMember (farKey m.src h) x).answer m 0x27 [h] []).choices)) ∧
    (s.named h = some (i, e) →
      exec (.groupMapAck m) s = .next ((s.setEntry i { e with waitMap := e.waitMap.filter (· != d) }).choices)) ∧
    (∀ a r, s.entry i = some e → e.waitGroup = a :: r → e.st = 1 →
      exec (.groupCheckTimeout i) s = .next (((s.admitFail i St.spanTimeout).orphanEntry e (s.memberDev a)).choices)) ∧
    (∀ a r, i < 65536 → s.entry i = some e → e.waitStep ++ e.red.missing (member s.self) e.group = a :: r → e.st < 8 →
      exec (.groupTimeout i) s = .next ((s.orphanEntry e (s.memberDev a)).choices)) ∧
    (∀ k x l a r, s.ldg.members[i]? = some (k, x) → x.joined = true → x.red.missing (member s.self) x.group = a :: r →
      s.tenantLodge x.tenant = some l →
      exec (.groupTimeout (65536 + i)) s = .next ((s.orphanLodge l St.spanTimeout 3 0xFF 0xFF 0 x.tenant (s.memberDev a)).choices)) ∧
    (∀ a r, s.entry i = some e → e.waitMap = a :: r → e.st < 8 →
      exec (.groupMapTimeout i) s = .next ((s.orphanEntry e (s.memberDev a)).choices))

/-- R209, R211, R222, R243, R248, R250: the long paths of a prefill. A Prompt device accepts an offer, or answers BUSY, MODEL_MISMATCH or
NO_PAGES; the acknowledgement moves the entry to PREFILLING, or the request is offered to the next device; PREFILL_DONE brings the first token
and on the main path asks HOME for the handover, or ends or faults the request; a cancel reaches the prefill; a silent Prompt device, or HOME,
orphans the lodge context. The home of a PAGE_OP allocates, reads the list it has to release or share, or refuses; the answers of a request
that is ending are collected; the layers acknowledged are noted; a handover brings the pages' entries and the entry to READY. A FENCE is
answered at once where no prefill runs. -/
def Obligations.PrefillPaths : Prop :=
  ∀ (s : State) (m : Msg) (i : Nat) (e : Entry),
    let h := m.fld 1 0 32
    let d := member m.src
    (∀ l k fb, s.rd Reg.lodPersonaPersona = 1 → s.on Reg.lodPersonaDrain = false → s.tenantLodge m.tenant = some l →
      s.keySlot l (m.fld 3 0 48) = some k → s.keySlot l (m.fld 4 0 48) = some fb → m.fld 2 32 2 ≠ 1 →
      exec (.prefill m) s = .next ((((s.takeSub (farKey m.src h) ⟨m, l, k, fb, true, 0, [], [], false, s.ldg.orders, 0, none⟩).ackPrefill m
        St.ok).startPrefill k).choices)) ∧
    (s.rd Reg.lodPersonaPersona ≠ 1 ∨ s.on Reg.lodPersonaDrain = true →
      exec (.prefill m) s = .next ((s.ackPrefill m St.busy).choices)) ∧
    (s.rd Reg.lodPersonaPersona = 1 → s.on Reg.lodPersonaDrain = false →
      (s.tenantLodge m.tenant = none → exec (.prefill m) s = .next ((s.ackPrefill m St.modelMismatch).choices)) ∧
      (∀ l, s.tenantLodge m.tenant = some l →
        (s.keySlot l (m.fld 3 0 48) = none ∨ s.keySlot l (m.fld 4 0 48) = none →
          exec (.prefill m) s = .next ((s.ackPrefill m St.modelMismatch).choices)) ∧
        (∀ k fb, s.keySlot l (m.fld 3 0 48) = some k → s.keySlot l (m.fld 4 0 48) = some fb → m.fld 2 32 2 = 1 →
          s.rd Reg.ldgModelHomeHome k = 0xFFFFFF → exec (.prefill m) s = .next ((s.ackPrefill m St.noPages).choices)))) ∧
    (s.named h = some (i, e) → e.st = 2 → e.offered = some d → m.src = s.memberDev d → m.fld 1 32 8 = St.ok →
      let u : State := { s with ldg := { s.ldg with queuedTokens := Tbl.set 0 d (m.fld 1 40 24) s.ldg.queuedTokens } }
      exec (.prefillAck m) s = .next (((u.setEntry i { e with offered := none, prompt := some d, busy := [] }).toSt i 3).choices)) ∧
    (s.named h = some (i, e) → e.st = 2 → e.offered = some d → m.src = s.memberDev d → m.fld 1 32 8 ≠ St.ok →
      m.fld 1 32 8 ≠ St.noPages ∨ e.path ≠ 1 →
      let u : State := { s with ldg := { s.ldg with queuedTokens := Tbl.set 0 d (m.fld 1 40 24) s.ldg.queuedTokens } }
      exec (.prefillAck m) s = .next (((u.setEntry i { e with offered := none, busy := e.busy ++ [d] }).offer i).choices)) ∧
    (s.named h = some (i, e) → e.st = 3 → e.path = 2 → e.prompt = some d → m.src = s.memberDev d → m.fld 1 32 8 = St.ok →
      exec (.prefillDone m) s = .next (((((s.setEntry i { e with doneLayers := some (m.fld 2 32 8) }).firstToken i
        (m.fld 2 0 32)).modSlot e.req.model fun x => { x with firsts := x.firsts ++ [i] }).pushSettle i).choices)) ∧
    (s.named h = some (i, e) → e.st = 3 → e.prompt = some d → m.src = s.memberDev d →
      (e.path = 1 → m.fld 1 32 8 = St.ok →
        let t := (((s.setEntry i { e with doneLayers := some (m.fld 2 32 8) }).firstToken i (m.fld 2 0 32)).modSlot e.req.model fun x =>
          { x with firsts := x.firsts ++ [i] })
        exec (.prefillDone m) s = .next (((t.toSt i 4).lsend e.req.lodge (t.rd Reg.ldgModelHomeHome e.req.model) 0x43 e.req.tenant
          [handleOf i e + m.src * 2 ^ 32 + (t.toSt i 4).kvPoolOf e * 2 ^ 56, e.kvList.2,
           e.shared + (e.first - e.shared) * 2 ^ 32]).choices)) ∧
      (e.path ≠ 0 → m.fld 1 32 8 = St.memUncorr →
        exec (.prefillDone m) s = .next ((s.faultLodge e.req.lodge St.memUncorr 3 0xFF 0xFF e.req.tag).choices)) ∧
      (e.path ≠ 0 → m.fld 1 32 8 ≠ St.ok → m.fld 1 32 8 ≠ St.memUncorr →
        exec (.prefillDone m) s = .next ((s.endOutside i (if m.fld 1 32 8 = St.cancelled && e.cancel then 3 else 4)).choices))) ∧
    (∀ x, s.sub (farKey m.src h) = some x →
      exec (.prefillCancel m) s = .next (((s.setSub (farKey m.src h) { x with cancel := true }).settlePrompt).choices)) ∧
    (s.sub (farKey m.src h) = none → exec (.prefillCancel m) s = .next (s.choices)) ∧
    (∀ a, s.entry i = some e → e.prompt = some a → e.st = 3 → e.path ≠ 0 → e.doneLayers = none →
      exec (.prefillTimeout i) s = .next ((((s.setBit Reg.ldgErrBits 0).orphanEntry e (s.memberDev a))).choices)) ∧
    (∀ l, s.tenantLodge m.tenant = some l → s.lodge l = 1 → m.fld 4 8 2 ≠ 0 → m.fld 4 8 2 ≠ 3 → m.fld 2 32 32 ≠ 0 →
      exec (.pageOp m) s = .next (((listPieces (m.fld 2 0 32) (m.fld 2 32 32)).foldl (fun (s : State) k =>
        (s.ask (s.listPend 15 l m.src m.tenant (m.word 3 + 8 * k.1) (8 * k.2) 0 [])).1.putPageOp s.spn.nextTag (m, k.1, k.2)) s).choices)) ∧
    (∀ l, s.tenantLodge m.tenant = some l → s.lodge l = 1 → m.fld 4 8 2 = 0 → m.fld 2 0 32 = 0 → 2 ≤ s.rd Reg.lodPersonaPersona →
      s.on Reg.lodPersonaDrain = false → exec (.pageOp m) s = .next ((s.homeAlloc l m noParent).choices)) ∧
    (∀ l, s.tenantLodge m.tenant = some l → s.lodge l = 1 → m.fld 4 8 2 = 0 → m.fld 2 0 32 ≠ 0 → 2 ≤ s.rd Reg.lodPersonaPersona →
      s.on Reg.lodPersonaDrain = false → exec (.pageOp m) s = .next ((s.listRead l m (m.fld 2 0 32 - 1) 1).choices)) ∧
    (s.tenantLodge m.tenant = none → exec (.pageOp m) s = .next ((s.pageRsp m St.noLodge).choices)) ∧
    (∀ l, s.tenantLodge m.tenant = some l →
      (s.lodge l = 4 ∨ s.lodge l = 5 → exec (.pageOp m) s = .next ((s.pageRsp m St.notReady).choices)) ∧
      (s.lodge l ≠ 4 → s.lodge l ≠ 5 →
        (m.fld 4 8 2 = 0 → s.rd Reg.lodPersonaPersona < 2 ∨ s.on Reg.lodPersonaDrain = true →
          exec (.pageOp m) s = .next ((s.pageRsp m St.noPages).choices)) ∧
        (m.fld 4 8 2 = 3 → exec (.pageOp m) s = .next ((s.pageRsp m St.badOperand).choices)) ∧
        (m.fld 4 8 2 = 1 ∨ m.fld 4 8 2 = 2 → m.fld 2 32 32 = 0 → exec (.pageOp m) s = .next ((s.pageRsp m St.ok).choices)))) ∧
    (∀ a n, s.named h = some (i, e) → e.pageOps.find? (·.1 == m.src) = some (m.src, a, n, 1) →
      e.pageOps.erase (m.src, a, n, 1) ≠ [] →
      e.st = 7 → exec (.pageRsp m) s = .next ((s.setEntry i { e with pageOps := e.pageOps.erase (m.src, a, n, 1) }).choices)) ∧
    (∀ a n, s.named h = some (i, e) → e.pageOps = [(m.src, a, n, 1)] → e.st = 7 →
      exec (.pageRsp m) s = .next (((s.setEntry i { e with pageOps := [] }).toDone i).choices)) ∧
    (s.named h = some (i, e) → e.st = 3 → e.path ≠ 0 →
      exec (.layerAck m) s = .next (((s.setEntry i { e with layers := sortDedup ((m.fld 1 32 8 + 256 * m.fld 1 40 1) ::
        e.layers) }).pushSettle i).choices)) ∧
    (s.named h = none → exec (.layerAck m) s = .next ((s.bump Reg.wanStaleCount).choices) ∧
      exec (.handoverRsp m) s = .next ((s.bump Reg.wanStaleCount).choices) ∧ exec (.prefillAck m) s = .next (s.choices) ∧
      exec (.prefillDone m) s = .next (s.choices)) ∧
    (s.named h = some (i, e) → e.st = 4 → m.src = s.rd Reg.ldgModelHomeHome e.req.model → m.fld 1 32 8 = St.ok → e.cancel = false →
      let ws := s.listWords e.req.lodge e.kvList.2 e.shared (e.first - e.shared)
      let t := ((natsFrom e.shared ws.length).zip ws).foldl (fun t x => Tbl.put x.1 x.2 t) e.pages.1
      exec (.handoverRsp m) s = .next (((s.setEntry i { e with pages := (t, e.pages.2) }).toSt i 5).choices)) ∧
    (s.named h = some (i, e) → e.st = 4 → m.src = s.rd Reg.ldgModelHomeHome e.req.model →
      (m.fld 1 32 8 = St.spanTimeout → exec (.handoverRsp m) s = .next ((s.orphanEntry e m.src).choices)) ∧
      (m.fld 1 32 8 ≠ St.ok → m.fld 1 32 8 ≠ St.spanTimeout →
        exec (.handoverRsp m) s = .next ((s.faultLodge e.req.lodge (m.fld 1 32 8) 3 0xFF 0xFF e.req.tag).choices))) ∧
    (s.named h = some (i, e) → e.st = 4 →
      exec (.handoverTimeout h) s =
        .next ((((s.setBit Reg.wanErrBits 2).orphanEntry e (s.rd Reg.ldgModelHomeHome e.req.model))).choices)) ∧
    (s.ldg.subs = [] → s.wan.fences = [] →
      exec (.fence m) s = .next ((({ s with wan := { s.wan with quiet := s.wan.quiet ++ [(m.src, h)] } } : State).answer m 0x45 [h] []).choices))

/-! ## Wain (R232 to R258) -/

/-- R233 to R241, R250, R252: WAIN_MOVE within this device takes the bytes, to another device opens a stream, and from one sends a PULL;
WAIN_PUSH_KV with its list here opens a stream for each home, and else reads the list first; a block that passes every check is written and
acknowledged, or waits for an engine or its regulator; a damaged block, or one of no lodge, is refused; the last acknowledgement closes its
stream; a block refused for its damage is sent again raw; a stream with no answer fails; a waiting stream takes an engine; a PULL opens a
stream at its source, or is refused. -/
def Obligations.WainStreams : Prop :=
  ∀ (s : State) (core : Fin 160) (place : Fin 4) (j : Job) (m : Msg),
    let c := core.val
    let p := wainPlace place
    let y := j.cmd
    let l := y.lodge
    let u := s.setJob c p j
    (Running s c p 4 1 j → j.result = 0 → y.wSrcDev = s.self → y.wDstDev = s.self → s.readStatus l (y.w 1) y.wLen = St.ok →
      s.accessStatus l (y.w 2) y.wLen = St.ok →
      exec (.wainMove core place) s = .next (((u.touch l (y.w 1) y.wLen false).toFence c p
        { j with direct := [(y.w 2, s.peek l (y.w 1) y.wLen)] }).choices)) ∧
    (let t := u.setJob c p { j with result := 1 }
     (Running s c p 4 1 j → j.result = 0 → y.wSrcDev = s.self → y.wDstDev ≠ s.self → s.noRoute l y.wDstDev = false →
       exec (.wainMove core place) s = .next ((t.takeId.1.openStream s.wan.nextId
         { core := c, place := p, cmd := some y, dst := y.wDstDev, id := s.wan.nextId, tenant := y.wTenant, lodge := l, engine := none,
           compress := y.wCompress, kv := none, segs := [(y.w 1, y.w 2, y.wLen)], next := 0, open_ := [] }).choices)) ∧
     (Running s c p 4 1 j → j.result = 0 → y.wSrcDev ≠ s.self → s.noRoute l y.wSrcDev = false →
       exec (.wainMove core place) s = .next ((t.takeId.1.sendPull s.wan.nextId
         { core := c, place := p, cmd := y, dev := y.wSrcDev, engine := none, got := [] }).choices)) ∧
     (Running s c p 4 2 j → j.result = 0 → y.fld 3 0 24 ≠ s.self → s.noRoute l (y.fld 3 0 24) = false →
       exec (.wainPushKv core place) s = .next (((pieces (8 * y.wCount)).foldl (fun s (o, n) =>
         s.issue { kind := 19, engine := 8, dst := y.fld 3 0 24, lodge := l, core := c, place := p, cmd := some y, addr := 0,
                   off := y.w 2 + 8 * y.wFirst + o, len := n, aux := o, stale := false,
                   msg := mkMsg 0x61 s.self y.wTenant [0, y.w 2 + 8 * y.wFirst + o, n] [], reply := none }) t).choices))) ∧
    (Running s c p 4 2 j → j.result = 0 → y.fld 3 0 24 = s.self → s.readStatus l (y.w 2 + 8 * y.wFirst) (8 * y.wCount) = St.ok →
      exec (.wainPushKv core place) s = .next (((u.setJob c p { j with result := 1 }).pushGo c p { j with result := 1 }
        (s.listWords l (y.w 2) y.wFirst y.wCount)).choices)) ∧
    (∀ bs k, blockDamaged m = false → decodePayload (bitAt 12 m.kind) (m.fld 2 20 20) (m.fld 2 0 17) m.body = some bs →
      s.tenantLodge m.tenant = some k → s.on Reg.wanCtrlEnable = true → bitAt 13 m.kind = false → m.word 3 % 64 = 0 →
      s.accessStatus k (m.word 3) (m.fld 2 0 17) = St.ok → s.dirIn k (m.word 3) bs.length = [] → s.pullOf m = none →
       s.lodge k = 1 → Tbl.find (recvKey m) s.wan.recvs = none →
       (∀ e, s.freeEngine = some e → s.mayTake k (m.word 3) = true →
         let u := s.putRecv (recvKey m) e
         exec (.wainBlock m) s =
           .next (((((u.chargePath (u.pathAt k (m.word 3)) k bs.length).poke k (m.word 3) bs).count Reg.wanBlkRxCount).ackBlock m).choices)) ∧
       (s.freeEngine = none ∨ s.mayTake k (m.word 3) = false →
         exec (.wainBlock m) s = .next (({ s with wan := { s.wan with held := s.wan.held ++ [m] } } : State).choices))) ∧
    (blockDamaged m = true → exec (.wainBlock m) s = .next ((s.nak m 1 0).choices)) ∧
    (blockDamaged m = false → (decodePayload (bitAt 12 m.kind) (m.fld 2 20 20) (m.fld 2 0 17) m.body).isSome = true →
      s.tenantLodge m.tenant = none → exec (.wainBlock m) s = .next ((s.nak m 2 St.noLodge).choices)) ∧
    (∀ k x, s.streamOf m = some (k, x) → x.open_.filter (·.1 != m.fld 1 32 32) = [] → x.total ≤ x.next →
      exec (.blockAck m) s = .next (((((s.setStream k { x with open_ := [] }).closeStream k).wainDone x.core x.place).settlePrompt).choices)) ∧
    (∀ k x q n, let v := s.bump Reg.wanNakRxCount
      v.streamOf m = some (k, x) → m.fld 2 0 8 = 1 → x.open_.find? (·.1 == m.fld 1 32 32) = some (q, n) →
      n < v.rd Reg.wanCfgResendMax → v.streamLive x = true → (v.sendBlock x q true).2 = St.ok →
      exec (.blockNak m) s = .next ((((v.sendBlock x q true).1.setStream k { x with
        open_ := x.open_.map fun b => if b.1 = q then (q, n + 1) else b }).bump Reg.wanResendCount).choices)) ∧
    (∀ k x, Tbl.find k s.wan.streams = some x → x.open_ ≠ [] →
      exec (.blockTimeout k) s = .next ((s.streamFail k x St.spanTimeout).choices)) ∧
    (∀ k x, Tbl.find k s.wan.streams = some x → x.engine = none →
      exec (.streamPlace k) s = .next ((s.setStream k { x with engine := s.freeEngine }).pump k)) ∧
    (Tbl.find (recvKey m) s.wan.streams = none → Tbl.find (recvKey m) s.wan.pulls = none → s.freeEngine ≠ none → s.wan.held = [m] →
      exec (.streamPlace (recvKey m)) s = .next (({ s with wan := { s.wan with held := [] } } : State).blockIn m)) ∧
    (∀ k, s.tenantLodge m.tenant = some k → s.on Reg.wanCtrlEnable = true → s.readStatus k (m.word 1) (m.fld 3 0 40) = St.ok →
      exec (.pull m) s = .next ((s.openStream ((m.src + 1) * 2 ^ 32 + m.fld 4 0 32)
        { core := 160, place := 15, cmd := none, dst := m.src, id := m.fld 4 0 32, tenant := m.tenant, lodge := k, engine := none,
          compress := bitAt 40 (m.word 3), kv := none, segs := [(m.word 1, m.word 2, m.fld 3 0 40)], next := 0, open_ := [] }).choices)) ∧
    (s.tenantLodge m.tenant = none → exec (.pull m) s = .next ((s.refusePull m St.noLodge).choices))

/-- R244, R245: a handover at the home. One it cannot take ends with NO_LODGE, NOT_READY or BAD_PAGELIST; else its list is read from the
requester, and FENCE goes out at once where there is nothing to read; FENCE_ACK notes the requests accepted earlier; while one of those is not
complete, or the fence is unanswered, OWNERSHIP_CHANGE waits; then every page that the old owner holds unshared, or the new one already, gets
the new owner and the copies of its lines are recalled, and with none out the handover ends with OK; if any page is neither, none changes and
it ends with NOT_OWNER; a fence without answer ends it with SPAN_TIMEOUT. -/
def Obligations.Handover : Prop :=
  ∀ (s : State) (m : Msg) (dev handle : Nat) (h : Hand),
    let k := farKey dev handle
    (∀ l, s.tenantLodge m.tenant = some l → s.on Reg.wanCtrlEnable = true → s.lodge l ≠ 4 → s.lodge l ≠ 5 →
      m.fld 3 0 32 + m.fld 3 32 32 ≤ 32768 →
      let n := farKey m.src (m.fld 1 0 32)
      let r := s.handReads l m
      let g : Hand := ⟨m, l, s.handEngine, [], [], false, [], none⟩
      (r.2 = [] → exec (.handoverReq m) s = .next (((r.1.setHand n g).sendFence g).choices)) ∧
      (r.2 ≠ [] → exec (.handoverReq m) s = .next ((r.1.setHand n { g with reading := r.2 }).choices))) ∧
    (let n := farKey m.src (m.fld 1 0 32)
     (s.tenantLodge m.tenant = none →
       exec (.handoverReq m) s = .next ((s.endHand n ⟨m, 0, s.handEngine, [], [], false, [], none⟩ St.noLodge 0).choices)) ∧
     (∀ l, s.tenantLodge m.tenant = some l →
       let g : Hand := ⟨m, l, s.handEngine, [], [], false, [], none⟩
       (s.on Reg.wanCtrlEnable = false ∨ s.lodge l = 4 ∨ s.lodge l = 5 →
         exec (.handoverReq m) s = .next ((s.endHand n g St.notReady 0).choices)) ∧
       (s.on Reg.wanCtrlEnable = true → s.lodge l ≠ 4 → s.lodge l ≠ 5 → 32768 < m.fld 3 0 32 + m.fld 3 32 32 →
         exec (.handoverReq m) s = .next ((s.endHand n g St.badPagelist 0).choices)))) ∧
    (∀ i g, (s.wan.hands.find? fun h => h.2.msg.fld 1 0 32 == m.fld 1 0 32 && h.2.msg.fld 1 32 24 == m.src && !h.2.fenced &&
        h.2.reading == []) = some (i, g) →
      exec (.fenceAck m) s = .next ((s.setHand i { g with fenced := true, earlier := s.acceptedFrom m.src }).choices)) ∧
    ((s.wan.hands.find? fun h => h.2.msg.fld 1 0 32 == m.fld 1 0 32 && h.2.msg.fld 1 32 24 == m.src && !h.2.fenced &&
        h.2.reading == []) = none → exec (.fenceAck m) s = .next (s.choices)) ∧
    (Tbl.find k s.wan.hands = some h → s.handWaits h = true → exec (.ownershipChange dev handle) s = .next (s.choices)) ∧
    (∀ pool st, Tbl.find k s.wan.hands = some h → s.handWaits h = false → s.pool h.lodge (h.msg.fld 1 56 3) = (some pool, st) →
      (∀ n ∈ h.pages, s.hdrStatus h.lodge pool n = St.ok) →
      let r := (s.newOwner h pool).recallPages h pool
      ((∀ n ∈ h.pages, s.movesOwner h pool n = true) →
        (r.2 = [] → exec (.ownershipChange dev handle) s =
          .next ((r.1.endHand k { h with recalls := some [] } St.ok h.pages.length).choices)) ∧
        (r.2 ≠ [] → exec (.ownershipChange dev handle) s = .next ((r.1.setHand k { h with recalls := some r.2 }).choices))) ∧
      (∀ n ∈ h.pages, s.movesOwner h pool n = false → exec (.ownershipChange dev handle) s = .next ((s.endHand k h St.notOwner 0).choices))) ∧
    (Tbl.find k s.wan.hands = some h → h.fenced = false → h.reading = [] →
      exec (.fenceTimeout dev handle) s = .next ((s.endHand k h St.spanTimeout 0).choices)) ∧
    (Tbl.find k s.wan.hands = none → exec (.ownershipChange dev handle) s = .next (s.choices) ∧
      exec (.fenceTimeout dev handle) s = .next (s.choices))

/-! ## Embeddings (R259 to R275) -/

/-- R261, R264, R265: an EMBED command in RUN. Its indices are split by home, in the order of the table's homes; the homes of other devices
get their message first, this device its own last. -/
def Obligations.EmbedCommands : Prop :=
  ∀ (s : State) (core : Fin 160) (place : Fin 8) (j : Job) (e : ETable),
    let c := core.val
    let p := nearPlace place
    let x := j.cmd
    let u := s.setJob c p j
    j.result = 0 → (s.table x.lodge x.eTable).1 = some e →
    (∀ (i : Instr) op, ((i = .embLookup core place ∧ op = 1) ∨ (i = .embPrefetch core place ∧ op = 2 ∧ 4 ≤ s.stage)) →
      Running s c p 8 op j → u.embRead x = St.ok →
      (op = 1 → u.accessStatus x.lodge x.eOut (x.eCount * e.d * (if x.eFmt = 0 then 4 else 2)) = St.ok) →
      (∀ q ∈ u.embIdx x, q.2.2.1 < e.rows) →
      let ix := u.embIdx x
      let v := (u.touchReads x.lodge ([(x.eBag, 4 * (x.eCount + 1)), (x.eIdx, 4 * ix.length)] ++
        (if x.eWeighted then [(x.eWgt, 4 * ix.length)] else []))).setJob c p { j with result := 1 }
      let parts := (natsFrom 0 e.h).filterMap fun h =>
        let part := ix.filter fun q => q.2.2.1 % e.h == h
        if part = [] then none else some (h, e.homes.getD h 0, v.embReqMsg x e part)
      let order := (parts.filter fun q => q.2.1 != s.self) ++ parts.filter fun q => q.2.1 == s.self
      order ≠ [] → (∀ q ∈ order, v.noRoute x.lodge q.2.1 = false) →
      exec i s = .next ((v.embSendAll c p x 10 order).choices)) ∧
    (Running s c p 8 2 j → s.stage < 4 → exec (.embPrefetch core place) s = .next ((u.toFence c p j).choices)) ∧
    (Running s c p 8 3 j → u.embRead x = St.ok →
      let bytes (i : Nat) : Nat := match rowFmt (bits 32 4 (u.updRec x i 0)) with | some f => f.bytesOf e.d | none => 0
      (∀ i, i < x.eCount → u.readStatus x.lodge (u.updRec x i 3) (bytes i) = St.ok) →
      let v := u.setJob c p { j with result := 1 }
      let parts := (natsFrom 0 e.h).filterMap fun h =>
        let mine := (natsFrom 0 x.eCount).filter fun i => bits 0 32 (v.updRec x i 0) % e.h == h
        let body := mine.flatMap fun i =>
          let w0 := v.updRec x i 0
          let n := bytes i
          leBytes 8 (w0 / 2 ^ 32 * 2 ^ 32 + bits 0 32 w0 / e.h) ++ leBytes 8 (v.updRec x i 1) ++ leBytes 8 (v.updRec x i 2) ++ leBytes 8 0 ++
            v.peek x.lodge (v.updRec x i 3) n ++ List.replicate (ceilDiv n 64 * 64 - n) 0
        if mine = [] then none
        else some (h, e.homes.getD h 0, mkMsg 0x52 s.self (v.tenantFor x.lodge) [x.eTable * 2 ^ 32, e.key, mine.length] body)
      let order := (parts.filter fun q => q.2.1 != s.self) ++ parts.filter fun q => q.2.1 == s.self
      (∀ q ∈ order, v.noRoute x.lodge q.2.1 = false) →
      exec (.embUpdate core place) s = .next ((v.embSendAll c p x 11 order).choices))

/-- R261 to R265, R271: embedding messages at the home and their answers. A request is served and answered; an update whose first row is to
be applied waits for ROW_FLIP, which writes the row and flips its entry; the last answer of a command finishes it; a request without answer
orphans the lodge context. -/
def Obligations.EmbedMessages : Prop :=
  ∀ (s : State) (m : Msg) (tag l : Nat) (pd : Pend) (j : Job),
    (∀ v a w, s.emb.queue = [] → s.emb.held = [] → s.embGate { m with kind := 0x50 } = St.ok → s.tenantLodge m.tenant = some l →
      s.embTry ⟨{ m with kind := 0x50 }, l, 0, 0, 0, none⟩ = (v, a, w) →
      (∀ r, a = some r → let t := v.embDeliver l m.src r
        exec (.embReq m) s = .next (({ t with emb := { t.emb with queue := [] } } : State).choices)) ∧
      (a = none → exec (.embReq m) s = .next (({ v with emb := { v.emb with queue := [w] } } : State).choices))) ∧
    (512 ≤ s.emb.queue.length →
      exec (.embReq m) s = .next (({ s with emb := { s.emb with held := s.emb.held ++ [{ m with kind := 0x50 }] } } : State).choices)) ∧
    (∀ e, s.emb.queue = [] → s.emb.held = [] → s.embGate { m with kind := 0x52 } = St.ok → s.tenantLodge m.tenant = some l →
      (s.table l (m.fld 1 32 8)).1 = some e → m.fld 3 0 16 ≠ 0 → s.updRow l e { m with kind := 0x52 } 0 = 0 →
      exec (.embUpd m) s =
        .next (({ s with emb := { s.emb with queue := [⟨{ m with kind := 0x52 }, l, 0, 0, 0, none⟩] } } : State).choices)) ∧
    (∀ w e, (s.emb.queue.find? fun w => w.msg.kind == 0x52) = some w → (s.table w.lodge (w.msg.fld 1 32 8)).1 = some e →
      s.updRow w.lodge e w.msg w.next = 0 →
      let u := s.flipRow w.lodge e w.msg w.next
      exec .rowFlip s = .next (({ u with emb := { u.emb with queue := u.emb.queue.map fun v =>
        if v = w then { v with next := v.next + 1, applied := v.applied + 1 } else v } } : State).embPump)) ∧
    (∀ k kind, (kind = 10 ∨ kind = 11) → Tbl.find (m.fld 1 0 32) s.spn.out = some pd → pd.kind = kind → pd.reply = none →
      s.owner pd = some j →
      (m.fld 1 32 8 = St.ok ∨ m.fld 1 32 8 = St.badIndex) →
      let u := s.keepReply (m.fld 1 0 32) m
      u.job pd.core pd.place = some k → u.allAnswered pd.core pd.place = true →
      exec (if kind = 10 then .embRsp m else .embUpdRsp m) s = .next ((u.embFinish pd.core pd.place k).choices)) ∧
    (Tbl.find tag s.spn.out = some pd → (pd.kind = 10 ∨ pd.kind = 11) → pd.reply = none → s.owner pd = some j →
      let u := (s.bump Reg.embTimeoutCntCount).setBit Reg.embErrBits 2
      exec (.embReplyTimeout tag) s = .next ((((u.closeTag tag).orphanCmd pd.core pd.place pd.dst).dropReplies pd.core pd.place).choices))

/-! ## The scratchpads (R71 to R75) -/

/-- R71 to R75: the tile scratchpads. A write in a window gives its word what the window makes of it and leaves every other byte of every
scratchpad; above 0xB_FFFF it writes nothing and its command's status is BAD_OPERAND. Of two masters that ask for the write port of a bank in
one cycle its home master is granted, the other's request stays and is granted next, and both writes take place. A read that meets a write of
its word in the same cycle returns the word as written. A core that begins a command of another lodge than its last has every byte of its
scratchpads zero, and no byte of another core's changed; one of the same lodge leaves them. -/
def Obligations.Scratchpads : Prop :=
  (∀ (p : Pad) (c t : Nat) (x y : PadReq), Memory.wf p.bytes = true →
     (∀ w a, padWindow x.addr = some (w, a) →
       let u := p.write c t x
       u.word c t a = padMerge w (p.word c t a) x.data x.enable ∧ u.readTurn = p.readTurn ∧ u.writeTurn = p.writeTurn ∧
       ∀ k, k < padKey c t (a / 64 * 64) ∨ padKey c t (a / 64 * 64) + 64 ≤ k → Tbl.get 0 k u.bytes = Tbl.get 0 k p.bytes) ∧
     (0xBFFFF < x.addr → padStatus x.addr = St.badOperand ∧ p.write c t x = p) ∧
     (x.write = true → y.write = true → bankOf x.at_ = bankOf y.at_ → x.master = homeMaster (bankOf x.at_) → y.master ≠ x.master →
       let r := p.cycle c t [y, x]
       r.1.bytes = (p.write c t x).bytes ∧ r.2 = ([y], []) ∧ (p.traffic c t [y, x]).bytes = ((p.write c t x).write c t y).bytes) ∧
     (∀ w, x.write = true → y.write = false → x.at_ / 64 = y.at_ / 64 → (padWindow x.addr).map (·.1) = some w →
       let r := p.cycle c t [y, x]
       r.1.bytes = (p.write c t x).bytes ∧ r.2.1 = [] ∧ r.2.2 = [(y, padMerge w (p.word c t x.at_) x.data x.enable)])) ∧
  (∀ (s : State) (c : Nat) (j : Job),
     let u := s.beginCompute c j
     ((s.core c).spLodge = some j.cmd.lodge → u.pad = s.pad) ∧
     ((s.core c).spLodge ≠ some j.cmd.lodge → Memory.wf s.pad.bytes = true →
       ∀ k, Tbl.get 0 k u.pad.bytes = if k / 2 ^ 21 = c then 0 else Tbl.get 0 k s.pad.bytes))

/-! ## Commands, rings and the host -/

/-- R83, R90, R92: a command in FENCE whose writes are acknowledged and that none of its ring precedes commits, once the copies of what it
wrote are gone, or ends with TRAY_LOST where its DIRECT output is lost; a kill ends once no access of the command is open; the limit kills a
command in RUN or FENCE, counts and flags it; in any other state of the place none of the three does anything. R93 to R96, R439: shadow comparisons take the oldest
shadow and count it; a difference is a mismatch of the core and its partner; SEED loads the LFSR unless it is 0; RELEASE ends a quarantine;
a core map write that no command forbids takes effect. -/
def Obligations.CommandEnds : Prop :=
  (∀ (s : State) (core : Fin 160) (place : Fin 13) (j : Job),
     let c := core.val
     let p := place.val
     s.job c p = some j →
     (j.st = .fence → j.waiting = [] → (s.core c).inOrder j.cmd p = true → s.directLost j = false → s.mem.dir = [] →
       exec (.commit core place) s = .next (((((s.commitJob c p j).dieCommit c p j).wainCommit j.cmd).afterPlace j.cmd).choices)) ∧
     (j.st = .fence → j.waiting = [] → (s.core c).inOrder j.cmd p = true → s.directLost j = true →
       exec (.commit core place) s = .next (((s.endJob c p j St.trayLost).afterPlace j.cmd).choices)) ∧
     (j.st = .fence → j.waiting = [] → (s.core c).inOrder j.cmd p = true → s.directLost j = false →
       let r := s.invalWritten c p j
       (r.2 = [] → exec (.commit core place) s =
         .next (((((r.1.commitJob c p j).dieCommit c p j).wainCommit j.cmd).afterPlace j.cmd).choices)) ∧
       (r.2 ≠ [] → exec (.commit core place) s = .next ((r.1.setJob c p { j with waiting := r.2 }).choices))) ∧
     (j.st ≠ .fence ∨ j.waiting ≠ [] ∨ (s.core c).inOrder j.cmd p = false → exec (.commit core place) s = .next s.choices) ∧
     (j.st ≠ .kill ∨ s.farOpen c p j.cmd = true → exec (.killDone core place) s = .next s.choices) ∧
     (j.st ≠ .run → j.st ≠ .fence → exec (.cmdTimeout core place) s = .next s) ∧
     (j.st = .kill → s.farOpen c p j.cmd = false → s.fieldOpen c p j.cmd = false →
       (s.wan.streams.any fun x => x.2.core == c && x.2.place == p && x.2.open_ != []) = false →
       (s.wan.pulls.any fun x => x.2.core == c && x.2.place == p && x.2.engine.isSome) = false →
       exec (.killDone core place) s = .next ((((s.dropStreams c p).endKill c p j).afterPlace j.cmd).choices)) ∧
     (j.st = .run ∨ j.st = .fence → ¬(j.cmd.klass = 6 ∧ j.cmd.op = 6) →
       exec (.cmdTimeout core place) s = .next (((((s.setJob c p (j.toKill false true St.cmdTimeout)).modCore c fun k =>
         k.dropShadows j.cmd).count Reg.cmpKillCntCount 1 c).setBit Reg.cmpErrBits 0 c)))) ∧
  (∀ (s : State) (core : Fin 160) (ta tb ma mb phys : Nat) (h : Shadow) (r : List Shadow),
     let c := core.val
     let u := (s.modCore c fun k => { k with shadows := r }).count Reg.cmpShadowRunCount 1 c
     ((s.core c).shadows = h :: r →
       exec (.shadowCompare core false ta tb ma mb) s = .next u ∧
       exec (.shadowCompare core true ta tb ma mb) s = .next (u.mismatch c h ta tb ma mb) ∧
       exec (.shadowAbandon core) s = .next ((s.modCore c fun k => { k with shadows := r }).bump Reg.cmpShadowSkipCount 1 c)) ∧
     (phys % 2 ^ 32 ≠ 0 →
       let v := s.wr Reg.cmpShadowSeedSeed phys c
       exec (.seed core phys) s = .next { v with lfsrs := Tbl.set (c + 1) c (phys % 2 ^ 32) v.lfsrs }) ∧
     (phys % 2 ^ 32 = 0 → exec (.seed core phys) s = .next s.discard) ∧
     (let stage (k : Core) : Nat := if Tbl.find 0 k.places = none then s.rd Reg.cmpCsCfgStagePages c else k.stage
      exec (.release core) s = .next ((s.modCore c fun k =>
        { k with quarantined := false, suspectUp := 0, suspectDown := 0, stage := stage k }).choices)) ∧
     (s.coreBusy c = false → phys < 160 → (s.core phys).quarantined = false → s.hif.rings = [] →
       exec (.coreMap core phys) s = .next (s.wr Reg.hltCoreMapPhys phys c)) ∧
     (s.coreBusy c = true → exec (.coreMap core phys) s = .next s.discard))

/-- R329 to R335: rings. A wake write marks its ring; the doorbell record gives HOST_IDX, or stops the ring when it is too far ahead; a poll
reads it again; the next descriptor of the ring whose turn it is is fetched and handed on; a ring is enabled with both indices 0, and
disabled; NOP and BARRIER of the ADMIN class. -/
def Obligations.Rings : Prop :=
  ∀ (s : State) (ring : Fin 256) (idx : Nat),
    let r := ring.val
    let h := idx % 2 ^ 32
    let close := (s.rd Reg.hifRingCfgType r = 0 ∧ (h + 2 ^ 32 - s.devIdx r) % 2 ^ 32 ≤ s.ringSize r)
    (s.ringActive r = true →
      exec (.wakeWrite ring 0 4) s = .next (s.modRing r fun x => { x with mark := true })) ∧
    (∀ o n, s.ringActive r = false ∨ o ≠ 0 ∨ n ≠ 4 → exec (.wakeWrite ring o n) s = .next s.discard) ∧
    ((s.ring r).mark = true → s.ringActive r = true → s.hostUp = true → close →
      exec (.doorbellRead ring idx) s = .next (((s.modRing r fun x => { x with mark := false }).modRing r fun x =>
        { x with hostIdx := h }).choices)) ∧
    ((s.ring r).mark = true → s.ringActive r = true → s.hostUp = true → s.rd Reg.hifRingCfgType r = 0 →
      s.ringSize r < (h + 2 ^ 32 - s.devIdx r) % 2 ^ 32 →
      exec (.doorbellRead ring idx) s = .next (((s.modRing r fun x => { x with mark := false }).stopRing r 1).choices)) ∧
    (s.rd Reg.hifCtrlPollUs ≠ 0 → s.ringActive r = true → s.hostUp = true → close →
      exec (.poll ring idx) s = .next (((s.modRing r fun x => { x with mark := false }).modRing r fun x => { x with hostIdx := h }).choices)) ∧
    (s.rd Reg.hifRingCfgType r = 1 → s.ringActive r = true → s.hostUp = true →
      (s.devIdx r + 2 ^ 32 - h) % 2 ^ 32 ≤ s.ringSize r →
      exec (.cqRoomPoll ring idx) s = .next (((s.modRing r fun x => { x with hostIdx := h }).roomFound r).choices)) ∧
    (∀ words l, s.hostUp = true → s.paused = false → s.fetchTurn = (l, some r) →
      exec (.descriptorFetch ring words true) s = .next ((s.stopRing r 3).choices) ∧
      exec (.descriptorFetch ring words false) s = .next (((((((s.tookFetch l).modRing r fun k =>
        { k with live := k.live ++ [s.hif.fetched] }).count Reg.hifRingIdxDevIdx 1 r).writeDevIdx r).dispatch (s.fetched r words)).choices))) ∧
    (s.rd Reg.hifRingCfgEnable r = 0 → s.enableRefused r = false →
      exec (.ringEnable ring) s = .next (((((s.wr Reg.hifRingCfgEnable 1 r).wr Reg.hifRingStatusState 1 r).wr Reg.hifRingStatusReason 0
        r).wr Reg.hifRingIdxDevIdx 0 r).setRing r (s.ring r).closed)) ∧
    (s.rd Reg.hifRingCfgEnable r = 0 → s.enableRefused r = true → exec (.ringEnable ring) s = .next s.discard) ∧
    (s.rd Reg.hifRingCfgEnable r = 1 → s.disableRefused r = false → s.rd Reg.hifRingCfgType r = 0 →
      exec (.ringDisable ring) s = .next ((s.wr Reg.hifRingCfgEnable 0 r).settleRing r)) ∧
    (s.rd Reg.hifRingCfgEnable r = 1 → s.disableRefused r = false → s.rd Reg.hifRingCfgType r ≠ 0 →
      exec (.ringDisable ring) s =
        .next (((s.wr Reg.hifRingCfgEnable 0 r).wr Reg.hifRingStatusState 0 r).wr Reg.hifRingStatusReason 0 r)) ∧
    (s.rd Reg.hifRingCfgEnable r = 1 → s.disableRefused r = true → exec (.ringDisable ring) s = .next s.discard) ∧
    (∀ x, s.nextAdmin 1 = some x → adminReserved x = false →
      exec .nop s = .next ((({ s with hif := { s.hif with adminQ := dequeue x s.hif.adminQ } } : State).complete x 0xFF St.ok 0).choices)) ∧
    (∀ x, s.nextAdmin 2 = some x → adminReserved x = false →
      let u : State := { s with hif := { s.hif with adminQ := dequeue x s.hif.adminQ } }
      let v := u.modRing x.ring fun k => { k with barriers := k.barriers ++ [(x, ((u.ring x.ring).live.filter (· < x.seq)).length)] }
      exec .barrier s = .next ((v.settleBarriers x.ring (v.ring x.ring).barriers.length).choices))

/-- R321 to R323, R340, R455: the host is lost, comes back, goes to D3hot; a function-level reset and a PCIe reset return the HIF block to
its reset values, close the rings and disable the vectors; an interrupt held for HOLD_US goes out. -/
def Obligations.HostLossAndResets : Prop :=
  ∀ (s : State) (ring : Fin 256) (on : Bool),
    let r := ring.val
    (s.on Reg.hifStatusHostLost = false →
      let u := ((s.modRing r fun x => { x with mark := false }).wr Reg.hifStatusHostLost 1).devCause 0
      let v := ((natsFrom 0 256).filter u.ringActive).foldl (fun (s : State) r => s.stopRing r 2) u
      exec (.hostReadTimeout ring) s = .next (({ v with hif := { v.hif with halted := true } } : State).alarm 0x00 0xF 0xFF 0 0)) ∧
    (let u := s.wr Reg.hifStatusHostLost 0
     exec .hostResume s = .next { u with hif := { u.hif with halted := false } }) ∧
    exec (.d3hot on) s = .next { s with hif := { s.hif with d3 := on } } ∧
    (let t : State := { s with
       regs := s.regs.filter fun e => !flrReg e.1
       cores := s.cores.map fun e => (e.1, { e.2 with places := e.2.places.map fun p => (p.1, p.2.unreserved) })
       hif := { s.hif with rings := s.hif.rings.map fun e => (e.1, e.2.closed), msix := [], pba := [], halted := true, d3 := false } }
     let due := s.hif.rings.flatMap fun e => e.2.waiting.map (·.1)
     let u := due.foldl (fun (u : State) x => u.unlive x) t
     (due = [] → exec .flr s = .next t.choices ∧ exec .pcieReset s = .next t.choices) ∧
     (due ≠ [] → exec .flr s = .next ((u.bump Reg.hifCplDropCount due.length).devCause 3).choices ∧
       exec .pcieReset s = .next ((u.bump Reg.hifCplDropCount due.length).devCause 3).choices)) ∧
    ((s.ring r).irqPend ≠ 0 → s.rd Reg.hifRingCfgVector r ≠ 0 →
      let u := s.modRing r fun x => { x with irqPend := 0 }
      exec (.interruptHold ring) s = .next (u.fire (s.rd Reg.hifRingCfgVector r)))

/-- R10, R12, R46, R325: writes. A plain register takes its bits and what follows happens; a value out of a field's range, a register that
the port may not write and an access of another size or alignment change nothing but the error counters; a word of the MSI-X table and a
register whose write is an action have their own effect. R10, R12: reads. The value goes to the port; read-clear fields are cleared; the low
half of a 64-bit quantity loads the reading port's latch with the high half of that moment, which a later read of the high half by that port
returns, and leaves the other port's latch. -/
def Obligations.RegisterAccesses : Prop :=
  (∀ (s : State) (p : BusPort) (off : Nat) (w : Word32), off < 2 ^ 26 → s.reached p = true →
     let v := w.toNat
     (off % 4 = 0 → portWrites p off = true →
       (msixWord off = none → (∀ e ∈ special, e.1.hit off = none) →
         (s.outOfRange off v = false → s.breaks (s.store off v) off = false →
           exec (.registerWrite p off w) s = .next (((s.store off v).afterWrite off v).choices)) ∧
         (s.outOfRange off v = true → exec (.registerWrite p off w) s = .next s.discard.choices)) ∧
       (∀ k, msixWord off = some k → exec (.registerWrite p off w) s = .next (s.msixWrite k v).choices) ∧
       (∀ f i, msixWord off = none → (special.findSome? fun e => (e.1.hit off).map fun q => (e.2, q.1)) = some (f, i) →
         exec (.registerWrite p off w) s = .next (f s off i v).choices)) ∧
     (off % 4 = 0 → portWrites p off = false →
       exec (.registerWrite p off w) s = .next (match p with | .host => s.discard | .porter => s.bump Reg.prtRefusedCount).choices) ∧
     (off % 4 ≠ 0 → p = .host → exec (.registerWrite p off w) s = .next s.badAccess.choices) ∧
     (∀ size, s.reached .host = true → ¬ (size = 4 ∧ off % 4 = 0) →
       exec (.bar0BadAccess true off size) s = .next s.badAccess ∧
       exec (.bar0BadAccess false off size) s = .next { s.badAccess with hif := { s.badAccess.hif with lastRead := 0 } })) ∧
  (∀ (s : State) (p : BusPort) (off : Nat), off + 4 < 2 ^ 26 → off % 4 = 0 → s.reached p = true → portReads p off = true →
     let other := match p with | .host => BusPort.porter | .porter => BusPort.host
     let seen := match s.latch p with
       | some (b, h) => if isHigh off ∧ b + 4 = off then h else s.regValue off
       | none => s.regValue off
     let cleared := ((regFields off).filter fun e => e.1.ty == .rc).foldl (fun (r : Tbl Nat) e =>
       Tbl.set (e.1.reset e.2.1) (e.1.key e.2.1 e.2.2) 0 r) s.regs
     ∃ t : State, exec (.readClear p off) s = .next t ∧ exec (.lowHalfRead p off) s = .next t ∧
       t.hif.lastRead = BitVec.ofNat 32 seen ∧
       t = { s with regs := cleared, hif := t.hif } ∧
       t.hif.mem = s.hif.mem ∧ t.latch other = s.latch other ∧
       (isLow off = false → t.latch p = s.latch p) ∧
       (isLow off = true → t.latch p = some (off, s.regValue (off + 4)) ∧
         ∀ u : State, u.latch p = t.latch p → u.reached p = true → portReads p (off + 4) = true → isHigh (off + 4) = true →
           ∃ x : State, exec (.readClear p (off + 4)) u = .next x ∧ x.hif.lastRead = BitVec.ofNat 32 (s.regValue (off + 4))))

/-! ## Lodges (R276 to R299) -/

/-- R276 to R282, R295: the operations of LOD_CMD, when none is running: BUSY is set, the operation has its effect and its STATUS waits for
LOD_CMD_DONE, which reports it. CREATE takes the lowest ABSENT lodge; DESTROY removes what the lodge holds; BIND and UNBIND change the
tenant's lodge; RESET clears the fault record and the counts; TEARDOWN of a faulted lodge leaves it DRAINING; CLIENT_DUMP writes every
client's record. A lodge out of range, in another state or still in use changes nothing but the STATUS; a write while BUSY is discarded and
flagged. -/
def Obligations.LodgeOperations : Prop :=
  ∀ (s : State) (l : Fin 16) (t : Nat),
    let put (u : State) (op status count : Nat) : State :=
      { u.wr Reg.lodCmdStatusBusy 1 with lod := { u.lod with op := some (op, l.val, status, count) } }
    (s.on Reg.lodCmdStatusBusy = false →
      (2 ≤ s.stage → (natsFrom 0 16).find? (fun i => s.lodge i == 0) = some l.val →
        exec .create s = .next (put ((s.resetLodgeRegs l).wr Reg.lodStateState 1 l) 1 St.ok 0)) ∧
      (s.lodge l = 1 ∨ s.lodge l = 5 → s.ringBound l = false → s.hasEntries l = false →
        exec (.destroy l) s = .next ((put (s.destroyLodge l) 2 St.ok 0).choices)) ∧
      (s.lodge l = 2 ∨ s.lodge l = 5 → s.hasEntries l = false →
        exec (.lodgeReset l) s = .next ((put (s.resetLodge l).1 5 St.ok 0).choices)) ∧
      (s.lodge l = 2 →
        exec (.teardown l) s = .next ((put (((((((s.wr Reg.lodStateState 4 l).refuseHome l St.notReady).closeStreams l).closeConns
          l).dropPins l).freeKv l).homeRun) 6 St.ok 0).choices)) ∧
      (∀ clear free, s.lodge l = 1 → exec (.clientDump l clear free) s =
        .next (put (s.clientDump l clear free).1 7 St.ok (s.clientDump l clear free).2.2)) ∧
      (let no (op n status : Nat) : State :=
         { s.wr Reg.lodCmdStatusBusy 1 with lod := { s.lod with op := some (op, n % 16, status, 0) } }
       (∀ n, 16 ≤ n → exec (.destroy n) s = .next (no 2 n St.outOfRange).choices ∧
         exec (.lodgeReset n) s = .next (no 5 n St.outOfRange).choices ∧ exec (.teardown n) s = .next (no 6 n St.outOfRange).choices ∧
         ∀ clear free, exec (.clientDump n clear free) s = .next (no 7 n St.outOfRange)) ∧
       (s.lodge l ≠ 1 ∧ s.lodge l ≠ 5 → exec (.destroy l) s = .next (no 2 l St.badOperand).choices) ∧
       (s.lodge l = 1 ∨ s.lodge l = 5 → s.ringBound l = true ∨ s.hasEntries l = true →
         exec (.destroy l) s = .next (no 2 l St.busy).choices) ∧
       (s.lodge l ≠ 2 ∧ s.lodge l ≠ 5 → exec (.lodgeReset l) s = .next (no 5 l St.badOperand).choices) ∧
       (s.stage < 2 → exec .create s = .next (no 1 0 St.notReady)))) ∧
    (let u := s.wr Reg.lodCmdArgTenant t
     u.on Reg.lodCmdStatusBusy = false → u.lodge l = 1 → u.rd Reg.lodCmdArgTenant = t → t < 2 ^ 16 →
      (u.tenantLodge t = none →
        exec (.bind l t) s = .next (put { u with lod := { u.lod with tenants := Tbl.put t l.val u.lod.tenants } } 3 St.ok 0)) ∧
      (u.tenantLodge t = some l.val → u.tenantUsed l t = false →
        exec (.unbind l t) s = .next (put { u with lod := { u.lod with tenants := Tbl.del t u.lod.tenants } } 4 St.ok 0))) ∧
    (s.on Reg.lodCmdStatusBusy = true → exec .create s = .next (s.discard.setBit Reg.lodErrBits 3)) ∧
    (∀ op status count, s.lod.op = some (op, l.val, status, count) →
      let u : State := { s with lod := { s.lod with op := none } }
      let v := ((u.wr Reg.lodCmdStatusBusy 0).wr Reg.lodCmdStatusStatus status).wr Reg.lodCmdStatusLodge l
      exec .lodCmdDone s = .next (if op = 7 ∧ status = St.ok then v.wr Reg.lodCmdResultCount count else v))

/-- R281, R288 to R291, R297, R298: a DRAINING lodge with no command halts; DRAIN ends admission; a persona is changed only while DRAINED; a
refill fills both buckets of a lodge up to the burst; a grant takes device traffic first, then the request of the lodge whose turn it is,
and charges it. -/
def Obligations.LodgeScheduling : Prop :=
  ∀ (s : State) (l : Fin 16) (path : Fin 6) (reqs : List (Nat × Nat)),
    let p := path.val
    let waiters (rest : List (Nat × Nat)) : List Nat := sortDedup ((rest.filter fun r => decide (r.1 < 16)).map fun r => p * 16 + r.1)
    let wait (s : State) (rest : List (Nat × Nat)) : State :=
      { s with lod := { s.lod with pathWait := (s.lod.pathWait.filter fun k => k / 16 != p) ++ waiters rest } }
    (s.lodge l = 4 → (s.jobs.any fun j => j.2.2.cmd.lodge == l.val) = false → exec (.halted l) s = .next (s.wr Reg.lodStateState 5 l)) ∧
    exec (.drain true) s = .next ((s.wr Reg.lodPersonaDrain 1).wr Reg.ldgCtrlEnable 0) ∧
    exec (.drain false) s = .next (s.wr Reg.lodPersonaDrain 0) ∧
    (∀ q, s.on Reg.lodPersonaPersonaBusy = false → s.drained = true →
      exec (.persona q) s = .next { s.wr Reg.lodPersonaPersonaBusy 1 with lod := { s.lod with newPersona := some (q % 4) } }) ∧
    (∀ q, s.drained = false → exec (.persona q) s = .next s.discard) ∧
    (∀ q, s.lod.newPersona = some q →
      exec .personaDone s = .next { (s.wr Reg.lodPersonaPersona q).wr Reg.lodPersonaPersonaBusy 0 with lod := { s.lod with newPersona := none } }) ∧
    (let t := (natsFrom 0 6).foldl (fun (s : State) p =>
        let cap := s.pathCap p
        let u := s.wr Reg.lodPathCapBytesPerUs cap p
        ((natsFrom 0 16).filter fun l => u.lodge l != 0).foldl (fun (s : State) l => s.refillOne p cap l) u) s
     exec .refill s = .next ({ t with lnk := { t.lnk with fwd := [], fwdLast := t.lnk.fwd }, lod := { t.lod with devUsed := [] } } :
       State).attWake.embPump.retakeHeld.pumpConns.choices) ∧
    (∀ cap, let up := s.rd Reg.lodMaxShare l p * cap / 1024
      let eb : Int := ((max (s.rd Reg.lodBurstKib l p * 1024) up : Nat) : Int)
      s.Inv → (s.refillOne p cap l).maxTok l p = min (s.maxTok l p + (up : Int)) eb ∧
        (s.refillOne p cap l).minTok l p = min (s.minTok l p + ((s.rd Reg.lodMinShare l p * cap / 1024 : Nat) : Int)) eb ∧
        (s.refillOne p cap l).regs =
          (if s.waitsOn l p && decide (s.maxTok l p ≤ 0) then s.bump Reg.lodThrottleCount 1 l p else s).regs) ∧
    (∀ d, reqs.find? (fun r => decide (16 ≤ r.1) && decide (Tbl.get 0 p s.lod.devUsed + r.2 ≤ s.pathCap p / 64)) = some d →
      exec (.pathGrant path reqs) s = .next (wait { s with lod := { s.lod with
        devUsed := Tbl.set 0 p (Tbl.get 0 p s.lod.devUsed + d.2) s.lod.devUsed } } (reqs.erase d))) ∧
    (∀ r cur, reqs.find? (fun r => decide (16 ≤ r.1) && decide (Tbl.get 0 p s.lod.devUsed + r.2 ≤ s.pathCap p / 64)) = none →
      let g := s.grantSet p (sortDedup ((reqs.filter fun r => decide (r.1 < 16)).map (·.1)))
      wrrGrant s.lod.pathCur (p * 16) (fun l => s.rd Reg.lodCfgWeight l) g.1 = (cur, some r.1) → reqs.find? (fun q => q.1 == r.1) = some r →
      exec (.pathGrant path reqs) s =
        .next (wait (({ s with lod := { s.lod with pathCur := cur } } : State).charge p r.1 r.2 g.2) (reqs.erase r)))

/-! ## Chroit links (R341 to R369) -/

/-- R350 to R357: what a port that is UP in span mode does with what it receives: an acknowledgement frees what it covers and adds credit; a
NAK counts and replays; a REPLAY_START ends discarding; a damaged data flit starts discarding and asks once; a good data flit in order is
counted, frees a buffer slot and goes to its message. -/
def Obligations.LinkReceive : Prop :=
  ∀ (s : State) (port : Fin 8) (q : Fin 4096) (bulk expr : Nat),
    let n := port.val
    let p := s.lport n
    let mod (s : State) (f : LPort → LPort) : State := s.modLport n f
    s.spanUp n = true →
    exec (.ack port q bulk expr) s = .next (mod s fun p =>
      { p.acked q with credit := ((p.acked q).credit.1 + bulk % 2 ^ 16, (p.acked q).credit.2 + expr % 2 ^ 16) }) ∧
    exec (.nak port q bulk expr) s = .next (((s.bump Reg.lnkNakRxCount 1 n).controlIn n q bulk expr).startReplay n ((q + 1) % 4096)) ∧
    (p.discarding = true → 2048 ≤ seqDiff p.rx q → exec (.replayStart port q) s = .next (mod s fun _ =>
      { p with discarding := false, skip := 0, rx := q })) ∧
    (seqDiff p.rx q < 2048 → exec (.replayStart port q) s = .next (mod s fun _ => { p with discarding := false, skip := seqDiff p.rx q })) ∧
    (p.discarding = false → exec (.badFlit port .flit) s = .next (mod s fun _ => { p with discarding := true, nakDue := true, skip := 0 })) ∧
    exec (.badFlit port .control) s = .next ((s.bump Reg.lnkCtlCrcCount 1 n).setBit Reg.lnkErrBits 4 n) ∧
    (p.since ≠ 0 → exec (.ackTimer port) s = .next (mod s fun p => { p with ackDue := true })) ∧
    (∀ f r, p.unacked = f :: r → exec (.replayTimeout port) s = .next ((s.count Reg.hltRetryValue 1 (200 + n)).startReplay n f.seq)) ∧
    (p.discarding = true → exec (.nakRetry port) s = .next (mod s fun p => { p with nakDue := true })) ∧
    (∀ first data cw sym, let u := s.countCorr n cw sym
      s.linkState n = 2 → u.spanUp n = true → (u.lport n).discarding = false → (u.lport n).skip = 0 →
      (∀ bs, placeFlit (u.lport n).rxBulk first (flitData data) = some bs →
        let due := (u.lport n).ackDue || decide (u.rd Reg.lnkReplayCfgAckFlits ≤ (u.lport n).since + 1)
        exec (.dataFlit port false first false data cw sym) s = .next (((mod u fun p =>
          { p with rx := (p.rx + 1) % 4096, since := p.since + 1, ackDue := due, freed := (p.freed.1 + 1, p.freed.2),
                   rxBulk := some bs }).count Reg.lnkRxCount 1 n).choices)))

/-- R358 to R364, R370: training and retrain. The phases follow each other; a HELLO that agrees on a version names the peer; a phase that
takes too long fails its attempt; from ABSENT the port tries again; a lost port drops what it held; an UP port retrains with its cause. -/
def Obligations.LinkTraining : Prop :=
  ∀ (s : State) (port : Fin 8),
    let n := port.val
    let ph := s.rd Reg.lnkStatusPhase n
    (∀ (versions : Fin 16) seen dev (pp : Fin 8) bulk expr rmax next,
      s.exchanging n = true → s.rd Reg.lnkCtrlMode n = 0 → agreedVersion versions ≠ 0 →
      let u := (((s.wr Reg.lnkPeerDevice (dev % 2 ^ 24) n).wr Reg.lnkPeerPort pp n).wr Reg.lnkPeerValid 1 n).wr Reg.lnkStatusVersion
        (agreedVersion versions) n
      u.assigned = false → (s.lport n).peer = none →
      exec (.hello port versions seen dev pp bulk expr rmax next) s = .next ((u.modLport n fun p =>
        { p with hello := some seen, peerHello := (next % 4096, bulk % 2 ^ 16, expr % 2 ^ 16) }).settleExchange n)) ∧
    (s.linkState n = 1 ∨ s.linkState n = 3 →
      (ph = 0 → exec (.trainingPhaseDone port) s = .next (s.wr Reg.lnkStatusPhase 1 n)) ∧
      (ph = 1 → s.rd Reg.lnkCtrlMode n = 0 → exec (.trainingPhaseDone port) s = .next (s.wr Reg.lnkStatusPhase 2 n)) ∧
      (2 ≤ ph → (s.lport n).hello.isSome = true → exec (.trainingPhaseDone port) s = .next (s.portUp n))) ∧
    (s.linkState n = 1 →
      let u := (s.bump Reg.lnkTrainFailCount 1 n).count Reg.hltRetrainValue 1 (200 + n)
      let k := u.rd Reg.lnkStatusAttempt n
      exec (.trainingPhaseLimit port) s =
        .next (if 9 ≤ k then u.portLost n 4 (ph + 1) else (u.wr Reg.lnkStatusFail (ph + 1) n).beginAttempt n (k + 1))) ∧
    (s.linkState n = 4 ∨ s.linkState n = 5 → exec (.trainingRetry port) s = .next (s.startTraining n)) ∧
    (1 ≤ s.linkState n → s.linkState n ≤ 3 → exec (.unplug port) s = .next (s.portLost n 4 4)) ∧
    (s.linkState n = 3 → exec (.retrainPhaseLimit port) s = .next (s.startTraining n)) ∧
    (s.linkState n = 2 → s.rd Reg.lnkCtrlMode n = 0 →
      let go (cause : Nat) : State :=
        let u := ((s.wr Reg.lnkStatusState 3 n).wr Reg.lnkStatusPhase 0 n).wr Reg.lnkStatusFail cause n
        let u := ((u.bump Reg.lnkRetrainCount 1 n).count Reg.hltRetrainValue 1 (200 + n)).setBit Reg.lnkErrBits 1 n
        let u := u.trace 0x80 0xF (200 + n) (n + cause * 2 ^ 8) 0
        (u.modLport n fun p => { p with fast := true, hello := none, seenTx := false, replay := 0, ackDue := false, nakDue := false, run := 0, hops := none, due := [⟨6, cause, 0, 0⟩] }).checkRoute
      (∀ c : Fin 16, exec (.retrainReq port c) s = .next (go 10)) ∧ exec (.retrain port) s = .next (go 11) ∧
        exec (.lockLoss port) s = .next (go 9) ∧ exec (.uncorrLimit port) s = .next (go 8)) ∧
    (∀ d, ((natsFrom 0 256).all fun r => s.rd Reg.hifRingCfgEnable r == 0) = true → s.spn.out = [] → s.spn.todo = [] →
      (d < 2 ^ 18 → exec (.deviceIdAssign d) s = .next ((s.wr Reg.spnIdDevice d).retrainAll)) ∧
      (2 ^ 18 ≤ d → exec (.deviceIdAssign d) s = .next s.discard))

/-- R349, R366, R367: the flit slots of an UP port and span time. A due CONTROL flit goes first, then a replay, then data; with nothing to
send an IDLE flit goes out. TIME corrects span time from the port followed; DELAY operations are answered and measure the delay; span time
can be lost. -/
def Obligations.LinkSlotsAndTime : Prop :=
  ∀ (s : State) (port : Fin 8),
    let n := port.val
    let p := s.lport n
    (s.linkState n = 2 → s.rd Reg.lnkCtrlMode n = 0 →
      (p.due ≠ [] → exec (.flitSlot port) s = .next (s.sendControl n true)) ∧
      (p.due = [] → p.nakDue = false → p.ackDue = false → p.replay ≠ 0 → exec (.flitSlot port) s = .next (s.sendReplay n)) ∧
      (p.due = [] → p.nakDue = false → p.ackDue = false → p.replay = 0 → p.txBulk = none → p.txExpr = none → s.sent = [] →
        exec (.flitSlot port) s = .next (s.putFlit n (sideband 0 false false false) (List.replicate 256 0)))) ∧
    (s.spanUp n = true →
      (∀ t1, exec (.delayReq port t1) s = .next (s.ctlDue n ⟨5, t1 % 2 ^ 64, s.now, 0⟩)) ∧
      exec (.delayMeasure port) s = .next (s.ctlDue n ⟨4, 0, 0, 0⟩) ∧
      (∀ t1 t2 t3 : Nat, let d : Int := (((s.now : Int) - t1) - ((t3 : Int) - t2)) / 2
        0 ≤ d → d < 65536 → exec (.delayRsp port t1 t2 t3) s = .next (s.wr Reg.lnkDelayDelayNs d.toNat n)) ∧
      (∀ t (hops : Fin 64), s.on Reg.lnkStimeStatusSource = false →
        let u := s.modLport n fun p => { p with hops := some hops.val }
        u.followed = some n →
        exec (.time port t hops true) s = .next ((((u.correctTime ((t + s.rd Reg.lnkDelayDelayNs n) % 2 ^ 64)).wr Reg.lnkStimeStatusValid
          1).wr Reg.lnkStimeStatusHops hops).wr Reg.lnkStimeStatusPort n))) ∧
    (s.spanValid = true → s.hopsOut ≤ 63 →
      exec .timeSend s = .next ((s.portsUp 0).foldl (fun (s : State) n => s.ctlDue n ⟨3, 0, 0, 0⟩) s)) ∧
    (s.spanValid = true → s.on Reg.lnkStimeStatusSource = false →
      exec .spanTimeLost s = .next (((natsFrom 0 8).foldl (fun (s : State) n => s.modLport n fun p => { p with hops := none })
        ((s.wr Reg.lnkStimeStatusValid 0).wr Reg.lnkStimeStatusSyncLost 1)).alarm 0x04 0xF 0xFF 0 0))

/-! ## The field (R398 to R426) -/

/-- R403, R404, R407, R412, R416: FIELD commands in RUN. OPEN takes the lowest free connection and the context at LOCAL; CLOSE frees one
with nothing outstanding; MODIFY leaves RATE, BURST and TC for the next packet boundary; WRITE and READ join the send queue of their
connection. -/
def Obligations.FieldCommands : Prop :=
  ∀ (s : State) (core : Fin 160) (place : Fin 4) (j : Job) (k : Nat),
    let c := core.val
    let p := wainPlace place
    let x := j.cmd
    (Running s c p 7 1 j → s.readStatus x.lodge x.local_ 64 = St.ok → s.freeConn = some k →
      s.tenantLodge (s.ctxConn x).tenant = some x.lodge → s.ctxBad x = false → s.connsFull x.lodge = false →
      exec (.fldConnOpen core place) s = .next (((({ s with fld := { s.fld with conns := Tbl.put k (s.ctxConn x) s.fld.conns } } :
        State).touch x.lodge x.local_ 64 false).toFence c p { j with result := k }).choices)) ∧
    (Running s c p 7 2 j → s.notOwn x.lodge x.farConn = false → s.connBusy x.farConn c p = false →
      exec (.fldConnClose core place) s = .next ((({ s with fld := { s.fld with conns := Tbl.del x.farConn s.fld.conns } } :
        State).toFence c p j).choices)) ∧
    (Running s c p 7 3 j → s.readStatus x.lodge x.local_ 64 = St.ok → s.notOwn x.lodge x.farConn = false → s.inError x.farConn = false →
      s.ctxBad x = false →
      exec (.fldConnModify core place) s = .next ((((s.modConn x.farConn fun q =>
        { q with change := some ((s.ctxConn x).rate, (s.ctxConn x).burst, (s.ctxConn x).tc) }).touch x.lodge x.local_ 64 false).toFence
        c p j).choices)) ∧
    (x.done = false → s.notOwn x.lodge x.farConn = false → s.inError x.farConn = false →
      let y := { x with done := true }
      let item (kind : Nat) (arr : Option Nat) : FItem :=
        { kind := kind, core := c, place := p, cmd := some y, addr := x.farOff, local_ := x.local_, len := x.spLen, arr := arr, psn := 0, next := 0,
          body := [], held := false }
      (Running s c p 7 4 j → s.readStatus x.lodge x.local_ x.spLen = St.ok →
        exec (.fldWrite core place) s = .next ((((s.touch x.lodge x.local_ x.spLen false).setJob c p
          { j with cmd := y, result := ceilDiv x.spLen s.payloadMax }).modConn x.farConn fun q =>
            { q with queue := q.queue ++ [item 1 (if bitAt 2 x.flags then some x.arrival else none)] }).choices)) ∧
      (Running s c p 7 5 j → s.accessStatus x.lodge x.local_ x.spLen = St.ok →
        exec (.fldRead core place) s = .next (((s.setJob c p { j with cmd := y, result := 0 }).modConn x.farConn fun q =>
          { q with queue := q.queue ++ [item 2 none] }).choices)))

/-- R400 to R402, R405, R408 to R412: packets that a field port accepts. The expected PSN is applied in order, a gap is answered by one NAK;
an ACK frees what it covers; a read's response goes to its command; a message is delivered with its last packet; what a port drops is
counted. -/
def Obligations.FieldPackets : Prop :=
  ∀ (s : State) (port : Fin 4) (p : FIn) (c : Conn),
    let k := p.dstConn
    let u := s.count Reg.fldRxPktCount 1 port
    s.fieldUp port = true →
    exec (.rxDrop port) s = .next (s.bump Reg.fldRxDropCount 1 port) ∧
    (∀ mac ip, exec (.neighbourSolicitation port mac ip) s = .next (s.modFport port fun f =>
      { f with ctl := f.ctl ++ [⟨2, 0, 0, 0, 0, mac % 2 ^ 48, ip % 2 ^ 128⟩] })) ∧
    (s.on Reg.fldCtrlEnable = true → s.acceptOn p false = none →
      exec (.fieldWrite port p) s = .next (((s.bump Reg.fldTenantDropCount 1 port).setBit Reg.fldErrBits 0).choices)) ∧
    (s.on Reg.fldCtrlEnable = true → s.acceptOn p false = some c →
      (psnDiff p.psn c.rx = 0 →
        exec (.fieldWrite port p) s = .next (((u.modConn k fun c => { c with rx := (c.rx + 1) % 2 ^ 32, naked := false }).waitRx k true
          p).choices) ∧
        exec (.readReq port p) s = .next (((u.modConn k fun c =>
          { c with rx := (c.rx + ceilDiv (bits 0 40 p.w1) u.payloadMax) % 2 ^ 32, naked := false }).waitRx k false p).choices)) ∧
      (0 < psnDiff p.psn c.rx → psnDiff p.psn c.rx < 2 ^ 31 → c.naked = false →
        exec (.fieldWrite port p) s = .next ((((u.fieldCtl k 1 (c.rx + 2 ^ 32 - 1) 1 0).bump Reg.fldNakTxCount).modConn k fun c =>
          { c with naked := true }).choices)) ∧
      (p.syndrome = 0 → exec (.fieldAck port p) s = .next ((u.freeTo k p.ackPsn).choices)) ∧
      (∀ d r j, u.conn k = some d → d.sent.find? (fun r => r.kind == 2 && decide (psnDiff p.psn r.psn < r.count)) = some r →
        psnDiff p.psn r.psn = r.got → r.got + 1 < r.count → u.fieldOwner r.core r.place r.cmd = some j →
        exec (.readRsp port p) s = .next (((u.addDirect r.core r.place (r.local_ + r.got * u.payloadMax)
          (p.payload.take (min u.payloadMax (r.len - r.got * u.payloadMax)))).modConn k fun c =>
            ({ c with tries := 0, sent := c.sent.map fun x => if x = r then { r with got := r.got + 1, asked := false } else x } : Conn).tidy).choices))) ∧
    (s.on Reg.fldCtrlEnable = true → s.acceptOn p true = some c → psnDiff p.psn c.rx = 0 → p.first = true → p.last = true →
      p.ackReq = false →
      exec (.msg port p) s = .next ((((u.modConn k fun c => { c with rx := (c.rx + 1) % 2 ^ 32, naked := false }).modConn k fun c =>
        { c with rxMsg := [] }).arriveMsg (Msg.ofBytes p.payload)).choices))

/-- R409, R414 to R416: the sender. Without an acknowledgement a connection sends again from its first unacknowledged PSN, and gives up
after RETRY_MAX; at a packet boundary a change of rate takes effect, control packets go first and then the data packet chosen; a slot of the
wheel ends parking. -/
def Obligations.FieldSending : Prop :=
  ∀ (s : State) (port : Fin 4) (k : Nat) (c : Conn) (f : FPkt) (r : List FPkt),
    let p := port.val
    (s.conn k = some c → c.sent = f :: r → c.error = false →
      (c.tries < s.rd Reg.fldRetryRetryMax → exec (.retryTimeout k) s = .next ((s.modConn k fun c =>
        { c with again := some ((f.psn + f.got) % 2 ^ 32), tries := c.tries + 1 }).choices)) ∧
      (s.rd Reg.fldRetryRetryMax ≤ c.tries → exec (.retryTimeout k) s = .next ((s.retriesOut k).choices))) ∧
    (s.fieldUp p = true →
      let a : State := { s with fld := { s.fld with conns := s.fld.conns.map fun e => (e.1, if e.2.port == p then e.2.changed s.now else e.2) } }
      let b := a.countStalls p
      let d : State := { b with fld := { b.fld with conns := b.fld.conns.map fun e =>
        (e.1, if e.2.port == p && (b.headOf e.2).isSome then e.2.settled b.now else e.2) } }
      let t := d.refreshTags p none
      (∀ x, t.firstCtl p = some x → exec (.packetBoundary port) s = .next ((t.sendCtl p x).choices)) ∧
      (∀ i q h g, t.firstCtl p = none → t.chooseData p = some (i, q, h, g) →
        exec (.packetBoundary port) s = .next ((t.startData p i q h g).choices)) ∧
      (t.firstCtl p = none → t.chooseData p = none → exec (.packetBoundary port) s = .next t.choices)) ∧
    (∀ slot : Fin 4096, exec (.wheelSlot slot) s = .next { s with fld := { s.fld with conns := s.fld.conns.map fun e =>
      (e.1, if e.2.parked == some slot.val then { e.2.refilled s.now with parked := none } else e.2) } })

/-- R417 to R421: gate lists and field time. The list goes on to its next entry or starts again; CHANGE arms the admin list; a takeover
makes it the operational one; a Sync within 1,000 ns slews and the sixteenth within 100 ns makes field time valid; field time can be lost.
-/
def Obligations.GatesAndFieldTime : Prop :=
  ∀ (s : State) (port : Fin 4) (dom t : Nat),
    let p := port.val
    ((s.fport p).operLen ≠ 0 →
      let e := s.rd Reg.fldGclCtrlEntry p + 1
      let start := ((natsFrom 0 e).map fun i => s.rd Reg.fldGclOperIntervalNs p i).foldl (· + ·) 0
      exec (.gateEntry port) s =
        .next (s.wr Reg.fldGclCtrlEntry (if (s.fport p).operLen ≤ e ∨ s.rd Reg.fldGclOcycleValue p ≤ start then 0 else e) p)) ∧
    (s.on Reg.fldGclCtrlPending p = false → s.adminBad p = false →
      let u := s.wr Reg.fldGclCtrlPending 1 p
      exec (.change port) s = .next (u.modFport p fun f => { f with takeover := if s.fieldValid then some (s.takeoverTime p) else none })) ∧
    (s.on Reg.fldGclCtrlPending p = true → exec (.change port) s = .next s.discard) ∧
    (s.on Reg.fldGclCtrlPending p = true → s.fieldValid = true →
      let a := (natsFrom 0 256).foldl (fun (s : State) e =>
        (s.wr Reg.fldGclOperGates (s.rd Reg.fldGclAdminGates p e) p e).wr Reg.fldGclOperIntervalNs (s.rd Reg.fldGclAdminIntervalNs p e) p e) s
      let b := (a.wr Reg.fldGclOcycleValue (a.rd Reg.fldGclAcycleValue p) p).wr Reg.fldGclObaseValue (a.rd Reg.fldGclAbaseValue p) p
      exec (.gclTakeover port) s = .next (((b.wr Reg.fldGclCtrlPending 0 p).wr Reg.fldGclCtrlEntry 0 p).modFport p fun f =>
        { f with operLen := s.rd Reg.fldGclCtrlAdminLen p, takeover := none })) ∧
    (s.ptpOn p dom = true →
      let off : Int := (s.fieldTime : Int) - (t : Int) - s.fld.delay
      let far := off < -1000 ∨ 1000 < off
      let good := if -100 < off ∧ off < 100 then min 16 (s.fld.good + 1) else 0
      let u := s.wr Reg.fldTimeStatusOffsetNs (sat16 off)
      let v : State := { u with fld := { u.fld with
        offset := if far then u.fld.offset - off else u.fld.offset
        slew := if far then 0 else -off
        good := good
        sync := some (t, if far then ((s.fieldTime : Int) - off).toNat else s.fieldTime) } }
      let w := if good = 16 ∧ v.fieldValid = false then (v.wr Reg.fldTimeStatusValid 1).rearm else v
      exec (.ptpSync port dom t) s = .next (w.modFport p fun f =>
        { f with ctl := if f.ctl.any fun x => x.kind == 3 then f.ctl else f.ctl ++ [⟨3, 0, 0, 0, 0, 0, 0⟩] }) ∧
      (∀ t1 t2 t3, s.fld.sync = some (t1, t2) → s.fld.reqAt = some t3 →
        exec (.ptpDelayResp port dom t) s = .next { s with fld := { s.fld with
          delay := (((t2 : Int) - t1) + ((t : Int) - t3)) / 2, reqAt := none } })) ∧
    (s.fieldValid = true →
      let u := (s.wr Reg.fldTimeStatusValid 0).wr Reg.fldTimeStatusSyncLost 1
      let v : State := { u with fld := { u.fld with good := 0 } }
      exec .ptpLost s = .next (((natsFrom 0 4).foldl (fun (s : State) p => s.modFport p fun f => { f with takeover := none }) v).alarm
        0x05 0xF 0xFF 0 0))

/-! ## Health, power and Porter (R427 to R494) -/

/-- R431 to R434, R436, R451: the event log starts at both counts 0, records the driver has consumed make room for pending alarms, every
source gains a token, a full queue of Porter gives one summary of six counts, and a score update takes the parts in ascending index, alarms
before warnings. R438, R440, R442, R447, R450: a core's self-test at stage 3 sets PASS or quarantines the core; HLT_RESUME releases a held
slot, whose step starts anew; GO of HLT_SHRINK notes the member for the slot's next boundary; HLT_VERIFY runs and compares every range; a
device fault raises its alarm and faults every active lodge. -/
def Obligations.HealthCommands : Prop :=
  (∀ (s : State) (n : Nat),
     (s.on Reg.hltCtrlLogEn = false →
       exec (.logEn true) s = .next ((((s.wr Reg.hltCtrlLogEn 1).wr Reg.hltLogProdCount 0).wr Reg.hltLogConsCount 0).logAlarms 64)) ∧
     exec (.alarmRecord n) s = .next ((s.wr Reg.hltLogConsCount n).logAlarms 64) ∧
     exec .tokenRefill s = .next { s with hlt := { s.hlt with sources :=
       (s.hlt.sources.map fun e => (e.1, e.2.1 - 1, e.2.2)).filter fun e => e.2 != (0, 0) } } ∧
     (32 ≤ s.hlt.portq.length →
       let c (k : Nat) := [min 65535 (Tbl.get 0 k s.hlt.raised), min 65535 (Tbl.get 0 k s.hlt.unsent)]
       exec .porterSummary s = .next { s with prt := { s.prt with summaries := s.prt.summaries ++ [c 0 ++ c 1 ++ c 2] },
                                              hlt := { s.hlt with raised := [], unsent := [] } }) ∧
     exec .scoreUpdate s = .next ((natsFrom 0 212).foldl State.warnPart
       ((natsFrom 0 212).foldl State.alarmPart ((natsFrom 0 212).foldl State.scorePart s)))) ∧
  (∀ (s : State) (core : Fin 160) (slot : Fin 8) (m : Fin 64) (rows : List (Nat × Nat × List Byte)) (resource index : Nat),
     let c := core.val
     (s.stage = 3 → c ∉ s.pwr.tested →
       let u : State := { s with pwr := { s.pwr with tested := sortDedup (c :: s.pwr.tested) } }
       exec (.coreSelfTest core true) s = .next (u.wr Reg.hltCorePassPass 1 c).choices ∧
       exec (.coreSelfTest core false) s = .next ((u.wr Reg.hltCorePassPass 0 c).quarantine c 1).choices) ∧
     (slot.val ∈ s.hlt.held → (s.slotOf slot).running = true →
       exec (.hltResume (2 ^ slot.val)) s = .next (((({ s with hlt := { s.hlt with held := s.hlt.held.filter (· != slot.val) } } : State).modSlot
         slot fun x => { x with started := s.now, nodeAt := [] }).restart slot).choices)) ∧
     (let u := (s.wr Reg.hltShrinkMember m).wr Reg.hltShrinkSlot slot
      u.shrinking slot = false → member u.self ≠ m.val →
       exec (.shrink slot m) s = .next (u.modSlot slot fun x => { x with shrink := some m.val })) ∧
     (let v := ((s.wr Reg.hltVerifyErr 0).wr Reg.hltVerifyMismatch 0).wr Reg.hltVerifyFirstFirstBad 0
      s.on Reg.hltVerifyBusy = false → v.verifyRows = some rows → exec .hltVerify s = .next (v.wr Reg.hltVerifyBusy 1)) ∧
     (let u := s.wr Reg.hltVerifyBusy 0
      let bad := rows.zipIdx.filter fun e => u.rangeDiffers e.1
      s.on Reg.hltVerifyBusy = true → u.verifyRows = some rows →
       exec .verifyDone s = .next ((((bad.foldl (fun (t : State) e =>
         (t.bump Reg.hltCopyDiffCount).error 0x46 (u.rd Reg.hltVerifyLodge) 0xFF (e.2 * 2 ^ 32) e.1.1) u).wr Reg.hltVerifyMismatch
         (min 4095 bad.length)).wr Reg.hltVerifyFirstFirstBad ((bad.map Prod.snd).headD 0)).repairVerify (bad == []))) ∧
     (resource ≤ 5 →
       let src := if resource = 0 then 3 else if resource ≤ 2 then 5 else 7
       let i := if resource = 3 ∨ resource = 4 then index % 8 else 0
       let u := (s.wr Reg.hltStatusDeviceFault 1).alarm 0x09 0xF 0xFF (resource + i * 2 ^ 8 + src * 2 ^ 16) 0
       exec (.deviceFault resource index) s = .next (((natsFrom 0 16).filter fun l => u.lodge l == 1).foldl (fun (t : State) l =>
         t.faultLodge l (if src = 7 then St.lodgeFaulted else St.memUncorr) src 0 0 0) u).choices))

/-- R454, R455, R469, R492, R494: power comes on to stage 0 with cause 0; MRST_N, the watchdog and the loss of REFCLK reset the module, each
with its own cause. R467 to R469, R492, R494: power-down causes. From a powered module the compute rails go, every cause is kept as
LAST_OFF, causes 1, 2, 3 and 6 open the input switch, causes 4 and 5 wait for an order to come on again, and removal takes the management
rail too. -/
def Obligations.PowerOnAndOff : Prop :=
  (∀ (s : State),
     (s.powered = false → s.pwr.waitOn = false → s.pwr.mrstDue = false →
       let on := (({ s with pwr := { s.pwr with rails := 2, switch := true } } : State).wiped.wr Reg.rveCauseLastReset 0).stage0
       exec .powerUp s = .next on ∧ exec .insertion s = .next on) ∧
     (s.powered = true →
       exec (.mrstN true) s = .next (({ s with pwr := { s.pwr with mrst := true } } : State).moduleReset 1) ∧
       exec .watchdog s = .next (s.moduleReset 4) ∧
       (let u := (s.bump Reg.clkRefLossCount).moduleReset 5
        exec .refclkLoss s = .next ({ u with pwr := { u.pwr with refHeld := true } } : State).stage0)) ∧
     exec (.mrstN false) s = .next { s with
       pwr := { s.pwr with mrst := false }
       prt := { s.prt with jtag := if s.prt.jtag = .boundary then .bypass else s.prt.jtag } } ∧
     (s.pwr.refHeld = true → exec .refclkRestored s = .next ({ s with pwr := { s.pwr with refHeld := false } } : State).stage0)) ∧
  (∀ (s : State) (n : Fin 16) (t : Fin 1024), s.powered = true →
     let off (u : State) (cause : Nat) : State :=
       { ({ u.wiped with pwr := { u.wiped.pwr with offAt := some u.now } } : State).wr Reg.rveCauseLastOff cause with
         pwr := { u.wiped.pwr with offAt := some u.now, rails := if cause = 6 then 0 else 1,
                                   switch := u.pwr.switch && (cause == 4 || cause == 5),
                                   waitOn := (cause == 4 || cause == 5 || u.pwr.waitOn) && cause != 6 } }
     exec .undervoltage s = .next (off s 1) ∧ exec .overvoltage s = .next (off s 2) ∧
     exec .overcurrent s = .next ((off s 3).setBit Reg.rveErrBits 3) ∧ exec .removal s = .next (off s 6) ∧
     exec .reverseCurrent s = .next { s with pwr := { s.pwr with switch := false } } ∧
     (n.val ≠ 7 → (s.reading n t).powered = true →
       (if n.val < 5 then 110 else if n.val = 5 then 105 else if n.val = 6 then 125 else 105) * 4 ≤ t.val →
       exec (.thermalTrip n t) s = .next ((off (s.reading n t) 4).wr Reg.rveCauseTripSensor n)))

/-- R457, R459, R460, R480, R481: bring-up. The ROM extends measurements 0 to 3 with what it has verified, and the stage rises one step at a
time: trained T2 channels to 2, T1 stacks to 3, the change of clock to 4; STOP_AT bounds it. -/
def Obligations.BringUp : Prop :=
  ∀ (s : State) (b channels v : Nat) (width : Fin 32) (pass : Fin 256) (speed : Fin 8),
    (let u := s.wr Reg.tlgStatusClassesOk 1
     s.stage = 0 → s.powered = true → s.pwr.refHeld = false → s.on Reg.tlgStatusBootFail = false → b = s.prt.next % 2 → u.verifyBank b = 0 →
      let m := (natsFrom 0 4).foldl (fun (t : State) k => t.extend k (sha384 (t.measured b k))) u
      let w := Config.imageVersion b (m.bank b)
      let r := max m.tlg.rollback w
      let f := Config.imageFw b (m.bank b)
      let k : State := { m with prt := { m.prt with booted := b }, tlg := { m.tlg with version := w, fw := f, rollback := r } }
      exec .measuredBoot s = .next ((k.wr Reg.tlgStatusBootOk 1).wr Reg.glbStageStage 1)) ∧
    (s.stage = 1 → 28 ≤ popcount 32 channels →
      exec (.t2Trained channels width) s = .next (((((((s.wr Reg.memT2ChT2ch channels).wr Reg.memT2OfferFrames (t2Offer channels)).wr
        Reg.glbStageStage 2).wr Reg.hifStatusSpeed 4).wr Reg.hifStatusWidth width).wr Reg.clkStatusSerdesLock 1).trainPorts)) ∧
    (s.stage = 2 → 3 ≤ s.rd Reg.rveBringupStopAt →
      let u := ((s.wr Reg.nbuSelftestPass pass).wr Reg.nbuSelftestFail (255 - pass)).wr Reg.glbStageStage 3
      exec (.t1Trained pass) s = .next (if pass.val = 255 then u else u.setBit Reg.nbuErrBits 0).choices) ∧
    (s.paused = true → s.allIdle = true →
      exec (.clockChange speed) s = .next (((((((s.wr Reg.rveLimitDuty 8).wr Reg.clkStatusCoreDiv 4).wr Reg.glbStageStage 4).useCap).wr
        Reg.hifStatusSpeed speed).retrainSlow.enumerate).choices)) ∧
    (2 ≤ v → v ≤ 4 → exec (.stopAt v) s = .next (s.wr Reg.rveBringupStopAt v)) ∧
    (v < 2 ∨ 4 < v → exec (.stopAt v) s = .next s.discard)

/-- R461 to R465: a cap in range and on a step of 25 W is taken with its table entry, another is discarded with its error bit; DUTY and RATE
move up one unit and down up to four units a step; over the cap the loop lowers its DUTY by 2 to a floor of 8; a core with nothing in it is
gated. R124, R467: sensors. Each reading is kept with its peak; THROTTLE_C sets and HYST_C under it clears a die's throttle bit; at the
alarm threshold THERMAL is raised once until the sensor re-arms 5 °C lower; and a stack's reading steers its near-bank units. -/
def Obligations.PowerAndSensors : Prop :=
  (∀ (s : State) (w avg peak mv ma mj : Nat) (below held : Bool) (core : Fin 160),
     (350 ≤ w → w ≤ (if s.variant = 1 then 450 else 700) → w % 25 = 0 → exec (.capW w) s = .next ((s.wr Reg.rveCapCapW w).useCap)) ∧
     (w < 350 ∨ (if s.variant = 1 then 450 else 700) < w ∨ w % 25 ≠ 0 → exec (.capW w) s = .next (s.discard.setBit Reg.rveErrBits 0)) ∧
     (let step (cur goal : Nat) := if cur < goal then cur + 1 else if goal + 4 ≤ cur then cur - 4 else goal
      let r := step (s.rd Reg.nbuRateRate) s.pwr.target.2
      exec .rampStep s = .next (((s.wr Reg.rveLimitDuty (step (s.rd Reg.rveLimitDuty) s.dutyGoal)).wr Reg.nbuRateRate r).wr Reg.rveLimitRate r)) ∧
     (let a := s.wr Reg.rvePowerAvgW (min avg 4095)
      let u := (((a.wr Reg.rvePowerPeakW (max (a.rd Reg.rvePowerPeakW) (min peak 4095))).wr Reg.rveInputMv (min mv 65535)).wr
        Reg.rveInputMa (min ma 65535)).count Reg.rveEnergyMj mj
      let u := u.wr Reg.rveStatusInLimit (if 20000 < ma then 1 else 0)
      let d := u.pwr.loop.getD (u.rd Reg.rveLimitTableDuty)
      u.rd Reg.rveCapCapW < avg → 8 < d → d ≤ u.rd Reg.rveLimitTableDuty →
       exec (.powerLoop avg peak mv ma mj below held) s = .next ((({ u with pwr := { u.pwr with loop := some (max 8 (d - 2)) } } : State).bump
         Reg.rveLoopCntCount).wr Reg.rveLimitLoopSteps (u.rd Reg.rveLimitTableDuty - max 8 (d - 2)))) ∧
     ((s.core core).queue = [] → (s.core core).places = [] →
       exec (.coreGate core) s = .next { s with pwr := { s.pwr with gated := sortDedup (core.val :: s.pwr.gated) } })) ∧
  (∀ (s : State) (die : Fin 4) (n : Fin 16) (t : Fin 1024) (stack : Fin 8),
     (let u := s.reading die t
      (u.rd Reg.rveThermThrottleC * 4 ≤ t.val → exec (.throttle die t) s = .next (u.setBit Reg.rveStatusThrottled die)) ∧
      (t.val < (u.rd Reg.rveThermThrottleC - u.rd Reg.rveThermHystC) * 4 →
        exec (.throttle die t) s = .next (u.clrBit Reg.rveStatusThrottled die))) ∧
     (n.val ≠ 7 →
       let u := s.reading n t
       let limit := (if n.val < 5 then 100 else if n.val = 5 then 95 else if n.val = 6 then 115 else 98)
       (limit * 4 ≤ t.val → n.val ∉ u.pwr.hot →
         exec (.thermal n t) s = .next ((({ u with pwr := { u.pwr with hot := sortDedup (n.val :: u.pwr.hot) } } : State).setBit Reg.rveErrBits
           2).alarm 0x0A 0xF 0xFF (n.val + t.val * 2 ^ 8) 0)) ∧
       (limit * 4 ≤ t.val → n.val ∈ u.pwr.hot → exec (.thermal n t) s = .next u) ∧
       (t.val < (limit - 5) * 4 → exec (.thermal n t) s = .next { u with pwr := { u.pwr with hot := u.pwr.hot.filter (· != n.val) } })) ∧
     exec (.stackHot stack t) s = .next (({ s with pwr := { s.pwr with temps := Tbl.set 0 (stack + 8) t.val s.pwr.temps } } : State).nbThermal stack t) ∧
     (let u := s.reading 5 t
      exec (.t2Hot t) s = .next { u with pwr := { u.pwr with t2Hot := decide (340 < t.val) } }))

/-- R472 to R475, R478, R480: a frame that commits on a port that is on, while Porter is live, has its effect, and the port's reply is the
frame of R474; on SPI the reply of the frame before is what this frame shifts out. An argument out of range is answered by BAD_OPERAND and
does nothing. R455, R469, R474: POWER and RESET. An ordered power-off waits for the device to drain, a forced one follows the reply at once,
a power-on is refused while a sensor is too hot; RESET is a module reset with cause 2 after the reply. -/
def Obligations.PorterFrames : Prop :=
  (∀ (s : State) (t : FramePort) (tag arg count : Nat) (data : List Nat), s.portOn t = true → s.porterLive = true →
     let u := s.shiftOut t
     exec (.fetch t tag 0 0) s = .next (u.reply t tag St.ok) ∧
     (arg ≠ 0 ∨ count ≠ 0 → exec (.fetch t tag arg count) s = .next (u.reply t tag St.badOperand)) ∧
     (arg % 4 = 0 → 0 < count → arg + 4 * count ≤ 2 ^ 26 → count ≤ 16 →
       exec (.read t tag arg count) s = .next ((u.readRun arg count).1.reply t tag St.ok (u.readRun arg count).2) ∧
       (data.length = count → (u.writeRun arg data).stage ≠ 0 →
         exec (.write t tag arg count data) s = .next ((u.writeRun arg data).reply t tag St.ok).choices)) ∧
     (arg % 4 = 0 → 0 < count → arg + 4 * count ≤ 2 ^ 25 → count ≤ 64 → data.length = count →
       exec (.stage t tag arg count data) s = .next ((u.stageWords (arg / 4) data).reply t tag St.ok)) ∧
     (let b := u.staging
      let w := u.wr Reg.prtFwVerify (u.verifyBank b)
      (u.verifyBank b = 0 → exec (.activate t tag 0 0) s =
        .next (({ w with prt := { w.prt with next := b } } : State).reply t tag St.ok (leBytes 4 0))) ∧
      (u.verifyBank b ≠ 0 → exec (.activate t tag 0 0) s = .next (w.reply t tag St.badOperand (leBytes 4 (u.verifyBank b))))) ∧
     (0 < count → count ≤ 2 → exec (.events t tag 0 count) s = .next ((u.takeEvents count).1.reply t tag St.ok (u.takeEvents count).2))) ∧
  (∀ (s : State) (t : FramePort) (tag : Nat), s.portOn t = true → s.porterLive = true →
     let u := s.shiftOut t
     let r := u.reply t tag St.ok
     (s.powered = true → s.drained = false → exec (.power t tag 0 0) s = .next { r with pwr := { r.pwr with offDue := true } }) ∧
     (s.powered = true → s.drained = true →
       let o : State := { r with pwr := { r.pwr with offDue := true } }
       exec (.power t tag 0 0) s = .next ((o.powerDown 5).keepReplies o)) ∧
     (s.powered = true → exec (.power t tag 2 0) s = .next ((r.powerDown 5).keepReplies r)) ∧
     (s.powered = false → s.coolEnough = true →
       exec (.power t tag 1 0) s = .next (({ u with pwr := { u.pwr with waitOn := false } } : State).reply t tag St.ok)) ∧
     (s.powered = false → s.coolEnough = false →
       exec (.power t tag 1 0) s = .next ((u.bump Reg.prtRefusedCount).reply t tag St.busy)) ∧
     (s.powered = true → exec (.reset t tag 0x5EED0001 0) s = .next ((r.moduleReset 2).keepReplies r)))

/-- R476 to R479, R482, R484: transport errors are counted and a bad CRC is answered on SMBus alone; an SPI frame that does not end at its
length is counted by what it lacks; a Block Read returns the last reply; JTAG selects the register of its instruction, BYPASS where it may
not be used. -/
def Obligations.PorterTransports : Prop :=
  ∀ (s : State) (tag edges len : Nat),
    (s.listens .smbus = true →
      exec (.frameCrcError .smbus tag) s = .next ((s.bump Reg.prtFrameErrCrc).reply .smbus tag St.badReserved) ∧
      exec .blockRead s = .next { s with prt := { s.prt with read := s.prt.smbus } } ∧
      (let u := s.bump Reg.prtFrameErrCrc
       exec .wrongPec s = .next { u with prt := { u.prt with pec := u.prt.pec + 1 } })) ∧
    (s.listens .uart = true →
      exec (.frameCrcError .uart tag) s = .next (s.bump Reg.prtFrameErrCrc) ∧ exec .uartGap s = .next (s.bump Reg.prtFrameErrShort)) ∧
    (let u : State := { s with prt := { s.prt with read := s.prt.spi } }
     s.listens .spi = true →
      exec (.frameCrcError .spi tag) s = .next (u.bump Reg.prtFrameErrCrc) ∧
      (edges % 8 ≠ 0 → exec (.frameDiscard edges len) s = .next (u.bump Reg.prtFrameErrPartial)) ∧
      (edges % 8 = 0 → edges < 56 ∨ edges < 8 * len → exec (.frameDiscard edges len) s = .next (u.bump Reg.prtFrameErrShort)) ∧
      (edges % 8 = 0 → 56 ≤ edges → 8 * len < edges →
        exec (.frameDiscard edges len) s = .next ((u.bump Reg.prtFrameErrOverlong).wr Reg.prtStatusOverlong 1))) ∧
    (s.on Reg.prtCtrlUartEn = true → s.porterLive = true → exec .framingError s = .next (s.bump Reg.prtFrameErrOverlong)) ∧
    (let chain (j : Jtag) : State := { s with prt := { s.prt with jtag := j } }
     exec (.jtagInstruction .idcode) s = .next (chain .idcode) ∧ exec (.jtagInstruction .bypass) s = .next (chain .bypass) ∧
     exec (.jtagInstruction .other) s = .next (chain .bypass) ∧
     exec (.jtagInstruction .boundary) s = .next (chain (if s.pwr.mrst then .boundary else .bypass)) ∧
     exec (.jtagInstruction .debug) s = .next (chain (if s.tlg.debug then .debug else .bypass)))
end

