-- ==== Sys2Proof/Laws/Tbl.lean ====
section
/-!
SUPPORT. Laws of the canonical sparse table: a read after a write, and every operation keeps the canonical form.
-/

namespace Sys2Proof.Tbl

variable {α : Type}

@[simp] theorem get_nil (d : α) (k : Nat) : get d k [] = d := rfl

/-- A smaller bound is a bound. -/
theorem above_mono {m n : Nat} (h : m ≤ n) : ∀ {t : Tbl α}, above n t = true → above m t = true
  | [], _ => rfl
  | (j, v) :: r, ht => by
    simp only [above, Bool.and_eq_true, decide_eq_true_eq] at ht ⊢
    exact ⟨by omega, above_mono h ht.2⟩

theorem above_put {n k : Nat} (v : α) (hk : n < k) : ∀ {t : Tbl α}, above n t = true → above n (put k v t) = true
  | [], _ => by simp [put, above, hk]
  | (j, w) :: r, ht => by
    have h := ht
    simp only [above, Bool.and_eq_true, decide_eq_true_eq] at ht
    unfold put
    split
    · simp only [above, Bool.and_eq_true, decide_eq_true_eq]
      exact ⟨hk, ht⟩
    · split
      · simp only [above, Bool.and_eq_true, decide_eq_true_eq]
        exact ⟨hk, ht.2⟩
      · simp only [above, Bool.and_eq_true, decide_eq_true_eq]
        exact ⟨ht.1, above_put v hk ht.2⟩

theorem above_del {n k : Nat} : ∀ {t : Tbl α}, above n t = true → above n (del k t) = true
  | [], _ => rfl
  | (j, w) :: r, ht => by
    simp only [above, Bool.and_eq_true, decide_eq_true_eq] at ht
    unfold del
    split
    · exact ht.2
    · simp only [above, Bool.and_eq_true, decide_eq_true_eq]
      exact ⟨ht.1, above_del ht.2⟩

theorem above_filter {n : Nat} (p : Nat × α → Bool) : ∀ {t : Tbl α}, above n t = true → above n (t.filter p) = true
  | [], _ => rfl
  | (j, w) :: r, ht => by
    simp only [above, Bool.and_eq_true, decide_eq_true_eq] at ht
    have ih := above_filter p ht.2
    simp only [List.filter_cons]
    split
    · simp only [above, Bool.and_eq_true, decide_eq_true_eq]
      exact ⟨ht.1, ih⟩
    · exact ih

/-- Keys below a bound read as the default. -/
theorem get_above (d : α) {n k : Nat} (h : k ≤ n) : ∀ {t : Tbl α}, above n t = true → get d k t = d
  | [], _ => rfl
  | (j, w) :: r, ht => by
    simp only [above, Bool.and_eq_true, decide_eq_true_eq] at ht
    unfold get
    rw [if_neg (by omega), if_pos (by omega)]

/-! Tables whose keys rise. -/

theorem rising_cons {j : Nat} {v : α} {r : Tbl α} : rising ((j, v) :: r) = true ↔ above j r = true ∧ rising r = true := by
  simp [rising]

theorem rising_put {k : Nat} (v : α) : ∀ {t : Tbl α}, rising t = true → rising (put k v t) = true
  | [], _ => rfl
  | (j, w) :: r, ht => by
    have h := rising_cons.1 ht
    unfold put
    split
    · refine rising_cons.2 ⟨?_, ht⟩
      simp only [above, Bool.and_eq_true, decide_eq_true_eq]
      exact ⟨by assumption, above_mono (by omega) h.1⟩
    · split
      · subst j
        exact rising_cons.2 h
      · exact rising_cons.2 ⟨above_put v (by omega) h.1, rising_put v h.2⟩

theorem rising_del {k : Nat} : ∀ {t : Tbl α}, rising t = true → rising (del k t) = true
  | [], _ => rfl
  | (j, w) :: r, ht => by
    have h := rising_cons.1 ht
    unfold del
    split
    · exact h.2
    · exact rising_cons.2 ⟨above_del h.1, rising_del h.2⟩

theorem rising_set [DecidableEq α] {d : α} {k : Nat} {v : α} {t : Tbl α} (h : rising t = true) : rising (set d k v t) = true := by
  unfold set
  split
  · exact rising_del h
  · exact rising_put v h

theorem rising_filter (p : Nat × α → Bool) : ∀ {t : Tbl α}, rising t = true → rising (t.filter p) = true
  | [], _ => rfl
  | (j, w) :: r, ht => by
    have h := rising_cons.1 ht
    have ih := rising_filter p h.2
    simp only [List.filter_cons]
    split
    · exact rising_cons.2 ⟨above_filter p h.1, ih⟩
    · exact ih

theorem above_map {β : Type} {n : Nat} (f : Nat × α → β) : ∀ {t : Tbl α}, above n t = true →
    above n (t.map fun e => (e.1, f e)) = true
  | [], _ => rfl
  | (j, w) :: r, ht => by
    simp only [above, Bool.and_eq_true, decide_eq_true_eq] at ht
    simp only [List.map_cons, above, Bool.and_eq_true, decide_eq_true_eq]
    exact ⟨ht.1, above_map f ht.2⟩

/-- Changing values leaves the keys as they are. -/
theorem rising_map {β : Type} (f : Nat × α → β) : ∀ {t : Tbl α}, rising t = true → rising (t.map fun e => (e.1, f e)) = true
  | [], _ => rfl
  | (j, w) :: r, ht => by
    have h := rising_cons.1 ht
    exact rising_cons.2 ⟨above_map f h.1, rising_map f h.2⟩

variable [DecidableEq α] (d : α)

theorem rising_of_wf : ∀ {t : Tbl α}, wf d t = true → rising t = true
  | [], _ => rfl
  | (j, v) :: r, ht => by
    simp only [wf, Bool.and_eq_true] at ht
    exact rising_cons.2 ⟨ht.1.2, rising_of_wf ht.2⟩

theorem wf_cons {j : Nat} {v : α} {r : Tbl α} : wf d ((j, v) :: r) = true ↔ v ≠ d ∧ above j r = true ∧ wf d r = true := by
  simp [wf, and_assoc]

theorem wf_put {k : Nat} {v : α} (hv : v ≠ d) : ∀ {t : Tbl α}, wf d t = true → wf d (put k v t) = true
  | [], _ => by simp [put, wf, above, hv]
  | (j, w) :: r, ht => by
    have h := (wf_cons d).1 ht
    unfold put
    split
    · refine (wf_cons d).2 ⟨hv, ?_, ht⟩
      simp only [above, Bool.and_eq_true, decide_eq_true_eq]
      exact ⟨by assumption, above_mono (by omega) h.2.1⟩
    · split
      · subst j
        exact (wf_cons d).2 ⟨hv, h.2⟩
      · exact (wf_cons d).2 ⟨h.1, above_put v (by omega) h.2.1, wf_put hv h.2.2⟩

theorem wf_del {k : Nat} : ∀ {t : Tbl α}, wf d t = true → wf d (del k t) = true
  | [], _ => rfl
  | (j, w) :: r, ht => by
    have h := (wf_cons d).1 ht
    unfold del
    split
    · exact h.2.2
    · exact (wf_cons d).2 ⟨h.1, above_del h.2.1, wf_del h.2.2⟩

/-- Writing keeps the canonical form. -/
theorem wf_set {k : Nat} {v : α} {t : Tbl α} (h : wf d t = true) : wf d (set d k v t) = true := by
  unfold set
  split
  · exact wf_del d h
  · exact wf_put d (by assumption) h

/-- Writing a run of values keeps the canonical form. -/
theorem wf_setRun : ∀ (k : Nat) (l : List α) {t : Tbl α}, wf d t = true → wf d (setRun d k l t) = true
  | _, [], _, h => h
  | k, _ :: r, _, h => wf_setRun (k + 1) r (wf_set d h)

theorem wf_filter (p : Nat × α → Bool) : ∀ {t : Tbl α}, wf d t = true → wf d (t.filter p) = true
  | [], _ => rfl
  | (j, w) :: r, ht => by
    have h := (wf_cons d).1 ht
    have ih := wf_filter p h.2.2
    simp only [List.filter_cons]
    split
    · exact (wf_cons d).2 ⟨h.1, above_filter p h.2.1, ih⟩
    · exact ih

/-- Removing a range keeps the canonical form. -/
theorem wf_clear (lo hi : Nat) {t : Tbl α} (h : wf d t = true) : wf d (clear lo hi t) = true := wf_filter d _ h

omit [DecidableEq α] in
theorem get_put_self (k : Nat) (v : α) : ∀ t : Tbl α, get d k (put k v t) = v
  | [] => by simp [put, get]
  | (j, w) :: r => by
    unfold put
    split
    · simp [get]
    · split
      · simp [get]
      · simp only [get]
        rw [if_neg (by assumption), if_neg (by assumption)]
        exact get_put_self k v r

omit [DecidableEq α] in
theorem get_put_other {i k : Nat} (v : α) (h : i ≠ k) : ∀ t : Tbl α, get d i (put k v t) = get d i t
  | [] => by
    simp only [put, get]
    rw [if_neg (by omega)]
    split <;> rfl
  | (j, w) :: r => by
    unfold put
    split
    · simp only [get]
      rw [if_neg (by omega)]
      split
      · rw [if_neg (by omega), if_pos (by omega)]
      · rfl
    · split
      · subst j
        simp only [get, if_neg (Ne.symm h)]
      · simp only [get]
        rw [get_put_other v h r]

omit [DecidableEq α] in
theorem get_del_self {k : Nat} : ∀ {t : Tbl α}, rising t = true → get d k (del k t) = d
  | [], _ => rfl
  | (j, w) :: r, ht => by
    have h := rising_cons.1 ht
    unfold del
    split
    · exact get_above d (by omega) h.1
    · simp only [get]
      rw [if_neg (by assumption)]
      split
      · rfl
      · exact get_del_self h.2

omit [DecidableEq α] in
theorem get_del_other {i k : Nat} (h : i ≠ k) : ∀ {t : Tbl α}, rising t = true → get d i (del k t) = get d i t
  | [], _ => rfl
  | (j, w) :: r, ht => by
    have hw := rising_cons.1 ht
    unfold del
    split
    · subst j
      simp only [get]
      rw [if_neg (by omega)]
      split
      · exact get_above d (by omega) hw.1
      · rfl
    · simp only [get]
      rw [get_del_other h hw.2]

/-- A value written is read back, also at another default. -/
theorem get_set_rising {k : Nat} {v : α} {t : Tbl α} (h : rising t = true) : get d k (set d k v t) = v := by
  unfold set
  split
  · rw [get_del_self d h]; exact (by assumption : v = d).symm
  · exact get_put_self d k v t

/-- A write leaves every other key alone, whatever defaults the two keys have. -/
theorem get_set_apart (e : α) {i k : Nat} {v : α} {t : Tbl α} (hi : i ≠ k) (h : rising t = true) :
    get e i (set d k v t) = get e i t := by
  unfold set
  split
  · exact get_del_other e hi h
  · exact get_put_other e v hi t

/-- A value written is read back. -/
theorem get_set_self {k : Nat} {v : α} {t : Tbl α} (h : wf d t = true) : get d k (set d k v t) = v :=
  get_set_rising d (rising_of_wf d h)

/-- A write leaves every other key alone. -/
theorem get_set_other {i k : Nat} {v : α} {t : Tbl α} (hi : i ≠ k) (h : wf d t = true) : get d i (set d k v t) = get d i t :=
  get_set_apart d d hi (rising_of_wf d h)

/-- A run of values leaves every key outside it alone. -/
theorem get_setRun_other {i : Nat} : ∀ (k : Nat) (l : List α) {t : Tbl α}, wf d t = true → (i < k ∨ k + l.length ≤ i) →
    get d i (setRun d k l t) = get d i t
  | _, [], _, _, _ => rfl
  | k, v :: r, t, h, hi => by
    have hi' : i ≠ k := by
      simp only [List.length_cons] at hi
      omega
    rw [setRun, get_setRun_other (k + 1) r (wf_set d h) (by simp only [List.length_cons] at hi; omega), get_set_other d hi' h]

/-- A run of values is read back. -/
theorem get_setRun_self : ∀ (k : Nat) (l : List α) {t : Tbl α} (i : Nat), wf d t = true → (hi : i < l.length) →
    get d (k + i) (setRun d k l t) = l[i]
  | _, [], _, _, _, hi => absurd hi (by simp)
  | k, v :: r, t, 0, h, _ => by
    rw [setRun, get_setRun_other d (k + 1) r (wf_set d h) (by omega), Nat.add_zero, get_set_self d h]
    rfl
  | k, v :: r, t, i + 1, h, hi => by
    have := get_setRun_self (k + 1) r i (wf_set d (k := k) (v := v) h) (by simpa using hi)
    rw [setRun, show k + (i + 1) = k + 1 + i by omega, this]
    rfl

omit [DecidableEq α] in
theorem find_put_self (k : Nat) (v : α) : ∀ t : Tbl α, find k (put k v t) = some v
  | [] => by simp [put, find]
  | (j, w) :: r => by
    unfold put
    split
    · simp [find]
    · split
      · simp [find]
      · simp only [find]
        rw [if_neg (by assumption), if_neg (by assumption)]
        exact find_put_self k v r

omit [DecidableEq α] in
theorem find_put_other {i k : Nat} (v : α) (h : i ≠ k) : ∀ t : Tbl α, find i (put k v t) = find i t
  | [] => by
    simp only [put, find]
    rw [if_neg (by omega)]
    split <;> rfl
  | (j, w) :: r => by
    unfold put
    split
    · simp only [find]
      rw [if_neg (by omega)]
      split
      · rw [if_neg (by omega), if_pos (by omega)]
      · rfl
    · split
      · subst j
        simp only [find, if_neg (Ne.symm h)]
      · simp only [find]
        rw [find_put_other v h r]

omit [DecidableEq α] in
/-- A value changed is found changed. -/
theorem find_adjust_self {k : Nat} {f : α → α} {v : α} : ∀ {t : Tbl α}, find k t = some v → find k (adjust k f t) = some (f v)
  | [], h => by simp [find] at h
  | (j, w) :: r, h => by
    by_cases e : j = k
    · simp_all [find, adjust]
    · simp only [find, adjust, e, if_false] at *
      split at h
      · simp at h
      · rename_i n
        simp only [n, if_false]
        exact find_adjust_self h

omit [DecidableEq α] in
/-- A change leaves every other key alone. -/
theorem find_adjust_other {i k : Nat} {f : α → α} (n : i ≠ k) : ∀ {t : Tbl α}, find i (adjust k f t) = find i t
  | [] => rfl
  | (j, w) :: r => by
    by_cases e : j = k
    · subst e
      simp [find, adjust, Ne.symm n]
    · simp only [find, adjust, e, if_false, find_adjust_other n]

theorem length_natsFrom (a n : Nat) : (natsFrom a n).length = n := by
  induction n generalizing a with
  | zero => rfl
  | succ n ih => simp [natsFrom, ih]

theorem getElem_natsFrom (a n i : Nat) (h : i < (natsFrom a n).length) : (natsFrom a n)[i] = a + i := by
  induction n generalizing a i with
  | zero => simp [natsFrom] at h
  | succ n ih =>
    cases i with
    | zero => rfl
    | succ i =>
      simp only [natsFrom, List.getElem_cons_succ]
      rw [ih]
      omega

/-- A run of values is read back as a run. -/
theorem getRun_setRun (k : Nat) (l : List α) (t : Tbl α) (h : wf d t = true) : getRun d k l.length (setRun d k l t) = l := by
  unfold getRun
  apply List.ext_getElem
  · simp [length_natsFrom]
  · intro i h1 h2
    simp only [List.getElem_map, getElem_natsFrom]
    exact get_setRun_self d k l i h h2

end Sys2Proof.Tbl
end

