-- ==== Sys2Proof/Laws/Keeps.lean ====
section
/-!
SUPPORT. How `Keeps` is shown: every operation that starts from a state kept so far answers a state kept.
-/

namespace Sys2Proof.Machine

theorem Keeps.refl (s : State) : Keeps s s := ⟨rfl, rfl, rfl, id⟩

theorem Keeps.trans {s t u : State} (h : Keeps s t) (g : Keeps t u) : Keeps s u :=
  ⟨g.pending.trans h.pending, g.variant.trans h.variant, (g.debug).trans h.debug, fun i => g.inv (h.inv i)⟩

/-- A state with the same queue, variant, fuse and memories, whose registers and cores rise where the other's do. -/
theorem Keeps.same {z s t : State} (h : Keeps z s) (hp : t.pending = s.pending) (hb : t.mem.bytes = s.mem.bytes)
    (hc : t.coreStore = s.coreStore) (hh : t.hif.mem = s.hif.mem) (hr : Tbl.rising s.regs = true → Tbl.rising t.regs = true)
    (hk : Tbl.rising s.cores = true → Tbl.rising t.cores = true) (hv : t.variant = s.variant) (hd : t.tlg.debug = s.tlg.debug)
    (hq : t.pad.bytes = s.pad.bytes := by rfl) : Keeps z t :=
  ⟨hp.trans h.pending, hv.trans h.variant, hd.trans h.debug, fun i => by
    have j := h.inv i
    exact ⟨hb ▸ j.bytes, hc ▸ j.store, hq ▸ j.pad, hh ▸ j.host, hr j.regs, hk j.cores⟩⟩

/-- A record update that leaves the queue, the fuse and the memories alone. -/
theorem Keeps.upd {z s : State} {a_now} {a_free} {a_regs} {a_hif} {a_cores} {a_lfsrs} {a_csBad} {a_tallies} {a_groups} {a_tallyDump} {a_mem} {a_debt} {a_ramp} {a_lod} {a_ldg} {a_wan} {a_hlt} {a_spn} {a_att} {a_emb} {a_fld} {a_lnk} {a_pwr} {a_prt} {a_tlg} {a_sent} (h : Keeps z s)
    (hb : a_mem.bytes = s.mem.bytes) (hh : a_hif.mem = s.hif.mem) (hr : Tbl.rising s.regs = true → Tbl.rising a_regs = true)
    (hk : Tbl.rising s.cores = true → Tbl.rising a_cores = true) (hd : a_tlg.debug = s.tlg.debug) :
    Keeps z { s with now := a_now, free := a_free, regs := a_regs, hif := a_hif, cores := a_cores, lfsrs := a_lfsrs, csBad := a_csBad, tallies := a_tallies, groups := a_groups, tallyDump := a_tallyDump, mem := a_mem, debt := a_debt, ramp := a_ramp, lod := a_lod, ldg := a_ldg, wan := a_wan, hlt := a_hlt, spn := a_spn, att := a_att, emb := a_emb, fld := a_fld, lnk := a_lnk, pwr := a_pwr, prt := a_prt, tlg := a_tlg, sent := a_sent } :=
  h.same rfl hb rfl hh hr hk rfl hd

/-- A change of the scratchpads that keeps their canonical form. -/
theorem Keeps.setPad {z s : State} {p : Pad} (h : Keeps z s) (hp : Memory.wf s.pad.bytes = true → Memory.wf p.bytes = true) :
    Keeps z { s with pad := p } :=
  h.trans ⟨rfl, rfl, rfl, fun i => ⟨i.bytes, i.store, hp i.pad, i.host, i.regs, i.cores⟩⟩

theorem Keeps.cut {z s t : State} (h : Keeps z s) (g : Keeps z s → Keeps z t) : Keeps z t := g h

theorem Keeps.ite {z s t : State} {c : Prop} [Decidable c] (h : Keeps z s) (g : Keeps z t) : Keeps z (if c then s else t) := by
  split
  · exact h
  · exact g

theorem Keeps.pair {β : Type _} {z t : State} {x : β} {p : State × β} (h : Keeps z p.1) (e : p = (t, x)) : Keeps z t := by
  subst e; exact h

theorem Keeps.foldl {β : Type _} {z t : State} {f : State → β → State} {l : List β} (h : Keeps z t)
    (hf : ∀ u a, Keeps z u → Keeps z (f u a)) : Keeps z (l.foldl f t) := by
  induction l generalizing t with
  | nil => exact h
  | cons a r ih => exact ih (hf t a h)

theorem Keeps.foldlPair {β γ : Type _} {z : State} {p : State × γ} {f : State × γ → β → State × γ} {l : List β} (h : Keeps z p.1)
    (hf : ∀ u a v, Keeps z u.1 → f u a = v → Keeps z v.1) : Keeps z (l.foldl f p).1 := by
  induction l generalizing p with
  | nil => exact h
  | cons a r ih => exact ih (hf p a _ h rfl)

end Sys2Proof.Machine
end

