-- ==== Sys2Proof/Laws/KeepOps.lean ====
section
/-!
SUPPORT. The operations of Ops keep the queue and the canonical memories.
-/

namespace Sys2Proof.Machine

theorem State.wr_keeps {z s : State} {a1} {a2} {a3} {a4} (h : Keeps z s) : Keeps z (State.wr s a1 a2 a3 a4) := by
  unfold State.wr
  exact Keeps.upd h rfl rfl Tbl.rising_set id rfl

theorem State.bump_keeps {z s : State} {a1} {a2} {a3} {a4} (h : Keeps z s) : Keeps z (State.bump s a1 a2 a3 a4) := by
  unfold State.bump
  exact State.wr_keeps h

theorem State.count_keeps {z s : State} {a1} {a2} {a3} {a4} (h : Keeps z s) : Keeps z (State.count s a1 a2 a3 a4) := by
  unfold State.count
  exact State.wr_keeps h

theorem State.setBit_keeps {z s : State} {a1} {a2} {a3} (h : Keeps z s) : Keeps z (State.setBit s a1 a2 a3) := by
  unfold State.setBit
  exact State.wr_keeps h

theorem State.clrBit_keeps {z s : State} {a1} {a2} {a3} (h : Keeps z s) : Keeps z (State.clrBit s a1 a2 a3) := by
  unfold State.clrBit
  exact Keeps.ite (State.wr_keeps h) h

theorem State.flag_keeps {z s : State} {a1} {a2} {a3} (h : Keeps z s) : Keeps z (State.flag s a1 a2 a3) := by
  unfold State.flag
  exact State.wr_keeps h

theorem State.useFree_keeps {z s : State} {a1} (h : Keeps z s) : Keeps z (State.useFree s a1) := by
  unfold State.useFree
  exact Keeps.upd h rfl rfl id id rfl

/-- Writing host memory keeps its canonical form. -/
theorem State.hostWrite_keeps {z s : State} {a bs} (h : Keeps z s) : Keeps z (State.hostWrite s a bs) :=
  h.trans ⟨rfl, rfl, rfl, fun i => ⟨i.bytes, i.store, i.pad, Tbl.wf_setRun _ _ _ i.host, i.regs, i.cores⟩⟩

theorem State.hostWord_keeps {z s : State} {a1} {a2} (h : Keeps z s) : Keeps z (State.hostWord s a1 a2) := by
  unfold State.hostWord
  exact State.hostWrite_keeps h

theorem State.fire_keeps {z s : State} {a1} (h : Keeps z s) : Keeps z (State.fire s a1) := by
  unfold State.fire
  exact Keeps.ite (Keeps.upd h rfl rfl id id rfl) (Keeps.upd h rfl rfl id id rfl)

theorem State.devCause_keeps {z s : State} {a1} (h : Keeps z s) : Keeps z (State.devCause s a1) := by
  unfold State.devCause
  exact State.fire_keeps (State.setBit_keeps h)

theorem State.discard_keeps {z s : State} (h : Keeps z s) : Keeps z (State.discard s) := by
  unfold State.discard
  exact State.devCause_keeps (State.bump_keeps h)

theorem State.badAccess_keeps {z s : State} (h : Keeps z s) : Keeps z (State.badAccess s) := by
  unfold State.badAccess
  exact State.devCause_keeps (State.bump_keeps h)

theorem State.logWrite_keeps {z s : State} {a1} (h : Keeps z s) : Keeps z (State.logWrite s a1) := by
  unfold State.logWrite
  extract_lets +onlyGivenNames u1
  clear_value u1
  extract_lets +onlyGivenNames u2
  clear_value u2
  extract_lets +onlyGivenNames u3
  refine Keeps.cut (s := u3) (State.hostWrite_keeps h) fun h4 => ?_
  clear_value u3
  extract_lets +onlyGivenNames u5
  refine Keeps.cut (s := u5) (State.count_keeps h4) fun h6 => ?_
  clear_value u5
  extract_lets +onlyGivenNames u7
  clear_value u7
  exact Keeps.ite h6 (State.fire_keeps h6)

theorem State.toPorter_keeps {z s : State} {a1} (h : Keeps z s) : Keeps z (State.toPorter s a1) := by
  unfold State.toPorter
  extract_lets +onlyGivenNames u1
  extract_lets +onlyGivenNames u2
  exact Keeps.ite (Keeps.upd h rfl rfl id id rfl) (Keeps.upd h rfl rfl id id rfl)

theorem State.notForwarded_keeps {z s : State} {a1} (h : Keeps z s) : Keeps z (State.notForwarded s a1) := by
  unfold State.notForwarded
  exact Keeps.upd h rfl rfl id id rfl

theorem State.logAlarms_keeps {z s : State} {a1} (h : Keeps z s) : Keeps z (State.logAlarms s a1) := by
  induction a1 generalizing s with
  | zero =>
    unfold State.logAlarms
    exact h
  | succ n ih =>
    unfold State.logAlarms
    split
    · exact h
    · apply Keeps.ite
      · extract_lets +onlyGivenNames u1
        clear_value u1
        extract_lets +onlyGivenNames u2
        clear_value u2
        extract_lets +onlyGivenNames u3
        refine Keeps.cut (s := u3) (Keeps.upd h rfl rfl id id rfl) fun h4 => ?_
        clear_value u3
        exact ih (State.logWrite_keeps h4)
      · exact h

theorem State.alarm_keeps {z s : State} {a1} {a2} {a3} {a4} {a5} (h : Keeps z s) : Keeps z (State.alarm s a1 a2 a3 a4 a5) := by
  unfold State.alarm
  extract_lets +onlyGivenNames u1
  refine Keeps.cut (s := u1) (State.bump_keeps h) fun h2 => ?_
  clear_value u1
  extract_lets +onlyGivenNames u3
  refine Keeps.cut (s := u3) (State.wr_keeps h2) fun h4 => ?_
  clear_value u3
  extract_lets +onlyGivenNames u5
  refine Keeps.cut (s := u5) (State.wr_keeps h4) fun h6 => ?_
  clear_value u5
  extract_lets +onlyGivenNames u7
  refine Keeps.cut (s := u7) (State.wr_keeps h6) fun h8 => ?_
  clear_value u7
  extract_lets +onlyGivenNames u9
  clear_value u9
  extract_lets +onlyGivenNames u10
  clear_value u10
  extract_lets +onlyGivenNames u11
  refine Keeps.cut (s := u11) (Keeps.upd h8 rfl rfl id id rfl) fun h12 => ?_
  clear_value u11
  extract_lets +onlyGivenNames u13
  refine Keeps.cut (s := u13) (State.toPorter_keeps h12) fun h14 => ?_
  clear_value u13
  exact State.logAlarms_keeps h14

theorem State.error_keeps {z s : State} {a1} {a2} {a3} {a4} {a5} (h : Keeps z s) : Keeps z (State.error s a1 a2 a3 a4 a5) := by
  unfold State.error
  extract_lets +onlyGivenNames u1
  clear_value u1
  extract_lets +onlyGivenNames u2
  clear_value u2
  apply Keeps.ite
  · extract_lets +onlyGivenNames u3
    clear_value u3
    extract_lets +onlyGivenNames u4
    refine Keeps.cut (s := u4) (State.toPorter_keeps h) fun h5 => ?_
    clear_value u4
    apply Keeps.ite
    · extract_lets +onlyGivenNames u6
      clear_value u6
      extract_lets +onlyGivenNames u7
      refine Keeps.cut (s := u7) (Keeps.upd h5 rfl rfl id id rfl) fun h8 => ?_
      clear_value u7
      exact State.logWrite_keeps h8
    · extract_lets +onlyGivenNames u9
      clear_value u9
      extract_lets +onlyGivenNames u10
      refine Keeps.cut (s := u10) (Keeps.upd h5 rfl rfl id id rfl) fun h11 => ?_
      clear_value u10
      exact State.bump_keeps h11
  · extract_lets +onlyGivenNames u12
    clear_value u12
    extract_lets +onlyGivenNames u13
    refine Keeps.cut (s := u13) (Keeps.upd h rfl rfl id id rfl) fun h14 => ?_
    clear_value u13
    exact State.notForwarded_keeps (State.bump_keeps h14)

theorem State.trace_keeps {z s : State} {a1} {a2} {a3} {a4} {a5} (h : Keeps z s) : Keeps z (State.trace s a1 a2 a3 a4 a5) := by
  unfold State.trace
  apply Keeps.ite
  · extract_lets +onlyGivenNames u1
    refine Keeps.cut (s := u1) (State.notForwarded_keeps h) fun h2 => ?_
    clear_value u1
    exact Keeps.ite (State.logWrite_keeps h2) (State.bump_keeps h2)
  · exact h

end Sys2Proof.Machine
end

