-- ==== Sys2Proof/Laws/KeepMemOps.lean ====
section
/-!
SUPPORT. The operations of MemOps keep the queue and the canonical memories.
-/

namespace Sys2Proof.Machine

theorem State.touch_keeps {z s : State} {a1} {a2} {a3} {a4} (h : Keeps z s) : Keeps z (State.touch s a1 a2 a3 a4) := by
  unfold State.touch
  extract_lets +onlyGivenNames u1
  clear_value u1
  exact Keeps.upd h rfl rfl id id rfl

/-- Writing lodge memory keeps its canonical form. -/
theorem State.pokeRaw_keeps {z s : State} {l a bs} (h : Keeps z s) : Keeps z (State.pokeRaw s l a bs) :=
  h.trans ⟨rfl, rfl, rfl, fun i => ⟨Tbl.wf_setRun _ _ _ i.bytes, i.store, i.pad, i.host, i.regs, i.cores⟩⟩

theorem State.poke_keeps {z s : State} {a1} {a2} {a3} (h : Keeps z s) : Keeps z (State.poke s a1 a2 a3) := by
  unfold State.poke
  exact State.touch_keeps (State.pokeRaw_keeps h)

theorem State.touchReads_keeps {z s : State} {a1} {a2} (h : Keeps z s) : Keeps z (State.touchReads s a1 a2) := by
  induction a2 generalizing s a1 with
  | nil =>
    unfold State.touchReads
    exact h
  | cons b r ih =>
    unfold State.touchReads
    exact ih (State.touch_keeps h)

theorem State.pokeNat_keeps {z s : State} {a1} {a2} {a3} {a4} (h : Keeps z s) : Keeps z (State.pokeNat s a1 a2 a3 a4) := by
  unfold State.pokeNat
  exact State.poke_keeps h

theorem State.poisonRange_keeps {z s : State} {a1} {a2} {a3} (h : Keeps z s) : Keeps z (State.poisonRange s a1 a2 a3) := by
  unfold State.poisonRange
  apply Keeps.ite
  · exact h
  · extract_lets +onlyGivenNames u1
    clear_value u1
    extract_lets +onlyGivenNames u2
    clear_value u2
    exact Keeps.upd h rfl rfl id id rfl

theorem State.uncorr_keeps {z s : State} {a1} {a2} {a3} (h : Keeps z s) : Keeps z (State.uncorr s a1 a2 a3) := by
  unfold State.uncorr
  extract_lets +onlyGivenNames u1
  clear_value u1
  exact State.error_keeps (State.setBit_keeps h)

theorem State.seeUncorr_keeps {z s : State} {a1} {a2} (h : Keeps z s) : Keeps z (State.seeUncorr s a1 a2) := by
  unfold State.seeUncorr
  split
  · exact h
  · split
    · exact State.uncorr_keeps h
    · exact h

theorem State.raiseUncorr_keeps {z s : State} {a1} {a2} {a3} (h : Keeps z s) : Keeps z (State.raiseUncorr s a1 a2 a3) := by
  unfold State.raiseUncorr
  exact Keeps.ite (State.seeUncorr_keeps h) h

theorem State.scramble_keeps {z s : State} {a1} {a2} {a3} (h : Keeps z s) : Keeps z (State.scramble s a1 a2 a3) := by
  unfold State.scramble
  exact State.useFree_keeps (State.poke_keeps h)

/-- Forgetting the bytes of a page keeps the canonical form. -/
theorem State.dropPageBytes_keeps {z s : State} {l p} (h : Keeps z s) : Keeps z (State.dropPageBytes s l p) :=
  h.trans ⟨rfl, rfl, rfl, fun i => ⟨Tbl.wf_clear _ _ _ i.bytes, i.store, i.pad, i.host, i.regs, i.cores⟩⟩

theorem State.release_keeps {z s : State} {a1} {a2} (h : Keeps z s) : Keeps z (State.release s a1 a2) := by
  unfold State.release
  exact Keeps.upd h rfl rfl id id rfl

theorem State.setCore_keeps {z s : State} {a1} {a2} (h : Keeps z s) : Keeps z (State.setCore s a1 a2) := by
  unfold State.setCore
  exact Keeps.upd h rfl rfl id Tbl.rising_set rfl

theorem State.modCore_keeps {z s : State} {a1} {a2} (h : Keeps z s) : Keeps z (State.modCore s a1 a2) := by
  unfold State.modCore
  exact State.setCore_keeps h

theorem State.charge_keeps {z s : State} {a1} {a2} {a3} {a4} (h : Keeps z s) : Keeps z (State.charge s a1 a2 a3 a4) := by
  unfold State.charge
  extract_lets +onlyGivenNames u1
  clear_value u1
  extract_lets +onlyGivenNames u2
  clear_value u2
  exact Keeps.upd h rfl rfl id id rfl

theorem State.grant_keeps {z s : State} {a1} {a2} {a3} {a4} (h : Keeps z s) : Keeps z (State.grant s a1 a2 a3 a4).1 := by -- by hand
  induction a4 generalizing s a3 with
  | zero => exact h
  | succ n ih =>
    unfold State.grant
    split
    · exact h
    · exact ih (State.charge_keeps h)

theorem State.chargePath_keeps {z s : State} {a1} {a2} {a3} (h : Keeps z s) : Keeps z (State.chargePath s a1 a2 a3) := by
  unfold State.chargePath
  exact State.charge_keeps h

theorem State.grantAll_keeps {z s : State} {a1} {a2} {a3} (h : Keeps z s) : Keeps z (State.grantAll s a1 a2 a3).1 := by
  unfold State.grantAll
  exact State.grant_keeps h

end Sys2Proof.Machine
end

