-- ==== Sys2Proof/Laws/KeepLedgerState.lean ====
section
/-!
SUPPORT. The operations of LedgerState keep the queue and the canonical memories.
-/

namespace Sys2Proof.Machine

theorem State.faultEntries_keeps {z s : State} {a1} {a2} (h : Keeps z s) : Keeps z (State.faultEntries s a1 a2) := by
  unfold State.faultEntries
  extract_lets +onlyGivenNames u1
  clear_value u1
  exact Keeps.upd h rfl rfl id id rfl

theorem State.setSlot_keeps {z s : State} {a1} {a2} (h : Keeps z s) : Keeps z (State.setSlot s a1 a2) := by
  unfold State.setSlot
  exact Keeps.upd h rfl rfl id id rfl

theorem State.modSlot_keeps {z s : State} {a1} {a2} (h : Keeps z s) : Keeps z (State.modSlot s a1 a2) := by
  unfold State.modSlot
  exact State.setSlot_keeps h

end Sys2Proof.Machine
end

