-- ==== Sys2Proof/Laws/KeepCmdOps.lean ====
section
/-!
SUPPORT. The operations of CmdOps keep the queue and the canonical memories.
-/

namespace Sys2Proof.Machine

theorem State.setJob_keeps {z s : State} {a1} {a2} {a3} (h : Keeps z s) : Keeps z (State.setJob s a1 a2 a3) := by
  unfold State.setJob
  exact State.modCore_keeps h

theorem State.dropJob_keeps {z s : State} {a1} {a2} (h : Keeps z s) : Keeps z (State.dropJob s a1 a2) := by
  unfold State.dropJob
  exact State.modCore_keeps h

theorem State.clientEvent_keeps {z s : State} {a1} {a2} {a3} (h : Keeps z s) : Keeps z (State.clientEvent s a1 a2 a3) := by
  unfold State.clientEvent
  extract_lets +onlyGivenNames u1
  clear_value u1
  split
  · exact Keeps.upd h rfl rfl id id rfl
  · apply Keeps.ite
    · exact Keeps.upd h rfl rfl id id rfl
    · extract_lets +onlyGivenNames u2
      clear_value u2
      extract_lets +onlyGivenNames u3
      clear_value u3
      exact State.setBit_keeps (Keeps.upd h rfl rfl id id rfl)

theorem State.recordWait_keeps {z s : State} {a1} {a2} {a3} (h : Keeps z s) : Keeps z (State.recordWait s a1 a2 a3) := by
  unfold State.recordWait
  exact Keeps.foldl h (fun x1 x2 h3 => State.clientEvent_keeps h3)

theorem State.setRing_keeps {z s : State} {a1} {a2} (h : Keeps z s) : Keeps z (State.setRing s a1 a2) := by
  unfold State.setRing
  exact Keeps.upd h rfl rfl id id rfl

theorem State.modRing_keeps {z s : State} {a1} {a2} (h : Keeps z s) : Keeps z (State.modRing s a1 a2) := by
  unfold State.modRing
  exact State.setRing_keeps h

theorem State.writeDevIdx_keeps {z s : State} {a1} (h : Keeps z s) : Keeps z (State.writeDevIdx s a1) := by
  unfold State.writeDevIdx
  exact State.hostWord_keeps h

theorem State.countIrq_keeps {z s : State} {a1} (h : Keeps z s) : Keeps z (State.countIrq s a1) := by
  unfold State.countIrq
  extract_lets +onlyGivenNames u1
  clear_value u1
  extract_lets +onlyGivenNames u2
  clear_value u2
  apply Keeps.ite
  · extract_lets +onlyGivenNames u3
    refine Keeps.cut (s := u3) (State.modRing_keeps h) fun h4 => ?_
    clear_value u3
    exact Keeps.ite h4 (State.fire_keeps h4)
  · exact State.modRing_keeps h

theorem State.writeRecord_keeps {z s : State} {a1} {a2} {a3} {a4} {a5} {a6} (h : Keeps z s) : Keeps z (State.writeRecord s a1 a2 a3 a4 a5 a6) := by
  unfold State.writeRecord
  extract_lets +onlyGivenNames u1
  clear_value u1
  extract_lets +onlyGivenNames u2
  clear_value u2
  extract_lets +onlyGivenNames u3
  refine Keeps.cut (s := u3) (State.hostWrite_keeps h) fun h4 => ?_
  clear_value u3
  extract_lets +onlyGivenNames u5
  refine Keeps.cut (s := u5) (State.writeDevIdx_keeps (State.count_keeps h4)) fun h6 => ?_
  clear_value u5
  exact Keeps.ite (State.countIrq_keeps h6) h6

theorem State.reserve_keeps {z s : State} {a1} (h : Keeps z s) : Keeps z (State.reserve s a1) := by
  unfold State.reserve
  exact State.modRing_keeps h

theorem State.unreserve_keeps {z s : State} {a1} (h : Keeps z s) : Keeps z (State.unreserve s a1) := by
  unfold State.unreserve
  exact State.modRing_keeps h

theorem State.settleRing_keeps {z s : State} {a1} (h : Keeps z s) : Keeps z (State.settleRing s a1) := by
  unfold State.settleRing
  exact Keeps.ite (State.wr_keeps (State.wr_keeps h)) h

theorem State.unlive_keeps {z s : State} {a1} (h : Keeps z s) : Keeps z (State.unlive s a1) := by
  unfold State.unlive
  exact Keeps.ite h (State.settleRing_keeps (State.modRing_keeps h))

theorem State.post_keeps {z s : State} {a1} {a2} {a3} {a4} {a5} (h : Keeps z s) : Keeps z (State.post s a1 a2 a3 a4 a5) := by
  unfold State.post
  extract_lets +onlyGivenNames u1
  clear_value u1
  exact Keeps.ite (State.writeRecord_keeps h) (State.devCause_keeps (State.bump_keeps h))

theorem State.settleBarriers_keeps {z s : State} {a1} {a2} (h : Keeps z s) : Keeps z (State.settleBarriers s a1 a2) := by
  induction a2 generalizing s a1 with
  | zero =>
    unfold State.settleBarriers
    exact h
  | succ n ih =>
    unfold State.settleBarriers
    split
    · exact h
    · apply Keeps.ite
      · exact h
      · apply Keeps.ite
        · extract_lets +onlyGivenNames u1
          refine Keeps.cut (s := u1) (State.modRing_keeps h) fun h2 => ?_
          clear_value u1
          extract_lets +onlyGivenNames u3
          refine Keeps.cut (s := u3) (State.unlive_keeps (State.post_keeps h2)) fun h4 => ?_
          clear_value u3
          exact ih h4
        · exact h

theorem State.finish_keeps {z s : State} {a1} {a2} {a3} {a4} {a5} (h : Keeps z s) : Keeps z (State.finish s a1 a2 a3 a4 a5) := by
  unfold State.finish
  apply Keeps.ite
  · exact h
  · extract_lets +onlyGivenNames u1
    refine Keeps.cut (s := u1) (State.unlive_keeps (State.post_keeps h)) fun h2 => ?_
    clear_value u1
    exact State.settleBarriers_keeps h2

theorem State.completeWith_keeps {z s : State} {a1} {a2} {a3} {a4} {a5} (h : Keeps z s) : Keeps z (State.completeWith s a1 a2 a3 a4 a5) := by
  unfold State.completeWith
  exact Keeps.ite h (Keeps.ite (State.finish_keeps h) (State.modRing_keeps (State.bump_keeps h)))

theorem State.complete_keeps {z s : State} {a1} {a2} {a3} {a4} (h : Keeps z s) : Keeps z (State.complete s a1 a2 a3 a4) := by
  unfold State.complete
  exact Keeps.ite h (Keeps.ite (State.finish_keeps h) (State.modRing_keeps (State.bump_keeps h)))

theorem State.killLodge_keeps {z s : State} {a1} (h : Keeps z s) : Keeps z (State.killLodge s a1) := by
  unfold State.killLodge
  extract_lets +onlyGivenNames u1
  clear_value u1
  extract_lets +onlyGivenNames u2
  clear_value u2
  exact Keeps.upd h rfl rfl id (Tbl.rising_map _) rfl

theorem State.countKills_keeps {z s : State} {a1} (h : Keeps z s) : Keeps z (State.countKills s a1) := by
  unfold State.countKills
  exact Keeps.foldl h (fun x1 x2 h3 => State.count_keeps h3)

theorem State.dropQueued_keeps {z s : State} {a1} (h : Keeps z s) : Keeps z (State.dropQueued s a1) := by -- by hand
  unfold State.dropQueued
  exact Keeps.upd h rfl rfl id (Tbl.rising_map _) rfl

theorem State.discardQueued_keeps {z s : State} {a1} (h : Keeps z s) : Keeps z (State.discardQueued s a1) := by
  unfold State.discardQueued
  exact Keeps.foldl (State.dropQueued_keeps h) (fun x1 x2 h3 => State.unlive_keeps h3)

theorem State.faultRecord_keeps {z s : State} {a1} {a2} {a3} {a4} {a5} {a6} (h : Keeps z s) : Keeps z (State.faultRecord s a1 a2 a3 a4 a5 a6) := by
  unfold State.faultRecord
  extract_lets +onlyGivenNames u1
  refine Keeps.cut (s := u1) (State.wr_keeps h) fun h2 => ?_
  clear_value u1
  extract_lets +onlyGivenNames u3
  refine Keeps.cut (s := u3) (State.wr_keeps h2) fun h4 => ?_
  clear_value u3
  extract_lets +onlyGivenNames u5
  refine Keeps.cut (s := u5) (State.wr_keeps h4) fun h6 => ?_
  clear_value u5
  extract_lets +onlyGivenNames u7
  refine Keeps.cut (s := u7) (State.wr_keeps h6) fun h8 => ?_
  clear_value u7
  extract_lets +onlyGivenNames u9
  refine Keeps.cut (s := u9) (State.wr_keeps h8) fun h10 => ?_
  clear_value u9
  extract_lets +onlyGivenNames u11
  refine Keeps.cut (s := u11) (Keeps.ite (State.wr_keeps h10) h) fun h12 => ?_
  clear_value u11
  exact State.bump_keeps h12

theorem State.faultEvent_keeps {z s : State} {a1} {a2} {a3} {a4} {a5} {a6} {a7} (h : Keeps z s) : Keeps z (State.faultEvent s a1 a2 a3 a4 a5 a6 a7) := by
  unfold State.faultEvent
  extract_lets +onlyGivenNames u1
  clear_value u1
  extract_lets +onlyGivenNames u2
  refine Keeps.cut (s := u2) (State.error_keeps (State.setBit_keeps h)) fun h3 => ?_
  clear_value u2
  exact State.fire_keeps h3

theorem State.dropAdmits_keeps {z s : State} {a1} (h : Keeps z s) : Keeps z (State.dropAdmits s a1) := by
  unfold State.dropAdmits
  extract_lets +onlyGivenNames u1
  clear_value u1
  extract_lets +onlyGivenNames u2
  clear_value u2
  extract_lets +onlyGivenNames u3
  refine Keeps.cut (s := u3) (Keeps.upd h rfl rfl id id rfl) fun h4 => ?_
  clear_value u3
  exact Keeps.foldl h4 (fun x5 x6 h7 => State.unlive_keeps (State.unreserve_keeps h7))

theorem State.endWaits_keeps {z s : State} {a1} (h : Keeps z s) : Keeps z (State.endWaits s a1) := by
  unfold State.endWaits
  exact Keeps.foldl h (fun x1 x2 h3 => State.recordWait_keeps h3)

theorem State.sweepLodge_keeps {z s : State} {a1} {a2} (h : Keeps z s) : Keeps z (State.sweepLodge s a1 a2) := by
  unfold State.sweepLodge
  exact State.faultEntries_keeps (State.endWaits_keeps (State.dropAdmits_keeps (State.discardQueued_keeps (State.killLodge_keeps (State.countKills_keeps h)))))

theorem State.faultLodge_keeps {z s : State} {a1} {a2} {a3} {a4} {a5} {a6} (h : Keeps z s) : Keeps z (State.faultLodge s a1 a2 a3 a4 a5 a6) := by
  unfold State.faultLodge
  apply Keeps.ite
  · extract_lets +onlyGivenNames u1
    refine Keeps.cut (s := u1) (State.wr_keeps h) fun h2 => ?_
    clear_value u1
    extract_lets +onlyGivenNames u3
    refine Keeps.cut (s := u3) (State.sweepLodge_keeps h2) fun h4 => ?_
    clear_value u3
    exact State.faultEvent_keeps (State.faultRecord_keeps h4)
  · exact Keeps.ite (State.faultRecord_keeps h) h

theorem State.orphanLodge_keeps {z s : State} {a1} {a2} {a3} {a4} {a5} {a6} {a7} {a8} (h : Keeps z s) : Keeps z (State.orphanLodge s a1 a2 a3 a4 a5 a6 a7 a8) := by
  unfold State.orphanLodge
  apply Keeps.ite
  · extract_lets +onlyGivenNames u1
    refine Keeps.cut (s := u1) (State.wr_keeps h) fun h2 => ?_
    clear_value u1
    extract_lets +onlyGivenNames u3
    refine Keeps.cut (s := u3) (State.sweepLodge_keeps h2) fun h4 => ?_
    clear_value u3
    extract_lets +onlyGivenNames u5
    refine Keeps.cut (s := u5) (State.faultEvent_keeps (State.faultRecord_keeps h4)) fun h6 => ?_
    clear_value u5
    exact State.alarm_keeps (State.setBit_keeps h6)
  · exact Keeps.ite (State.faultRecord_keeps h) h

theorem State.tallyBlocked_keeps {z s : State} {a1} {a2} (h : Keeps z s) : Keeps z (State.tallyBlocked s a1 a2) := by
  unfold State.tallyBlocked
  extract_lets +onlyGivenNames u1
  clear_value u1
  extract_lets +onlyGivenNames u2
  refine Keeps.cut (s := u2) (State.setBit_keeps (State.bump_keeps h)) fun h3 => ?_
  clear_value u2
  exact State.error_keeps h3

theorem State.signal_keeps {z s : State} {a1} {a2} (h : Keeps z s) : Keeps z (State.signal s a1 a2).1 := by
  unfold State.signal
  split
  · exact h
  · split
    · dsimp -zeta only
      exact State.bump_keeps h
    · split
      · extract_lets +onlyGivenNames u1
        refine Keeps.cut (s := u1) (Keeps.upd h rfl rfl id id rfl) fun h2 => ?_
        clear_value u1
        dsimp -zeta only
        exact State.setBit_keeps (State.bump_keeps h2)
      · dsimp -zeta only
        exact Keeps.upd h rfl rfl id id rfl

theorem State.signals_keeps {z s : State} {a1} (h : Keeps z s) : Keeps z (State.signals s a1).1 := by
  induction a1 generalizing s with
  | nil =>
    unfold State.signals
    exact h
  | cons b r ih =>
    unfold State.signals
    extract_lets +onlyGivenNames u1
    refine Keeps.cut (s := u1.1) (State.signal_keeps h) fun h2 => ?_
    clear_value u1
    extract_lets +onlyGivenNames u3
    refine Keeps.cut (s := u3.1) (ih h2) fun h4 => ?_
    clear_value u3
    dsimp -zeta only
    exact h4

end Sys2Proof.Machine
end

