-- ==== Sys2Proof/Laws/Scratchpad.lean ====
section
/-!
SUPPORT. The tile scratchpads: what a bank grants and serves (R72 to R74), and every operation keeps the canonical form.
-/

namespace Sys2Proof.Machine

/-! ## Canonical form -/

theorem Pad.write_wf {p : Pad} {c t : Nat} {q : PadReq} (h : Memory.wf p.bytes = true) : Memory.wf (p.write c t q).bytes = true := by
  unfold Pad.write
  split
  · exact h
  · exact Tbl.wf_setRun _ _ _ h

theorem Pad.writePort_wf {p : Pad} {c t b : Nat} {l : List PadReq} (h : Memory.wf p.bytes = true) :
    Memory.wf (p.writePort c t b l).1.bytes = true := by
  simp only [Pad.writePort]
  split
  · exact h
  · exact Pad.write_wf h

theorem Pad.readPort_bytes (p : Pad) (c t b : Nat) (l : List PadReq) : (p.readPort c t b l).1.bytes = p.bytes := by
  simp only [Pad.readPort]
  split <;> rfl

/-- A list of ports served one after another keeps what each keeps. -/
theorem foldl_keeps {α β : Type _} {P : α → Prop} {f : α → β → α} (hf : ∀ a b, P a → P (f a b)) :
    ∀ (l : List β) (a : α), P a → P (l.foldl f a)
  | [], _, h => h
  | b :: r, a, h => foldl_keeps hf r (f a b) (hf a b h)

theorem Pad.cycle_wf {p : Pad} {c t : Nat} {l : List PadReq} (h : Memory.wf p.bytes = true) :
    Memory.wf (p.cycle c t l).1.bytes = true := by
  unfold Pad.cycle
  generalize natsFrom 0 8 = bs
  have w := foldl_keeps (P := fun a : Pad × List PadReq => Memory.wf a.1.bytes = true)
    (f := fun a b => a.1.writePort c t b a.2) (fun a b g => Pad.writePort_wf g) bs (p, l) h
  refine foldl_keeps (P := fun a : Pad × List PadReq × List (PadReq × List Byte) => Memory.wf a.1.bytes = true) ?_ _ _ w
  intro a b g
  show Memory.wf (a.1.readPort c t b a.2.1).1.bytes = true
  rw [Pad.readPort_bytes]
  exact g

theorem Pad.drain_wf {c t : Nat} : ∀ (n : Nat) (l : List PadReq) {p : Pad}, Memory.wf p.bytes = true →
    Memory.wf (p.drain c t n l).bytes = true
  | 0, _, _, h => h
  | n + 1, l, p, h => by
    unfold Pad.drain
    split
    · exact h
    · exact Pad.drain_wf n _ (Pad.cycle_wf h)

theorem Pad.traffic_wf {p : Pad} {c t : Nat} {l : List PadReq} (h : Memory.wf p.bytes = true) :
    Memory.wf (p.traffic c t l).bytes = true := Pad.drain_wf _ _ h

theorem Pad.zero_wf {p : Pad} {c : Nat} (h : Memory.wf p.bytes = true) : Memory.wf (p.zero c).bytes = true := Tbl.wf_filter _ _ h

/-! ## What a bank does -/

/-- After R75 zeroes a core, every byte of its scratchpads reads zero. -/
theorem Pad.zero_reads {p : Pad} {c k : Nat} (hk : k / 2 ^ 21 = c) : Tbl.get 0 k (p.zero c).bytes = 0 := by
  unfold Pad.zero
  induction p.bytes with
  | nil => rfl
  | cons e r ih =>
    simp only [List.filter_cons]
    split
    · rename_i h
      have hne : k ≠ e.1 := by
        rintro rfl
        exact bne_iff_ne.mp h hk
      obtain ⟨j, v⟩ := e
      simp only [Tbl.get]
      split
      · rename_i hj; exact absurd hj (by simpa using Ne.symm hne)
      · split
        · rfl
        · exact ih
    · exact ih

/-- A home master that asks for its bank's port receives it (R72). -/
theorem portGrant_home {turn bank : Nat} {ms : List Nat} (h : bank ∈ ms) : portGrant turn bank ms = some bank := by
  simp [portGrant, homeMaster, h]

/-- The accesses of a run lie inside the windows (R74). -/
theorem padTraffic_inside (run tile : Nat) : ∀ q ∈ padTraffic run tile, q.master < 8 ∧ padStatus q.addr = St.ok := by
  intro q hq
  simp only [padTraffic, List.mem_map] at hq
  obtain ⟨x, -, rfl⟩ := hq
  refine ⟨Nat.mod_lt _ (by decide), ?_⟩
  have : x.2.2.1 % 0xC0000 < 0xC0000 := Nat.mod_lt _ (by decide)
  unfold padStatus padWindow
  by_cases h1 : x.2.2.1 % 0xC0000 < 0x40000
  · simp [h1]
  · by_cases h2 : x.2.2.1 % 0xC0000 < 0x80000
    · simp [h1, h2]
    · simp [h1, h2, this]

/-- Issuing shadows leaves the scratchpads alone. -/
theorem State.stepShadow_pad (c : Nat) (j : Job) (all : Bool) (m n : Nat) :
    ∀ (k i : Nat) (s : State), (s.stepShadow c j all m n k i).pad = s.pad
  | 0, _, _ => rfl
  | k + 1, i, s => by
    unfold State.stepShadow
    dsimp only
    rw [State.stepShadow_pad c j all m n k]
    split
    · split <;> rfl
    · rfl

/-- A word read back after a write of it holds what the window makes of it (R73, R74). -/
theorem Pad.word_write {p : Pad} {c t : Nat} {q : PadReq} {w : PadWindow} {a : Nat} (h : Memory.wf p.bytes = true)
    (hw : padWindow q.addr = some (w, a)) : (p.write c t q).word c t a = padMerge w (p.word c t a) q.data q.enable := by
  have hl : (padMerge w (p.word c t a) q.data q.enable).length = 64 := by simp [padMerge, Tbl.length_natsFrom]
  simp only [Pad.write, hw, Pad.word] at hl ⊢
  have := Tbl.getRun_setRun (d := (0 : Byte)) (padKey c t (a / 64 * 64)) (padMerge w (p.word c t a) q.data q.enable) p.bytes h
  rw [show (padMerge w (p.word c t a) q.data q.enable).length = 64 from hl] at this
  exact this

end Sys2Proof.Machine
end

