-- ==== Sys2Proof/Laws/KeepSlots.lean ====
section
/-!
SUPPORT. The operations of Slots keep the queue and the canonical memories.
-/

namespace Sys2Proof.Machine

theorem State.enter_keeps {z s : State} {a1} {a2} {a3} {a4} (h : Keeps z s) : Keeps z (State.enter s a1 a2 a3 a4) := by
  unfold State.enter
  extract_lets +onlyGivenNames u1
  clear_value u1
  extract_lets +onlyGivenNames u2
  clear_value u2
  extract_lets +onlyGivenNames u3
  refine Keeps.cut (s := u3) (Keeps.upd h rfl rfl id id rfl) fun h4 => ?_
  clear_value u3
  exact State.recordWait_keeps (State.setCore_keeps h4)

theorem State.fillKind_keeps {z s : State} {a1} {a2} (h : Keeps z s) : Keeps z (State.fillKind s a1 a2) := by
  unfold State.fillKind
  apply Keeps.ite
  · split
    · exact h
    · split
      split
      · exact h
      · exact State.enter_keeps h
  · exact h

theorem State.preempt_keeps {z s : State} {a1} {a2} {a3} (h : Keeps z s) : Keeps z (State.preempt s a1 a2 a3) := by
  unfold State.preempt
  extract_lets +onlyGivenNames u1
  clear_value u1
  extract_lets +onlyGivenNames u2
  refine Keeps.cut (s := u2) (State.setJob_keeps h) fun h3 => ?_
  clear_value u2
  extract_lets +onlyGivenNames u4
  refine Keeps.cut (s := u4) (State.count_keeps (State.count_keeps (State.modCore_keeps h3))) fun h5 => ?_
  clear_value u4
  exact Keeps.foldl h5 (fun x6 x7 h8 => State.clientEvent_keeps h8)

theorem State.tryPreempt_keeps {z s : State} {a1} {a2} (h : Keeps z s) : Keeps z (State.tryPreempt s a1 a2) := by
  unfold State.tryPreempt
  apply Keeps.ite
  · split
    · exact Keeps.ite (State.preempt_keeps h) h
    · exact h
  · exact h

theorem State.fillAll_keeps {z s : State} {a1} {a2} (h : Keeps z s) : Keeps z (State.fillAll s a1 a2) := by
  induction a2 generalizing s a1 with
  | zero =>
    unfold State.fillAll
    exact h
  | succ n ih =>
    unfold State.fillAll
    exact ih (State.fillKind_keeps (State.fillKind_keeps (State.fillKind_keeps h)))

theorem State.slotChoice_keeps {z s : State} {a1} (h : Keeps z s) : Keeps z (State.slotChoice s a1) := by
  unfold State.slotChoice
  exact State.tryPreempt_keeps (State.tryPreempt_keeps (State.fillAll_keeps h))

theorem State.holdSlot_keeps {z s : State} {a1} (h : Keeps z s) : Keeps z (State.holdSlot s a1) := by
  unfold State.holdSlot
  extract_lets +onlyGivenNames u1
  clear_value u1
  extract_lets +onlyGivenNames u2
  clear_value u2
  exact Keeps.upd h rfl rfl id (Tbl.rising_map _) rfl

theorem State.releaseJob_keeps {z s : State} {a1} (h : Keeps z s) : Keeps z (State.releaseJob s a1) := by
  unfold State.releaseJob
  exact Keeps.ite (State.unreserve_keeps h) h

theorem State.record_keeps {z s : State} {a1} {a2} {a3} (h : Keeps z s) : Keeps z (State.record s a1 a2 a3) := by
  unfold State.record
  exact Keeps.ite (State.finish_keeps h) (State.completeWith_keeps h)

theorem State.spoil_keeps {z s : State} {a1} (h : Keeps z s) : Keeps z (State.spoil s a1) := by
  unfold State.spoil
  exact Keeps.ite (Keeps.foldl h (fun x1 x2 h3 => State.scramble_keeps h3)) h

theorem State.repairMove_keeps {z s : State} {a1} {a2} (h : Keeps z s) : Keeps z (State.repairMove s a1 a2) := by
  unfold State.repairMove
  exact Keeps.ite (State.trace_keeps h) h

theorem State.closeJob_keeps {z s : State} {a1} {a2} {a3} {a4} (h : Keeps z s) : Keeps z (State.closeJob s a1 a2 a3 a4) := by
  unfold State.closeJob
  extract_lets +onlyGivenNames u1
  refine Keeps.cut (s := u1) (State.record_keeps (State.repairMove_keeps (State.releaseJob_keeps (State.dropJob_keeps (State.spoil_keeps h))))) fun h2 => ?_
  clear_value u1
  extract_lets +onlyGivenNames u3
  refine Keeps.cut (s := u3) (Keeps.ite (State.holdSlot_keeps h2) h2) fun h4 => ?_
  clear_value u3
  exact Keeps.ite (State.faultLodge_keeps h4) h4

theorem State.cmdUncorr_keeps {z s : State} {a1} {a2} (h : Keeps z s) : Keeps z (State.cmdUncorr s a1 a2) := by
  unfold State.cmdUncorr
  exact Keeps.ite (State.seeUncorr_keeps h) (Keeps.ite (State.setBit_keeps h) (State.seeUncorr_keeps h))

theorem State.endJob_keeps {z s : State} {a1} {a2} {a3} {a4} (h : Keeps z s) : Keeps z (State.endJob s a1 a2 a3 a4) := by
  unfold State.endJob
  exact State.closeJob_keeps (Keeps.ite (State.cmdUncorr_keeps h) h)

theorem State.failDecode_keeps {z s : State} {a1} {a2} {a3} {a4} (h : Keeps z s) : Keeps z (State.failDecode s a1 a2 a3 a4) := by
  unfold State.failDecode
  exact Keeps.ite (State.endJob_keeps h) (Keeps.ite (State.setJob_keeps h) (State.bump_keeps (State.setJob_keeps h)))

theorem State.refuse_keeps {z s : State} {a1} {a2} {a3} {a4} (h : Keeps z s) : Keeps z (State.refuse s a1 a2 a3 a4) := by
  unfold State.refuse
  extract_lets +onlyGivenNames u1
  refine Keeps.cut (s := u1) (Keeps.ite (State.tallyBlocked_keeps h) h) fun h2 => ?_
  clear_value u1
  extract_lets +onlyGivenNames u3
  refine Keeps.cut (s := u3) (Keeps.ite (State.setBit_keeps h2) h2) fun h4 => ?_
  clear_value u3
  exact State.failDecode_keeps h4

theorem State.stepShadow_keeps {z s : State} {a1} {a2} {a3} {a4} {a5} {a6} {a7} (h : Keeps z s) : Keeps z (State.stepShadow s a1 a2 a3 a4 a5 a6 a7) := by
  induction a6 generalizing s a1 a2 a3 a4 a5 a7 with
  | zero =>
    unfold State.stepShadow
    exact h
  | succ n ih =>
    unfold State.stepShadow
    extract_lets +onlyGivenNames u1
    clear_value u1
    extract_lets +onlyGivenNames u2
    refine Keeps.cut (s := u2) (Keeps.upd h rfl rfl id id rfl) fun h3 => ?_
    clear_value u2
    extract_lets +onlyGivenNames u4
    refine Keeps.cut (s := u4) (Keeps.ite (Keeps.ite (State.bump_keeps h3) (State.modCore_keeps h3)) h3) fun h5 => ?_
    clear_value u4
    exact ih h5

theorem State.beginCompute_keeps {z s : State} {a1} {a2} (h : Keeps z s) : Keeps z (State.beginCompute s a1 a2) := by -- by hand
  unfold State.beginCompute
  extract_lets +onlyGivenNames u1
  clear_value u1
  extract_lets +onlyGivenNames u2
  refine Keeps.cut (s := u2) (State.setCore_keeps h) fun h3 => ?_
  clear_value u2
  extract_lets +onlyGivenNames u3
  refine Keeps.cut (s := u3) (Keeps.setPad h3 fun w => by split; exact w; exact Pad.zero_wf w) fun h4 => ?_
  clear_value u3
  apply Keeps.ite
  · extract_lets +onlyGivenNames u4
    clear_value u4
    extract_lets +onlyGivenNames u5
    clear_value u5
    exact State.stepShadow_keeps h4
  · exact h4

theorem State.leaveScratch_keeps {z s : State} {a1} (h : Keeps z s) : Keeps z (State.leaveScratch s a1) := by -- by hand
  unfold State.leaveScratch
  generalize natsFrom 0 8 = ts
  exact State.useFree_keeps (Keeps.setPad h fun w =>
    foldl_keeps (P := fun p : Pad => Memory.wf p.bytes = true) (fun _ _ g => Pad.traffic_wf g) ts s.pad w)

theorem State.toFence_keeps {z s : State} {a1} {a2} {a3} (h : Keeps z s) : Keeps z (State.toFence s a1 a2 a3) := by
  unfold State.toFence
  extract_lets +onlyGivenNames u1
  refine Keeps.cut (s := u1) (Keeps.foldl h (fun x2 x3 h4 => State.scramble_keeps h4)) fun h5 => ?_
  clear_value u1
  exact State.setJob_keeps h5

theorem State.admitJob_keeps {z s : State} {a1} {a2} {a3} {a4} (h : Keeps z s) (ha4 : ∀ y0 y1, Keeps z y0 → Keeps z (a4 y0 y1)) : Keeps z (State.admitJob s a1 a2 a3 a4) := by
  unfold State.admitJob
  apply Keeps.ite
  · extract_lets +onlyGivenNames u1
    refine Keeps.cut (s := u1) (Keeps.ite h (State.reserve_keeps h)) fun h2 => ?_
    clear_value u1
    extract_lets +onlyGivenNames u3
    clear_value u3
    exact Keeps.ite (ha4 _ _ h2) (State.setJob_keeps h2)
  · exact Keeps.ite h (State.bump_keeps (State.setJob_keeps h))

theorem State.runSlot_keeps {z s : State} {a1} {a2} {a3} {a4} {a5} {a6} (h : Keeps z s) (ha6 : ∀ y0 y1, Keeps z y0 → Keeps z (a6 y0 y1)) : Keeps z (State.runSlot s a1 a2 a3 a4 a5 a6) := by
  unfold State.runSlot
  split
  · exact h
  · apply Keeps.ite
    · split
      · apply Keeps.ite
        · exact State.failDecode_keeps h
        · extract_lets +onlyGivenNames u1
          clear_value u1
          exact Keeps.ite (State.refuse_keeps h) (State.admitJob_keeps h (fun x2 x3 h4 => ha6 _ _ h4))
      · exact Keeps.ite (ha6 _ _ h) h
      · exact h
    · exact h

/-- Publishing staged pages keeps the canonical form of the core stores. -/
theorem State.publishStaged_keeps {z s : State} {c l ps} (h : Keeps z s) : Keeps z (State.publishStaged s c l ps) := by
  induction ps generalizing s with
  | nil => exact h
  | cons b r ih =>
    unfold State.publishStaged
    split
    · exact ih h
    · exact ih (State.modCore_keeps (h.trans ⟨rfl, rfl, rfl, fun i => ⟨i.bytes, Tbl.wf_setRun _ _ _ i.store, i.pad, i.host, i.regs, i.cores⟩⟩))

theorem State.pokeMapped_keeps {z s : State} {a1} {a2} {a3} (h : Keeps z s) : Keeps z (State.pokeMapped s a1 a2 a3) := by
  unfold State.pokeMapped
  apply Keeps.foldl
  · exact h
  · intro x1 x2 h3
    apply Keeps.ite
    · extract_lets +onlyGivenNames u4
      clear_value u4
      extract_lets +onlyGivenNames u5
      clear_value u5
      exact State.pokeRaw_keeps h3
    · exact h3

theorem State.publishDirect_keeps {z s : State} {a1} {a2} (h : Keeps z s) : Keeps z (State.publishDirect s a1 a2) := by
  induction a2 generalizing s a1 with
  | nil =>
    unfold State.publishDirect
    exact h
  | cons b r ih =>
    unfold State.publishDirect
    exact ih (State.pokeMapped_keeps h)

theorem State.countCompl_keeps {z s : State} {a1} (h : Keeps z s) : Keeps z (State.countCompl s a1) := by
  unfold State.countCompl
  exact Keeps.ite (Keeps.upd h rfl rfl id id rfl) h

theorem State.commitJob_keeps {z s : State} {a1} {a2} {a3} (h : Keeps z s) : Keeps z (State.commitJob s a1 a2 a3) := by -- by hand
  unfold State.commitJob
  extract_lets +onlyGivenNames u1
  refine Keeps.cut (s := u1) (State.publishStaged_keeps (State.publishDirect_keeps h)) fun h2 => ?_
  clear_value u1
  extract_lets +onlyGivenNames u3
  refine Keeps.cut (s := u3) (State.count_keeps (State.dropJob_keeps h2)) fun h4 => ?_
  clear_value u3
  extract_lets +onlyGivenNames u7
  have h8 : Keeps z u7.1 := by
    subst u7
    split
    · exact State.signals_keeps h4
    · exact h4
  clear_value u7
  extract_lets +onlyGivenNames u9
  refine Keeps.cut (s := u9) (State.record_keeps (State.releaseJob_keeps (State.repairMove_keeps (State.countCompl_keeps h8)))) fun h10 => ?_
  clear_value u9
  exact Keeps.ite (State.faultLodge_keeps h10) h10

theorem State.endKill_keeps {z s : State} {a1} {a2} {a3} (h : Keeps z s) : Keeps z (State.endKill s a1 a2 a3) := by
  unfold State.endKill
  extract_lets +onlyGivenNames u1
  refine Keeps.cut (s := u1) (State.releaseJob_keeps (State.dropJob_keeps (State.spoil_keeps h))) fun h2 => ?_
  clear_value u1
  apply Keeps.ite
  · extract_lets +onlyGivenNames u3
    clear_value u3
    exact State.modCore_keeps h2
  · apply Keeps.ite
    · extract_lets +onlyGivenNames u4
      refine Keeps.cut (s := u4) (State.record_keeps h2) fun h5 => ?_
      clear_value u4
      exact Keeps.ite (State.faultLodge_keeps h5) h5
    · exact State.unlive_keeps h2

theorem State.payDebt_keeps {z s : State} (h : Keeps z s) : Keeps z (State.payDebt s) := by
  unfold State.payDebt
  exact Keeps.upd h rfl rfl id id rfl

theorem State.badOp_keeps {z s : State} {a1} {a2} (h : Keeps z s) : Keeps z (State.badOp s a1 a2) := by
  unfold State.badOp
  split
  · exact h
  · exact Keeps.ite (State.refuse_keeps h) h

theorem State.badTally_keeps {z s : State} {a1} (h : Keeps z s) : Keeps z (State.badTally s a1) := by
  unfold State.badTally
  split
  · exact h
  · exact Keeps.ite (State.finish_keeps (State.modCore_keeps h)) (Keeps.ite h (State.bump_keeps (State.modCore_keeps h)))

theorem State.reachCore_keeps {z s : State} {a1} {a2} (h : Keeps z s) : Keeps z (State.reachCore s a1 a2) := by
  unfold State.reachCore
  exact Keeps.ite (State.modCore_keeps h) (State.complete_keeps h)

theorem State.unhold_keeps {z s : State} {a1} (h : Keeps z s) : Keeps z (State.unhold s a1) := by
  unfold State.unhold
  exact Keeps.ite (State.modSlot_keeps h) (State.modRing_keeps h)

theorem State.handOne_keeps {z s : State} {a1} (h : Keeps z s) : Keeps z (State.handOne s a1) := by
  unfold State.handOne
  extract_lets +onlyGivenNames u1
  clear_value u1
  extract_lets +onlyGivenNames u2
  clear_value u2
  split
  split
  · exact h
  · extract_lets +onlyGivenNames u3
    clear_value u3
    split
    · exact h
    · split
      · exact h
      · exact State.reachCore_keeps (State.unhold_keeps (State.setCore_keeps h))

theorem State.handHeld_keeps {z s : State} {a1} (h : Keeps z s) : Keeps z (State.handHeld s a1) := by -- by hand
  induction a1 generalizing s with
  | zero => exact h
  | succ n ih =>
    unfold State.handHeld
    split
    · exact ih (State.handOne_keeps h)
    · exact h

theorem State.round_keeps {z s : State} {a1} (h : Keeps z s) : Keeps z (State.round s a1) := by
  unfold State.round
  extract_lets +onlyGivenNames u1
  refine Keeps.cut (s := u1) (State.slotChoice_keeps h) fun h2 => ?_
  clear_value u1
  exact State.badTally_keeps (Keeps.foldl h2 (fun x3 x4 h5 => State.badOp_keeps h5))

theorem State.rounds_keeps {z s : State} {a1} {a2} (h : Keeps z s) : Keeps z (State.rounds s a1 a2) := by
  induction a2 generalizing s a1 with
  | zero =>
    unfold State.rounds
    exact h
  | succ n ih =>
    unfold State.rounds
    extract_lets +onlyGivenNames u1
    refine Keeps.cut (s := u1) (State.round_keeps h) fun h2 => ?_
    clear_value u1
    exact Keeps.ite h2 (ih h2)

theorem State.chooseAll_keeps {z s : State} (h : Keeps z s) : Keeps z (State.chooseAll s) := by
  unfold State.chooseAll
  exact Keeps.foldl h (fun x1 x2 h3 => State.rounds_keeps h3)

theorem State.feed_keeps {z s : State} {a1} (h : Keeps z s) : Keeps z (State.feed s a1) := by -- by hand
  induction a1 generalizing s with
  | zero => exact h
  | succ n ih =>
    unfold State.feed
    split
    · exact ih (State.chooseAll_keeps (State.handHeld_keeps h))
    · exact h

theorem State.choices_keeps {z s : State} (h : Keeps z s) : Keeps z (State.choices s) := by -- by hand
  unfold State.choices
  exact State.payDebt_keeps (State.feed_keeps (State.chooseAll_keeps h))

end Sys2Proof.Machine
end

