-- ==== Sys2Proof/Laws/KeepSpanOps.lean ====
section
/-!
SUPPORT. The operations of SpanOps keep the queue and the canonical memories.
-/

namespace Sys2Proof.Machine

theorem State.modLport_keeps {z s : State} {a1} {a2} (h : Keeps z s) : Keeps z (State.modLport s a1 a2) := by
  unfold State.modLport
  exact Keeps.upd h rfl rfl id id rfl

theorem State.unstick_keeps {z s : State} {a1} (h : Keeps z s) : Keeps z (State.unstick s a1) := by
  unfold State.unstick
  split
  · exact h
  · exact State.modLport_keeps (Keeps.upd h rfl rfl id id rfl)

theorem State.sendField_keeps {z s : State} {a1} {a2} (h : Keeps z s) : Keeps z (State.sendField s a1 a2) := by
  unfold State.sendField
  extract_lets +onlyGivenNames u1
  refine Keeps.cut (s := u1) (Keeps.ite (State.count_keeps h) h) fun h2 => ?_
  clear_value u1
  extract_lets +onlyGivenNames u3
  clear_value u3
  exact Keeps.upd h2 rfl rfl id id rfl

theorem State.send_keeps {z s : State} {a1} {a2} {a3} {a4} (h : Keeps z s) : Keeps z (State.send s a1 a2 a3 a4) := by
  unfold State.send
  apply Keeps.ite
  · split
    · exact State.sendField_keeps h
    · exact h
  · exact Keeps.upd h rfl rfl id id rfl

theorem State.sendReq_keeps {z s : State} {a1} {a2} {a3} {a4} (h : Keeps z s) : Keeps z (State.sendReq s a1 a2 a3 a4) := by
  unfold State.sendReq
  exact Keeps.ite (Keeps.upd h rfl rfl id id rfl) (State.send_keeps h)

theorem State.answer_keeps {z s : State} {a1} {a2} {a3} {a4} (h : Keeps z s) : Keeps z (State.answer s a1 a2 a3 a4) := by
  unfold State.answer
  exact State.send_keeps h

theorem State.spAck_keeps {z s : State} {a1} {a2} {a3} (h : Keeps z s) : Keeps z (State.spAck s a1 a2 a3) := by
  unfold State.spAck
  exact State.answer_keeps h

theorem State.putPend_keeps {z s : State} {a1} (h : Keeps z s) : Keeps z (State.putPend s a1) := by
  unfold State.putPend
  exact Keeps.upd h rfl rfl id id rfl

theorem State.delPend_keeps {z s : State} {a1} (h : Keeps z s) : Keeps z (State.delPend s a1) := by
  unfold State.delPend
  exact Keeps.upd h rfl rfl id id rfl

theorem State.ask_keeps {z s : State} {a1} (h : Keeps z s) : Keeps z (State.ask s a1).1 := by -- by hand
  unfold State.ask
  exact State.sendReq_keeps (State.putPend_keeps h)

theorem State.tell_keeps {z s : State} {a1} (h : Keeps z s) : Keeps z (State.tell s a1).1 := by
  unfold State.tell
  exact State.send_keeps (State.putPend_keeps h)

theorem State.awaitTag_keeps {z s : State} {a1} {a2} {a3} (h : Keeps z s) : Keeps z (State.awaitTag s a1 a2 a3) := by
  unfold State.awaitTag
  split
  · exact State.setJob_keeps h
  · exact h

theorem State.issue_keeps {z s : State} {a1} (h : Keeps z s) : Keeps z (State.issue s a1) := by
  unfold State.issue
  apply Keeps.ite
  · split
    rename_i x1 s2 x3 x4
    have h5 : Keeps z s2 := Keeps.pair (State.ask_keeps h) x4
    exact State.awaitTag_keeps h5
  · extract_lets +onlyGivenNames u6
    clear_value u6
    extract_lets +onlyGivenNames u7
    refine Keeps.cut (s := u7) (Keeps.upd h rfl rfl id id rfl) fun h8 => ?_
    clear_value u7
    exact Keeps.ite (State.bump_keeps h8) h8

theorem State.drainTodo_keeps {z s : State} {a1} (h : Keeps z s) : Keeps z (State.drainTodo s a1) := by
  induction a1 generalizing s with
  | zero =>
    unfold State.drainTodo
    exact h
  | succ n ih =>
    unfold State.drainTodo
    split
    · exact h
    · extract_lets +onlyGivenNames u1
      clear_value u1
      extract_lets +onlyGivenNames u2
      refine Keeps.cut (s := u2) (Keeps.upd h rfl rfl id id rfl) fun h3 => ?_
      clear_value u2
      apply Keeps.ite
      · exact ih h3
      · split
        rename_i x4 s5 x6 x7
        have h8 : Keeps z s5 := Keeps.pair (State.ask_keeps h3) x7
        exact ih (State.awaitTag_keeps h8)

theorem State.copyGone_keeps {z s : State} {a1} {a2} (h : Keeps z s) : Keeps z (State.copyGone s a1 a2) := by
  unfold State.copyGone
  split
  · exact Keeps.ite (State.toFence_keeps h) h
  · exact h

theorem State.copiesGone_keeps {z s : State} (h : Keeps z s) : Keeps z (State.copiesGone s) := by
  unfold State.copiesGone
  exact Keeps.foldl h (fun x1 x2 h3 => State.copyGone_keeps h3)

theorem State.closeTag_keeps {z s : State} {a1} (h : Keeps z s) : Keeps z (State.closeTag s a1) := by
  unfold State.closeTag
  split
  · exact h
  · extract_lets +onlyGivenNames u1
    refine Keeps.cut (s := u1) (Keeps.upd h rfl rfl id id rfl) fun h2 => ?_
    clear_value u1
    extract_lets +onlyGivenNames u3
    have h4 : Keeps z u3 := by
      unfold u3
      split
      · exact State.setJob_keeps h2
      · exact h2
    clear_value u3
    exact State.copiesGone_keeps (State.drainTodo_keeps h4)

theorem State.keepReply_keeps {z s : State} {a1} {a2} (h : Keeps z s) : Keeps z (State.keepReply s a1 a2) := by
  unfold State.keepReply
  split
  · exact h
  · extract_lets +onlyGivenNames u1
    clear_value u1
    extract_lets +onlyGivenNames u2
    refine Keeps.cut (s := u2) (Keeps.upd h rfl rfl id id rfl) fun h3 => ?_
    clear_value u2
    extract_lets +onlyGivenNames u4
    have h5 : Keeps z u4 := by
      subst u4
      split
      · exact State.setJob_keeps h3
      · exact h3
    clear_value u4
    exact State.drainTodo_keeps h5

theorem State.dropReplies_keeps {z s : State} {a1} {a2} (h : Keeps z s) : Keeps z (State.dropReplies s a1 a2) := by
  unfold State.dropReplies
  exact Keeps.upd h rfl rfl id id rfl

theorem State.endFar_keeps {z s : State} {a1} {a2} {a3} (h : Keeps z s) : Keeps z (State.endFar s a1 a2 a3) := by
  unfold State.endFar
  split
  · exact State.closeJob_keeps h
  · exact h

theorem State.endFarFault_keeps {z s : State} {a1} {a2} {a3} {a4} (h : Keeps z s) : Keeps z (State.endFarFault s a1 a2 a3 a4) := by
  unfold State.endFarFault
  split
  · exact h
  · extract_lets +onlyGivenNames u1
    refine Keeps.cut (s := u1) (State.endFar_keeps h) fun h2 => ?_
    clear_value u1
    exact Keeps.ite (State.faultLodge_keeps h2) h2

theorem State.orphanCmd_keeps {z s : State} {a1} {a2} {a3} (h : Keeps z s) : Keeps z (State.orphanCmd s a1 a2 a3) := by
  unfold State.orphanCmd
  split
  · exact h
  · extract_lets +onlyGivenNames u1
    refine Keeps.cut (s := u1) (State.endFar_keeps h) fun h2 => ?_
    clear_value u1
    exact State.orphanLodge_keeps h2

theorem State.invalTracked_keeps {z s : State} {a1} {a2} {a3} {a4} {a5} {a6} {a7} (h : Keeps z s) : Keeps z (State.invalTracked s a1 a2 a3 a4 a5 a6 a7).1 := by
  unfold State.invalTracked
  apply Keeps.foldlPair
  · exact h
  · intro x1 x2 x3 h4 x5
    subst x5
    extract_lets +onlyGivenNames u6
    extract_lets +onlyGivenNames u7
    extract_lets +onlyGivenNames u8
    refine Keeps.cut (s := u8) (Keeps.upd h4 rfl rfl id id rfl) fun h9 => ?_
    clear_value u8
    apply Keeps.foldlPair
    · exact h9
    · intro x10 x11 x12 h13 x14
      subst x14
      split
      rename_i x15 s16 x17 x18
      have h19 : Keeps z s16 := Keeps.pair (State.tell_keeps h13) x18
      exact h19

theorem State.pokeHome_keeps {z s : State} {a1} {a2} {a3} (h : Keeps z s) : Keeps z (State.pokeHome s a1 a2 a3) := by
  unfold State.pokeHome
  exact State.invalTracked_keeps (State.poke_keeps h)

theorem State.invalRange_keeps {z s : State} {a1} {a2} {a3} {a4} {a5} (h : Keeps z s) : Keeps z (State.invalRange s a1 a2 a3 a4 a5).1 := by
  unfold State.invalRange
  apply Keeps.foldlPair
  · exact h
  · intro x1 x2 x3 h4 x5
    subst x5
    extract_lets +onlyGivenNames u6
    clear_value u6
    split
    rename_i x7 s8 x9 x10
    have h11 : Keeps z s8 := Keeps.pair (State.tell_keeps h4) x10
    exact h11

theorem State.noteRecall_keeps {z s : State} {a1} {a2} (h : Keeps z s) : Keeps z (State.noteRecall s a1 a2) := by
  unfold State.noteRecall
  exact Keeps.ite h (Keeps.upd h rfl rfl id id rfl)

theorem State.recallOldest_keeps {z s : State} (h : Keeps z s) : Keeps z (State.recallOldest s).1 := by -- by hand
  unfold State.recallOldest
  split
  · exact h
  · refine State.noteRecall_keeps ?_
    apply Keeps.foldlPair
    · exact State.bump_keeps (Keeps.upd h rfl rfl id id rfl)
    · intro u d v hu hv
      subst hv
      split
      rename_i heq
      exact Keeps.pair (State.tell_keeps hu) heq

theorem State.putDir_keeps {z s : State} {a1} {a2} (h : Keeps z s) : Keeps z (State.putDir s a1 a2) := by
  unfold State.putDir
  exact Keeps.upd h rfl rfl id id rfl

theorem State.dirEntry_keeps {z s : State} {a1} {a2} (h : Keeps z s) : Keeps z (State.dirEntry s a1 a2).1 := by
  unfold State.dirEntry
  split
  · exact State.putDir_keeps h
  · extract_lets +onlyGivenNames u1
    have h2 : Keeps z u1.1 := State.recallOldest_keeps h
    clear_value u1
    exact State.putDir_keeps h2

theorem State.addSharer_keeps {z s : State} {a1} {a2} (h : Keeps z s) : Keeps z (State.addSharer s a1 a2).1 := by
  unfold State.addSharer
  exact State.dirEntry_keeps h

theorem State.addSharers_keeps {z s : State} {a1} {a2} {a3} {a4} (h : Keeps z s) : Keeps z (State.addSharers s a1 a2 a3 a4).1 := by
  unfold State.addSharers
  apply Keeps.foldlPair
  · exact h
  · intro x1 x2 x3 h4 x5
    subst x5
    split
    rename_i x6 s7 x8 x9
    have h10 : Keeps z s7 := Keeps.pair (State.addSharer_keeps h4) x9
    exact h10

theorem State.dropDie_keeps {z s : State} {a1} {a2} (h : Keeps z s) : Keeps z (State.dropDie s a1 a2) := by
  unfold State.dropDie
  exact Keeps.upd h rfl rfl id id rfl

theorem State.putDie_keeps {z s : State} {a1} {a2} (h : Keeps z s) : Keeps z (State.putDie s a1 a2) := by
  unfold State.putDie
  extract_lets +onlyGivenNames u1
  clear_value u1
  extract_lets +onlyGivenNames u2
  refine Keeps.cut (s := u2) (Keeps.ite (State.dropDie_keeps h) h) fun h3 => ?_
  clear_value u2
  exact Keeps.upd h3 rfl rfl id id rfl

theorem State.dieLine_keeps {z s : State} {a1} {a2} {a3} (h : Keeps z s) : Keeps z (State.dieLine s a1 a2 a3) := by
  unfold State.dieLine
  extract_lets +onlyGivenNames u1
  refine Keeps.cut (s := u1) (State.putDie_keeps h) fun h2 => ?_
  clear_value u1
  exact Keeps.ite h2 (State.dirEntry_keeps h2)

theorem State.dieReads_keeps {z s : State} {a1} {a2} {a3} (h : Keeps z s) : Keeps z (State.dieReads s a1 a2 a3) := by
  unfold State.dieReads
  exact Keeps.foldl h (fun x1 x2 h3 => State.dieLine_keeps h3)

theorem State.dieWrites_keeps {z s : State} {a1} {a2} (h : Keeps z s) : Keeps z (State.dieWrites s a1 a2) := by
  unfold State.dieWrites
  exact Keeps.foldl h (fun x1 x2 h3 => State.dieLine_keeps h3)

theorem State.useLine_keeps {z s : State} {a1} (h : Keeps z s) : Keeps z (State.useLine s a1) := by
  unfold State.useLine
  exact Keeps.upd h rfl rfl id id rfl

theorem State.install_keeps {z s : State} {a1} (h : Keeps z s) : Keeps z (State.install s a1) := by
  unfold State.install
  extract_lets +onlyGivenNames u1
  clear_value u1
  extract_lets +onlyGivenNames u2
  clear_value u2
  exact Keeps.upd h rfl rfl id id rfl

theorem State.staleReads_keeps {z s : State} {a1} {a2} {a3} {a4} (h : Keeps z s) : Keeps z (State.staleReads s a1 a2 a3 a4) := by
  unfold State.staleReads
  extract_lets +onlyGivenNames u1
  clear_value u1
  exact Keeps.upd h rfl rfl id id rfl

theorem State.dropLines_keeps {z s : State} {a1} {a2} {a3} {a4} (h : Keeps z s) : Keeps z (State.dropLines s a1 a2 a3 a4).1 := by
  unfold State.dropLines
  extract_lets +onlyGivenNames u1
  clear_value u1
  extract_lets +onlyGivenNames u2
  clear_value u2
  extract_lets +onlyGivenNames u3
  refine Keeps.cut (s := u3) (Keeps.upd h rfl rfl id id rfl) fun h4 => ?_
  clear_value u3
  dsimp -zeta only
  exact State.staleReads_keeps h4

theorem State.putReplica_keeps {z s : State} {a1} (h : Keeps z s) : Keeps z (State.putReplica s a1) := by
  unfold State.putReplica
  exact Keeps.upd h rfl rfl id id rfl

theorem State.dropReplica_keeps {z s : State} {a1} (h : Keeps z s) : Keeps z (State.dropReplica s a1) := by
  unfold State.dropReplica
  exact State.release_keeps (Keeps.upd h rfl rfl id id rfl)

theorem State.replicaFrame_keeps {z s : State} {a1} (h : Keeps z s) : Keeps z (State.replicaFrame s a1).1 := by
  unfold State.replicaFrame
  extract_lets +onlyGivenNames u1
  clear_value u1
  extract_lets +onlyGivenNames u2
  clear_value u2
  split
  · exact h
  · extract_lets +onlyGivenNames u3
    have h4 : Keeps z u3 := by
      apply Keeps.ite
      · exact h
      · split
        · exact State.dropReplica_keeps h
        · exact h
    clear_value u3
    exact h4

end Sys2Proof.Machine
end

