-- ==== Sys2Proof/Laws/KeepOperands.lean ====
section
/-!
SUPPORT. The operations of Operands keep the queue and the canonical memories.
-/

namespace Sys2Proof.Machine

theorem State.outputs_keeps {z s : State} {a1} {a2} {a3} {a4} {a5} {a6} (h : Keeps z s) : Keeps z (State.outputs s a1 a2 a3 a4 a5 a6) := by
  unfold State.outputs
  exact State.toFence_keeps h

end Sys2Proof.Machine
end

