-- ==== Sys2Proof/Laws/KeepVector.lean ====
section
/-!
SUPPORT. The operations of Vector keep the queue and the canonical memories.
-/

namespace Sys2Proof.Machine

theorem State.vecSettle_keeps {z s : State} {a1} (h : Keeps z s) : Keeps z (State.vecSettle s a1) := by
  unfold State.vecSettle
  extract_lets +onlyGivenNames u1
  clear_value u1
  split
  · exact h
  · apply Keeps.ite
    · exact State.endJob_keeps (State.modCore_keeps h)
    · extract_lets +onlyGivenNames u2
      clear_value u2
      extract_lets +onlyGivenNames u3
      refine Keeps.cut (s := u3) (State.bump_keeps (State.dieReads_keeps (State.touchReads_keeps h))) fun h4 => ?_
      clear_value u3
      extract_lets +onlyGivenNames u5
      refine Keeps.cut (s := u5) (State.modCore_keeps h4) fun h6 => ?_
      clear_value u5
      exact State.setJob_keeps h6

theorem State.vecIssue_keeps {z s : State} {a1} {a2} (h : Keeps z s) : Keeps z (State.vecIssue s a1 a2) := by
  unfold State.vecIssue
  extract_lets +onlyGivenNames u1
  clear_value u1
  extract_lets +onlyGivenNames u2
  clear_value u2
  split
  · exact Keeps.ite (State.endJob_keeps h) (Keeps.ite (State.endJob_keeps (State.setBit_keeps h)) (State.vecSettle_keeps (State.modCore_keeps h)))
  · exact State.modCore_keeps h

end Sys2Proof.Machine
end

