-- ==== Sys2Proof/Laws/KeepCompute.lean ====
section
/-!
SUPPORT. The operations of Compute keep the queue and the canonical memories.
-/

namespace Sys2Proof.Machine

theorem State.scrambleStores_keeps {z s : State} {a1} {a2} (h : Keeps z s) : Keeps z (State.scrambleStores s a1 a2) := by
  unfold State.scrambleStores
  exact Keeps.foldl h (fun x1 x2 h3 => State.scramble_keeps h3)

theorem State.endRun_keeps {z s : State} {a1} {a2} {a3} {a4} (h : Keeps z s) : Keeps z (State.endRun s a1 a2 a3 a4) := by
  unfold State.endRun
  extract_lets +onlyGivenNames u1
  clear_value u1
  extract_lets +onlyGivenNames u2
  refine Keeps.cut (s := u2) (State.bump_keeps (State.touchReads_keeps h)) fun h3 => ?_
  clear_value u2
  exact Keeps.ite (State.endJob_keeps (State.scrambleStores_keeps h3)) (State.outputs_keeps h3)

theorem State.runCompute_keeps {z s : State} {a1} {a2} {a3} (h : Keeps z s) : Keeps z (State.runCompute s a1 a2 a3) := by
  unfold State.runCompute
  extract_lets +onlyGivenNames u1
  refine Keeps.cut (s := u1) (State.beginCompute_keeps h) fun h2 => ?_
  clear_value u1
  extract_lets +onlyGivenNames u3
  clear_value u3
  extract_lets +onlyGivenNames u4
  clear_value u4
  exact State.leaveScratch_keeps (State.dieReads_keeps (State.endRun_keeps h2))

theorem State.keepVec_keeps {z s : State} {a1} {a2} (h : Keeps z s) : Keeps z (State.keepVec s a1 a2) := by
  unfold State.keepVec
  exact State.modCore_keeps h

theorem execMatmul_keeps {z s t : State} {a0} (h : Keeps z s) (e : execMatmul a0 s = .next t) : Keeps z t := by
  unfold execMatmul at e
  injection e with e
  subst e
  exact State.choices_keeps (State.runSlot_keeps h (fun x1 x2 h3 => State.runCompute_keeps h3))

theorem execVector_keeps {z s t : State} {a0} (h : Keeps z s) (e : execVector a0 s = .next t) : Keeps z t := by
  unfold execVector at e
  injection e with e
  subst e
  apply State.choices_keeps
  apply State.runSlot_keeps
  · exact h
  · intro x1 x2 h3
    extract_lets +onlyGivenNames u4
    clear_value u4
    exact State.keepVec_keeps (State.runCompute_keeps h3)

theorem execConvert_keeps {z s t : State} {a0} (h : Keeps z s) (e : execConvert a0 s = .next t) : Keeps z t := by
  unfold execConvert at e
  injection e with e
  subst e
  exact State.choices_keeps (State.runSlot_keeps h (fun x1 x2 h3 => State.runCompute_keeps h3))

theorem execCopy_keeps {z s t : State} {a0} (h : Keeps z s) (e : execCopy a0 s = .next t) : Keeps z t := by
  unfold execCopy at e
  injection e with e
  subst e
  exact State.choices_keeps (State.runSlot_keeps h (fun x1 x2 h3 => State.runCompute_keeps h3))

theorem execSignal_keeps {z s t : State} {a0} (h : Keeps z s) (e : execSignal a0 s = .next t) : Keeps z t := by
  unfold execSignal at e
  injection e with e
  subst e
  exact State.choices_keeps (State.runSlot_keeps h (fun x1 x2 h3 => State.runCompute_keeps h3))

theorem execVectorNop_keeps {z s t : State} {a0} (h : Keeps z s) (e : execVectorNop a0 s = .next t) : Keeps z t := by
  unfold execVectorNop at e
  injection e with e
  subst e
  exact State.vecIssue_keeps h

theorem execLd_keeps {z s t : State} {a0} {a1} {a2} {a3} {a4} (h : Keeps z s) (e : execLd a0 a1 a2 a3 a4 s = .next t) : Keeps z t := by
  unfold execLd at e
  injection e with e
  subst e
  exact State.vecIssue_keeps h

theorem execSt_keeps {z s t : State} {a0} {a1} {a2} {a3} {a4} (h : Keeps z s) (e : execSt a0 a1 a2 a3 a4 s = .next t) : Keeps z t := by
  unfold execSt at e
  injection e with e
  subst e
  exact State.vecIssue_keeps h

theorem execAdd_keeps {z s t : State} {a0} {a1} {a2} {a3} (h : Keeps z s) (e : execAdd a0 a1 a2 a3 s = .next t) : Keeps z t := by
  unfold execAdd at e
  injection e with e
  subst e
  exact State.vecIssue_keeps h

theorem execMul_keeps {z s t : State} {a0} {a1} {a2} {a3} (h : Keeps z s) (e : execMul a0 a1 a2 a3 s = .next t) : Keeps z t := by
  unfold execMul at e
  injection e with e
  subst e
  exact State.vecIssue_keeps h

theorem execFma_keeps {z s t : State} {a0} {a1} {a2} {a3} {a4} (h : Keeps z s) (e : execFma a0 a1 a2 a3 a4 s = .next t) : Keeps z t := by
  unfold execFma at e
  injection e with e
  subst e
  exact State.vecIssue_keeps h

theorem execMax_keeps {z s t : State} {a0} {a1} {a2} {a3} (h : Keeps z s) (e : execMax a0 a1 a2 a3 s = .next t) : Keeps z t := by
  unfold execMax at e
  injection e with e
  subst e
  exact State.vecIssue_keeps h

theorem execMin_keeps {z s t : State} {a0} {a1} {a2} {a3} (h : Keeps z s) (e : execMin a0 a1 a2 a3 s = .next t) : Keeps z t := by
  unfold execMin at e
  injection e with e
  subst e
  exact State.vecIssue_keeps h

theorem execRecip_keeps {z s t : State} {a0} {a1} {a2} (h : Keeps z s) (e : execRecip a0 a1 a2 s = .next t) : Keeps z t := by
  unfold execRecip at e
  injection e with e
  subst e
  exact State.vecIssue_keeps h

theorem execRsqrt_keeps {z s t : State} {a0} {a1} {a2} (h : Keeps z s) (e : execRsqrt a0 a1 a2 s = .next t) : Keeps z t := by
  unfold execRsqrt at e
  injection e with e
  subst e
  exact State.vecIssue_keeps h

theorem execSqrt_keeps {z s t : State} {a0} {a1} {a2} (h : Keeps z s) (e : execSqrt a0 a1 a2 s = .next t) : Keeps z t := by
  unfold execSqrt at e
  injection e with e
  subst e
  exact State.vecIssue_keeps h

theorem execDiv_keeps {z s t : State} {a0} {a1} {a2} {a3} (h : Keeps z s) (e : execDiv a0 a1 a2 a3 s = .next t) : Keeps z t := by
  unfold execDiv at e
  injection e with e
  subst e
  exact State.vecIssue_keeps h

theorem execExp_keeps {z s t : State} {a0} {a1} {a2} (h : Keeps z s) (e : execExp a0 a1 a2 s = .next t) : Keeps z t := by
  unfold execExp at e
  injection e with e
  subst e
  exact State.vecIssue_keeps h

theorem execLog_keeps {z s t : State} {a0} {a1} {a2} (h : Keeps z s) (e : execLog a0 a1 a2 s = .next t) : Keeps z t := by
  unfold execLog at e
  injection e with e
  subst e
  exact State.vecIssue_keeps h

theorem execExp2_keeps {z s t : State} {a0} {a1} {a2} (h : Keeps z s) (e : execExp2 a0 a1 a2 s = .next t) : Keeps z t := by
  unfold execExp2 at e
  injection e with e
  subst e
  exact State.vecIssue_keeps h

theorem execLog2_keeps {z s t : State} {a0} {a1} {a2} (h : Keeps z s) (e : execLog2 a0 a1 a2 s = .next t) : Keeps z t := by
  unfold execLog2 at e
  injection e with e
  subst e
  exact State.vecIssue_keeps h

theorem execRsum_keeps {z s t : State} {a0} {a1} {a2} (h : Keeps z s) (e : execRsum a0 a1 a2 s = .next t) : Keeps z t := by
  unfold execRsum at e
  injection e with e
  subst e
  exact State.vecIssue_keeps h

theorem execRmax_keeps {z s t : State} {a0} {a1} {a2} (h : Keeps z s) (e : execRmax a0 a1 a2 s = .next t) : Keeps z t := by
  unfold execRmax at e
  injection e with e
  subst e
  exact State.vecIssue_keeps h

theorem execSel_keeps {z s t : State} {a0} {a1} {a2} {a3} {a4} (h : Keeps z s) (e : execSel a0 a1 a2 a3 a4 s = .next t) : Keeps z t := by
  unfold execSel at e
  injection e with e
  subst e
  exact State.vecIssue_keeps h

theorem execRot_keeps {z s t : State} {a0} {a1} {a2} {a3} {a4} (h : Keeps z s) (e : execRot a0 a1 a2 a3 a4 s = .next t) : Keeps z t := by
  unfold execRot at e
  injection e with e
  subst e
  exact State.vecIssue_keeps h

theorem execTopk_keeps {z s t : State} {a0} {a1} {a2} {a3} (h : Keeps z s) (e : execTopk a0 a1 a2 a3 s = .next t) : Keeps z t := by
  unfold execTopk at e
  injection e with e
  subst e
  exact State.vecIssue_keeps h

theorem execBcast_keeps {z s t : State} {a0} {a1} {a2} (h : Keeps z s) (e : execBcast a0 a1 a2 s = .next t) : Keeps z t := by
  unfold execBcast at e
  injection e with e
  subst e
  exact State.vecIssue_keeps h

theorem execLoop_keeps {z s t : State} {a0} {a1} (h : Keeps z s) (e : execLoop a0 a1 s = .next t) : Keeps z t := by
  unfold execLoop at e
  injection e with e
  subst e
  exact State.vecIssue_keeps h

theorem execEndLoop_keeps {z s t : State} {a0} (h : Keeps z s) (e : execEndLoop a0 s = .next t) : Keeps z t := by
  unfold execEndLoop at e
  injection e with e
  subst e
  exact State.vecIssue_keeps h

end Sys2Proof.Machine
end

