-- ==== Sys2Proof/Laws/KeepMigOps.lean ====
section
/-!
SUPPORT. The operations of MigOps keep the queue and the canonical memories.
-/

namespace Sys2Proof.Machine

theorem State.startMigr_keeps {z s : State} {a1} {a2} {a3} {a4} {a5} (h : Keeps z s) : Keeps z (State.startMigr s a1 a2 a3 a4 a5) := by
  unfold State.startMigr
  exact Keeps.upd h rfl rfl id id rfl

theorem State.promote_keeps {z s : State} (h : Keeps z s) : Keeps z (State.promote s) := by
  unfold State.promote
  apply Keeps.ite
  · split
    · exact h
    · extract_lets +onlyGivenNames u1
      clear_value u1
      split
      · exact State.startMigr_keeps h
      · split
        · exact h
        · apply Keeps.ite
          · split
            · exact State.startMigr_keeps h
            · exact h
          · exact h
  · exact h

theorem State.shrinkT1_keeps {z s : State} (h : Keeps z s) : Keeps z (State.shrinkT1 s) := by
  unfold State.shrinkT1
  apply Keeps.foldl
  · exact h
  · intro x1 x2 h3
    extract_lets +onlyGivenNames u4
    clear_value u4
    apply Keeps.ite
    · split
      · exact State.startMigr_keeps h3
      · exact h3
    · exact h3

theorem State.startPins_keeps {z s : State} (h : Keeps z s) : Keeps z (State.startPins s) := by
  unfold State.startPins
  apply Keeps.foldl
  · exact h
  · intro x1 x2 h3
    apply Keeps.ite
    · split
      · exact State.startMigr_keeps h3
      · exact h3
    · exact h3

theorem State.startPrefetch_keeps {z s : State} (h : Keeps z s) : Keeps z (State.startPrefetch s) := by
  unfold State.startPrefetch
  extract_lets +onlyGivenNames u1
  have h8 : Keeps z u1.1 := by
    apply Keeps.foldlPair
    · exact h
    · intro x2 x3 x4 h5 x6
      subst x6
      extract_lets +onlyGivenNames u7
      split
      · exact h5
      · split
        · split
          · dsimp -zeta only
            exact State.startMigr_keeps h5
          · exact h5
        · exact h5
  clear_value u1
  extract_lets +onlyGivenNames u9
  exact Keeps.upd h8 rfl rfl id id rfl

theorem State.demoteHarvest_keeps {z s : State} {a1} (h : Keeps z s) : Keeps z (State.demoteHarvest s a1) := by
  unfold State.demoteHarvest
  split
  · split
    · extract_lets +onlyGivenNames u1
      extract_lets +onlyGivenNames u2
      refine Keeps.cut (s := u2) (Keeps.upd h rfl rfl id id rfl) fun h3 => ?_
      clear_value u2
      exact State.startMigr_keeps h3
    · exact h
  · exact h

theorem State.startDemotes_keeps {z s : State} (h : Keeps z s) : Keeps z (State.startDemotes s) := by
  unfold State.startDemotes
  exact Keeps.foldl h (fun x1 x2 h3 => Keeps.ite (State.demoteHarvest_keeps (Keeps.upd h3 rfl rfl id id rfl)) h3)

theorem State.embPromote_keeps {z s : State} {a1} (h : Keeps z s) : Keeps z (State.embPromote s a1) := by
  unfold State.embPromote
  apply Keeps.ite
  · exact h
  · split
    · exact State.startMigr_keeps h
    · exact State.bump_keeps h

theorem State.startProm_keeps {z s : State} (h : Keeps z s) : Keeps z (State.startProm s) := by
  unfold State.startProm
  exact Keeps.foldl h (fun x1 x2 h3 => Keeps.ite (State.embPromote_keeps (Keeps.upd h3 rfl rfl id id rfl)) h3)

theorem State.abortMigr_keeps {z s : State} {a1} {a2} (h : Keeps z s) : Keeps z (State.abortMigr s a1 a2) := by
  unfold State.abortMigr
  split
  · exact h
  · extract_lets +onlyGivenNames u1
    clear_value u1
    extract_lets +onlyGivenNames u2
    extract_lets +onlyGivenNames u3
    refine Keeps.cut (s := u3) (Keeps.upd h rfl rfl id id rfl) fun h4 => ?_
    clear_value u3
    extract_lets +onlyGivenNames u5
    refine Keeps.cut (s := u5) (State.bump_keeps (State.release_keeps h4)) fun h6 => ?_
    clear_value u5
    exact State.trace_keeps h6

theorem State.awaitFrame_keeps {z s : State} {a1} (h : Keeps z s) : Keeps z (State.awaitFrame s a1) := by
  unfold State.awaitFrame
  exact Keeps.upd h rfl rfl id id rfl

theorem State.cutover_keeps {z s : State} {a1} {a2} {a3} (h : Keeps z s) : Keeps z (State.cutover s a1 a2 a3) := by -- by hand
  unfold State.cutover
  extract_lets +onlyGivenNames u1
  clear_value u1
  extract_lets +onlyGivenNames u2
  extract_lets +onlyGivenNames u3
  refine Keeps.cut (s := u3) (Keeps.upd h rfl rfl id id rfl) fun h4 => ?_
  clear_value u3
  extract_lets +onlyGivenNames u5
  refine Keeps.cut (s := u5) (Keeps.ite h4 (State.release_keeps h4)) fun h6 => ?_
  clear_value u5
  extract_lets +onlyGivenNames u7
  refine Keeps.cut (s := u7) (Keeps.ite (State.count_keeps h6) (Keeps.ite (State.count_keeps h6) h6)) fun h8 => ?_
  clear_value u7
  exact State.awaitFrame_keeps h8

theorem State.releaseHarvest_keeps {z s : State} {a1} {a2} (h : Keeps z s) : Keeps z (State.releaseHarvest s a1 a2) := by
  unfold State.releaseHarvest
  split
  · exact h
  · apply Keeps.ite
    · exact Keeps.ite (State.demoteHarvest_keeps h) (Keeps.upd h rfl rfl id id rfl)
    · extract_lets +onlyGivenNames u1
      clear_value u1
      extract_lets +onlyGivenNames u2
      clear_value u2
      apply Keeps.ite
      · extract_lets +onlyGivenNames u3
        extract_lets +onlyGivenNames u4
        refine Keeps.cut (s := u4) (Keeps.upd h rfl rfl id id rfl) fun h5 => ?_
        clear_value u4
        exact State.release_keeps h5
      · extract_lets +onlyGivenNames u6
        clear_value u6
        extract_lets +onlyGivenNames u7
        extract_lets +onlyGivenNames u8
        refine Keeps.cut (s := u8) (Keeps.upd h rfl rfl id id rfl) fun h9 => ?_
        clear_value u8
        exact State.release_keeps h9

theorem State.leaveLater_keeps {z s : State} {a1} (h : Keeps z s) : Keeps z (State.leaveLater s a1) := by
  unfold State.leaveLater
  exact Keeps.upd h rfl rfl id id rfl

theorem State.releaseHarvests_keeps {z s : State} {a1} (h : Keeps z s) : Keeps z (State.releaseHarvests s a1) := by -- by hand
  induction a1 generalizing s with
  | nil =>
    unfold State.releaseHarvests
    exact h
  | cons b r ih =>
    unfold State.releaseHarvests
    apply ih
    apply Keeps.ite
    · exact State.leaveLater_keeps h
    · split
      · exact State.releaseHarvest_keeps h
      · exact h

theorem State.releaseLeft_keeps {z s : State} (h : Keeps z s) : Keeps z (State.releaseLeft s) := by
  unfold State.releaseLeft
  exact State.releaseHarvests_keeps (Keeps.upd h rfl rfl id id rfl)

theorem State.dropAwaiting_keeps {z s : State} {a1} (h : Keeps z s) : Keeps z (State.dropAwaiting s a1) := by
  unfold State.dropAwaiting
  exact Keeps.upd h rfl rfl id id rfl

theorem State.startAwaited_keeps {z s : State} (h : Keeps z s) : Keeps z (State.startAwaited s) := by -- by hand
  unfold State.startAwaited
  refine Keeps.foldl h (fun x1 x2 h3 => ?_)
  split
  · exact State.dropAwaiting_keeps h3
  · split
    · exact Keeps.ite (State.startMigr_keeps (State.dropAwaiting_keeps h3)) h3
    · exact Keeps.ite h3 (State.dropAwaiting_keeps h3)

theorem State.retryMoves_keeps {z s : State} (h : Keeps z s) : Keeps z (State.retryMoves s) := by
  unfold State.retryMoves
  exact State.startAwaited_keeps (State.startProm_keeps (State.startPrefetch_keeps (State.releaseLeft_keeps (State.startDemotes_keeps (State.startPins_keeps h)))))

theorem State.idleEngine_keeps {z s : State} (h : Keeps z s) : Keeps z (State.idleEngine s) := by
  unfold State.idleEngine
  exact State.promote_keeps (State.shrinkT1_keeps (State.retryMoves_keeps h))

theorem State.abortForPins_keeps {z s : State} {a1} (h : Keeps z s) : Keeps z (State.abortForPins s a1) := by -- by hand
  induction a1 generalizing s with
  | nil =>
    unfold State.abortForPins
    exact h
  | cons b r ih =>
    unfold State.abortForPins
    apply ih
    split
    · exact Keeps.ite h (State.abortMigr_keeps h)
    · exact h

end Sys2Proof.Machine
end

