-- ==== Sys2Proof/Laws/KeepNearBank.lean ====
section
/-!
SUPPORT. The operations of NearBank keep the queue and the canonical memories.
-/

namespace Sys2Proof.Machine

theorem State.toRun_keeps {z s : State} {a1} {a2} (h : Keeps z s) : Keeps z (State.toRun s a1 a2) := by
  unfold State.toRun
  split
  · exact h
  · exact Keeps.ite (State.setJob_keeps h) h

theorem State.rampAt_keeps {z s : State} {a1} (h : Keeps z s) : Keeps z (State.rampAt s a1) := by
  unfold State.rampAt
  exact Keeps.upd h rfl rfl id id rfl

theorem State.rampUp_keeps {z s : State} {a1} (h : Keeps z s) : Keeps z (State.rampUp s a1) := by
  unfold State.rampUp
  exact Keeps.upd h rfl rfl id id rfl

theorem State.pinNear_keeps {z s : State} {a1} {a2} {a3} {a4} {a5} (h : Keeps z s) (ha5 : ∀ y0 y1, Keeps z y0 → Keeps z (a5 y0 y1)) : Keeps z (State.pinNear s a1 a2 a3 a4 a5) := by
  unfold State.pinNear
  apply Keeps.ite
  · exact State.refuse_keeps h
  · apply Keeps.ite
    · extract_lets +onlyGivenNames u1
      refine Keeps.cut (s := u1) (Keeps.ite h (State.reserve_keeps h)) fun h2 => ?_
      clear_value u1
      extract_lets +onlyGivenNames u3
      refine Keeps.cut (s := u3) (State.abortForPins_keeps h2) fun h4 => ?_
      clear_value u3
      extract_lets +onlyGivenNames u5
      clear_value u5
      extract_lets +onlyGivenNames u6
      refine Keeps.cut (s := u6) (State.toRun_keeps (State.idleEngine_keeps (State.setJob_keeps h4))) fun h7 => ?_
      clear_value u6
      split
      · exact Keeps.ite (ha5 _ _ h7) h7
      · exact h7
    · exact Keeps.ite h (State.bump_keeps (State.setJob_keeps h))

theorem State.runNear_keeps {z s : State} {a1} {a2} {a3} {a4} (h : Keeps z s) (ha4 : ∀ y0 y1, Keeps z y0 → Keeps z (a4 y0 y1)) : Keeps z (State.runNear s a1 a2 a3 a4) := by
  unfold State.runNear
  split
  · exact h
  · apply Keeps.ite
    · split
      · apply Keeps.ite
        · exact State.failDecode_keeps h
        · extract_lets +onlyGivenNames u1
          clear_value u1
          extract_lets +onlyGivenNames u2
          refine Keeps.cut (s := u2) (Keeps.ite (State.setBit_keeps h) h) fun h3 => ?_
          clear_value u2
          apply Keeps.ite
          · exact State.refuse_keeps h3
          · extract_lets +onlyGivenNames u4
            clear_value u4
            extract_lets +onlyGivenNames u5
            clear_value u5
            exact State.pinNear_keeps h3 (fun x6 x8 h7 => Keeps.ite h7 (ha4 _ _ (State.rampUp_keeps h7)))
      · exact Keeps.ite (ha4 _ _ (State.rampUp_keeps h)) h
      · exact h
    · exact h

theorem State.endNear_keeps {z s : State} {a1} {a2} {a3} {a4} {a5} (h : Keeps z s) : Keeps z (State.endNear s a1 a2 a3 a4 a5) := by
  unfold State.endNear
  extract_lets +onlyGivenNames u1
  refine Keeps.cut (s := u1) (State.count_keeps h) fun h2 => ?_
  clear_value u1
  extract_lets +onlyGivenNames u3
  refine Keeps.cut (s := u3) (Keeps.ite (State.setBit_keeps h2) h2) fun h4 => ?_
  clear_value u3
  exact State.endRun_keeps h4

theorem State.touchRows_keeps {z s : State} {a1} {a2} {a3} (h : Keeps z s) : Keeps z (State.touchRows s a1 a2 a3) := by
  unfold State.touchRows
  exact Keeps.foldl (State.touchReads_keeps h) (fun x1 x2 h3 => State.touch_keeps h3)

theorem State.rowprog_keeps {z s : State} {a1} {a2} {a3} (h : Keeps z s) : Keeps z (State.rowprog s a1 a2 a3) := by
  unfold State.rowprog
  extract_lets +onlyGivenNames u1
  clear_value u1
  extract_lets +onlyGivenNames u2
  clear_value u2
  extract_lets +onlyGivenNames u3
  clear_value u3
  apply Keeps.ite
  · exact State.endJob_keeps h
  · extract_lets +onlyGivenNames u4
    clear_value u4
    extract_lets +onlyGivenNames u5
    clear_value u5
    extract_lets +onlyGivenNames u6
    clear_value u6
    extract_lets +onlyGivenNames u7
    refine Keeps.cut (s := u7) (State.touchRows_keeps (State.touchReads_keeps h)) fun h8 => ?_
    clear_value u7
    exact Keeps.ite (State.endNear_keeps h8) (State.toFence_keeps (State.touchReads_keeps (State.count_keeps h8)))

theorem State.rowIssue_keeps {z s : State} {a1} {a2} {a3} (h : Keeps z s) : Keeps z (State.rowIssue s a1 a2 a3) := by
  unfold State.rowIssue
  split
  · exact h
  · apply Keeps.ite
    · extract_lets +onlyGivenNames u1
      clear_value u1
      apply Keeps.ite
      · exact State.endJob_keeps h
      · extract_lets +onlyGivenNames u2
        clear_value u2
        apply Keeps.ite
        · exact State.endNear_keeps h
        · apply Keeps.ite
          · exact State.payDebt_keeps (State.setJob_keeps h)
          · extract_lets +onlyGivenNames u3
            clear_value u3
            extract_lets +onlyGivenNames u4
            refine Keeps.cut (s := u4) (State.touchReads_keeps (State.count_keeps (State.rampUp_keeps h))) fun h5 => ?_
            clear_value u4
            extract_lets +onlyGivenNames u6
            refine Keeps.cut (s := u6) (Keeps.ite (State.scramble_keeps h5) h5) fun h7 => ?_
            clear_value u6
            exact State.setJob_keeps h7
    · exact h

theorem State.refreshDue_keeps {z s : State} {a1} {a2} (h : Keeps z s) : Keeps z (State.refreshDue s a1 a2) := by
  unfold State.refreshDue
  extract_lets +onlyGivenNames u1
  clear_value u1
  extract_lets +onlyGivenNames u2
  clear_value u2
  exact Keeps.ite (Keeps.upd h rfl rfl id id rfl) (Keeps.ite (State.bump_keeps (Keeps.upd h rfl rfl id id rfl)) (Keeps.upd h rfl rfl id id rfl))

theorem State.nbThermal_keeps {z s : State} {a1} {a2} (h : Keeps z s) : Keeps z (State.nbThermal s a1 a2) := by
  unfold State.nbThermal
  extract_lets +onlyGivenNames u1
  refine Keeps.cut (s := u1) (State.wr_keeps h) fun h2 => ?_
  clear_value u1
  extract_lets +onlyGivenNames u3
  refine Keeps.cut (s := u3) (Keeps.ite (State.wr_keeps h2) h2) fun h4 => ?_
  clear_value u3
  extract_lets +onlyGivenNames u5
  have h6 : ∀ y0 y1 y2, Keeps z y0 → Keeps z (u5 y0 y1 y2) := by
    exact fun x7 x9 x10 h8 => Keeps.ite (State.setBit_keeps h8) (State.clrBit_keeps h8)
  clear_value u5
  extract_lets +onlyGivenNames u11
  refine Keeps.cut (s := u11) (h6 _ _ _ h4) fun h12 => ?_
  clear_value u11
  extract_lets +onlyGivenNames u13
  clear_value u13
  extract_lets +onlyGivenNames u14
  clear_value u14
  extract_lets +onlyGivenNames u15
  clear_value u15
  extract_lets +onlyGivenNames u16
  clear_value u16
  extract_lets +onlyGivenNames u17
  clear_value u17
  extract_lets +onlyGivenNames u18
  refine Keeps.cut (s := u18) (h6 _ _ _ h12) fun h19 => ?_
  clear_value u18
  extract_lets +onlyGivenNames u20
  clear_value u20
  extract_lets +onlyGivenNames u21
  refine Keeps.cut (s := u21) (h6 _ _ _ h19) fun h22 => ?_
  clear_value u21
  exact Keeps.ite (State.payDebt_keeps (State.setBit_keeps (State.bump_keeps h22))) h22

theorem State.rampStep_keeps {z s : State} {a1} (h : Keeps z s) : Keeps z (State.rampStep s a1) := by
  unfold State.rampStep
  extract_lets +onlyGivenNames u1
  clear_value u1
  apply Keeps.ite
  · exact Keeps.ite (Keeps.upd h rfl rfl id id rfl) h
  · apply Keeps.ite
    · exact h
    · extract_lets +onlyGivenNames u2
      refine Keeps.cut (s := u2) (Keeps.upd h rfl rfl id id rfl) fun h3 => ?_
      clear_value u2
      exact State.useFree_keeps (State.count_keeps h3)

theorem execNbMatvec_keeps {z s t : State} {a0} {a1} (h : Keeps z s) (e : execNbMatvec a0 a1 s = .next t) : Keeps z t := by
  unfold execNbMatvec at e
  injection e with e
  subst e
  exact State.choices_keeps (State.runNear_keeps h (fun x1 x3 h2 => State.endNear_keeps h2))

theorem execNbEltwise_keeps {z s t : State} {a0} {a1} (h : Keeps z s) (e : execNbEltwise a0 a1 s = .next t) : Keeps z t := by
  unfold execNbEltwise at e
  injection e with e
  subst e
  exact State.choices_keeps (State.runNear_keeps h (fun x1 x3 h2 => State.endNear_keeps h2))

theorem execNbNormsum_keeps {z s t : State} {a0} {a1} (h : Keeps z s) (e : execNbNormsum a0 a1 s = .next t) : Keeps z t := by
  unfold execNbNormsum at e
  injection e with e
  subst e
  exact State.choices_keeps (State.runNear_keeps h (fun x1 x3 h2 => State.endNear_keeps h2))

theorem execNbRowprog_keeps {z s t : State} {a0} {a1} (h : Keeps z s) (e : execNbRowprog a0 a1 s = .next t) : Keeps z t := by
  unfold execNbRowprog at e
  injection e with e
  subst e
  exact State.choices_keeps (State.runNear_keeps h (fun x1 x2 h3 => State.rowprog_keeps h3))

theorem execRowNop_keeps {z s t : State} {a0} {a1} (h : Keeps z s) (e : execRowNop a0 a1 s = .next t) : Keeps z t := by
  unfold execRowNop at e
  injection e with e
  subst e
  exact State.rowIssue_keeps h

theorem execRowCopy_keeps {z s t : State} {a0} {a1} {a2} {a3} {a4} {a5} (h : Keeps z s) (e : execRowCopy a0 a1 a2 a3 a4 a5 s = .next t) : Keeps z t := by
  unfold execRowCopy at e
  injection e with e
  subst e
  exact State.rowIssue_keeps h

theorem execInit0_keeps {z s t : State} {a0} {a1} {a2} {a3} (h : Keeps z s) (e : execInit0 a0 a1 a2 a3 s = .next t) : Keeps z t := by
  unfold execInit0 at e
  injection e with e
  subst e
  exact State.rowIssue_keeps h

theorem execInit1_keeps {z s t : State} {a0} {a1} {a2} {a3} (h : Keeps z s) (e : execInit1 a0 a1 a2 a3 s = .next t) : Keeps z t := by
  unfold execInit1 at e
  injection e with e
  subst e
  exact State.rowIssue_keeps h

theorem execRowAnd_keeps {z s t : State} {a0} {a1} {a2} {a3} {a4} {a5} {a6} {a7} (h : Keeps z s) (e : execRowAnd a0 a1 a2 a3 a4 a5 a6 a7 s = .next t) : Keeps z t := by
  unfold execRowAnd at e
  injection e with e
  subst e
  exact State.rowIssue_keeps h

theorem execRowOr_keeps {z s t : State} {a0} {a1} {a2} {a3} {a4} {a5} {a6} {a7} (h : Keeps z s) (e : execRowOr a0 a1 a2 a3 a4 a5 a6 a7 s = .next t) : Keeps z t := by
  unfold execRowOr at e
  injection e with e
  subst e
  exact State.rowIssue_keeps h

theorem execRowXor_keeps {z s t : State} {a0} {a1} {a2} {a3} {a4} {a5} {a6} {a7} (h : Keeps z s) (e : execRowXor a0 a1 a2 a3 a4 a5 a6 a7 s = .next t) : Keeps z t := by
  unfold execRowXor at e
  injection e with e
  subst e
  exact State.rowIssue_keeps h

theorem execRowNot_keeps {z s t : State} {a0} {a1} {a2} {a3} {a4} {a5} (h : Keeps z s) (e : execRowNot a0 a1 a2 a3 a4 a5 s = .next t) : Keeps z t := by
  unfold execRowNot at e
  injection e with e
  subst e
  exact State.rowIssue_keeps h

theorem execRowEnd_keeps {z s t : State} {a0} {a1} (h : Keeps z s) (e : execRowEnd a0 a1 s = .next t) : Keeps z t := by
  unfold execRowEnd at e
  injection e with e
  subst e
  exact State.rowIssue_keeps h

theorem execPinReady_keeps {z s t : State} {a0} {a1} (h : Keeps z s) (e : execPinReady a0 a1 s = .next t) : Keeps z t := by
  unfold execPinReady at e
  injection e with e
  subst e
  exact State.toRun_keeps h

theorem execActivationRoom_keeps {z s t : State} {a0} {a1} (h : Keeps z s) (e : execActivationRoom a0 a1 s = .next t) : Keeps z t := by
  unfold execActivationRoom at e
  injection e with e
  subst e
  exact State.toRun_keeps h

theorem execRefreshDue_keeps {z s t : State} {a0} {a1} (h : Keeps z s) (e : execRefreshDue a0 a1 s = .next t) : Keeps z t := by
  unfold execRefreshDue at e
  injection e with e
  subst e
  exact State.refreshDue_keeps h

theorem execNbThermal_keeps {z s t : State} {a0} {a1} (h : Keeps z s) (e : execNbThermal a0 a1 s = .next t) : Keeps z t := by
  unfold execNbThermal at e
  injection e with e
  subst e
  exact State.nbThermal_keeps h

theorem execChannelGroupRamp_keeps {z s t : State} {a0} (h : Keeps z s) (e : execChannelGroupRamp a0 s = .next t) : Keeps z t := by
  unfold execChannelGroupRamp at e
  injection e with e
  subst e
  exact State.rampStep_keeps h

end Sys2Proof.Machine
end

