-- ==== Sys2Proof/Laws/KeepMemory.lean ====
section
/-!
SUPPORT. The operations of Memory keep the queue and the canonical memories.
-/

namespace Sys2Proof.Machine

theorem State.runMem_keeps {z s : State} {a1} {a2} {a3} {a4} (h : Keeps z s) (ha4 : ∀ y0 y1, Keeps z y0 → Keeps z (a4 y0 y1)) : Keeps z (State.runMem s a1 a2 a3 a4) := by
  unfold State.runMem
  exact State.runSlot_keeps h (fun x1 x2 h3 => ha4 _ _ h3)

theorem State.mapPages_keeps {z s : State} {a1} {a2} (h : Keeps z s) : Keeps z (State.mapPages s a1 a2).1 := by
  induction a2 generalizing s a1 with
  | nil =>
    unfold State.mapPages
    exact h
  | cons b r ih =>
    unfold State.mapPages
    split
    · exact h
    · split
      · exact h
      · extract_lets +onlyGivenNames u1
        clear_value u1
        extract_lets +onlyGivenNames u2
        refine Keeps.cut (s := u2) (State.dropPageBytes_keeps h) fun h3 => ?_
        clear_value u2
        exact ih (Keeps.upd h3 rfl rfl id id rfl)

theorem State.memMap_keeps {z s : State} {a1} {a2} {a3} (h : Keeps z s) : Keeps z (State.memMap s a1 a2 a3) := by
  unfold State.memMap
  apply Keeps.ite
  · exact State.toFence_keeps h
  · apply Keeps.ite
    · exact State.endJob_keeps h
    · extract_lets +onlyGivenNames u1
      refine Keeps.cut (s := u1.1) (State.mapPages_keeps h) fun h2 => ?_
      clear_value u1
      exact Keeps.ite (State.endJob_keeps h) (State.toFence_keeps h2)

theorem State.unmapPage_keeps {z s : State} {a1} {a2} (h : Keeps z s) : Keeps z (State.unmapPage s a1 a2) := by
  unfold State.unmapPage
  extract_lets +onlyGivenNames u1
  clear_value u1
  split
  · exact h
  · extract_lets +onlyGivenNames u2
    refine Keeps.cut (s := u2) (State.abortMigr_keeps h) fun h3 => ?_
    clear_value u2
    extract_lets +onlyGivenNames u4
    extract_lets +onlyGivenNames u5
    refine Keeps.cut (s := u5) (Keeps.upd h3 rfl rfl id id rfl) fun h6 => ?_
    clear_value u5
    extract_lets +onlyGivenNames u7
    refine Keeps.cut (s := u7) (State.release_keeps (State.dropPageBytes_keeps h6)) fun h8 => ?_
    clear_value u7
    split
    · exact State.release_keeps h8
    · exact h8

theorem State.memUnmap_keeps {z s : State} {a1} {a2} {a3} (h : Keeps z s) : Keeps z (State.memUnmap s a1 a2 a3) := by
  unfold State.memUnmap
  extract_lets +onlyGivenNames u1
  clear_value u1
  exact Keeps.ite (State.setJob_keeps h) (State.toFence_keeps (State.idleEngine_keeps (Keeps.foldl h (fun x2 x3 h4 => State.unmapPage_keeps h4))))

theorem State.prefetchEntry_keeps {z s : State} {a1} {a2} (h : Keeps z s) : Keeps z (State.prefetchEntry s a1 a2) := by
  unfold State.prefetchEntry
  extract_lets +onlyGivenNames u1
  clear_value u1
  split
  extract_lets +onlyGivenNames u2
  clear_value u2
  extract_lets +onlyGivenNames u3
  clear_value u3
  exact Keeps.upd h rfl rfl id id rfl

theorem State.hvChecked_keeps {z s : State} {a1} {a2} (h : Keeps z s) : Keeps z (State.hvChecked s a1 a2) := by
  unfold State.hvChecked
  exact Keeps.upd h rfl rfl id id rfl

theorem State.hvWindow_keeps {z s : State} {a1} (h : Keeps z s) : Keeps z (State.hvWindow s a1) := by
  unfold State.hvWindow
  extract_lets +onlyGivenNames u1
  clear_value u1
  exact Keeps.upd h rfl rfl id id rfl

theorem State.memHarvest_keeps {z s : State} {a1} {a2} {a3} (h : Keeps z s) : Keeps z (State.memHarvest s a1 a2 a3) := by
  unfold State.memHarvest
  extract_lets +onlyGivenNames u1
  clear_value u1
  extract_lets +onlyGivenNames u2
  clear_value u2
  apply Keeps.ite
  · exact State.toFence_keeps h
  · extract_lets +onlyGivenNames u3
    clear_value u3
    extract_lets +onlyGivenNames u4
    clear_value u4
    extract_lets +onlyGivenNames u5
    clear_value u5
    apply Keeps.ite
    · exact State.endJob_keeps h
    · extract_lets +onlyGivenNames u6
      clear_value u6
      extract_lets +onlyGivenNames u7
      refine Keeps.cut (s := u7) (Keeps.ite (State.touch_keeps h) h) fun h8 => ?_
      clear_value u7
      extract_lets +onlyGivenNames u9
      refine Keeps.cut (s := u9) (State.hvChecked_keeps h8) fun h10 => ?_
      clear_value u9
      apply Keeps.ite
      · exact State.endJob_keeps h10
      · extract_lets +onlyGivenNames u11
        clear_value u11
        extract_lets +onlyGivenNames u12
        clear_value u12
        extract_lets +onlyGivenNames u13
        clear_value u13
        extract_lets +onlyGivenNames u14
        clear_value u14
        extract_lets +onlyGivenNames u15
        refine Keeps.cut (s := u15) (State.wr_keeps h10) fun h16 => ?_
        clear_value u15
        extract_lets +onlyGivenNames u17
        refine Keeps.cut (s := u17) (State.touchReads_keeps h16) fun h18 => ?_
        clear_value u17
        extract_lets +onlyGivenNames u19
        refine Keeps.cut (s := u19) (State.releaseHarvests_keeps (State.hvWindow_keeps h18)) fun h20 => ?_
        clear_value u19
        extract_lets +onlyGivenNames u21
        refine Keeps.cut (s := u21) (Keeps.foldl h20 (fun x23 x24 h25 => State.prefetchEntry_keeps h25)) fun h22 => ?_
        clear_value u21
        exact State.toFence_keeps (State.startPrefetch_keeps h22)

theorem State.memWork_keeps {z s : State} {a1} {a2} {a3} (h : Keeps z s) : Keeps z (State.memWork s a1 a2 a3) := by
  unfold State.memWork
  extract_lets +onlyGivenNames u1
  clear_value u1
  extract_lets +onlyGivenNames u2
  clear_value u2
  extract_lets +onlyGivenNames u3
  clear_value u3
  exact Keeps.ite (State.setJob_keeps h) (State.endRun_keeps (Keeps.ite h (State.rampUp_keeps (State.count_keeps h))))

theorem State.epochEnd_keeps {z s : State} (h : Keeps z s) : Keeps z (State.epochEnd s) := by
  unfold State.epochEnd
  extract_lets +onlyGivenNames u1
  extract_lets +onlyGivenNames u2
  refine Keeps.cut (s := u2) (Keeps.upd h rfl rfl id id rfl) fun h3 => ?_
  clear_value u2
  exact State.promote_keeps (State.shrinkT1_keeps h3)

theorem State.migChunk_keeps {z s : State} {a1} {a2} (h : Keeps z s) : Keeps z (State.migChunk s a1 a2) := by
  unfold State.migChunk
  split
  · apply Keeps.ite
    · exact State.idleEngine_keeps (State.abortMigr_keeps (State.uncorr_keeps h))
    · apply Keeps.ite
      · extract_lets +onlyGivenNames u1
        refine Keeps.cut (s := u1) (State.chargePath_keeps (State.chargePath_keeps h)) fun h2 => ?_
        clear_value u1
        exact Keeps.upd h2 rfl rfl id id rfl
      · exact h
  · exact h

theorem State.cutoverStep_keeps {z s : State} {a1} (h : Keeps z s) : Keeps z (State.cutoverStep s a1) := by
  unfold State.cutoverStep
  split
  · exact Keeps.ite (State.idleEngine_keeps (State.cutover_keeps h)) h
  · exact h

theorem State.trayRegs_keeps {z s : State} {a1} (h : Keeps z s) : Keeps z (State.trayRegs s a1) := by
  unfold State.trayRegs
  extract_lets +onlyGivenNames u1
  clear_value u1
  extract_lets +onlyGivenNames u2
  refine Keeps.cut (s := u2) (State.wr_keeps h) fun h3 => ?_
  clear_value u2
  extract_lets +onlyGivenNames u4
  refine Keeps.cut (s := u4) (State.wr_keeps h3) fun h5 => ?_
  clear_value u4
  exact State.flag_keeps h5

theorem State.enumerate_keeps {z s : State} (h : Keeps z s) : Keeps z (State.enumerate s) := by
  unfold State.enumerate
  apply Keeps.ite
  · extract_lets +onlyGivenNames u1
    refine Keeps.cut (s := u1) (Keeps.foldl h (fun x2 x3 h4 => Keeps.ite h4 (Keeps.upd h4 rfl rfl id id rfl))) fun h5 => ?_
    clear_value u1
    exact State.wr_keeps (Keeps.foldl h5 (fun x6 x7 h8 => State.trayRegs_keeps h8))
  · exact h

theorem State.hotAdd_keeps {z s : State} {a1} {a2} {a3} {a4} {a5} (h : Keeps z s) : Keeps z (State.hotAdd s a1 a2 a3 a4 a5) := by
  unfold State.hotAdd
  apply Keeps.ite
  · exact h
  · extract_lets +onlyGivenNames u1
    clear_value u1
    extract_lets +onlyGivenNames u2
    extract_lets +onlyGivenNames u3
    refine Keeps.cut (s := u3) (Keeps.upd h rfl rfl id id rfl) fun h4 => ?_
    clear_value u3
    extract_lets +onlyGivenNames u5
    refine Keeps.cut (s := u5) (State.wr_keeps (State.wr_keeps (State.wr_keeps h4))) fun h6 => ?_
    clear_value u5
    exact Keeps.ite (State.enumerate_keeps h6) h6

theorem State.trayLost_keeps {z s : State} {a1} {a2} (h : Keeps z s) : Keeps z (State.trayLost s a1 a2) := by
  unfold State.trayLost
  apply Keeps.ite
  · extract_lets +onlyGivenNames u1
    extract_lets +onlyGivenNames u2
    refine Keeps.cut (s := u2) (Keeps.upd h rfl rfl id id rfl) fun h3 => ?_
    clear_value u2
    exact State.alarm_keeps (State.setBit_keeps (State.trayRegs_keeps h3))
  · exact h

theorem State.movePage_keeps {z s : State} {a1} {a2} (h : Keeps z s) : Keeps z (State.movePage s a1 a2) := by
  unfold State.movePage
  extract_lets +onlyGivenNames u1
  clear_value u1
  extract_lets +onlyGivenNames u2
  refine Keeps.cut (s := u2) (State.abortMigr_keeps h) fun h3 => ?_
  clear_value u2
  split
  · apply Keeps.ite
    · exact Keeps.upd h3 rfl rfl id id rfl
    · split
      · exact Keeps.ite (Keeps.upd h3 rfl rfl id id rfl) h3
      · exact h3
  · exact h3

theorem State.enableTray_keeps {z s : State} {a1} {a2} {a3} (h : Keeps z s) : Keeps z (State.enableTray s a1 a2 a3) := by
  unfold State.enableTray
  exact Keeps.upd h rfl rfl id id rfl

theorem State.forgetTray_keeps {z s : State} {a1} (h : Keeps z s) : Keeps z (State.forgetTray s a1) := by
  unfold State.forgetTray
  exact Keeps.upd h rfl rfl id id rfl

theorem State.trayOut_keeps {z s : State} {a1} {a2} (h : Keeps z s) : Keeps z (State.trayOut s a1 a2) := by
  unfold State.trayOut
  split
  · exact h
  · extract_lets +onlyGivenNames u1
    refine Keeps.cut (s := u1) (State.enableTray_keeps h) fun h2 => ?_
    clear_value u1
    extract_lets +onlyGivenNames u3
    refine Keeps.cut (s := u3) (Keeps.foldl h2 (fun x5 x6 h7 => Keeps.ite (State.movePage_keeps h7) h7)) fun h4 => ?_
    clear_value u3
    exact Keeps.ite (State.enableTray_keeps h4) (State.idleEngine_keeps (State.trayRegs_keeps (State.forgetTray_keeps h4)))

theorem execMemMap_keeps {z s t : State} {a0} {a1} (h : Keeps z s) (e : execMemMap a0 a1 s = .next t) : Keeps z t := by
  unfold execMemMap at e
  injection e with e
  subst e
  exact State.choices_keeps (State.runMem_keeps h (fun x1 x2 h3 => State.memMap_keeps h3))

theorem execMemUnmap_keeps {z s t : State} {a0} {a1} (h : Keeps z s) (e : execMemUnmap a0 a1 s = .next t) : Keeps z t := by
  unfold execMemUnmap at e
  injection e with e
  subst e
  exact State.choices_keeps (State.runMem_keeps h (fun x1 x2 h3 => State.memUnmap_keeps h3))

theorem execMemHarvest_keeps {z s t : State} {a0} {a1} (h : Keeps z s) (e : execMemHarvest a0 a1 s = .next t) : Keeps z t := by
  unfold execMemHarvest at e
  injection e with e
  subst e
  exact State.choices_keeps (State.runMem_keeps h (fun x1 x2 h3 => State.memHarvest_keeps h3))

theorem execMemFill_keeps {z s t : State} {a0} {a1} (h : Keeps z s) (e : execMemFill a0 a1 s = .next t) : Keeps z t := by
  unfold execMemFill at e
  injection e with e
  subst e
  exact State.choices_keeps (State.runMem_keeps h (fun x1 x2 h3 => State.memWork_keeps h3))

theorem execMemCopy_keeps {z s t : State} {a0} {a1} (h : Keeps z s) (e : execMemCopy a0 a1 s = .next t) : Keeps z t := by
  unfold execMemCopy at e
  injection e with e
  subst e
  exact State.choices_keeps (State.runMem_keeps h (fun x1 x2 h3 => State.memWork_keeps h3))

theorem execMemCompare_keeps {z s t : State} {a0} {a1} (h : Keeps z s) (e : execMemCompare a0 a1 s = .next t) : Keeps z t := by
  unfold execMemCompare at e
  injection e with e
  subst e
  exact State.choices_keeps (State.runMem_keeps h (fun x1 x2 h3 => State.memWork_keeps h3))

theorem execMemReduce_keeps {z s t : State} {a0} {a1} (h : Keeps z s) (e : execMemReduce a0 a1 s = .next t) : Keeps z t := by
  unfold execMemReduce at e
  injection e with e
  subst e
  exact State.choices_keeps (State.runMem_keeps h (fun x1 x2 h3 => State.memWork_keeps h3))

theorem execEpochEnd_keeps {z s t : State} (h : Keeps z s) (e : execEpochEnd s = .next t) : Keeps z t := by
  unfold execEpochEnd at e
  injection e with e
  subst e
  exact State.epochEnd_keeps h

theorem execMigrationChunk_keeps {z s t : State} {a0} {a1} {a2} (h : Keeps z s) (e : execMigrationChunk a0 a1 a2 s = .next t) : Keeps z t := by
  unfold execMigrationChunk at e
  injection e with e
  subst e
  exact State.choices_keeps (State.migChunk_keeps h)

theorem execTrayTimeout_keeps {z s t : State} {a0} {a1} (h : Keeps z s) (e : execTrayTimeout a0 a1 s = .next t) : Keeps z t := by
  unfold execTrayTimeout at e
  injection e with e
  subst e
  exact State.choices_keeps (State.trayLost_keeps h)

theorem execTrayRemoval_keeps {z s t : State} {a0} {a1} (h : Keeps z s) (e : execTrayRemoval a0 a1 s = .next t) : Keeps z t := by
  unfold execTrayRemoval at e
  injection e with e
  subst e
  exact State.choices_keeps (State.trayLost_keeps h)

theorem execTrayHotadd_keeps {z s t : State} {a0} {a1} {a2} {a3} {a4} (h : Keeps z s) (e : execTrayHotadd a0 a1 a2 a3 a4 s = .next t) : Keeps z t := by
  unfold execTrayHotadd at e
  injection e with e
  subst e
  exact State.hotAdd_keeps h

end Sys2Proof.Machine
end

