-- ==== Sys2Proof/Laws/KeepKvPool.lean ====
section
/-!
SUPPORT. The operations of KvPool keep the queue and the canonical memories.
-/

namespace Sys2Proof.Machine

theorem State.setHdr_keeps {z s : State} {a1} {a2} {a3} {a4} {a5} (h : Keeps z s) : Keeps z (State.setHdr s a1 a2 a3 a4 a5) := by
  unfold State.setHdr
  exact State.pokeNat_keeps h

end Sys2Proof.Machine
end

