-- ==== Sys2Proof/Laws/KeepAttMath.lean ====
section
/-!
SUPPORT. The operations of AttMath keep the queue and the canonical memories.
-/

namespace Sys2Proof.Machine

theorem State.putKv_keeps {z s : State} {a1} {a2} {a3} {a4} {a5} {a6} {a7} {a8} (h : Keeps z s) : Keeps z (State.putKv s a1 a2 a3 a4 a5 a6 a7 a8) := by
  unfold State.putKv
  extract_lets +onlyGivenNames u1
  clear_value u1
  extract_lets +onlyGivenNames u2
  clear_value u2
  exact State.pokeHome_keeps (State.pokeHome_keeps h)

theorem State.appendRow_keeps {z s : State} {a1} {a2} {a3} {a4} {a5} {a6} {a7} (h : Keeps z s) : Keeps z (State.appendRow s a1 a2 a3 a4 a5 a6 a7) := by
  unfold State.appendRow
  extract_lets +onlyGivenNames u1
  refine Keeps.cut (s := u1) (Keeps.foldl h (fun x3 x4 h5 => State.putKv_keeps h5)) fun h2 => ?_
  clear_value u1
  exact Keeps.foldl h2 (fun x6 x7 h8 => State.putKv_keeps h8)

end Sys2Proof.Machine
end

