-- ==== Sys2Proof/Laws/KeepAttHome.lean ====
section
/-!
SUPPORT. The operations of AttHome keep the queue and the canonical memories.
-/

namespace Sys2Proof.Machine

theorem State.attAppend_keeps {z s : State} {a1} {a2} {a3} {a4} {a5} (h : Keeps z s) : Keeps z (State.attAppend s a1 a2 a3 a4 a5) := by
  unfold State.attAppend
  extract_lets +onlyGivenNames u1
  clear_value u1
  extract_lets +onlyGivenNames u2
  clear_value u2
  extract_lets +onlyGivenNames u3
  refine Keeps.cut (s := u3) (Keeps.foldl h (fun x5 x6 h7 => State.appendRow_keeps h7)) fun h4 => ?_
  clear_value u3
  apply Keeps.ite
  · exact h4
  · extract_lets +onlyGivenNames u8
    clear_value u8
    extract_lets +onlyGivenNames u9
    refine Keeps.cut (s := u9) (Keeps.ite (Keeps.foldl h4 (fun x11 x12 h13 => State.pokeNat_keeps h13)) h4) fun h10 => ?_
    clear_value u9
    exact Keeps.ite (Keeps.foldl h10 (fun x14 x15 h16 => State.setHdr_keeps h16)) h10

theorem State.attServe_keeps {z s : State} {a1} {a2} {a3} (h : Keeps z s) : Keeps z (State.attServe s a1 a2 a3).1 := by
  unfold State.attServe
  split
  · exact h
  · split
    extract_lets +onlyGivenNames u1
    clear_value u1
    extract_lets +onlyGivenNames u2
    clear_value u2
    extract_lets +onlyGivenNames u3
    refine Keeps.cut (s := u3) (State.attAppend_keeps (State.count_keeps (State.rampAt_keeps h))) fun h4 => ?_
    clear_value u3
    extract_lets +onlyGivenNames u5
    clear_value u5
    extract_lets +onlyGivenNames u6
    refine Keeps.cut (s := u6) (State.touchReads_keeps h4) fun h7 => ?_
    clear_value u6
    extract_lets +onlyGivenNames u8
    clear_value u8
    extract_lets +onlyGivenNames u9
    refine Keeps.cut (s := u9) (Keeps.ite h7 (State.count_keeps h7)) fun h10 => ?_
    clear_value u9
    extract_lets +onlyGivenNames u11
    clear_value u11
    exact h10

theorem State.attReject_keeps {z s : State} {a1} (h : Keeps z s) : Keeps z (State.attReject s a1) := by
  unfold State.attReject
  extract_lets +onlyGivenNames u1
  refine Keeps.cut (s := u1) (State.bump_keeps h) fun h2 => ?_
  clear_value u1
  exact Keeps.ite (State.setBit_keeps h2) (Keeps.ite (State.setBit_keeps h2) (Keeps.ite (State.setBit_keeps h2) (Keeps.ite (State.setBit_keeps h2) h2)))

theorem State.attGrant_keeps {z s : State} {a1} {a2} (h : Keeps z s) : Keeps z (State.attGrant s a1 a2).1 := by
  unfold State.attGrant
  extract_lets +onlyGivenNames u1
  have h2 : Keeps z u1.1 := State.grantAll_keeps h
  clear_value u1
  split
  · extract_lets +onlyGivenNames u3
    have h4 : Keeps z u3.1 := State.attServe_keeps h2
    clear_value u3
    exact h4
  · exact h2

theorem State.attTry_keeps {z s : State} {a1} {a2} (h : Keeps z s) : Keeps z (State.attTry s a1 a2).1 := by -- by hand
  unfold State.attTry
  split
  · exact h
  · dsimp only
    split
    · exact State.raiseUncorr_keeps (State.attReject_keeps h)
    · split
      · split
        · exact (State.attReject_keeps h : Keeps z (s.attReject St.t1Quota))
        · exact h
      · split
        · exact h
        · exact State.attGrant_keeps h

end Sys2Proof.Machine
end

