-- ==== Sys2Proof/Laws/KeepAttention.lean ====
section
/-!
SUPPORT. The operations of Attention keep the queue and the canonical memories.
-/

namespace Sys2Proof.Machine

theorem State.farRead_keeps {z s : State} {a1} {a2} {a3} {a4} {a5} {a6} {a7} (h : Keeps z s) : Keeps z (State.farRead s a1 a2 a3 a4 a5 a6 a7) := by
  unfold State.farRead
  exact State.issue_keeps h

theorem State.markEmpty_keeps {z s : State} {a1} {a2} (h : Keeps z s) : Keeps z (State.markEmpty s a1 a2) := by
  unfold State.markEmpty
  exact Keeps.upd h rfl rfl id id rfl

theorem State.noteEmpty_keeps {z s : State} {a1} {a2} {a3} (h : Keeps z s) : Keeps z (State.noteEmpty s a1 a2 a3) := by
  unfold State.noteEmpty
  extract_lets +onlyGivenNames u1
  refine Keeps.cut (s := u1) (State.bump_keeps h) fun h2 => ?_
  clear_value u1
  exact Keeps.ite (State.markEmpty_keeps h2) h2

theorem State.attFinish_keeps {z s : State} {a1} {a2} {a3} (h : Keeps z s) : Keeps z (State.attFinish s a1 a2 a3) := by
  unfold State.attFinish
  split
  · exact State.dropReplies_keeps (State.endJob_keeps h)
  · extract_lets +onlyGivenNames u1
    clear_value u1
    extract_lets +onlyGivenNames u2
    clear_value u2
    apply Keeps.ite
    · exact State.dropReplies_keeps (State.endRun_keeps h)
    · split
      · extract_lets +onlyGivenNames u3
        clear_value u3
        extract_lets +onlyGivenNames u4
        clear_value u4
        extract_lets +onlyGivenNames u5
        refine Keeps.cut (s := u5) (Keeps.foldl h (fun x7 x8 h9 => State.noteEmpty_keeps h9)) fun h6 => ?_
        clear_value u5
        extract_lets +onlyGivenNames u10
        refine Keeps.cut (s := u10) (State.dropReplies_keeps h6) fun h11 => ?_
        clear_value u10
        exact State.endRun_keeps h11
      · exact State.dropReplies_keeps (State.endJob_keeps h)

theorem State.attFail_keeps {z s : State} {a1} {a2} {a3} (h : Keeps z s) : Keeps z (State.attFail s a1 a2 a3) := by
  unfold State.attFail
  exact State.dropReplies_keeps (State.endFarFault_keeps h)

theorem State.attReply_keeps {z s : State} {a1} {a2} (h : Keeps z s) : Keeps z (State.attReply s a1 a2) := by
  unfold State.attReply
  split
  · exact h
  · apply Keeps.ite
    · exact h
    · split
      · exact State.closeTag_keeps h
      · extract_lets +onlyGivenNames u1
        clear_value u1
        apply Keeps.ite
        · exact State.attFail_keeps (State.closeTag_keeps h)
        · extract_lets +onlyGivenNames u2
          refine Keeps.cut (s := u2) (State.keepReply_keeps h) fun h3 => ?_
          clear_value u2
          split
          · exact Keeps.ite (State.attFinish_keeps h3) h3
          · exact h3

theorem State.attDeliver_keeps {z s : State} {a1} {a2} {a3} (h : Keeps z s) : Keeps z (State.attDeliver s a1 a2 a3) := by
  unfold State.attDeliver
  exact Keeps.ite (State.attReply_keeps h) (State.send_keeps h)

theorem State.attDrain_keeps {z s : State} {a1} {a2} (h : Keeps z s) : Keeps z (State.attDrain s a1 a2) := by -- by hand
  induction a1 generalizing s a2 with
  | nil =>
    unfold State.attDrain
    exact Keeps.upd h rfl rfl id id rfl
  | cons b r ih =>
    unfold State.attDrain
    split
    · rename_i heq
      exact ih (State.attDeliver_keeps (Keeps.pair (State.attTry_keeps h) heq))
    · rename_i heq
      exact ih (Keeps.pair (State.attTry_keeps h) heq)

theorem State.attAccept_keeps {z s : State} {a1} {a2} (h : Keeps z s) : Keeps z (State.attAccept s a1 a2) := by
  unfold State.attAccept
  split
  · rename_i x1 s2 x3 x4 x5
    have h6 : Keeps z s2 := Keeps.pair (State.attTry_keeps h) x5
    exact State.attDeliver_keeps h6
  · rename_i x7 s8 x9 x10
    have h11 : Keeps z s8 := Keeps.pair (State.attTry_keeps h) x10
    extract_lets +onlyGivenNames u12
    refine Keeps.cut (s := u12) (State.abortForPins_keeps h11) fun h13 => ?_
    clear_value u12
    exact State.startPins_keeps (Keeps.upd h13 rfl rfl id id rfl)

theorem State.attTake_keeps {z s : State} {a1} (h : Keeps z s) : Keeps z (State.attTake s a1) := by
  unfold State.attTake
  apply Keeps.ite
  · split
    · exact h
    · exact Keeps.ite (State.attAccept_keeps h) (State.closeTag_keeps h)
  · extract_lets +onlyGivenNames u1
    refine Keeps.cut (s := u1) (State.count_keeps h) fun h2 => ?_
    clear_value u1
    extract_lets +onlyGivenNames u3
    clear_value u3
    apply Keeps.ite
    · exact State.send_keeps (State.attReject_keeps h2)
    · split
      · exact State.attAccept_keeps h2
      · exact h2

theorem State.attRoom_keeps {z s : State} {a1} (h : Keeps z s) : Keeps z (State.attRoom s a1) := by -- by hand
  induction a1 generalizing s with
  | zero => exact h
  | succ n ih =>
    unfold State.attRoom
    split
    · exact h
    · split
      · exact ih (State.attTake_keeps (State.unstick_keeps (Keeps.upd h rfl rfl id id rfl)))
      · exact h

theorem State.attOffer_keeps {z s : State} {a1} (h : Keeps z s) : Keeps z (State.attOffer s a1) := by
  unfold State.attOffer
  exact Keeps.ite (Keeps.upd h rfl rfl id id rfl) (State.attTake_keeps h)

theorem State.attWake_keeps {z s : State} (h : Keeps z s) : Keeps z (State.attWake s) := by
  unfold State.attWake
  extract_lets +onlyGivenNames u1
  clear_value u1
  apply Keeps.ite
  · exact h
  · extract_lets +onlyGivenNames u2
    refine Keeps.cut (s := u2) (State.attDrain_keeps h) fun h3 => ?_
    clear_value u2
    exact State.retryMoves_keeps (State.attRoom_keeps h3)

theorem State.attTag_keeps {z s : State} {a1} (h : Keeps z s) : Keeps z (State.attTag s a1).1 := by
  unfold State.attTag
  extract_lets +onlyGivenNames u1
  clear_value u1
  extract_lets +onlyGivenNames u2
  clear_value u2
  extract_lets +onlyGivenNames u3
  refine Keeps.cut (s := u3) (State.putPend_keeps h) fun h4 => ?_
  clear_value u3
  exact State.awaitTag_keeps h4

theorem State.attTags_keeps {z s : State} {a1} (h : Keeps z s) : Keeps z (State.attTags s a1).1 := by
  induction a1 generalizing s with
  | nil =>
    unfold State.attTags
    exact h
  | cons b r ih =>
    unfold State.attTags
    split
    rename_i x1 s2 x3 x4
    have h5 : Keeps z s2 := Keeps.pair (State.attTag_keeps h) x4
    split
    rename_i x6 s7 x8 x9
    have h10 : Keeps z s7 := Keeps.pair (ih h5) x9
    exact h10

theorem State.attIssue_keeps {z s : State} {a1} {a2} {a3} {a4} (h : Keeps z s) : Keeps z (State.attIssue s a1 a2 a3 a4) := by -- by hand
  unfold State.attIssue
  extract_lets +onlyGivenNames u1
  clear_value u1
  extract_lets +onlyGivenNames u2
  clear_value u2
  extract_lets +onlyGivenNames u3
  clear_value u3
  extract_lets +onlyGivenNames u4
  refine Keeps.cut (s := u4) (Keeps.foldl h (fun x5 x6 h7 => State.issue_keeps h7)) fun h8 => ?_
  clear_value u4
  split
  rename_i heq
  exact Keeps.foldl (Keeps.pair (State.attTags_keeps h8) heq) (fun x14 x15 h16 => State.attOffer_keeps h16)

theorem State.countSkips_keeps {z s : State} {a1} {a2} {a3} {a4} (h : Keeps z s) : Keeps z (State.countSkips s a1 a2 a3 a4) := by
  unfold State.countSkips
  apply Keeps.ite
  · exact h
  · extract_lets +onlyGivenNames u1
    clear_value u1
    extract_lets +onlyGivenNames u2
    clear_value u2
    extract_lets +onlyGivenNames u3
    clear_value u3
    extract_lets +onlyGivenNames u4
    clear_value u4
    exact State.count_keeps h

theorem State.attRun_keeps {z s : State} {a1} {a2} {a3} (h : Keeps z s) : Keeps z (State.attRun s a1 a2 a3) := by
  unfold State.attRun
  extract_lets +onlyGivenNames u1
  clear_value u1
  split
  · exact State.endJob_keeps h
  · extract_lets +onlyGivenNames u2
    refine Keeps.cut (s := u2) (State.setJob_keeps h) fun h3 => ?_
    clear_value u2
    extract_lets +onlyGivenNames u4
    clear_value u4
    extract_lets +onlyGivenNames u5
    clear_value u5
    extract_lets +onlyGivenNames u6
    clear_value u6
    apply Keeps.ite
    · exact h3
    · apply Keeps.ite
      · exact Keeps.ite (State.endJob_keeps h3) (Keeps.foldl h3 (fun x19 x20 h21 => Keeps.foldl h21 (fun x22 x23 h24 => State.farRead_keeps h24)))
      · apply Keeps.ite
        · exact h3
        · apply Keeps.ite
          · exact State.attFail_keeps h3
          · apply Keeps.ite
            · exact State.attFail_keeps (State.setBit_keeps h3)
            · extract_lets +onlyGivenNames u25
              clear_value u25
              apply Keeps.ite
              · exact State.endJob_keeps h3
              · extract_lets +onlyGivenNames u26
                clear_value u26
                extract_lets +onlyGivenNames u27
                refine Keeps.cut (s := u27) (State.countSkips_keeps h3) fun h28 => ?_
                clear_value u27
                apply Keeps.ite
                · exact State.dropReplies_keeps (State.endJob_keeps h28)
                · apply Keeps.ite
                  · exact State.attFail_keeps (State.dropReplies_keeps h28)
                  · extract_lets +onlyGivenNames u29
                    refine Keeps.cut (s := u29) (State.attIssue_keeps (State.dropReplies_keeps h28)) fun h30 => ?_
                    clear_value u29
                    split
                    · exact Keeps.ite (State.attFinish_keeps h30) h30
                    · exact h30

theorem State.prefixRun_keeps {z s : State} {a1} {a2} {a3} (h : Keeps z s) : Keeps z (State.prefixRun s a1 a2 a3) := by
  unfold State.prefixRun
  extract_lets +onlyGivenNames u1
  clear_value u1
  extract_lets +onlyGivenNames u2
  clear_value u2
  split
  · extract_lets +onlyGivenNames u3
    clear_value u3
    extract_lets +onlyGivenNames u4
    clear_value u4
    apply Keeps.ite
    · exact State.endJob_keeps h
    · apply Keeps.ite
      · exact State.endJob_keeps h
      · extract_lets +onlyGivenNames u5
        clear_value u5
        extract_lets +onlyGivenNames u6
        clear_value u6
        extract_lets +onlyGivenNames u7
        refine Keeps.cut (s := u7) (Keeps.ite h (State.useFree_keeps h)) fun h8 => ?_
        clear_value u7
        apply Keeps.ite
        · exact State.attFail_keeps (State.setJob_keeps h8)
        · extract_lets +onlyGivenNames u9
          clear_value u9
          exact State.endRun_keeps h8
  · exact State.endJob_keeps h

theorem State.farAnswer_keeps {z s : State} {a1} {a2} (h : Keeps z s) : Keeps z (State.farAnswer s a1 a2) := by
  unfold State.farAnswer
  split
  · exact h
  · split
    · exact State.closeTag_keeps h
    · extract_lets +onlyGivenNames u1
      refine Keeps.cut (s := u1) (State.keepReply_keeps h) fun h2 => ?_
      clear_value u1
      split
      · exact Keeps.ite (State.attRun_keeps h2) h2
      · exact h2

theorem State.attReqIn_keeps {z s : State} {a1} (h : Keeps z s) : Keeps z (State.attReqIn s a1) := by
  unfold State.attReqIn
  exact State.attOffer_keeps h

theorem State.attTimeout_keeps {z s : State} {a1} (h : Keeps z s) : Keeps z (State.attTimeout s a1) := by
  unfold State.attTimeout
  split
  · exact h
  · apply Keeps.ite
    · exact h
    · extract_lets +onlyGivenNames u1
      refine Keeps.cut (s := u1) (State.setBit_keeps (State.bump_keeps h)) fun h2 => ?_
      clear_value u1
      split
      · exact State.closeTag_keeps h2
      · extract_lets +onlyGivenNames u3
        clear_value u3
        extract_lets +onlyGivenNames u4
        refine Keeps.cut (s := u4) (Keeps.foldl h2 (fun x5 x6 h7 => Keeps.foldl h7 (fun x8 x9 h10 => State.poisonRange_keeps h10))) fun h11 => ?_
        clear_value u4
        exact State.dropReplies_keeps (State.orphanCmd_keeps (State.closeTag_keeps h11))

theorem execAttn_keeps {z s t : State} {a0} {a1} (h : Keeps z s) (e : execAttn a0 a1 s = .next t) : Keeps z t := by
  unfold execAttn at e
  injection e with e
  subst e
  exact State.choices_keeps (State.runSlot_keeps h (fun x1 x2 h3 => State.attRun_keeps h3))

theorem execKvAppend_keeps {z s t : State} {a0} {a1} (h : Keeps z s) (e : execKvAppend a0 a1 s = .next t) : Keeps z t := by
  unfold execKvAppend at e
  injection e with e
  subst e
  exact State.choices_keeps (State.runSlot_keeps h (fun x1 x2 h3 => State.attRun_keeps h3))

theorem execPrefixMatch_keeps {z s t : State} {a0} {a1} (h : Keeps z s) (e : execPrefixMatch a0 a1 s = .next t) : Keeps z t := by
  unfold execPrefixMatch at e
  injection e with e
  subst e
  exact State.choices_keeps (State.runSlot_keeps h (fun x1 x2 h3 => State.prefixRun_keeps h3))

theorem execCutover_keeps {z s t : State} {a0} {a1} (h : Keeps z s) (e : execCutover a0 a1 s = .next t) : Keeps z t := by
  unfold execCutover at e
  injection e with e
  subst e
  exact State.choices_keeps (State.attWake_keeps (State.cutoverStep_keeps h))

theorem execAttReq_keeps {z s t : State} {a0} (h : Keeps z s) (e : execAttReq a0 s = .next t) : Keeps z t := by
  unfold execAttReq at e
  injection e with e
  subst e
  exact State.choices_keeps (State.attReqIn_keeps h)

theorem execAttTimeout_keeps {z s t : State} {a0} (h : Keeps z s) (e : execAttTimeout a0 s = .next t) : Keeps z t := by
  unfold execAttTimeout at e
  injection e with e
  subst e
  exact State.choices_keeps (State.attTimeout_keeps h)

end Sys2Proof.Machine
end

