-- ==== Sys2Proof/Laws/KeepFieldHome.lean ====
section
/-!
SUPPORT. The operations of FieldHome keep the queue and the canonical memories.
-/

namespace Sys2Proof.Machine

theorem State.arrive_keeps {z s : State} {a1} (h : Keeps z s) : Keeps z (State.arrive s a1) := by
  unfold State.arrive
  exact Keeps.upd h rfl rfl id id rfl

theorem State.modConn_keeps {z s : State} {a1} {a2} (h : Keeps z s) : Keeps z (State.modConn s a1 a2) := by
  unfold State.modConn
  exact Keeps.upd h rfl rfl id id rfl

theorem State.modFport_keeps {z s : State} {a1} {a2} (h : Keeps z s) : Keeps z (State.modFport s a1 a2) := by
  unfold State.modFport
  exact Keeps.upd h rfl rfl id id rfl

theorem State.poisonReads_keeps {z s : State} {a1} (h : Keeps z s) : Keeps z (State.poisonReads s a1) := by
  unfold State.poisonReads
  extract_lets +onlyGivenNames u1
  clear_value u1
  extract_lets +onlyGivenNames u2
  clear_value u2
  extract_lets +onlyGivenNames u3
  clear_value u3
  exact Keeps.foldl h (fun x4 x5 h6 => State.poisonRange_keeps h6)

theorem State.endPlace_keeps {z s : State} {a1} {a2} (h : Keeps z s) : Keeps z (State.endPlace s a1 a2) := by
  unfold State.endPlace
  split
  · exact State.closeJob_keeps h
  · exact h

theorem State.enterError_keeps {z s : State} {a1} {a2} (h : Keeps z s) : Keeps z (State.enterError s a1 a2) := by
  unfold State.enterError
  split
  · exact h
  · extract_lets +onlyGivenNames u1
    clear_value u1
    extract_lets +onlyGivenNames u2
    refine Keeps.cut (s := u2) (State.modConn_keeps h) fun h3 => ?_
    clear_value u2
    extract_lets +onlyGivenNames u4
    refine Keeps.cut (s := u4) (State.setBit_keeps (State.bump_keeps h3)) fun h5 => ?_
    clear_value u4
    exact Keeps.foldl h5 (fun x6 x7 h8 => State.endPlace_keeps h8)

theorem State.retriesOut_keeps {z s : State} {a1} (h : Keeps z s) : Keeps z (State.retriesOut s a1) := by
  unfold State.retriesOut
  split
  · exact h
  · extract_lets +onlyGivenNames u1
    clear_value u1
    extract_lets +onlyGivenNames u2
    clear_value u2
    extract_lets +onlyGivenNames u3
    clear_value u3
    extract_lets +onlyGivenNames u4
    refine Keeps.cut (s := u4) (State.enterError_keeps (State.poisonReads_keeps h)) fun h5 => ?_
    clear_value u4
    exact State.orphanLodge_keeps h5

theorem State.fieldCtl_keeps {z s : State} {a1} {a2} {a3} {a4} {a5} (h : Keeps z s) : Keeps z (State.fieldCtl s a1 a2 a3 a4 a5) := by
  unfold State.fieldCtl
  split
  · exact h
  · exact State.modFport_keeps h

theorem State.refusePacket_keeps {z s : State} {a1} {a2} {a3} (h : Keeps z s) : Keeps z (State.refusePacket s a1 a2 a3) := by
  unfold State.refusePacket
  exact State.enterError_keeps (State.bump_keeps (State.fieldCtl_keeps h))

theorem State.applyWrite_keeps {z s : State} {a1} {a2} {a3} (h : Keeps z s) : Keeps z (State.applyWrite s a1 a2 a3) := by
  unfold State.applyWrite
  extract_lets +onlyGivenNames u1
  clear_value u1
  extract_lets +onlyGivenNames u2
  clear_value u2
  extract_lets +onlyGivenNames u3
  clear_value u3
  apply Keeps.ite
  · exact State.refusePacket_keeps h
  · apply Keeps.ite
    · exact State.refusePacket_keeps h
    · split
      rename_i x4 s5 x6 x7
      have h8 : Keeps z s5 := Keeps.pair (State.invalTracked_keeps (State.poke_keeps (State.chargePath_keeps h))) x7
      exact State.modConn_keeps h8

theorem State.serveRead_keeps {z s : State} {a1} {a2} {a3} (h : Keeps z s) : Keeps z (State.serveRead s a1 a2 a3) := by
  unfold State.serveRead
  extract_lets +onlyGivenNames u1
  clear_value u1
  extract_lets +onlyGivenNames u2
  clear_value u2
  apply Keeps.ite
  · exact State.refusePacket_keeps (State.raiseUncorr_keeps h)
  · extract_lets +onlyGivenNames u3
    clear_value u3
    exact State.modConn_keeps (State.touch_keeps (State.chargePath_keeps h))

theorem State.visible_keeps {z s : State} {a1} {a2} {a3} {a4} (h : Keeps z s) : Keeps z (State.visible s a1 a2 a3 a4) := by
  unfold State.visible
  extract_lets +onlyGivenNames u1
  have h2 : Keeps z u1 := by
    subst u1
    split
    · exact State.arrive_keeps h
    · exact h
  clear_value u1
  extract_lets +onlyGivenNames u3
  refine Keeps.cut (s := u3) (State.modConn_keeps h2) fun h4 => ?_
  clear_value u3
  exact Keeps.ite (State.fieldCtl_keeps h4) h4

theorem State.settleRx_keeps {z s : State} {a1} {a2} (h : Keeps z s) : Keeps z (State.settleRx s a1 a2) := by -- by hand
  induction a2 generalizing s a1 with
  | zero =>
    unfold State.settleRx
    exact h
  | succ n ih =>
    unfold State.settleRx
    split
    · exact h
    · apply Keeps.ite
      · exact h
      · split
        · exact ih (State.visible_keeps h)
        · split
          · exact h
          · apply Keeps.ite
            · exact h
            · extract_lets +onlyGivenNames u1
              refine Keeps.cut (s := u1) (State.modConn_keeps h) fun h2 => ?_
              clear_value u1
              apply Keeps.ite
              · exact ih (State.applyWrite_keeps h2)
              · extract_lets +onlyGivenNames u3
                refine Keeps.cut (s := u3) (State.serveRead_keeps h2) fun h4 => ?_
                clear_value u3
                exact ih (Keeps.ite (State.modConn_keeps h4) h4)

theorem State.pumpRx_keeps {z s : State} {a1} (h : Keeps z s) : Keeps z (State.pumpRx s a1) := by
  unfold State.pumpRx
  split
  · exact h
  · exact State.settleRx_keeps h

theorem State.pumpConns_keeps {z s : State} (h : Keeps z s) : Keeps z (State.pumpConns s) := by
  unfold State.pumpConns
  exact Keeps.foldl h (fun x1 x2 h3 => State.pumpRx_keeps h3)

theorem State.fieldAcked_keeps {z s : State} {a1} (h : Keeps z s) : Keeps z (State.fieldAcked s a1) := by
  unfold State.fieldAcked
  extract_lets +onlyGivenNames u1
  clear_value u1
  exact Keeps.foldl h (fun x2 x3 h4 => State.pumpRx_keeps (State.modConn_keeps h4))

end Sys2Proof.Machine
end

