-- ==== Sys2Proof/Laws/KeepSpan.lean ====
section
/-!
SUPPORT. The operations of Span keep the queue and the canonical memories.
-/

namespace Sys2Proof.Machine

theorem State.runSpan_keeps {z s : State} {a1} {a2} {a3} {a4} (h : Keeps z s) (ha4 : ∀ y0 y1, Keeps z y0 → Keeps z (a4 y0 y1)) : Keeps z (State.runSpan s a1 a2 a3 a4) := by
  unfold State.runSpan
  exact State.runSlot_keeps h (fun x1 x2 h3 => ha4 _ _ h3)

theorem State.spanDone_keeps {z s : State} {a1} {a2} (h : Keeps z s) : Keeps z (State.spanDone s a1 a2) := by
  unfold State.spanDone
  split
  · exact Keeps.ite (State.toFence_keeps h) h
  · exact h

theorem State.addDirect_keeps {z s : State} {a1} {a2} {a3} {a4} (h : Keeps z s) : Keeps z (State.addDirect s a1 a2 a3 a4) := by
  unfold State.addDirect
  split
  · exact State.setJob_keeps h
  · exact h

theorem State.fetchReplica_keeps {z s : State} {a1} {a2} {a3} {a4} (h : Keeps z s) : Keeps z (State.fetchReplica s a1 a2 a3 a4).1 := by
  unfold State.fetchReplica
  extract_lets +onlyGivenNames u1
  clear_value u1
  split
  rename_i x2 s3 x4 x5
  have h6 : Keeps z s3 := by
    refine Keeps.pair ?_ x5
    split
    · exact h
    · exact State.replicaFrame_keeps h
  split
  · exact h6
  · extract_lets +onlyGivenNames u7
    refine Keeps.cut (s := u7) (State.putReplica_keeps h6) fun h8 => ?_
    clear_value u7
    dsimp -zeta only
    apply Keeps.foldl
    · exact h8
    · intro x9 x10 h11
      extract_lets +onlyGivenNames u12
      clear_value u12
      exact State.issue_keeps h11

theorem State.readPlain_keeps {z s : State} {a1} {a2} {a3} {a4} {a5} {a6} (h : Keeps z s) : Keeps z (State.readPlain s a1 a2 a3 a4 a5 a6) := by
  unfold State.readPlain
  apply Keeps.foldl
  · exact h
  · intro x1 x2 h3
    split
    extract_lets +onlyGivenNames u4
    clear_value u4
    extract_lets +onlyGivenNames u5
    have h9 : Keeps z u5 := by
      apply Keeps.foldl
      · exact h3
      · intro x6 x7 h8
        split
        split
        · exact State.addDirect_keeps (State.useLine_keeps h8)
        · exact h8
    clear_value u5
    apply Keeps.foldl
    · exact h9
    · intro x10 x11 h12
      split
      exact State.issue_keeps h12

theorem State.readReplica_keeps {z s : State} {a1} {a2} {a3} {a4} {a5} {a6} (h : Keeps z s) : Keeps z (State.readReplica s a1 a2 a3 a4 a5 a6) := by
  unfold State.readReplica
  extract_lets +onlyGivenNames u1
  clear_value u1
  split
  · exact State.addDirect_keeps (State.putReplica_keeps h)
  · split
    · rename_i x2 s3 x4
      have h5 : Keeps z s3 := Keeps.pair (State.fetchReplica_keeps h) x4
      exact h5
    · rename_i x6 s7 x8
      have h9 : Keeps z s7 := Keeps.pair (State.fetchReplica_keeps h) x8
      exact State.readPlain_keeps h9

theorem State.readPage_keeps {z s : State} {a1} {a2} {a3} {a4} {a5} {a6} {a7} (h : Keeps z s) : Keeps z (State.readPage s a1 a2 a3 a4 a5 a6 a7) := by
  unfold State.readPage
  extract_lets +onlyGivenNames u1
  clear_value u1
  extract_lets +onlyGivenNames u2
  clear_value u2
  exact State.readReplica_keeps h

theorem State.spanRead_keeps {z s : State} {a1} {a2} {a3} (h : Keeps z s) : Keeps z (State.spanRead s a1 a2 a3) := by
  unfold State.spanRead
  extract_lets +onlyGivenNames u1
  clear_value u1
  split
  extract_lets +onlyGivenNames u2
  clear_value u2
  apply Keeps.ite
  · exact State.spanDone_keeps h
  · apply Keeps.ite
    · exact State.endJob_keeps h
    · apply Keeps.ite
      · extract_lets +onlyGivenNames u3
        clear_value u3
        exact Keeps.ite (State.endJob_keeps h) (State.toFence_keeps (State.touch_keeps h))
      · extract_lets +onlyGivenNames u4
        refine Keeps.cut (s := u4) (State.setJob_keeps h) fun h5 => ?_
        clear_value u4
        extract_lets +onlyGivenNames u6
        refine Keeps.cut (s := u6) (Keeps.ite (Keeps.foldl h5 (fun x8 x9 h10 => State.readPage_keeps h10)) (State.readPlain_keeps h5)) fun h7 => ?_
        clear_value u6
        exact State.spanDone_keeps h7

theorem State.spanWrite_keeps {z s : State} {a1} {a2} {a3} (h : Keeps z s) : Keeps z (State.spanWrite s a1 a2 a3) := by
  unfold State.spanWrite
  extract_lets +onlyGivenNames u1
  clear_value u1
  extract_lets +onlyGivenNames u2
  clear_value u2
  apply Keeps.ite
  · exact State.spanDone_keeps h
  · extract_lets +onlyGivenNames u3
    clear_value u3
    apply Keeps.ite
    · exact State.endJob_keeps h
    · extract_lets +onlyGivenNames u4
      refine Keeps.cut (s := u4) (State.touch_keeps h) fun h5 => ?_
      clear_value u4
      extract_lets +onlyGivenNames u6
      clear_value u6
      apply Keeps.ite
      · extract_lets +onlyGivenNames u7
        clear_value u7
        apply Keeps.ite
        · exact State.endFarFault_keeps (State.setJob_keeps h5)
        · apply Keeps.ite
          · exact State.endJob_keeps h5
          · extract_lets +onlyGivenNames u8
            refine Keeps.cut (s := u8) (State.poke_keeps (State.setJob_keeps h5)) fun h9 => ?_
            clear_value u8
            split
            rename_i x10 s11 x12 x13
            have h14 : Keeps z s11 := Keeps.pair (State.invalTracked_keeps h9) x13
            exact State.spanDone_keeps (Keeps.foldl h14 (fun x15 x16 h17 => State.awaitTag_keeps h17))
      · extract_lets +onlyGivenNames u18
        extract_lets +onlyGivenNames u19
        refine Keeps.cut (s := u19) (State.setJob_keeps (State.dropLines_keeps h5)) fun h20 => ?_
        clear_value u19
        apply State.spanDone_keeps
        apply Keeps.foldl
        · exact h20
        · intro x21 x22 h23
          split
          exact State.issue_keeps h23

theorem State.spanAtomic_keeps {z s : State} {a1} {a2} {a3} (h : Keeps z s) : Keeps z (State.spanAtomic s a1 a2 a3) := by
  unfold State.spanAtomic
  extract_lets +onlyGivenNames u1
  clear_value u1
  extract_lets +onlyGivenNames u2
  clear_value u2
  extract_lets +onlyGivenNames u3
  clear_value u3
  apply Keeps.ite
  · exact h
  · apply Keeps.ite
    · exact State.endJob_keeps h
    · extract_lets +onlyGivenNames u4
      refine Keeps.cut (s := u4) (State.touch_keeps h) fun h5 => ?_
      clear_value u4
      extract_lets +onlyGivenNames u6
      clear_value u6
      extract_lets +onlyGivenNames u7
      clear_value u7
      apply Keeps.ite
      · extract_lets +onlyGivenNames u8
        clear_value u8
        apply Keeps.ite
        · exact State.endFarFault_keeps (State.setJob_keeps h5)
        · apply Keeps.ite
          · exact State.endJob_keeps h5
          · split
            rename_i x9 s10 x11 x12
            have h13 : Keeps z s10 := Keeps.pair (State.invalTracked_keeps (State.setJob_keeps h5)) x12
            apply Keeps.ite
            · exact Keeps.foldl h13 (fun x17 x18 h19 => State.awaitTag_keeps h19)
            · extract_lets +onlyGivenNames u20
              clear_value u20
              exact State.toFence_keeps (State.pokeNat_keeps (State.touch_keeps h13))
      · extract_lets +onlyGivenNames u21
        refine Keeps.cut (s := u21) (State.dropLines_keeps h5) fun h22 => ?_
        clear_value u21
        exact State.issue_keeps (State.setJob_keeps h22)

theorem State.copyLast_keeps {z s : State} {a1} {a2} {a3} (h : Keeps z s) : Keeps z (State.copyLast s a1 a2 a3) := by
  unfold State.copyLast
  extract_lets +onlyGivenNames u1
  clear_value u1
  extract_lets +onlyGivenNames u2
  clear_value u2
  split
  · exact h
  · extract_lets +onlyGivenNames u3
    refine Keeps.cut (s := u3) (State.issue_keeps h) fun h4 => ?_
    clear_value u3
    split
    · exact Keeps.ite (State.setJob_keeps h4) (State.toFence_keeps h4)
    · exact h4

theorem State.copyHere_keeps {z s : State} {a1} {a2} (h : Keeps z s) : Keeps z (State.copyHere s a1 a2) := by
  unfold State.copyHere
  split
  · exact Keeps.ite (State.toFence_keeps (Keeps.ite (State.arrive_keeps h) h)) h
  · exact h

theorem State.spanCopy_keeps {z s : State} {a1} {a2} {a3} (h : Keeps z s) : Keeps z (State.spanCopy s a1 a2 a3) := by
  unfold State.spanCopy
  extract_lets +onlyGivenNames u1
  clear_value u1
  extract_lets +onlyGivenNames u2
  clear_value u2
  apply Keeps.ite
  · exact h
  · extract_lets +onlyGivenNames u3
    clear_value u3
    apply Keeps.ite
    · exact State.endJob_keeps h
    · extract_lets +onlyGivenNames u4
      refine Keeps.cut (s := u4) (State.touch_keeps h) fun h5 => ?_
      clear_value u4
      extract_lets +onlyGivenNames u6
      clear_value u6
      apply Keeps.ite
      · extract_lets +onlyGivenNames u7
        clear_value u7
        apply Keeps.ite
        · exact State.endFarFault_keeps (State.setJob_keeps h5)
        · apply Keeps.ite
          · exact State.endJob_keeps h5
          · extract_lets +onlyGivenNames u8
            refine Keeps.cut (s := u8) (State.poke_keeps (State.setJob_keeps h5)) fun h9 => ?_
            clear_value u8
            split
            rename_i x10 s11 x12 x13
            have h14 : Keeps z s11 := Keeps.pair (State.invalTracked_keeps h9) x13
            exact State.copyHere_keeps (Keeps.foldl h14 (fun x15 x16 h17 => State.awaitTag_keeps h17))
      · extract_lets +onlyGivenNames u18
        extract_lets +onlyGivenNames u19
        refine Keeps.cut (s := u19) (State.setJob_keeps (State.dropLines_keeps h5)) fun h20 => ?_
        clear_value u19
        apply Keeps.ite
        · exact State.copyLast_keeps h20
        · apply Keeps.foldl
          · exact h20
          · intro x21 x22 h23
            split
            exact State.issue_keeps h23

theorem State.spanInval_keeps {z s : State} {a1} {a2} {a3} (h : Keeps z s) : Keeps z (State.spanInval s a1 a2 a3) := by
  unfold State.spanInval
  split
  rename_i x1 s2 x3 x4
  have h5 : Keeps z s2 := Keeps.pair (State.dropLines_keeps h) x4
  exact State.toFence_keeps h5

theorem State.arrivalWait_keeps {z s : State} {a1} {a2} {a3} (h : Keeps z s) : Keeps z (State.arrivalWait s a1 a2 a3) := by
  unfold State.arrivalWait
  split
  · exact Keeps.ite (State.toFence_keeps h) (State.setJob_keeps h)
  · exact State.setJob_keeps h

theorem State.arrivalCtl_keeps {z s : State} {a1} {a2} {a3} (h : Keeps z s) : Keeps z (State.arrivalCtl s a1 a2 a3) := by
  unfold State.arrivalCtl
  extract_lets +onlyGivenNames u1
  clear_value u1
  extract_lets +onlyGivenNames u2
  clear_value u2
  extract_lets +onlyGivenNames u3
  have h4 : ∀ y0 y1, Keeps z y0 → Keeps z (u3 y0 y1) := by
    exact fun x5 x7 h6 => Keeps.upd h6 rfl rfl id id rfl
  clear_value u3
  apply Keeps.ite
  · apply Keeps.ite
    · exact State.endJob_keeps h
    · split
      · exact State.toFence_keeps (h4 _ _ h)
      · exact State.endJob_keeps h
  · exact Keeps.ite (State.endJob_keeps h) (Keeps.ite (State.endJob_keeps h) (Keeps.ite (State.toFence_keeps (h4 _ _ h)) (State.toFence_keeps (h4 _ _ h))))

theorem State.readAnswer_keeps {z s : State} {a1} {a2} (h : Keeps z s) : Keeps z (State.readAnswer s a1 a2) := by
  unfold State.readAnswer
  split
  extract_lets +onlyGivenNames u1
  clear_value u1
  extract_lets +onlyGivenNames u2
  clear_value u2
  extract_lets +onlyGivenNames u3
  refine Keeps.cut (s := u3) (State.touch_keeps h) fun h4 => ?_
  clear_value u3
  extract_lets +onlyGivenNames u5
  clear_value u5
  extract_lets +onlyGivenNames u6
  clear_value u6
  extract_lets +onlyGivenNames u7
  refine Keeps.cut (s := u7) (Keeps.ite (Keeps.upd h4 rfl rfl id id rfl) h4) fun h8 => ?_
  clear_value u7
  exact State.answer_keeps h8

theorem State.homeStart_keeps {z s : State} {a1} {a2} (h : Keeps z s) : Keeps z (State.homeStart s a1 a2).1 := by
  unfold State.homeStart
  split
  split
  · split
    · exact State.addSharers_keeps h
    · exact h
  · split
    · exact State.invalTracked_keeps h
    · exact State.invalTracked_keeps (State.poke_keeps h)

theorem State.homeEnd_keeps {z s : State} {a1} {a2} (h : Keeps z s) : Keeps z (State.homeEnd s a1 a2) := by
  unfold State.homeEnd
  apply Keeps.ite
  · exact State.readAnswer_keeps h
  · apply Keeps.ite
    · extract_lets +onlyGivenNames u1
      clear_value u1
      exact State.spAck_keeps (State.pokeNat_keeps (State.touch_keeps h))
    · extract_lets +onlyGivenNames u2
      refine Keeps.cut (s := u2) (Keeps.ite (State.arrive_keeps h) h) fun h3 => ?_
      clear_value u2
      exact State.spAck_keeps h3

theorem State.homePump_keeps {z s : State} {a1} (h : Keeps z s) : Keeps z (State.homePump s a1) := by
  induction a1 generalizing s with
  | zero =>
    unfold State.homePump
    exact h
  | succ n ih =>
    unfold State.homePump
    split
    · exact h
    · split
      · exact h
      · apply Keeps.ite
        · extract_lets +onlyGivenNames u1
          clear_value u1
          extract_lets +onlyGivenNames u2
          refine Keeps.cut (s := u2) (Keeps.upd h rfl rfl id id rfl) fun h3 => ?_
          clear_value u2
          exact ih (State.homeEnd_keeps h3)
        · extract_lets +onlyGivenNames u4
          clear_value u4
          apply Keeps.ite
          · extract_lets +onlyGivenNames u5
            clear_value u5
            extract_lets +onlyGivenNames u6
            refine Keeps.cut (s := u6) (State.raiseUncorr_keeps (Keeps.upd h rfl rfl id id rfl)) fun h7 => ?_
            clear_value u6
            exact ih (Keeps.ite (State.answer_keeps h7) (State.spAck_keeps h7))
          · split
            rename_i x8 s9 x10 x11
            have h12 : Keeps z s9 := Keeps.pair (State.homeStart_keeps h) x11
            exact ih (Keeps.upd h12 rfl rfl id id rfl)

theorem State.homeRun_keeps {z s : State} (h : Keeps z s) : Keeps z (State.homeRun s) := by
  unfold State.homeRun
  exact State.homePump_keeps h

theorem State.homeAccept_keeps {z s : State} {a1} (h : Keeps z s) : Keeps z (State.homeAccept s a1) := by
  unfold State.homeAccept
  split
  · exact Keeps.ite (State.answer_keeps h) (State.spAck_keeps h)
  · exact State.homeRun_keeps (Keeps.upd h rfl rfl id id rfl)

theorem State.endHand_keeps {z s : State} {a1} {a2} {a3} {a4} (h : Keeps z s) : Keeps z (State.endHand s a1 a2 a3 a4) := by
  unfold State.endHand
  extract_lets +onlyGivenNames u1
  clear_value u1
  extract_lets +onlyGivenNames u2
  refine Keeps.cut (s := u2) (Keeps.upd h rfl rfl id id rfl) fun h3 => ?_
  clear_value u2
  extract_lets +onlyGivenNames u4
  refine Keeps.cut (s := u4) (State.bump_keeps h3) fun h5 => ?_
  clear_value u4
  extract_lets +onlyGivenNames u6
  refine Keeps.cut (s := u6) (Keeps.ite (State.count_keeps h3) (Keeps.ite (State.setBit_keeps h5) (Keeps.ite (State.setBit_keeps h5) h5))) fun h7 => ?_
  clear_value u6
  exact State.answer_keeps h7

theorem State.settleEng_keeps {z s : State} (h : Keeps z s) : Keeps z (State.settleEng s) := by
  unfold State.settleEng
  exact Keeps.ite (Keeps.upd h rfl rfl id id rfl) h

theorem State.wainDone_keeps {z s : State} {a1} {a2} (h : Keeps z s) : Keeps z (State.wainDone s a1 a2) := by
  unfold State.wainDone
  split
  · exact h
  · exact Keeps.ite (State.toFence_keeps h) h

theorem State.setPull_keeps {z s : State} {a1} {a2} (h : Keeps z s) : Keeps z (State.setPull s a1 a2) := by
  unfold State.setPull
  exact Keeps.upd h rfl rfl id id rfl

theorem State.closePull_keeps {z s : State} {a1} (h : Keeps z s) : Keeps z (State.closePull s a1) := by
  unfold State.closePull
  exact State.settleEng_keeps (Keeps.upd h rfl rfl id id rfl)

theorem State.pullGot_keeps {z s : State} {a1} (h : Keeps z s) : Keeps z (State.pullGot s a1) := by
  unfold State.pullGot
  split
  · exact h
  · extract_lets +onlyGivenNames u1
    clear_value u1
    exact Keeps.ite (State.setPull_keeps h) (State.wainDone_keeps (State.closePull_keeps h))

theorem State.closeRecv_keeps {z s : State} {a1} (h : Keeps z s) : Keeps z (State.closeRecv s a1) := by
  unfold State.closeRecv
  exact Keeps.ite h (State.settleEng_keeps (Keeps.upd h rfl rfl id id rfl))

theorem State.ackBlock_keeps {z s : State} {a1} (h : Keeps z s) : Keeps z (State.ackBlock s a1) := by
  unfold State.ackBlock
  exact State.closeRecv_keeps (State.pullGot_keeps (State.answer_keeps h))

theorem State.wainLess_keeps {z s : State} {a1} (h : Keeps z s) : Keeps z (State.wainLess s a1) := by
  unfold State.wainLess
  exact Keeps.upd h rfl rfl id id rfl

theorem State.wainAcked_keeps {z s : State} {a1} (h : Keeps z s) : Keeps z (State.wainAcked s a1) := by
  unfold State.wainAcked
  extract_lets +onlyGivenNames u1
  refine Keeps.cut (s := u1) (Keeps.foldl (State.wainLess_keeps h) (fun x3 x4 h5 => State.ackBlock_keeps h5)) fun h2 => ?_
  clear_value u1
  exact Keeps.foldl h2 (fun x6 x7 h8 => State.endHand_keeps h8)

theorem State.homeAcked_keeps {z s : State} {a1} (h : Keeps z s) : Keeps z (State.homeAcked s a1) := by
  unfold State.homeAcked
  extract_lets +onlyGivenNames u1
  refine Keeps.cut (s := u1) (State.wainAcked_keeps h) fun h2 => ?_
  clear_value u1
  extract_lets +onlyGivenNames u3
  extract_lets +onlyGivenNames u4
  clear_value u4
  extract_lets +onlyGivenNames u5
  refine Keeps.cut (s := u5) (Keeps.upd h2 rfl rfl id id rfl) fun h6 => ?_
  clear_value u5
  exact State.fieldAcked_keeps (State.homeRun_keeps h6)

theorem State.staleReplicas_keeps {z s : State} {a1} {a2} {a3} {a4} (h : Keeps z s) : Keeps z (State.staleReplicas s a1 a2 a3 a4) := by
  unfold State.staleReplicas
  exact Keeps.upd h rfl rfl id id rfl

theorem State.spInvalIn_keeps {z s : State} {a1} (h : Keeps z s) : Keeps z (State.spInvalIn s a1) := by
  unfold State.spInvalIn
  apply Keeps.ite
  · exact State.spAck_keeps h
  · split
    extract_lets +onlyGivenNames u1
    extract_lets +onlyGivenNames u2
    refine Keeps.cut (s := u2) (Keeps.ite (State.dropLines_keeps h) (State.staleReplicas_keeps (State.dropLines_keeps h))) fun h3 => ?_
    clear_value u2
    exact State.spAck_keeps (State.bump_keeps h3)

theorem State.spRepubIn_keeps {z s : State} {a1} (h : Keeps z s) : Keeps z (State.spRepubIn s a1) := by
  unfold State.spRepubIn
  apply Keeps.ite
  · exact State.spAck_keeps h
  · extract_lets +onlyGivenNames u1
    clear_value u1
    exact State.spAck_keeps (State.staleReplicas_keeps h)

theorem State.memDone_keeps {z s : State} {a1} {a2} {a3} (h : Keeps z s) : Keeps z (State.memDone s a1 a2 a3) := by
  unfold State.memDone
  exact Keeps.ite (State.orphanCmd_keeps (State.setJob_keeps h)) (State.toFence_keeps h)

theorem State.applyAttr_keeps {z s : State} {a1} (h : Keeps z s) : Keeps z (State.applyAttr s a1) := by
  unfold State.applyAttr
  exact Keeps.upd h rfl rfl id id rfl

theorem State.republish_keeps {z s : State} {a1} {a2} {a3} {a4} (h : Keeps z s) : Keeps z (State.republish s a1 a2 a3 a4).1 := by
  unfold State.republish
  apply Keeps.foldlPair
  · exact h
  · intro x1 x2 x3 h4 x5
    subst x5
    extract_lets +onlyGivenNames u6
    extract_lets +onlyGivenNames u7
    clear_value u7
    extract_lets +onlyGivenNames u8
    clear_value u8
    extract_lets +onlyGivenNames u9
    extract_lets +onlyGivenNames u10
    refine Keeps.cut (s := u10) (Keeps.upd h4 rfl rfl id id rfl) fun h11 => ?_
    clear_value u10
    extract_lets +onlyGivenNames u12
    clear_value u12
    extract_lets +onlyGivenNames u13
    clear_value u13
    extract_lets +onlyGivenNames u14
    clear_value u14
    extract_lets +onlyGivenNames u15
    refine Keeps.cut (s := u15) (Keeps.upd h11 rfl rfl id id rfl) fun h16 => ?_
    clear_value u15
    extract_lets +onlyGivenNames u17
    have h29 : Keeps z u17.1 := by
      apply Keeps.foldlPair
      · exact h16
      · intro x18 x19 x20 h21 x22
        subst x22
        extract_lets +onlyGivenNames u23
        clear_value u23
        split
        rename_i x24 s25 x26 x27
        have h28 : Keeps z s25 := Keeps.pair (State.tell_keeps h21) x27
        exact h28
    clear_value u17
    split
    · split
      rename_i x30 s31 x32 x33
      have h34 : Keeps z s31 := Keeps.pair (State.invalRange_keeps h29) x33
      exact h34
    · exact h29

theorem State.memSettle_keeps {z s : State} {a1} {a2} (h : Keeps z s) : Keeps z (State.memSettle s a1 a2) := by
  unfold State.memSettle
  split
  · exact Keeps.ite (Keeps.ite (State.memDone_keeps (State.applyAttr_keeps h)) (State.memDone_keeps h)) h
  · exact h

theorem State.memSetattr_keeps {z s : State} {a1} {a2} {a3} (h : Keeps z s) : Keeps z (State.memSetattr s a1 a2 a3) := by -- by hand
  unfold State.memSetattr
  apply Keeps.ite
  · exact State.memSettle_keeps h
  · extract_lets +onlyGivenNames u1
    clear_value u1
    extract_lets +onlyGivenNames u2
    clear_value u2
    extract_lets +onlyGivenNames u3
    refine Keeps.cut (s := u3) (State.idleEngine_keeps (Keeps.foldl h (fun x5 x6 h7 => State.abortMigr_keeps h7))) fun h4 => ?_
    clear_value u3
    extract_lets +onlyGivenNames u8
    refine Keeps.cut (s := u8) (State.setJob_keeps h4) fun h9 => ?_
    clear_value u8
    split
    rename_i x10 s11 x12 x13
    have h14 : Keeps z s11 := Keeps.pair (State.invalTracked_keeps h9) x13
    split
    rename_i x15 s16 x17 x18
    have h19 : Keeps z s16 := by
      refine Keeps.pair ?_ x18
      split
      · exact h14
      · exact State.invalRange_keeps h14
    exact State.memSettle_keeps (Keeps.foldl h19 (fun x20 x21 h22 => State.awaitTag_keeps h22))

theorem State.memRepublish_keeps {z s : State} {a1} {a2} {a3} (h : Keeps z s) : Keeps z (State.memRepublish s a1 a2 a3) := by
  unfold State.memRepublish
  apply Keeps.ite
  · exact State.memSettle_keeps h
  · apply Keeps.ite
    · exact State.toFence_keeps h
    · apply Keeps.ite
      · exact State.setJob_keeps h
      · extract_lets +onlyGivenNames u1
        clear_value u1
        extract_lets +onlyGivenNames u2
        clear_value u2
        split
        rename_i x3 s4 x5 x6
        have h7 : Keeps z s4 := Keeps.pair (State.republish_keeps (State.setJob_keeps h)) x6
        exact State.memSettle_keeps (Keeps.foldl h7 (fun x8 x9 h10 => State.awaitTag_keeps h10))

theorem State.lateCopyFault_keeps {z s : State} {a1} {a2} (h : Keeps z s) : Keeps z (State.lateCopyFault s a1 a2) := by
  unfold State.lateCopyFault
  split
  · exact Keeps.ite (State.faultLodge_keeps h) h
  · exact h

theorem State.spanNext_keeps {z s : State} {a1} (h : Keeps z s) : Keeps z (State.spanNext s a1) := by
  unfold State.spanNext
  split
  split
  · exact h
  · exact Keeps.ite (Keeps.ite (Keeps.ite (State.memSettle_keeps h) h) (Keeps.ite h (Keeps.ite (State.copyHere_keeps h) (Keeps.ite (Keeps.ite (State.copyLast_keeps h) (State.spanDone_keeps h)) (Keeps.ite (State.spanAtomic_keeps h) (State.spanDone_keeps h)))))) h

theorem State.spAckIn_keeps {z s : State} {a1} (h : Keeps z s) : Keeps z (State.spAckIn s a1) := by
  unfold State.spAckIn
  split
  · exact State.bump_keeps h
  · extract_lets +onlyGivenNames u1
    clear_value u1
    extract_lets +onlyGivenNames u2
    refine Keeps.cut (s := u2) (State.closeTag_keeps h) fun h3 => ?_
    clear_value u2
    apply Keeps.ite
    · apply Keeps.ite
      · exact Keeps.ite (State.endFarFault_keeps h3) (Keeps.ite (State.lateCopyFault_keeps h3) h3)
      · extract_lets +onlyGivenNames u4
        refine Keeps.cut (s := u4) (Keeps.ite (State.addDirect_keeps h3) h3) fun h5 => ?_
        clear_value u4
        exact State.spanNext_keeps h5
    · exact State.homeAcked_keeps (State.spanNext_keeps h3)

theorem State.installLines_keeps {z s : State} {a1} {a2} (h : Keeps z s) : Keeps z (State.installLines s a1 a2) := by
  unfold State.installLines
  exact Keeps.ite h (Keeps.foldl h (fun x1 x2 h3 => State.install_keeps h3))

theorem State.copyDiffers_keeps {z s : State} {a1} (h : Keeps z s) : Keeps z (State.copyDiffers s a1) := by
  unfold State.copyDiffers
  exact State.error_keeps (State.bump_keeps (Keeps.upd h rfl rfl id id rfl))

theorem State.dropDiffering_keeps {z s : State} {a1} {a2} (h : Keeps z s) : Keeps z (State.dropDiffering s a1 a2) := by
  unfold State.dropDiffering
  exact Keeps.foldl h (fun x1 x2 h3 => State.copyDiffers_keeps h3)

theorem State.replicaPiece_keeps {z s : State} {a1} {a2} (h : Keeps z s) : Keeps z (State.replicaPiece s a1 a2) := by
  unfold State.replicaPiece
  extract_lets +onlyGivenNames u1
  clear_value u1
  extract_lets +onlyGivenNames u2
  have h3 : Keeps z u2 := by
    unfold u2
    split
    · exact h
    · exact Keeps.ite (State.dropReplica_keeps h) (Keeps.ite (State.putReplica_keeps h) (State.putReplica_keeps h))
  clear_value u2
  split
  · exact h3
  · extract_lets +onlyGivenNames u4
    clear_value u4
    extract_lets +onlyGivenNames u5
    clear_value u5
    extract_lets +onlyGivenNames u6
    refine Keeps.cut (s := u6) (Keeps.ite (State.installLines_keeps h3) h3) fun h7 => ?_
    clear_value u6
    exact Keeps.ite (State.addDirect_keeps h7) h7

theorem State.scrubPiece_keeps {z s : State} {a1} {a2} (h : Keeps z s) : Keeps z (State.scrubPiece s a1 a2) := by
  unfold State.scrubPiece
  split
  · exact h
  · exact Keeps.ite h (Keeps.ite (State.putReplica_keeps h) (Keeps.ite (State.error_keeps (State.bump_keeps (State.putReplica_keeps h))) h))

theorem State.spReadRspIn_keeps {z s : State} {a1} (h : Keeps z s) : Keeps z (State.spReadRspIn s a1) := by
  unfold State.spReadRspIn
  split
  · exact State.bump_keeps h
  · apply Keeps.ite
    · exact State.farAnswer_keeps h
    · apply Keeps.ite
      · exact State.scrubPiece_keeps (State.closeTag_keeps h)
      · extract_lets +onlyGivenNames u1
        clear_value u1
        apply Keeps.ite
        · extract_lets +onlyGivenNames u2
          refine Keeps.cut (s := u2) (State.closeTag_keeps h) fun h3 => ?_
          clear_value u2
          exact Keeps.ite (State.endFar_keeps h3) h3
        · extract_lets +onlyGivenNames u4
          clear_value u4
          extract_lets +onlyGivenNames u5
          refine Keeps.cut (s := u5) (Keeps.ite (Keeps.ite (State.replicaPiece_keeps h) h) (Keeps.ite (State.replicaPiece_keeps h) (State.addDirect_keeps (State.installLines_keeps (State.dropDiffering_keeps h))))) fun h6 => ?_
          clear_value u5
          exact State.spanNext_keeps (State.closeTag_keeps h6)

theorem State.spanTimeout_keeps {z s : State} {a1} (h : Keeps z s) : Keeps z (State.spanTimeout s a1) := by
  unfold State.spanTimeout
  split
  · exact h
  · apply Keeps.ite
    · exact h
    · apply Keeps.ite
      · exact State.closeTag_keeps h
      · extract_lets +onlyGivenNames u1
        clear_value u1
        extract_lets +onlyGivenNames u2
        refine Keeps.cut (s := u2) (State.setBit_keeps (State.bump_keeps h)) fun h3 => ?_
        clear_value u2
        split
        · extract_lets +onlyGivenNames u4
          clear_value u4
          extract_lets +onlyGivenNames u5
          clear_value u5
          extract_lets +onlyGivenNames u6
          have h12 : Keeps z u6 := by
            apply Keeps.foldl
            · exact h3
            · intro x7 x8 h9
              extract_lets +onlyGivenNames u10
              clear_value u10
              extract_lets +onlyGivenNames u11
              clear_value u11
              exact Keeps.ite (State.poisonRange_keeps h9) h9
          clear_value u6
          exact State.orphanCmd_keeps (State.closeTag_keeps h12)
        · extract_lets +onlyGivenNames u13
          refine Keeps.cut (s := u13) (State.closeTag_keeps h3) fun h14 => ?_
          clear_value u13
          split
          · exact State.orphanLodge_keeps h14
          · exact h14

theorem State.memberSilent_keeps {z s : State} {a1} {a2} (h : Keeps z s) : Keeps z (State.memberSilent s a1 a2) := by
  unfold State.memberSilent
  split
  · exact h
  · apply Keeps.ite
    · exact h
    · extract_lets +onlyGivenNames u1
      have h2 : Keeps z u1 := by
        subst u1
        split
        · exact Keeps.ite (State.setJob_keeps h) h
        · exact h
      clear_value u1
      exact State.homeAcked_keeps (State.spanNext_keeps (State.closeTag_keeps h2))

theorem State.recallTimeout_keeps {z s : State} {a1} (h : Keeps z s) : Keeps z (State.recallTimeout s a1) := by
  unfold State.recallTimeout
  split
  · exact h
  · extract_lets +onlyGivenNames u1
    clear_value u1
    extract_lets +onlyGivenNames u2
    refine Keeps.cut (s := u2) (State.alarm_keeps (State.setBit_keeps h)) fun h3 => ?_
    clear_value u2
    exact Keeps.foldl h3 (fun x4 x5 h6 => State.homeAcked_keeps (State.closeTag_keeps h6))

theorem State.replicaScrub_keeps {z s : State} (h : Keeps z s) : Keeps z (State.replicaScrub s) := by
  unfold State.replicaScrub
  extract_lets +onlyGivenNames u1
  clear_value u1
  apply Keeps.ite
  · exact h
  · extract_lets +onlyGivenNames u2
    clear_value u2
    extract_lets +onlyGivenNames u3
    clear_value u3
    split
    · exact h
    · extract_lets +onlyGivenNames u4
      clear_value u4
      extract_lets +onlyGivenNames u5
      refine Keeps.cut (s := u5) (Keeps.upd h rfl rfl id id rfl) fun h6 => ?_
      clear_value u5
      apply Keeps.foldl
      · exact h6
      · intro x7 x8 h9
        extract_lets +onlyGivenNames u10
        clear_value u10
        exact State.ask_keeps h9

theorem State.frameZeroed_keeps {z s : State} {a1} {a2} (h : Keeps z s) : Keeps z (State.frameZeroed s a1 a2) := by
  unfold State.frameZeroed
  exact Keeps.ite (State.idleEngine_keeps (Keeps.upd h rfl rfl id id rfl)) h

theorem execSpanRead_keeps {z s t : State} {a0} {a1} (h : Keeps z s) (e : execSpanRead a0 a1 s = .next t) : Keeps z t := by
  unfold execSpanRead at e
  injection e with e
  subst e
  exact State.choices_keeps (State.runSpan_keeps h (fun x1 x2 h3 => State.spanRead_keeps h3))

theorem execSpanWrite_keeps {z s t : State} {a0} {a1} (h : Keeps z s) (e : execSpanWrite a0 a1 s = .next t) : Keeps z t := by
  unfold execSpanWrite at e
  injection e with e
  subst e
  exact State.choices_keeps (State.runSpan_keeps h (fun x1 x2 h3 => State.spanWrite_keeps h3))

theorem execSpanAtomic_keeps {z s t : State} {a0} {a1} (h : Keeps z s) (e : execSpanAtomic a0 a1 s = .next t) : Keeps z t := by
  unfold execSpanAtomic at e
  injection e with e
  subst e
  exact State.choices_keeps (State.runSpan_keeps h (fun x1 x2 h3 => State.spanAtomic_keeps h3))

theorem execSpanCopy_keeps {z s t : State} {a0} {a1} (h : Keeps z s) (e : execSpanCopy a0 a1 s = .next t) : Keeps z t := by
  unfold execSpanCopy at e
  injection e with e
  subst e
  exact State.choices_keeps (State.runSpan_keeps h (fun x1 x2 h3 => State.spanCopy_keeps h3))

theorem execSpanInval_keeps {z s t : State} {a0} {a1} (h : Keeps z s) (e : execSpanInval a0 a1 s = .next t) : Keeps z t := by
  unfold execSpanInval at e
  injection e with e
  subst e
  exact State.choices_keeps (State.runSpan_keeps h (fun x1 x2 h3 => State.spanInval_keeps h3))

theorem execArrivalWait_keeps {z s t : State} {a0} {a1} (h : Keeps z s) (e : execArrivalWait a0 a1 s = .next t) : Keeps z t := by
  unfold execArrivalWait at e
  injection e with e
  subst e
  exact State.choices_keeps (State.runSpan_keeps h (fun x1 x2 h3 => State.arrivalWait_keeps h3))

theorem execArrivalCtl_keeps {z s t : State} {a0} {a1} (h : Keeps z s) (e : execArrivalCtl a0 a1 s = .next t) : Keeps z t := by
  unfold execArrivalCtl at e
  injection e with e
  subst e
  exact State.choices_keeps (State.runSpan_keeps h (fun x1 x2 h3 => State.arrivalCtl_keeps h3))

theorem execMemSetattr_keeps {z s t : State} {a0} {a1} (h : Keeps z s) (e : execMemSetattr a0 a1 s = .next t) : Keeps z t := by
  unfold execMemSetattr at e
  injection e with e
  subst e
  exact State.choices_keeps (State.runMem_keeps h (fun x1 x2 h3 => State.memSetattr_keeps h3))

theorem execMemRepublish_keeps {z s t : State} {a0} {a1} (h : Keeps z s) (e : execMemRepublish a0 a1 s = .next t) : Keeps z t := by
  unfold execMemRepublish at e
  injection e with e
  subst e
  exact State.choices_keeps (State.runMem_keeps h (fun x1 x2 h3 => State.memRepublish_keeps h3))

theorem execSpRead_keeps {z s t : State} {a0} (h : Keeps z s) (e : execSpRead a0 s = .next t) : Keeps z t := by
  unfold execSpRead at e
  injection e with e
  subst e
  exact State.choices_keeps (State.homeAccept_keeps h)

theorem execSpWrite_keeps {z s t : State} {a0} (h : Keeps z s) (e : execSpWrite a0 s = .next t) : Keeps z t := by
  unfold execSpWrite at e
  injection e with e
  subst e
  exact State.choices_keeps (State.homeAccept_keeps h)

theorem execSpAtomic_keeps {z s t : State} {a0} (h : Keeps z s) (e : execSpAtomic a0 s = .next t) : Keeps z t := by
  unfold execSpAtomic at e
  injection e with e
  subst e
  exact State.choices_keeps (State.homeAccept_keeps h)

theorem execSpCopy_keeps {z s t : State} {a0} (h : Keeps z s) (e : execSpCopy a0 s = .next t) : Keeps z t := by
  unfold execSpCopy at e
  injection e with e
  subst e
  exact State.choices_keeps (State.homeAccept_keeps h)

theorem execSpInval_keeps {z s t : State} {a0} (h : Keeps z s) (e : execSpInval a0 s = .next t) : Keeps z t := by
  unfold execSpInval at e
  injection e with e
  subst e
  exact State.choices_keeps (State.spInvalIn_keeps h)

theorem execSpRepublish_keeps {z s t : State} {a0} (h : Keeps z s) (e : execSpRepublish a0 s = .next t) : Keeps z t := by
  unfold execSpRepublish at e
  injection e with e
  subst e
  exact State.choices_keeps (State.spRepubIn_keeps h)

theorem execInvalAckTimeout_keeps {z s t : State} {a0} (h : Keeps z s) (e : execInvalAckTimeout a0 s = .next t) : Keeps z t := by
  unfold execInvalAckTimeout at e
  injection e with e
  subst e
  exact State.choices_keeps (State.memberSilent_keeps h)

theorem execRepublishTimeout_keeps {z s t : State} {a0} (h : Keeps z s) (e : execRepublishTimeout a0 s = .next t) : Keeps z t := by
  unfold execRepublishTimeout at e
  injection e with e
  subst e
  exact State.choices_keeps (State.memberSilent_keeps h)

theorem execDirRecallTimeout_keeps {z s t : State} {a0} {a1} (h : Keeps z s) (e : execDirRecallTimeout a0 a1 s = .next t) : Keeps z t := by
  unfold execDirRecallTimeout at e
  injection e with e
  subst e
  exact State.choices_keeps (State.recallTimeout_keeps h)

theorem execReplicaScrub_keeps {z s t : State} (h : Keeps z s) (e : execReplicaScrub s = .next t) : Keeps z t := by
  unfold execReplicaScrub at e
  injection e with e
  subst e
  exact State.replicaScrub_keeps h

theorem execFrameZeroed_keeps {z s t : State} {a0} {a1} (h : Keeps z s) (e : execFrameZeroed a0 a1 s = .next t) : Keeps z t := by
  unfold execFrameZeroed at e
  injection e with e
  subst e
  exact State.choices_keeps (State.frameZeroed_keeps h)

end Sys2Proof.Machine
end

