-- ==== Sys2Proof/Laws/KeepTally.lean ====
section
/-!
SUPPORT. The operations of Tally keep the queue and the canonical memories.
-/

namespace Sys2Proof.Machine

theorem State.reckon_keeps {z s : State} {a1} {a2} (h : Keeps z s) : Keeps z (State.reckon s a1 a2).1 := by
  unfold State.reckon
  extract_lets +onlyGivenNames u1
  clear_value u1
  extract_lets +onlyGivenNames u2
  clear_value u2
  extract_lets +onlyGivenNames u3
  refine Keeps.cut (s := u3) (State.count_keeps h) fun h4 => ?_
  clear_value u3
  dsimp -zeta only
  exact Keeps.upd h4 rfl rfl id id rfl

theorem State.reckonSlot_keeps {z s : State} {a1} {a2} (h : Keeps z s) : Keeps z (State.reckonSlot s a1 a2) := by
  unfold State.reckonSlot
  exact Keeps.foldl h (fun x1 x2 h3 => State.reckon_keeps h3)

theorem State.withRoom_keeps {z s : State} {a1} {a2} {a3} (h : Keeps z s) (ha2 : ∀ y0, Keeps z y0 → Keeps z (a2 y0)) (ha3 : ∀ y0, Keeps z y0 → Keeps z (a3 y0)) : Keeps z (State.withRoom s a1 a2 a3) := by
  unfold State.withRoom
  exact Keeps.ite (ha3 _ h) (Keeps.ite h (State.bump_keeps (ha2 _ h)))

theorem State.tallyRun_keeps {z s : State} {a1} (h : Keeps z s) : Keeps z (State.tallyRun s a1).1 := by
  unfold State.tallyRun
  split
  · split
    · exact Keeps.upd h rfl rfl id id rfl
    · exact h
  · split
    · exact Keeps.upd h rfl rfl id id rfl
    · split
      · extract_lets +onlyGivenNames u1
        clear_value u1
        split
        · exact Keeps.upd h rfl rfl id id rfl
        · extract_lets +onlyGivenNames u2
          clear_value u2
          exact Keeps.upd h rfl rfl id id rfl
      · split
        · split
          rename_i x3 s4 x5 x6
          have h7 : Keeps z s4 := Keeps.pair (State.reckon_keeps h) x6
          exact h7
        · extract_lets +onlyGivenNames u8
          clear_value u8
          split
          · exact h
          · extract_lets +onlyGivenNames u9
            clear_value u9
            exact State.pokeHome_keeps h

theorem State.tally_keeps {z s : State} {a1} {a2} (h : Keeps z s) : Keeps z (State.tally s a1 a2) := by
  unfold State.tally
  split
  · exact h
  · apply State.withRoom_keeps
    · exact h
    · exact fun x1 h2 => State.modCore_keeps h2
    · intro x3 h4
      extract_lets +onlyGivenNames u5
      clear_value u5
      extract_lets +onlyGivenNames u6
      refine Keeps.cut (s := u6) (State.modCore_keeps h4) fun h7 => ?_
      clear_value u6
      extract_lets +onlyGivenNames u8
      refine Keeps.cut (s := u8) (State.recordWait_keeps h7) fun h9 => ?_
      clear_value u8
      apply Keeps.ite
      · extract_lets +onlyGivenNames u10
        refine Keeps.cut (s := u10) (Keeps.ite (State.tallyBlocked_keeps h9) h9) fun h11 => ?_
        clear_value u10
        extract_lets +onlyGivenNames u12
        refine Keeps.cut (s := u12) (Keeps.ite (State.holdSlot_keeps h11) h11) fun h13 => ?_
        clear_value u12
        exact State.finish_keeps h13
      · split
        rename_i x14 s15 x16 x17 x18
        have h19 : Keeps z s15 := Keeps.pair (State.tallyRun_keeps h9) x18
        extract_lets +onlyGivenNames u20
        refine Keeps.cut (s := u20) (State.finish_keeps h19) fun h21 => ?_
        clear_value u20
        exact Keeps.ite (State.faultLodge_keeps h21) h21

theorem State.spinTimeout_keeps {z s : State} {a1} {a2} (h : Keeps z s) : Keeps z (State.spinTimeout s a1 a2) := by
  unfold State.spinTimeout
  split
  · exact h
  · extract_lets +onlyGivenNames u1
    clear_value u1
    apply Keeps.ite
    · extract_lets +onlyGivenNames u2
      refine Keeps.cut (s := u2) (State.setBit_keeps (State.bump_keeps h)) fun h3 => ?_
      clear_value u2
      exact State.endJob_keeps h3
    · exact h

theorem State.tallyDumpStart_keeps {z s : State} {a1} {a2} (h : Keeps z s) : Keeps z (State.tallyDumpStart s a1 a2) := by
  unfold State.tallyDumpStart
  apply Keeps.ite
  · exact State.setBit_keeps (State.discard_keeps h)
  · extract_lets +onlyGivenNames u1
    clear_value u1
    extract_lets +onlyGivenNames u2
    refine Keeps.cut (s := u2) (State.hostWrite_keeps h) fun h3 => ?_
    clear_value u2
    extract_lets +onlyGivenNames u4
    refine Keeps.cut (s := u4) (State.wr_keeps h3) fun h5 => ?_
    clear_value u4
    exact Keeps.upd h5 rfl rfl id id rfl

theorem State.tallyDumpEnd_keeps {z s : State} (h : Keeps z s) : Keeps z (State.tallyDumpEnd s) := by
  unfold State.tallyDumpEnd
  split
  · exact h
  · extract_lets +onlyGivenNames u1
    refine Keeps.cut (s := u1) (State.wr_keeps (State.wr_keeps h)) fun h2 => ?_
    clear_value u1
    exact Keeps.upd h2 rfl rfl id id rfl

theorem execTallyAlloc_keeps {z s t : State} {a0} (h : Keeps z s) (e : execTallyAlloc a0 s = .next t) : Keeps z t := by
  unfold execTallyAlloc at e
  injection e with e
  subst e
  exact State.choices_keeps (State.tally_keeps h)

theorem execTallyFree_keeps {z s t : State} {a0} (h : Keeps z s) (e : execTallyFree a0 s = .next t) : Keeps z t := by
  unfold execTallyFree at e
  injection e with e
  subst e
  exact State.choices_keeps (State.tally_keeps h)

theorem execTallyGroup_keeps {z s t : State} {a0} (h : Keeps z s) (e : execTallyGroup a0 s = .next t) : Keeps z t := by
  unfold execTallyGroup at e
  injection e with e
  subst e
  exact State.choices_keeps (State.tally_keeps h)

theorem execTallyReckon_keeps {z s t : State} {a0} (h : Keeps z s) (e : execTallyReckon a0 s = .next t) : Keeps z t := by
  unfold execTallyReckon at e
  injection e with e
  subst e
  exact State.choices_keeps (State.tally_keeps h)

theorem execTallyRead_keeps {z s t : State} {a0} (h : Keeps z s) (e : execTallyRead a0 s = .next t) : Keeps z t := by
  unfold execTallyRead at e
  injection e with e
  subst e
  exact State.choices_keeps (State.tally_keeps h)

theorem execWaitRelease_keeps {z s t : State} {a0} {a1} (h : Keeps z s) (e : execWaitRelease a0 a1 s = .next t) : Keeps z t := by
  unfold execWaitRelease at e
  injection e with e
  subst e
  exact State.toRun_keeps h

theorem execSpinTimeout_keeps {z s t : State} {a0} {a1} (h : Keeps z s) (e : execSpinTimeout a0 a1 s = .next t) : Keeps z t := by
  unfold execSpinTimeout at e
  injection e with e
  subst e
  exact State.choices_keeps (State.spinTimeout_keeps h)

theorem execTallyDump_keeps {z s t : State} {a0} {a1} (h : Keeps z s) (e : execTallyDump a0 a1 s = .next t) : Keeps z t := by
  unfold execTallyDump at e
  injection e with e
  subst e
  exact State.tallyDumpStart_keeps h

theorem execTallyDumpDone_keeps {z s t : State} (h : Keeps z s) (e : execTallyDumpDone s = .next t) : Keeps z t := by
  unfold execTallyDumpDone at e
  injection e with e
  subst e
  exact State.tallyDumpEnd_keeps h

end Sys2Proof.Machine
end

