-- ==== Sys2Proof/Laws/KeepLedgerOps.lean ====
section
/-!
SUPPORT. The operations of LedgerOps keep the queue and the canonical memories.
-/

namespace Sys2Proof.Machine

theorem State.setEntry_keeps {z s : State} {a1} {a2} (h : Keeps z s) : Keeps z (State.setEntry s a1 a2) := by
  unfold State.setEntry
  exact Keeps.upd h rfl rfl id id rfl

theorem State.modEntry_keeps {z s : State} {a1} {a2} (h : Keeps z s) : Keeps z (State.modEntry s a1 a2) := by
  unfold State.modEntry
  exact Keeps.upd h rfl rfl id id rfl

theorem State.freeEntry_keeps {z s : State} {a1} {a2} (h : Keeps z s) : Keeps z (State.freeEntry s a1 a2) := by
  unfold State.freeEntry
  extract_lets +onlyGivenNames u1
  clear_value u1
  extract_lets +onlyGivenNames u2
  clear_value u2
  exact Keeps.upd h rfl rfl id id rfl

theorem State.takeSlot_keeps {z s : State} {a1} (h : Keeps z s) : Keeps z (State.takeSlot s a1) := by
  unfold State.takeSlot
  exact Keeps.upd h rfl rfl id id rfl

theorem State.toSt_keeps {z s : State} {a1} {a2} (h : Keeps z s) : Keeps z (State.toSt s a1 a2) := by
  unfold State.toSt
  split
  · exact h
  · extract_lets +onlyGivenNames u1
    refine Keeps.cut (s := u1) (State.setEntry_keeps h) fun h2 => ?_
    clear_value u1
    exact Keeps.ite (State.recordWait_keeps h2) h2

theorem State.initPages_keeps {z s : State} {a1} {a2} {a3} {a4} {a5} {a6} {a7} {a8} {a9} {a10} (h : Keeps z s) : Keeps z (State.initPages s a1 a2 a3 a4 a5 a6 a7 a8 a9 a10) := by
  induction a10 generalizing s a1 a2 a3 a4 a5 a6 a7 a8 a9 with
  | nil =>
    unfold State.initPages
    exact h
  | cons b r ih =>
    unfold State.initPages
    extract_lets +onlyGivenNames u1
    clear_value u1
    extract_lets +onlyGivenNames u2
    refine Keeps.cut (s := u2) (State.pokeHome_keeps h) fun h3 => ?_
    clear_value u2
    extract_lets +onlyGivenNames u4
    clear_value u4
    extract_lets +onlyGivenNames u5
    refine Keeps.cut (s := u5) (Keeps.upd h3 rfl rfl id id rfl) fun h6 => ?_
    clear_value u5
    exact ih h6

theorem State.allocPages_keeps {z s : State} {a1} {a2} {a3} {a4} {a5} {a6} {a7} {a8} {a9} (h : Keeps z s) : Keeps z (State.allocPages s a1 a2 a3 a4 a5 a6 a7 a8 a9).1 := by
  unfold State.allocPages
  split
  · exact h
  · extract_lets +onlyGivenNames u1
    clear_value u1
    split
    · exact h
    · dsimp -zeta only
      exact State.initPages_keeps h

theorem State.releasePage_keeps {z s : State} {a1} {a2} {a3} {a4} {a5} (h : Keeps z s) : Keeps z (State.releasePage s a1 a2 a3 a4 a5) := by
  unfold State.releasePage
  split
  · exact h
  · apply Keeps.ite
    · exact h
    · apply Keeps.ite
      · extract_lets +onlyGivenNames u1
        refine Keeps.cut (s := u1) (State.setHdr_keeps h) fun h2 => ?_
        clear_value u1
        exact Keeps.upd h2 rfl rfl id id rfl
      · exact Keeps.ite (State.setHdr_keeps h) h

theorem State.sharePage_keeps {z s : State} {a1} {a2} {a3} (h : Keeps z s) : Keeps z (State.sharePage s a1 a2 a3) := by
  unfold State.sharePage
  split
  · exact h
  · exact Keeps.ite h (State.setHdr_keeps h)

theorem State.writeList_keeps {z s : State} {a1} {a2} {a3} {a4} (h : Keeps z s) : Keeps z (State.writeList s a1 a2 a3 a4) := by
  unfold State.writeList
  exact Keeps.ite (State.pokeHome_keeps h) h

theorem State.token_keeps {z s : State} {a1} {a2} {a3} {a4} (h : Keeps z s) : Keeps z (State.token s a1 a2 a3 a4).1 := by
  unfold State.token
  exact State.useFree_keeps h

theorem State.tokens_keeps {z s : State} {a1} {a2} {a3} {a4} {a5} (h : Keeps z s) : Keeps z (State.tokens s a1 a2 a3 a4 a5).1 := by -- by hand
  induction a5 generalizing s a1 a2 a3 a4 with
  | zero =>
    unfold State.tokens
    exact h
  | succ n ih =>
    unfold State.tokens
    split
    rename_i x1 s2 x3 x4
    have h5 : Keeps z s2 := Keeps.pair (State.token_keeps h) x4
    split
    rename_i x6 s7 x8 x9
    have h10 : Keeps z s7 := Keeps.pair (ih h5) x9
    exact h10

theorem State.loadStream_keeps {z s : State} {a1} {a2} {a3} {a4} {a5} (h : Keeps z s) : Keeps z (State.loadStream s a1 a2 a3 a4 a5) := by
  unfold State.loadStream
  extract_lets +onlyGivenNames u1
  clear_value u1
  extract_lets +onlyGivenNames u2
  clear_value u2
  exact State.modSlot_keeps (Keeps.upd h rfl rfl id id rfl)

theorem State.restart_keeps {z s : State} {a1} (h : Keeps z s) : Keeps z (State.restart s a1) := by
  unfold State.restart
  exact State.modSlot_keeps h

theorem State.sendNode_keeps {z s : State} {a1} {a2} {a3} {a4} {a5} (h : Keeps z s) : Keeps z (State.sendNode s a1 a2 a3 a4 a5) := by
  unfold State.sendNode
  split
  · extract_lets +onlyGivenNames u1
    clear_value u1
    exact Keeps.foldl (State.useFree_keeps h) (fun x2 x3 h4 => State.sendReq_keeps h4)
  · exact h

theorem State.writeStepRec_keeps {z s : State} {a1} (h : Keeps z s) : Keeps z (State.writeStepRec s a1) := by
  unfold State.writeStepRec
  extract_lets +onlyGivenNames u1
  clear_value u1
  extract_lets +onlyGivenNames u2
  clear_value u2
  extract_lets +onlyGivenNames u3
  clear_value u3
  extract_lets +onlyGivenNames u4
  have h5 : ∀ y0 y1 y2, Keeps z y0 → Keeps z (u4 y0 y1 y2) := by
    intro x6 x7 x8 h9
    dsimp -zeta only [u4]
    extract_lets +onlyGivenNames u10
    clear_value u10
    exact State.hostWrite_keeps h9
  clear_value u4
  extract_lets +onlyGivenNames u11
  clear_value u11
  extract_lets +onlyGivenNames u12
  refine Keeps.cut (s := u12) (Keeps.foldl h (fun x13 x14 h15 => h5 _ _ _ h15)) fun h16 => ?_
  clear_value u12
  extract_lets +onlyGivenNames u17
  refine Keeps.cut (s := u17) (Keeps.foldl h16 (fun x18 x19 h20 => h5 _ _ _ h20)) fun h21 => ?_
  clear_value u17
  extract_lets +onlyGivenNames u22
  refine Keeps.cut (s := u22) (State.writeDevIdx_keeps (State.count_keeps h21)) fun h23 => ?_
  clear_value u22
  exact Keeps.ite (State.countIrq_keeps h23) h23

end Sys2Proof.Machine
end

