-- ==== Sys2Proof/Laws/KeepLedger.lean ====
section
/-!
SUPPORT. The operations of Ledger keep the queue and the canonical memories.
-/

namespace Sys2Proof.Machine

theorem State.lsend_keeps {z s : State} {a1} {a2} {a3} {a4} {a5} (h : Keeps z s) : Keeps z (State.lsend s a1 a2 a3 a4 a5) := by
  unfold State.lsend
  exact State.sendReq_keeps h

theorem State.endGroup_keeps {z s : State} {a1} {a2} {a3} (h : Keeps z s) : Keeps z (State.endGroup s a1 a2 a3) := by
  unfold State.endGroup
  exact Keeps.foldl h (fun x1 x2 h3 => State.lsend_keeps h3)

theorem State.addPages_keeps {z s : State} {a1} {a2} {a3} {a4} (h : Keeps z s) : Keeps z (State.addPages s a1 a2 a3 a4) := by
  unfold State.addPages
  split
  · exact h
  · extract_lets +onlyGivenNames u1
    clear_value u1
    extract_lets +onlyGivenNames u2
    refine Keeps.cut (s := u2) (State.setEntry_keeps h) fun h3 => ?_
    clear_value u2
    exact State.writeList_keeps h3

theorem State.allocHere_keeps {z s : State} {a1} {a2} {a3} {a4} (h : Keeps z s) : Keeps z (State.allocHere s a1 a2 a3 a4).1 := by
  unfold State.allocHere
  split
  · exact h
  · extract_lets +onlyGivenNames u1
    clear_value u1
    extract_lets +onlyGivenNames u2
    clear_value u2
    extract_lets +onlyGivenNames u3
    clear_value u3
    split
    · rename_i x4 s5 x6 x7
      have h8 : Keeps z s5 := Keeps.pair (State.allocPages_keeps h) x7
      exact State.addPages_keeps h8
    · rename_i x9 s10 x11
      have h12 : Keeps z s10 := Keeps.pair (State.allocPages_keeps h) x11
      exact h12

theorem State.pageOpTo_keeps {z s : State} {a1} {a2} {a3} {a4} {a5} (h : Keeps z s) : Keeps z (State.pageOpTo s a1 a2 a3 a4 a5) := by
  unfold State.pageOpTo
  split
  · exact h
  · extract_lets +onlyGivenNames u1
    refine Keeps.cut (s := u1) (State.lsend_keeps h) fun h2 => ?_
    clear_value u1
    exact State.setEntry_keeps h2

theorem State.allocRuns_keeps {z s : State} {a1} {a2} (h : Keeps z s) : Keeps z (State.allocRuns s a1 a2).1 := by -- by hand
  induction a2 generalizing s with
  | nil => exact h
  | cons b r ih =>
    obtain ⟨c, a, n⟩ := b
    unfold State.allocRuns
    split
    · split
      · exact ih (Keeps.pair (State.allocHere_keeps h) ‹_›)
      · exact Keeps.pair (State.allocHere_keeps h) ‹_›
    · exact State.modEntry_keeps (State.pageOpTo_keeps h)

theorem State.allocRest_keeps {z s : State} {a1} (h : Keeps z s) : Keeps z (State.allocRest s a1).1 := by
  unfold State.allocRest
  split
  · exact h
  · exact State.allocRuns_keeps (State.modEntry_keeps h)

theorem State.releaseHere_keeps {z s : State} {a1} {a2} {a3} {a4} (h : Keeps z s) : Keeps z (State.releaseHere s a1 a2 a3 a4) := by
  unfold State.releaseHere
  exact Keeps.foldl h (fun x1 x2 h3 => State.releasePage_keeps h3)

theorem State.releaseMain_keeps {z s : State} {a1} {a2} (h : Keeps z s) : Keeps z (State.releaseMain s a1 a2) := by
  unfold State.releaseMain
  split
  · exact h
  · extract_lets +onlyGivenNames u1
    refine Keeps.cut (s := u1) (State.releaseHere_keeps h) fun h2 => ?_
    clear_value u1
    extract_lets +onlyGivenNames u3
    refine Keeps.cut (s := u3) (State.setEntry_keeps h2) fun h4 => ?_
    clear_value u3
    exact State.modEntry_keeps (Keeps.foldl h4 (fun x5 x6 h7 => State.pageOpTo_keeps h7))

theorem State.releaseAll_keeps {z s : State} {a1} {a2} (h : Keeps z s) : Keeps z (State.releaseAll s a1 a2) := by
  unfold State.releaseAll
  split
  · exact h
  · extract_lets +onlyGivenNames u1
    refine Keeps.cut (s := u1) (State.releaseHere_keeps h) fun h2 => ?_
    clear_value u1
    exact State.releaseMain_keeps (State.modEntry_keeps h2)

theorem State.toDone_keeps {z s : State} {a1} (h : Keeps z s) : Keeps z (State.toDone s a1) := by
  unfold State.toDone
  extract_lets +onlyGivenNames u1
  refine Keeps.cut (s := u1) (State.toSt_keeps h) fun h2 => ?_
  clear_value u1
  split
  · exact h2
  · extract_lets +onlyGivenNames u3
    refine Keeps.cut (s := u3) (Keeps.ite (State.clientEvent_keeps h2) h2) fun h4 => ?_
    clear_value u3
    exact Keeps.ite (State.freeEntry_keeps h4) h4

theorem State.lastWritten_keeps {z s : State} {a1} (h : Keeps z s) : Keeps z (State.lastWritten s a1) := by
  unfold State.lastWritten
  split
  · exact h
  · exact Keeps.ite (State.freeEntry_keeps h) (State.setEntry_keeps h)

theorem State.flushRecs_keeps {z s : State} {a1} {a2} (h : Keeps z s) : Keeps z (State.flushRecs s a1 a2) := by
  induction a2 generalizing s a1 with
  | zero =>
    unfold State.flushRecs
    exact h
  | succ n ih =>
    unfold State.flushRecs
    extract_lets +onlyGivenNames u1
    clear_value u1
    split
    · exact h
    · apply Keeps.ite
      · exact ih (State.devCause_keeps (State.bump_keeps (State.setSlot_keeps h)))
      · apply Keeps.ite
        · extract_lets +onlyGivenNames u2
          refine Keeps.cut (s := u2) (State.writeStepRec_keeps (State.setSlot_keeps h)) fun h3 => ?_
          clear_value u2
          exact ih (Keeps.foldl h3 (fun x4 x5 h6 => State.lastWritten_keeps h6))
        · exact Keeps.ite h (State.setBit_keeps (State.bump_keeps (State.setSlot_keeps h)))

theorem State.queueRecs_keeps {z s : State} {a1} {a2} {a3} {a4} {a5} {a6} {a7} (h : Keeps z s) : Keeps z (State.queueRecs s a1 a2 a3 a4 a5 a6 a7) := by
  unfold State.queueRecs
  extract_lets +onlyGivenNames u1
  clear_value u1
  exact State.modSlot_keeps (Keeps.upd h rfl rfl id id rfl)

theorem State.flushEnded_keeps {z s : State} {a1} (h : Keeps z s) : Keeps z (State.flushEnded s a1) := by
  unfold State.flushEnded
  extract_lets +onlyGivenNames u1
  clear_value u1
  apply Keeps.ite
  · exact h
  · extract_lets +onlyGivenNames u2
    clear_value u2
    extract_lets +onlyGivenNames u3
    refine Keeps.cut (s := u3) (State.setSlot_keeps h) fun h4 => ?_
    clear_value u3
    extract_lets +onlyGivenNames u5
    refine Keeps.cut (s := u5) (State.queueRecs_keeps h4) fun h6 => ?_
    clear_value u5
    exact State.flushRecs_keeps h6

theorem State.endOutside_keeps {z s : State} {a1} {a2} (h : Keeps z s) : Keeps z (State.endOutside s a1 a2) := by
  unfold State.endOutside
  split
  · exact h
  · extract_lets +onlyGivenNames u1
    refine Keeps.cut (s := u1) (State.endGroup_keeps h) fun h2 => ?_
    clear_value u1
    extract_lets +onlyGivenNames u3
    refine Keeps.cut (s := u3) (State.releaseAll_keeps (State.setEntry_keeps h2)) fun h4 => ?_
    clear_value u3
    extract_lets +onlyGivenNames u5
    refine Keeps.cut (s := u5) (State.modSlot_keeps (State.toDone_keeps h4)) fun h6 => ?_
    clear_value u5
    exact State.flushEnded_keeps h6

theorem State.admitRecord_keeps {z s : State} {a1} {a2} (h : Keeps z s) : Keeps z (State.admitRecord s a1 a2) := by
  unfold State.admitRecord
  split
  · exact h
  · split
    · exact h
    · extract_lets +onlyGivenNames u1
      refine Keeps.cut (s := u1) (State.setEntry_keeps h) fun h2 => ?_
      clear_value u1
      exact State.finish_keeps (State.unreserve_keeps h2)

theorem State.admitFail_keeps {z s : State} {a1} {a2} (h : Keeps z s) : Keeps z (State.admitFail s a1 a2) := by
  unfold State.admitFail
  split
  · exact h
  · extract_lets +onlyGivenNames u1
    refine Keeps.cut (s := u1) (State.admitRecord_keeps (State.releaseAll_keeps (State.endGroup_keeps h))) fun h2 => ?_
    clear_value u1
    exact State.bump_keeps (State.freeEntry_keeps h2)

theorem State.offer_keeps {z s : State} {a1} (h : Keeps z s) : Keeps z (State.offer s a1) := by
  unfold State.offer
  split
  · exact h
  · apply Keeps.ite
    · exact h
    · split
      · exact h
      · extract_lets +onlyGivenNames u1
        refine Keeps.cut (s := u1) (State.setEntry_keeps h) fun h2 => ?_
        clear_value u1
        exact State.lsend_keeps h2

theorem State.admitOk_keeps {z s : State} {a1} (h : Keeps z s) : Keeps z (State.admitOk s a1) := by
  unfold State.admitOk
  split
  · exact h
  · extract_lets +onlyGivenNames u1
    refine Keeps.cut (s := u1) (State.count_keeps (State.admitRecord_keeps h)) fun h2 => ?_
    clear_value u1
    extract_lets +onlyGivenNames u3
    refine Keeps.cut (s := u3) (State.clientEvent_keeps h2) fun h4 => ?_
    clear_value u3
    exact State.offer_keeps (State.toSt_keeps h4)

theorem State.admitPages_keeps {z s : State} {a1} (h : Keeps z s) : Keeps z (State.admitPages s a1) := by
  unfold State.admitPages
  split
  · exact h
  · exact Keeps.ite h (Keeps.ite (State.admitFail_keeps h) (State.admitOk_keeps h))

theorem State.takeShared_keeps {z s : State} {a1} {a2} {a3} (h : Keeps z s) : Keeps z (State.takeShared s a1 a2 a3) := by
  unfold State.takeShared
  extract_lets +onlyGivenNames u1
  refine Keeps.cut (s := u1) (State.addPages_keeps h) fun h2 => ?_
  clear_value u1
  extract_lets +onlyGivenNames u3
  refine Keeps.cut (s := u3) (Keeps.foldl h2 (fun x5 x6 h7 => State.sharePage_keeps h7)) fun h4 => ?_
  clear_value u3
  split
  · exact h4
  · exact State.pageOpTo_keeps h4

theorem State.admitAlloc_keeps {z s : State} {a1} (h : Keeps z s) : Keeps z (State.admitAlloc s a1) := by
  unfold State.admitAlloc
  split
  · exact h
  · extract_lets +onlyGivenNames u1
    have h2 : ∀ y0, Keeps z y0 → Keeps z (u1 y0) := by
      exact fun x3 h4 => State.admitPages_keeps (State.setEntry_keeps h4)
    clear_value u1
    split
    · exact h2 _ (State.setBit_keeps h)
    · extract_lets +onlyGivenNames u5
      clear_value u5
      split
      · exact h2 _ (State.setBit_keeps h)
      · extract_lets +onlyGivenNames u6
        clear_value u6
        extract_lets +onlyGivenNames u7
        refine Keeps.cut (s := u7) (State.setEntry_keeps h) fun h8 => ?_
        clear_value u7
        split
        rename_i x9 s10 x11 x12
        have h13 : Keeps z s10 := Keeps.pair (State.allocHere_keeps h8) x12
        apply Keeps.ite
        · exact h2 _ h13
        · extract_lets +onlyGivenNames u14
          refine Keeps.cut (s := u14) (State.takeShared_keeps h13) fun h15 => ?_
          clear_value u14
          split
          rename_i x16 s17 x18 x19
          have h20 : Keeps z s17 := Keeps.pair (State.allocRuns_keeps h15) x19
          exact Keeps.ite (State.admitPages_keeps h20) (h2 _ h20)

theorem State.admitShare_keeps {z s : State} {a1} (h : Keeps z s) : Keeps z (State.admitShare s a1) := by
  unfold State.admitShare
  split
  · exact h
  · split
    · exact State.admitAlloc_keeps h
    · extract_lets +onlyGivenNames u1
      clear_value u1
      extract_lets +onlyGivenNames u2
      clear_value u2
      extract_lets +onlyGivenNames u3
      clear_value u3
      extract_lets +onlyGivenNames u4
      refine Keeps.cut (s := u4) (Keeps.ite h (State.useFree_keeps h)) fun h5 => ?_
      clear_value u4
      exact State.admitAlloc_keeps (State.setEntry_keeps h5)

theorem State.admitPath_keeps {z s : State} {a1} (h : Keeps z s) : Keeps z (State.admitPath s a1) := by
  unfold State.admitPath
  split
  · exact h
  · extract_lets +onlyGivenNames u1
    clear_value u1
    extract_lets +onlyGivenNames u2
    refine Keeps.cut (s := u2) (State.setEntry_keeps h) fun h3 => ?_
    clear_value u2
    exact Keeps.ite (State.admitAlloc_keeps h3) (State.admitShare_keeps h3)

theorem State.groupDone_keeps {z s : State} {a1} (h : Keeps z s) : Keeps z (State.groupDone s a1) := by
  unfold State.groupDone
  split
  · exact h
  · apply Keeps.ite
    · exact h
    · split
      · exact State.admitFail_keeps h
      · exact State.admitPath_keeps h

theorem State.admitStart_keeps {z s : State} {a1} {a2} (h : Keeps z s) : Keeps z (State.admitStart s a1 a2) := by
  unfold State.admitStart
  extract_lets +onlyGivenNames u1
  refine Keeps.cut (s := u1) (State.reserve_keeps (State.takeSlot_keeps h)) fun h2 => ?_
  clear_value u1
  extract_lets +onlyGivenNames u3
  clear_value u3
  extract_lets +onlyGivenNames u4
  clear_value u4
  extract_lets +onlyGivenNames u5
  refine Keeps.cut (s := u5) (State.setEntry_keeps h2) fun h6 => ?_
  clear_value u5
  extract_lets +onlyGivenNames u7
  clear_value u7
  extract_lets +onlyGivenNames u8
  refine Keeps.cut (s := u8) (Keeps.foldl h6 (fun x9 x10 h11 => State.lsend_keeps h11)) fun h12 => ?_
  clear_value u8
  exact State.groupDone_keeps h12

theorem State.runLedger_keeps {z s : State} {a1} {a2} (h : Keeps z s) (ha2 : ∀ y0 y1, Keeps z y0 → Keeps z (a2 y0 y1)) : Keeps z (State.runLedger s a1 a2) := by
  unfold State.runLedger
  split
  · exact h
  · exact State.withRoom_keeps h (fun x1 h2 => Keeps.upd h2 rfl rfl id id rfl) (fun x3 h4 => ha2 _ _ (Keeps.upd h4 rfl rfl id id rfl))

theorem State.ledgerDone_keeps {z s : State} {a1} {a2} {a3} (h : Keeps z s) : Keeps z (State.ledgerDone s a1 a2 a3) := by
  unfold State.ledgerDone
  exact State.finish_keeps h

theorem State.ledgerAdmit_keeps {z s : State} {a1} (h : Keeps z s) : Keeps z (State.ledgerAdmit s a1) := by
  unfold State.ledgerAdmit
  extract_lets +onlyGivenNames u1
  clear_value u1
  split
  · exact Keeps.ite (State.admitStart_keeps h) (State.bump_keeps (State.ledgerDone_keeps h))
  · exact State.bump_keeps (State.ledgerDone_keeps h)

theorem State.cancel_keeps {z s : State} {a1} {a2} (h : Keeps z s) : Keeps z (State.cancel s a1 a2).1 := by
  unfold State.cancel
  split
  · exact h
  · split
    · dsimp -zeta only
      exact State.endOutside_keeps h
    · extract_lets +onlyGivenNames u1
      refine Keeps.cut (s := u1) (State.setEntry_keeps h) fun h2 => ?_
      clear_value u1
      split
      · split
        · dsimp -zeta only
          exact State.lsend_keeps h2
        · exact h2
      · exact h2

theorem State.ledgerCancel_keeps {z s : State} {a1} (h : Keeps z s) : Keeps z (State.ledgerCancel s a1) := by
  unfold State.ledgerCancel
  extract_lets +onlyGivenNames u1
  clear_value u1
  apply Keeps.ite
  · exact State.ledgerDone_keeps h
  · split
    · apply Keeps.ite
      · exact State.ledgerDone_keeps h
      · split
        rename_i x2 s3 x4 x5
        have h6 : Keeps z s3 := Keeps.pair (State.cancel_keeps h) x5
        exact State.ledgerDone_keeps h6
    · exact State.ledgerDone_keeps h

theorem State.ledgerQuery_keeps {z s : State} {a1} (h : Keeps z s) : Keeps z (State.ledgerQuery s a1) := by
  unfold State.ledgerQuery
  extract_lets +onlyGivenNames u1
  clear_value u1
  apply Keeps.ite
  · exact State.ledgerDone_keeps h
  · apply Keeps.ite
    · exact State.ledgerDone_keeps h
    · split
      · exact State.ledgerDone_keeps h
      · extract_lets +onlyGivenNames u2
        clear_value u2
        exact Keeps.ite (State.faultLodge_keeps (State.ledgerDone_keeps h)) (State.ledgerDone_keeps (State.pokeHome_keeps h))

theorem State.ledgerRelease_keeps {z s : State} {a1} (h : Keeps z s) : Keeps z (State.ledgerRelease s a1) := by
  unfold State.ledgerRelease
  extract_lets +onlyGivenNames u1
  clear_value u1
  apply Keeps.ite
  · exact State.ledgerDone_keeps h
  · split
    · exact State.ledgerDone_keeps h
    · apply Keeps.ite
      · exact State.ledgerDone_keeps h
      · apply Keeps.ite
        · exact State.ledgerDone_keeps h
        · extract_lets +onlyGivenNames u2
          refine Keeps.cut (s := u2) (State.releaseAll_keeps (State.endGroup_keeps h)) fun h3 => ?_
          clear_value u2
          extract_lets +onlyGivenNames u4
          refine Keeps.cut (s := u4) (State.modSlot_keeps h3) fun h5 => ?_
          clear_value u4
          exact State.ledgerDone_keeps (State.freeEntry_keeps h5)

theorem State.liveryLoad_keeps {z s : State} {a1} (h : Keeps z s) : Keeps z (State.liveryLoad s a1) := by
  unfold State.liveryLoad
  extract_lets +onlyGivenNames u1
  clear_value u1
  apply Keeps.ite
  · exact State.ledgerDone_keeps h
  · extract_lets +onlyGivenNames u2
    clear_value u2
    extract_lets +onlyGivenNames u3
    clear_value u3
    extract_lets +onlyGivenNames u4
    clear_value u4
    apply Keeps.ite
    · exact State.faultLodge_keeps (State.ledgerDone_keeps (State.raiseUncorr_keeps h))
    · extract_lets +onlyGivenNames u5
      refine Keeps.cut (s := u5) (State.touch_keeps (State.pokeHome_keeps h)) fun h6 => ?_
      clear_value u5
      exact State.ledgerDone_keeps (Keeps.upd h6 rfl rfl id id rfl)

theorem State.liveryDrop_keeps {z s : State} {a1} (h : Keeps z s) : Keeps z (State.liveryDrop s a1) := by
  unfold State.liveryDrop
  extract_lets +onlyGivenNames u1
  clear_value u1
  exact Keeps.ite (State.ledgerDone_keeps h) (State.ledgerDone_keeps (Keeps.upd h rfl rfl id id rfl))

theorem State.groupCheckIn_keeps {z s : State} {a1} (h : Keeps z s) : Keeps z (State.groupCheckIn s a1) := by
  unfold State.groupCheckIn
  extract_lets +onlyGivenNames u1
  clear_value u1
  extract_lets +onlyGivenNames u2
  clear_value u2
  extract_lets +onlyGivenNames u3
  clear_value u3
  extract_lets +onlyGivenNames u4
  clear_value u4
  extract_lets +onlyGivenNames u5
  refine Keeps.cut (s := u5) (Keeps.ite (Keeps.upd h rfl rfl id id rfl) h) fun h6 => ?_
  clear_value u5
  exact State.answer_keeps h6

theorem State.groupRspIn_keeps {z s : State} {a1} (h : Keeps z s) : Keeps z (State.groupRspIn s a1) := by
  unfold State.groupRspIn
  split
  · exact h
  · extract_lets +onlyGivenNames u1
    clear_value u1
    apply Keeps.ite
    · exact h
    · extract_lets +onlyGivenNames u2
      clear_value u2
      extract_lets +onlyGivenNames u3
      clear_value u3
      extract_lets +onlyGivenNames u4
      clear_value u4
      exact State.groupDone_keeps (State.setEntry_keeps h)

theorem State.groupStepIn_keeps {z s : State} {a1} (h : Keeps z s) : Keeps z (State.groupStepIn s a1) := by
  unfold State.groupStepIn
  extract_lets +onlyGivenNames u1
  clear_value u1
  apply Keeps.ite
  · exact Keeps.upd h rfl rfl id id rfl
  · extract_lets +onlyGivenNames u2
    clear_value u2
    extract_lets +onlyGivenNames u3
    clear_value u3
    extract_lets +onlyGivenNames u4
    clear_value u4
    exact Keeps.upd h rfl rfl id id rfl

theorem State.reduceEntry_keeps {z s : State} {a1} {a2} (h : Keeps z s) : Keeps z (State.reduceEntry s a1 a2) := by -- by hand
  induction a2 generalizing s with
  | zero => exact h
  | succ n ih =>
    unfold State.reduceEntry
    split
    · exact h
    · extract_lets u1 u2
      split
      · exact State.setEntry_keeps h
      · exact ih (State.sendNode_keeps (State.setEntry_keeps h))

theorem State.setMember_keeps {z s : State} {a1} {a2} (h : Keeps z s) : Keeps z (State.setMember s a1 a2) := by
  unfold State.setMember
  exact Keeps.upd h rfl rfl id id rfl

theorem State.reduceMember_keeps {z s : State} {a1} {a2} (h : Keeps z s) : Keeps z (State.reduceMember s a1 a2) := by -- by hand
  induction a2 generalizing s with
  | zero => exact h
  | succ n ih =>
    unfold State.reduceMember
    split
    · exact h
    · extract_lets u1 u2
      split
      · exact State.setMember_keeps h
      · exact ih (State.sendNode_keeps (State.setMember_keeps h))

theorem State.nodeAtEntry_keeps {z s : State} {a1} {a2} {a3} {a4} (h : Keeps z s) : Keeps z (State.nodeAtEntry s a1 a2 a3 a4) := by
  unfold State.nodeAtEntry
  extract_lets +onlyGivenNames u1
  refine Keeps.cut (s := u1) (State.modSlot_keeps (State.setEntry_keeps h)) fun h2 => ?_
  clear_value u1
  exact State.reduceEntry_keeps h2

theorem State.groupNodeIn_keeps {z s : State} {a1} (h : Keeps z s) : Keeps z (State.groupNodeIn s a1) := by
  unfold State.groupNodeIn
  extract_lets +onlyGivenNames u1
  clear_value u1
  extract_lets +onlyGivenNames u2
  clear_value u2
  extract_lets +onlyGivenNames u3
  clear_value u3
  split
  · exact State.nodeAtEntry_keeps h
  · split
    · exact State.reduceMember_keeps (State.setMember_keeps h)
    · exact h

theorem State.orphanEntry_keeps {z s : State} {a1} {a2} (h : Keeps z s) : Keeps z (State.orphanEntry s a1 a2) := by
  unfold State.orphanEntry
  exact State.orphanLodge_keeps h

theorem State.groupAckIn_keeps {z s : State} {a1} (h : Keeps z s) : Keeps z (State.groupAckIn s a1) := by
  unfold State.groupAckIn
  split
  · exact h
  · apply Keeps.ite
    · exact h
    · extract_lets +onlyGivenNames u1
      refine Keeps.cut (s := u1) (State.setEntry_keeps h) fun h2 => ?_
      clear_value u1
      extract_lets +onlyGivenNames u3
      clear_value u3
      exact Keeps.ite h2 (State.faultLodge_keeps h2)

theorem State.groupMapIn_keeps {z s : State} {a1} (h : Keeps z s) : Keeps z (State.groupMapIn s a1) := by
  unfold State.groupMapIn
  extract_lets +onlyGivenNames u1
  clear_value u1
  split
  · exact State.answer_keeps h
  · extract_lets +onlyGivenNames u2
    clear_value u2
    extract_lets +onlyGivenNames u3
    clear_value u3
    extract_lets +onlyGivenNames u4
    clear_value u4
    extract_lets +onlyGivenNames u5
    refine Keeps.cut (s := u5) (Keeps.ite (Keeps.upd h rfl rfl id id rfl) (Keeps.upd h rfl rfl id id rfl)) fun h6 => ?_
    clear_value u5
    exact State.answer_keeps h6

theorem State.groupMapAckIn_keeps {z s : State} {a1} (h : Keeps z s) : Keeps z (State.groupMapAckIn s a1) := by
  unfold State.groupMapAckIn
  split
  · exact h
  · exact State.setEntry_keeps h

theorem State.groupCheckTimeout_keeps {z s : State} {a1} (h : Keeps z s) : Keeps z (State.groupCheckTimeout s a1) := by
  unfold State.groupCheckTimeout
  split
  · exact h
  · split
    · exact Keeps.ite (State.orphanEntry_keeps (State.admitFail_keeps h)) h
    · exact h

theorem State.groupTimeout_keeps {z s : State} {a1} {a2} (h : Keeps z s) : Keeps z (State.groupTimeout s a1 a2) := by
  unfold State.groupTimeout
  split
  · exact h
  · split
    · exact Keeps.ite h (State.orphanEntry_keeps h)
    · exact h

theorem State.memberTimeout_keeps {z s : State} {a1} (h : Keeps z s) : Keeps z (State.memberTimeout s a1) := by
  unfold State.memberTimeout
  split
  · exact h
  · split
    · exact State.orphanLodge_keeps h
    · exact h

theorem State.groupSilent_keeps {z s : State} {a1} (h : Keeps z s) : Keeps z (State.groupSilent s a1) := by
  unfold State.groupSilent
  exact Keeps.ite (State.groupTimeout_keeps h) (State.memberTimeout_keeps h)

theorem execAdmit_keeps {z s t : State} (h : Keeps z s) (e : execAdmit s = .next t) : Keeps z t := by
  unfold execAdmit at e
  injection e with e
  subst e
  exact State.choices_keeps (State.runLedger_keeps h (fun x1 x2 h3 => State.ledgerAdmit_keeps h3))

theorem execLedgerCancel_keeps {z s t : State} (h : Keeps z s) (e : execLedgerCancel s = .next t) : Keeps z t := by
  unfold execLedgerCancel at e
  injection e with e
  subst e
  exact State.choices_keeps (State.runLedger_keeps h (fun x1 x2 h3 => State.ledgerCancel_keeps h3))

theorem execLedgerQuery_keeps {z s t : State} (h : Keeps z s) (e : execLedgerQuery s = .next t) : Keeps z t := by
  unfold execLedgerQuery at e
  injection e with e
  subst e
  exact State.choices_keeps (State.runLedger_keeps h (fun x1 x2 h3 => State.ledgerQuery_keeps h3))

theorem execLedgerRelease_keeps {z s t : State} (h : Keeps z s) (e : execLedgerRelease s = .next t) : Keeps z t := by
  unfold execLedgerRelease at e
  injection e with e
  subst e
  exact State.choices_keeps (State.runLedger_keeps h (fun x1 x2 h3 => State.ledgerRelease_keeps h3))

theorem execLiveryLoad_keeps {z s t : State} (h : Keeps z s) (e : execLiveryLoad s = .next t) : Keeps z t := by
  unfold execLiveryLoad at e
  injection e with e
  subst e
  exact State.choices_keeps (State.runLedger_keeps h (fun x1 x2 h3 => State.liveryLoad_keeps h3))

theorem execLiveryDrop_keeps {z s t : State} (h : Keeps z s) (e : execLiveryDrop s = .next t) : Keeps z t := by
  unfold execLiveryDrop at e
  injection e with e
  subst e
  exact State.choices_keeps (State.runLedger_keeps h (fun x1 x2 h3 => State.liveryDrop_keeps h3))

theorem execGroupCheck_keeps {z s t : State} {a0} (h : Keeps z s) (e : execGroupCheck a0 s = .next t) : Keeps z t := by
  unfold execGroupCheck at e
  injection e with e
  subst e
  exact State.choices_keeps (State.groupCheckIn_keeps h)

theorem execGroupCheckRsp_keeps {z s t : State} {a0} (h : Keeps z s) (e : execGroupCheckRsp a0 s = .next t) : Keeps z t := by
  unfold execGroupCheckRsp at e
  injection e with e
  subst e
  exact State.choices_keeps (State.groupRspIn_keeps h)

theorem execGroupStep_keeps {z s t : State} {a0} (h : Keeps z s) (e : execGroupStep a0 s = .next t) : Keeps z t := by
  unfold execGroupStep at e
  injection e with e
  subst e
  exact State.choices_keeps (State.groupStepIn_keeps h)

theorem execGroupNode_keeps {z s t : State} {a0} (h : Keeps z s) (e : execGroupNode a0 s = .next t) : Keeps z t := by
  unfold execGroupNode at e
  injection e with e
  subst e
  exact State.choices_keeps (State.groupNodeIn_keeps h)

theorem execGroupStepAck_keeps {z s t : State} {a0} (h : Keeps z s) (e : execGroupStepAck a0 s = .next t) : Keeps z t := by
  unfold execGroupStepAck at e
  injection e with e
  subst e
  exact State.choices_keeps (State.groupAckIn_keeps h)

theorem execGroupMap_keeps {z s t : State} {a0} (h : Keeps z s) (e : execGroupMap a0 s = .next t) : Keeps z t := by
  unfold execGroupMap at e
  injection e with e
  subst e
  exact State.choices_keeps (State.groupMapIn_keeps h)

theorem execGroupMapAck_keeps {z s t : State} {a0} (h : Keeps z s) (e : execGroupMapAck a0 s = .next t) : Keeps z t := by
  unfold execGroupMapAck at e
  injection e with e
  subst e
  exact State.choices_keeps (State.groupMapAckIn_keeps h)

theorem execGroupCheckTimeout_keeps {z s t : State} {a0} (h : Keeps z s) (e : execGroupCheckTimeout a0 s = .next t) : Keeps z t := by
  unfold execGroupCheckTimeout at e
  injection e with e
  subst e
  exact State.choices_keeps (State.groupCheckTimeout_keeps h)

theorem execGroupTimeout_keeps {z s t : State} {a0} (h : Keeps z s) (e : execGroupTimeout a0 s = .next t) : Keeps z t := by
  unfold execGroupTimeout at e
  injection e with e
  subst e
  exact State.choices_keeps (State.groupSilent_keeps h)

theorem execGroupMapTimeout_keeps {z s t : State} {a0} (h : Keeps z s) (e : execGroupMapTimeout a0 s = .next t) : Keeps z t := by
  unfold execGroupMapTimeout at e
  injection e with e
  subst e
  exact State.choices_keeps (State.groupTimeout_keeps h)

end Sys2Proof.Machine
end

