-- ==== Sys2Proof/Laws/KeepLedgerPath.lean ====
section
/-!
SUPPORT. The operations of LedgerPath keep the queue and the canonical memories.
-/

namespace Sys2Proof.Machine

theorem State.enterGen_keeps {z s : State} {a1} (h : Keeps z s) : Keeps z (State.enterGen s a1) := by
  unfold State.enterGen
  split
  · exact h
  · exact Keeps.ite (State.endOutside_keeps h) (State.toSt_keeps h)

theorem State.pushSettle_keeps {z s : State} {a1} (h : Keeps z s) : Keeps z (State.pushSettle s a1) := by
  unfold State.pushSettle
  split
  · exact h
  · exact Keeps.ite (State.enterGen_keeps h) h

theorem State.prefillAckIn_keeps {z s : State} {a1} (h : Keeps z s) : Keeps z (State.prefillAckIn s a1) := by
  unfold State.prefillAckIn
  split
  · exact h
  · extract_lets +onlyGivenNames u1
    clear_value u1
    apply Keeps.ite
    · exact h
    · extract_lets +onlyGivenNames u2
      clear_value u2
      extract_lets +onlyGivenNames u3
      refine Keeps.cut (s := u3) (Keeps.upd h rfl rfl id id rfl) fun h4 => ?_
      clear_value u3
      extract_lets +onlyGivenNames u5
      extract_lets +onlyGivenNames u6
      apply Keeps.ite
      · exact State.toSt_keeps (State.setEntry_keeps h4)
      · apply Keeps.ite
        · extract_lets +onlyGivenNames u7
          refine Keeps.cut (s := u7) (State.setEntry_keeps h4) fun h8 => ?_
          clear_value u7
          split
          · rename_i x9 s10 x11
            have h12 : Keeps z s10 := Keeps.pair (State.allocHere_keeps h8) x11
            exact State.offer_keeps h12
          · rename_i x13 s14 x15
            have h16 : Keeps z s14 := Keeps.pair (State.allocHere_keeps h8) x15
            exact State.endOutside_keeps h16
        · exact State.offer_keeps (State.setEntry_keeps h4)

theorem State.firstToken_keeps {z s : State} {a1} {a2} (h : Keeps z s) : Keeps z (State.firstToken s a1 a2) := by
  unfold State.firstToken
  split
  · exact h
  · extract_lets +onlyGivenNames u1
    refine Keeps.cut (s := u1) (State.setEntry_keeps h) fun h2 => ?_
    clear_value u1
    exact State.clientEvent_keeps h2

theorem State.prefillDoneIn_keeps {z s : State} {a1} (h : Keeps z s) : Keeps z (State.prefillDoneIn s a1) := by
  unfold State.prefillDoneIn
  split
  · exact h
  · apply Keeps.ite
    · exact h
    · extract_lets +onlyGivenNames u1
      clear_value u1
      apply Keeps.ite
      · extract_lets +onlyGivenNames u2
        refine Keeps.cut (s := u2) (State.setEntry_keeps h) fun h3 => ?_
        clear_value u2
        extract_lets +onlyGivenNames u4
        refine Keeps.cut (s := u4) (State.firstToken_keeps h3) fun h5 => ?_
        clear_value u4
        extract_lets +onlyGivenNames u6
        refine Keeps.cut (s := u6) (State.modSlot_keeps h5) fun h7 => ?_
        clear_value u6
        apply Keeps.ite
        · extract_lets +onlyGivenNames u8
          clear_value u8
          extract_lets +onlyGivenNames u9
          refine Keeps.cut (s := u9) (State.toSt_keeps h7) fun h10 => ?_
          clear_value u9
          exact State.lsend_keeps h10
        · exact State.pushSettle_keeps h7
      · exact Keeps.ite (State.faultLodge_keeps h) (State.endOutside_keeps h)

theorem State.prefillTimeout_keeps {z s : State} {a1} (h : Keeps z s) : Keeps z (State.prefillTimeout s a1) := by
  unfold State.prefillTimeout
  split
  · exact h
  · split
    · exact Keeps.ite (State.orphanEntry_keeps (State.setBit_keeps h)) h
    · exact h

theorem State.layerAckIn_keeps {z s : State} {a1} (h : Keeps z s) : Keeps z (State.layerAckIn s a1) := by
  unfold State.layerAckIn
  split
  · exact State.bump_keeps h
  · exact Keeps.ite (State.bump_keeps h) (State.pushSettle_keeps (State.setEntry_keeps h))

theorem State.handoverRspIn_keeps {z s : State} {a1} (h : Keeps z s) : Keeps z (State.handoverRspIn s a1) := by
  unfold State.handoverRspIn
  split
  · exact State.bump_keeps h
  · extract_lets +onlyGivenNames u1
    clear_value u1
    apply Keeps.ite
    · exact State.bump_keeps h
    · apply Keeps.ite
      · extract_lets +onlyGivenNames u2
        clear_value u2
        extract_lets +onlyGivenNames u3
        clear_value u3
        exact State.enterGen_keeps (State.setEntry_keeps h)
      · exact Keeps.ite (State.orphanEntry_keeps h) (State.faultLodge_keeps h)

theorem State.handoverTimeout_keeps {z s : State} {a1} (h : Keeps z s) : Keeps z (State.handoverTimeout s a1) := by
  unfold State.handoverTimeout
  split
  · exact h
  · exact Keeps.ite (State.orphanEntry_keeps (State.setBit_keeps h)) h

theorem State.pageRsp_keeps {z s : State} {a1} {a2} (h : Keeps z s) : Keeps z (State.pageRsp s a1 a2) := by
  unfold State.pageRsp
  exact State.answer_keeps h

theorem State.sendList_keeps {z s : State} {a1} {a2} {a3} {a4} {a5} {a6} {a7} (h : Keeps z s) : Keeps z (State.sendList s a1 a2 a3 a4 a5 a6 a7).1 := by
  unfold State.sendList
  apply Keeps.foldlPair
  · exact h
  · intro x1 x2 x3 h4 x5
    subst x5
    split
    split
    rename_i x6 s7 x8 x9
    have h10 : Keeps z s7 := Keeps.pair (State.ask_keeps h4) x9
    exact h10

theorem State.putPageOp_keeps {z s : State} {a1} {a2} (h : Keeps z s) : Keeps z (State.putPageOp s a1 a2) := by
  unfold State.putPageOp
  exact Keeps.upd h rfl rfl id id rfl

theorem State.delPageOp_keeps {z s : State} {a1} (h : Keeps z s) : Keeps z (State.delPageOp s a1) := by
  unfold State.delPageOp
  exact Keeps.upd h rfl rfl id id rfl

theorem State.dropPageOp_keeps {z s : State} {a1} (h : Keeps z s) : Keeps z (State.dropPageOp s a1) := by
  unfold State.dropPageOp
  exact Keeps.upd h rfl rfl id id rfl

theorem State.dropAlloc_keeps {z s : State} {a1} (h : Keeps z s) : Keeps z (State.dropAlloc s a1) := by
  unfold State.dropAlloc
  exact Keeps.upd h rfl rfl id id rfl

theorem State.putAlloc_keeps {z s : State} {a1} (h : Keeps z s) : Keeps z (State.putAlloc s a1) := by
  unfold State.putAlloc
  exact Keeps.upd h rfl rfl id id rfl

theorem State.homeAlloc_keeps {z s : State} {a1} {a2} {a3} (h : Keeps z s) : Keeps z (State.homeAlloc s a1 a2 a3) := by
  unfold State.homeAlloc
  extract_lets +onlyGivenNames u1
  clear_value u1
  split
  · rename_i x2 s3 x4
    have h5 : Keeps z s3 := Keeps.pair (State.allocPages_keeps (State.useFree_keeps h)) x4
    exact State.pageRsp_keeps h5
  · rename_i x6 s7 x8 x9
    have h10 : Keeps z s7 := Keeps.pair (State.allocPages_keeps (State.useFree_keeps h)) x9
    split
    rename_i x11 s12 x13 x14
    have h15 : Keeps z s12 := Keeps.pair (State.sendList_keeps h10) x14
    exact Keeps.ite (State.pageRsp_keeps h15) (Keeps.upd h15 rfl rfl id id rfl)

theorem State.askList_keeps {z s : State} {a1} {a2} {a3} (h : Keeps z s) : Keeps z (State.askList s a1 a2 a3) := by
  unfold State.askList
  exact State.putPageOp_keeps (State.ask_keeps h)

theorem State.listRead_keeps {z s : State} {a1} {a2} {a3} {a4} (h : Keeps z s) : Keeps z (State.listRead s a1 a2 a3 a4) := by
  unfold State.listRead
  exact Keeps.foldl h (fun x1 x2 h3 => State.askList_keeps h3)

theorem State.pageOpIn_keeps {z s : State} {a1} (h : Keeps z s) : Keeps z (State.pageOpIn s a1) := by
  unfold State.pageOpIn
  split
  · exact State.pageRsp_keeps h
  · extract_lets +onlyGivenNames u1
    clear_value u1
    extract_lets +onlyGivenNames u2
    clear_value u2
    extract_lets +onlyGivenNames u3
    clear_value u3
    exact Keeps.ite (State.pageRsp_keeps h) (Keeps.ite (Keeps.ite (State.pageRsp_keeps h) (Keeps.ite (State.homeAlloc_keeps h) (State.listRead_keeps h))) (Keeps.ite (State.pageRsp_keeps h) (Keeps.ite (State.pageRsp_keeps h) (State.listRead_keeps h))))

theorem State.pageOpApply_keeps {z s : State} {a1} {a2} {a3} (h : Keeps z s) : Keeps z (State.pageOpApply s a1 a2 a3) := by
  unfold State.pageOpApply
  exact Keeps.foldl h (fun x1 x2 h3 => Keeps.ite (State.releasePage_keeps h3) (State.sharePage_keeps h3))

theorem State.pageListRead_keeps {z s : State} {a1} {a2} {a3} (h : Keeps z s) : Keeps z (State.pageListRead s a1 a2 a3) := by
  unfold State.pageListRead
  extract_lets +onlyGivenNames u1
  refine Keeps.cut (s := u1) (State.closeTag_keeps h) fun h2 => ?_
  clear_value u1
  split
  · exact h2
  · extract_lets +onlyGivenNames u3
    refine Keeps.cut (s := u3) (Keeps.upd h2 rfl rfl id id rfl) fun h4 => ?_
    clear_value u3
    apply Keeps.ite
    · exact State.pageRsp_keeps (Keeps.upd h4 rfl rfl id id rfl)
    · extract_lets +onlyGivenNames u5
      clear_value u5
      split
      · exact State.pageRsp_keeps h4
      · apply Keeps.ite
        · exact State.homeAlloc_keeps h4
        · extract_lets +onlyGivenNames u6
          refine Keeps.cut (s := u6) (State.pageOpApply_keeps h4) fun h7 => ?_
          clear_value u6
          exact Keeps.ite h7 (State.pageRsp_keeps h7)

theorem State.setSub_keeps {z s : State} {a1} {a2} (h : Keeps z s) : Keeps z (State.setSub s a1 a2) := by
  unfold State.setSub
  exact Keeps.upd h rfl rfl id id rfl

theorem State.dropSub_keeps {z s : State} {a1} (h : Keeps z s) : Keeps z (State.dropSub s a1) := by
  unfold State.dropSub
  exact Keeps.upd h rfl rfl id id rfl

theorem State.ackPrefill_keeps {z s : State} {a1} {a2} (h : Keeps z s) : Keeps z (State.ackPrefill s a1 a2) := by
  unfold State.ackPrefill
  exact State.answer_keeps h

theorem State.takeOrder_keeps {z s : State} (h : Keeps z s) : Keeps z (State.takeOrder s) := by
  unfold State.takeOrder
  exact Keeps.upd h rfl rfl id id rfl

theorem State.unquiet_keeps {z s : State} {a1} (h : Keeps z s) : Keeps z (State.unquiet s a1) := by
  unfold State.unquiet
  exact Keeps.upd h rfl rfl id id rfl

theorem State.takeSub_keeps {z s : State} {a1} {a2} (h : Keeps z s) : Keeps z (State.takeSub s a1 a2) := by
  unfold State.takeSub
  exact State.setSub_keeps (State.unquiet_keeps (State.takeOrder_keeps h))

theorem State.startPrefill_keeps {z s : State} {a1} (h : Keeps z s) : Keeps z (State.startPrefill s a1) := by
  unfold State.startPrefill
  apply Keeps.ite
  · exact h
  · split
    · exact h
    · exact Keeps.ite (State.modSlot_keeps (State.loadStream_keeps (State.useFree_keeps h))) h

theorem State.prefillIn_keeps {z s : State} {a1} (h : Keeps z s) : Keeps z (State.prefillIn s a1) := by
  unfold State.prefillIn
  extract_lets +onlyGivenNames u1
  clear_value u1
  apply Keeps.ite
  · exact State.ackPrefill_keeps h
  · split
    · exact State.ackPrefill_keeps h
    · split
      · extract_lets +onlyGivenNames u2
        clear_value u2
        apply Keeps.ite
        · exact State.startPrefill_keeps (State.ackPrefill_keeps (State.takeSub_keeps h))
        · extract_lets +onlyGivenNames u3
          clear_value u3
          apply Keeps.ite
          · exact State.ackPrefill_keeps h
          · split
            · exact State.ackPrefill_keeps (State.setBit_keeps h)
            · exact State.lsend_keeps (State.setSub_keeps h)
      · exact State.ackPrefill_keeps h

theorem State.subAlloc_keeps {z s : State} {a1} {a2} {a3} (h : Keeps z s) : Keeps z (State.subAlloc s a1 a2 a3) := by
  unfold State.subAlloc
  apply Keeps.ite
  · exact State.ackPrefill_keeps (State.dropSub_keeps h)
  · extract_lets +onlyGivenNames u1
    clear_value u1
    extract_lets +onlyGivenNames u2
    clear_value u2
    split
    rename_i x3 s4 x5 x6
    have h7 : Keeps z s4 := Keeps.pair (State.sendList_keeps h) x6
    exact State.setSub_keeps h7

theorem State.subRelease_keeps {z s : State} {a1} {a2} (h : Keeps z s) : Keeps z (State.subRelease s a1 a2) := by
  unfold State.subRelease
  extract_lets +onlyGivenNames u1
  clear_value u1
  exact Keeps.ite (State.dropSub_keeps h) (State.lsend_keeps (State.setSub_keeps h))

theorem State.endSub_keeps {z s : State} {a1} {a2} (h : Keeps z s) : Keeps z (State.endSub s a1 a2) := by
  unfold State.endSub
  split
  · exact h
  · extract_lets +onlyGivenNames u1
    refine Keeps.cut (s := u1) (State.answer_keeps h) fun h2 => ?_
    clear_value u1
    exact Keeps.ite (State.dropSub_keeps h2) (State.subRelease_keeps h2)

theorem State.keepFences_keeps {z s : State} (h : Keeps z s) : Keeps z (State.keepFences s) := by
  unfold State.keepFences
  exact Keeps.upd h rfl rfl id id rfl

theorem State.settlePrompt_keeps {z s : State} (h : Keeps z s) : Keeps z (State.settlePrompt s) := by
  unfold State.settlePrompt
  extract_lets +onlyGivenNames u1
  refine Keeps.cut (s := u1) (Keeps.foldl h (fun x3 x4 h5 => State.endSub_keeps h5)) fun h2 => ?_
  clear_value u1
  extract_lets +onlyGivenNames u6
  clear_value u6
  exact Keeps.foldl (State.keepFences_keeps h2) (fun x7 x8 h9 => State.answer_keeps h9)

theorem State.subLayer_keeps {z s : State} {a1} (h : Keeps z s) : Keeps z (State.subLayer s a1) := by
  unfold State.subLayer
  extract_lets +onlyGivenNames u1
  clear_value u1
  extract_lets +onlyGivenNames u2
  have h3 : ∀ y0, Keeps z y0 → Keeps z (u2 y0) := by
    exact fun x4 h5 => State.startPrefill_keeps (State.settlePrompt_keeps (State.setSlot_keeps h5))
  clear_value u2
  split
  · exact h
  · split
    · exact h3 _ h
    · apply Keeps.ite
      · exact h3 _ h
      · extract_lets +onlyGivenNames u6
        refine Keeps.cut (s := u6) (State.setSub_keeps h) fun h7 => ?_
        clear_value u6
        split
        · exact State.setSlot_keeps h7
        · exact h3 _ (State.setSub_keeps (State.useFree_keeps h7))

theorem State.listWritten_keeps {z s : State} {a1} {a2} (h : Keeps z s) : Keeps z (State.listWritten s a1 a2) := by
  unfold State.listWritten
  extract_lets +onlyGivenNames u1
  clear_value u1
  extract_lets +onlyGivenNames u2
  refine Keeps.cut (s := u2) (State.closeTag_keeps h) fun h3 => ?_
  clear_value u2
  split
  · extract_lets +onlyGivenNames u4
    refine Keeps.cut (s := u4) (State.dropAlloc_keeps h3) fun h5 => ?_
    clear_value u4
    apply Keeps.ite
    · extract_lets +onlyGivenNames u6
      have h7 : Keeps z u6 := by
        unfold u6
        split
        · exact Keeps.foldl h5 (fun x8 x9 h10 => State.releasePage_keeps h10)
        · exact h5
      clear_value u6
      exact State.pageRsp_keeps h7
    · extract_lets +onlyGivenNames u11
      clear_value u11
      exact Keeps.ite (State.pageRsp_keeps h5) (State.putAlloc_keeps h5)
  · split
    · exact h3
    · exact Keeps.ite h3 (Keeps.ite (State.subRelease_keeps (State.ackPrefill_keeps (State.setSub_keeps h3))) (Keeps.ite (State.setSub_keeps h3) (State.startPrefill_keeps (State.settlePrompt_keeps (State.ackPrefill_keeps (State.takeSub_keeps h3))))))

theorem State.prefillCancelIn_keeps {z s : State} {a1} (h : Keeps z s) : Keeps z (State.prefillCancelIn s a1) := by
  unfold State.prefillCancelIn
  extract_lets +onlyGivenNames u1
  clear_value u1
  split
  · exact h
  · exact State.settlePrompt_keeps (State.setSub_keeps h)

theorem State.fenceIn_keeps {z s : State} {a1} (h : Keeps z s) : Keeps z (State.fenceIn s a1) := by
  unfold State.fenceIn
  exact State.settlePrompt_keeps (Keeps.upd h rfl rfl id id rfl)

theorem State.subRsp_keeps {z s : State} {a1} (h : Keeps z s) : Keeps z (State.subRsp s a1) := by
  unfold State.subRsp
  split
  · exact Keeps.ite (State.subAlloc_keeps h) (State.dropSub_keeps h)
  · exact h

theorem State.allocMore_keeps {z s : State} {a1} (h : Keeps z s) : Keeps z (State.allocMore s a1) := by
  unfold State.allocMore
  split
  · exact h
  · apply Keeps.ite
    · exact h
    · split
      rename_i x1 s2 x3 x4
      have h5 : Keeps z s2 := Keeps.pair (State.allocRest_keeps h) x4
      exact Keeps.ite h5 (State.modEntry_keeps h5)

theorem State.pageRspIn_keeps {z s : State} {a1} (h : Keeps z s) : Keeps z (State.pageRspIn s a1) := by
  unfold State.pageRspIn
  split
  · exact State.subRsp_keeps h
  · split
    · exact State.subRsp_keeps h
    · extract_lets +onlyGivenNames u1
      clear_value u1
      extract_lets +onlyGivenNames u2
      refine Keeps.cut (s := u2) (State.allocMore_keeps (State.setEntry_keeps h)) fun h3 => ?_
      clear_value u2
      exact Keeps.ite (State.admitPages_keeps h3) (Keeps.ite (State.releaseMain_keeps h3) (Keeps.ite (State.toDone_keeps h3) h3))

theorem execPrefill_keeps {z s t : State} {a0} (h : Keeps z s) (e : execPrefill a0 s = .next t) : Keeps z t := by
  unfold execPrefill at e
  injection e with e
  subst e
  exact State.choices_keeps (State.prefillIn_keeps h)

theorem execPrefillAck_keeps {z s t : State} {a0} (h : Keeps z s) (e : execPrefillAck a0 s = .next t) : Keeps z t := by
  unfold execPrefillAck at e
  injection e with e
  subst e
  exact State.choices_keeps (State.prefillAckIn_keeps h)

theorem execPrefillDone_keeps {z s t : State} {a0} (h : Keeps z s) (e : execPrefillDone a0 s = .next t) : Keeps z t := by
  unfold execPrefillDone at e
  injection e with e
  subst e
  exact State.choices_keeps (State.prefillDoneIn_keeps h)

theorem execPrefillCancel_keeps {z s t : State} {a0} (h : Keeps z s) (e : execPrefillCancel a0 s = .next t) : Keeps z t := by
  unfold execPrefillCancel at e
  injection e with e
  subst e
  exact State.choices_keeps (State.prefillCancelIn_keeps h)

theorem execPrefillTimeout_keeps {z s t : State} {a0} (h : Keeps z s) (e : execPrefillTimeout a0 s = .next t) : Keeps z t := by
  unfold execPrefillTimeout at e
  injection e with e
  subst e
  exact State.choices_keeps (State.prefillTimeout_keeps h)

theorem execPageOp_keeps {z s t : State} {a0} (h : Keeps z s) (e : execPageOp a0 s = .next t) : Keeps z t := by
  unfold execPageOp at e
  injection e with e
  subst e
  exact State.choices_keeps (State.pageOpIn_keeps h)

theorem execPageRsp_keeps {z s t : State} {a0} (h : Keeps z s) (e : execPageRsp a0 s = .next t) : Keeps z t := by
  unfold execPageRsp at e
  injection e with e
  subst e
  exact State.choices_keeps (State.pageRspIn_keeps h)

theorem execLayerAck_keeps {z s t : State} {a0} (h : Keeps z s) (e : execLayerAck a0 s = .next t) : Keeps z t := by
  unfold execLayerAck at e
  injection e with e
  subst e
  exact State.choices_keeps (State.layerAckIn_keeps h)

theorem execHandoverRsp_keeps {z s t : State} {a0} (h : Keeps z s) (e : execHandoverRsp a0 s = .next t) : Keeps z t := by
  unfold execHandoverRsp at e
  injection e with e
  subst e
  exact State.choices_keeps (State.handoverRspIn_keeps h)

theorem execHandoverTimeout_keeps {z s t : State} {a0} (h : Keeps z s) (e : execHandoverTimeout a0 s = .next t) : Keeps z t := by
  unfold execHandoverTimeout at e
  injection e with e
  subst e
  exact State.choices_keeps (State.handoverTimeout_keeps h)

theorem execFence_keeps {z s t : State} {a0} (h : Keeps z s) (e : execFence a0 s = .next t) : Keeps z t := by
  unfold execFence at e
  injection e with e
  subst e
  exact State.choices_keeps (State.fenceIn_keeps h)

end Sys2Proof.Machine
end

