-- ==== Sys2Proof/Laws/KeepLedgerStep.lean ====
section
/-!
SUPPORT. The operations of LedgerStep keep the queue and the canonical memories.
-/

namespace Sys2Proof.Machine

theorem State.drain_keeps {z s : State} {a1} {a2} (h : Keeps z s) : Keeps z (State.drain s a1 a2) := by
  unfold State.drain
  split
  · exact h
  · extract_lets +onlyGivenNames u1
    refine Keeps.cut (s := u1) (State.endGroup_keeps h) fun h2 => ?_
    clear_value u1
    extract_lets +onlyGivenNames u3
    refine Keeps.cut (s := u3) (State.releaseAll_keeps (State.toSt_keeps (State.setEntry_keeps h2))) fun h4 => ?_
    clear_value u3
    split
    · exact Keeps.ite (State.toDone_keeps h4) h4
    · exact h4

theorem State.emit_keeps {z s : State} {a1} {a2} {a3} (h : Keeps z s) : Keeps z (State.emit s a1 a2 a3) := by
  unfold State.emit
  split
  · exact h
  · extract_lets +onlyGivenNames u1
    refine Keeps.cut (s := u1) (State.setEntry_keeps h) fun h2 => ?_
    clear_value u1
    exact Keeps.ite h2 (State.clientEvent_keeps h2)

theorem State.stepEntry_keeps {z s : State} {a1} {a2} (h : Keeps z s) : Keeps z (State.stepEntry s a1 a2).1 := by
  unfold State.stepEntry
  split
  · exact h
  · extract_lets +onlyGivenNames u1
    clear_value u1
    split
    · dsimp -zeta only
      exact State.drain_keeps h
    · extract_lets +onlyGivenNames u2
      clear_value u2
      extract_lets +onlyGivenNames u3
      refine Keeps.cut (s := u3) (State.setEntry_keeps h) fun h4 => ?_
      clear_value u3
      extract_lets +onlyGivenNames u5
      clear_value u5
      split
      rename_i x6 s7 x8 x9 x10
      have h22 : Keeps z s7 := by
        refine Keeps.pair ?_ x10
        split
        · exact h4
        · split
          · split
            rename_i x11 s12 x13 x14
            have h15 : Keeps z s12 := Keeps.pair (State.tokens_keeps h4) x14
            exact h15
          · split
            rename_i x16 s17 x18 x19
            have h20 : Keeps z s17 := Keeps.pair (State.tokens_keeps h4) x19
            extract_lets +onlyGivenNames u21
            clear_value u21
            exact h20
      extract_lets +onlyGivenNames u23
      clear_value u23
      extract_lets +onlyGivenNames u24
      refine Keeps.cut (s := u24) (State.emit_keeps h22) fun h25 => ?_
      clear_value u24
      split
      · exact h25
      · extract_lets +onlyGivenNames u26
        clear_value u26
        split
        · dsimp -zeta only
          exact State.drain_keeps h25
        · split
          · exact h25
          · split
            rename_i x27 s28 x29 x30
            have h31 : Keeps z s28 := Keeps.pair (State.tokens_keeps h25) x30
            dsimp -zeta only
            exact State.modEntry_keeps h31

theorem State.passEntry_keeps {z s : State} {a1} (h : Keeps z s) : Keeps z (State.passEntry s a1).1 := by
  unfold State.passEntry
  split
  · exact h
  · split
    · dsimp -zeta only
      exact State.toDone_keeps (State.releaseAll_keeps (State.setEntry_keeps h))
    · split
      rename_i x1 s2 x3 x4
      have h5 : Keeps z s2 := Keeps.pair (State.token_keeps h) x4
      dsimp -zeta only
      exact State.toSt_keeps (State.firstToken_keeps h5)

theorem State.switchEntry_keeps {z s : State} {a1} {a2} {a3} (h : Keeps z s) : Keeps z (State.switchEntry s a1 a2 a3).1 := by
  unfold State.switchEntry
  split
  · exact h
  · extract_lets +onlyGivenNames u1
    clear_value u1
    extract_lets +onlyGivenNames u2
    clear_value u2
    extract_lets +onlyGivenNames u3
    refine Keeps.cut (s := u3) (State.releaseMain_keeps (State.emit_keeps (State.setEntry_keeps h))) fun h4 => ?_
    clear_value u3
    extract_lets +onlyGivenNames u5
    refine Keeps.cut (s := u5) (State.count_keeps h4) fun h6 => ?_
    clear_value u5
    extract_lets +onlyGivenNames u7
    refine Keeps.cut (s := u7) (State.clientEvent_keeps h6) fun h8 => ?_
    clear_value u7
    extract_lets +onlyGivenNames u9
    clear_value u9
    extract_lets +onlyGivenNames u10
    clear_value u10
    dsimp -zeta only
    exact Keeps.ite h8 (State.drain_keeps h8)

theorem State.lastOrders_keeps {z s : State} {a1} {a2} {a3} (h : Keeps z s) : Keeps z (State.lastOrders s a1 a2 a3).1 := by
  unfold State.lastOrders
  split
  · exact h
  · split
    · exact h
    · split
      · exact h
      · extract_lets +onlyGivenNames u1
        refine Keeps.cut (s := u1) (State.setEntry_keeps h) fun h2 => ?_
        clear_value u1
        split
        · split
          rename_i x3 s4 x5 x6
          have h7 : Keeps z s4 := Keeps.pair (State.switchEntry_keeps h2) x6
          exact h7
        · exact h2

theorem State.shrinkEntry_keeps {z s : State} {a1} {a2} {a3} (h : Keeps z s) : Keeps z (State.shrinkEntry s a1 a2 a3).1 := by
  unfold State.shrinkEntry
  split
  · exact h
  · extract_lets +onlyGivenNames u1
    clear_value u1
    extract_lets +onlyGivenNames u2
    clear_value u2
    extract_lets +onlyGivenNames u3
    clear_value u3
    extract_lets +onlyGivenNames u4
    clear_value u4
    extract_lets +onlyGivenNames u5
    refine Keeps.cut (s := u5) (State.setEntry_keeps h) fun h6 => ?_
    clear_value u5
    extract_lets +onlyGivenNames u7
    refine Keeps.cut (s := u7) (Keeps.foldl h6 (fun x8 x9 h10 => State.lsend_keeps h10)) fun h11 => ?_
    clear_value u7
    extract_lets +onlyGivenNames u12
    refine Keeps.cut (s := u12) (State.endGroup_keeps h11) fun h13 => ?_
    clear_value u12
    extract_lets +onlyGivenNames u14
    refine Keeps.cut (s := u14) (State.error_keeps h13) fun h15 => ?_
    clear_value u14
    extract_lets +onlyGivenNames u16
    clear_value u16
    exact h15

theorem State.shrinkSlot_keeps {z s : State} {a1} (h : Keeps z s) : Keeps z (State.shrinkSlot s a1).1 := by -- by hand
  unfold State.shrinkSlot
  split
  · exact h
  · extract_lets +onlyGivenNames u1
    clear_value u1
    split
    · exact State.orphanEntry_keeps (State.wr_keeps (State.modSlot_keeps h))
    split
    rename_i x2 s3 x4 x5
    have h16 : Keeps z s3 := by
      refine Keeps.pair ?_ x5
      apply Keeps.foldlPair
      · exact h
      · intro x6 x7 x8 h9 x10
        subst x10
        split
        rename_i x11 s12 x13 x14
        have h15 : Keeps z s12 := Keeps.pair (State.shrinkEntry_keeps h9) x14
        exact h15
    extract_lets +onlyGivenNames u17
    refine Keeps.cut (s := u17) (State.wr_keeps (State.modSlot_keeps h16)) fun h18 => ?_
    clear_value u17
    exact h18

theorem State.stragglers_keeps {z s : State} {a1} {a2} (h : Keeps z s) : Keeps z (State.stragglers s a1 a2) := by
  unfold State.stragglers
  extract_lets +onlyGivenNames u1
  clear_value u1
  extract_lets +onlyGivenNames u2
  clear_value u2
  extract_lets +onlyGivenNames u3
  clear_value u3
  extract_lets +onlyGivenNames u4
  clear_value u4
  extract_lets +onlyGivenNames u5
  refine Keeps.cut (s := u5) (Keeps.ite h (State.wr_keeps (State.wr_keeps h))) fun h6 => ?_
  clear_value u5
  extract_lets +onlyGivenNames u7
  clear_value u7
  extract_lets +onlyGivenNames u8
  clear_value u8
  extract_lets +onlyGivenNames u9
  clear_value u9
  extract_lets +onlyGivenNames u10
  clear_value u10
  extract_lets +onlyGivenNames u11
  clear_value u11
  extract_lets +onlyGivenNames u12
  refine Keeps.cut (s := u12) (Keeps.upd h6 rfl rfl id id rfl) fun h13 => ?_
  clear_value u12
  extract_lets +onlyGivenNames u14
  refine Keeps.cut (s := u14) (Keeps.foldl h13 (fun x15 x16 h17 => State.wr_keeps (State.error_keeps h17))) fun h18 => ?_
  clear_value u14
  extract_lets +onlyGivenNames u19
  refine Keeps.cut (s := u19) (Keeps.ite (State.wr_keeps h18) h18) fun h20 => ?_
  clear_value u19
  exact State.modSlot_keeps h20

theorem State.memberAck_keeps {z s : State} {a1} (h : Keeps z s) : Keeps z (State.memberAck s a1) := by
  unfold State.memberAck
  extract_lets +onlyGivenNames u1
  clear_value u1
  exact State.setMember_keeps (State.send_keeps h)

theorem State.memberAcks_keeps {z s : State} {a1} (h : Keeps z s) : Keeps z (State.memberAcks s a1) := by
  unfold State.memberAcks
  exact Keeps.foldl h (fun x1 x2 h3 => State.memberAck_keeps h3)

theorem mapListings_keeps {z s : State} {a0} {a2} (h : Keeps z s) (ha0 : ∀ y0 y1, Keeps z y0 → Keeps z (a0 y0 y1).1) : Keeps z (mapListings a0 s a2).1 := by
  induction a2 generalizing s with
  | nil =>
    unfold mapListings
    exact h
  | cons b r ih =>
    unfold mapListings
    split
    rename_i x1 s2 x3 x4
    have h5 : Keeps z s2 := Keeps.pair (ha0 _ _ h) x4
    split
    rename_i x6 s7 x8 x9
    have h10 : Keeps z s7 := Keeps.pair (ih h5) x9
    exact h10

theorem State.issueStep_keeps {z s : State} {a1} {a2} {a3} (h : Keeps z s) : Keeps z (State.issueStep s a1 a2 a3) := by
  unfold State.issueStep
  extract_lets +onlyGivenNames u1
  clear_value u1
  extract_lets +onlyGivenNames u2
  clear_value u2
  exact State.modSlot_keeps (State.loadStream_keeps (State.useFree_keeps h))

theorem State.joinMember_keeps {z s : State} {a1} (h : Keeps z s) : Keeps z (State.joinMember s a1) := by
  unfold State.joinMember
  extract_lets +onlyGivenNames u1
  clear_value u1
  exact State.reduceMember_keeps (State.setMember_keeps (State.useFree_keeps h))

theorem State.reoffer_keeps {z s : State} {a1} (h : Keeps z s) : Keeps z (State.reoffer s a1) := by
  unfold State.reoffer
  exact Keeps.foldl h (fun x1 x2 h3 => State.offer_keeps (State.modEntry_keeps h3))

theorem State.endStep_keeps {z s : State} {a1} (h : Keeps z s) : Keeps z (State.endStep s a1) := by
  unfold State.endStep
  extract_lets +onlyGivenNames u1
  clear_value u1
  extract_lets +onlyGivenNames u2
  clear_value u2
  extract_lets +onlyGivenNames u3
  clear_value u3
  extract_lets +onlyGivenNames u4
  clear_value u4
  extract_lets +onlyGivenNames u5
  clear_value u5
  extract_lets +onlyGivenNames u6
  clear_value u6
  extract_lets +onlyGivenNames u7
  clear_value u7
  extract_lets +onlyGivenNames u8
  clear_value u8
  extract_lets +onlyGivenNames u9
  refine Keeps.cut (s := u9) (State.wr_keeps (State.wr_keeps (State.wr_keeps h))) fun h10 => ?_
  clear_value u9
  split
  rename_i x11 s12 x13 x14
  have h18 : Keeps z s12 := by
    refine Keeps.pair ?_ x14
    apply mapListings_keeps
    · exact h10
    · intro x15 x16 h17
      split
      · exact State.passEntry_keeps h17
      · exact State.stepEntry_keeps h17
  split
  rename_i x19 s20 x21 x22
  have h23 : Keeps z s20 := Keeps.pair (State.shrinkSlot_keeps h18) x22
  split
  rename_i x24 s25 x26 x27
  have h36 : Keeps z s25 := by
    refine Keeps.pair ?_ x27
    apply mapListings_keeps
    · exact h23
    · intro x28 x29 h30
      split
      · split
        rename_i x31 s32 x33 x34
        have h35 : Keeps z s32 := Keeps.pair (State.switchEntry_keeps h30) x34
        exact h35
      · exact h30
  extract_lets +onlyGivenNames u37
  refine Keeps.cut (s := u37) (Keeps.foldl h36 (fun x38 x39 h40 => Keeps.ite (State.switchEntry_keeps h40) h40)) fun h41 => ?_
  clear_value u37
  extract_lets +onlyGivenNames u42
  clear_value u42
  split
  rename_i x43 s44 x45 x46
  have h50 : Keeps z s44 := Keeps.pair (mapListings_keeps h41 (fun x47 x48 h49 => State.lastOrders_keeps h49)) x46
  extract_lets +onlyGivenNames u51
  refine Keeps.cut (s := u51) (State.stragglers_keeps (State.reckonSlot_keeps h50)) fun h52 => ?_
  clear_value u51
  extract_lets +onlyGivenNames u53
  clear_value u53
  extract_lets +onlyGivenNames u54
  clear_value u54
  extract_lets +onlyGivenNames u55
  clear_value u55
  extract_lets +onlyGivenNames u56
  refine Keeps.cut (s := u56) (State.setSlot_keeps h52) fun h57 => ?_
  clear_value u56
  exact State.reoffer_keeps (State.queueRecs_keeps h57)

theorem State.growFail_keeps {z s : State} {a1} (h : Keeps z s) : Keeps z (State.growFail s a1) := by
  unfold State.growFail
  split
  · exact h
  · exact Keeps.ite (State.endOutside_keeps h) (State.modSlot_keeps (State.drain_keeps h))

theorem State.grow_keeps {z s : State} {a1} {a2} (h : Keeps z s) : Keeps z (State.grow s a1 a2) := by
  unfold State.grow
  split
  · exact h
  · apply Keeps.ite
    · exact h
    · apply Keeps.ite
      · exact State.growFail_keeps h
      · split
        extract_lets +onlyGivenNames u1
        clear_value u1
        extract_lets +onlyGivenNames u2
        clear_value u2
        split
        rename_i x3 s4 x5 x6
        have h7 : Keeps z s4 := by
          refine Keeps.pair ?_ x6
          split
          · exact State.allocHere_keeps h
          · exact h
        split
        rename_i x8 s9 x10 x11
        have h12 : Keeps z s9 := by
          refine Keeps.pair ?_ x11
          split
          · exact State.allocRuns_keeps h7
          · exact h7
        exact Keeps.ite h12 (State.growFail_keeps h12)

theorem State.growBatch_keeps {z s : State} {a1} {a2} (h : Keeps z s) : Keeps z (State.growBatch s a1 a2) := by
  induction a2 generalizing s a1 with
  | zero =>
    unfold State.growBatch
    exact h
  | succ n ih =>
    unfold State.growBatch
    extract_lets +onlyGivenNames u1
    clear_value u1
    extract_lets +onlyGivenNames u2
    refine Keeps.cut (s := u2) (Keeps.foldl h (fun x3 x4 h5 => State.grow_keeps h5)) fun h6 => ?_
    clear_value u2
    exact Keeps.ite h6 (ih h6)

theorem State.sendStep_keeps {z s : State} {a1} {a2} (h : Keeps z s) : Keeps z (State.sendStep s a1 a2) := by
  unfold State.sendStep
  split
  · exact h
  · extract_lets +onlyGivenNames u1
    clear_value u1
    extract_lets +onlyGivenNames u2
    clear_value u2
    extract_lets +onlyGivenNames u3
    refine Keeps.cut (s := u3) (State.setEntry_keeps (State.useFree_keeps h)) fun h4 => ?_
    clear_value u3
    extract_lets +onlyGivenNames u5
    clear_value u5
    extract_lets +onlyGivenNames u6
    clear_value u6
    extract_lets +onlyGivenNames u7
    refine Keeps.cut (s := u7) (Keeps.foldl h4 (fun x9 x10 h11 => State.lsend_keeps h11)) fun h8 => ?_
    clear_value u7
    exact State.reduceEntry_keeps h8

theorem State.displace_keeps {z s : State} {a1} (h : Keeps z s) : Keeps z (State.displace s a1) := by
  unfold State.displace
  split
  · exact h
  · extract_lets +onlyGivenNames u1
    refine Keeps.cut (s := u1) (State.endGroup_keeps h) fun h2 => ?_
    clear_value u1
    extract_lets +onlyGivenNames u3
    refine Keeps.cut (s := u3) (State.toSt_keeps (State.setEntry_keeps h2)) fun h4 => ?_
    clear_value u3
    exact State.clientEvent_keeps h4

theorem State.listFirsts_keeps {z s : State} {a1} {a2} (h : Keeps z s) : Keeps z (State.listFirsts s a1 a2) := by
  unfold State.listFirsts
  extract_lets +onlyGivenNames u1
  clear_value u1
  extract_lets +onlyGivenNames u2
  clear_value u2
  apply Keeps.ite
  · exact h
  · extract_lets +onlyGivenNames u3
    refine Keeps.cut (s := u3) (State.setSlot_keeps h) fun h4 => ?_
    clear_value u3
    extract_lets +onlyGivenNames u5
    refine Keeps.cut (s := u5) (State.queueRecs_keeps h4) fun h6 => ?_
    clear_value u5
    exact State.flushRecs_keeps h6

theorem State.startStep_keeps {z s : State} {a1} (h : Keeps z s) : Keeps z (State.startStep s a1) := by
  unfold State.startStep
  extract_lets +onlyGivenNames u1
  clear_value u1
  apply Keeps.ite
  · exact h
  · extract_lets +onlyGivenNames u2
    refine Keeps.cut (s := u2) (State.growBatch_keeps h) fun h3 => ?_
    clear_value u2
    split
    extract_lets +onlyGivenNames u4
    clear_value u4
    apply Keeps.ite
    · exact h3
    · extract_lets +onlyGivenNames u5
      refine Keeps.cut (s := u5) (State.listFirsts_keeps h3) fun h6 => ?_
      clear_value u5
      apply Keeps.ite
      · exact h6
      · extract_lets +onlyGivenNames u7
        clear_value u7
        extract_lets +onlyGivenNames u8
        refine Keeps.cut (s := u8) (Keeps.foldl h6 (fun x10 x11 h12 => State.displace_keeps h12)) fun h9 => ?_
        clear_value u8
        extract_lets +onlyGivenNames u13
        clear_value u13
        apply Keeps.ite
        · exact State.flushEnded_keeps h9
        · extract_lets +onlyGivenNames u14
          refine Keeps.cut (s := u14) (Keeps.foldl h9 (fun x16 x17 h18 => State.toSt_keeps h18)) fun h15 => ?_
          clear_value u14
          extract_lets +onlyGivenNames u19
          refine Keeps.cut (s := u19) (Keeps.foldl h15 (fun x21 x22 h23 => State.toSt_keeps h23)) fun h20 => ?_
          clear_value u19
          extract_lets +onlyGivenNames u24
          refine Keeps.cut (s := u24) (State.modSlot_keeps h20) fun h25 => ?_
          clear_value u24
          extract_lets +onlyGivenNames u26
          refine Keeps.cut (s := u26) (State.issueStep_keeps h25) fun h27 => ?_
          clear_value u26
          extract_lets +onlyGivenNames u28
          refine Keeps.cut (s := u28) (Keeps.foldl h27 (fun x30 x31 h32 => State.sendStep_keeps h32)) fun h29 => ?_
          clear_value u28
          exact Keeps.foldl h29 (fun x33 x34 h35 => State.joinMember_keeps h35)

theorem State.dropStep_keeps {z s : State} {a1} (h : Keeps z s) : Keeps z (State.dropStep s a1) := by
  unfold State.dropStep
  exact Keeps.ite (State.modSlot_keeps h) h

theorem State.endFaulted_keeps {z s : State} {a1} (h : Keeps z s) : Keeps z (State.endFaulted s a1) := by
  unfold State.endFaulted
  exact Keeps.foldl h (fun x1 x2 h3 => State.modEntry_keeps (State.endGroup_keeps h3))

theorem State.stepRecordWrite_keeps {z s : State} {a1} (h : Keeps z s) : Keeps z (State.stepRecordWrite s a1) := by
  unfold State.stepRecordWrite
  extract_lets +onlyGivenNames u1
  refine Keeps.cut (s := u1) (State.dropStep_keeps (State.endFaulted_keeps h)) fun h2 => ?_
  clear_value u1
  extract_lets +onlyGivenNames u3
  refine Keeps.cut (s := u3) (Keeps.ite h2 (State.memberAcks_keeps h2)) fun h4 => ?_
  clear_value u3
  extract_lets +onlyGivenNames u5
  refine Keeps.cut (s := u5) (Keeps.ite (State.endStep_keeps h4) h4) fun h6 => ?_
  clear_value u5
  extract_lets +onlyGivenNames u7
  have h8 : Keeps z u7 := by
    unfold u7
    apply Keeps.ite
    · split
      rename_i x9 s10 x11 x12
      have h13 : Keeps z s10 := Keeps.pair (State.shrinkSlot_keeps h6) x12
      exact Keeps.foldl h13 (fun x14 x15 h16 => Keeps.ite (State.switchEntry_keeps h16) h16)
    · exact h6
  clear_value u7
  extract_lets +onlyGivenNames u17
  refine Keeps.cut (s := u17) (State.flushRecs_keeps h8) fun h18 => ?_
  clear_value u17
  exact Keeps.ite (State.startStep_keeps (Keeps.ite h18 (State.reoffer_keeps h18))) h18

theorem State.slotBoundary_keeps {z s : State} {a1} (h : Keeps z s) : Keeps z (State.slotBoundary s a1) := by
  unfold State.slotBoundary
  exact Keeps.ite (Keeps.ite h (State.subLayer_keeps h)) (State.stepRecordWrite_keeps h)

theorem execStepRecordWrite_keeps {z s t : State} {a0} (h : Keeps z s) (e : execStepRecordWrite a0 s = .next t) : Keeps z t := by
  unfold execStepRecordWrite at e
  injection e with e
  subst e
  exact State.choices_keeps (State.slotBoundary_keeps h)

end Sys2Proof.Machine
end

