-- ==== Sys2Proof/Laws/KeepWain.lean ====
section
/-!
SUPPORT. The operations of Wain keep the queue and the canonical memories.
-/

namespace Sys2Proof.Machine

theorem State.setStream_keeps {z s : State} {a1} {a2} (h : Keeps z s) : Keeps z (State.setStream s a1 a2) := by
  unfold State.setStream
  exact Keeps.upd h rfl rfl id id rfl

theorem State.closeStream_keeps {z s : State} {a1} (h : Keeps z s) : Keeps z (State.closeStream s a1) := by
  unfold State.closeStream
  exact State.settleEng_keeps (Keeps.upd h rfl rfl id id rfl)

theorem State.dropStreams_keeps {z s : State} {a1} {a2} (h : Keeps z s) : Keeps z (State.dropStreams s a1 a2) := by
  unfold State.dropStreams
  exact State.settleEng_keeps (Keeps.upd h rfl rfl id id rfl)

theorem State.wainFail_keeps {z s : State} {a1} {a2} {a3} {a4} (h : Keeps z s) : Keeps z (State.wainFail s a1 a2 a3 a4) := by
  unfold State.wainFail
  split
  · exact State.dropStreams_keeps h
  · apply Keeps.ite
    · exact h
    · extract_lets +onlyGivenNames u1
      refine Keeps.cut (s := u1) (State.endFar_keeps (State.dropStreams_keeps h)) fun h2 => ?_
      clear_value u1
      extract_lets +onlyGivenNames u3
      clear_value u3
      exact Keeps.ite (State.orphanLodge_keeps h2) (Keeps.ite (State.faultLodge_keeps h2) h2)

theorem State.sendBlock_keeps {z s : State} {a1} {a2} {a3} (h : Keeps z s) : Keeps z (State.sendBlock s a1 a2 a3).1 := by
  unfold State.sendBlock
  split
  · exact h
  · extract_lets +onlyGivenNames u1
    clear_value u1
    split
    · exact State.raiseUncorr_keeps h
    · extract_lets +onlyGivenNames u2
      clear_value u2
      extract_lets +onlyGivenNames u3
      clear_value u3
      split
      extract_lets +onlyGivenNames u4
      clear_value u4
      split
      extract_lets +onlyGivenNames u5
      clear_value u5
      extract_lets +onlyGivenNames u6
      refine Keeps.cut (s := u6) (State.count_keeps (State.count_keeps (State.touch_keeps h))) fun h7 => ?_
      clear_value u6
      extract_lets +onlyGivenNames u8
      refine Keeps.cut (s := u8) (State.count_keeps h7) fun h9 => ?_
      clear_value u8
      exact State.sendReq_keeps h9

theorem State.streamFail_keeps {z s : State} {a1} {a2} {a3} (h : Keeps z s) : Keeps z (State.streamFail s a1 a2 a3) := by
  unfold State.streamFail
  extract_lets +onlyGivenNames u1
  refine Keeps.cut (s := u1) (Keeps.ite (State.setBit_keeps h) (Keeps.ite (State.setBit_keeps h) h)) fun h2 => ?_
  clear_value u1
  exact Keeps.ite (State.wainFail_keeps h2) (State.closeStream_keeps h2)

theorem State.streamLost_keeps {z s : State} {a1} {a2} {a3} {a4} (h : Keeps z s) : Keeps z (State.streamLost s a1 a2 a3 a4) := by
  unfold State.streamLost
  extract_lets +onlyGivenNames u1
  refine Keeps.cut (s := u1) (State.streamFail_keeps h) fun h2 => ?_
  clear_value u1
  exact Keeps.ite h2 (State.send_keeps (State.bump_keeps h2))

theorem State.sendNext_keeps {z s : State} {a1} (h : Keeps z s) : Keeps z (State.sendNext s a1) := by
  unfold State.sendNext
  split
  · exact h
  · split
    rename_i x1 s2 x3 x4
    have h5 : Keeps z s2 := Keeps.pair (State.sendBlock_keeps h) x4
    exact Keeps.ite (State.streamLost_keeps h5) (State.setStream_keeps h5)

theorem State.setWan_keeps {z s : State} {a1} (h : Keeps z s) : Keeps z (State.setWan s a1) := by
  unfold State.setWan
  exact Keeps.upd h rfl rfl id id rfl

theorem State.pumpEngine_keeps {z s : State} {n k} (h : Keeps z s) : Keeps z (State.pumpEngine s n k) := by -- by hand
  induction k generalizing s with
  | zero =>
    unfold State.pumpEngine
    exact h
  | succ f ih =>
    unfold State.pumpEngine
    split
    · exact h
    · exact ih (State.sendNext_keeps (State.setWan_keeps h))

theorem State.pump_keeps {z s : State} {a1} (h : Keeps z s) : Keeps z (State.pump s a1) := by
  unfold State.pump
  split
  · exact State.pumpEngine_keeps h
  · exact h

theorem State.pumpAll_keeps {z s : State} (h : Keeps z s) : Keeps z (State.pumpAll s) := by
  unfold State.pumpAll
  exact Keeps.foldl h (fun x1 x2 h3 => State.pumpEngine_keeps h3)

theorem State.openStream_keeps {z s : State} {a1} {a2} (h : Keeps z s) : Keeps z (State.openStream s a1 a2) := by
  unfold State.openStream
  exact State.pump_keeps (State.setStream_keeps h)

theorem State.nak_keeps {z s : State} {a1} {a2} {a3} (h : Keeps z s) : Keeps z (State.nak s a1 a2 a3) := by
  unfold State.nak
  extract_lets +onlyGivenNames u1
  refine Keeps.cut (s := u1) (Keeps.ite (State.setBit_keeps h) h) fun h2 => ?_
  clear_value u1
  exact State.answer_keeps (State.bump_keeps h2)

theorem State.holdAck_keeps {z s : State} {a1} {a2} (h : Keeps z s) : Keeps z (State.holdAck s a1 a2) := by
  unfold State.holdAck
  exact Keeps.upd h rfl rfl id id rfl

theorem State.writeBlock_keeps {z s : State} {a1} {a2} {a3} {a4} (h : Keeps z s) : Keeps z (State.writeBlock s a1 a2 a3 a4) := by
  unfold State.writeBlock
  split
  rename_i x1 s2 x3 x4
  have h5 : Keeps z s2 := Keeps.pair (State.invalTracked_keeps (State.poke_keeps (State.chargePath_keeps h))) x4
  extract_lets +onlyGivenNames u6
  refine Keeps.cut (s := u6) (State.count_keeps h5) fun h7 => ?_
  clear_value u6
  exact Keeps.ite (State.ackBlock_keeps h7) (State.holdAck_keeps h7)

theorem State.putRecv_keeps {z s : State} {a1} {a2} (h : Keeps z s) : Keeps z (State.putRecv s a1 a2) := by
  unfold State.putRecv
  exact Keeps.upd h rfl rfl id id rfl

theorem State.holdBlock_keeps {z s : State} {a1} (h : Keeps z s) : Keeps z (State.holdBlock s a1) := by
  unfold State.holdBlock
  exact Keeps.upd h rfl rfl id id rfl

theorem State.placeBlock_keeps {z s : State} {a1} {a2} {a3} {a4} (h : Keeps z s) : Keeps z (State.placeBlock s a1 a2 a3 a4) := by
  unfold State.placeBlock
  apply Keeps.ite
  · exact State.holdBlock_keeps h
  · apply Keeps.ite
    · exact State.writeBlock_keeps h
    · split
      · exact State.writeBlock_keeps (State.putRecv_keeps h)
      · exact State.holdBlock_keeps h

theorem State.pullFail_keeps {z s : State} {a1} {a2} {a3} (h : Keeps z s) : Keeps z (State.pullFail s a1 a2 a3) := by
  unfold State.pullFail
  exact Keeps.ite (State.closePull_keeps h) (State.wainFail_keeps h)

theorem State.blockIn_keeps {z s : State} {a1} (h : Keeps z s) : Keeps z (State.blockIn s a1) := by
  unfold State.blockIn
  extract_lets +onlyGivenNames u1
  clear_value u1
  split
  · exact State.nak_keeps h
  · split
    · exact State.nak_keeps h
    · split
      apply Keeps.ite
      · extract_lets +onlyGivenNames u2
        refine Keeps.cut (s := u2) (State.nak_keeps h) fun h3 => ?_
        clear_value u2
        split
        · exact State.pullFail_keeps h3
        · exact h3
      · exact State.placeBlock_keeps h

theorem State.blockAckIn_keeps {z s : State} {a1} (h : Keeps z s) : Keeps z (State.blockAckIn s a1) := by
  unfold State.blockAckIn
  split
  · exact h
  · extract_lets +onlyGivenNames u1
    clear_value u1
    extract_lets +onlyGivenNames u2
    refine Keeps.cut (s := u2) (State.setStream_keeps h) fun h3 => ?_
    clear_value u2
    exact Keeps.ite (State.settlePrompt_keeps (State.wainDone_keeps (State.closeStream_keeps h3))) (State.settlePrompt_keeps (State.pump_keeps h3))

theorem State.blockNakIn_keeps {z s : State} {a1} (h : Keeps z s) : Keeps z (State.blockNakIn s a1) := by
  unfold State.blockNakIn
  extract_lets +onlyGivenNames u1
  refine Keeps.cut (s := u1) (State.bump_keeps h) fun h2 => ?_
  clear_value u1
  split
  · split
    · exact Keeps.ite (State.pullFail_keeps h2) h2
    · exact h2
  · apply Keeps.ite
    · exact State.streamFail_keeps h2
    · split
      · exact h2
      · apply Keeps.ite
        · exact State.streamLost_keeps h2
        · apply Keeps.ite
          · exact h2
          · split
            rename_i x3 s4 x5 x6
            have h7 : Keeps z s4 := Keeps.pair (State.sendBlock_keeps h2) x6
            exact Keeps.ite (State.streamLost_keeps h7) (State.bump_keeps (State.setStream_keeps h7))

theorem State.blockTimeout_keeps {z s : State} {a1} (h : Keeps z s) : Keeps z (State.blockTimeout s a1) := by
  unfold State.blockTimeout
  split
  · exact Keeps.ite h (State.streamFail_keeps h)
  · split
    · exact Keeps.ite (State.pullFail_keeps (State.setBit_keeps h)) h
    · exact h

theorem State.sendPull_keeps {z s : State} {a1} {a2} (h : Keeps z s) : Keeps z (State.sendPull s a1 a2) := by
  unfold State.sendPull
  split
  · exact State.setPull_keeps h
  · exact State.sendReq_keeps (State.setPull_keeps h)

theorem State.takeId_keeps {z s : State} (h : Keeps z s) : Keeps z (State.takeId s).1 := by
  unfold State.takeId
  dsimp -zeta only
  exact Keeps.upd h rfl rfl id id rfl

theorem State.wainMove_keeps {z s : State} {a1} {a2} {a3} (h : Keeps z s) : Keeps z (State.wainMove s a1 a2 a3) := by
  unfold State.wainMove
  extract_lets +onlyGivenNames u1
  clear_value u1
  extract_lets +onlyGivenNames u2
  clear_value u2
  apply Keeps.ite
  · exact h
  · apply Keeps.ite
    · extract_lets +onlyGivenNames u3
      clear_value u3
      exact Keeps.ite (State.endJob_keeps h) (State.toFence_keeps (State.touch_keeps h))
    · apply Keeps.ite
      · exact State.endJob_keeps h
      · extract_lets +onlyGivenNames u4
        refine Keeps.cut (s := u4) (State.setJob_keeps h) fun h5 => ?_
        clear_value u4
        split
        rename_i x6 s7 x8 x9
        have h10 : Keeps z s7 := Keeps.pair (State.takeId_keeps h5) x9
        exact Keeps.ite (State.openStream_keeps h10) (State.sendPull_keeps h10)

theorem State.refusePull_keeps {z s : State} {a1} {a2} (h : Keeps z s) : Keeps z (State.refusePull s a1 a2) := by
  unfold State.refusePull
  exact State.answer_keeps (State.bump_keeps h)

theorem State.pullIn_keeps {z s : State} {a1} (h : Keeps z s) : Keeps z (State.pullIn s a1) := by
  unfold State.pullIn
  extract_lets +onlyGivenNames u1
  clear_value u1
  split
  · exact State.refusePull_keeps h
  · extract_lets +onlyGivenNames u2
    clear_value u2
    extract_lets +onlyGivenNames u3
    clear_value u3
    exact Keeps.ite (State.refusePull_keeps (State.raiseUncorr_keeps h)) (State.openStream_keeps h)

theorem State.addStream_keeps {z s : State} {a1} (h : Keeps z s) : Keeps z (State.addStream s a1) := by
  unfold State.addStream
  exact State.setStream_keeps (State.takeId_keeps h)

theorem State.pushGo_keeps {z s : State} {a1} {a2} {a3} {a4} (h : Keeps z s) : Keeps z (State.pushGo s a1 a2 a3 a4) := by
  unfold State.pushGo
  extract_lets +onlyGivenNames u1
  clear_value u1
  split
  · exact State.wainFail_keeps h
  · extract_lets +onlyGivenNames u2
    clear_value u2
    extract_lets +onlyGivenNames u3
    clear_value u3
    extract_lets +onlyGivenNames u4
    clear_value u4
    extract_lets +onlyGivenNames u5
    clear_value u5
    extract_lets +onlyGivenNames u6
    clear_value u6
    apply Keeps.ite
    · exact State.endJob_keeps h
    · apply Keeps.ite
      · exact State.wainFail_keeps h
      · split
        · exact State.wainFail_keeps (State.raiseUncorr_keeps h)
        · extract_lets +onlyGivenNames u7
          clear_value u7
          extract_lets +onlyGivenNames u8
          refine Keeps.cut (s := u8) (Keeps.foldl h (fun x10 x11 h12 => State.touch_keeps h12)) fun h9 => ?_
          clear_value u8
          extract_lets +onlyGivenNames u13
          refine Keeps.cut (s := u13) (State.setJob_keeps h9) fun h14 => ?_
          clear_value u13
          extract_lets +onlyGivenNames u15
          refine Keeps.cut (s := u15) (Keeps.foldl h14 (fun x17 x18 h19 => State.addStream_keeps h19)) fun h16 => ?_
          clear_value u15
          exact State.wainDone_keeps (State.pumpAll_keeps h16)

theorem State.wainPush_keeps {z s : State} {a1} {a2} {a3} (h : Keeps z s) : Keeps z (State.wainPush s a1 a2 a3) := by
  unfold State.wainPush
  extract_lets +onlyGivenNames u1
  clear_value u1
  apply Keeps.ite
  · exact h
  · extract_lets +onlyGivenNames u2
    refine Keeps.cut (s := u2) (State.setJob_keeps h) fun h3 => ?_
    clear_value u2
    extract_lets +onlyGivenNames u4
    clear_value u4
    extract_lets +onlyGivenNames u5
    clear_value u5
    apply Keeps.ite
    · extract_lets +onlyGivenNames u6
      clear_value u6
      exact Keeps.ite (State.wainFail_keeps (State.raiseUncorr_keeps h3)) (State.pushGo_keeps h3)
    · apply Keeps.ite
      · exact State.endJob_keeps h3
      · apply Keeps.foldl
        · exact h3
        · intro x7 x8 h9
          split
          exact State.issue_keeps h9

theorem State.pushReply_keeps {z s : State} {a1} {a2} (h : Keeps z s) : Keeps z (State.pushReply s a1 a2) := by
  unfold State.pushReply
  split
  · exact h
  · split
    · exact State.closeTag_keeps h
    · extract_lets +onlyGivenNames u1
      clear_value u1
      apply Keeps.ite
      · exact State.dropReplies_keeps (State.wainFail_keeps h)
      · extract_lets +onlyGivenNames u2
        refine Keeps.cut (s := u2) (State.keepReply_keeps h) fun h3 => ?_
        clear_value u2
        apply Keeps.ite
        · extract_lets +onlyGivenNames u4
          clear_value u4
          extract_lets +onlyGivenNames u5
          clear_value u5
          extract_lets +onlyGivenNames u6
          clear_value u6
          extract_lets +onlyGivenNames u7
          refine Keeps.cut (s := u7) (State.dropReplies_keeps h3) fun h8 => ?_
          clear_value u7
          split
          · exact State.pushGo_keeps h8
          · exact h8
        · exact h3

theorem State.wainCommit_keeps {z s : State} {a1} (h : Keeps z s) : Keeps z (State.wainCommit s a1) := by
  unfold State.wainCommit
  exact Keeps.ite (State.sendReq_keeps h) h

theorem State.takeHeld_keeps {z s : State} {a1} (h : Keeps z s) : Keeps z (State.takeHeld s a1) := by
  unfold State.takeHeld
  extract_lets +onlyGivenNames u1
  clear_value u1
  exact Keeps.foldl (Keeps.upd h rfl rfl id id rfl) (fun x2 x3 h4 => State.blockIn_keeps h4)

theorem State.retakeHeld_keeps {z s : State} (h : Keeps z s) : Keeps z (State.retakeHeld s) := by
  unfold State.retakeHeld
  exact Keeps.foldl h (fun x1 x2 h3 => State.takeHeld_keeps h3)

theorem State.streamPlace_keeps {z s : State} {a1} (h : Keeps z s) : Keeps z (State.streamPlace s a1) := by
  unfold State.streamPlace
  split
  · exact Keeps.ite (State.openStream_keeps h) h
  · split
    · exact Keeps.ite (State.sendPull_keeps h) h
    · exact State.takeHeld_keeps h

theorem State.setHand_keeps {z s : State} {a1} {a2} (h : Keeps z s) : Keeps z (State.setHand s a1 a2) := by
  unfold State.setHand
  exact Keeps.upd h rfl rfl id id rfl

theorem State.sendFence_keeps {z s : State} {a1} (h : Keeps z s) : Keeps z (State.sendFence s a1) := by
  unfold State.sendFence
  exact State.send_keeps h

theorem State.handReads_keeps {z s : State} {a1} {a2} (h : Keeps z s) : Keeps z (State.handReads s a1 a2).1 := by
  unfold State.handReads
  apply Keeps.foldlPair
  · exact h
  · intro x1 x2 x3 h4 x5
    subst x5
    split
    extract_lets +onlyGivenNames u6
    clear_value u6
    split
    rename_i x7 s8 x9 x10
    have h11 : Keeps z s8 := Keeps.pair (State.ask_keeps h4) x10
    exact h11

theorem State.handoverReqIn_keeps {z s : State} {a1} (h : Keeps z s) : Keeps z (State.handoverReqIn s a1) := by -- by hand
  unfold State.handoverReqIn
  extract_lets +onlyGivenNames u1
  clear_value u1
  extract_lets +onlyGivenNames u2
  clear_value u2
  extract_lets +onlyGivenNames u3
  clear_value u3
  apply Keeps.ite
  · exact State.endHand_keeps h
  · apply Keeps.ite
    · exact State.endHand_keeps h
    · apply Keeps.ite
      · exact State.endHand_keeps h
      · split
        rename_i x4 s5 x6 x7
        have h19 : Keeps z s5 := by
          refine Keeps.pair ?_ x7
          apply Keeps.foldlPair
          · exact h
          · intro x8 x9 x10 h11 x12
            subst x12
            split
            extract_lets +onlyGivenNames u13
            clear_value u13
            split
            rename_i x14 s15 x16 x17
            have h18 : Keeps z s15 := Keeps.pair (State.ask_keeps h11) x17
            exact h18
        exact Keeps.ite (State.sendFence_keeps (State.setHand_keeps h19)) (State.setHand_keeps h19)

theorem State.handList_keeps {z s : State} {a1} {a2} (h : Keeps z s) : Keeps z (State.handList s a1 a2) := by
  unfold State.handList
  split
  · exact h
  · split
    · exact State.closeTag_keeps h
    · extract_lets +onlyGivenNames u1
      clear_value u1
      extract_lets +onlyGivenNames u2
      clear_value u2
      apply Keeps.ite
      · exact State.endHand_keeps (Keeps.upd h rfl rfl id id rfl)
      · extract_lets +onlyGivenNames u3
        refine Keeps.cut (s := u3) (State.setHand_keeps (State.keepReply_keeps h)) fun h4 => ?_
        clear_value u3
        apply Keeps.ite
        · exact h4
        · extract_lets +onlyGivenNames u5
          clear_value u5
          extract_lets +onlyGivenNames u6
          clear_value u6
          extract_lets +onlyGivenNames u7
          refine Keeps.cut (s := u7) (Keeps.upd h4 rfl rfl id id rfl) fun h8 => ?_
          clear_value u7
          extract_lets +onlyGivenNames u9
          clear_value u9
          extract_lets +onlyGivenNames u10
          clear_value u10
          split
          · exact State.endHand_keeps h8
          · exact Keeps.ite (State.endHand_keeps h8) (State.send_keeps (State.setHand_keeps h8))

theorem State.fenceAckIn_keeps {z s : State} {a1} (h : Keeps z s) : Keeps z (State.fenceAckIn s a1) := by
  unfold State.fenceAckIn
  split
  · exact h
  · exact State.setHand_keeps h

theorem State.recallPage_keeps {z s : State} {a1} {a2} {a3} {a4} (h : Keeps z s) : Keeps z (State.recallPage s a1 a2 a3 a4).1 := by
  unfold State.recallPage
  apply Keeps.foldlPair
  · exact h
  · intro x1 x2 x3 h4 x5
    subst x5
    extract_lets +onlyGivenNames u6
    split
    · exact h4
    · extract_lets +onlyGivenNames u7
      extract_lets +onlyGivenNames u8
      extract_lets +onlyGivenNames u9
      extract_lets +onlyGivenNames u10
      clear_value u10
      extract_lets +onlyGivenNames u11
      refine Keeps.cut (s := u11) (Keeps.upd h4 rfl rfl id id rfl) fun h12 => ?_
      clear_value u11
      split
      rename_i x13 s14 x15 x16
      have h27 : Keeps z s14 := by
        refine Keeps.pair ?_ x16
        apply Keeps.foldlPair
        · dsimp -zeta only
          exact State.bump_keeps h12
        · intro x17 x18 x19 h20 x21
          subst x21
          split
          rename_i x22 s23 x24 x25
          have h26 : Keeps z s23 := Keeps.pair (State.tell_keeps h20) x25
          exact h26
      dsimp -zeta only
      exact Keeps.upd h27 rfl rfl id id rfl

theorem State.newOwner_keeps {z s : State} {a1} {a2} (h : Keeps z s) : Keeps z (State.newOwner s a1 a2) := by
  unfold State.newOwner
  exact Keeps.foldl h (fun x1 x2 h3 => State.setHdr_keeps h3)

theorem State.recallPages_keeps {z s : State} {a1} {a2} (h : Keeps z s) : Keeps z (State.recallPages s a1 a2).1 := by
  unfold State.recallPages
  apply Keeps.foldlPair
  · exact h
  · intro x1 x2 x3 h4 x5
    subst x5
    split
    rename_i x6 s7 x8 x9
    have h10 : Keeps z s7 := Keeps.pair (State.recallPage_keeps h4) x9
    exact h10

theorem State.ownerMoved_keeps {z s : State} {a1} {a2} {a3} (h : Keeps z s) : Keeps z (State.ownerMoved s a1 a2 a3) := by
  unfold State.ownerMoved
  exact Keeps.ite (State.endHand_keeps h) (State.setHand_keeps h)

theorem State.moveOwner_keeps {z s : State} {a1} {a2} {a3} (h : Keeps z s) : Keeps z (State.moveOwner s a1 a2 a3) := by
  unfold State.moveOwner
  extract_lets +onlyGivenNames u1
  clear_value u1
  apply Keeps.ite
  · exact State.endHand_keeps h
  · apply Keeps.ite
    · exact State.endHand_keeps h
    · split
      rename_i x2 s3 x4 x5
      have h6 : Keeps z s3 := Keeps.pair (State.recallPages_keeps (State.newOwner_keeps h)) x5
      exact State.ownerMoved_keeps h6

theorem State.ownershipChange_keeps {z s : State} {a1} (h : Keeps z s) : Keeps z (State.ownershipChange s a1) := by
  unfold State.ownershipChange
  split
  · exact h
  · apply Keeps.ite
    · exact h
    · split
      · exact State.endHand_keeps h
      · exact State.moveOwner_keeps h

theorem State.fenceTimeout_keeps {z s : State} {a1} (h : Keeps z s) : Keeps z (State.fenceTimeout s a1) := by
  unfold State.fenceTimeout
  split
  · exact h
  · exact Keeps.ite h (State.endHand_keeps h)

theorem execWainMove_keeps {z s t : State} {a0} {a1} (h : Keeps z s) (e : execWainMove a0 a1 s = .next t) : Keeps z t := by
  unfold execWainMove at e
  injection e with e
  subst e
  exact State.choices_keeps (State.runSlot_keeps h (fun x1 x2 h3 => State.wainMove_keeps (State.setJob_keeps h3)))

theorem execWainPushKv_keeps {z s t : State} {a0} {a1} (h : Keeps z s) (e : execWainPushKv a0 a1 s = .next t) : Keeps z t := by
  unfold execWainPushKv at e
  injection e with e
  subst e
  exact State.choices_keeps (State.runSlot_keeps h (fun x1 x2 h3 => State.wainPush_keeps (State.setJob_keeps h3)))

theorem execWainBlock_keeps {z s t : State} {a0} (h : Keeps z s) (e : execWainBlock a0 s = .next t) : Keeps z t := by
  unfold execWainBlock at e
  injection e with e
  subst e
  exact State.choices_keeps (State.blockIn_keeps h)

theorem execBlockAck_keeps {z s t : State} {a0} (h : Keeps z s) (e : execBlockAck a0 s = .next t) : Keeps z t := by
  unfold execBlockAck at e
  injection e with e
  subst e
  exact State.choices_keeps (State.blockAckIn_keeps h)

theorem execBlockNak_keeps {z s t : State} {a0} (h : Keeps z s) (e : execBlockNak a0 s = .next t) : Keeps z t := by
  unfold execBlockNak at e
  injection e with e
  subst e
  exact State.choices_keeps (State.blockNakIn_keeps h)

theorem execBlockTimeout_keeps {z s t : State} {a0} (h : Keeps z s) (e : execBlockTimeout a0 s = .next t) : Keeps z t := by
  unfold execBlockTimeout at e
  injection e with e
  subst e
  exact State.choices_keeps (State.blockTimeout_keeps h)

theorem execStreamPlace_keeps {z s t : State} {a0} (h : Keeps z s) (e : execStreamPlace a0 s = .next t) : Keeps z t := by
  unfold execStreamPlace at e
  injection e with e
  subst e
  exact State.streamPlace_keeps h

theorem execHandoverReq_keeps {z s t : State} {a0} (h : Keeps z s) (e : execHandoverReq a0 s = .next t) : Keeps z t := by
  unfold execHandoverReq at e
  injection e with e
  subst e
  exact State.choices_keeps (State.handoverReqIn_keeps h)

theorem execFenceAck_keeps {z s t : State} {a0} (h : Keeps z s) (e : execFenceAck a0 s = .next t) : Keeps z t := by
  unfold execFenceAck at e
  injection e with e
  subst e
  exact State.choices_keeps (State.fenceAckIn_keeps h)

theorem execOwnershipChange_keeps {z s t : State} {a0} {a1} (h : Keeps z s) (e : execOwnershipChange a0 a1 s = .next t) : Keeps z t := by
  unfold execOwnershipChange at e
  injection e with e
  subst e
  exact State.choices_keeps (State.ownershipChange_keeps h)

theorem execFenceTimeout_keeps {z s t : State} {a0} {a1} (h : Keeps z s) (e : execFenceTimeout a0 a1 s = .next t) : Keeps z t := by
  unfold execFenceTimeout at e
  injection e with e
  subst e
  exact State.choices_keeps (State.fenceTimeout_keeps h)

theorem execPull_keeps {z s t : State} {a0} (h : Keeps z s) (e : execPull a0 s = .next t) : Keeps z t := by
  unfold execPull at e
  injection e with e
  subst e
  exact State.choices_keeps (State.pullIn_keeps h)

end Sys2Proof.Machine
end

