-- ==== Sys2Proof/Laws/KeepReplies.lean ====
section
/-!
SUPPORT. The operations of Replies keep the queue and the canonical memories.
-/

namespace Sys2Proof.Machine

theorem State.readReply_keeps {z s : State} {a1} (h : Keeps z s) : Keeps z (State.readReply s a1) := by
  unfold State.readReply
  split
  · exact State.pageListRead_keeps h
  · exact State.handList_keeps h
  · exact State.pushReply_keeps h
  · exact State.spReadRspIn_keeps h

theorem State.ackReply_keeps {z s : State} {a1} (h : Keeps z s) : Keeps z (State.ackReply s a1) := by
  unfold State.ackReply
  split
  · exact State.listWritten_keeps h
  · exact State.spAckIn_keeps h

theorem State.countTimeout_keeps {z s : State} (h : Keeps z s) : Keeps z (State.countTimeout s) := by
  unfold State.countTimeout
  exact State.setBit_keeps (State.bump_keeps h)

theorem State.noReply_keeps {z s : State} {a1} (h : Keeps z s) : Keeps z (State.noReply s a1) := by
  unfold State.noReply
  split
  · exact h
  · apply Keeps.ite
    · exact h
    · split
      · exact State.pageListRead_keeps (State.countTimeout_keeps h)
      · exact State.listWritten_keeps (State.countTimeout_keeps h)
      · extract_lets +onlyGivenNames u1
        refine Keeps.cut (s := u1) (State.closeTag_keeps (State.countTimeout_keeps h)) fun h2 => ?_
        clear_value u1
        split
        · exact State.endHand_keeps h2
        · exact h2
      · extract_lets +onlyGivenNames u3
        clear_value u3
        extract_lets +onlyGivenNames u4
        refine Keeps.cut (s := u4) (State.closeTag_keeps (State.countTimeout_keeps h)) fun h5 => ?_
        clear_value u4
        exact Keeps.ite (State.dropReplies_keeps (State.wainFail_keeps h5)) h5
      · exact State.spanTimeout_keeps h

theorem execSpReadRsp_keeps {z s t : State} {a0} (h : Keeps z s) (e : execSpReadRsp a0 s = .next t) : Keeps z t := by
  unfold execSpReadRsp at e
  injection e with e
  subst e
  exact State.choices_keeps (State.readReply_keeps h)

theorem execSpAck_keeps {z s t : State} {a0} (h : Keeps z s) (e : execSpAck a0 s = .next t) : Keeps z t := by
  unfold execSpAck at e
  injection e with e
  subst e
  exact State.choices_keeps (State.ackReply_keeps h)

theorem execSpanTimeout_keeps {z s t : State} {a0} (h : Keeps z s) (e : execSpanTimeout a0 s = .next t) : Keeps z t := by
  unfold execSpanTimeout at e
  injection e with e
  subst e
  exact State.choices_keeps (State.noReply_keeps h)

theorem execAttRsp_keeps {z s t : State} {a0} (h : Keeps z s) (e : execAttRsp a0 s = .next t) : Keeps z t := by
  unfold execAttRsp at e
  injection e with e
  subst e
  exact State.choices_keeps (State.settlePrompt_keeps (State.attReply_keeps h))

end Sys2Proof.Machine
end

