-- ==== Sys2Proof/Laws/KeepEmbed.lean ====
section
/-!
SUPPORT. The operations of Embed keep the queue and the canonical memories.
-/

namespace Sys2Proof.Machine

theorem State.queueProm_keeps {z s : State} {a1} (h : Keeps z s) : Keeps z (State.queueProm s a1) := by
  unfold State.queueProm
  exact Keeps.ite (Keeps.upd h rfl rfl id id rfl) (State.bump_keeps h)

theorem State.fetchRow_keeps {z s : State} {a1} {a2} {a3} (h : Keeps z s) : Keeps z (State.fetchRow s a1 a2 a3) := by
  unfold State.fetchRow
  extract_lets +onlyGivenNames u1
  clear_value u1
  apply Keeps.ite
  · exact h
  · extract_lets +onlyGivenNames u2
    clear_value u2
    split
    extract_lets +onlyGivenNames u3
    clear_value u3
    exact Keeps.ite h (Keeps.ite (State.embPromote_keeps h) (State.queueProm_keeps h))

theorem State.embFetch_keeps {z s : State} {a1} {a2} {a3} (h : Keeps z s) : Keeps z (State.embFetch s a1 a2 a3) := by
  unfold State.embFetch
  exact Keeps.foldl h (fun x1 x2 h3 => State.fetchRow_keeps h3)

theorem State.noteFlags_keeps {z s : State} {a1} {a2} (h : Keeps z s) : Keeps z (State.noteFlags s a1 a2) := by
  unfold State.noteFlags
  split
  · exact State.setJob_keeps h
  · exact h

theorem State.embUncorr_keeps {z s : State} {a1} {a2} {a3} (h : Keeps z s) : Keeps z (State.embUncorr s a1 a2 a3) := by
  unfold State.embUncorr
  exact Keeps.ite (State.raiseUncorr_keeps (State.setBit_keeps h)) h

theorem State.embServe_keeps {z s : State} {a1} {a2} (h : Keeps z s) : Keeps z (State.embServe s a1 a2).1 := by
  unfold State.embServe
  split
  · exact h
  · extract_lets +onlyGivenNames u1
    clear_value u1
    extract_lets +onlyGivenNames u2
    refine Keeps.cut (s := u2) (Keeps.ite h (State.count_keeps h)) fun h3 => ?_
    clear_value u2
    split
    · exact Keeps.ite (State.embFetch_keeps h3) h3
    · split
      · extract_lets +onlyGivenNames u4
        refine Keeps.cut (s := u4) (State.touchReads_keeps h3) fun h5 => ?_
        clear_value u4
        exact State.embUncorr_keeps h5
      · extract_lets +onlyGivenNames u6
        refine Keeps.cut (s := u6) (State.count_keeps (State.touchReads_keeps h3)) fun h7 => ?_
        clear_value u6
        exact Keeps.ite (State.noteFlags_keeps h7) h7

theorem State.embGrant_keeps {z s : State} {a1} {a2} (h : Keeps z s) : Keeps z (State.embGrant s a1 a2).1 := by
  unfold State.embGrant
  extract_lets +onlyGivenNames u1
  have h2 : Keeps z u1.1 := State.grantAll_keeps h
  clear_value u1
  extract_lets +onlyGivenNames u3
  have h4 : Keeps z u3.1 := State.grantAll_keeps h2
  clear_value u3
  extract_lets +onlyGivenNames u5
  have h6 : Keeps z u5.1 := State.grantAll_keeps h4
  clear_value u5
  exact h6

theorem State.embTry_keeps {z s : State} {a1} (h : Keeps z s) : Keeps z (State.embTry s a1).1 := by -- by hand
  unfold State.embTry
  split
  · exact h
  · extract_lets +onlyGivenNames u1
    clear_value u1
    split
    · exact h
    · extract_lets +onlyGivenNames u2
      have h3 : Keeps z u2.1 := State.embGrant_keeps h
      clear_value u2
      split
      · exact State.embServe_keeps h3
      · exact h3

theorem State.flipRow_keeps {z s : State} {a1} {a2} {a3} {a4} (h : Keeps z s) : Keeps z (State.flipRow s a1 a2 a3 a4) := by
  unfold State.flipRow
  extract_lets +onlyGivenNames u1
  clear_value u1
  extract_lets +onlyGivenNames u2
  clear_value u2
  extract_lets +onlyGivenNames u3
  clear_value u3
  split
  · exact h
  · extract_lets +onlyGivenNames u4
    clear_value u4
    extract_lets +onlyGivenNames u5
    clear_value u5
    extract_lets +onlyGivenNames u6
    refine Keeps.cut (s := u6) (State.poke_keeps h) fun h7 => ?_
    clear_value u6
    extract_lets +onlyGivenNames u8
    extract_lets +onlyGivenNames u9
    clear_value u9
    extract_lets +onlyGivenNames u10
    clear_value u10
    extract_lets +onlyGivenNames u11
    clear_value u11
    extract_lets +onlyGivenNames u12
    clear_value u12
    extract_lets +onlyGivenNames u13
    clear_value u13
    extract_lets +onlyGivenNames u14
    clear_value u14
    extract_lets +onlyGivenNames u15
    refine Keeps.cut (s := u15) (State.poke_keeps (State.invalTracked_keeps h7)) fun h16 => ?_
    clear_value u15
    exact State.count_keeps (State.invalTracked_keeps h16)

theorem State.badIndex_keeps {z s : State} {a1} {a2} {a3} (h : Keeps z s) : Keeps z (State.badIndex s a1 a2 a3) := by
  unfold State.badIndex
  split
  · exact h
  · extract_lets +onlyGivenNames u1
    refine Keeps.cut (s := u1) (State.finish_keeps (State.releaseJob_keeps (State.dropJob_keeps h))) fun h2 => ?_
    clear_value u1
    exact State.setBit_keeps (State.bump_keeps h2)

theorem State.embFinish_keeps {z s : State} {a1} {a2} {a3} (h : Keeps z s) : Keeps z (State.embFinish s a1 a2 a3) := by
  unfold State.embFinish
  extract_lets +onlyGivenNames u1
  clear_value u1
  extract_lets +onlyGivenNames u2
  clear_value u2
  extract_lets +onlyGivenNames u3
  refine Keeps.cut (s := u3) (State.dropReplies_keeps h) fun h4 => ?_
  clear_value u3
  apply Keeps.ite
  · exact State.badIndex_keeps h4
  · apply Keeps.ite
    · exact State.toFence_keeps h4
    · apply Keeps.ite
      · exact State.toFence_keeps h4
      · split
        · exact State.endFar_keeps h4
        · extract_lets +onlyGivenNames u5
          clear_value u5
          extract_lets +onlyGivenNames u6
          clear_value u6
          extract_lets +onlyGivenNames u7
          clear_value u7
          extract_lets +onlyGivenNames u8
          clear_value u8
          extract_lets +onlyGivenNames u9
          clear_value u9
          extract_lets +onlyGivenNames u10
          clear_value u10
          exact State.endRun_keeps h4

theorem State.embReply_keeps {z s : State} {a1} {a2} (h : Keeps z s) : Keeps z (State.embReply s a1 a2) := by
  unfold State.embReply
  split
  · exact h
  · apply Keeps.ite
    · exact h
    · split
      · exact State.closeTag_keeps h
      · split
        extract_lets +onlyGivenNames u1
        clear_value u1
        apply Keeps.ite
        · extract_lets +onlyGivenNames u2
          refine Keeps.cut (s := u2) (Keeps.ite (State.setBit_keeps h) h) fun h3 => ?_
          clear_value u2
          exact State.dropReplies_keeps (State.endFarFault_keeps (State.closeTag_keeps h3))
        · extract_lets +onlyGivenNames u4
          refine Keeps.cut (s := u4) (State.keepReply_keeps h) fun h5 => ?_
          clear_value u4
          split
          · exact Keeps.ite (State.embFinish_keeps h5) h5
          · exact h5

theorem State.embDeliver_keeps {z s : State} {a1} {a2} {a3} (h : Keeps z s) : Keeps z (State.embDeliver s a1 a2 a3) := by
  unfold State.embDeliver
  exact Keeps.ite (State.embReply_keeps h) (State.send_keeps h)

theorem State.embDrain_keeps {z s : State} {a1} {a2} (h : Keeps z s) : Keeps z (State.embDrain s a1 a2) := by -- by hand
  induction a1 generalizing s a2 with
  | nil =>
    unfold State.embDrain
    exact Keeps.upd h rfl rfl id id rfl
  | cons b r ih =>
    unfold State.embDrain
    apply Keeps.ite
    · exact ih h
    · apply Keeps.ite
      · have e1 := State.embTry_keeps (a1 := b) h
        split
        · rename_i x1 s2 x3 x4 x5
          rw [x5] at e1
          exact ih (State.embDeliver_keeps e1)
        · rename_i x1 s2 x3 x4
          rw [x4] at e1
          exact ih e1
      · split
        · exact ih (State.embDeliver_keeps h)
        · split
          extract_lets +onlyGivenNames u6
          clear_value u6
          extract_lets +onlyGivenNames u7
          refine Keeps.cut (s := u7) (Keeps.ite h (State.setBit_keeps (State.bump_keeps h))) fun h8 => ?_
          clear_value u7
          split
          · exact ih h8
          · exact ih (State.embDeliver_keeps (State.embUncorr_keeps h8))

theorem State.embGo_keeps {z s : State} (h : Keeps z s) : Keeps z (State.embGo s) := by
  unfold State.embGo
  extract_lets +onlyGivenNames u1
  clear_value u1
  exact State.embDrain_keeps (Keeps.upd h rfl rfl id id rfl)

theorem State.embTake_keeps {z s : State} {a1} (h : Keeps z s) : Keeps z (State.embTake s a1) := by
  unfold State.embTake
  extract_lets +onlyGivenNames u1
  clear_value u1
  exact Keeps.ite (State.embDeliver_keeps h) (State.embGo_keeps (Keeps.upd h rfl rfl id id rfl))

theorem State.embRoom_keeps {z s : State} {k} (h : Keeps z s) : Keeps z (State.embRoom s k) := by -- by hand
  induction k generalizing s with
  | zero =>
    unfold State.embRoom
    exact h
  | succ n ih =>
    unfold State.embRoom
    split
    · exact h
    · split
      · exact ih (State.embTake_keeps (State.unstick_keeps (Keeps.upd h rfl rfl id id rfl)))
      · exact h

theorem State.embPump_keeps {z s : State} (h : Keeps z s) : Keeps z (State.embPump s) := by
  unfold State.embPump
  extract_lets +onlyGivenNames u1
  refine Keeps.cut (s := u1) (State.embGo_keeps h) fun h2 => ?_
  clear_value u1
  exact State.embRoom_keeps h2

theorem State.embAccept_keeps {z s : State} {a1} (h : Keeps z s) : Keeps z (State.embAccept s a1) := by
  unfold State.embAccept
  exact Keeps.ite (Keeps.upd h rfl rfl id id rfl) (State.embTake_keeps h)

theorem State.rowFlip_keeps {z s : State} (h : Keeps z s) : Keeps z (State.rowFlip s) := by
  unfold State.rowFlip
  split
  · exact h
  · split
    · exact State.embPump_keeps h
    · apply Keeps.ite
      · exact State.embPump_keeps h
      · extract_lets +onlyGivenNames u1
        refine Keeps.cut (s := u1) (State.flipRow_keeps h) fun h2 => ?_
        clear_value u1
        extract_lets +onlyGivenNames u3
        clear_value u3
        exact State.embPump_keeps (Keeps.upd h2 rfl rfl id id rfl)

theorem State.embSend_keeps {z s : State} {a1} {a2} {a3} {a4} {a5} {a6} {a7} (h : Keeps z s) : Keeps z (State.embSend s a1 a2 a3 a4 a5 a6 a7).1 := by
  unfold State.embSend
  extract_lets +onlyGivenNames u1
  clear_value u1
  split
  · exact h
  · split
    · dsimp -zeta only
      exact State.issue_keeps h
    · extract_lets +onlyGivenNames u2
      clear_value u2
      extract_lets +onlyGivenNames u3
      clear_value u3
      extract_lets +onlyGivenNames u4
      clear_value u4
      extract_lets +onlyGivenNames u5
      refine Keeps.cut (s := u5) (Keeps.upd h rfl rfl id id rfl) fun h6 => ?_
      clear_value u5
      dsimp -zeta only
      exact State.awaitTag_keeps h6

theorem State.embLocal_keeps {z s : State} {a1} (h : Keeps z s) : Keeps z (State.embLocal s a1) := by
  unfold State.embLocal
  split
  · exact h
  · exact Keeps.ite (State.embAccept_keeps h) (State.closeTag_keeps h)

theorem State.embSendAll_keeps {z s : State} {a1} {a2} {a3} {a4} {a5} (h : Keeps z s) : Keeps z (State.embSendAll s a1 a2 a3 a4 a5) := by
  unfold State.embSendAll
  split
  rename_i x1 s2 x3 x4
  have h15 : Keeps z s2 := by
    refine Keeps.pair ?_ x4
    apply Keeps.foldlPair
    · exact h
    · intro x5 x6 x7 h8 x9
      subst x9
      split
      rename_i x10 s11 x12 x13
      have h14 : Keeps z s11 := Keeps.pair (State.embSend_keeps h8) x13
      exact h14
  exact Keeps.foldl h15 (fun x16 x17 h18 => State.embLocal_keeps h18)

theorem State.embLookup_keeps {z s : State} {a1} {a2} {a3} (h : Keeps z s) : Keeps z (State.embLookup s a1 a2 a3) := by
  unfold State.embLookup
  extract_lets +onlyGivenNames u1
  clear_value u1
  apply Keeps.ite
  · exact h
  · split
    · exact State.endJob_keeps h
    · extract_lets +onlyGivenNames u2
      clear_value u2
      extract_lets +onlyGivenNames u3
      clear_value u3
      extract_lets +onlyGivenNames u4
      clear_value u4
      apply Keeps.ite
      · exact State.toFence_keeps h
      · apply Keeps.ite
        · exact State.endJob_keeps h
        · split
          · exact State.badIndex_keeps (State.setJob_keeps h)
          · extract_lets +onlyGivenNames u5
            refine Keeps.cut (s := u5) (State.touchReads_keeps h) fun h6 => ?_
            clear_value u5
            extract_lets +onlyGivenNames u7
            refine Keeps.cut (s := u7) (State.setJob_keeps h6) fun h8 => ?_
            clear_value u7
            extract_lets +onlyGivenNames u9
            clear_value u9
            extract_lets +onlyGivenNames u10
            clear_value u10
            apply Keeps.ite
            · exact State.endJob_keeps h8
            · extract_lets +onlyGivenNames u11
              refine Keeps.cut (s := u11) (State.embSendAll_keeps h8) fun h12 => ?_
              clear_value u11
              split
              · exact Keeps.ite (State.embFinish_keeps h12) h12
              · exact h12

theorem State.embUpdate_keeps {z s : State} {a1} {a2} {a3} (h : Keeps z s) : Keeps z (State.embUpdate s a1 a2 a3) := by
  unfold State.embUpdate
  extract_lets +onlyGivenNames u1
  clear_value u1
  apply Keeps.ite
  · exact h
  · split
    · exact State.endJob_keeps h
    · extract_lets +onlyGivenNames u2
      clear_value u2
      extract_lets +onlyGivenNames u3
      clear_value u3
      apply Keeps.ite
      · exact State.endJob_keeps h
      · extract_lets +onlyGivenNames u4
        refine Keeps.cut (s := u4) (State.setJob_keeps h) fun h5 => ?_
        clear_value u4
        extract_lets +onlyGivenNames u6
        clear_value u6
        extract_lets +onlyGivenNames u7
        clear_value u7
        exact Keeps.ite (State.endJob_keeps h5) (State.embSendAll_keeps h5)

theorem State.embTimeout_keeps {z s : State} {a1} (h : Keeps z s) : Keeps z (State.embTimeout s a1) := by
  unfold State.embTimeout
  split
  · exact h
  · apply Keeps.ite
    · exact h
    · extract_lets +onlyGivenNames u1
      refine Keeps.cut (s := u1) (State.setBit_keeps (State.bump_keeps h)) fun h2 => ?_
      clear_value u1
      split
      · exact State.closeTag_keeps h2
      · exact State.dropReplies_keeps (State.orphanCmd_keeps (State.closeTag_keeps h2))

theorem execEmbLookup_keeps {z s t : State} {a0} {a1} (h : Keeps z s) (e : execEmbLookup a0 a1 s = .next t) : Keeps z t := by
  unfold execEmbLookup at e
  injection e with e
  subst e
  exact State.choices_keeps (State.runSlot_keeps h (fun x1 x2 h3 => State.embLookup_keeps (State.setJob_keeps h3)))

theorem execEmbPrefetch_keeps {z s t : State} {a0} {a1} (h : Keeps z s) (e : execEmbPrefetch a0 a1 s = .next t) : Keeps z t := by
  unfold execEmbPrefetch at e
  injection e with e
  subst e
  exact State.choices_keeps (State.runSlot_keeps h (fun x1 x2 h3 => State.embLookup_keeps (State.setJob_keeps h3)))

theorem execEmbUpdate_keeps {z s t : State} {a0} {a1} (h : Keeps z s) (e : execEmbUpdate a0 a1 s = .next t) : Keeps z t := by
  unfold execEmbUpdate at e
  injection e with e
  subst e
  exact State.choices_keeps (State.runSlot_keeps h (fun x1 x2 h3 => State.embUpdate_keeps (State.setJob_keeps h3)))

theorem execEmbReq_keeps {z s t : State} {a0} (h : Keeps z s) (e : execEmbReq a0 s = .next t) : Keeps z t := by
  unfold execEmbReq at e
  injection e with e
  subst e
  exact State.choices_keeps (State.embAccept_keeps h)

theorem execEmbRsp_keeps {z s t : State} {a0} (h : Keeps z s) (e : execEmbRsp a0 s = .next t) : Keeps z t := by
  unfold execEmbRsp at e
  injection e with e
  subst e
  exact State.choices_keeps (State.embReply_keeps h)

theorem execEmbReplyTimeout_keeps {z s t : State} {a0} (h : Keeps z s) (e : execEmbReplyTimeout a0 s = .next t) : Keeps z t := by
  unfold execEmbReplyTimeout at e
  injection e with e
  subst e
  exact State.choices_keeps (State.embTimeout_keeps h)

theorem execEmbUpd_keeps {z s t : State} {a0} (h : Keeps z s) (e : execEmbUpd a0 s = .next t) : Keeps z t := by
  unfold execEmbUpd at e
  injection e with e
  subst e
  exact State.choices_keeps (State.embAccept_keeps h)

theorem execRowFlip_keeps {z s t : State} (h : Keeps z s) (e : execRowFlip s = .next t) : Keeps z t := by
  unfold execRowFlip at e
  injection e with e
  subst e
  exact State.rowFlip_keeps h

theorem execEmbUpdRsp_keeps {z s t : State} {a0} (h : Keeps z s) (e : execEmbUpdRsp a0 s = .next t) : Keeps z t := by
  unfold execEmbUpdRsp at e
  injection e with e
  subst e
  exact State.choices_keeps (State.embReply_keeps h)

end Sys2Proof.Machine
end

