-- ==== Sys2Proof/Laws/KeepCommit.lean ====
section
/-!
SUPPORT. The operations of Commit keep the queue and the canonical memories.
-/

namespace Sys2Proof.Machine

theorem State.invalWritten_keeps {z s : State} {a1} {a2} {a3} (h : Keeps z s) : Keeps z (State.invalWritten s a1 a2 a3).1 := by
  unfold State.invalWritten
  apply Keeps.foldlPair
  · exact h
  · intro x1 x2 x3 h4 x5
    subst x5
    split
    rename_i x6 s7 x8 x9
    have h10 : Keeps z s7 := Keeps.pair (State.invalTracked_keeps h4) x9
    exact h10

theorem State.dieCommit_keeps {z s : State} {a1} {a2} {a3} (h : Keeps z s) : Keeps z (State.dieCommit s a1 a2 a3) := by
  unfold State.dieCommit
  exact Keeps.ite (State.dieWrites_keeps h) h

theorem State.afterPlace_keeps {z s : State} {a1} (h : Keeps z s) : Keeps z (State.afterPlace s a1) := by
  unfold State.afterPlace
  extract_lets +onlyGivenNames u1
  refine Keeps.cut (s := u1) (State.settlePrompt_keeps (State.retryMoves_keeps (State.payDebt_keeps h))) fun h2 => ?_
  clear_value u1
  exact Keeps.ite (State.slotBoundary_keeps h2) h2

theorem State.commit_keeps {z s : State} {a1} {a2} (h : Keeps z s) : Keeps z (State.commit s a1 a2) := by
  unfold State.commit
  split
  · exact h
  · apply Keeps.ite
    · apply Keeps.ite
      · exact State.afterPlace_keeps (State.endJob_keeps h)
      · split
        rename_i x1 s2 x3 x4
        have h5 : Keeps z s2 := Keeps.pair (State.invalWritten_keeps h) x4
        exact Keeps.ite (State.afterPlace_keeps (State.wainCommit_keeps (State.dieCommit_keeps (State.commitJob_keeps h5)))) (State.setJob_keeps h5)
    · exact h

theorem State.killEnd_keeps {z s : State} {a1} {a2} (h : Keeps z s) : Keeps z (State.killEnd s a1 a2) := by
  unfold State.killEnd
  split
  · exact h
  · exact Keeps.ite (Keeps.ite h (State.afterPlace_keeps (State.endKill_keeps (State.dropStreams_keeps h)))) h

theorem State.limit_keeps {z s : State} {a1} {a2} (h : Keeps z s) : Keeps z (State.limit s a1 a2) := by
  unfold State.limit
  split
  · exact h
  · extract_lets +onlyGivenNames u1
    clear_value u1
    apply Keeps.ite
    · extract_lets +onlyGivenNames u2
      refine Keeps.cut (s := u2) (State.modCore_keeps (State.setJob_keeps h)) fun h3 => ?_
      clear_value u2
      exact State.setBit_keeps (State.count_keeps h3)
    · exact h

theorem State.abandonAt_keeps {z s : State} {a1} (h : Keeps z s) : Keeps z (State.abandonAt s a1) := by
  unfold State.abandonAt
  extract_lets +onlyGivenNames u1
  clear_value u1
  extract_lets +onlyGivenNames u2
  clear_value u2
  exact State.bump_keeps (State.modCore_keeps h)

theorem State.quarantine_keeps {z s : State} {a1} {a2} (h : Keeps z s) : Keeps z (State.quarantine s a1 a2) := by
  unfold State.quarantine
  extract_lets +onlyGivenNames u1
  clear_value u1
  apply Keeps.ite
  · exact h
  · extract_lets +onlyGivenNames u2
    clear_value u2
    extract_lets +onlyGivenNames u3
    refine Keeps.cut (s := u3) (State.setCore_keeps h) fun h4 => ?_
    clear_value u3
    extract_lets +onlyGivenNames u5
    refine Keeps.cut (s := u5) (State.abandonAt_keeps (State.count_keeps h4)) fun h6 => ?_
    clear_value u5
    extract_lets +onlyGivenNames u7
    refine Keeps.cut (s := u7) (Keeps.foldl h6 (fun x9 x10 h11 => State.holdSlot_keeps h11)) fun h8 => ?_
    clear_value u7
    exact State.alarm_keeps h8

theorem State.missed_keeps {z s : State} {a1} (h : Keeps z s) : Keeps z (State.missed s a1) := by
  unfold State.missed
  exact State.setBit_keeps (State.count_keeps (State.bump_keeps h))

theorem State.mismatch_keeps {z s : State} {a1} {a2} {a3} {a4} {a5} {a6} (h : Keeps z s) : Keeps z (State.mismatch s a1 a2 a3 a4 a5 a6) := by
  unfold State.mismatch
  extract_lets +onlyGivenNames u1
  clear_value u1
  extract_lets +onlyGivenNames u2
  refine Keeps.cut (s := u2) (State.missed_keeps (State.missed_keeps h)) fun h3 => ?_
  clear_value u2
  extract_lets +onlyGivenNames u4
  refine Keeps.cut (s := u4) (State.modCore_keeps h3) fun h5 => ?_
  clear_value u4
  extract_lets +onlyGivenNames u6
  refine Keeps.cut (s := u6) (State.modCore_keeps h5) fun h7 => ?_
  clear_value u6
  extract_lets +onlyGivenNames u8
  clear_value u8
  extract_lets +onlyGivenNames u9
  refine Keeps.cut (s := u9) (State.error_keeps (State.useFree_keeps h7)) fun h10 => ?_
  clear_value u9
  extract_lets +onlyGivenNames u11
  refine Keeps.cut (s := u11) (Keeps.ite (State.quarantine_keeps h10) h10) fun h12 => ?_
  clear_value u11
  exact Keeps.ite (State.quarantine_keeps h12) h12

theorem State.compareShadow_keeps {z s : State} {a1} {a2} {a3} {a4} {a5} {a6} (h : Keeps z s) : Keeps z (State.compareShadow s a1 a2 a3 a4 a5 a6) := by
  unfold State.compareShadow
  split
  · exact h
  · extract_lets +onlyGivenNames u1
    refine Keeps.cut (s := u1) (State.count_keeps (State.modCore_keeps h)) fun h2 => ?_
    clear_value u1
    exact Keeps.ite (State.mismatch_keeps h2) h2

theorem State.abandonShadow_keeps {z s : State} {a1} (h : Keeps z s) : Keeps z (State.abandonShadow s a1) := by
  unfold State.abandonShadow
  split
  · exact h
  · exact State.bump_keeps (State.modCore_keeps h)

theorem State.seedShadow_keeps {z s : State} {a1} {a2} (h : Keeps z s) : Keeps z (State.seedShadow s a1 a2) := by
  unfold State.seedShadow
  apply Keeps.ite
  · exact State.discard_keeps h
  · extract_lets +onlyGivenNames u1
    refine Keeps.cut (s := u1) (State.wr_keeps h) fun h2 => ?_
    clear_value u1
    exact Keeps.upd h2 rfl rfl id id rfl

theorem State.releaseCore_keeps {z s : State} {a1} (h : Keeps z s) : Keeps z (State.releaseCore s a1) := by
  unfold State.releaseCore
  exact State.modCore_keeps h

theorem State.mapCore_keeps {z s : State} {a1} {a2} (h : Keeps z s) : Keeps z (State.mapCore s a1 a2) := by
  unfold State.mapCore
  exact Keeps.ite (State.discard_keeps h) (State.wr_keeps h)

theorem State.maskCore_keeps {z s : State} {a1} (h : Keeps z s) : Keeps z (State.maskCore s a1) := by
  unfold State.maskCore
  extract_lets +onlyGivenNames u1
  clear_value u1
  extract_lets +onlyGivenNames u2
  refine Keeps.cut (s := u2) (State.modCore_keeps h) fun h3 => ?_
  clear_value u2
  exact Keeps.foldl h3 (fun x4 x5 h6 => State.complete_keeps h6)

theorem State.admin_keeps {z s : State} {a1} {a2} (h : Keeps z s) (ha2 : ∀ y0 y1, Keeps z y0 → Keeps z (a2 y0 y1)) : Keeps z (State.admin s a1 a2) := by
  unfold State.admin
  split
  · exact h
  · extract_lets +onlyGivenNames u1
    have h2 : ∀ y0, Keeps z y0 → Keeps z (u1 y0) := by
      exact fun x3 h4 => Keeps.upd h4 rfl rfl id id rfl
    clear_value u1
    exact Keeps.ite (State.complete_keeps (h2 _ h)) (ha2 _ _ (h2 _ h))

theorem State.barrier_keeps {z s : State} {a1} (h : Keeps z s) : Keeps z (State.barrier s a1) := by
  unfold State.barrier
  extract_lets +onlyGivenNames u1
  clear_value u1
  extract_lets +onlyGivenNames u2
  refine Keeps.cut (s := u2) (State.modRing_keeps h) fun h3 => ?_
  clear_value u2
  exact State.settleBarriers_keeps h3

theorem execNop_keeps {z s t : State} (h : Keeps z s) (e : execNop s = .next t) : Keeps z t := by
  unfold execNop at e
  injection e with e
  subst e
  exact State.choices_keeps (State.admin_keeps h (fun x1 x2 h3 => State.complete_keeps h3))

theorem execBarrier_keeps {z s t : State} (h : Keeps z s) (e : execBarrier s = .next t) : Keeps z t := by
  unfold execBarrier at e
  injection e with e
  subst e
  exact State.choices_keeps (State.admin_keeps h (fun x1 x2 h3 => State.barrier_keeps h3))

theorem execCommit_keeps {z s t : State} {a0} {a1} (h : Keeps z s) (e : execCommit a0 a1 s = .next t) : Keeps z t := by
  unfold execCommit at e
  injection e with e
  subst e
  exact State.choices_keeps (State.commit_keeps h)

theorem execKillDone_keeps {z s t : State} {a0} {a1} (h : Keeps z s) (e : execKillDone a0 a1 s = .next t) : Keeps z t := by
  unfold execKillDone at e
  injection e with e
  subst e
  exact State.choices_keeps (State.killEnd_keeps h)

theorem execCmdTimeout_keeps {z s t : State} {a0} {a1} (h : Keeps z s) (e : execCmdTimeout a0 a1 s = .next t) : Keeps z t := by
  unfold execCmdTimeout at e
  injection e with e
  subst e
  exact State.limit_keeps h

theorem execShadowCompare_keeps {z s t : State} {a0} {a1} {a2} {a3} {a4} {a5} (h : Keeps z s) (e : execShadowCompare a0 a1 a2 a3 a4 a5 s = .next t) : Keeps z t := by
  unfold execShadowCompare at e
  injection e with e
  subst e
  exact State.compareShadow_keeps h

theorem execShadowAbandon_keeps {z s t : State} {a0} (h : Keeps z s) (e : execShadowAbandon a0 s = .next t) : Keeps z t := by
  unfold execShadowAbandon at e
  injection e with e
  subst e
  exact State.abandonShadow_keeps h

theorem execSeed_keeps {z s t : State} {a0} {a1} (h : Keeps z s) (e : execSeed a0 a1 s = .next t) : Keeps z t := by
  unfold execSeed at e
  injection e with e
  subst e
  exact State.seedShadow_keeps h

theorem execRelease_keeps {z s t : State} {a0} (h : Keeps z s) (e : execRelease a0 s = .next t) : Keeps z t := by
  unfold execRelease at e
  injection e with e
  subst e
  exact State.choices_keeps (State.releaseCore_keeps h)

theorem execCoreMap_keeps {z s t : State} {a0} {a1} (h : Keeps z s) (e : execCoreMap a0 a1 s = .next t) : Keeps z t := by
  unfold execCoreMap at e
  injection e with e
  subst e
  exact State.mapCore_keeps h

end Sys2Proof.Machine
end

