-- ==== Sys2Proof/Laws/KeepHost.lean ====
section
/-!
SUPPORT. The operations of Host keep the queue and the canonical memories.
-/

namespace Sys2Proof.Machine

theorem State.stopRing_keeps {z s : State} {a1} {a2} (h : Keeps z s) : Keeps z (State.stopRing s a1 a2) := by
  unfold State.stopRing
  exact State.devCause_keeps (State.wr_keeps (State.wr_keeps h))

theorem State.flushRing_keeps {z s : State} {a1} {a2} (h : Keeps z s) : Keeps z (State.flushRing s a1 a2) := by
  induction a2 generalizing s a1 with
  | zero =>
    unfold State.flushRing
    exact h
  | succ n ih =>
    unfold State.flushRing
    split
    · exact h
    · exact Keeps.ite (ih (State.finish_keeps (State.modRing_keeps h))) h

theorem State.serveOne_keeps {z s : State} {a1} (h : Keeps z s) : Keeps z (State.serveOne s a1) := by
  unfold State.serveOne
  extract_lets +onlyGivenNames u1
  clear_value u1
  split
  · exact h
  · split
    · exact h
    · extract_lets +onlyGivenNames u2
      refine Keeps.cut (s := u2) (State.modRing_keeps h) fun h3 => ?_
      clear_value u2
      exact Keeps.ite (State.failDecode_keeps h3) (State.setJob_keeps (State.reserve_keeps h3))

theorem State.serveStalled_keeps {z s : State} {a1} {a2} (h : Keeps z s) : Keeps z (State.serveStalled s a1 a2) := by -- by hand
  induction a2 generalizing s a1 with
  | zero =>
    unfold State.serveStalled
    exact h
  | succ n ih =>
    unfold State.serveStalled
    apply Keeps.ite
    · exact ih (State.serveOne_keeps h)
    · exact h

theorem State.roomFound_keeps {z s : State} {a1} (h : Keeps z s) : Keeps z (State.roomFound s a1) := by
  unfold State.roomFound
  extract_lets +onlyGivenNames u1
  refine Keeps.cut (s := u1) (State.flushRing_keeps h) fun h2 => ?_
  clear_value u1
  extract_lets +onlyGivenNames u3
  refine Keeps.cut (s := u3) (Keeps.foldl h2 (fun x4 x5 h6 => State.settleBarriers_keeps h6)) fun h7 => ?_
  clear_value u3
  exact State.serveStalled_keeps h7

theorem State.doorbell_keeps {z s : State} {a1} {a2} (h : Keeps z s) : Keeps z (State.doorbell s a1 a2) := by
  unfold State.doorbell
  extract_lets +onlyGivenNames u1
  clear_value u1
  extract_lets +onlyGivenNames u2
  clear_value u2
  extract_lets +onlyGivenNames u3
  clear_value u3
  apply Keeps.ite
  · exact State.stopRing_keeps h
  · extract_lets +onlyGivenNames u4
    refine Keeps.cut (s := u4) (State.modRing_keeps h) fun h5 => ?_
    clear_value u4
    exact Keeps.ite (State.roomFound_keeps h5) h5

theorem State.doorbellRead_keeps {z s : State} {a1} {a2} (h : Keeps z s) : Keeps z (State.doorbellRead s a1 a2) := by
  unfold State.doorbellRead
  exact Keeps.ite (State.doorbell_keeps (State.modRing_keeps h)) h

theorem State.poll_keeps {z s : State} {a1} {a2} (h : Keeps z s) : Keeps z (State.poll s a1 a2) := by
  unfold State.poll
  exact Keeps.ite (State.doorbell_keeps (State.modRing_keeps h)) h

theorem State.roomPoll_keeps {z s : State} {a1} {a2} (h : Keeps z s) : Keeps z (State.roomPoll s a1 a2) := by
  unfold State.roomPoll
  exact Keeps.ite (State.doorbell_keeps h) h

theorem State.dispatch_keeps {z s : State} {a1} (h : Keeps z s) : Keeps z (State.dispatch s a1) := by
  unfold State.dispatch
  extract_lets +onlyGivenNames u1
  clear_value u1
  apply Keeps.ite
  · exact State.complete_keeps h
  · apply Keeps.ite
    · exact Keeps.upd h rfl rfl id id rfl
    · apply Keeps.ite
      · exact Keeps.upd h rfl rfl id id rfl
      · extract_lets +onlyGivenNames u2
        clear_value u2
        exact Keeps.ite (State.reachCore_keeps h) (State.modRing_keeps h)

theorem State.tookFetch_keeps {z s : State} {a1} (h : Keeps z s) : Keeps z (State.tookFetch s a1) := by
  unfold State.tookFetch
  exact Keeps.upd h rfl rfl id id rfl

theorem State.fetch_keeps {z s : State} {a1} {a2} {a3} (h : Keeps z s) : Keeps z (State.fetch s a1 a2 a3) := by
  unfold State.fetch
  extract_lets +onlyGivenNames u1
  clear_value u1
  apply Keeps.ite
  · apply Keeps.ite
    · exact State.stopRing_keeps h
    · extract_lets +onlyGivenNames u2
      clear_value u2
      extract_lets +onlyGivenNames u3
      refine Keeps.cut (s := u3) (State.modRing_keeps (State.tookFetch_keeps h)) fun h4 => ?_
      clear_value u3
      exact State.dispatch_keeps (State.writeDevIdx_keeps (State.count_keeps h4))
  · exact h

theorem State.hostLost_keeps {z s : State} {a1} (h : Keeps z s) : Keeps z (State.hostLost s a1) := by
  unfold State.hostLost
  apply Keeps.ite
  · exact h
  · extract_lets +onlyGivenNames u1
    refine Keeps.cut (s := u1) (State.devCause_keeps (State.wr_keeps (State.modRing_keeps h))) fun h2 => ?_
    clear_value u1
    extract_lets +onlyGivenNames u3
    refine Keeps.cut (s := u3) (Keeps.foldl h2 (fun x4 x5 h6 => State.stopRing_keeps h6)) fun h7 => ?_
    clear_value u3
    exact State.alarm_keeps (Keeps.upd h7 rfl rfl id id rfl)

theorem State.hostResume_keeps {z s : State} (h : Keeps z s) : Keeps z (State.hostResume s) := by
  unfold State.hostResume
  extract_lets +onlyGivenNames u1
  refine Keeps.cut (s := u1) (State.wr_keeps h) fun h2 => ?_
  clear_value u1
  exact Keeps.upd h2 rfl rfl id id rfl

theorem State.flr_keeps {z s : State} (h : Keeps z s) : Keeps z (State.flr s) := by
  unfold State.flr
  extract_lets +onlyGivenNames u1
  clear_value u1
  extract_lets +onlyGivenNames u2
  clear_value u2
  extract_lets +onlyGivenNames u3
  extract_lets +onlyGivenNames u4
  refine Keeps.cut (s := u4) (Keeps.upd h rfl rfl (Tbl.rising_filter _) (Tbl.rising_map _) rfl) fun h5 => ?_
  clear_value u4
  extract_lets +onlyGivenNames u6
  refine Keeps.cut (s := u6) (Keeps.foldl h5 (fun x7 x8 h9 => State.unlive_keeps h9)) fun h10 => ?_
  clear_value u6
  exact Keeps.ite h10 (State.devCause_keeps (State.bump_keeps h10))

theorem State.enableRing_keeps {z s : State} {a1} (h : Keeps z s) : Keeps z (State.enableRing s a1) := by
  unfold State.enableRing
  apply Keeps.ite
  · exact h
  · apply Keeps.ite
    · exact State.discard_keeps h
    · extract_lets +onlyGivenNames u1
      refine Keeps.cut (s := u1) (State.wr_keeps (State.wr_keeps (State.wr_keeps h))) fun h2 => ?_
      clear_value u1
      exact State.setRing_keeps (State.wr_keeps h2)

theorem State.disableRing_keeps {z s : State} {a1} (h : Keeps z s) : Keeps z (State.disableRing s a1) := by
  unfold State.disableRing
  exact Keeps.ite h (Keeps.ite (State.discard_keeps h) (Keeps.ite (State.settleRing_keeps (State.wr_keeps h)) (State.wr_keeps (State.wr_keeps (State.wr_keeps h)))))

theorem State.wake_keeps {z s : State} {a1} {a2} {a3} (h : Keeps z s) : Keeps z (State.wake s a1 a2 a3) := by
  unfold State.wake
  exact Keeps.ite (State.modRing_keeps h) (State.discard_keeps h)

theorem State.holdFire_keeps {z s : State} {a1} (h : Keeps z s) : Keeps z (State.holdFire s a1) := by
  unfold State.holdFire
  apply Keeps.ite
  · exact h
  · extract_lets +onlyGivenNames u1
    refine Keeps.cut (s := u1) (State.modRing_keeps h) fun h2 => ?_
    clear_value u1
    extract_lets +onlyGivenNames u3
    clear_value u3
    exact Keeps.ite h2 (State.fire_keeps h2)

theorem execWakeWrite_keeps {z s t : State} {a0} {a1} {a2} (h : Keeps z s) (e : execWakeWrite a0 a1 a2 s = .next t) : Keeps z t := by
  unfold execWakeWrite at e
  injection e with e
  subst e
  exact State.wake_keeps h

theorem execDoorbellRead_keeps {z s t : State} {a0} {a1} (h : Keeps z s) (e : execDoorbellRead a0 a1 s = .next t) : Keeps z t := by
  unfold execDoorbellRead at e
  injection e with e
  subst e
  exact State.choices_keeps (State.doorbellRead_keeps h)

theorem execDescriptorFetch_keeps {z s t : State} {a0} {a1} {a2} (h : Keeps z s) (e : execDescriptorFetch a0 a1 a2 s = .next t) : Keeps z t := by
  unfold execDescriptorFetch at e
  injection e with e
  subst e
  exact State.choices_keeps (State.fetch_keeps h)

theorem execPoll_keeps {z s t : State} {a0} {a1} (h : Keeps z s) (e : execPoll a0 a1 s = .next t) : Keeps z t := by
  unfold execPoll at e
  injection e with e
  subst e
  exact State.choices_keeps (State.poll_keeps h)

theorem execCqRoomPoll_keeps {z s t : State} {a0} {a1} (h : Keeps z s) (e : execCqRoomPoll a0 a1 s = .next t) : Keeps z t := by
  unfold execCqRoomPoll at e
  injection e with e
  subst e
  exact State.choices_keeps (State.roomPoll_keeps h)

theorem execHostReadTimeout_keeps {z s t : State} {a0} (h : Keeps z s) (e : execHostReadTimeout a0 s = .next t) : Keeps z t := by
  unfold execHostReadTimeout at e
  injection e with e
  subst e
  exact State.hostLost_keeps h

theorem execHostResume_keeps {z s t : State} (h : Keeps z s) (e : execHostResume s = .next t) : Keeps z t := by
  unfold execHostResume at e
  injection e with e
  subst e
  exact State.hostResume_keeps h

theorem execInterruptHold_keeps {z s t : State} {a0} (h : Keeps z s) (e : execInterruptHold a0 s = .next t) : Keeps z t := by
  unfold execInterruptHold at e
  injection e with e
  subst e
  exact State.holdFire_keeps h

theorem execRingEnable_keeps {z s t : State} {a0} (h : Keeps z s) (e : execRingEnable a0 s = .next t) : Keeps z t := by
  unfold execRingEnable at e
  injection e with e
  subst e
  exact State.enableRing_keeps h

theorem execRingDisable_keeps {z s t : State} {a0} (h : Keeps z s) (e : execRingDisable a0 s = .next t) : Keeps z t := by
  unfold execRingDisable at e
  injection e with e
  subst e
  exact State.disableRing_keeps h

theorem execFlr_keeps {z s t : State} (h : Keeps z s) (e : execFlr s = .next t) : Keeps z t := by
  unfold execFlr at e
  injection e with e
  subst e
  exact State.choices_keeps (State.flr_keeps h)

theorem execPcieReset_keeps {z s t : State} (h : Keeps z s) (e : execPcieReset s = .next t) : Keeps z t := by
  unfold execPcieReset at e
  injection e with e
  subst e
  exact State.choices_keeps (State.flr_keeps h)

theorem execD3hot_keeps {z s t : State} {a0} (h : Keeps z s) (e : execD3hot a0 s = .next t) : Keeps z t := by
  unfold execD3hot at e
  injection e with e
  subst e
  exact Keeps.upd h rfl rfl id id rfl

end Sys2Proof.Machine
end

