-- ==== Sys2Proof/Laws/KeepLodge.lean ====
section
/-!
SUPPORT. The operations of Lodge keep the queue and the canonical memories.
-/

namespace Sys2Proof.Machine

theorem State.lodCmd_keeps {z s : State} {a1} {a2} {a3} (h : Keeps z s) (ha3 : ∀ y0, Keeps z y0 → Keeps z (a3 y0).1) : Keeps z (State.lodCmd s a1 a2 a3) := by
  unfold State.lodCmd
  apply Keeps.ite
  · exact State.setBit_keeps (State.discard_keeps h)
  · split
    rename_i x1 s2 x3 x4 x5 x6
    have h7 : Keeps z s2 := Keeps.pair (ha3 _ h) x6
    extract_lets +onlyGivenNames u8
    refine Keeps.cut (s := u8) (State.wr_keeps h7) fun h9 => ?_
    clear_value u8
    exact Keeps.upd h9 rfl rfl id id rfl

theorem State.lodCmdDone_keeps {z s : State} (h : Keeps z s) : Keeps z (State.lodCmdDone s) := by
  unfold State.lodCmdDone
  split
  · exact h
  · extract_lets +onlyGivenNames u1
    clear_value u1
    extract_lets +onlyGivenNames u2
    refine Keeps.cut (s := u2) (Keeps.upd h rfl rfl id id rfl) fun h3 => ?_
    clear_value u2
    extract_lets +onlyGivenNames u4
    refine Keeps.cut (s := u4) (State.wr_keeps (State.wr_keeps (State.wr_keeps h3))) fun h5 => ?_
    clear_value u4
    exact Keeps.ite (State.wr_keeps h5) h5

theorem State.resetLodgeRegs_keeps {z s : State} {a1} (h : Keeps z s) : Keeps z (State.resetLodgeRegs s a1) := by
  unfold State.resetLodgeRegs
  exact Keeps.upd h rfl rfl (Tbl.rising_filter _) id rfl

theorem State.create_keeps {z s : State} (h : Keeps z s) : Keeps z (State.create s).1 := by
  unfold State.create
  split
  · exact h
  · split
    · exact h
    · dsimp -zeta only
      exact State.wr_keeps (State.resetLodgeRegs_keeps h)

theorem State.bind_keeps {z s : State} {a1} {a2} (h : Keeps z s) : Keeps z (State.bind s a1 a2).1 := by
  unfold State.bind
  extract_lets +onlyGivenNames u1
  clear_value u1
  split
  · exact h
  · split
    · exact h
    · split
      · exact h
      · dsimp -zeta only
        exact Keeps.upd h rfl rfl id id rfl

theorem State.unbind_keeps {z s : State} {a1} {a2} (h : Keeps z s) : Keeps z (State.unbind s a1 a2).1 := by
  unfold State.unbind
  extract_lets +onlyGivenNames u1
  clear_value u1
  split
  · exact h
  · split
    · exact h
    · split
      · exact h
      · split
        · exact h
        · dsimp -zeta only
          exact Keeps.upd h rfl rfl id id rfl

theorem State.resetLodge_keeps {z s : State} {a1} (h : Keeps z s) : Keeps z (State.resetLodge s a1).1 := by
  unfold State.resetLodge
  extract_lets +onlyGivenNames u1
  clear_value u1
  split
  · exact h
  · split
    · exact h
    · extract_lets +onlyGivenNames u2
      refine Keeps.cut (s := u2) (Keeps.foldl h (fun x3 x4 h5 => State.wr_keeps h5)) fun h6 => ?_
      clear_value u2
      extract_lets +onlyGivenNames u7
      clear_value u7
      extract_lets +onlyGivenNames u8
      refine Keeps.cut (s := u8) (Keeps.upd h6 rfl rfl id id rfl) fun h9 => ?_
      clear_value u8
      dsimp -zeta only
      exact State.wr_keeps h9

theorem State.refuseHome_keeps {z s : State} {a1} {a2} (h : Keeps z s) : Keeps z (State.refuseHome s a1 a2) := by
  unfold State.refuseHome
  extract_lets +onlyGivenNames u1
  clear_value u1
  extract_lets +onlyGivenNames u2
  clear_value u2
  extract_lets +onlyGivenNames u3
  clear_value u3
  extract_lets +onlyGivenNames u4
  clear_value u4
  extract_lets +onlyGivenNames u5
  clear_value u5
  extract_lets +onlyGivenNames u6
  refine Keeps.cut (s := u6) (Keeps.upd h rfl rfl id id rfl) fun h7 => ?_
  clear_value u6
  extract_lets +onlyGivenNames u8
  refine Keeps.cut (s := u8) (Keeps.foldl h7 (fun x9 x10 h11 => State.send_keeps h11)) fun h12 => ?_
  clear_value u8
  exact Keeps.foldl h12 (fun x13 x14 h15 => State.send_keeps h15)

theorem State.closeStreams_keeps {z s : State} {a1} (h : Keeps z s) : Keeps z (State.closeStreams s a1) := by
  unfold State.closeStreams
  exact State.settleEng_keeps (Keeps.upd h rfl rfl id id rfl)

theorem State.closeConns_keeps {z s : State} {a1} (h : Keeps z s) : Keeps z (State.closeConns s a1) := by
  unfold State.closeConns
  exact Keeps.upd h rfl rfl id id rfl

theorem State.dropPins_keeps {z s : State} {a1} (h : Keeps z s) : Keeps z (State.dropPins s a1) := by
  unfold State.dropPins
  extract_lets +onlyGivenNames u1
  clear_value u1
  exact Keeps.upd h rfl rfl id (Tbl.rising_map _) rfl

theorem State.freeKvPage_keeps {z s : State} {a1} {a2} {a3} (h : Keeps z s) : Keeps z (State.freeKvPage s a1 a2 a3) := by
  unfold State.freeKvPage
  exact Keeps.ite (State.pokeRaw_keeps h) h

theorem State.freeKv_keeps {z s : State} {a1} (h : Keeps z s) : Keeps z (State.freeKv s a1) := by
  unfold State.freeKv
  extract_lets +onlyGivenNames u1
  have h8 : Keeps z u1 := by
    apply Keeps.foldl
    · exact h
    · intro x2 x3 h4
      split
      · exact h4
      · exact Keeps.foldl h4 (fun x5 x6 h7 => State.freeKvPage_keeps h7)
  clear_value u1
  exact Keeps.upd h8 rfl rfl id id rfl

theorem State.teardown_keeps {z s : State} {a1} (h : Keeps z s) : Keeps z (State.teardown s a1).1 := by
  unfold State.teardown
  extract_lets +onlyGivenNames u1
  clear_value u1
  split
  · exact h
  · extract_lets +onlyGivenNames u2
    refine Keeps.cut (s := u2) (Keeps.ite (State.faultLodge_keeps h) h) fun h3 => ?_
    clear_value u2
    extract_lets +onlyGivenNames u4
    refine Keeps.cut (s := u4) (State.wr_keeps h3) fun h5 => ?_
    clear_value u4
    extract_lets +onlyGivenNames u6
    refine Keeps.cut (s := u6) (State.freeKv_keeps (State.dropPins_keeps (State.closeConns_keeps (State.closeStreams_keeps (State.refuseHome_keeps h5))))) fun h7 => ?_
    clear_value u6
    dsimp -zeta only
    exact State.homeRun_keeps h7

theorem State.halt_keeps {z s : State} {a1} (h : Keeps z s) : Keeps z (State.halt s a1) := by
  unfold State.halt
  exact Keeps.ite (State.wr_keeps h) h

theorem State.unbindLodge_keeps {z s : State} {a1} (h : Keeps z s) : Keeps z (State.unbindLodge s a1) := by
  unfold State.unbindLodge
  exact Keeps.upd h rfl rfl id id rfl

theorem State.forgetLodge_keeps {z s : State} {a1} (h : Keeps z s) : Keeps z (State.forgetLodge s a1) := by -- by hand
  unfold State.forgetLodge
  exact Keeps.upd h rfl rfl id (Tbl.rising_map _) rfl

theorem State.destroyLodge_keeps {z s : State} {a1} (h : Keeps z s) : Keeps z (State.destroyLodge s a1) := by
  unfold State.destroyLodge
  extract_lets +onlyGivenNames u1
  refine Keeps.cut (s := u1) (State.closeConns_keeps (State.closeStreams_keeps (State.refuseHome_keeps (State.unbindLodge_keeps h)))) fun h2 => ?_
  clear_value u1
  extract_lets +onlyGivenNames u3
  refine Keeps.cut (s := u3) (Keeps.foldl h2 (fun x5 x6 h7 => Keeps.ite (State.wr_keeps h7) h7)) fun h4 => ?_
  clear_value u3
  extract_lets +onlyGivenNames u8
  refine Keeps.cut (s := u8) (Keeps.foldl h4 (fun x10 x11 h12 => State.unmapPage_keeps h12)) fun h9 => ?_
  clear_value u8
  extract_lets +onlyGivenNames u13
  refine Keeps.cut (s := u13) (Keeps.foldl h9 (fun x15 x16 h17 => State.dropReplica_keeps h17)) fun h14 => ?_
  clear_value u13
  exact State.resetLodgeRegs_keeps (State.forgetLodge_keeps h14)

theorem State.destroy_keeps {z s : State} {a1} (h : Keeps z s) : Keeps z (State.destroy s a1).1 := by
  unfold State.destroy
  extract_lets +onlyGivenNames u1
  clear_value u1
  split
  · exact h
  · split
    · exact h
    · dsimp -zeta only
      exact State.destroyLodge_keeps h

theorem State.dumpClient_keeps {z s : State} {a1} {a2} {a3} {a4} {a5} {a6} (h : Keeps z s) : Keeps z (State.dumpClient s a1 a2 a3 a4 a5 a6) := by
  unfold State.dumpClient
  extract_lets +onlyGivenNames u1
  clear_value u1
  extract_lets +onlyGivenNames u2
  clear_value u2
  extract_lets +onlyGivenNames u3
  clear_value u3
  extract_lets +onlyGivenNames u4
  refine Keeps.cut (s := u4) (State.hostWrite_keeps h) fun h5 => ?_
  clear_value u4
  extract_lets +onlyGivenNames u6
  clear_value u6
  exact Keeps.ite (Keeps.upd h5 rfl rfl id id rfl) (Keeps.ite (Keeps.upd h5 rfl rfl id id rfl) h5)

theorem State.clientDump_keeps {z s : State} {a1} {a2} {a3} (h : Keeps z s) : Keeps z (State.clientDump s a1 a2 a3).1 := by
  unfold State.clientDump
  extract_lets +onlyGivenNames u1
  clear_value u1
  split
  · exact h
  · extract_lets +onlyGivenNames u2
    clear_value u2
    extract_lets +onlyGivenNames u3
    clear_value u3
    extract_lets +onlyGivenNames u4
    clear_value u4
    dsimp -zeta only
    exact Keeps.foldl h (fun x5 x6 h7 => State.dumpClient_keeps h7)

theorem State.drainWrite_keeps {z s : State} {a1} (h : Keeps z s) : Keeps z (State.drainWrite s a1) := by
  unfold State.drainWrite
  extract_lets +onlyGivenNames u1
  refine Keeps.cut (s := u1) (State.flag_keeps h) fun h2 => ?_
  clear_value u1
  exact Keeps.ite (State.wr_keeps h2) h2

theorem State.personaWrite_keeps {z s : State} {a1} (h : Keeps z s) : Keeps z (State.personaWrite s a1) := by
  unfold State.personaWrite
  apply Keeps.ite
  · exact State.discard_keeps h
  · extract_lets +onlyGivenNames u1
    refine Keeps.cut (s := u1) (State.wr_keeps h) fun h2 => ?_
    clear_value u1
    exact Keeps.upd h2 rfl rfl id id rfl

theorem State.personaDone_keeps {z s : State} (h : Keeps z s) : Keeps z (State.personaDone s) := by
  unfold State.personaDone
  split
  · exact h
  · extract_lets +onlyGivenNames u1
    refine Keeps.cut (s := u1) (State.wr_keeps (State.wr_keeps h)) fun h2 => ?_
    clear_value u1
    exact Keeps.upd h2 rfl rfl id id rfl

theorem State.refillOne_keeps {z s : State} {a1} {a2} {a3} (h : Keeps z s) : Keeps z (State.refillOne s a1 a2 a3) := by
  unfold State.refillOne
  extract_lets +onlyGivenNames u1
  refine Keeps.cut (s := u1) (Keeps.ite (State.bump_keeps h) h) fun h2 => ?_
  clear_value u1
  extract_lets +onlyGivenNames u3
  clear_value u3
  extract_lets +onlyGivenNames u4
  clear_value u4
  extract_lets +onlyGivenNames u5
  clear_value u5
  extract_lets +onlyGivenNames u6
  clear_value u6
  exact Keeps.upd h2 rfl rfl id id rfl

theorem State.fillPath_keeps {z s : State} {a1} (h : Keeps z s) : Keeps z (State.fillPath s a1) := by
  unfold State.fillPath
  extract_lets +onlyGivenNames u1
  clear_value u1
  extract_lets +onlyGivenNames u2
  refine Keeps.cut (s := u2) (State.wr_keeps h) fun h3 => ?_
  clear_value u2
  exact Keeps.foldl h3 (fun x4 x5 h6 => State.refillOne_keeps h6)

theorem State.fillBuckets_keeps {z s : State} (h : Keeps z s) : Keeps z (State.fillBuckets s) := by
  unfold State.fillBuckets
  extract_lets +onlyGivenNames u1
  refine Keeps.cut (s := u1) (Keeps.foldl h (fun x3 x4 h5 => State.fillPath_keeps h5)) fun h2 => ?_
  clear_value u1
  exact Keeps.upd h2 rfl rfl id id rfl

theorem State.devCharge_keeps {z s : State} {a1} {a2} (h : Keeps z s) : Keeps z (State.devCharge s a1 a2) := by
  unfold State.devCharge
  exact Keeps.upd h rfl rfl id id rfl

theorem State.refill_keeps {z s : State} (h : Keeps z s) : Keeps z (State.refill s) := by
  unfold State.refill
  exact State.choices_keeps (State.pumpConns_keeps (State.retakeHeld_keeps (State.embPump_keeps (State.attWake_keeps (State.fillBuckets_keeps h)))))

theorem State.pathLeft_keeps {z s : State} {a1} {a2} (h : Keeps z s) : Keeps z (State.pathLeft s a1 a2) := by
  unfold State.pathLeft
  extract_lets +onlyGivenNames u1
  clear_value u1
  exact Keeps.upd h rfl rfl id id rfl

theorem State.pathGrant_keeps {z s : State} {a1} {a2} (h : Keeps z s) : Keeps z (State.pathGrant s a1 a2) := by
  unfold State.pathGrant
  split
  · exact State.pathLeft_keeps (State.devCharge_keeps h)
  · split
    split
    split
    · exact State.pathLeft_keeps h
    · exact State.pathLeft_keeps (State.charge_keeps (Keeps.upd h rfl rfl id id rfl))

theorem State.lodOp_keeps {z s : State} {a1} {a2} {a3} (h : Keeps z s) (ha3 : ∀ y0, Keeps z y0 → Keeps z (a3 y0).1) : Keeps z (State.lodOp s a1 a2 a3) := by
  unfold State.lodOp
  apply State.lodCmd_keeps
  · exact h
  · intro x1 h2
    extract_lets +onlyGivenNames u3
    refine Keeps.cut (s := u3.1) (ha3 _ h2) fun h4 => ?_
    clear_value u3
    dsimp -zeta only
    exact h4

theorem execCreate_keeps {z s t : State} (h : Keeps z s) (e : execCreate s = .next t) : Keeps z t := by
  unfold execCreate at e
  injection e with e
  subst e
  exact State.lodCmd_keeps h (fun x1 h2 => State.create_keeps h2)

theorem execDestroy_keeps {z s t : State} {a0} (h : Keeps z s) (e : execDestroy a0 s = .next t) : Keeps z t := by
  unfold execDestroy at e
  injection e with e
  subst e
  exact State.choices_keeps (State.lodOp_keeps h (fun x1 h2 => State.destroy_keeps h2))

theorem execBind_keeps {z s t : State} {a0} {a1} (h : Keeps z s) (e : execBind a0 a1 s = .next t) : Keeps z t := by
  unfold execBind at e
  injection e with e
  subst e
  exact State.lodOp_keeps (State.wr_keeps h) (fun x1 h2 => State.bind_keeps h2)

theorem execUnbind_keeps {z s t : State} {a0} {a1} (h : Keeps z s) (e : execUnbind a0 a1 s = .next t) : Keeps z t := by
  unfold execUnbind at e
  injection e with e
  subst e
  exact State.lodOp_keeps (State.wr_keeps h) (fun x1 h2 => State.unbind_keeps h2)

theorem execLodgeReset_keeps {z s t : State} {a0} (h : Keeps z s) (e : execLodgeReset a0 s = .next t) : Keeps z t := by
  unfold execLodgeReset at e
  injection e with e
  subst e
  exact State.choices_keeps (State.lodOp_keeps h (fun x1 h2 => State.resetLodge_keeps h2))

theorem execTeardown_keeps {z s t : State} {a0} (h : Keeps z s) (e : execTeardown a0 s = .next t) : Keeps z t := by
  unfold execTeardown at e
  injection e with e
  subst e
  exact State.choices_keeps (State.lodOp_keeps h (fun x1 h2 => State.teardown_keeps h2))

theorem execHalted_keeps {z s t : State} {a0} (h : Keeps z s) (e : execHalted a0 s = .next t) : Keeps z t := by
  unfold execHalted at e
  injection e with e
  subst e
  exact State.halt_keeps h

theorem execClientDump_keeps {z s t : State} {a0} {a1} {a2} (h : Keeps z s) (e : execClientDump a0 a1 a2 s = .next t) : Keeps z t := by
  unfold execClientDump at e
  injection e with e
  subst e
  apply State.lodCmd_keeps
  · exact h
  · intro x1 h2
    extract_lets +onlyGivenNames u3
    refine Keeps.cut (s := u3.1) (State.clientDump_keeps h2) fun h4 => ?_
    clear_value u3
    dsimp -zeta only
    exact h4

theorem execLodCmdDone_keeps {z s t : State} (h : Keeps z s) (e : execLodCmdDone s = .next t) : Keeps z t := by
  unfold execLodCmdDone at e
  injection e with e
  subst e
  exact State.lodCmdDone_keeps h

theorem execDrain_keeps {z s t : State} {a0} (h : Keeps z s) (e : execDrain a0 s = .next t) : Keeps z t := by
  unfold execDrain at e
  injection e with e
  subst e
  exact State.drainWrite_keeps h

theorem execPersona_keeps {z s t : State} {a0} (h : Keeps z s) (e : execPersona a0 s = .next t) : Keeps z t := by
  unfold execPersona at e
  injection e with e
  subst e
  exact State.personaWrite_keeps h

theorem execPersonaDone_keeps {z s t : State} (h : Keeps z s) (e : execPersonaDone s = .next t) : Keeps z t := by
  unfold execPersonaDone at e
  injection e with e
  subst e
  exact State.personaDone_keeps h

theorem execRefill_keeps {z s t : State} (h : Keeps z s) (e : execRefill s = .next t) : Keeps z t := by
  unfold execRefill at e
  injection e with e
  subst e
  exact State.refill_keeps h

theorem execPathGrant_keeps {z s t : State} {a0} {a1} (h : Keeps z s) (e : execPathGrant a0 a1 s = .next t) : Keeps z t := by
  unfold execPathGrant at e
  injection e with e
  subst e
  exact State.pathGrant_keeps h

end Sys2Proof.Machine
end

