-- ==== Sys2Proof/Laws/KeepSpanMaster.lean ====
section
/-!
SUPPORT. The operations of SpanMaster keep the queue and the canonical memories.
-/

namespace Sys2Proof.Machine

theorem State.deliverLedger_keeps {z s : State} {a1} {a2} (h : Keeps z s) : Keeps z (State.deliverLedger s a1 a2) := by
  unfold State.deliverLedger
  exact Keeps.ite (State.prefillIn_keeps h) (Keeps.ite (State.prefillAckIn_keeps h) (Keeps.ite (State.prefillDoneIn_keeps h) (Keeps.ite (State.prefillCancelIn_keeps h) (Keeps.ite (State.pageOpIn_keeps h) (Keeps.ite (State.pageRspIn_keeps h) (Keeps.ite (State.groupMapIn_keeps h) (Keeps.ite (State.groupMapAckIn_keeps h) (Keeps.ite (State.groupCheckIn_keeps h) (Keeps.ite (State.groupRspIn_keeps h) (Keeps.ite (State.groupStepIn_keeps h) (Keeps.ite (State.groupNodeIn_keeps h) (Keeps.ite (State.groupAckIn_keeps h) h))))))))))))

theorem State.deliverHome_keeps {z s : State} {a1} {a2} (h : Keeps z s) : Keeps z (State.deliverHome s a1 a2) := by
  unfold State.deliverHome
  exact Keeps.ite (State.attReqIn_keeps h) (Keeps.ite (State.settlePrompt_keeps (State.attReply_keeps h)) (Keeps.ite (State.blockIn_keeps h) (Keeps.ite (State.blockAckIn_keeps h) (Keeps.ite (State.blockNakIn_keeps h) (Keeps.ite (State.handoverReqIn_keeps h) (Keeps.ite (State.fenceIn_keeps h) (Keeps.ite (State.fenceAckIn_keeps h) (Keeps.ite (State.handoverRspIn_keeps h) (Keeps.ite (State.layerAckIn_keeps h) (Keeps.ite (State.pullIn_keeps h) (Keeps.ite (State.embAccept_keeps h) (Keeps.ite (State.embAccept_keeps h) (Keeps.ite (State.embReply_keeps h) h)))))))))))))

theorem State.holdSent_keeps {z s : State} (h : Keeps z s) : Keeps z (State.holdSent s) := by
  unfold State.holdSent
  exact Keeps.upd h rfl rfl id id rfl

theorem State.dropCopies_keeps {z s : State} (h : Keeps z s) : Keeps z (State.dropCopies s) := by
  unfold State.dropCopies
  exact Keeps.upd h rfl rfl id id rfl

theorem State.isolate_keeps {z s : State} {a1} {a2} (h : Keeps z s) : Keeps z (State.isolate s a1 a2) := by
  unfold State.isolate
  apply Keeps.ite
  · exact h
  · extract_lets +onlyGivenNames u1
    refine Keeps.cut (s := u1) (State.dropCopies_keeps (State.holdSent_keeps (State.setBit_keeps (State.wr_keeps h)))) fun h2 => ?_
    clear_value u1
    exact State.alarm_keeps h2

theorem State.checkRoute_keeps {z s : State} (h : Keeps z s) : Keeps z (State.checkRoute s) := by
  unfold State.checkRoute
  exact Keeps.ite (State.isolate_keeps h) h

theorem State.beatIn_keeps {z s : State} {a1} (h : Keeps z s) : Keeps z (State.beatIn s a1) := by
  unfold State.beatIn
  extract_lets +onlyGivenNames u1
  clear_value u1
  extract_lets +onlyGivenNames u2
  clear_value u2
  extract_lets +onlyGivenNames u3
  refine Keeps.cut (s := u3) (State.wr_keeps h) fun h4 => ?_
  clear_value u3
  extract_lets +onlyGivenNames u5
  clear_value u5
  extract_lets +onlyGivenNames u6
  refine Keeps.cut (s := u6) (Keeps.upd h4 rfl rfl id id rfl) fun h7 => ?_
  clear_value u6
  exact Keeps.ite (State.setBit_keeps (State.wr_keeps (State.isolate_keeps (State.wr_keeps h7)))) (State.checkRoute_keeps h7)

theorem State.beatLoss_keeps {z s : State} (h : Keeps z s) : Keeps z (State.beatLoss s) := by
  unfold State.beatLoss
  exact Keeps.ite (State.isolate_keeps (Keeps.upd h rfl rfl id id rfl)) h

theorem State.releaseHeld_keeps {z s : State} {a1} (h : Keeps z s) : Keeps z (State.releaseHeld s a1) := by
  unfold State.releaseHeld
  exact Keeps.ite (State.send_keeps h) (Keeps.upd h rfl rfl id id rfl)

theorem State.rejoin_keeps {z s : State} (h : Keeps z s) : Keeps z (State.rejoin s) := by
  unfold State.rejoin
  apply Keeps.ite
  · extract_lets +onlyGivenNames u1
    clear_value u1
    extract_lets +onlyGivenNames u2
    refine Keeps.cut (s := u2) (State.wr_keeps h) fun h3 => ?_
    clear_value u2
    extract_lets +onlyGivenNames u4
    clear_value u4
    extract_lets +onlyGivenNames u5
    refine Keeps.cut (s := u5) (Keeps.upd h3 rfl rfl id id rfl) fun h6 => ?_
    clear_value u5
    exact Keeps.foldl h6 (fun x7 x8 h9 => State.releaseHeld_keeps h9)
  · exact State.discard_keeps h

theorem State.becomeSource_keeps {z s : State} (h : Keeps z s) : Keeps z (State.becomeSource s) := by
  unfold State.becomeSource
  extract_lets +onlyGivenNames u1
  clear_value u1
  extract_lets +onlyGivenNames u2
  refine Keeps.cut (s := u2) (Keeps.upd h rfl rfl id id rfl) fun h3 => ?_
  clear_value u2
  exact State.wr_keeps (State.wr_keeps (State.wr_keeps h3))

theorem State.endMaster_keeps {z s : State} {a1} (h : Keeps z s) : Keeps z (State.endMaster s a1) := by
  unfold State.endMaster
  apply Keeps.ite
  · extract_lets +onlyGivenNames u1
    refine Keeps.cut (s := u1) (State.setBit_keeps (State.wr_keeps (State.wr_keeps h))) fun h2 => ?_
    clear_value u1
    exact State.error_keeps h2
  · exact h

theorem State.leaseWrite_keeps {z s : State} {a1} (h : Keeps z s) : Keeps z (State.leaseWrite s a1) := by
  unfold State.leaseWrite
  extract_lets +onlyGivenNames u1
  refine Keeps.cut (s := u1) (State.wr_keeps h) fun h2 => ?_
  clear_value u1
  exact Keeps.ite (Keeps.ite h2 (State.wr_keeps (State.becomeSource_keeps h2))) (State.endMaster_keeps h2)

theorem State.beatTimer_keeps {z s : State} (h : Keeps z s) : Keeps z (State.beatTimer s) := by
  unfold State.beatTimer
  apply Keeps.ite
  · extract_lets +onlyGivenNames u1
    refine Keeps.cut (s := u1) (Keeps.foldl h (fun x2 x3 h4 => State.send_keeps h4)) fun h5 => ?_
    clear_value u1
    exact State.beatIn_keeps h5
  · exact h

theorem State.deliver_keeps {z s : State} {a1} (h : Keeps z s) : Keeps z (State.deliver s a1) := by
  unfold State.deliver
  extract_lets +onlyGivenNames u1
  clear_value u1
  exact Keeps.ite (State.beatIn_keeps h) (Keeps.ite (State.homeAccept_keeps h) (Keeps.ite (State.readReply_keeps h) (Keeps.ite (State.ackReply_keeps h) (Keeps.ite (State.spInvalIn_keeps h) (Keeps.ite (State.spRepubIn_keeps h) (Keeps.ite (State.deliverLedger_keeps h) (State.deliverHome_keeps h)))))))

theorem State.forward_keeps {z s : State} {a1} (h : Keeps z s) : Keeps z (State.forward s a1) := by
  unfold State.forward
  extract_lets +onlyGivenNames u1
  clear_value u1
  extract_lets +onlyGivenNames u2
  clear_value u2
  extract_lets +onlyGivenNames u3
  clear_value u3
  apply Keeps.ite
  · exact State.deliver_keeps h
  · apply Keeps.ite
    · exact State.setBit_keeps (State.bump_keeps h)
    · extract_lets +onlyGivenNames u4
      clear_value u4
      extract_lets +onlyGivenNames u5
      clear_value u5
      extract_lets +onlyGivenNames u6
      clear_value u6
      extract_lets +onlyGivenNames u7
      refine Keeps.cut (s := u7) (State.count_keeps h) fun h8 => ?_
      clear_value u7
      extract_lets +onlyGivenNames u9
      refine Keeps.cut (s := u9) (Keeps.upd h8 rfl rfl id id rfl) fun h10 => ?_
      clear_value u9
      split
      · exact Keeps.upd h10 rfl rfl id id rfl
      · exact h10

theorem State.arriveMsg_keeps {z s : State} {a1} (h : Keeps z s) : Keeps z (State.arriveMsg s a1) := by
  unfold State.arriveMsg
  exact Keeps.ite (State.forward_keeps h) (State.deliver_keeps h)

theorem execSpanFwd_keeps {z s t : State} {a0} {a1} (h : Keeps z s) (e : execSpanFwd a0 a1 s = .next t) : Keeps z t := by
  unfold execSpanFwd at e
  injection e with e
  subst e
  exact State.choices_keeps (State.forward_keeps h)

theorem execMasterBeat_keeps {z s t : State} {a0} (h : Keeps z s) (e : execMasterBeat a0 s = .next t) : Keeps z t := by
  unfold execMasterBeat at e
  injection e with e
  subst e
  exact State.beatIn_keeps h

theorem execBeatTimer_keeps {z s t : State} (h : Keeps z s) (e : execBeatTimer s = .next t) : Keeps z t := by
  unfold execBeatTimer at e
  injection e with e
  subst e
  exact State.beatTimer_keeps h

theorem execBeatLoss_keeps {z s t : State} (h : Keeps z s) (e : execBeatLoss s = .next t) : Keeps z t := by
  unfold execBeatLoss at e
  injection e with e
  subst e
  exact State.beatLoss_keeps h

theorem execLeaseExpiry_keeps {z s t : State} (h : Keeps z s) (e : execLeaseExpiry s = .next t) : Keeps z t := by
  unfold execLeaseExpiry at e
  injection e with e
  subst e
  exact State.endMaster_keeps h

theorem execLeaseGrant_keeps {z s t : State} {a0} (h : Keeps z s) (e : execLeaseGrant a0 s = .next t) : Keeps z t := by
  unfold execLeaseGrant at e
  injection e with e
  subst e
  exact State.leaseWrite_keeps h

theorem execLeaseRevoke_keeps {z s t : State} (h : Keeps z s) (e : execLeaseRevoke s = .next t) : Keeps z t := by
  unfold execLeaseRevoke at e
  injection e with e
  subst e
  exact State.endMaster_keeps h

theorem execRejoin_keeps {z s t : State} (h : Keeps z s) (e : execRejoin s = .next t) : Keeps z t := by
  unfold execRejoin at e
  injection e with e
  subst e
  exact State.rejoin_keeps h

end Sys2Proof.Machine
end

