-- ==== Sys2Proof/Laws/KeepLinks.lean ====
section
/-!
SUPPORT. The operations of Links keep the queue and the canonical memories.
-/

namespace Sys2Proof.Machine

theorem State.noRate_keeps {z s : State} {a1} (h : Keeps z s) : Keeps z (State.noRate s a1) := by
  unfold State.noRate
  exact State.modLport_keeps (State.wr_keeps (State.wr_keeps h))

theorem State.emptyPort_keeps {z s : State} {a1} (h : Keeps z s) : Keeps z (State.emptyPort s a1) := by
  unfold State.emptyPort
  exact State.modLport_keeps (Keeps.upd h rfl rfl id id rfl)

theorem State.portLost_keeps {z s : State} {a1} {a2} {a3} (h : Keeps z s) : Keeps z (State.portLost s a1 a2 a3) := by
  unfold State.portLost
  extract_lets +onlyGivenNames u1
  clear_value u1
  extract_lets +onlyGivenNames u2
  clear_value u2
  extract_lets +onlyGivenNames u3
  refine Keeps.cut (s := u3) (State.wr_keeps (State.wr_keeps (State.noRate_keeps h))) fun h4 => ?_
  clear_value u3
  extract_lets +onlyGivenNames u5
  refine Keeps.cut (s := u5) (State.setBit_keeps h4) fun h6 => ?_
  clear_value u5
  extract_lets +onlyGivenNames u7
  refine Keeps.cut (s := u7) (Keeps.ite (State.setBit_keeps (State.bump_keeps h6)) h6) fun h8 => ?_
  clear_value u7
  extract_lets +onlyGivenNames u9
  refine Keeps.cut (s := u9) (State.emptyPort_keeps h8) fun h10 => ?_
  clear_value u9
  extract_lets +onlyGivenNames u11
  refine Keeps.cut (s := u11) (State.error_keeps h10) fun h12 => ?_
  clear_value u11
  exact State.checkRoute_keeps h12

theorem State.beginAttempt_keeps {z s : State} {a1} {a2} (h : Keeps z s) : Keeps z (State.beginAttempt s a1 a2) := by
  unfold State.beginAttempt
  extract_lets +onlyGivenNames u1
  refine Keeps.cut (s := u1) (State.wr_keeps (State.wr_keeps (State.wr_keeps h))) fun h2 => ?_
  clear_value u1
  exact State.modLport_keeps (State.wr_keeps h2)

theorem State.disablePort_keeps {z s : State} {a1} (h : Keeps z s) : Keeps z (State.disablePort s a1) := by
  unfold State.disablePort
  extract_lets +onlyGivenNames u1
  clear_value u1
  extract_lets +onlyGivenNames u2
  refine Keeps.cut (s := u2) (State.wr_keeps (State.wr_keeps (State.noRate_keeps h))) fun h3 => ?_
  clear_value u2
  exact Keeps.ite (State.checkRoute_keeps h3) h3

theorem State.startTraining_keeps {z s : State} {a1} (h : Keeps z s) : Keeps z (State.startTraining s a1) := by
  unfold State.startTraining
  apply Keeps.ite
  · exact State.disablePort_keeps h
  · extract_lets +onlyGivenNames u1
    clear_value u1
    extract_lets +onlyGivenNames u2
    refine Keeps.cut (s := u2) (State.wr_keeps (State.modLport_keeps h)) fun h3 => ?_
    clear_value u2
    extract_lets +onlyGivenNames u4
    refine Keeps.cut (s := u4) (State.beginAttempt_keeps h3) fun h5 => ?_
    clear_value u4
    exact Keeps.ite (State.checkRoute_keeps h5) h5

theorem State.failAttempt_keeps {z s : State} {a1} {a2} (h : Keeps z s) : Keeps z (State.failAttempt s a1 a2) := by
  unfold State.failAttempt
  extract_lets +onlyGivenNames u1
  refine Keeps.cut (s := u1) (State.count_keeps (State.bump_keeps h)) fun h2 => ?_
  clear_value u1
  extract_lets +onlyGivenNames u3
  clear_value u3
  exact Keeps.ite (State.portLost_keeps h2) (State.beginAttempt_keeps (State.wr_keeps h2))

theorem State.portUp_keeps {z s : State} {a1} (h : Keeps z s) : Keeps z (State.portUp s a1) := by
  unfold State.portUp
  extract_lets +onlyGivenNames u1
  clear_value u1
  extract_lets +onlyGivenNames u2
  refine Keeps.cut (s := u2) (State.wr_keeps (State.wr_keeps h)) fun h3 => ?_
  clear_value u2
  apply Keeps.ite
  · exact State.modLport_keeps h3
  · extract_lets +onlyGivenNames u4
    clear_value u4
    extract_lets +onlyGivenNames u5
    clear_value u5
    extract_lets +onlyGivenNames u6
    clear_value u6
    extract_lets +onlyGivenNames u7
    clear_value u7
    exact State.modLport_keeps h3

theorem State.settleExchange_keeps {z s : State} {a1} (h : Keeps z s) : Keeps z (State.settleExchange s a1) := by
  unfold State.settleExchange
  exact Keeps.ite (State.portUp_keeps h) h

theorem State.helloIn_keeps {z s : State} {a1} {a2} {a3} {a4} {a5} {a6} {a7} {a8} (h : Keeps z s) : Keeps z (State.helloIn s a1 a2 a3 a4 a5 a6 a7 a8) := by
  unfold State.helloIn
  apply Keeps.ite
  · exact h
  · extract_lets +onlyGivenNames u1
    clear_value u1
    extract_lets +onlyGivenNames u2
    refine Keeps.cut (s := u2) (State.wr_keeps (State.wr_keeps (State.wr_keeps h))) fun h3 => ?_
    clear_value u2
    extract_lets +onlyGivenNames u4
    clear_value u4
    apply Keeps.ite
    · exact State.portLost_keeps (State.wr_keeps h3)
    · extract_lets +onlyGivenNames u5
      refine Keeps.cut (s := u5) (State.wr_keeps h3) fun h6 => ?_
      clear_value u5
      apply Keeps.ite
      · exact State.portLost_keeps h6
      · extract_lets +onlyGivenNames u7
        clear_value u7
        extract_lets +onlyGivenNames u8
        clear_value u8
        extract_lets +onlyGivenNames u9
        refine Keeps.cut (s := u9) (Keeps.ite (State.modLport_keeps (State.bump_keeps h6)) h6) fun h10 => ?_
        clear_value u9
        exact State.settleExchange_keeps (State.modLport_keeps h10)

theorem State.phaseDone_keeps {z s : State} {a1} (h : Keeps z s) : Keeps z (State.phaseDone s a1) := by
  unfold State.phaseDone
  extract_lets +onlyGivenNames u1
  clear_value u1
  apply Keeps.ite
  · exact h
  · extract_lets +onlyGivenNames u2
    clear_value u2
    exact Keeps.ite (State.wr_keeps h) (Keeps.ite (Keeps.ite (State.portUp_keeps h) (State.wr_keeps h)) (Keeps.ite (State.portUp_keeps h) h))

theorem State.phaseLimit_keeps {z s : State} {a1} (h : Keeps z s) : Keeps z (State.phaseLimit s a1) := by
  unfold State.phaseLimit
  exact Keeps.ite (State.failAttempt_keeps h) h

theorem State.trainingRetry_keeps {z s : State} {a1} (h : Keeps z s) : Keeps z (State.trainingRetry s a1) := by
  unfold State.trainingRetry
  exact Keeps.ite (State.startTraining_keeps h) h

theorem State.unplug_keeps {z s : State} {a1} (h : Keeps z s) : Keeps z (State.unplug s a1) := by
  unfold State.unplug
  extract_lets +onlyGivenNames u1
  clear_value u1
  exact Keeps.ite (State.portLost_keeps h) h

theorem State.retrainAll_keeps {z s : State} (h : Keeps z s) : Keeps z (State.retrainAll s) := by
  unfold State.retrainAll
  exact Keeps.foldl h (fun x1 x2 h3 => State.startTraining_keeps h3)

theorem State.retrainSlow_keeps {z s : State} (h : Keeps z s) : Keeps z (State.retrainSlow s) := by
  unfold State.retrainSlow
  exact Keeps.foldl h (fun x1 x2 h3 => State.startTraining_keeps h3)

theorem State.trainPorts_keeps {z s : State} (h : Keeps z s) : Keeps z (State.trainPorts s) := by
  unfold State.trainPorts
  exact Keeps.foldl h (fun x1 x2 h3 => State.startTraining_keeps h3)

theorem State.assignId_keeps {z s : State} {a1} (h : Keeps z s) : Keeps z (State.assignId s a1) := by
  unfold State.assignId
  extract_lets +onlyGivenNames u1
  clear_value u1
  exact Keeps.ite (State.retrainAll_keeps (State.wr_keeps h)) (State.discard_keeps h)

theorem State.fastRetrain_keeps {z s : State} {a1} {a2} (h : Keeps z s) : Keeps z (State.fastRetrain s a1 a2) := by
  unfold State.fastRetrain
  apply Keeps.ite
  · exact h
  · extract_lets +onlyGivenNames u1
    clear_value u1
    extract_lets +onlyGivenNames u2
    refine Keeps.cut (s := u2) (State.wr_keeps (State.wr_keeps (State.wr_keeps h))) fun h3 => ?_
    clear_value u2
    extract_lets +onlyGivenNames u4
    refine Keeps.cut (s := u4) (State.setBit_keeps (State.count_keeps (State.bump_keeps h3))) fun h5 => ?_
    clear_value u4
    extract_lets +onlyGivenNames u6
    refine Keeps.cut (s := u6) (State.trace_keeps h5) fun h7 => ?_
    clear_value u6
    extract_lets +onlyGivenNames u8
    refine Keeps.cut (s := u8) (State.modLport_keeps h7) fun h9 => ?_
    clear_value u8
    exact State.checkRoute_keeps h9

theorem State.retrainLimit_keeps {z s : State} {a1} (h : Keeps z s) : Keeps z (State.retrainLimit s a1) := by
  unfold State.retrainLimit
  exact Keeps.ite (State.startTraining_keeps h) h

theorem State.startReplay_keeps {z s : State} {a1} {a2} (h : Keeps z s) : Keeps z (State.startReplay s a1 a2) := by
  unfold State.startReplay
  extract_lets +onlyGivenNames u1
  clear_value u1
  exact Keeps.ite (State.fastRetrain_keeps h) (State.modLport_keeps h)

theorem State.controlIn_keeps {z s : State} {a1} {a2} {a3} {a4} (h : Keeps z s) : Keeps z (State.controlIn s a1 a2 a3 a4) := by
  unfold State.controlIn
  exact State.modLport_keeps h

theorem State.ackFlit_keeps {z s : State} {a1} {a2} {a3} {a4} (h : Keeps z s) : Keeps z (State.ackFlit s a1 a2 a3 a4) := by
  unfold State.ackFlit
  exact Keeps.ite (State.controlIn_keeps h) h

theorem State.nakFlit_keeps {z s : State} {a1} {a2} {a3} {a4} (h : Keeps z s) : Keeps z (State.nakFlit s a1 a2 a3 a4) := by
  unfold State.nakFlit
  exact Keeps.ite (State.startReplay_keeps (State.controlIn_keeps (State.bump_keeps h))) h

theorem State.replayStart_keeps {z s : State} {a1} {a2} (h : Keeps z s) : Keeps z (State.replayStart s a1 a2) := by
  unfold State.replayStart
  exact Keeps.ite (State.modLport_keeps h) h

theorem State.badFlit_keeps {z s : State} {a1} {a2} (h : Keeps z s) : Keeps z (State.badFlit s a1 a2) := by
  unfold State.badFlit
  extract_lets +onlyGivenNames u1
  have h2 : Keeps z u1 := by
    subst u1
    split
    · exact Keeps.ite (State.bump_keeps h) h
    · exact h
  clear_value u1
  apply Keeps.ite
  · exact h2
  · split
    · exact State.setBit_keeps (State.bump_keeps h2)
    · exact State.modLport_keeps h2

theorem State.replayTimeout_keeps {z s : State} {a1} (h : Keeps z s) : Keeps z (State.replayTimeout s a1) := by
  unfold State.replayTimeout
  split
  · exact h
  · exact Keeps.ite (State.startReplay_keeps (State.count_keeps h)) h

theorem State.nakRetry_keeps {z s : State} {a1} (h : Keeps z s) : Keeps z (State.nakRetry s a1) := by
  unfold State.nakRetry
  exact Keeps.ite (State.modLport_keeps h) h

theorem State.ackTimer_keeps {z s : State} {a1} (h : Keeps z s) : Keeps z (State.ackTimer s a1) := by
  unfold State.ackTimer
  exact Keeps.ite (State.modLport_keeps h) h

theorem State.countCorr_keeps {z s : State} {a1} {a2} {a3} (h : Keeps z s) : Keeps z (State.countCorr s a1 a2 a3) := by
  unfold State.countCorr
  extract_lets +onlyGivenNames u1
  refine Keeps.cut (s := u1) (State.bump_keeps (State.bump_keeps h)) fun h2 => ?_
  clear_value u1
  extract_lets +onlyGivenNames u3
  clear_value u3
  exact State.modLport_keeps (State.count_keeps h2)

theorem State.stick_keeps {z s : State} {a1} {a2} {a3} (h : Keeps z s) : Keeps z (State.stick s a1 a2 a3) := by
  unfold State.stick
  split
  · exact State.modLport_keeps (Keeps.upd h rfl rfl id id rfl)
  · exact h

theorem State.dataFlit_keeps {z s : State} {a1} {a2} {a3} {a4} {a5} {a6} {a7} (h : Keeps z s) : Keeps z (State.dataFlit s a1 a2 a3 a4 a5 a6 a7) := by
  unfold State.dataFlit
  extract_lets +onlyGivenNames u1
  refine Keeps.cut (s := u1) (Keeps.ite (State.countCorr_keeps h) h) fun h2 => ?_
  clear_value u1
  apply Keeps.ite
  · exact h2
  · extract_lets +onlyGivenNames u3
    clear_value u3
    apply Keeps.ite
    · exact h2
    · extract_lets +onlyGivenNames u4
      clear_value u4
      apply Keeps.ite
      · exact State.modLport_keeps h2
      · split
        · exact State.badFlit_keeps h2
        · extract_lets +onlyGivenNames u5
          clear_value u5
          extract_lets +onlyGivenNames u6
          refine Keeps.cut (s := u6) (State.modLport_keeps h2) fun h7 => ?_
          clear_value u6
          extract_lets +onlyGivenNames u8
          refine Keeps.cut (s := u8) (State.count_keeps h7) fun h9 => ?_
          clear_value u8
          exact Keeps.ite (State.stick_keeps (State.arriveMsg_keeps h9)) h9

theorem State.putFlit_keeps {z s : State} {a1} {a2} {a3} (h : Keeps z s) : Keeps z (State.putFlit s a1 a2 a3) := by
  unfold State.putFlit
  exact State.modLport_keeps h

theorem State.sendControl_keeps {z s : State} {a1} {a2} (h : Keeps z s) : Keeps z (State.sendControl s a1 a2) := by
  unfold State.sendControl
  extract_lets +onlyGivenNames u1
  clear_value u1
  extract_lets +onlyGivenNames u2
  clear_value u2
  split
  extract_lets +onlyGivenNames u3
  clear_value u3
  extract_lets +onlyGivenNames u4
  clear_value u4
  extract_lets +onlyGivenNames u5
  refine Keeps.cut (s := u5) (Keeps.ite (State.count_keeps (State.bump_keeps h)) h) fun h6 => ?_
  clear_value u5
  extract_lets +onlyGivenNames u7
  refine Keeps.cut (s := u7) (State.putFlit_keeps h6) fun h8 => ?_
  clear_value u7
  exact State.modLport_keeps h8

theorem State.sendReplay_keeps {z s : State} {a1} (h : Keeps z s) : Keeps z (State.sendReplay s a1) := by
  unfold State.sendReplay
  extract_lets +onlyGivenNames u1
  clear_value u1
  extract_lets +onlyGivenNames u2
  clear_value u2
  split
  · exact h
  · extract_lets +onlyGivenNames u3
    refine Keeps.cut (s := u3) (State.putFlit_keeps (State.bump_keeps h)) fun h4 => ?_
    clear_value u3
    exact State.modLport_keeps h4

theorem State.sendNew_keeps {z s : State} {a1} {a2} {a3} (h : Keeps z s) : Keeps z (State.sendNew s a1 a2 a3) := by
  unfold State.sendNew
  extract_lets +onlyGivenNames u1
  clear_value u1
  extract_lets +onlyGivenNames u2
  clear_value u2
  extract_lets +onlyGivenNames u3
  clear_value u3
  extract_lets +onlyGivenNames u4
  clear_value u4
  extract_lets +onlyGivenNames u5
  refine Keeps.cut (s := u5) (State.putFlit_keeps (State.count_keeps h)) fun h6 => ?_
  clear_value u5
  extract_lets +onlyGivenNames u7
  clear_value u7
  exact State.modLport_keeps h6

theorem State.beginSend_keeps {z s : State} {a1} {a2} (h : Keeps z s) : Keeps z (State.beginSend s a1 a2) := by
  unfold State.beginSend
  extract_lets +onlyGivenNames u1
  refine Keeps.cut (s := u1) (Keeps.upd h rfl rfl id id rfl) fun h2 => ?_
  clear_value u1
  exact Keeps.ite (State.count_keeps h2) h2

theorem State.chooseSent_keeps {z s : State} {a1} {a2} (h : Keeps z s) : Keeps z (State.chooseSent s a1 a2).1 := by
  unfold State.chooseSent
  split
  · exact State.devCharge_keeps (State.beginSend_keeps h)
  · extract_lets +onlyGivenNames u1
    clear_value u1
    extract_lets +onlyGivenNames u2
    clear_value u2
    extract_lets +onlyGivenNames u3
    clear_value u3
    extract_lets +onlyGivenNames u4
    clear_value u4
    split
    · exact h
    · extract_lets +onlyGivenNames u5
      refine Keeps.cut (s := u5) (State.modLport_keeps (State.beginSend_keeps h)) fun h6 => ?_
      clear_value u5
      exact Keeps.ite (State.charge_keeps h6) h6

theorem State.nextSend_keeps {z s : State} {a1} {a2} (h : Keeps z s) : Keeps z (State.nextSend s a1 a2).1 := by
  unfold State.nextSend
  extract_lets +onlyGivenNames u1
  have h2 : Keeps z u1.1 := State.chooseSent_keeps h
  clear_value u1
  exact h2

theorem State.bulkNext_keeps {z s : State} {a1} (h : Keeps z s) : Keeps z (State.bulkNext s a1).1 := by
  unfold State.bulkNext
  split
  · exact h
  · exact State.nextSend_keeps h

theorem State.exprNext_keeps {z s : State} {a1} (h : Keeps z s) : Keeps z (State.exprNext s a1).1 := by
  unfold State.exprNext
  split
  · exact h
  · exact State.nextSend_keeps h

theorem State.sendIdle_keeps {z s : State} {a1} (h : Keeps z s) : Keeps z (State.sendIdle s a1) := by
  unfold State.sendIdle
  exact State.putFlit_keeps h

theorem State.sendBulk_keeps {z s : State} {a1} (h : Keeps z s) : Keeps z (State.sendBulk s a1) := by
  unfold State.sendBulk
  split
  · rename_i x1 s2 x3 x4
    have h5 : Keeps z s2 := Keeps.pair (State.bulkNext_keeps h) x4
    exact State.modLport_keeps (State.sendNew_keeps h5)
  · rename_i x6 s7 x8
    have h9 : Keeps z s7 := Keeps.pair (State.bulkNext_keeps h) x8
    exact State.sendIdle_keeps h9

theorem State.sendExpr_keeps {z s : State} {a1} {a2} (h : Keeps z s) : Keeps z (State.sendExpr s a1 a2) := by
  unfold State.sendExpr
  split
  · rename_i x1 s2 x3 x4
    have h5 : Keeps z s2 := Keeps.pair (State.exprNext_keeps h) x4
    exact State.modLport_keeps (State.sendNew_keeps h5)
  · rename_i x6 s7 x8
    have h9 : Keeps z s7 := Keeps.pair (State.exprNext_keeps h) x8
    exact State.sendIdle_keeps h9

theorem State.dataSlot_keeps {z s : State} {a1} (h : Keeps z s) : Keeps z (State.dataSlot s a1) := by
  unfold State.dataSlot
  extract_lets +onlyGivenNames u1
  clear_value u1
  extract_lets +onlyGivenNames u2
  clear_value u2
  extract_lets +onlyGivenNames u3
  clear_value u3
  exact Keeps.ite (State.sendIdle_keeps h) (Keeps.ite (State.sendIdle_keeps (State.bump_keeps h)) (Keeps.ite (State.sendBulk_keeps h) (State.sendExpr_keeps h)))

theorem State.sendTrain_keeps {z s : State} {a1} (h : Keeps z s) : Keeps z (State.sendTrain s a1) := by
  unfold State.sendTrain
  exact State.useFree_keeps (State.putFlit_keeps h)

theorem State.flitSlot_keeps {z s : State} {a1} (h : Keeps z s) : Keeps z (State.flitSlot s a1) := by
  unfold State.flitSlot
  extract_lets +onlyGivenNames u1
  clear_value u1
  apply Keeps.ite
  · exact Keeps.ite (State.sendTrain_keeps h) h
  · extract_lets +onlyGivenNames u2
    clear_value u2
    apply Keeps.ite
    · exact Keeps.ite (State.sendControl_keeps h) (Keeps.ite (State.sendReplay_keeps h) (State.dataSlot_keeps h))
    · apply Keeps.ite
      · exact State.sendControl_keeps h
      · apply Keeps.ite
        · extract_lets +onlyGivenNames u3
          clear_value u3
          extract_lets +onlyGivenNames u4
          refine Keeps.cut (s := u4) (State.putFlit_keeps h) fun h5 => ?_
          clear_value u4
          exact State.settleExchange_keeps (State.modLport_keeps h5)
        · exact State.sendTrain_keeps h

theorem State.ctlDue_keeps {z s : State} {a1} {a2} (h : Keeps z s) : Keeps z (State.ctlDue s a1 a2) := by
  unfold State.ctlDue
  exact State.modLport_keeps h

theorem State.timeSend_keeps {z s : State} (h : Keeps z s) : Keeps z (State.timeSend s) := by
  unfold State.timeSend
  exact Keeps.ite (Keeps.foldl h (fun x1 x2 h3 => State.ctlDue_keeps h3)) h

theorem State.correctTime_keeps {z s : State} {a1} (h : Keeps z s) : Keeps z (State.correctTime s a1) := by
  unfold State.correctTime
  extract_lets +onlyGivenNames u1
  clear_value u1
  exact Keeps.ite (Keeps.upd h rfl rfl id id rfl) (Keeps.ite (Keeps.upd h rfl rfl id id rfl) (Keeps.ite (Keeps.upd h rfl rfl id id rfl) (Keeps.upd h rfl rfl id id rfl)))

theorem State.timeIn_keeps {z s : State} {a1} {a2} {a3} {a4} (h : Keeps z s) : Keeps z (State.timeIn s a1 a2 a3 a4) := by
  unfold State.timeIn
  apply Keeps.ite
  · exact h
  · extract_lets +onlyGivenNames u1
    refine Keeps.cut (s := u1) (State.modLport_keeps h) fun h2 => ?_
    clear_value u1
    apply Keeps.ite
    · extract_lets +onlyGivenNames u3
      refine Keeps.cut (s := u3) (State.correctTime_keeps h2) fun h4 => ?_
      clear_value u3
      exact State.wr_keeps (State.wr_keeps (State.wr_keeps h4))
    · exact h2

theorem State.spanTimeLost_keeps {z s : State} (h : Keeps z s) : Keeps z (State.spanTimeLost s) := by
  unfold State.spanTimeLost
  apply Keeps.ite
  · extract_lets +onlyGivenNames u1
    refine Keeps.cut (s := u1) (State.wr_keeps (State.wr_keeps h)) fun h2 => ?_
    clear_value u1
    extract_lets +onlyGivenNames u3
    refine Keeps.cut (s := u3) (Keeps.foldl h2 (fun x4 x5 h6 => State.modLport_keeps h6)) fun h7 => ?_
    clear_value u3
    exact State.alarm_keeps h7
  · exact h

theorem State.delayRsp_keeps {z s : State} {a1} {a2} {a3} {a4} (h : Keeps z s) : Keeps z (State.delayRsp s a1 a2 a3 a4) := by
  unfold State.delayRsp
  apply Keeps.ite
  · exact h
  · extract_lets +onlyGivenNames u1
    clear_value u1
    exact Keeps.ite (State.wr_keeps h) (State.useFree_keeps (State.wr_keeps h))

theorem State.tickSpanTime_keeps {z s : State} (h : Keeps z s) : Keeps z (State.tickSpanTime s) := by
  unfold State.tickSpanTime
  apply Keeps.ite
  · exact Keeps.upd h rfl rfl id id rfl
  · apply Keeps.ite
    · extract_lets +onlyGivenNames u1
      clear_value u1
      exact Keeps.upd h rfl rfl id id rfl
    · exact h

theorem execHello_keeps {z s t : State} {a0} {a1} {a2} {a3} {a4} {a5} {a6} {a7} {a8} (h : Keeps z s) (e : execHello a0 a1 a2 a3 a4 a5 a6 a7 a8 s = .next t) : Keeps z t := by
  unfold execHello at e
  injection e with e
  subst e
  exact State.helloIn_keeps h

theorem execReplayStart_keeps {z s t : State} {a0} {a1} (h : Keeps z s) (e : execReplayStart a0 a1 s = .next t) : Keeps z t := by
  unfold execReplayStart at e
  injection e with e
  subst e
  exact State.replayStart_keeps h

theorem execAck_keeps {z s t : State} {a0} {a1} {a2} {a3} (h : Keeps z s) (e : execAck a0 a1 a2 a3 s = .next t) : Keeps z t := by
  unfold execAck at e
  injection e with e
  subst e
  exact State.ackFlit_keeps h

theorem execNak_keeps {z s t : State} {a0} {a1} {a2} {a3} (h : Keeps z s) (e : execNak a0 a1 a2 a3 s = .next t) : Keeps z t := by
  unfold execNak at e
  injection e with e
  subst e
  exact State.nakFlit_keeps h

theorem execBadFlit_keeps {z s t : State} {a0} {a1} (h : Keeps z s) (e : execBadFlit a0 a1 s = .next t) : Keeps z t := by
  unfold execBadFlit at e
  injection e with e
  subst e
  exact State.badFlit_keeps h

theorem execAckTimer_keeps {z s t : State} {a0} (h : Keeps z s) (e : execAckTimer a0 s = .next t) : Keeps z t := by
  unfold execAckTimer at e
  injection e with e
  subst e
  exact State.ackTimer_keeps h

theorem execReplayTimeout_keeps {z s t : State} {a0} (h : Keeps z s) (e : execReplayTimeout a0 s = .next t) : Keeps z t := by
  unfold execReplayTimeout at e
  injection e with e
  subst e
  exact State.replayTimeout_keeps h

theorem execNakRetry_keeps {z s t : State} {a0} (h : Keeps z s) (e : execNakRetry a0 s = .next t) : Keeps z t := by
  unfold execNakRetry at e
  injection e with e
  subst e
  exact State.nakRetry_keeps h

theorem execTime_keeps {z s t : State} {a0} {a1} {a2} {a3} (h : Keeps z s) (e : execTime a0 a1 a2 a3 s = .next t) : Keeps z t := by
  unfold execTime at e
  injection e with e
  subst e
  exact State.timeIn_keeps h

theorem execTimeSend_keeps {z s t : State} (h : Keeps z s) (e : execTimeSend s = .next t) : Keeps z t := by
  unfold execTimeSend at e
  injection e with e
  subst e
  exact State.timeSend_keeps h

theorem execDelayReq_keeps {z s t : State} {a0} {a1} (h : Keeps z s) (e : execDelayReq a0 a1 s = .next t) : Keeps z t := by
  unfold execDelayReq at e
  injection e with e
  subst e
  exact Keeps.ite (State.ctlDue_keeps h) h

theorem execDelayRsp_keeps {z s t : State} {a0} {a1} {a2} {a3} (h : Keeps z s) (e : execDelayRsp a0 a1 a2 a3 s = .next t) : Keeps z t := by
  unfold execDelayRsp at e
  injection e with e
  subst e
  exact State.delayRsp_keeps h

theorem execDelayMeasure_keeps {z s t : State} {a0} (h : Keeps z s) (e : execDelayMeasure a0 s = .next t) : Keeps z t := by
  unfold execDelayMeasure at e
  injection e with e
  subst e
  exact Keeps.ite (State.ctlDue_keeps h) h

theorem execSpanTimeLost_keeps {z s t : State} (h : Keeps z s) (e : execSpanTimeLost s = .next t) : Keeps z t := by
  unfold execSpanTimeLost at e
  injection e with e
  subst e
  exact State.spanTimeLost_keeps h

theorem execRetrainReq_keeps {z s t : State} {a0} {a1} (h : Keeps z s) (e : execRetrainReq a0 a1 s = .next t) : Keeps z t := by
  unfold execRetrainReq at e
  injection e with e
  subst e
  exact Keeps.ite (State.fastRetrain_keeps h) h

theorem execRetrain_keeps {z s t : State} {a0} (h : Keeps z s) (e : execRetrain a0 s = .next t) : Keeps z t := by
  unfold execRetrain at e
  injection e with e
  subst e
  exact State.fastRetrain_keeps h

theorem execLockLoss_keeps {z s t : State} {a0} (h : Keeps z s) (e : execLockLoss a0 s = .next t) : Keeps z t := by
  unfold execLockLoss at e
  injection e with e
  subst e
  exact State.fastRetrain_keeps h

theorem execUncorrLimit_keeps {z s t : State} {a0} (h : Keeps z s) (e : execUncorrLimit a0 s = .next t) : Keeps z t := by
  unfold execUncorrLimit at e
  injection e with e
  subst e
  exact State.fastRetrain_keeps h

theorem execRetrainPhaseLimit_keeps {z s t : State} {a0} (h : Keeps z s) (e : execRetrainPhaseLimit a0 s = .next t) : Keeps z t := by
  unfold execRetrainPhaseLimit at e
  injection e with e
  subst e
  exact State.retrainLimit_keeps h

theorem execTrainingPhaseDone_keeps {z s t : State} {a0} (h : Keeps z s) (e : execTrainingPhaseDone a0 s = .next t) : Keeps z t := by
  unfold execTrainingPhaseDone at e
  injection e with e
  subst e
  exact State.phaseDone_keeps h

theorem execTrainingPhaseLimit_keeps {z s t : State} {a0} (h : Keeps z s) (e : execTrainingPhaseLimit a0 s = .next t) : Keeps z t := by
  unfold execTrainingPhaseLimit at e
  injection e with e
  subst e
  exact State.phaseLimit_keeps h

theorem execTrainingRetry_keeps {z s t : State} {a0} (h : Keeps z s) (e : execTrainingRetry a0 s = .next t) : Keeps z t := by
  unfold execTrainingRetry at e
  injection e with e
  subst e
  exact State.trainingRetry_keeps h

theorem execUnplug_keeps {z s t : State} {a0} (h : Keeps z s) (e : execUnplug a0 s = .next t) : Keeps z t := by
  unfold execUnplug at e
  injection e with e
  subst e
  exact State.unplug_keeps h

theorem execFlitSlot_keeps {z s t : State} {a0} (h : Keeps z s) (e : execFlitSlot a0 s = .next t) : Keeps z t := by
  unfold execFlitSlot at e
  injection e with e
  subst e
  exact State.flitSlot_keeps h

theorem execDataFlit_keeps {z s t : State} {a0} {a1} {a2} {a3} {a4} {a5} {a6} (h : Keeps z s) (e : execDataFlit a0 a1 a2 a3 a4 a5 a6 s = .next t) : Keeps z t := by
  unfold execDataFlit at e
  injection e with e
  subst e
  exact State.choices_keeps (State.dataFlit_keeps h)

theorem execDeviceIdAssign_keeps {z s t : State} {a0} (h : Keeps z s) (e : execDeviceIdAssign a0 s = .next t) : Keeps z t := by
  unfold execDeviceIdAssign at e
  injection e with e
  subst e
  exact State.assignId_keeps h

end Sys2Proof.Machine
end

