-- ==== Sys2Proof/Laws/KeepField.lean ====
section
/-!
SUPPORT. The operations of Field keep the queue and the canonical memories.
-/

namespace Sys2Proof.Machine

theorem State.runField_keeps {z s : State} {a1} {a2} {a3} {a4} (h : Keeps z s) (ha4 : ∀ y0 y1, Keeps z y0 → Keeps z (a4 y0 y1)) : Keeps z (State.runField s a1 a2 a3 a4) := by
  unfold State.runField
  exact State.runSlot_keeps h (fun x1 x2 h3 => ha4 _ _ h3)

theorem State.putConn_keeps {z s : State} {a1} {a2} (h : Keeps z s) : Keeps z (State.putConn s a1 a2) := by
  unfold State.putConn
  exact Keeps.upd h rfl rfl id id rfl

theorem State.connOpen_keeps {z s : State} {a1} {a2} {a3} (h : Keeps z s) : Keeps z (State.connOpen s a1 a2 a3) := by
  unfold State.connOpen
  extract_lets +onlyGivenNames u1
  clear_value u1
  extract_lets +onlyGivenNames u2
  clear_value u2
  apply Keeps.ite
  · exact State.endJob_keeps h
  · split
    · exact State.endJob_keeps h
    · exact Keeps.ite (State.endJob_keeps h) (Keeps.ite (State.endJob_keeps h) (Keeps.ite (State.endJob_keeps h) (State.toFence_keeps (State.touch_keeps (State.putConn_keeps h)))))

theorem State.connClose_keeps {z s : State} {a1} {a2} {a3} (h : Keeps z s) : Keeps z (State.connClose s a1 a2 a3) := by
  unfold State.connClose
  extract_lets +onlyGivenNames u1
  clear_value u1
  exact Keeps.ite (State.endJob_keeps h) (Keeps.ite h (Keeps.ite (State.endJob_keeps h) (State.toFence_keeps (Keeps.upd h rfl rfl id id rfl))))

theorem State.connModify_keeps {z s : State} {a1} {a2} {a3} (h : Keeps z s) : Keeps z (State.connModify s a1 a2 a3) := by
  unfold State.connModify
  extract_lets +onlyGivenNames u1
  clear_value u1
  extract_lets +onlyGivenNames u2
  clear_value u2
  apply Keeps.ite
  · exact State.endJob_keeps h
  · apply Keeps.ite
    · exact State.endJob_keeps h
    · apply Keeps.ite
      · exact State.endJob_keeps h
      · apply Keeps.ite
        · exact State.endJob_keeps h
        · extract_lets +onlyGivenNames u3
          clear_value u3
          extract_lets +onlyGivenNames u4
          refine Keeps.cut (s := u4) (State.modConn_keeps h) fun h5 => ?_
          clear_value u4
          exact State.toFence_keeps (State.touch_keeps h5)

theorem State.connQueue_keeps {z s : State} {a1} {a2} {a3} {a4} (h : Keeps z s) : Keeps z (State.connQueue s a1 a2 a3 a4) := by
  unfold State.connQueue
  extract_lets +onlyGivenNames u1
  clear_value u1
  apply Keeps.ite
  · exact h
  · apply Keeps.ite
    · exact State.endJob_keeps h
    · apply Keeps.ite
      · exact State.endJob_keeps h
      · extract_lets +onlyGivenNames u2
        clear_value u2
        apply Keeps.ite
        · exact State.endJob_keeps h
        · extract_lets +onlyGivenNames u3
          clear_value u3
          extract_lets +onlyGivenNames u4
          clear_value u4
          extract_lets +onlyGivenNames u5
          refine Keeps.cut (s := u5) (Keeps.ite (State.touch_keeps h) h) fun h6 => ?_
          clear_value u5
          extract_lets +onlyGivenNames u7
          refine Keeps.cut (s := u7) (State.setJob_keeps h6) fun h8 => ?_
          clear_value u7
          exact State.modConn_keeps h8

theorem State.armList_keeps {z s : State} {a1} (h : Keeps z s) : Keeps z (State.armList s a1) := by
  unfold State.armList
  exact Keeps.ite (State.discard_keeps h) (Keeps.ite (State.setBit_keeps (State.discard_keeps h)) (State.modFport_keeps (State.wr_keeps h)))

theorem State.takeOver_keeps {z s : State} {a1} (h : Keeps z s) : Keeps z (State.takeOver s a1) := by
  unfold State.takeOver
  apply Keeps.ite
  · extract_lets +onlyGivenNames u1
    clear_value u1
    extract_lets +onlyGivenNames u2
    refine Keeps.cut (s := u2) (Keeps.foldl h (fun x3 x4 h5 => State.wr_keeps (State.wr_keeps h5))) fun h6 => ?_
    clear_value u2
    extract_lets +onlyGivenNames u7
    refine Keeps.cut (s := u7) (State.wr_keeps (State.wr_keeps h6)) fun h8 => ?_
    clear_value u7
    exact State.modFport_keeps (State.wr_keeps (State.wr_keeps h8))
  · exact h

theorem State.nextGate_keeps {z s : State} {a1} (h : Keeps z s) : Keeps z (State.nextGate s a1) := by
  unfold State.nextGate
  extract_lets +onlyGivenNames u1
  clear_value u1
  apply Keeps.ite
  · exact h
  · extract_lets +onlyGivenNames u2
    clear_value u2
    extract_lets +onlyGivenNames u3
    clear_value u3
    exact State.wr_keeps h

theorem State.refreshTags_keeps {z s : State} {a1} {a2} (h : Keeps z s) : Keeps z (State.refreshTags s a1 a2) := by
  unfold State.refreshTags
  extract_lets +onlyGivenNames u1
  clear_value u1
  extract_lets +onlyGivenNames u2
  clear_value u2
  extract_lets +onlyGivenNames u3
  clear_value u3
  exact State.modFport_keeps h

theorem State.countStalls_keeps {z s : State} {a1} (h : Keeps z s) : Keeps z (State.countStalls s a1) := by
  unfold State.countStalls
  apply Keeps.foldl
  · exact h
  · intro x1 x2 h3
    split
    · exact h3
    · exact Keeps.ite (State.modConn_keeps (State.bump_keeps h3)) h3

theorem State.startFrame_keeps {z s : State} {a1} {a2} (h : Keeps z s) : Keeps z (State.startFrame s a1 a2) := by
  unfold State.startFrame
  exact State.modFport_keeps (State.count_keeps h)

theorem State.startData_keeps {z s : State} {a1} {a2} {a3} {a4} {a5} (h : Keeps z s) : Keeps z (State.startData s a1 a2 a3 a4 a5) := by
  unfold State.startData
  split
  · exact State.endPlace_keeps (State.raiseUncorr_keeps h)
  · extract_lets +onlyGivenNames u1
    clear_value u1
    extract_lets +onlyGivenNames u2
    clear_value u2
    extract_lets +onlyGivenNames u3
    have h4 : Keeps z u3 := by
      subst u3
      split
      · exact State.bump_keeps h
      · exact h
    clear_value u3
    extract_lets +onlyGivenNames u5
    refine Keeps.cut (s := u5) (State.startFrame_keeps h4) fun h6 => ?_
    clear_value u5
    extract_lets +onlyGivenNames u7
    refine Keeps.cut (s := u7) (State.modConn_keeps h6) fun h8 => ?_
    clear_value u7
    extract_lets +onlyGivenNames u9
    refine Keeps.cut (s := u9) (State.charge_keeps h8) fun h10 => ?_
    clear_value u9
    extract_lets +onlyGivenNames u11
    clear_value u11
    extract_lets +onlyGivenNames u12
    refine Keeps.cut (s := u12) (State.modFport_keeps h10) fun h13 => ?_
    clear_value u12
    extract_lets +onlyGivenNames u14
    refine Keeps.cut (s := u14) (State.modConn_keeps h13) fun h15 => ?_
    clear_value u14
    exact State.refreshTags_keeps h15

theorem State.sendCtl_keeps {z s : State} {a1} {a2} (h : Keeps z s) : Keeps z (State.sendCtl s a1 a2) := by
  unfold State.sendCtl
  extract_lets +onlyGivenNames u1
  refine Keeps.cut (s := u1) (State.modFport_keeps h) fun h2 => ?_
  clear_value u1
  apply Keeps.ite
  · exact State.startFrame_keeps h2
  · apply Keeps.ite
    · extract_lets +onlyGivenNames u3
      clear_value u3
      extract_lets +onlyGivenNames u4
      clear_value u4
      extract_lets +onlyGivenNames u5
      refine Keeps.cut (s := u5) (Keeps.upd h2 rfl rfl id id rfl) fun h6 => ?_
      clear_value u5
      exact State.useFree_keeps (State.startFrame_keeps h6)
    · split
      · exact h2
      · exact State.startFrame_keeps h2

theorem State.packetBoundary_keeps {z s : State} {a1} (h : Keeps z s) : Keeps z (State.packetBoundary s a1) := by
  unfold State.packetBoundary
  apply Keeps.ite
  · exact h
  · extract_lets +onlyGivenNames u1
    clear_value u1
    extract_lets +onlyGivenNames u2
    refine Keeps.cut (s := u2) (Keeps.upd h rfl rfl id id rfl) fun h3 => ?_
    clear_value u2
    extract_lets +onlyGivenNames u4
    refine Keeps.cut (s := u4) (State.countStalls_keeps h3) fun h5 => ?_
    clear_value u4
    extract_lets +onlyGivenNames u6
    clear_value u6
    extract_lets +onlyGivenNames u7
    refine Keeps.cut (s := u7) (Keeps.upd h5 rfl rfl id id rfl) fun h8 => ?_
    clear_value u7
    extract_lets +onlyGivenNames u9
    refine Keeps.cut (s := u9) (State.refreshTags_keeps h8) fun h10 => ?_
    clear_value u9
    split
    · exact State.sendCtl_keeps h10
    · split
      · exact State.startData_keeps h10
      · exact h10

theorem State.wheelSlot_keeps {z s : State} {a1} (h : Keeps z s) : Keeps z (State.wheelSlot s a1) := by
  unfold State.wheelSlot
  exact Keeps.upd h rfl rfl id id rfl

theorem State.fieldDone_keeps {z s : State} {a1} {a2} {a3} {a4} (h : Keeps z s) : Keeps z (State.fieldDone s a1 a2 a3 a4) := by
  unfold State.fieldDone
  split
  · exact Keeps.ite (State.toFence_keeps h) h
  · exact h

theorem State.freeTo_keeps {z s : State} {a1} {a2} (h : Keeps z s) : Keeps z (State.freeTo s a1 a2) := by
  unfold State.freeTo
  split
  · exact h
  · extract_lets +onlyGivenNames u1
    clear_value u1
    extract_lets +onlyGivenNames u2
    clear_value u2
    extract_lets +onlyGivenNames u3
    refine Keeps.cut (s := u3) (State.modConn_keeps h) fun h4 => ?_
    clear_value u3
    exact Keeps.foldl h4 (fun x5 x6 h7 => State.fieldDone_keeps h7)

theorem State.sendAgain_keeps {z s : State} {a1} {a2} (h : Keeps z s) : Keeps z (State.sendAgain s a1 a2) := by
  unfold State.sendAgain
  split
  · exact h
  · exact Keeps.ite (State.retriesOut_keeps h) (State.modConn_keeps h)

theorem State.refused_keeps {z s : State} {a1} {a2} {a3} (h : Keeps z s) : Keeps z (State.refused s a1 a2 a3) := by
  unfold State.refused
  split
  · exact State.enterError_keeps h
  · split
    · exact State.enterError_keeps h
    · extract_lets +onlyGivenNames u1
      refine Keeps.cut (s := u1) (State.endPlace_keeps h) fun h2 => ?_
      clear_value u1
      extract_lets +onlyGivenNames u3
      refine Keeps.cut (s := u3) (Keeps.ite h2 (State.faultLodge_keeps h2)) fun h4 => ?_
      clear_value u3
      exact State.enterError_keeps h4

theorem State.ackIn_keeps {z s : State} {a1} {a2} (h : Keeps z s) : Keeps z (State.ackIn s a1 a2) := by
  unfold State.ackIn
  exact Keeps.ite (State.freeTo_keeps h) (Keeps.ite (State.sendAgain_keeps (State.freeTo_keeps (State.bump_keeps h))) (State.refused_keeps (State.freeTo_keeps (State.bump_keeps h))))

theorem State.rspIn_keeps {z s : State} {a1} {a2} (h : Keeps z s) : Keeps z (State.rspIn s a1 a2) := by
  unfold State.rspIn
  split
  · exact h
  · split
    · exact h
    · extract_lets +onlyGivenNames u1
      clear_value u1
      extract_lets +onlyGivenNames u2
      clear_value u2
      apply Keeps.ite
      · exact h
      · apply Keeps.ite
        · exact Keeps.ite h (State.sendAgain_keeps (State.modConn_keeps h))
        · extract_lets +onlyGivenNames u3
          clear_value u3
          extract_lets +onlyGivenNames u4
          refine Keeps.cut (s := u4) (Keeps.ite (State.addDirect_keeps h) h) fun h5 => ?_
          clear_value u4
          extract_lets +onlyGivenNames u6
          clear_value u6
          extract_lets +onlyGivenNames u7
          refine Keeps.cut (s := u7) (State.modConn_keeps h5) fun h8 => ?_
          clear_value u7
          exact Keeps.ite (State.fieldDone_keeps h8) h8

theorem State.retryTimeout_keeps {z s : State} {a1} (h : Keeps z s) : Keeps z (State.retryTimeout s a1) := by
  unfold State.retryTimeout
  split
  · exact h
  · split
    · exact h
    · exact Keeps.ite h (State.sendAgain_keeps h)

theorem State.packetIn_keeps {z s : State} {a1} {a2} {a3} {a4} (h : Keeps z s) (ha4 : ∀ y0 y1, Keeps z y0 → Keeps z (a4 y0 y1)) : Keeps z (State.packetIn s a1 a2 a3 a4) := by
  unfold State.packetIn
  apply Keeps.ite
  · exact h
  · split
    · exact State.setBit_keeps (State.bump_keeps h)
    · exact ha4 _ _ (State.count_keeps h)

theorem State.ackSoon_keeps {z s : State} {a1} (h : Keeps z s) : Keeps z (State.ackSoon s a1) := by
  unfold State.ackSoon
  split
  · exact h
  · split
    · exact State.modConn_keeps h
    · exact State.fieldCtl_keeps h

theorem State.inOrder_keeps {z s : State} {a1} {a2} {a3} {a4} {a5} {a6} (h : Keeps z s) (ha5 : ∀ y0, Keeps z y0 → Keeps z (a5 y0)) (ha6 : ∀ y0, Keeps z y0 → Keeps z (a6 y0)) : Keeps z (State.inOrder s a1 a2 a3 a4 a5 a6) := by
  unfold State.inOrder
  extract_lets +onlyGivenNames u1
  clear_value u1
  apply Keeps.ite
  · exact ha5 _ (State.modConn_keeps h)
  · apply Keeps.ite
    · extract_lets +onlyGivenNames u2
      refine Keeps.cut (s := u2) (ha6 _ h) fun h3 => ?_
      clear_value u2
      exact Keeps.ite (State.ackSoon_keeps h3) h3
    · exact Keeps.ite h (State.modConn_keeps (State.bump_keeps (State.fieldCtl_keeps h)))

theorem State.waitRx_keeps {z s : State} {a1} {a2} {a3} (h : Keeps z s) : Keeps z (State.waitRx s a1 a2 a3) := by
  unfold State.waitRx
  exact State.pumpRx_keeps (State.modConn_keeps h)

theorem State.writeIn_keeps {z s : State} {a1} {a2} (h : Keeps z s) : Keeps z (State.writeIn s a1 a2) := by
  unfold State.writeIn
  exact State.packetIn_keeps h (fun x1 x2 h3 => State.inOrder_keeps h3 (fun x4 h5 => State.waitRx_keeps h5) (fun x6 h7 => h7))

theorem State.reqIn_keeps {z s : State} {a1} {a2} (h : Keeps z s) : Keeps z (State.reqIn s a1 a2) := by
  unfold State.reqIn
  extract_lets +onlyGivenNames u1
  clear_value u1
  exact State.packetIn_keeps h (fun x2 x3 h4 => State.inOrder_keeps h4 (fun x5 h6 => State.waitRx_keeps h6) (fun x7 h8 => State.serveRead_keeps h8))

theorem State.msgIn_keeps {z s : State} {a1} {a2} (h : Keeps z s) : Keeps z (State.msgIn s a1 a2) := by
  unfold State.msgIn
  extract_lets +onlyGivenNames u1
  clear_value u1
  apply State.packetIn_keeps
  · exact h
  · intro x2 x3 h4
    apply State.inOrder_keeps
    · exact h4
    · intro x5 h6
      extract_lets +onlyGivenNames u7
      clear_value u7
      extract_lets +onlyGivenNames u8
      refine Keeps.cut (s := u8) (State.modConn_keeps h6) fun h9 => ?_
      clear_value u8
      extract_lets +onlyGivenNames u10
      refine Keeps.cut (s := u10) (Keeps.ite (State.arriveMsg_keeps h9) h9) fun h11 => ?_
      clear_value u10
      exact Keeps.ite (State.ackSoon_keeps h11) h11
    · exact fun x12 h13 => h13

theorem State.rearm_keeps {z s : State} (h : Keeps z s) : Keeps z (State.rearm s) := by
  unfold State.rearm
  exact Keeps.foldl h (fun x1 x2 h3 => State.modFport_keeps h3)

theorem State.ptpSync_keeps {z s : State} {a1} {a2} {a3} (h : Keeps z s) : Keeps z (State.ptpSync s a1 a2 a3) := by
  unfold State.ptpSync
  apply Keeps.ite
  · exact h
  · extract_lets +onlyGivenNames u1
    clear_value u1
    extract_lets +onlyGivenNames u2
    clear_value u2
    extract_lets +onlyGivenNames u3
    clear_value u3
    extract_lets +onlyGivenNames u4
    clear_value u4
    extract_lets +onlyGivenNames u5
    clear_value u5
    extract_lets +onlyGivenNames u6
    clear_value u6
    extract_lets +onlyGivenNames u7
    refine Keeps.cut (s := u7) (State.wr_keeps h) fun h8 => ?_
    clear_value u7
    extract_lets +onlyGivenNames u9
    clear_value u9
    extract_lets +onlyGivenNames u10
    refine Keeps.cut (s := u10) (Keeps.upd h8 rfl rfl id id rfl) fun h11 => ?_
    clear_value u10
    extract_lets +onlyGivenNames u12
    refine Keeps.cut (s := u12) (Keeps.ite (State.rearm_keeps (State.wr_keeps h11)) h11) fun h13 => ?_
    clear_value u12
    exact State.modFport_keeps h13

theorem State.ptpDelay_keeps {z s : State} {a1} {a2} {a3} (h : Keeps z s) : Keeps z (State.ptpDelay s a1 a2 a3) := by
  unfold State.ptpDelay
  apply Keeps.ite
  · exact h
  · split
    · extract_lets +onlyGivenNames u1
      clear_value u1
      exact Keeps.upd h rfl rfl id id rfl
    · exact h

theorem State.ptpLost_keeps {z s : State} (h : Keeps z s) : Keeps z (State.ptpLost s) := by
  unfold State.ptpLost
  apply Keeps.ite
  · extract_lets +onlyGivenNames u1
    refine Keeps.cut (s := u1) (State.wr_keeps (State.wr_keeps h)) fun h2 => ?_
    clear_value u1
    extract_lets +onlyGivenNames u3
    clear_value u3
    extract_lets +onlyGivenNames u4
    refine Keeps.cut (s := u4) (Keeps.upd h2 rfl rfl id id rfl) fun h5 => ?_
    clear_value u4
    extract_lets +onlyGivenNames u6
    refine Keeps.cut (s := u6) (Keeps.foldl h5 (fun x7 x8 h9 => State.modFport_keeps h9)) fun h10 => ?_
    clear_value u6
    exact State.alarm_keeps h10
  · exact h

theorem State.tickFieldTime_keeps {z s : State} (h : Keeps z s) : Keeps z (State.tickFieldTime s) := by
  unfold State.tickFieldTime
  apply Keeps.ite
  · extract_lets +onlyGivenNames u1
    clear_value u1
    exact Keeps.upd h rfl rfl id id rfl
  · exact h

theorem execFldConnOpen_keeps {z s t : State} {a0} {a1} (h : Keeps z s) (e : execFldConnOpen a0 a1 s = .next t) : Keeps z t := by
  unfold execFldConnOpen at e
  injection e with e
  subst e
  exact State.choices_keeps (State.runField_keeps h (fun x1 x2 h3 => State.connOpen_keeps h3))

theorem execFldConnClose_keeps {z s t : State} {a0} {a1} (h : Keeps z s) (e : execFldConnClose a0 a1 s = .next t) : Keeps z t := by
  unfold execFldConnClose at e
  injection e with e
  subst e
  exact State.choices_keeps (State.runField_keeps h (fun x1 x2 h3 => State.connClose_keeps h3))

theorem execFldConnModify_keeps {z s t : State} {a0} {a1} (h : Keeps z s) (e : execFldConnModify a0 a1 s = .next t) : Keeps z t := by
  unfold execFldConnModify at e
  injection e with e
  subst e
  exact State.choices_keeps (State.runField_keeps h (fun x1 x2 h3 => State.connModify_keeps h3))

theorem execFldWrite_keeps {z s t : State} {a0} {a1} (h : Keeps z s) (e : execFldWrite a0 a1 s = .next t) : Keeps z t := by
  unfold execFldWrite at e
  injection e with e
  subst e
  exact State.choices_keeps (State.runField_keeps h (fun x1 x2 h3 => State.connQueue_keeps h3))

theorem execFldRead_keeps {z s t : State} {a0} {a1} (h : Keeps z s) (e : execFldRead a0 a1 s = .next t) : Keeps z t := by
  unfold execFldRead at e
  injection e with e
  subst e
  exact State.choices_keeps (State.runField_keeps h (fun x1 x2 h3 => State.connQueue_keeps h3))

theorem execFieldWrite_keeps {z s t : State} {a0} {a1} (h : Keeps z s) (e : execFieldWrite a0 a1 s = .next t) : Keeps z t := by
  unfold execFieldWrite at e
  injection e with e
  subst e
  exact State.choices_keeps (State.writeIn_keeps h)

theorem execReadReq_keeps {z s t : State} {a0} {a1} (h : Keeps z s) (e : execReadReq a0 a1 s = .next t) : Keeps z t := by
  unfold execReadReq at e
  injection e with e
  subst e
  exact State.choices_keeps (State.reqIn_keeps h)

theorem execReadRsp_keeps {z s t : State} {a0} {a1} (h : Keeps z s) (e : execReadRsp a0 a1 s = .next t) : Keeps z t := by
  unfold execReadRsp at e
  injection e with e
  subst e
  exact State.choices_keeps (State.packetIn_keeps h (fun x1 x2 h3 => State.rspIn_keeps h3))

theorem execFieldAck_keeps {z s t : State} {a0} {a1} (h : Keeps z s) (e : execFieldAck a0 a1 s = .next t) : Keeps z t := by
  unfold execFieldAck at e
  injection e with e
  subst e
  exact State.choices_keeps (State.packetIn_keeps h (fun x1 x2 h3 => State.ackIn_keeps h3))

theorem execMsg_keeps {z s t : State} {a0} {a1} (h : Keeps z s) (e : execMsg a0 a1 s = .next t) : Keeps z t := by
  unfold execMsg at e
  injection e with e
  subst e
  exact State.choices_keeps (State.msgIn_keeps h)

theorem execRxDrop_keeps {z s t : State} {a0} (h : Keeps z s) (e : execRxDrop a0 s = .next t) : Keeps z t := by
  unfold execRxDrop at e
  injection e with e
  subst e
  exact Keeps.ite (State.bump_keeps h) h

theorem execNeighbourSolicitation_keeps {z s t : State} {a0} {a1} {a2} (h : Keeps z s) (e : execNeighbourSolicitation a0 a1 a2 s = .next t) : Keeps z t := by
  unfold execNeighbourSolicitation at e
  injection e with e
  subst e
  exact Keeps.ite (State.modFport_keeps h) h

theorem execRetryTimeout_keeps {z s t : State} {a0} (h : Keeps z s) (e : execRetryTimeout a0 s = .next t) : Keeps z t := by
  unfold execRetryTimeout at e
  injection e with e
  subst e
  exact State.choices_keeps (State.retryTimeout_keeps h)

theorem execPacketBoundary_keeps {z s t : State} {a0} (h : Keeps z s) (e : execPacketBoundary a0 s = .next t) : Keeps z t := by
  unfold execPacketBoundary at e
  injection e with e
  subst e
  exact State.choices_keeps (State.packetBoundary_keeps h)

theorem execWheelSlot_keeps {z s t : State} {a0} (h : Keeps z s) (e : execWheelSlot a0 s = .next t) : Keeps z t := by
  unfold execWheelSlot at e
  injection e with e
  subst e
  exact State.wheelSlot_keeps h

theorem execGateEntry_keeps {z s t : State} {a0} (h : Keeps z s) (e : execGateEntry a0 s = .next t) : Keeps z t := by
  unfold execGateEntry at e
  injection e with e
  subst e
  exact State.nextGate_keeps h

theorem execChange_keeps {z s t : State} {a0} (h : Keeps z s) (e : execChange a0 s = .next t) : Keeps z t := by
  unfold execChange at e
  injection e with e
  subst e
  exact State.armList_keeps h

theorem execGclTakeover_keeps {z s t : State} {a0} (h : Keeps z s) (e : execGclTakeover a0 s = .next t) : Keeps z t := by
  unfold execGclTakeover at e
  injection e with e
  subst e
  exact State.takeOver_keeps h

theorem execPtpSync_keeps {z s t : State} {a0} {a1} {a2} (h : Keeps z s) (e : execPtpSync a0 a1 a2 s = .next t) : Keeps z t := by
  unfold execPtpSync at e
  injection e with e
  subst e
  exact State.ptpSync_keeps h

theorem execPtpDelayResp_keeps {z s t : State} {a0} {a1} {a2} (h : Keeps z s) (e : execPtpDelayResp a0 a1 a2 s = .next t) : Keeps z t := by
  unfold execPtpDelayResp at e
  injection e with e
  subst e
  exact State.ptpDelay_keeps h

theorem execPtpLost_keeps {z s t : State} (h : Keeps z s) (e : execPtpLost s = .next t) : Keeps z t := by
  unfold execPtpLost at e
  injection e with e
  subst e
  exact State.ptpLost_keeps h

end Sys2Proof.Machine
end

