-- ==== Sys2Proof/Laws/KeepHealth.lean ====
section
/-!
SUPPORT. The operations of Health keep the queue and the canonical memories.
-/

namespace Sys2Proof.Machine

theorem State.logEnable_keeps {z s : State} {a1} (h : Keeps z s) : Keeps z (State.logEnable s a1) := by
  unfold State.logEnable
  extract_lets +onlyGivenNames u1
  clear_value u1
  extract_lets +onlyGivenNames u2
  refine Keeps.cut (s := u2) (State.flag_keeps h) fun h3 => ?_
  clear_value u2
  exact Keeps.ite (State.logAlarms_keeps (State.wr_keeps (State.wr_keeps h3))) h3

theorem State.logConsumed_keeps {z s : State} {a1} (h : Keeps z s) : Keeps z (State.logConsumed s a1) := by
  unfold State.logConsumed
  exact State.logAlarms_keeps (State.wr_keeps h)

theorem State.tokenRefill_keeps {z s : State} (h : Keeps z s) : Keeps z (State.tokenRefill s) := by
  unfold State.tokenRefill
  exact Keeps.upd h rfl rfl id id rfl

theorem State.porterSummary_keeps {z s : State} (h : Keeps z s) : Keeps z (State.porterSummary s) := by
  unfold State.porterSummary
  apply Keeps.ite
  · exact h
  · extract_lets +onlyGivenNames u1
    clear_value u1
    exact Keeps.upd h rfl rfl id id rfl

theorem State.scorePart_keeps {z s : State} {a1} (h : Keeps z s) : Keeps z (State.scorePart s a1) := by
  unfold State.scorePart
  extract_lets +onlyGivenNames u1
  clear_value u1
  extract_lets +onlyGivenNames u2
  clear_value u2
  extract_lets +onlyGivenNames u3
  refine Keeps.cut (s := u3) (State.wr_keeps h) fun h4 => ?_
  clear_value u3
  exact Keeps.upd h4 rfl rfl id id rfl

theorem State.alarmPart_keeps {z s : State} {a1} (h : Keeps z s) : Keeps z (State.alarmPart s a1) := by
  unfold State.alarmPart
  extract_lets +onlyGivenNames u1
  clear_value u1
  extract_lets +onlyGivenNames u2
  clear_value u2
  extract_lets +onlyGivenNames u3
  clear_value u3
  extract_lets +onlyGivenNames u4
  refine Keeps.cut (s := u4) (Keeps.upd h rfl rfl id id rfl) fun h5 => ?_
  clear_value u4
  exact Keeps.ite (State.alarm_keeps h5) h5

theorem State.warnPart_keeps {z s : State} {a1} (h : Keeps z s) : Keeps z (State.warnPart s a1) := by
  unfold State.warnPart
  extract_lets +onlyGivenNames u1
  clear_value u1
  extract_lets +onlyGivenNames u2
  clear_value u2
  extract_lets +onlyGivenNames u3
  clear_value u3
  extract_lets +onlyGivenNames u4
  refine Keeps.cut (s := u4) (Keeps.upd h rfl rfl id id rfl) fun h5 => ?_
  clear_value u4
  exact Keeps.ite (State.error_keeps h5) h5

theorem State.scoreUpdate_keeps {z s : State} (h : Keeps z s) : Keeps z (State.scoreUpdate s) := by
  unfold State.scoreUpdate
  extract_lets +onlyGivenNames u1
  clear_value u1
  extract_lets +onlyGivenNames u2
  refine Keeps.cut (s := u2) (Keeps.foldl h (fun x3 x4 h5 => State.scorePart_keeps h5)) fun h6 => ?_
  clear_value u2
  extract_lets +onlyGivenNames u7
  refine Keeps.cut (s := u7) (Keeps.foldl h6 (fun x8 x9 h10 => State.alarmPart_keeps h10)) fun h11 => ?_
  clear_value u7
  exact Keeps.foldl h11 (fun x12 x13 h14 => State.warnPart_keeps h14)

theorem State.selfTest_keeps {z s : State} {a1} {a2} (h : Keeps z s) : Keeps z (State.selfTest s a1 a2) := by
  unfold State.selfTest
  apply Keeps.ite
  · exact h
  · extract_lets +onlyGivenNames u1
    clear_value u1
    extract_lets +onlyGivenNames u2
    refine Keeps.cut (s := u2) (Keeps.upd h rfl rfl id id rfl) fun h3 => ?_
    clear_value u2
    extract_lets +onlyGivenNames u4
    refine Keeps.cut (s := u4) (State.flag_keeps h3) fun h5 => ?_
    clear_value u4
    exact Keeps.ite h5 (State.quarantine_keeps h5)

theorem State.unheld_keeps {z s : State} {a1} (h : Keeps z s) : Keeps z (State.unheld s a1) := by
  unfold State.unheld
  exact Keeps.upd h rfl rfl id id rfl

theorem State.resumeSlot_keeps {z s : State} {a1} (h : Keeps z s) : Keeps z (State.resumeSlot s a1) := by
  unfold State.resumeSlot
  apply Keeps.ite
  · extract_lets +onlyGivenNames u1
    refine Keeps.cut (s := u1) (Keeps.upd h rfl rfl id id rfl) fun h2 => ?_
    clear_value u1
    exact State.restart_keeps (Keeps.ite (State.modSlot_keeps h2) h2)
  · exact h

theorem State.resumeSlots_keeps {z s : State} {a1} (h : Keeps z s) : Keeps z (State.resumeSlots s a1) := by
  unfold State.resumeSlots
  exact Keeps.foldl h (fun x1 x2 h3 => State.resumeSlot_keeps h3)

theorem State.shrinkGo_keeps {z s : State} {a1} {a2} (h : Keeps z s) : Keeps z (State.shrinkGo s a1 a2) := by
  unfold State.shrinkGo
  extract_lets +onlyGivenNames u1
  refine Keeps.cut (s := u1) (State.wr_keeps (State.wr_keeps h)) fun h2 => ?_
  clear_value u1
  exact Keeps.ite (State.wr_keeps h2) (Keeps.ite (State.wr_keeps h2) (State.modSlot_keeps h2))

theorem State.repairVerify_keeps {z s : State} {a1} (h : Keeps z s) : Keeps z (State.repairVerify s a1) := by
  unfold State.repairVerify
  exact Keeps.ite (State.trace_keeps h) h

theorem State.verifyStart_keeps {z s : State} (h : Keeps z s) : Keeps z (State.verifyStart s) := by
  unfold State.verifyStart
  apply Keeps.ite
  · exact State.discard_keeps h
  · extract_lets +onlyGivenNames u1
    refine Keeps.cut (s := u1) (State.wr_keeps (State.wr_keeps (State.wr_keeps h))) fun h2 => ?_
    clear_value u1
    split
    · exact State.repairVerify_keeps (State.wr_keeps h2)
    · exact State.wr_keeps h2

theorem State.verifyDone_keeps {z s : State} (h : Keeps z s) : Keeps z (State.verifyDone s) := by
  unfold State.verifyDone
  apply Keeps.ite
  · exact h
  · extract_lets +onlyGivenNames u1
    refine Keeps.cut (s := u1) (State.wr_keeps h) fun h2 => ?_
    clear_value u1
    split
    · exact State.repairVerify_keeps (State.wr_keeps h2)
    · extract_lets +onlyGivenNames u3
      clear_value u3
      extract_lets +onlyGivenNames u4
      clear_value u4
      extract_lets +onlyGivenNames u5
      refine Keeps.cut (s := u5) (Keeps.foldl h2 (fun x7 x8 h9 => State.error_keeps (State.bump_keeps h9))) fun h6 => ?_
      clear_value u5
      extract_lets +onlyGivenNames u10
      refine Keeps.cut (s := u10) (State.wr_keeps h6) fun h11 => ?_
      clear_value u10
      exact State.repairVerify_keeps (State.wr_keeps h11)

theorem State.deviceFault_keeps {z s : State} {a1} {a2} (h : Keeps z s) : Keeps z (State.deviceFault s a1 a2) := by
  unfold State.deviceFault
  apply Keeps.ite
  · exact h
  · extract_lets +onlyGivenNames u1
    clear_value u1
    extract_lets +onlyGivenNames u2
    clear_value u2
    extract_lets +onlyGivenNames u3
    refine Keeps.cut (s := u3) (State.alarm_keeps (State.wr_keeps h)) fun h4 => ?_
    clear_value u3
    extract_lets +onlyGivenNames u5
    clear_value u5
    exact Keeps.foldl h4 (fun x6 x7 h8 => State.faultLodge_keeps h8)

theorem execLogEn_keeps {z s t : State} {a0} (h : Keeps z s) (e : execLogEn a0 s = .next t) : Keeps z t := by
  unfold execLogEn at e
  injection e with e
  subst e
  exact State.logEnable_keeps h

theorem execAlarmRecord_keeps {z s t : State} {a0} (h : Keeps z s) (e : execAlarmRecord a0 s = .next t) : Keeps z t := by
  unfold execAlarmRecord at e
  injection e with e
  subst e
  exact State.logConsumed_keeps h

theorem execTokenRefill_keeps {z s t : State} (h : Keeps z s) (e : execTokenRefill s = .next t) : Keeps z t := by
  unfold execTokenRefill at e
  injection e with e
  subst e
  exact State.tokenRefill_keeps h

theorem execPorterSummary_keeps {z s t : State} (h : Keeps z s) (e : execPorterSummary s = .next t) : Keeps z t := by
  unfold execPorterSummary at e
  injection e with e
  subst e
  exact State.porterSummary_keeps h

theorem execScoreUpdate_keeps {z s t : State} (h : Keeps z s) (e : execScoreUpdate s = .next t) : Keeps z t := by
  unfold execScoreUpdate at e
  injection e with e
  subst e
  exact State.scoreUpdate_keeps h

theorem execCoreSelfTest_keeps {z s t : State} {a0} {a1} (h : Keeps z s) (e : execCoreSelfTest a0 a1 s = .next t) : Keeps z t := by
  unfold execCoreSelfTest at e
  injection e with e
  subst e
  exact State.choices_keeps (State.selfTest_keeps h)

theorem execHltResume_keeps {z s t : State} {a0} (h : Keeps z s) (e : execHltResume a0 s = .next t) : Keeps z t := by
  unfold execHltResume at e
  injection e with e
  subst e
  exact State.choices_keeps (State.resumeSlots_keeps h)

theorem execShrink_keeps {z s t : State} {a0} {a1} (h : Keeps z s) (e : execShrink a0 a1 s = .next t) : Keeps z t := by
  unfold execShrink at e
  injection e with e
  subst e
  exact State.shrinkGo_keeps h

theorem execHltVerify_keeps {z s t : State} (h : Keeps z s) (e : execHltVerify s = .next t) : Keeps z t := by
  unfold execHltVerify at e
  injection e with e
  subst e
  exact State.verifyStart_keeps h

theorem execVerifyDone_keeps {z s t : State} (h : Keeps z s) (e : execVerifyDone s = .next t) : Keeps z t := by
  unfold execVerifyDone at e
  injection e with e
  subst e
  exact State.verifyDone_keeps h

theorem execDeviceFault_keeps {z s t : State} {a0} {a1} (h : Keeps z s) (e : execDeviceFault a0 a1 s = .next t) : Keeps z t := by
  unfold execDeviceFault at e
  injection e with e
  subst e
  exact State.choices_keeps (State.deviceFault_keeps h)

end Sys2Proof.Machine
end

