-- ==== Sys2Proof/Laws/KeepPower.lean ====
section
/-!
SUPPORT. The operations of Power keep the queue and the canonical memories.
-/

namespace Sys2Proof.Machine

theorem State.useCap_keeps {z s : State} (h : Keeps z s) : Keeps z (State.useCap s) := by
  unfold State.useCap
  extract_lets +onlyGivenNames u1
  clear_value u1
  extract_lets +onlyGivenNames u2
  refine Keeps.cut (s := u2) (State.wr_keeps h) fun h3 => ?_
  clear_value u2
  extract_lets +onlyGivenNames u4
  clear_value u4
  extract_lets +onlyGivenNames u5
  refine Keeps.cut (s := u5) (Keeps.upd h3 rfl rfl id id rfl) fun h6 => ?_
  clear_value u5
  exact State.wr_keeps h6

theorem State.capWrite_keeps {z s : State} {a1} (h : Keeps z s) : Keeps z (State.capWrite s a1) := by
  unfold State.capWrite
  exact Keeps.ite (State.useCap_keeps (State.wr_keeps h)) (State.setBit_keeps (State.discard_keeps h))

theorem State.rampMove_keeps {z s : State} (h : Keeps z s) : Keeps z (State.rampMove s) := by
  unfold State.rampMove
  extract_lets +onlyGivenNames u1
  clear_value u1
  exact State.wr_keeps (State.wr_keeps (State.wr_keeps h))

theorem State.powerLoop_keeps {z s : State} {a1} {a2} {a3} {a4} {a5} {a6} {a7} (h : Keeps z s) : Keeps z (State.powerLoop s a1 a2 a3 a4 a5 a6 a7) := by
  unfold State.powerLoop
  extract_lets +onlyGivenNames u1
  refine Keeps.cut (s := u1) (State.wr_keeps h) fun h2 => ?_
  clear_value u1
  extract_lets +onlyGivenNames u3
  refine Keeps.cut (s := u3) (State.wr_keeps h2) fun h4 => ?_
  clear_value u3
  extract_lets +onlyGivenNames u5
  refine Keeps.cut (s := u5) (State.count_keeps (State.wr_keeps (State.wr_keeps h4))) fun h6 => ?_
  clear_value u5
  extract_lets +onlyGivenNames u7
  refine Keeps.cut (s := u7) (State.flag_keeps h6) fun h8 => ?_
  clear_value u7
  extract_lets +onlyGivenNames u9
  clear_value u9
  extract_lets +onlyGivenNames u10
  clear_value u10
  extract_lets +onlyGivenNames u11
  clear_value u11
  extract_lets +onlyGivenNames u12
  clear_value u12
  extract_lets +onlyGivenNames u13
  refine Keeps.cut (s := u13) (Keeps.ite (State.bump_keeps (Keeps.upd h8 rfl rfl id id rfl)) (Keeps.ite (Keeps.upd h8 rfl rfl id id rfl) h8)) fun h14 => ?_
  clear_value u13
  extract_lets +onlyGivenNames u15
  refine Keeps.cut (s := u15) (State.wr_keeps h14) fun h16 => ?_
  clear_value u15
  exact Keeps.ite (State.alarm_keeps (State.setBit_keeps h16)) h16

/-- A module reset empties lodge memory and the core stores; what the device wrote in host memory stays. -/
theorem State.wiped_keeps {z s : State} (h : Keeps z s) : Keeps z (State.wiped s) :=
  h.trans ⟨rfl, rfl, rfl, fun i => ⟨rfl, rfl, rfl, i.host, Tbl.rising_set (Tbl.rising_set (Tbl.rising_set (Tbl.rising_set rfl))), rfl⟩⟩

theorem State.stage0_keeps {z s : State} (h : Keeps z s) : Keeps z (State.stage0 s) := by
  unfold State.stage0
  extract_lets +onlyGivenNames u1
  clear_value u1
  exact State.flag_keeps (State.flag_keeps (Keeps.upd h rfl rfl id id rfl))

theorem State.moduleReset_keeps {z s : State} {a1} (h : Keeps z s) : Keeps z (State.moduleReset s a1) := by
  unfold State.moduleReset
  extract_lets +onlyGivenNames u1
  refine Keeps.cut (s := u1) (State.wr_keeps (State.wr_keeps (State.wiped_keeps h))) fun h2 => ?_
  clear_value u1
  exact State.stage0_keeps h2

theorem State.powerUp_keeps {z s : State} (h : Keeps z s) : Keeps z (State.powerUp s) := by
  unfold State.powerUp
  apply Keeps.ite
  · exact h
  · extract_lets +onlyGivenNames u1
    clear_value u1
    extract_lets +onlyGivenNames u2
    clear_value u2
    extract_lets +onlyGivenNames u3
    refine Keeps.cut (s := u3) (Keeps.upd h rfl rfl id id rfl) fun h4 => ?_
    clear_value u3
    extract_lets +onlyGivenNames u5
    refine Keeps.cut (s := u5) (State.stage0_keeps (State.wr_keeps (State.wiped_keeps h4))) fun h6 => ?_
    clear_value u5
    exact Keeps.ite (State.moduleReset_keeps h6) h6

theorem State.powerDown_keeps {z s : State} {a1} (h : Keeps z s) : Keeps z (State.powerDown s a1) := by
  unfold State.powerDown
  extract_lets +onlyGivenNames u1
  clear_value u1
  extract_lets +onlyGivenNames u2
  clear_value u2
  extract_lets +onlyGivenNames u3
  clear_value u3
  extract_lets +onlyGivenNames u4
  clear_value u4
  extract_lets +onlyGivenNames u5
  clear_value u5
  extract_lets +onlyGivenNames u6
  clear_value u6
  extract_lets +onlyGivenNames u7
  refine Keeps.cut (s := u7) (State.wiped_keeps h) fun h8 => ?_
  clear_value u7
  extract_lets +onlyGivenNames u9
  clear_value u9
  extract_lets +onlyGivenNames u10
  refine Keeps.cut (s := u10) (Keeps.ite (Keeps.upd h8 rfl rfl id id rfl) h) fun h11 => ?_
  clear_value u10
  extract_lets +onlyGivenNames u12
  refine Keeps.cut (s := u12) (State.wr_keeps h11) fun h13 => ?_
  clear_value u12
  exact Keeps.upd h13 rfl rfl id id rfl

theorem State.endBoundary_keeps {z s : State} (h : Keeps z s) : Keeps z (State.endBoundary s) := by
  unfold State.endBoundary
  exact Keeps.upd h rfl rfl id id rfl

theorem State.mrstPin_keeps {z s : State} {a1} (h : Keeps z s) : Keeps z (State.mrstPin s a1) := by -- by hand
  unfold State.mrstPin
  extract_lets +onlyGivenNames u1
  clear_value u1
  extract_lets +onlyGivenNames u2
  refine Keeps.cut (s := u2) (Keeps.upd h rfl rfl id id rfl) fun h3 => ?_
  clear_value u2
  apply Keeps.ite
  · exact State.endBoundary_keeps h3
  · apply Keeps.ite
    · exact State.moduleReset_keeps h3
    · extract_lets +onlyGivenNames u4
      clear_value u4
      exact Keeps.ite h3 (Keeps.upd h3 rfl rfl id id rfl)

theorem State.refLoss_keeps {z s : State} (h : Keeps z s) : Keeps z (State.refLoss s) := by
  unfold State.refLoss
  apply Keeps.ite
  · extract_lets +onlyGivenNames u1
    refine Keeps.cut (s := u1) (State.moduleReset_keeps (State.bump_keeps h)) fun h2 => ?_
    clear_value u1
    exact State.stage0_keeps (Keeps.upd h2 rfl rfl id id rfl)
  · exact h

theorem State.refBack_keeps {z s : State} (h : Keeps z s) : Keeps z (State.refBack s) := by
  unfold State.refBack
  exact Keeps.ite (State.stage0_keeps (Keeps.upd h rfl rfl id id rfl)) h

theorem State.resetKey_keeps {z s : State} {a1} (h : Keeps z s) : Keeps z (State.resetKey s a1) := by
  unfold State.resetKey
  extract_lets +onlyGivenNames u1
  clear_value u1
  exact Keeps.ite (Keeps.upd h rfl rfl id id rfl) (Keeps.ite (State.moduleReset_keeps h) (State.discard_keeps (Keeps.upd h rfl rfl id id rfl)))

theorem State.reading_keeps {z s : State} {a1} {a2} (h : Keeps z s) : Keeps z (State.reading s a1 a2) := by
  unfold State.reading
  extract_lets +onlyGivenNames u1
  clear_value u1
  extract_lets +onlyGivenNames u2
  refine Keeps.cut (s := u2) (Keeps.upd h rfl rfl id id rfl) fun h3 => ?_
  clear_value u2
  exact Keeps.ite (State.wr_keeps (State.wr_keeps h3)) (Keeps.ite (State.nbThermal_keeps h3) h3)

theorem State.throttleDie_keeps {z s : State} {a1} {a2} (h : Keeps z s) : Keeps z (State.throttleDie s a1 a2) := by
  unfold State.throttleDie
  extract_lets +onlyGivenNames u1
  refine Keeps.cut (s := u1) (State.reading_keeps h) fun h2 => ?_
  clear_value u1
  exact Keeps.ite (State.setBit_keeps h2) (Keeps.ite (State.clrBit_keeps h2) h2)

theorem State.thermalRead_keeps {z s : State} {a1} {a2} (h : Keeps z s) : Keeps z (State.thermalRead s a1 a2) := by
  unfold State.thermalRead
  apply Keeps.ite
  · exact h
  · extract_lets +onlyGivenNames u1
    refine Keeps.cut (s := u1) (State.reading_keeps h) fun h2 => ?_
    clear_value u1
    apply Keeps.ite
    · apply Keeps.ite
      · exact h2
      · extract_lets +onlyGivenNames u3
        clear_value u3
        extract_lets +onlyGivenNames u4
        refine Keeps.cut (s := u4) (Keeps.upd h2 rfl rfl id id rfl) fun h5 => ?_
        clear_value u4
        exact State.alarm_keeps (State.setBit_keeps h5)
    · exact Keeps.ite (Keeps.upd h2 rfl rfl id id rfl) h2

theorem State.thermalTrip_keeps {z s : State} {a1} {a2} (h : Keeps z s) : Keeps z (State.thermalTrip s a1 a2) := by
  unfold State.thermalTrip
  apply Keeps.ite
  · exact h
  · extract_lets +onlyGivenNames u1
    refine Keeps.cut (s := u1) (State.reading_keeps h) fun h2 => ?_
    clear_value u1
    apply Keeps.ite
    · extract_lets +onlyGivenNames u3
      refine Keeps.cut (s := u3) (State.powerDown_keeps h2) fun h4 => ?_
      clear_value u3
      exact Keeps.ite (State.wr_keeps h4) h4
    · exact h2

theorem State.extend_keeps {z s : State} {a1} {a2} (h : Keeps z s) : Keeps z (State.extend s a1 a2) := by
  unfold State.extend
  extract_lets +onlyGivenNames u1
  clear_value u1
  exact Keeps.foldl h (fun x2 x3 h4 => State.wr_keeps h4)

theorem State.measuredBoot_keeps {z s : State} (h : Keeps z s) : Keeps z (State.measuredBoot s) := by
  unfold State.measuredBoot
  apply Keeps.ite
  · exact h
  · extract_lets +onlyGivenNames u1
    refine Keeps.cut (s := u1) (State.wr_keeps h) fun h2 => ?_
    clear_value u1
    extract_lets +onlyGivenNames u3
    clear_value u3
    extract_lets +onlyGivenNames u4
    clear_value u4
    split
    · exact State.wr_keeps h2
    · extract_lets +onlyGivenNames u5
      refine Keeps.cut (s := u5) (Keeps.foldl h2 (fun x6 x7 h8 => State.extend_keeps h8)) fun h9 => ?_
      clear_value u5
      extract_lets +onlyGivenNames u10
      clear_value u10
      extract_lets +onlyGivenNames u11
      clear_value u11
      extract_lets +onlyGivenNames u12
      extract_lets +onlyGivenNames u13
      refine Keeps.cut (s := u13) (h9.same rfl rfl rfl rfl id id rfl rfl) fun h14 => ?_
      clear_value u13
      exact State.wr_keeps (State.wr_keeps h14)

theorem State.t2Trained_keeps {z s : State} {a1} {a2} (h : Keeps z s) : Keeps z (State.t2Trained s a1 a2) := by
  unfold State.t2Trained
  apply Keeps.ite
  · exact h
  · apply Keeps.ite
    · exact State.alarm_keeps (State.useFree_keeps h)
    · extract_lets +onlyGivenNames u1
      refine Keeps.cut (s := u1) (State.wr_keeps (State.wr_keeps (State.wr_keeps h))) fun h2 => ?_
      clear_value u1
      exact State.trainPorts_keeps (State.wr_keeps (State.wr_keeps (State.wr_keeps h2)))

theorem State.t1Trained_keeps {z s : State} {a1} (h : Keeps z s) : Keeps z (State.t1Trained s a1) := by -- by hand
  unfold State.t1Trained
  apply Keeps.ite
  · extract_lets +onlyGivenNames u1
    refine Keeps.cut (s := u1) (State.wr_keeps (State.wr_keeps (State.wr_keeps h))) fun h2 => ?_
    clear_value u1
    exact Keeps.ite h2 (State.setBit_keeps h2)
  · exact h

theorem State.clockChange_keeps {z s : State} {a1} (h : Keeps z s) : Keeps z (State.clockChange s a1) := by
  unfold State.clockChange
  apply Keeps.ite
  · extract_lets +onlyGivenNames u1
    refine Keeps.cut (s := u1) (State.useCap_keeps (State.wr_keeps (State.wr_keeps (State.wr_keeps h)))) fun h2 => ?_
    clear_value u1
    exact State.enumerate_keeps (State.retrainSlow_keeps (State.wr_keeps h2))
  · exact h

theorem State.stopAt_keeps {z s : State} {a1} (h : Keeps z s) : Keeps z (State.stopAt s a1) := by
  unfold State.stopAt
  exact Keeps.ite (State.wr_keeps h) (State.discard_keeps h)

theorem State.gateCore_keeps {z s : State} {a1} (h : Keeps z s) : Keeps z (State.gateCore s a1) := by
  unfold State.gateCore
  exact Keeps.ite (Keeps.upd h rfl rfl id id rfl) h

theorem State.dropKey_keeps {z s : State} {a1} (h : Keeps z s) : Keeps z (State.dropKey s a1) := by
  unfold State.dropKey
  exact Keeps.upd h rfl rfl id id rfl

theorem State.encryptWrite_keeps {z s : State} {a1} {a2} (h : Keeps z s) : Keeps z (State.encryptWrite s a1 a2) := by
  unfold State.encryptWrite
  apply Keeps.ite
  · exact h
  · apply Keeps.ite
    · exact State.setBit_keeps (State.discard_keeps h)
    · extract_lets +onlyGivenNames u1
      refine Keeps.cut (s := u1) (State.flag_keeps h) fun h2 => ?_
      clear_value u1
      exact Keeps.ite h2 (State.wr_keeps (State.dropKey_keeps h2))

theorem State.keyInstall_keeps {z s : State} {a1} (h : Keeps z s) : Keeps z (State.keyInstall s a1) := by
  unfold State.keyInstall
  exact Keeps.ite (State.wr_keeps (State.useFree_keeps (Keeps.upd h rfl rfl id id rfl))) h

theorem State.ppsEdge_keeps {z s : State} {a1} (h : Keeps z s) : Keeps z (State.ppsEdge s a1) := by
  unfold State.ppsEdge
  extract_lets +onlyGivenNames u1
  clear_value u1
  apply Keeps.ite
  · extract_lets +onlyGivenNames u2
    refine Keeps.cut (s := u2) (State.wr_keeps (State.wr_keeps (State.wr_keeps h))) fun h3 => ?_
    clear_value u2
    extract_lets +onlyGivenNames u4
    refine Keeps.cut (s := u4) (State.count_keeps h3) fun h5 => ?_
    clear_value u4
    exact Keeps.upd h5 rfl rfl id id rfl
  · exact State.bump_keeps h

theorem execPowerUp_keeps {z s t : State} (h : Keeps z s) (e : execPowerUp s = .next t) : Keeps z t := by
  unfold execPowerUp at e
  injection e with e
  subst e
  exact State.powerUp_keeps h

theorem execMeasuredBoot_keeps {z s t : State} (h : Keeps z s) (e : execMeasuredBoot s = .next t) : Keeps z t := by
  unfold execMeasuredBoot at e
  injection e with e
  subst e
  exact State.measuredBoot_keeps h

theorem execT2Trained_keeps {z s t : State} {a0} {a1} (h : Keeps z s) (e : execT2Trained a0 a1 s = .next t) : Keeps z t := by
  unfold execT2Trained at e
  injection e with e
  subst e
  exact State.t2Trained_keeps h

theorem execT1Trained_keeps {z s t : State} {a0} (h : Keeps z s) (e : execT1Trained a0 s = .next t) : Keeps z t := by
  unfold execT1Trained at e
  injection e with e
  subst e
  exact State.choices_keeps (State.t1Trained_keeps h)

theorem execClockChange_keeps {z s t : State} {a0} (h : Keeps z s) (e : execClockChange a0 s = .next t) : Keeps z t := by
  unfold execClockChange at e
  injection e with e
  subst e
  exact State.choices_keeps (State.clockChange_keeps h)

theorem execRampStep_keeps {z s t : State} (h : Keeps z s) (e : execRampStep s = .next t) : Keeps z t := by
  unfold execRampStep at e
  injection e with e
  subst e
  exact State.rampMove_keeps h

theorem execPowerLoop_keeps {z s t : State} {a0} {a1} {a2} {a3} {a4} {a5} {a6} (h : Keeps z s) (e : execPowerLoop a0 a1 a2 a3 a4 a5 a6 s = .next t) : Keeps z t := by
  unfold execPowerLoop at e
  injection e with e
  subst e
  exact State.powerLoop_keeps h

theorem execCoreGate_keeps {z s t : State} {a0} (h : Keeps z s) (e : execCoreGate a0 s = .next t) : Keeps z t := by
  unfold execCoreGate at e
  injection e with e
  subst e
  exact State.gateCore_keeps h

theorem execCapW_keeps {z s t : State} {a0} (h : Keeps z s) (e : execCapW a0 s = .next t) : Keeps z t := by
  unfold execCapW at e
  injection e with e
  subst e
  exact State.capWrite_keeps h

theorem execStopAt_keeps {z s t : State} {a0} (h : Keeps z s) (e : execStopAt a0 s = .next t) : Keeps z t := by
  unfold execStopAt at e
  injection e with e
  subst e
  exact State.stopAt_keeps h

theorem execRveReset_keeps {z s t : State} {a0} (h : Keeps z s) (e : execRveReset a0 s = .next t) : Keeps z t := by
  unfold execRveReset at e
  injection e with e
  subst e
  exact State.resetKey_keeps h

theorem execEncrypt_keeps {z s t : State} {a0} {a1} (h : Keeps z s) (e : execEncrypt a0 a1 s = .next t) : Keeps z t := by
  unfold execEncrypt at e
  injection e with e
  subst e
  exact State.encryptWrite_keeps h

theorem execKeyInstall_keeps {z s t : State} {a0} (h : Keeps z s) (e : execKeyInstall a0 s = .next t) : Keeps z t := by
  unfold execKeyInstall at e
  injection e with e
  subst e
  exact State.keyInstall_keeps h

theorem execMrstN_keeps {z s t : State} {a0} (h : Keeps z s) (e : execMrstN a0 s = .next t) : Keeps z t := by
  unfold execMrstN at e
  injection e with e
  subst e
  exact State.mrstPin_keeps h

theorem execWatchdog_keeps {z s t : State} (h : Keeps z s) (e : execWatchdog s = .next t) : Keeps z t := by
  unfold execWatchdog at e
  injection e with e
  subst e
  exact Keeps.ite (State.moduleReset_keeps h) h

theorem execRefclkLoss_keeps {z s t : State} (h : Keeps z s) (e : execRefclkLoss s = .next t) : Keeps z t := by
  unfold execRefclkLoss at e
  injection e with e
  subst e
  exact State.refLoss_keeps h

theorem execRefclkRestored_keeps {z s t : State} (h : Keeps z s) (e : execRefclkRestored s = .next t) : Keeps z t := by
  unfold execRefclkRestored at e
  injection e with e
  subst e
  exact State.refBack_keeps h

theorem execUndervoltage_keeps {z s t : State} (h : Keeps z s) (e : execUndervoltage s = .next t) : Keeps z t := by
  unfold execUndervoltage at e
  injection e with e
  subst e
  exact State.powerDown_keeps h

theorem execOvervoltage_keeps {z s t : State} (h : Keeps z s) (e : execOvervoltage s = .next t) : Keeps z t := by
  unfold execOvervoltage at e
  injection e with e
  subst e
  exact State.powerDown_keeps h

theorem execOvercurrent_keeps {z s t : State} (h : Keeps z s) (e : execOvercurrent s = .next t) : Keeps z t := by
  unfold execOvercurrent at e
  injection e with e
  subst e
  exact State.setBit_keeps (State.powerDown_keeps h)

theorem execReverseCurrent_keeps {z s t : State} (h : Keeps z s) (e : execReverseCurrent s = .next t) : Keeps z t := by
  unfold execReverseCurrent at e
  injection e with e
  subst e
  exact Keeps.upd h rfl rfl id id rfl

theorem execRemoval_keeps {z s t : State} (h : Keeps z s) (e : execRemoval s = .next t) : Keeps z t := by
  unfold execRemoval at e
  injection e with e
  subst e
  exact State.powerDown_keeps h

theorem execInsertion_keeps {z s t : State} (h : Keeps z s) (e : execInsertion s = .next t) : Keeps z t := by
  unfold execInsertion at e
  injection e with e
  subst e
  exact State.powerUp_keeps h

theorem execThrottle_keeps {z s t : State} {a0} {a1} (h : Keeps z s) (e : execThrottle a0 a1 s = .next t) : Keeps z t := by
  unfold execThrottle at e
  injection e with e
  subst e
  exact State.throttleDie_keeps h

theorem execThermal_keeps {z s t : State} {a0} {a1} (h : Keeps z s) (e : execThermal a0 a1 s = .next t) : Keeps z t := by
  unfold execThermal at e
  injection e with e
  subst e
  exact State.thermalRead_keeps h

theorem execThermalTrip_keeps {z s t : State} {a0} {a1} (h : Keeps z s) (e : execThermalTrip a0 a1 s = .next t) : Keeps z t := by
  unfold execThermalTrip at e
  injection e with e
  subst e
  exact State.thermalTrip_keeps h

theorem execStackHot_keeps {z s t : State} {a0} {a1} (h : Keeps z s) (e : execStackHot a0 a1 s = .next t) : Keeps z t := by
  unfold execStackHot at e
  injection e with e
  subst e
  exact State.reading_keeps h

theorem execT2Hot_keeps {z s t : State} {a0} (h : Keeps z s) (e : execT2Hot a0 s = .next t) : Keeps z t := by
  unfold execT2Hot at e
  injection e with e
  subst e
  extract_lets +onlyGivenNames u1
  refine Keeps.cut (s := u1) (State.reading_keeps h) fun h2 => ?_
  clear_value u1
  exact Keeps.upd h2 rfl rfl id id rfl

theorem execPps_keeps {z s t : State} {a0} (h : Keeps z s) (e : execPps a0 s = .next t) : Keeps z t := by
  unfold execPps at e
  injection e with e
  subst e
  exact State.ppsEdge_keeps h

end Sys2Proof.Machine
end

