-- ==== Sys2Proof/Laws/KeepBus.lean ====
section
/-!
SUPPORT. The operations of Bus keep the queue and the canonical memories.
-/

namespace Sys2Proof.Machine

theorem State.setLatch_keeps {z s : State} {a1} {a2} (h : Keeps z s) : Keeps z (State.setLatch s a1 a2) := by
  unfold State.setLatch
  split
  · exact Keeps.upd h rfl rfl id id rfl
  · exact Keeps.upd h rfl rfl id id rfl

theorem State.clearRc_keeps {z s : State} {a1} (h : Keeps z s) : Keeps z (State.clearRc s a1) := by
  unfold State.clearRc
  exact Keeps.foldl h (fun x1 x2 h3 => State.wr_keeps h3)

theorem State.regRead_keeps {z s : State} {a1} {a2} (h : Keeps z s) : Keeps z (State.regRead s a1 a2).1 := by
  unfold State.regRead
  extract_lets +onlyGivenNames u1
  clear_value u1
  extract_lets +onlyGivenNames u2
  clear_value u2
  dsimp -zeta only
  exact State.clearRc_keeps (Keeps.ite (State.setLatch_keeps h) h)

theorem State.busRead_keeps {z s : State} {a1} {a2} (h : Keeps z s) : Keeps z (State.busRead s a1 a2).1 := by
  unfold State.busRead
  split
  · exact State.regRead_keeps h
  · dsimp -zeta only
    exact Keeps.ite (State.bump_keeps h) h

theorem State.store_keeps {z s : State} {a1} {a2} (h : Keeps z s) : Keeps z (State.store s a1 a2) := by
  unfold State.store
  apply Keeps.foldl
  · exact h
  · intro x1 x2 h3
    extract_lets +onlyGivenNames u4
    clear_value u4
    extract_lets +onlyGivenNames u5
    clear_value u5
    split
    · exact State.wr_keeps h3
    · exact State.wr_keeps h3
    · exact h3

theorem State.refuseWrite_keeps {z s : State} {a1} (h : Keeps z s) : Keeps z (State.refuseWrite s a1) := by
  unfold State.refuseWrite
  exact Keeps.ite (State.setBit_keeps (State.discard_keeps h)) (State.discard_keeps h)

theorem State.ringCfgWrite_keeps {z s : State} {a1} {a2} {a3} (h : Keeps z s) : Keeps z (State.ringCfgWrite s a1 a2 a3) := by
  unfold State.ringCfgWrite
  extract_lets +onlyGivenNames u1
  clear_value u1
  apply Keeps.ite
  · exact State.discard_keeps h
  · apply Keeps.ite
    · exact Keeps.ite (State.discard_keeps h) (Keeps.ite h (State.disableRing_keeps h))
    · extract_lets +onlyGivenNames u2
      refine Keeps.cut (s := u2) (State.store_keeps h) fun h3 => ?_
      clear_value u2
      exact Keeps.ite h3 (Keeps.ite (State.discard_keeps h) (State.enableRing_keeps h3))

theorem State.lodCmdWrite_keeps {z s : State} {a1} (h : Keeps z s) : Keeps z (State.lodCmdWrite s a1) := by
  unfold State.lodCmdWrite
  extract_lets +onlyGivenNames u1
  clear_value u1
  extract_lets +onlyGivenNames u2
  clear_value u2
  split
  · exact State.lodCmd_keeps h (fun x3 h4 => State.create_keeps h4)
  · exact State.lodOp_keeps h (fun x5 h6 => State.destroy_keeps h6)
  · exact State.lodOp_keeps h (fun x7 h8 => State.bind_keeps h8)
  · exact State.lodOp_keeps h (fun x9 h10 => State.unbind_keeps h10)
  · exact State.lodOp_keeps h (fun x11 h12 => State.resetLodge_keeps h12)
  · exact State.lodOp_keeps h (fun x13 h14 => State.teardown_keeps h14)
  · apply State.lodCmd_keeps
    · exact h
    · intro x15 h16
      extract_lets +onlyGivenNames u17
      refine Keeps.cut (s := u17.1) (State.clientDump_keeps h16) fun h18 => ?_
      clear_value u17
      dsimp -zeta only
      exact h18
  · exact State.lodOp_keeps h (fun x19 h20 => h20)

theorem State.personaCfgWrite_keeps {z s : State} {a1} (h : Keeps z s) : Keeps z (State.personaCfgWrite s a1) := by
  unfold State.personaCfgWrite
  extract_lets +onlyGivenNames u1
  clear_value u1
  exact Keeps.ite (State.discard_keeps h) (Keeps.ite (State.drainWrite_keeps h) (Keeps.ite (State.discard_keeps h) (State.drainWrite_keeps (State.personaWrite_keeps h))))

theorem State.ledgerCtrlWrite_keeps {z s : State} {a1} {a2} (h : Keeps z s) : Keeps z (State.ledgerCtrlWrite s a1 a2) := by
  unfold State.ledgerCtrlWrite
  extract_lets +onlyGivenNames u1
  refine Keeps.cut (s := u1) (State.store_keeps h) fun h2 => ?_
  clear_value u1
  exact Keeps.ite (State.discard_keeps (State.wr_keeps h2)) h2

theorem State.memLodgeWrite_keeps {z s : State} {a1} {a2} {a3} (h : Keeps z s) : Keeps z (State.memLodgeWrite s a1 a2 a3) := by
  unfold State.memLodgeWrite
  extract_lets +onlyGivenNames u1
  clear_value u1
  exact Keeps.ite (State.encryptWrite_keeps h) (State.store_keeps (State.encryptWrite_keeps h))

theorem State.linkCtrlWrite_keeps {z s : State} {a1} {a2} {a3} (h : Keeps z s) : Keeps z (State.linkCtrlWrite s a1 a2 a3) := by
  unfold State.linkCtrlWrite
  extract_lets +onlyGivenNames u1
  clear_value u1
  extract_lets +onlyGivenNames u2
  clear_value u2
  apply Keeps.ite
  · exact State.discard_keeps h
  · extract_lets +onlyGivenNames u3
    refine Keeps.cut (s := u3) (State.store_keeps h) fun h4 => ?_
    clear_value u3
    extract_lets +onlyGivenNames u5
    refine Keeps.cut (s := u5) (Keeps.ite (State.disablePort_keeps h4) (Keeps.ite (State.startTraining_keeps h4) h4)) fun h6 => ?_
    clear_value u5
    exact Keeps.ite (State.fastRetrain_keeps h6) h6

theorem State.spanCtrlWrite_keeps {z s : State} {a1} {a2} (h : Keeps z s) : Keeps z (State.spanCtrlWrite s a1 a2) := by
  unfold State.spanCtrlWrite
  extract_lets +onlyGivenNames u1
  refine Keeps.cut (s := u1) (State.store_keeps h) fun h2 => ?_
  clear_value u1
  extract_lets +onlyGivenNames u3
  refine Keeps.cut (s := u3) (Keeps.ite (State.rejoin_keeps h2) h2) fun h4 => ?_
  clear_value u3
  exact Keeps.ite (State.endMaster_keeps h4) h4

theorem State.gclCtrlWrite_keeps {z s : State} {a1} {a2} {a3} (h : Keeps z s) : Keeps z (State.gclCtrlWrite s a1 a2 a3) := by
  unfold State.gclCtrlWrite
  apply Keeps.ite
  · exact State.discard_keeps h
  · extract_lets +onlyGivenNames u1
    refine Keeps.cut (s := u1) (State.store_keeps h) fun h2 => ?_
    clear_value u1
    exact Keeps.ite (State.armList_keeps h2) h2

theorem State.healthCtrlWrite_keeps {z s : State} {a1} {a2} (h : Keeps z s) : Keeps z (State.healthCtrlWrite s a1 a2) := by
  unfold State.healthCtrlWrite
  exact State.logEnable_keeps (State.flag_keeps (State.store_keeps h))

theorem State.verifyWrite_keeps {z s : State} {a1} {a2} (h : Keeps z s) : Keeps z (State.verifyWrite s a1 a2) := by
  unfold State.verifyWrite
  exact Keeps.ite (State.discard_keeps h) (Keeps.ite (Keeps.ite (State.discard_keeps h) (State.verifyStart_keeps (State.store_keeps h))) (State.store_keeps h))

/-- Every write that is an action of its own. -/
theorem special_keeps {z s : State} {a b c : Nat} (h : Keeps z s) : ∀ e ∈ special, Keeps z (e.2 s a b c) := by
  unfold special
  simp only [List.forall_mem_cons]
  exact ⟨State.seedShadow_keeps h, .ite (State.releaseCore_keeps h) h, State.capWrite_keeps h, State.resetKey_keeps h,
    State.stopAt_keeps h, .ite (State.hostResume_keeps (State.store_keeps h)) (State.store_keeps h), State.ringCfgWrite_keeps h,
    State.lodCmdWrite_keeps h, State.personaCfgWrite_keeps h, State.ledgerCtrlWrite_keeps h, .ite (State.tallyDumpStart_keeps h) h,
    State.memLodgeWrite_keeps h, State.linkCtrlWrite_keeps h, State.assignId_keeps h, State.spanCtrlWrite_keeps h,
    State.checkRoute_keeps (State.store_keeps h), State.gclCtrlWrite_keeps h, State.healthCtrlWrite_keeps h, State.logConsumed_keeps h,
    State.resumeSlots_keeps h, .ite (State.shrinkGo_keeps h) (State.store_keeps h), State.verifyWrite_keeps h, State.mapCore_keeps h,
    fun _ k => nomatch k⟩

theorem State.afterWrite_keeps {z s : State} {a1} {a2} (h : Keeps z s) : Keeps z (State.afterWrite s a1 a2) := by
  unfold State.afterWrite
  split
  · exact State.maskCore_keeps h
  · apply Keeps.ite
    · exact State.settleEng_keeps h
    · apply Keeps.ite
      · exact State.pumpAll_keeps h
      · apply Keeps.ite
        · exact State.checkRoute_keeps h
        · apply Keeps.ite
          · exact State.leaseWrite_keeps h
          · split
            · exact Keeps.upd h rfl rfl id id rfl
            · exact Keeps.ite (State.idleEngine_keeps h) h

theorem State.msixWrite_keeps {z s : State} {a1} {a2} (h : Keeps z s) : Keeps z (State.msixWrite s a1 a2) := by
  unfold State.msixWrite
  extract_lets +onlyGivenNames u1
  clear_value u1
  extract_lets +onlyGivenNames u2
  extract_lets +onlyGivenNames u3
  refine Keeps.cut (s := u3) (Keeps.upd h rfl rfl id id rfl) fun h4 => ?_
  clear_value u3
  exact Keeps.ite (State.fire_keeps (Keeps.upd h4 rfl rfl id id rfl)) h4

theorem State.regWrite_keeps {z s : State} {off v} (h : Keeps z s) : Keeps z (State.regWrite s off v) := by
  unfold State.regWrite
  split
  · exact State.msixWrite_keeps h
  · split
    · rename_i f i e
      obtain ⟨q, hq, e⟩ := List.exists_of_findSome?_eq_some e
      obtain ⟨p, _, e⟩ := Option.map_eq_some_iff.1 e
      injection e with e _
      exact e ▸ special_keeps h q hq
    · exact .ite (State.discard_keeps h) (.ite (State.refuseWrite_keeps h) (State.afterWrite_keeps (State.store_keeps h)))

theorem State.busWrite_keeps {z s : State} {a1} {a2} {a3} (h : Keeps z s) : Keeps z (State.busWrite s a1 a2 a3) := by
  unfold State.busWrite
  apply Keeps.ite
  · exact State.regWrite_keeps h
  · split
    · exact State.discard_keeps h
    · exact State.bump_keeps h

theorem State.busStore_keeps {z s : State} {a1} {a2} {a3} (h : Keeps z s) : Keeps z (State.busStore s a1 a2 a3) := by
  unfold State.busStore
  exact Keeps.ite h (Keeps.ite (Keeps.ite (State.badAccess_keeps h) h) (State.busWrite_keeps h))

theorem State.busLoad_keeps {z s : State} {a1} {a2} (h : Keeps z s) : Keeps z (State.busLoad s a1 a2) := by
  unfold State.busLoad
  apply Keeps.ite
  · exact h
  · extract_lets +onlyGivenNames u1
    have h2 : Keeps z u1.1 := by
      subst u1
      split
      · exact Keeps.ite (State.badAccess_keeps h) h
      · exact State.busRead_keeps h
    clear_value u1
    extract_lets +onlyGivenNames u3
    exact Keeps.upd h2 rfl rfl id id rfl

theorem State.badSize_keeps {z s : State} {w off n} (h : Keeps z s) : Keeps z (State.badSize s w off n) :=
  Keeps.ite h (Keeps.ite (State.badAccess_keeps h) ((State.badAccess_keeps h).same rfl rfl rfl rfl id id rfl rfl))

theorem execRegisterWrite_keeps {z s t : State} {a0} {a1} {a2} (h : Keeps z s) (e : execRegisterWrite a0 a1 a2 s = .next t) : Keeps z t := by
  unfold execRegisterWrite at e
  injection e with e
  subst e
  exact State.choices_keeps (State.busStore_keeps h)

theorem execReadClear_keeps {z s t : State} {a0} {a1} (h : Keeps z s) (e : execReadClear a0 a1 s = .next t) : Keeps z t := by
  unfold execReadClear at e
  injection e with e
  subst e
  exact State.busLoad_keeps h

theorem execLowHalfRead_keeps {z s t : State} {a0} {a1} (h : Keeps z s) (e : execLowHalfRead a0 a1 s = .next t) : Keeps z t := by
  unfold execLowHalfRead at e
  injection e with e
  subst e
  exact State.busLoad_keeps h

theorem execBar0BadAccess_keeps {z s t : State} {a0} {a1} {a2} (h : Keeps z s) (e : execBar0BadAccess a0 a1 a2 s = .next t) : Keeps z t := by
  unfold execBar0BadAccess at e
  injection e with e
  subst e
  exact State.badSize_keeps h

end Sys2Proof.Machine
end

