-- ==== Sys2Proof/Laws/KeepPorter.lean ====
section
/-!
SUPPORT. The operations of Porter keep the queue and the canonical memories.
-/

namespace Sys2Proof.Machine

theorem State.setReply_keeps {z s : State} {a1} {a2} (h : Keeps z s) : Keeps z (State.setReply s a1 a2) := by
  unfold State.setReply
  split
  · exact Keeps.upd h rfl rfl id id rfl
  · exact Keeps.upd h rfl rfl id id rfl
  · exact Keeps.upd h rfl rfl id id rfl

theorem State.reply_keeps {z s : State} {a1} {a2} {a3} {a4} (h : Keeps z s) : Keeps z (State.reply s a1 a2 a3 a4) := by
  unfold State.reply
  exact State.setReply_keeps h

theorem State.shiftOut_keeps {z s : State} {a1} (h : Keeps z s) : Keeps z (State.shiftOut s a1) := by
  unfold State.shiftOut
  split
  · exact Keeps.upd h rfl rfl id id rfl
  · exact h

theorem State.frame_keeps {z s : State} {a1} {a2} {a3} {a4} {a5} (h : Keeps z s) (ha5 : ∀ y0, Keeps z y0 → Keeps z (a5 y0)) : Keeps z (State.frame s a1 a2 a3 a4 a5) := by
  unfold State.frame
  apply Keeps.ite
  · exact h
  · apply Keeps.ite
    · extract_lets +onlyGivenNames u1
      refine Keeps.cut (s := u1) (State.shiftOut_keeps h) fun h2 => ?_
      clear_value u1
      exact Keeps.ite (State.reply_keeps h2) (ha5 _ h2)
    · apply Keeps.ite
      · extract_lets +onlyGivenNames u3
        refine Keeps.cut (s := u3) (State.shiftOut_keeps h) fun h4 => ?_
        clear_value u3
        exact Keeps.ite (State.reply_keeps h4) (Keeps.ite (State.reply_keeps h4) (ha5 _ h4))
      · exact h

theorem State.readRun_keeps {z s : State} {a1} {a2} (h : Keeps z s) : Keeps z (State.readRun s a1 a2).1 := by
  induction a2 generalizing s a1 with
  | zero =>
    unfold State.readRun
    exact h
  | succ n ih =>
    unfold State.readRun
    extract_lets +onlyGivenNames u1
    refine Keeps.cut (s := u1.1) (State.busRead_keeps h) fun h2 => ?_
    clear_value u1
    extract_lets +onlyGivenNames u3
    refine Keeps.cut (s := u3.1) (ih h2) fun h4 => ?_
    clear_value u3
    dsimp -zeta only
    exact h4

theorem State.writeRun_keeps {z s : State} {a1} {a2} (h : Keeps z s) : Keeps z (State.writeRun s a1 a2) := by
  induction a2 generalizing s a1 with
  | nil =>
    unfold State.writeRun
    exact h
  | cons b r ih =>
    unfold State.writeRun
    extract_lets +onlyGivenNames u1
    refine Keeps.cut (s := u1) (State.busWrite_keeps h) fun h2 => ?_
    clear_value u1
    exact Keeps.ite h2 (ih h2)

theorem State.frameRead_keeps {z s : State} {a1} {a2} {a3} {a4} (h : Keeps z s) : Keeps z (State.frameRead s a1 a2 a3 a4) := by
  unfold State.frameRead
  apply State.frame_keeps
  · exact h
  · intro x1 h2
    extract_lets +onlyGivenNames u3
    refine Keeps.cut (s := u3.1) (State.readRun_keeps h2) fun h4 => ?_
    clear_value u3
    exact State.reply_keeps h4

theorem State.frameWrite_keeps {z s : State} {a1} {a2} {a3} {a4} {a5} (h : Keeps z s) : Keeps z (State.frameWrite s a1 a2 a3 a4 a5) := by
  unfold State.frameWrite
  apply State.frame_keeps
  · exact h
  · intro x1 h2
    extract_lets +onlyGivenNames u3
    refine Keeps.cut (s := u3) (State.writeRun_keeps h2) fun h4 => ?_
    clear_value u3
    exact Keeps.ite h4 (State.reply_keeps h4)

theorem State.stageWords_keeps {z s : State} {a1} {a2} (h : Keeps z s) : Keeps z (State.stageWords s a1 a2) := by
  unfold State.stageWords
  extract_lets +onlyGivenNames u1
  clear_value u1
  exact Keeps.ite (Keeps.upd h rfl rfl id id rfl) (Keeps.upd h rfl rfl id id rfl)

theorem State.frameStage_keeps {z s : State} {a1} {a2} {a3} {a4} {a5} (h : Keeps z s) : Keeps z (State.frameStage s a1 a2 a3 a4 a5) := by
  unfold State.frameStage
  exact State.frame_keeps h (fun x1 h2 => State.reply_keeps (State.stageWords_keeps h2))

theorem State.frameActivate_keeps {z s : State} {a1} {a2} {a3} {a4} (h : Keeps z s) : Keeps z (State.frameActivate s a1 a2 a3 a4) := by
  unfold State.frameActivate
  apply State.frame_keeps
  · exact h
  · intro x1 h2
    extract_lets +onlyGivenNames u3
    clear_value u3
    extract_lets +onlyGivenNames u4
    clear_value u4
    extract_lets +onlyGivenNames u5
    refine Keeps.cut (s := u5) (State.wr_keeps h2) fun h6 => ?_
    clear_value u5
    extract_lets +onlyGivenNames u7
    clear_value u7
    extract_lets +onlyGivenNames u8
    refine Keeps.cut (s := u8) (Keeps.ite (Keeps.upd h6 rfl rfl id id rfl) h6) fun h9 => ?_
    clear_value u8
    exact State.reply_keeps h9

theorem State.keepReplies_keeps {z t s : State} (h : Keeps z t) : Keeps z (State.keepReplies t s) := Keeps.upd h rfl rfl id id rfl

theorem State.orderedOff_keeps {z s : State} (h : Keeps z s) : Keeps z (State.orderedOff s) := by
  unfold State.orderedOff
  exact Keeps.ite (State.keepReplies_keeps (State.powerDown_keeps h)) h

theorem State.framePower_keeps {z s : State} {a1} {a2} {a3} {a4} (h : Keeps z s) : Keeps z (State.framePower s a1 a2 a3 a4) := by
  unfold State.framePower
  apply State.frame_keeps
  · exact h
  · intro x1 h2
    apply Keeps.ite
    · exact Keeps.ite (State.reply_keeps h2) (Keeps.ite (State.reply_keeps (Keeps.upd h2 rfl rfl id id rfl)) (State.reply_keeps (State.bump_keeps h2)))
    · extract_lets +onlyGivenNames u3
      refine Keeps.cut (s := u3) (State.reply_keeps h2) fun h4 => ?_
      clear_value u3
      exact Keeps.ite h4 (Keeps.ite (State.keepReplies_keeps (State.powerDown_keeps h4)) (State.orderedOff_keeps (Keeps.upd h4 rfl rfl id id rfl)))

theorem State.frameReset_keeps {z s : State} {a1} {a2} {a3} {a4} (h : Keeps z s) : Keeps z (State.frameReset s a1 a2 a3 a4) := by
  unfold State.frameReset
  apply State.frame_keeps
  · exact h
  · intro x1 h2
    extract_lets +onlyGivenNames u3
    refine Keeps.cut (s := u3) (State.reply_keeps h2) fun h4 => ?_
    clear_value u3
    exact Keeps.ite (State.keepReplies_keeps (State.moduleReset_keeps h4)) h4

theorem State.takeEvent_keeps {z s t : State} {b} (h : Keeps z s) (e : State.takeEvent s = some (t, b)) : Keeps z t := by
  unfold State.takeEvent at e
  split at e
  · injection e with e
    injection e with e
    exact e ▸ Keeps.upd h rfl rfl id id rfl
  · split at e
    · injection e with e
      injection e with e
      exact e ▸ Keeps.upd h rfl rfl id id rfl
    · contradiction

theorem State.takeEvents_keeps {z s : State} {n} (h : Keeps z s) : Keeps z (State.takeEvents s n).1 := by
  induction n generalizing s with
  | zero => exact h
  | succ n ih =>
    unfold State.takeEvents
    split
    · exact h
    · exact ih (State.takeEvent_keeps h (by assumption))

theorem State.frameEvents_keeps {z s : State} {a1} {a2} {a3} {a4} (h : Keeps z s) : Keeps z (State.frameEvents s a1 a2 a3 a4) := by
  unfold State.frameEvents
  apply State.frame_keeps
  · exact h
  · intro x1 h2
    extract_lets +onlyGivenNames u3
    refine Keeps.cut (s := u3.1) (State.takeEvents_keeps h2) fun h4 => ?_
    clear_value u3
    exact State.reply_keeps h4

theorem State.frameFetch_keeps {z s : State} {a1} {a2} {a3} {a4} (h : Keeps z s) : Keeps z (State.frameFetch s a1 a2 a3 a4) := by
  unfold State.frameFetch
  exact State.frame_keeps h (fun x1 h2 => State.reply_keeps h2)

theorem State.badCrc_keeps {z s : State} {a1} {a2} (h : Keeps z s) : Keeps z (State.badCrc s a1 a2) := by
  unfold State.badCrc
  apply Keeps.ite
  · exact h
  · extract_lets +onlyGivenNames u1
    refine Keeps.cut (s := u1) (State.bump_keeps (State.shiftOut_keeps h)) fun h2 => ?_
    clear_value u1
    split
    · exact State.reply_keeps h2
    · exact h2

theorem State.spiDiscard_keeps {z s : State} {a1} {a2} (h : Keeps z s) : Keeps z (State.spiDiscard s a1 a2) := by
  unfold State.spiDiscard
  apply Keeps.ite
  · exact h
  · extract_lets +onlyGivenNames u1
    refine Keeps.cut (s := u1) (State.shiftOut_keeps h) fun h2 => ?_
    clear_value u1
    exact Keeps.ite (State.bump_keeps h2) (Keeps.ite (State.bump_keeps h2) (Keeps.ite (State.wr_keeps (State.bump_keeps h2)) h2))

theorem State.tick_keeps {z s : State} (h : Keeps z s) : Keeps z (State.tick s) := by
  unfold State.tick
  extract_lets +onlyGivenNames u1
  refine Keeps.cut (s := u1) (Keeps.ite h (Keeps.upd h rfl rfl id id rfl)) fun h2 => ?_
  clear_value u1
  exact State.choices_keeps (State.orderedOff_keeps (State.tickFieldTime_keeps (State.tickSpanTime_keeps h2)))

theorem execFetch_keeps {z s t : State} {a0} {a1} {a2} {a3} (h : Keeps z s) (e : execFetch a0 a1 a2 a3 s = .next t) : Keeps z t := by
  unfold execFetch at e
  injection e with e
  subst e
  exact State.frameFetch_keeps h

theorem execRead_keeps {z s t : State} {a0} {a1} {a2} {a3} (h : Keeps z s) (e : execRead a0 a1 a2 a3 s = .next t) : Keeps z t := by
  unfold execRead at e
  injection e with e
  subst e
  exact State.frameRead_keeps h

theorem execWrite_keeps {z s t : State} {a0} {a1} {a2} {a3} {a4} (h : Keeps z s) (e : execWrite a0 a1 a2 a3 a4 s = .next t) : Keeps z t := by
  unfold execWrite at e
  injection e with e
  subst e
  exact State.choices_keeps (State.frameWrite_keeps h)

theorem execStage_keeps {z s t : State} {a0} {a1} {a2} {a3} {a4} (h : Keeps z s) (e : execStage a0 a1 a2 a3 a4 s = .next t) : Keeps z t := by
  unfold execStage at e
  injection e with e
  subst e
  exact State.frameStage_keeps h

theorem execActivate_keeps {z s t : State} {a0} {a1} {a2} {a3} (h : Keeps z s) (e : execActivate a0 a1 a2 a3 s = .next t) : Keeps z t := by
  unfold execActivate at e
  injection e with e
  subst e
  exact State.frameActivate_keeps h

theorem execPower_keeps {z s t : State} {a0} {a1} {a2} {a3} (h : Keeps z s) (e : execPower a0 a1 a2 a3 s = .next t) : Keeps z t := by
  unfold execPower at e
  injection e with e
  subst e
  exact State.framePower_keeps h

theorem execReset_keeps {z s t : State} {a0} {a1} {a2} {a3} (h : Keeps z s) (e : execReset a0 a1 a2 a3 s = .next t) : Keeps z t := by
  unfold execReset at e
  injection e with e
  subst e
  exact State.frameReset_keeps h

theorem execEvents_keeps {z s t : State} {a0} {a1} {a2} {a3} (h : Keeps z s) (e : execEvents a0 a1 a2 a3 s = .next t) : Keeps z t := by
  unfold execEvents at e
  injection e with e
  subst e
  exact State.frameEvents_keeps h

theorem execFrameCrcError_keeps {z s t : State} {a0} {a1} (h : Keeps z s) (e : execFrameCrcError a0 a1 s = .next t) : Keeps z t := by
  unfold execFrameCrcError at e
  injection e with e
  subst e
  exact State.badCrc_keeps h

theorem execFrameDiscard_keeps {z s t : State} {a0} {a1} (h : Keeps z s) (e : execFrameDiscard a0 a1 s = .next t) : Keeps z t := by
  unfold execFrameDiscard at e
  injection e with e
  subst e
  exact State.spiDiscard_keeps h

theorem execUartGap_keeps {z s t : State} (h : Keeps z s) (e : execUartGap s = .next t) : Keeps z t := by
  unfold execUartGap at e
  injection e with e
  subst e
  exact Keeps.ite (State.bump_keeps h) h

theorem execBlockRead_keeps {z s t : State} (h : Keeps z s) (e : execBlockRead s = .next t) : Keeps z t := by
  unfold execBlockRead at e
  injection e with e
  subst e
  exact Keeps.ite (Keeps.upd h rfl rfl id id rfl) h

theorem execWrongPec_keeps {z s t : State} (h : Keeps z s) (e : execWrongPec s = .next t) : Keeps z t := by
  unfold execWrongPec at e
  injection e with e
  subst e
  apply Keeps.ite
  · extract_lets +onlyGivenNames u1
    refine Keeps.cut (s := u1) (State.bump_keeps h) fun h2 => ?_
    clear_value u1
    exact Keeps.upd h2 rfl rfl id id rfl
  · exact h

theorem execFramingError_keeps {z s t : State} (h : Keeps z s) (e : execFramingError s = .next t) : Keeps z t := by
  unfold execFramingError at e
  injection e with e
  subst e
  exact Keeps.ite (State.bump_keeps h) h

theorem execJtagInstruction_keeps {z s t : State} {a0} (h : Keeps z s) (e : execJtagInstruction a0 s = .next t) : Keeps z t := by
  unfold execJtagInstruction at e
  injection e with e
  subst e
  exact Keeps.upd h rfl rfl id id rfl

end Sys2Proof.Machine
end

