-- ==== Sys2Proof/Laws/KeepExec.lean ====
section
/-!
SUPPORT. Every command keeps the queue and the canonical memories, and so does the passing of time on an empty queue.
-/

namespace Sys2Proof.Machine

/-- Whatever command runs, it leaves the queue alone and keeps the canonical forms. -/
theorem exec_keeps {c : Instr} {s t : State} (e : exec c s = .next t) : Keeps s t := by
  cases c with
  | matmul => exact execMatmul_keeps (Keeps.refl s) e
  | vector => exact execVector_keeps (Keeps.refl s) e
  | convert => exact execConvert_keeps (Keeps.refl s) e
  | copy => exact execCopy_keeps (Keeps.refl s) e
  | signal => exact execSignal_keeps (Keeps.refl s) e
  | nbMatvec => exact execNbMatvec_keeps (Keeps.refl s) e
  | nbEltwise => exact execNbEltwise_keeps (Keeps.refl s) e
  | nbNormsum => exact execNbNormsum_keeps (Keeps.refl s) e
  | nbRowprog => exact execNbRowprog_keeps (Keeps.refl s) e
  | attn => exact execAttn_keeps (Keeps.refl s) e
  | kvAppend => exact execKvAppend_keeps (Keeps.refl s) e
  | prefixMatch => exact execPrefixMatch_keeps (Keeps.refl s) e
  | memMap => exact execMemMap_keeps (Keeps.refl s) e
  | memUnmap => exact execMemUnmap_keeps (Keeps.refl s) e
  | memSetattr => exact execMemSetattr_keeps (Keeps.refl s) e
  | memRepublish => exact execMemRepublish_keeps (Keeps.refl s) e
  | memHarvest => exact execMemHarvest_keeps (Keeps.refl s) e
  | memFill => exact execMemFill_keeps (Keeps.refl s) e
  | memCopy => exact execMemCopy_keeps (Keeps.refl s) e
  | memCompare => exact execMemCompare_keeps (Keeps.refl s) e
  | memReduce => exact execMemReduce_keeps (Keeps.refl s) e
  | ledgerAdmit => exact execAdmit_keeps (Keeps.refl s) e
  | ledgerCancel => exact execLedgerCancel_keeps (Keeps.refl s) e
  | ledgerQuery => exact execLedgerQuery_keeps (Keeps.refl s) e
  | ledgerRelease => exact execLedgerRelease_keeps (Keeps.refl s) e
  | liveryLoad => exact execLiveryLoad_keeps (Keeps.refl s) e
  | liveryDrop => exact execLiveryDrop_keeps (Keeps.refl s) e
  | wainMove => exact execWainMove_keeps (Keeps.refl s) e
  | wainPushKv => exact execWainPushKv_keeps (Keeps.refl s) e
  | tallyAlloc => exact execTallyAlloc_keeps (Keeps.refl s) e
  | tallyFree => exact execTallyFree_keeps (Keeps.refl s) e
  | tallyGroup => exact execTallyGroup_keeps (Keeps.refl s) e
  | tallyReckon => exact execTallyReckon_keeps (Keeps.refl s) e
  | tallyRead => exact execTallyRead_keeps (Keeps.refl s) e
  | spanRead => exact execSpanRead_keeps (Keeps.refl s) e
  | spanWrite => exact execSpanWrite_keeps (Keeps.refl s) e
  | spanAtomic => exact execSpanAtomic_keeps (Keeps.refl s) e
  | spanCopy => exact execSpanCopy_keeps (Keeps.refl s) e
  | spanInval => exact execSpanInval_keeps (Keeps.refl s) e
  | arrivalWait => exact execArrivalWait_keeps (Keeps.refl s) e
  | arrivalCtl => exact execArrivalCtl_keeps (Keeps.refl s) e
  | fldConnOpen => exact execFldConnOpen_keeps (Keeps.refl s) e
  | fldConnClose => exact execFldConnClose_keeps (Keeps.refl s) e
  | fldConnModify => exact execFldConnModify_keeps (Keeps.refl s) e
  | fldWrite => exact execFldWrite_keeps (Keeps.refl s) e
  | fldRead => exact execFldRead_keeps (Keeps.refl s) e
  | embLookup => exact execEmbLookup_keeps (Keeps.refl s) e
  | embPrefetch => exact execEmbPrefetch_keeps (Keeps.refl s) e
  | embUpdate => exact execEmbUpdate_keeps (Keeps.refl s) e
  | nop => exact execNop_keeps (Keeps.refl s) e
  | barrier => exact execBarrier_keeps (Keeps.refl s) e
  | vectorNop => exact execVectorNop_keeps (Keeps.refl s) e
  | ld => exact execLd_keeps (Keeps.refl s) e
  | st => exact execSt_keeps (Keeps.refl s) e
  | add => exact execAdd_keeps (Keeps.refl s) e
  | mul => exact execMul_keeps (Keeps.refl s) e
  | fma => exact execFma_keeps (Keeps.refl s) e
  | max => exact execMax_keeps (Keeps.refl s) e
  | min => exact execMin_keeps (Keeps.refl s) e
  | recip => exact execRecip_keeps (Keeps.refl s) e
  | rsqrt => exact execRsqrt_keeps (Keeps.refl s) e
  | sqrt => exact execSqrt_keeps (Keeps.refl s) e
  | div => exact execDiv_keeps (Keeps.refl s) e
  | exp => exact execExp_keeps (Keeps.refl s) e
  | log => exact execLog_keeps (Keeps.refl s) e
  | exp2 => exact execExp2_keeps (Keeps.refl s) e
  | log2 => exact execLog2_keeps (Keeps.refl s) e
  | rsum => exact execRsum_keeps (Keeps.refl s) e
  | rmax => exact execRmax_keeps (Keeps.refl s) e
  | sel => exact execSel_keeps (Keeps.refl s) e
  | rot => exact execRot_keeps (Keeps.refl s) e
  | topk => exact execTopk_keeps (Keeps.refl s) e
  | bcast => exact execBcast_keeps (Keeps.refl s) e
  | loop => exact execLoop_keeps (Keeps.refl s) e
  | endLoop => exact execEndLoop_keeps (Keeps.refl s) e
  | rowNop => exact execRowNop_keeps (Keeps.refl s) e
  | rowCopy => exact execRowCopy_keeps (Keeps.refl s) e
  | init0 => exact execInit0_keeps (Keeps.refl s) e
  | init1 => exact execInit1_keeps (Keeps.refl s) e
  | rowAnd => exact execRowAnd_keeps (Keeps.refl s) e
  | rowOr => exact execRowOr_keeps (Keeps.refl s) e
  | rowXor => exact execRowXor_keeps (Keeps.refl s) e
  | rowNot => exact execRowNot_keeps (Keeps.refl s) e
  | rowEnd => exact execRowEnd_keeps (Keeps.refl s) e
  | commit => exact execCommit_keeps (Keeps.refl s) e
  | killDone => exact execKillDone_keeps (Keeps.refl s) e
  | cmdTimeout => exact execCmdTimeout_keeps (Keeps.refl s) e
  | spinTimeout => exact execSpinTimeout_keeps (Keeps.refl s) e
  | waitRelease => exact execWaitRelease_keeps (Keeps.refl s) e
  | shadowCompare => exact execShadowCompare_keeps (Keeps.refl s) e
  | shadowAbandon => exact execShadowAbandon_keeps (Keeps.refl s) e
  | pinReady => exact execPinReady_keeps (Keeps.refl s) e
  | activationRoom => exact execActivationRoom_keeps (Keeps.refl s) e
  | refreshDue => exact execRefreshDue_keeps (Keeps.refl s) e
  | nbThermal => exact execNbThermal_keeps (Keeps.refl s) e
  | channelGroupRamp => exact execChannelGroupRamp_keeps (Keeps.refl s) e
  | epochEnd => exact execEpochEnd_keeps (Keeps.refl s) e
  | migrationChunk => exact execMigrationChunk_keeps (Keeps.refl s) e
  | cutover => exact execCutover_keeps (Keeps.refl s) e
  | frameZeroed => exact execFrameZeroed_keeps (Keeps.refl s) e
  | dirRecallTimeout => exact execDirRecallTimeout_keeps (Keeps.refl s) e
  | invalAckTimeout => exact execInvalAckTimeout_keeps (Keeps.refl s) e
  | trayTimeout => exact execTrayTimeout_keeps (Keeps.refl s) e
  | trayRemoval => exact execTrayRemoval_keeps (Keeps.refl s) e
  | trayHotadd => exact execTrayHotadd_keeps (Keeps.refl s) e
  | replicaScrub => exact execReplicaScrub_keeps (Keeps.refl s) e
  | stepRecordWrite => exact execStepRecordWrite_keeps (Keeps.refl s) e
  | prefill => exact execPrefill_keeps (Keeps.refl s) e
  | prefillAck => exact execPrefillAck_keeps (Keeps.refl s) e
  | prefillDone => exact execPrefillDone_keeps (Keeps.refl s) e
  | prefillCancel => exact execPrefillCancel_keeps (Keeps.refl s) e
  | pageOp => exact execPageOp_keeps (Keeps.refl s) e
  | pageRsp => exact execPageRsp_keeps (Keeps.refl s) e
  | groupCheck => exact execGroupCheck_keeps (Keeps.refl s) e
  | groupCheckRsp => exact execGroupCheckRsp_keeps (Keeps.refl s) e
  | groupStep => exact execGroupStep_keeps (Keeps.refl s) e
  | groupNode => exact execGroupNode_keeps (Keeps.refl s) e
  | groupStepAck => exact execGroupStepAck_keeps (Keeps.refl s) e
  | groupMap => exact execGroupMap_keeps (Keeps.refl s) e
  | groupMapAck => exact execGroupMapAck_keeps (Keeps.refl s) e
  | groupCheckTimeout => exact execGroupCheckTimeout_keeps (Keeps.refl s) e
  | groupTimeout => exact execGroupTimeout_keeps (Keeps.refl s) e
  | groupMapTimeout => exact execGroupMapTimeout_keeps (Keeps.refl s) e
  | prefillTimeout => exact execPrefillTimeout_keeps (Keeps.refl s) e
  | attReq => exact execAttReq_keeps (Keeps.refl s) e
  | attRsp => exact execAttRsp_keeps (Keeps.refl s) e
  | attTimeout => exact execAttTimeout_keeps (Keeps.refl s) e
  | wainBlock => exact execWainBlock_keeps (Keeps.refl s) e
  | blockAck => exact execBlockAck_keeps (Keeps.refl s) e
  | blockNak => exact execBlockNak_keeps (Keeps.refl s) e
  | blockTimeout => exact execBlockTimeout_keeps (Keeps.refl s) e
  | streamPlace => exact execStreamPlace_keeps (Keeps.refl s) e
  | handoverReq => exact execHandoverReq_keeps (Keeps.refl s) e
  | fence => exact execFence_keeps (Keeps.refl s) e
  | fenceAck => exact execFenceAck_keeps (Keeps.refl s) e
  | ownershipChange => exact execOwnershipChange_keeps (Keeps.refl s) e
  | fenceTimeout => exact execFenceTimeout_keeps (Keeps.refl s) e
  | handoverRsp => exact execHandoverRsp_keeps (Keeps.refl s) e
  | handoverTimeout => exact execHandoverTimeout_keeps (Keeps.refl s) e
  | layerAck => exact execLayerAck_keeps (Keeps.refl s) e
  | pull => exact execPull_keeps (Keeps.refl s) e
  | embReq => exact execEmbReq_keeps (Keeps.refl s) e
  | embRsp => exact execEmbRsp_keeps (Keeps.refl s) e
  | embReplyTimeout => exact execEmbReplyTimeout_keeps (Keeps.refl s) e
  | embUpd => exact execEmbUpd_keeps (Keeps.refl s) e
  | rowFlip => exact execRowFlip_keeps (Keeps.refl s) e
  | embUpdRsp => exact execEmbUpdRsp_keeps (Keeps.refl s) e
  | spanFwd p m => exact execSpanFwd_keeps (a0 := p) (Keeps.refl s) e
  | spRead => exact execSpRead_keeps (Keeps.refl s) e
  | spReadRsp => exact execSpReadRsp_keeps (Keeps.refl s) e
  | spWrite => exact execSpWrite_keeps (Keeps.refl s) e
  | spAck => exact execSpAck_keeps (Keeps.refl s) e
  | spAtomic => exact execSpAtomic_keeps (Keeps.refl s) e
  | spCopy => exact execSpCopy_keeps (Keeps.refl s) e
  | spInval => exact execSpInval_keeps (Keeps.refl s) e
  | spRepublish => exact execSpRepublish_keeps (Keeps.refl s) e
  | republishTimeout => exact execRepublishTimeout_keeps (Keeps.refl s) e
  | spanTimeout => exact execSpanTimeout_keeps (Keeps.refl s) e
  | masterBeat => exact execMasterBeat_keeps (Keeps.refl s) e
  | beatTimer => exact execBeatTimer_keeps (Keeps.refl s) e
  | beatLoss => exact execBeatLoss_keeps (Keeps.refl s) e
  | leaseExpiry => exact execLeaseExpiry_keeps (Keeps.refl s) e
  | leaseGrant => exact execLeaseGrant_keeps (Keeps.refl s) e
  | leaseRevoke => exact execLeaseRevoke_keeps (Keeps.refl s) e
  | rejoin => exact execRejoin_keeps (Keeps.refl s) e
  | deviceIdAssign => exact execDeviceIdAssign_keeps (Keeps.refl s) e
  | hello p v q d r b x n k => exact execHello_keeps (a7 := n) (Keeps.refl s) e
  | replayStart => exact execReplayStart_keeps (Keeps.refl s) e
  | ack => exact execAck_keeps (Keeps.refl s) e
  | nak => exact execNak_keeps (Keeps.refl s) e
  | badFlit => exact execBadFlit_keeps (Keeps.refl s) e
  | ackTimer => exact execAckTimer_keeps (Keeps.refl s) e
  | replayTimeout => exact execReplayTimeout_keeps (Keeps.refl s) e
  | nakRetry => exact execNakRetry_keeps (Keeps.refl s) e
  | time => exact execTime_keeps (Keeps.refl s) e
  | timeSend => exact execTimeSend_keeps (Keeps.refl s) e
  | delayReq => exact execDelayReq_keeps (Keeps.refl s) e
  | delayRsp => exact execDelayRsp_keeps (Keeps.refl s) e
  | delayMeasure => exact execDelayMeasure_keeps (Keeps.refl s) e
  | spanTimeLost => exact execSpanTimeLost_keeps (Keeps.refl s) e
  | retrainReq p c => exact execRetrainReq_keeps (a1 := c) (Keeps.refl s) e
  | retrain => exact execRetrain_keeps (Keeps.refl s) e
  | lockLoss => exact execLockLoss_keeps (Keeps.refl s) e
  | uncorrLimit => exact execUncorrLimit_keeps (Keeps.refl s) e
  | retrainPhaseLimit => exact execRetrainPhaseLimit_keeps (Keeps.refl s) e
  | trainingPhaseDone => exact execTrainingPhaseDone_keeps (Keeps.refl s) e
  | trainingPhaseLimit => exact execTrainingPhaseLimit_keeps (Keeps.refl s) e
  | trainingRetry => exact execTrainingRetry_keeps (Keeps.refl s) e
  | unplug => exact execUnplug_keeps (Keeps.refl s) e
  | fieldWrite => exact execFieldWrite_keeps (Keeps.refl s) e
  | readReq => exact execReadReq_keeps (Keeps.refl s) e
  | readRsp => exact execReadRsp_keeps (Keeps.refl s) e
  | fieldAck => exact execFieldAck_keeps (Keeps.refl s) e
  | msg => exact execMsg_keeps (Keeps.refl s) e
  | rxDrop => exact execRxDrop_keeps (Keeps.refl s) e
  | neighbourSolicitation => exact execNeighbourSolicitation_keeps (Keeps.refl s) e
  | retryTimeout => exact execRetryTimeout_keeps (Keeps.refl s) e
  | packetBoundary => exact execPacketBoundary_keeps (Keeps.refl s) e
  | wheelSlot => exact execWheelSlot_keeps (Keeps.refl s) e
  | gateEntry => exact execGateEntry_keeps (Keeps.refl s) e
  | change => exact execChange_keeps (Keeps.refl s) e
  | gclTakeover => exact execGclTakeover_keeps (Keeps.refl s) e
  | ptpSync => exact execPtpSync_keeps (Keeps.refl s) e
  | ptpLost => exact execPtpLost_keeps (Keeps.refl s) e
  | refill => exact execRefill_keeps (Keeps.refl s) e
  | pathGrant => exact execPathGrant_keeps (Keeps.refl s) e
  | wakeWrite => exact execWakeWrite_keeps (Keeps.refl s) e
  | doorbellRead => exact execDoorbellRead_keeps (Keeps.refl s) e
  | descriptorFetch => exact execDescriptorFetch_keeps (Keeps.refl s) e
  | poll => exact execPoll_keeps (Keeps.refl s) e
  | cqRoomPoll => exact execCqRoomPoll_keeps (Keeps.refl s) e
  | hostReadTimeout => exact execHostReadTimeout_keeps (Keeps.refl s) e
  | hostResume => exact execHostResume_keeps (Keeps.refl s) e
  | interruptHold => exact execInterruptHold_keeps (Keeps.refl s) e
  | ringEnable => exact execRingEnable_keeps (Keeps.refl s) e
  | ringDisable => exact execRingDisable_keeps (Keeps.refl s) e
  | flr => exact execFlr_keeps (Keeps.refl s) e
  | pcieReset => exact execPcieReset_keeps (Keeps.refl s) e
  | create => exact execCreate_keeps (Keeps.refl s) e
  | destroy => exact execDestroy_keeps (Keeps.refl s) e
  | bind => exact execBind_keeps (Keeps.refl s) e
  | unbind => exact execUnbind_keeps (Keeps.refl s) e
  | lodgeReset => exact execLodgeReset_keeps (Keeps.refl s) e
  | teardown => exact execTeardown_keeps (Keeps.refl s) e
  | halted => exact execHalted_keeps (Keeps.refl s) e
  | clientDump => exact execClientDump_keeps (Keeps.refl s) e
  | drain => exact execDrain_keeps (Keeps.refl s) e
  | persona => exact execPersona_keeps (Keeps.refl s) e
  | personaDone => exact execPersonaDone_keeps (Keeps.refl s) e
  | tallyDump => exact execTallyDump_keeps (Keeps.refl s) e
  | tallyDumpDone => exact execTallyDumpDone_keeps (Keeps.refl s) e
  | hltVerify => exact execHltVerify_keeps (Keeps.refl s) e
  | verifyDone => exact execVerifyDone_keeps (Keeps.refl s) e
  | hltResume => exact execHltResume_keeps (Keeps.refl s) e
  | shrink => exact execShrink_keeps (Keeps.refl s) e
  | coreMap => exact execCoreMap_keeps (Keeps.refl s) e
  | logEn => exact execLogEn_keeps (Keeps.refl s) e
  | seed => exact execSeed_keeps (Keeps.refl s) e
  | release => exact execRelease_keeps (Keeps.refl s) e
  | scoreUpdate => exact execScoreUpdate_keeps (Keeps.refl s) e
  | tokenRefill => exact execTokenRefill_keeps (Keeps.refl s) e
  | alarmRecord => exact execAlarmRecord_keeps (Keeps.refl s) e
  | porterSummary => exact execPorterSummary_keeps (Keeps.refl s) e
  | deviceFault => exact execDeviceFault_keeps (Keeps.refl s) e
  | coreSelfTest => exact execCoreSelfTest_keeps (Keeps.refl s) e
  | powerUp => exact execPowerUp_keeps (Keeps.refl s) e
  | measuredBoot => exact execMeasuredBoot_keeps (Keeps.refl s) e
  | t2Trained => exact execT2Trained_keeps (Keeps.refl s) e
  | t1Trained => exact execT1Trained_keeps (Keeps.refl s) e
  | clockChange => exact execClockChange_keeps (Keeps.refl s) e
  | rampStep => exact execRampStep_keeps (Keeps.refl s) e
  | powerLoop => exact execPowerLoop_keeps (Keeps.refl s) e
  | coreGate => exact execCoreGate_keeps (Keeps.refl s) e
  | capW => exact execCapW_keeps (Keeps.refl s) e
  | stopAt => exact execStopAt_keeps (Keeps.refl s) e
  | rveReset => exact execRveReset_keeps (Keeps.refl s) e
  | encrypt => exact execEncrypt_keeps (Keeps.refl s) e
  | keyInstall => exact execKeyInstall_keeps (Keeps.refl s) e
  | mrstN => exact execMrstN_keeps (Keeps.refl s) e
  | watchdog => exact execWatchdog_keeps (Keeps.refl s) e
  | refclkLoss => exact execRefclkLoss_keeps (Keeps.refl s) e
  | refclkRestored => exact execRefclkRestored_keeps (Keeps.refl s) e
  | undervoltage => exact execUndervoltage_keeps (Keeps.refl s) e
  | overvoltage => exact execOvervoltage_keeps (Keeps.refl s) e
  | overcurrent => exact execOvercurrent_keeps (Keeps.refl s) e
  | reverseCurrent => exact execReverseCurrent_keeps (Keeps.refl s) e
  | removal => exact execRemoval_keeps (Keeps.refl s) e
  | insertion => exact execInsertion_keeps (Keeps.refl s) e
  | throttle => exact execThrottle_keeps (Keeps.refl s) e
  | thermal => exact execThermal_keeps (Keeps.refl s) e
  | thermalTrip => exact execThermalTrip_keeps (Keeps.refl s) e
  | pps => exact execPps_keeps (Keeps.refl s) e
  | fetch => exact execFetch_keeps (Keeps.refl s) e
  | read => exact execRead_keeps (Keeps.refl s) e
  | write => exact execWrite_keeps (Keeps.refl s) e
  | stage => exact execStage_keeps (Keeps.refl s) e
  | activate => exact execActivate_keeps (Keeps.refl s) e
  | power => exact execPower_keeps (Keeps.refl s) e
  | reset => exact execReset_keeps (Keeps.refl s) e
  | events => exact execEvents_keeps (Keeps.refl s) e
  | frameCrcError => exact execFrameCrcError_keeps (Keeps.refl s) e
  | frameDiscard => exact execFrameDiscard_keeps (Keeps.refl s) e
  | uartGap => exact execUartGap_keeps (Keeps.refl s) e
  | blockRead => exact execBlockRead_keeps (Keeps.refl s) e
  | registerWrite => exact execRegisterWrite_keeps (Keeps.refl s) e
  | readClear => exact execReadClear_keeps (Keeps.refl s) e
  | lowHalfRead => exact execLowHalfRead_keeps (Keeps.refl s) e
  | bar0BadAccess => exact execBar0BadAccess_keeps (Keeps.refl s) e
  | flitSlot => exact execFlitSlot_keeps (Keeps.refl s) e
  | dataFlit => exact execDataFlit_keeps (Keeps.refl s) e
  | lodCmdDone => exact execLodCmdDone_keeps (Keeps.refl s) e
  | d3hot => exact execD3hot_keeps (Keeps.refl s) e
  | stackHot => exact execStackHot_keeps (Keeps.refl s) e
  | t2Hot => exact execT2Hot_keeps (Keeps.refl s) e
  | jtagInstruction => exact execJtagInstruction_keeps (Keeps.refl s) e
  | wrongPec => exact execWrongPec_keeps (Keeps.refl s) e
  | framingError => exact execFramingError_keeps (Keeps.refl s) e
  | ptpDelayResp => exact execPtpDelayResp_keeps (Keeps.refl s) e

end Sys2Proof.Machine
end

