-- ==== Sys2Proof/Laws/State.lean ====
section
/-!
SUPPORT. What the shared operations read back and what they leave alone: one lemma per field and update, and reads after writes.
-/

namespace Sys2Proof.Machine

/-! ## What an operation leaves alone -/

@[simp] theorem State.wr_pending (s : State) (f : Fld) (v i j : Nat) : (s.wr f v i j).pending = s.pending := rfl
@[simp] theorem State.wr_now (s : State) (f : Fld) (v i j : Nat) : (s.wr f v i j).now = s.now := rfl
@[simp] theorem State.wr_free (s : State) (f : Fld) (v i j : Nat) : (s.wr f v i j).free = s.free := rfl
@[simp] theorem State.wr_variant (s : State) (f : Fld) (v i j : Nat) : (s.wr f v i j).variant = s.variant := rfl
@[simp] theorem State.wr_hif (s : State) (f : Fld) (v i j : Nat) : (s.wr f v i j).hif = s.hif := rfl
@[simp] theorem State.wr_cores (s : State) (f : Fld) (v i j : Nat) : (s.wr f v i j).cores = s.cores := rfl
@[simp] theorem State.wr_lfsrs (s : State) (f : Fld) (v i j : Nat) : (s.wr f v i j).lfsrs = s.lfsrs := rfl
@[simp] theorem State.wr_coreStore (s : State) (f : Fld) (v i j : Nat) : (s.wr f v i j).coreStore = s.coreStore := rfl
@[simp] theorem State.wr_csBad (s : State) (f : Fld) (v i j : Nat) : (s.wr f v i j).csBad = s.csBad := rfl
@[simp] theorem State.wr_pad (s : State) (f : Fld) (v i j : Nat) : (s.wr f v i j).pad = s.pad := rfl
@[simp] theorem State.wr_tallies (s : State) (f : Fld) (v i j : Nat) : (s.wr f v i j).tallies = s.tallies := rfl
@[simp] theorem State.wr_groups (s : State) (f : Fld) (v i j : Nat) : (s.wr f v i j).groups = s.groups := rfl
@[simp] theorem State.wr_tallyDump (s : State) (f : Fld) (v i j : Nat) : (s.wr f v i j).tallyDump = s.tallyDump := rfl
@[simp] theorem State.wr_mem (s : State) (f : Fld) (v i j : Nat) : (s.wr f v i j).mem = s.mem := rfl
@[simp] theorem State.wr_debt (s : State) (f : Fld) (v i j : Nat) : (s.wr f v i j).debt = s.debt := rfl
@[simp] theorem State.wr_ramp (s : State) (f : Fld) (v i j : Nat) : (s.wr f v i j).ramp = s.ramp := rfl
@[simp] theorem State.wr_lod (s : State) (f : Fld) (v i j : Nat) : (s.wr f v i j).lod = s.lod := rfl
@[simp] theorem State.wr_ldg (s : State) (f : Fld) (v i j : Nat) : (s.wr f v i j).ldg = s.ldg := rfl
@[simp] theorem State.wr_wan (s : State) (f : Fld) (v i j : Nat) : (s.wr f v i j).wan = s.wan := rfl
@[simp] theorem State.wr_hlt (s : State) (f : Fld) (v i j : Nat) : (s.wr f v i j).hlt = s.hlt := rfl
@[simp] theorem State.wr_spn (s : State) (f : Fld) (v i j : Nat) : (s.wr f v i j).spn = s.spn := rfl
@[simp] theorem State.wr_att (s : State) (f : Fld) (v i j : Nat) : (s.wr f v i j).att = s.att := rfl
@[simp] theorem State.wr_emb (s : State) (f : Fld) (v i j : Nat) : (s.wr f v i j).emb = s.emb := rfl
@[simp] theorem State.wr_fld (s : State) (f : Fld) (v i j : Nat) : (s.wr f v i j).fld = s.fld := rfl
@[simp] theorem State.wr_lnk (s : State) (f : Fld) (v i j : Nat) : (s.wr f v i j).lnk = s.lnk := rfl
@[simp] theorem State.wr_pwr (s : State) (f : Fld) (v i j : Nat) : (s.wr f v i j).pwr = s.pwr := rfl
@[simp] theorem State.wr_prt (s : State) (f : Fld) (v i j : Nat) : (s.wr f v i j).prt = s.prt := rfl
@[simp] theorem State.wr_tlg (s : State) (f : Fld) (v i j : Nat) : (s.wr f v i j).tlg = s.tlg := rfl
@[simp] theorem State.wr_sent (s : State) (f : Fld) (v i j : Nat) : (s.wr f v i j).sent = s.sent := rfl

@[simp] theorem State.bump_pending (s : State) (f : Fld) (n i j : Nat) : (s.bump f n i j).pending = s.pending := rfl
@[simp] theorem State.bump_now (s : State) (f : Fld) (n i j : Nat) : (s.bump f n i j).now = s.now := rfl
@[simp] theorem State.bump_free (s : State) (f : Fld) (n i j : Nat) : (s.bump f n i j).free = s.free := rfl
@[simp] theorem State.bump_variant (s : State) (f : Fld) (n i j : Nat) : (s.bump f n i j).variant = s.variant := rfl
@[simp] theorem State.bump_hif (s : State) (f : Fld) (n i j : Nat) : (s.bump f n i j).hif = s.hif := rfl
@[simp] theorem State.bump_cores (s : State) (f : Fld) (n i j : Nat) : (s.bump f n i j).cores = s.cores := rfl
@[simp] theorem State.bump_lfsrs (s : State) (f : Fld) (n i j : Nat) : (s.bump f n i j).lfsrs = s.lfsrs := rfl
@[simp] theorem State.bump_coreStore (s : State) (f : Fld) (n i j : Nat) : (s.bump f n i j).coreStore = s.coreStore := rfl
@[simp] theorem State.bump_csBad (s : State) (f : Fld) (n i j : Nat) : (s.bump f n i j).csBad = s.csBad := rfl
@[simp] theorem State.bump_pad (s : State) (f : Fld) (n i j : Nat) : (s.bump f n i j).pad = s.pad := rfl
@[simp] theorem State.bump_tallies (s : State) (f : Fld) (n i j : Nat) : (s.bump f n i j).tallies = s.tallies := rfl
@[simp] theorem State.bump_groups (s : State) (f : Fld) (n i j : Nat) : (s.bump f n i j).groups = s.groups := rfl
@[simp] theorem State.bump_tallyDump (s : State) (f : Fld) (n i j : Nat) : (s.bump f n i j).tallyDump = s.tallyDump := rfl
@[simp] theorem State.bump_mem (s : State) (f : Fld) (n i j : Nat) : (s.bump f n i j).mem = s.mem := rfl
@[simp] theorem State.bump_debt (s : State) (f : Fld) (n i j : Nat) : (s.bump f n i j).debt = s.debt := rfl
@[simp] theorem State.bump_ramp (s : State) (f : Fld) (n i j : Nat) : (s.bump f n i j).ramp = s.ramp := rfl
@[simp] theorem State.bump_lod (s : State) (f : Fld) (n i j : Nat) : (s.bump f n i j).lod = s.lod := rfl
@[simp] theorem State.bump_ldg (s : State) (f : Fld) (n i j : Nat) : (s.bump f n i j).ldg = s.ldg := rfl
@[simp] theorem State.bump_wan (s : State) (f : Fld) (n i j : Nat) : (s.bump f n i j).wan = s.wan := rfl
@[simp] theorem State.bump_hlt (s : State) (f : Fld) (n i j : Nat) : (s.bump f n i j).hlt = s.hlt := rfl
@[simp] theorem State.bump_spn (s : State) (f : Fld) (n i j : Nat) : (s.bump f n i j).spn = s.spn := rfl
@[simp] theorem State.bump_att (s : State) (f : Fld) (n i j : Nat) : (s.bump f n i j).att = s.att := rfl
@[simp] theorem State.bump_emb (s : State) (f : Fld) (n i j : Nat) : (s.bump f n i j).emb = s.emb := rfl
@[simp] theorem State.bump_fld (s : State) (f : Fld) (n i j : Nat) : (s.bump f n i j).fld = s.fld := rfl
@[simp] theorem State.bump_lnk (s : State) (f : Fld) (n i j : Nat) : (s.bump f n i j).lnk = s.lnk := rfl
@[simp] theorem State.bump_pwr (s : State) (f : Fld) (n i j : Nat) : (s.bump f n i j).pwr = s.pwr := rfl
@[simp] theorem State.bump_prt (s : State) (f : Fld) (n i j : Nat) : (s.bump f n i j).prt = s.prt := rfl
@[simp] theorem State.bump_tlg (s : State) (f : Fld) (n i j : Nat) : (s.bump f n i j).tlg = s.tlg := rfl
@[simp] theorem State.bump_sent (s : State) (f : Fld) (n i j : Nat) : (s.bump f n i j).sent = s.sent := rfl

@[simp] theorem State.count_pending (s : State) (f : Fld) (n i j : Nat) : (s.count f n i j).pending = s.pending := rfl
@[simp] theorem State.count_now (s : State) (f : Fld) (n i j : Nat) : (s.count f n i j).now = s.now := rfl
@[simp] theorem State.count_free (s : State) (f : Fld) (n i j : Nat) : (s.count f n i j).free = s.free := rfl
@[simp] theorem State.count_variant (s : State) (f : Fld) (n i j : Nat) : (s.count f n i j).variant = s.variant := rfl
@[simp] theorem State.count_hif (s : State) (f : Fld) (n i j : Nat) : (s.count f n i j).hif = s.hif := rfl
@[simp] theorem State.count_cores (s : State) (f : Fld) (n i j : Nat) : (s.count f n i j).cores = s.cores := rfl
@[simp] theorem State.count_lfsrs (s : State) (f : Fld) (n i j : Nat) : (s.count f n i j).lfsrs = s.lfsrs := rfl
@[simp] theorem State.count_coreStore (s : State) (f : Fld) (n i j : Nat) : (s.count f n i j).coreStore = s.coreStore := rfl
@[simp] theorem State.count_csBad (s : State) (f : Fld) (n i j : Nat) : (s.count f n i j).csBad = s.csBad := rfl
@[simp] theorem State.count_pad (s : State) (f : Fld) (n i j : Nat) : (s.count f n i j).pad = s.pad := rfl
@[simp] theorem State.count_tallies (s : State) (f : Fld) (n i j : Nat) : (s.count f n i j).tallies = s.tallies := rfl
@[simp] theorem State.count_groups (s : State) (f : Fld) (n i j : Nat) : (s.count f n i j).groups = s.groups := rfl
@[simp] theorem State.count_tallyDump (s : State) (f : Fld) (n i j : Nat) : (s.count f n i j).tallyDump = s.tallyDump := rfl
@[simp] theorem State.count_mem (s : State) (f : Fld) (n i j : Nat) : (s.count f n i j).mem = s.mem := rfl
@[simp] theorem State.count_debt (s : State) (f : Fld) (n i j : Nat) : (s.count f n i j).debt = s.debt := rfl
@[simp] theorem State.count_ramp (s : State) (f : Fld) (n i j : Nat) : (s.count f n i j).ramp = s.ramp := rfl
@[simp] theorem State.count_lod (s : State) (f : Fld) (n i j : Nat) : (s.count f n i j).lod = s.lod := rfl
@[simp] theorem State.count_ldg (s : State) (f : Fld) (n i j : Nat) : (s.count f n i j).ldg = s.ldg := rfl
@[simp] theorem State.count_wan (s : State) (f : Fld) (n i j : Nat) : (s.count f n i j).wan = s.wan := rfl
@[simp] theorem State.count_hlt (s : State) (f : Fld) (n i j : Nat) : (s.count f n i j).hlt = s.hlt := rfl
@[simp] theorem State.count_spn (s : State) (f : Fld) (n i j : Nat) : (s.count f n i j).spn = s.spn := rfl
@[simp] theorem State.count_att (s : State) (f : Fld) (n i j : Nat) : (s.count f n i j).att = s.att := rfl
@[simp] theorem State.count_emb (s : State) (f : Fld) (n i j : Nat) : (s.count f n i j).emb = s.emb := rfl
@[simp] theorem State.count_fld (s : State) (f : Fld) (n i j : Nat) : (s.count f n i j).fld = s.fld := rfl
@[simp] theorem State.count_lnk (s : State) (f : Fld) (n i j : Nat) : (s.count f n i j).lnk = s.lnk := rfl
@[simp] theorem State.count_pwr (s : State) (f : Fld) (n i j : Nat) : (s.count f n i j).pwr = s.pwr := rfl
@[simp] theorem State.count_prt (s : State) (f : Fld) (n i j : Nat) : (s.count f n i j).prt = s.prt := rfl
@[simp] theorem State.count_tlg (s : State) (f : Fld) (n i j : Nat) : (s.count f n i j).tlg = s.tlg := rfl
@[simp] theorem State.count_sent (s : State) (f : Fld) (n i j : Nat) : (s.count f n i j).sent = s.sent := rfl

@[simp] theorem State.setBit_pending (s : State) (f : Fld) (k i : Nat) : (s.setBit f k i).pending = s.pending := rfl
@[simp] theorem State.setBit_now (s : State) (f : Fld) (k i : Nat) : (s.setBit f k i).now = s.now := rfl
@[simp] theorem State.setBit_free (s : State) (f : Fld) (k i : Nat) : (s.setBit f k i).free = s.free := rfl
@[simp] theorem State.setBit_variant (s : State) (f : Fld) (k i : Nat) : (s.setBit f k i).variant = s.variant := rfl
@[simp] theorem State.setBit_hif (s : State) (f : Fld) (k i : Nat) : (s.setBit f k i).hif = s.hif := rfl
@[simp] theorem State.setBit_cores (s : State) (f : Fld) (k i : Nat) : (s.setBit f k i).cores = s.cores := rfl
@[simp] theorem State.setBit_lfsrs (s : State) (f : Fld) (k i : Nat) : (s.setBit f k i).lfsrs = s.lfsrs := rfl
@[simp] theorem State.setBit_coreStore (s : State) (f : Fld) (k i : Nat) : (s.setBit f k i).coreStore = s.coreStore := rfl
@[simp] theorem State.setBit_csBad (s : State) (f : Fld) (k i : Nat) : (s.setBit f k i).csBad = s.csBad := rfl
@[simp] theorem State.setBit_pad (s : State) (f : Fld) (k i : Nat) : (s.setBit f k i).pad = s.pad := rfl
@[simp] theorem State.setBit_tallies (s : State) (f : Fld) (k i : Nat) : (s.setBit f k i).tallies = s.tallies := rfl
@[simp] theorem State.setBit_groups (s : State) (f : Fld) (k i : Nat) : (s.setBit f k i).groups = s.groups := rfl
@[simp] theorem State.setBit_tallyDump (s : State) (f : Fld) (k i : Nat) : (s.setBit f k i).tallyDump = s.tallyDump := rfl
@[simp] theorem State.setBit_mem (s : State) (f : Fld) (k i : Nat) : (s.setBit f k i).mem = s.mem := rfl
@[simp] theorem State.setBit_debt (s : State) (f : Fld) (k i : Nat) : (s.setBit f k i).debt = s.debt := rfl
@[simp] theorem State.setBit_ramp (s : State) (f : Fld) (k i : Nat) : (s.setBit f k i).ramp = s.ramp := rfl
@[simp] theorem State.setBit_lod (s : State) (f : Fld) (k i : Nat) : (s.setBit f k i).lod = s.lod := rfl
@[simp] theorem State.setBit_ldg (s : State) (f : Fld) (k i : Nat) : (s.setBit f k i).ldg = s.ldg := rfl
@[simp] theorem State.setBit_wan (s : State) (f : Fld) (k i : Nat) : (s.setBit f k i).wan = s.wan := rfl
@[simp] theorem State.setBit_hlt (s : State) (f : Fld) (k i : Nat) : (s.setBit f k i).hlt = s.hlt := rfl
@[simp] theorem State.setBit_spn (s : State) (f : Fld) (k i : Nat) : (s.setBit f k i).spn = s.spn := rfl
@[simp] theorem State.setBit_att (s : State) (f : Fld) (k i : Nat) : (s.setBit f k i).att = s.att := rfl
@[simp] theorem State.setBit_emb (s : State) (f : Fld) (k i : Nat) : (s.setBit f k i).emb = s.emb := rfl
@[simp] theorem State.setBit_fld (s : State) (f : Fld) (k i : Nat) : (s.setBit f k i).fld = s.fld := rfl
@[simp] theorem State.setBit_lnk (s : State) (f : Fld) (k i : Nat) : (s.setBit f k i).lnk = s.lnk := rfl
@[simp] theorem State.setBit_pwr (s : State) (f : Fld) (k i : Nat) : (s.setBit f k i).pwr = s.pwr := rfl
@[simp] theorem State.setBit_prt (s : State) (f : Fld) (k i : Nat) : (s.setBit f k i).prt = s.prt := rfl
@[simp] theorem State.setBit_tlg (s : State) (f : Fld) (k i : Nat) : (s.setBit f k i).tlg = s.tlg := rfl
@[simp] theorem State.setBit_sent (s : State) (f : Fld) (k i : Nat) : (s.setBit f k i).sent = s.sent := rfl

@[simp] theorem State.flag_pending (s : State) (f : Fld) (b : Bool) (i : Nat) : (s.flag f b i).pending = s.pending := rfl
@[simp] theorem State.flag_now (s : State) (f : Fld) (b : Bool) (i : Nat) : (s.flag f b i).now = s.now := rfl
@[simp] theorem State.flag_free (s : State) (f : Fld) (b : Bool) (i : Nat) : (s.flag f b i).free = s.free := rfl
@[simp] theorem State.flag_variant (s : State) (f : Fld) (b : Bool) (i : Nat) : (s.flag f b i).variant = s.variant := rfl
@[simp] theorem State.flag_hif (s : State) (f : Fld) (b : Bool) (i : Nat) : (s.flag f b i).hif = s.hif := rfl
@[simp] theorem State.flag_cores (s : State) (f : Fld) (b : Bool) (i : Nat) : (s.flag f b i).cores = s.cores := rfl
@[simp] theorem State.flag_lfsrs (s : State) (f : Fld) (b : Bool) (i : Nat) : (s.flag f b i).lfsrs = s.lfsrs := rfl
@[simp] theorem State.flag_coreStore (s : State) (f : Fld) (b : Bool) (i : Nat) : (s.flag f b i).coreStore = s.coreStore := rfl
@[simp] theorem State.flag_csBad (s : State) (f : Fld) (b : Bool) (i : Nat) : (s.flag f b i).csBad = s.csBad := rfl
@[simp] theorem State.flag_pad (s : State) (f : Fld) (b : Bool) (i : Nat) : (s.flag f b i).pad = s.pad := rfl
@[simp] theorem State.flag_tallies (s : State) (f : Fld) (b : Bool) (i : Nat) : (s.flag f b i).tallies = s.tallies := rfl
@[simp] theorem State.flag_groups (s : State) (f : Fld) (b : Bool) (i : Nat) : (s.flag f b i).groups = s.groups := rfl
@[simp] theorem State.flag_tallyDump (s : State) (f : Fld) (b : Bool) (i : Nat) : (s.flag f b i).tallyDump = s.tallyDump := rfl
@[simp] theorem State.flag_mem (s : State) (f : Fld) (b : Bool) (i : Nat) : (s.flag f b i).mem = s.mem := rfl
@[simp] theorem State.flag_debt (s : State) (f : Fld) (b : Bool) (i : Nat) : (s.flag f b i).debt = s.debt := rfl
@[simp] theorem State.flag_ramp (s : State) (f : Fld) (b : Bool) (i : Nat) : (s.flag f b i).ramp = s.ramp := rfl
@[simp] theorem State.flag_lod (s : State) (f : Fld) (b : Bool) (i : Nat) : (s.flag f b i).lod = s.lod := rfl
@[simp] theorem State.flag_ldg (s : State) (f : Fld) (b : Bool) (i : Nat) : (s.flag f b i).ldg = s.ldg := rfl
@[simp] theorem State.flag_wan (s : State) (f : Fld) (b : Bool) (i : Nat) : (s.flag f b i).wan = s.wan := rfl
@[simp] theorem State.flag_hlt (s : State) (f : Fld) (b : Bool) (i : Nat) : (s.flag f b i).hlt = s.hlt := rfl
@[simp] theorem State.flag_spn (s : State) (f : Fld) (b : Bool) (i : Nat) : (s.flag f b i).spn = s.spn := rfl
@[simp] theorem State.flag_att (s : State) (f : Fld) (b : Bool) (i : Nat) : (s.flag f b i).att = s.att := rfl
@[simp] theorem State.flag_emb (s : State) (f : Fld) (b : Bool) (i : Nat) : (s.flag f b i).emb = s.emb := rfl
@[simp] theorem State.flag_fld (s : State) (f : Fld) (b : Bool) (i : Nat) : (s.flag f b i).fld = s.fld := rfl
@[simp] theorem State.flag_lnk (s : State) (f : Fld) (b : Bool) (i : Nat) : (s.flag f b i).lnk = s.lnk := rfl
@[simp] theorem State.flag_pwr (s : State) (f : Fld) (b : Bool) (i : Nat) : (s.flag f b i).pwr = s.pwr := rfl
@[simp] theorem State.flag_prt (s : State) (f : Fld) (b : Bool) (i : Nat) : (s.flag f b i).prt = s.prt := rfl
@[simp] theorem State.flag_tlg (s : State) (f : Fld) (b : Bool) (i : Nat) : (s.flag f b i).tlg = s.tlg := rfl
@[simp] theorem State.flag_sent (s : State) (f : Fld) (b : Bool) (i : Nat) : (s.flag f b i).sent = s.sent := rfl

@[simp] theorem State.useFree_pending (s : State) (n : Nat) : (s.useFree n).pending = s.pending := rfl
@[simp] theorem State.useFree_now (s : State) (n : Nat) : (s.useFree n).now = s.now := rfl
@[simp] theorem State.useFree_variant (s : State) (n : Nat) : (s.useFree n).variant = s.variant := rfl
@[simp] theorem State.useFree_regs (s : State) (n : Nat) : (s.useFree n).regs = s.regs := rfl
@[simp] theorem State.useFree_hif (s : State) (n : Nat) : (s.useFree n).hif = s.hif := rfl
@[simp] theorem State.useFree_cores (s : State) (n : Nat) : (s.useFree n).cores = s.cores := rfl
@[simp] theorem State.useFree_lfsrs (s : State) (n : Nat) : (s.useFree n).lfsrs = s.lfsrs := rfl
@[simp] theorem State.useFree_coreStore (s : State) (n : Nat) : (s.useFree n).coreStore = s.coreStore := rfl
@[simp] theorem State.useFree_csBad (s : State) (n : Nat) : (s.useFree n).csBad = s.csBad := rfl
@[simp] theorem State.useFree_pad (s : State) (n : Nat) : (s.useFree n).pad = s.pad := rfl
@[simp] theorem State.useFree_tallies (s : State) (n : Nat) : (s.useFree n).tallies = s.tallies := rfl
@[simp] theorem State.useFree_groups (s : State) (n : Nat) : (s.useFree n).groups = s.groups := rfl
@[simp] theorem State.useFree_tallyDump (s : State) (n : Nat) : (s.useFree n).tallyDump = s.tallyDump := rfl
@[simp] theorem State.useFree_mem (s : State) (n : Nat) : (s.useFree n).mem = s.mem := rfl
@[simp] theorem State.useFree_debt (s : State) (n : Nat) : (s.useFree n).debt = s.debt := rfl
@[simp] theorem State.useFree_ramp (s : State) (n : Nat) : (s.useFree n).ramp = s.ramp := rfl
@[simp] theorem State.useFree_lod (s : State) (n : Nat) : (s.useFree n).lod = s.lod := rfl
@[simp] theorem State.useFree_ldg (s : State) (n : Nat) : (s.useFree n).ldg = s.ldg := rfl
@[simp] theorem State.useFree_wan (s : State) (n : Nat) : (s.useFree n).wan = s.wan := rfl
@[simp] theorem State.useFree_hlt (s : State) (n : Nat) : (s.useFree n).hlt = s.hlt := rfl
@[simp] theorem State.useFree_spn (s : State) (n : Nat) : (s.useFree n).spn = s.spn := rfl
@[simp] theorem State.useFree_att (s : State) (n : Nat) : (s.useFree n).att = s.att := rfl
@[simp] theorem State.useFree_emb (s : State) (n : Nat) : (s.useFree n).emb = s.emb := rfl
@[simp] theorem State.useFree_fld (s : State) (n : Nat) : (s.useFree n).fld = s.fld := rfl
@[simp] theorem State.useFree_lnk (s : State) (n : Nat) : (s.useFree n).lnk = s.lnk := rfl
@[simp] theorem State.useFree_pwr (s : State) (n : Nat) : (s.useFree n).pwr = s.pwr := rfl
@[simp] theorem State.useFree_prt (s : State) (n : Nat) : (s.useFree n).prt = s.prt := rfl
@[simp] theorem State.useFree_tlg (s : State) (n : Nat) : (s.useFree n).tlg = s.tlg := rfl
@[simp] theorem State.useFree_sent (s : State) (n : Nat) : (s.useFree n).sent = s.sent := rfl

@[simp] theorem State.hostWrite_pending (s : State) (a : Nat) (bs : List Byte) : (s.hostWrite a bs).pending = s.pending := rfl
@[simp] theorem State.hostWrite_now (s : State) (a : Nat) (bs : List Byte) : (s.hostWrite a bs).now = s.now := rfl
@[simp] theorem State.hostWrite_free (s : State) (a : Nat) (bs : List Byte) : (s.hostWrite a bs).free = s.free := rfl
@[simp] theorem State.hostWrite_variant (s : State) (a : Nat) (bs : List Byte) : (s.hostWrite a bs).variant = s.variant := rfl
@[simp] theorem State.hostWrite_regs (s : State) (a : Nat) (bs : List Byte) : (s.hostWrite a bs).regs = s.regs := rfl
@[simp] theorem State.hostWrite_cores (s : State) (a : Nat) (bs : List Byte) : (s.hostWrite a bs).cores = s.cores := rfl
@[simp] theorem State.hostWrite_lfsrs (s : State) (a : Nat) (bs : List Byte) : (s.hostWrite a bs).lfsrs = s.lfsrs := rfl
@[simp] theorem State.hostWrite_coreStore (s : State) (a : Nat) (bs : List Byte) : (s.hostWrite a bs).coreStore = s.coreStore := rfl
@[simp] theorem State.hostWrite_csBad (s : State) (a : Nat) (bs : List Byte) : (s.hostWrite a bs).csBad = s.csBad := rfl
@[simp] theorem State.hostWrite_pad (s : State) (a : Nat) (bs : List Byte) : (s.hostWrite a bs).pad = s.pad := rfl
@[simp] theorem State.hostWrite_tallies (s : State) (a : Nat) (bs : List Byte) : (s.hostWrite a bs).tallies = s.tallies := rfl
@[simp] theorem State.hostWrite_groups (s : State) (a : Nat) (bs : List Byte) : (s.hostWrite a bs).groups = s.groups := rfl
@[simp] theorem State.hostWrite_tallyDump (s : State) (a : Nat) (bs : List Byte) : (s.hostWrite a bs).tallyDump = s.tallyDump := rfl
@[simp] theorem State.hostWrite_mem (s : State) (a : Nat) (bs : List Byte) : (s.hostWrite a bs).mem = s.mem := rfl
@[simp] theorem State.hostWrite_debt (s : State) (a : Nat) (bs : List Byte) : (s.hostWrite a bs).debt = s.debt := rfl
@[simp] theorem State.hostWrite_ramp (s : State) (a : Nat) (bs : List Byte) : (s.hostWrite a bs).ramp = s.ramp := rfl
@[simp] theorem State.hostWrite_lod (s : State) (a : Nat) (bs : List Byte) : (s.hostWrite a bs).lod = s.lod := rfl
@[simp] theorem State.hostWrite_ldg (s : State) (a : Nat) (bs : List Byte) : (s.hostWrite a bs).ldg = s.ldg := rfl
@[simp] theorem State.hostWrite_wan (s : State) (a : Nat) (bs : List Byte) : (s.hostWrite a bs).wan = s.wan := rfl
@[simp] theorem State.hostWrite_hlt (s : State) (a : Nat) (bs : List Byte) : (s.hostWrite a bs).hlt = s.hlt := rfl
@[simp] theorem State.hostWrite_spn (s : State) (a : Nat) (bs : List Byte) : (s.hostWrite a bs).spn = s.spn := rfl
@[simp] theorem State.hostWrite_att (s : State) (a : Nat) (bs : List Byte) : (s.hostWrite a bs).att = s.att := rfl
@[simp] theorem State.hostWrite_emb (s : State) (a : Nat) (bs : List Byte) : (s.hostWrite a bs).emb = s.emb := rfl
@[simp] theorem State.hostWrite_fld (s : State) (a : Nat) (bs : List Byte) : (s.hostWrite a bs).fld = s.fld := rfl
@[simp] theorem State.hostWrite_lnk (s : State) (a : Nat) (bs : List Byte) : (s.hostWrite a bs).lnk = s.lnk := rfl
@[simp] theorem State.hostWrite_pwr (s : State) (a : Nat) (bs : List Byte) : (s.hostWrite a bs).pwr = s.pwr := rfl
@[simp] theorem State.hostWrite_prt (s : State) (a : Nat) (bs : List Byte) : (s.hostWrite a bs).prt = s.prt := rfl
@[simp] theorem State.hostWrite_tlg (s : State) (a : Nat) (bs : List Byte) : (s.hostWrite a bs).tlg = s.tlg := rfl
@[simp] theorem State.hostWrite_sent (s : State) (a : Nat) (bs : List Byte) : (s.hostWrite a bs).sent = s.sent := rfl

@[simp] theorem State.hostWord_pending (s : State) (a v : Nat) : (s.hostWord a v).pending = s.pending := rfl
@[simp] theorem State.hostWord_now (s : State) (a v : Nat) : (s.hostWord a v).now = s.now := rfl
@[simp] theorem State.hostWord_free (s : State) (a v : Nat) : (s.hostWord a v).free = s.free := rfl
@[simp] theorem State.hostWord_variant (s : State) (a v : Nat) : (s.hostWord a v).variant = s.variant := rfl
@[simp] theorem State.hostWord_regs (s : State) (a v : Nat) : (s.hostWord a v).regs = s.regs := rfl
@[simp] theorem State.hostWord_cores (s : State) (a v : Nat) : (s.hostWord a v).cores = s.cores := rfl
@[simp] theorem State.hostWord_lfsrs (s : State) (a v : Nat) : (s.hostWord a v).lfsrs = s.lfsrs := rfl
@[simp] theorem State.hostWord_coreStore (s : State) (a v : Nat) : (s.hostWord a v).coreStore = s.coreStore := rfl
@[simp] theorem State.hostWord_csBad (s : State) (a v : Nat) : (s.hostWord a v).csBad = s.csBad := rfl
@[simp] theorem State.hostWord_pad (s : State) (a v : Nat) : (s.hostWord a v).pad = s.pad := rfl
@[simp] theorem State.hostWord_tallies (s : State) (a v : Nat) : (s.hostWord a v).tallies = s.tallies := rfl
@[simp] theorem State.hostWord_groups (s : State) (a v : Nat) : (s.hostWord a v).groups = s.groups := rfl
@[simp] theorem State.hostWord_tallyDump (s : State) (a v : Nat) : (s.hostWord a v).tallyDump = s.tallyDump := rfl
@[simp] theorem State.hostWord_mem (s : State) (a v : Nat) : (s.hostWord a v).mem = s.mem := rfl
@[simp] theorem State.hostWord_debt (s : State) (a v : Nat) : (s.hostWord a v).debt = s.debt := rfl
@[simp] theorem State.hostWord_ramp (s : State) (a v : Nat) : (s.hostWord a v).ramp = s.ramp := rfl
@[simp] theorem State.hostWord_lod (s : State) (a v : Nat) : (s.hostWord a v).lod = s.lod := rfl
@[simp] theorem State.hostWord_ldg (s : State) (a v : Nat) : (s.hostWord a v).ldg = s.ldg := rfl
@[simp] theorem State.hostWord_wan (s : State) (a v : Nat) : (s.hostWord a v).wan = s.wan := rfl
@[simp] theorem State.hostWord_hlt (s : State) (a v : Nat) : (s.hostWord a v).hlt = s.hlt := rfl
@[simp] theorem State.hostWord_spn (s : State) (a v : Nat) : (s.hostWord a v).spn = s.spn := rfl
@[simp] theorem State.hostWord_att (s : State) (a v : Nat) : (s.hostWord a v).att = s.att := rfl
@[simp] theorem State.hostWord_emb (s : State) (a v : Nat) : (s.hostWord a v).emb = s.emb := rfl
@[simp] theorem State.hostWord_fld (s : State) (a v : Nat) : (s.hostWord a v).fld = s.fld := rfl
@[simp] theorem State.hostWord_lnk (s : State) (a v : Nat) : (s.hostWord a v).lnk = s.lnk := rfl
@[simp] theorem State.hostWord_pwr (s : State) (a v : Nat) : (s.hostWord a v).pwr = s.pwr := rfl
@[simp] theorem State.hostWord_prt (s : State) (a v : Nat) : (s.hostWord a v).prt = s.prt := rfl
@[simp] theorem State.hostWord_tlg (s : State) (a v : Nat) : (s.hostWord a v).tlg = s.tlg := rfl
@[simp] theorem State.hostWord_sent (s : State) (a v : Nat) : (s.hostWord a v).sent = s.sent := rfl

@[simp] theorem State.setRing_pending (s : State) (r : Nat) (x : Ring) : (s.setRing r x).pending = s.pending := rfl
@[simp] theorem State.setRing_now (s : State) (r : Nat) (x : Ring) : (s.setRing r x).now = s.now := rfl
@[simp] theorem State.setRing_free (s : State) (r : Nat) (x : Ring) : (s.setRing r x).free = s.free := rfl
@[simp] theorem State.setRing_variant (s : State) (r : Nat) (x : Ring) : (s.setRing r x).variant = s.variant := rfl
@[simp] theorem State.setRing_regs (s : State) (r : Nat) (x : Ring) : (s.setRing r x).regs = s.regs := rfl
@[simp] theorem State.setRing_cores (s : State) (r : Nat) (x : Ring) : (s.setRing r x).cores = s.cores := rfl
@[simp] theorem State.setRing_lfsrs (s : State) (r : Nat) (x : Ring) : (s.setRing r x).lfsrs = s.lfsrs := rfl
@[simp] theorem State.setRing_coreStore (s : State) (r : Nat) (x : Ring) : (s.setRing r x).coreStore = s.coreStore := rfl
@[simp] theorem State.setRing_csBad (s : State) (r : Nat) (x : Ring) : (s.setRing r x).csBad = s.csBad := rfl
@[simp] theorem State.setRing_pad (s : State) (r : Nat) (x : Ring) : (s.setRing r x).pad = s.pad := rfl
@[simp] theorem State.setRing_tallies (s : State) (r : Nat) (x : Ring) : (s.setRing r x).tallies = s.tallies := rfl
@[simp] theorem State.setRing_groups (s : State) (r : Nat) (x : Ring) : (s.setRing r x).groups = s.groups := rfl
@[simp] theorem State.setRing_tallyDump (s : State) (r : Nat) (x : Ring) : (s.setRing r x).tallyDump = s.tallyDump := rfl
@[simp] theorem State.setRing_mem (s : State) (r : Nat) (x : Ring) : (s.setRing r x).mem = s.mem := rfl
@[simp] theorem State.setRing_debt (s : State) (r : Nat) (x : Ring) : (s.setRing r x).debt = s.debt := rfl
@[simp] theorem State.setRing_ramp (s : State) (r : Nat) (x : Ring) : (s.setRing r x).ramp = s.ramp := rfl
@[simp] theorem State.setRing_lod (s : State) (r : Nat) (x : Ring) : (s.setRing r x).lod = s.lod := rfl
@[simp] theorem State.setRing_ldg (s : State) (r : Nat) (x : Ring) : (s.setRing r x).ldg = s.ldg := rfl
@[simp] theorem State.setRing_wan (s : State) (r : Nat) (x : Ring) : (s.setRing r x).wan = s.wan := rfl
@[simp] theorem State.setRing_hlt (s : State) (r : Nat) (x : Ring) : (s.setRing r x).hlt = s.hlt := rfl
@[simp] theorem State.setRing_spn (s : State) (r : Nat) (x : Ring) : (s.setRing r x).spn = s.spn := rfl
@[simp] theorem State.setRing_att (s : State) (r : Nat) (x : Ring) : (s.setRing r x).att = s.att := rfl
@[simp] theorem State.setRing_emb (s : State) (r : Nat) (x : Ring) : (s.setRing r x).emb = s.emb := rfl
@[simp] theorem State.setRing_fld (s : State) (r : Nat) (x : Ring) : (s.setRing r x).fld = s.fld := rfl
@[simp] theorem State.setRing_lnk (s : State) (r : Nat) (x : Ring) : (s.setRing r x).lnk = s.lnk := rfl
@[simp] theorem State.setRing_pwr (s : State) (r : Nat) (x : Ring) : (s.setRing r x).pwr = s.pwr := rfl
@[simp] theorem State.setRing_prt (s : State) (r : Nat) (x : Ring) : (s.setRing r x).prt = s.prt := rfl
@[simp] theorem State.setRing_tlg (s : State) (r : Nat) (x : Ring) : (s.setRing r x).tlg = s.tlg := rfl
@[simp] theorem State.setRing_sent (s : State) (r : Nat) (x : Ring) : (s.setRing r x).sent = s.sent := rfl

@[simp] theorem State.setCore_pending (s : State) (c : Nat) (k : Core) : (s.setCore c k).pending = s.pending := rfl
@[simp] theorem State.setCore_now (s : State) (c : Nat) (k : Core) : (s.setCore c k).now = s.now := rfl
@[simp] theorem State.setCore_free (s : State) (c : Nat) (k : Core) : (s.setCore c k).free = s.free := rfl
@[simp] theorem State.setCore_variant (s : State) (c : Nat) (k : Core) : (s.setCore c k).variant = s.variant := rfl
@[simp] theorem State.setCore_regs (s : State) (c : Nat) (k : Core) : (s.setCore c k).regs = s.regs := rfl
@[simp] theorem State.setCore_hif (s : State) (c : Nat) (k : Core) : (s.setCore c k).hif = s.hif := rfl
@[simp] theorem State.setCore_lfsrs (s : State) (c : Nat) (k : Core) : (s.setCore c k).lfsrs = s.lfsrs := rfl
@[simp] theorem State.setCore_coreStore (s : State) (c : Nat) (k : Core) : (s.setCore c k).coreStore = s.coreStore := rfl
@[simp] theorem State.setCore_csBad (s : State) (c : Nat) (k : Core) : (s.setCore c k).csBad = s.csBad := rfl
@[simp] theorem State.setCore_pad (s : State) (c : Nat) (k : Core) : (s.setCore c k).pad = s.pad := rfl
@[simp] theorem State.setCore_tallies (s : State) (c : Nat) (k : Core) : (s.setCore c k).tallies = s.tallies := rfl
@[simp] theorem State.setCore_groups (s : State) (c : Nat) (k : Core) : (s.setCore c k).groups = s.groups := rfl
@[simp] theorem State.setCore_tallyDump (s : State) (c : Nat) (k : Core) : (s.setCore c k).tallyDump = s.tallyDump := rfl
@[simp] theorem State.setCore_mem (s : State) (c : Nat) (k : Core) : (s.setCore c k).mem = s.mem := rfl
@[simp] theorem State.setCore_debt (s : State) (c : Nat) (k : Core) : (s.setCore c k).debt = s.debt := rfl
@[simp] theorem State.setCore_ramp (s : State) (c : Nat) (k : Core) : (s.setCore c k).ramp = s.ramp := rfl
@[simp] theorem State.setCore_lod (s : State) (c : Nat) (k : Core) : (s.setCore c k).lod = s.lod := rfl
@[simp] theorem State.setCore_ldg (s : State) (c : Nat) (k : Core) : (s.setCore c k).ldg = s.ldg := rfl
@[simp] theorem State.setCore_wan (s : State) (c : Nat) (k : Core) : (s.setCore c k).wan = s.wan := rfl
@[simp] theorem State.setCore_hlt (s : State) (c : Nat) (k : Core) : (s.setCore c k).hlt = s.hlt := rfl
@[simp] theorem State.setCore_spn (s : State) (c : Nat) (k : Core) : (s.setCore c k).spn = s.spn := rfl
@[simp] theorem State.setCore_att (s : State) (c : Nat) (k : Core) : (s.setCore c k).att = s.att := rfl
@[simp] theorem State.setCore_emb (s : State) (c : Nat) (k : Core) : (s.setCore c k).emb = s.emb := rfl
@[simp] theorem State.setCore_fld (s : State) (c : Nat) (k : Core) : (s.setCore c k).fld = s.fld := rfl
@[simp] theorem State.setCore_lnk (s : State) (c : Nat) (k : Core) : (s.setCore c k).lnk = s.lnk := rfl
@[simp] theorem State.setCore_pwr (s : State) (c : Nat) (k : Core) : (s.setCore c k).pwr = s.pwr := rfl
@[simp] theorem State.setCore_prt (s : State) (c : Nat) (k : Core) : (s.setCore c k).prt = s.prt := rfl
@[simp] theorem State.setCore_tlg (s : State) (c : Nat) (k : Core) : (s.setCore c k).tlg = s.tlg := rfl
@[simp] theorem State.setCore_sent (s : State) (c : Nat) (k : Core) : (s.setCore c k).sent = s.sent := rfl

@[simp] theorem State.modCore_pending (s : State) (c : Nat) (f : Core → Core) : (s.modCore c f).pending = s.pending := rfl
@[simp] theorem State.modCore_now (s : State) (c : Nat) (f : Core → Core) : (s.modCore c f).now = s.now := rfl
@[simp] theorem State.modCore_free (s : State) (c : Nat) (f : Core → Core) : (s.modCore c f).free = s.free := rfl
@[simp] theorem State.modCore_variant (s : State) (c : Nat) (f : Core → Core) : (s.modCore c f).variant = s.variant := rfl
@[simp] theorem State.modCore_regs (s : State) (c : Nat) (f : Core → Core) : (s.modCore c f).regs = s.regs := rfl
@[simp] theorem State.modCore_hif (s : State) (c : Nat) (f : Core → Core) : (s.modCore c f).hif = s.hif := rfl
@[simp] theorem State.modCore_lfsrs (s : State) (c : Nat) (f : Core → Core) : (s.modCore c f).lfsrs = s.lfsrs := rfl
@[simp] theorem State.modCore_coreStore (s : State) (c : Nat) (f : Core → Core) : (s.modCore c f).coreStore = s.coreStore := rfl
@[simp] theorem State.modCore_csBad (s : State) (c : Nat) (f : Core → Core) : (s.modCore c f).csBad = s.csBad := rfl
@[simp] theorem State.modCore_pad (s : State) (c : Nat) (f : Core → Core) : (s.modCore c f).pad = s.pad := rfl
@[simp] theorem State.modCore_tallies (s : State) (c : Nat) (f : Core → Core) : (s.modCore c f).tallies = s.tallies := rfl
@[simp] theorem State.modCore_groups (s : State) (c : Nat) (f : Core → Core) : (s.modCore c f).groups = s.groups := rfl
@[simp] theorem State.modCore_tallyDump (s : State) (c : Nat) (f : Core → Core) : (s.modCore c f).tallyDump = s.tallyDump := rfl
@[simp] theorem State.modCore_mem (s : State) (c : Nat) (f : Core → Core) : (s.modCore c f).mem = s.mem := rfl
@[simp] theorem State.modCore_debt (s : State) (c : Nat) (f : Core → Core) : (s.modCore c f).debt = s.debt := rfl
@[simp] theorem State.modCore_ramp (s : State) (c : Nat) (f : Core → Core) : (s.modCore c f).ramp = s.ramp := rfl
@[simp] theorem State.modCore_lod (s : State) (c : Nat) (f : Core → Core) : (s.modCore c f).lod = s.lod := rfl
@[simp] theorem State.modCore_ldg (s : State) (c : Nat) (f : Core → Core) : (s.modCore c f).ldg = s.ldg := rfl
@[simp] theorem State.modCore_wan (s : State) (c : Nat) (f : Core → Core) : (s.modCore c f).wan = s.wan := rfl
@[simp] theorem State.modCore_hlt (s : State) (c : Nat) (f : Core → Core) : (s.modCore c f).hlt = s.hlt := rfl
@[simp] theorem State.modCore_spn (s : State) (c : Nat) (f : Core → Core) : (s.modCore c f).spn = s.spn := rfl
@[simp] theorem State.modCore_att (s : State) (c : Nat) (f : Core → Core) : (s.modCore c f).att = s.att := rfl
@[simp] theorem State.modCore_emb (s : State) (c : Nat) (f : Core → Core) : (s.modCore c f).emb = s.emb := rfl
@[simp] theorem State.modCore_fld (s : State) (c : Nat) (f : Core → Core) : (s.modCore c f).fld = s.fld := rfl
@[simp] theorem State.modCore_lnk (s : State) (c : Nat) (f : Core → Core) : (s.modCore c f).lnk = s.lnk := rfl
@[simp] theorem State.modCore_pwr (s : State) (c : Nat) (f : Core → Core) : (s.modCore c f).pwr = s.pwr := rfl
@[simp] theorem State.modCore_prt (s : State) (c : Nat) (f : Core → Core) : (s.modCore c f).prt = s.prt := rfl
@[simp] theorem State.modCore_tlg (s : State) (c : Nat) (f : Core → Core) : (s.modCore c f).tlg = s.tlg := rfl
@[simp] theorem State.modCore_sent (s : State) (c : Nat) (f : Core → Core) : (s.modCore c f).sent = s.sent := rfl

@[simp] theorem State.setJob_pending (s : State) (c p : Nat) (j : Job) : (s.setJob c p j).pending = s.pending := rfl
@[simp] theorem State.setJob_now (s : State) (c p : Nat) (j : Job) : (s.setJob c p j).now = s.now := rfl
@[simp] theorem State.setJob_free (s : State) (c p : Nat) (j : Job) : (s.setJob c p j).free = s.free := rfl
@[simp] theorem State.setJob_variant (s : State) (c p : Nat) (j : Job) : (s.setJob c p j).variant = s.variant := rfl
@[simp] theorem State.setJob_regs (s : State) (c p : Nat) (j : Job) : (s.setJob c p j).regs = s.regs := rfl
@[simp] theorem State.setJob_hif (s : State) (c p : Nat) (j : Job) : (s.setJob c p j).hif = s.hif := rfl
@[simp] theorem State.setJob_lfsrs (s : State) (c p : Nat) (j : Job) : (s.setJob c p j).lfsrs = s.lfsrs := rfl
@[simp] theorem State.setJob_coreStore (s : State) (c p : Nat) (j : Job) : (s.setJob c p j).coreStore = s.coreStore := rfl
@[simp] theorem State.setJob_csBad (s : State) (c p : Nat) (j : Job) : (s.setJob c p j).csBad = s.csBad := rfl
@[simp] theorem State.setJob_pad (s : State) (c p : Nat) (j : Job) : (s.setJob c p j).pad = s.pad := rfl
@[simp] theorem State.setJob_tallies (s : State) (c p : Nat) (j : Job) : (s.setJob c p j).tallies = s.tallies := rfl
@[simp] theorem State.setJob_groups (s : State) (c p : Nat) (j : Job) : (s.setJob c p j).groups = s.groups := rfl
@[simp] theorem State.setJob_tallyDump (s : State) (c p : Nat) (j : Job) : (s.setJob c p j).tallyDump = s.tallyDump := rfl
@[simp] theorem State.setJob_mem (s : State) (c p : Nat) (j : Job) : (s.setJob c p j).mem = s.mem := rfl
@[simp] theorem State.setJob_debt (s : State) (c p : Nat) (j : Job) : (s.setJob c p j).debt = s.debt := rfl
@[simp] theorem State.setJob_ramp (s : State) (c p : Nat) (j : Job) : (s.setJob c p j).ramp = s.ramp := rfl
@[simp] theorem State.setJob_lod (s : State) (c p : Nat) (j : Job) : (s.setJob c p j).lod = s.lod := rfl
@[simp] theorem State.setJob_ldg (s : State) (c p : Nat) (j : Job) : (s.setJob c p j).ldg = s.ldg := rfl
@[simp] theorem State.setJob_wan (s : State) (c p : Nat) (j : Job) : (s.setJob c p j).wan = s.wan := rfl
@[simp] theorem State.setJob_hlt (s : State) (c p : Nat) (j : Job) : (s.setJob c p j).hlt = s.hlt := rfl
@[simp] theorem State.setJob_spn (s : State) (c p : Nat) (j : Job) : (s.setJob c p j).spn = s.spn := rfl
@[simp] theorem State.setJob_att (s : State) (c p : Nat) (j : Job) : (s.setJob c p j).att = s.att := rfl
@[simp] theorem State.setJob_emb (s : State) (c p : Nat) (j : Job) : (s.setJob c p j).emb = s.emb := rfl
@[simp] theorem State.setJob_fld (s : State) (c p : Nat) (j : Job) : (s.setJob c p j).fld = s.fld := rfl
@[simp] theorem State.setJob_lnk (s : State) (c p : Nat) (j : Job) : (s.setJob c p j).lnk = s.lnk := rfl
@[simp] theorem State.setJob_pwr (s : State) (c p : Nat) (j : Job) : (s.setJob c p j).pwr = s.pwr := rfl
@[simp] theorem State.setJob_prt (s : State) (c p : Nat) (j : Job) : (s.setJob c p j).prt = s.prt := rfl
@[simp] theorem State.setJob_tlg (s : State) (c p : Nat) (j : Job) : (s.setJob c p j).tlg = s.tlg := rfl
@[simp] theorem State.setJob_sent (s : State) (c p : Nat) (j : Job) : (s.setJob c p j).sent = s.sent := rfl

@[simp] theorem State.dropJob_pending (s : State) (c p : Nat) : (s.dropJob c p).pending = s.pending := rfl
@[simp] theorem State.dropJob_now (s : State) (c p : Nat) : (s.dropJob c p).now = s.now := rfl
@[simp] theorem State.dropJob_free (s : State) (c p : Nat) : (s.dropJob c p).free = s.free := rfl
@[simp] theorem State.dropJob_variant (s : State) (c p : Nat) : (s.dropJob c p).variant = s.variant := rfl
@[simp] theorem State.dropJob_regs (s : State) (c p : Nat) : (s.dropJob c p).regs = s.regs := rfl
@[simp] theorem State.dropJob_hif (s : State) (c p : Nat) : (s.dropJob c p).hif = s.hif := rfl
@[simp] theorem State.dropJob_lfsrs (s : State) (c p : Nat) : (s.dropJob c p).lfsrs = s.lfsrs := rfl
@[simp] theorem State.dropJob_coreStore (s : State) (c p : Nat) : (s.dropJob c p).coreStore = s.coreStore := rfl
@[simp] theorem State.dropJob_csBad (s : State) (c p : Nat) : (s.dropJob c p).csBad = s.csBad := rfl
@[simp] theorem State.dropJob_pad (s : State) (c p : Nat) : (s.dropJob c p).pad = s.pad := rfl
@[simp] theorem State.dropJob_tallies (s : State) (c p : Nat) : (s.dropJob c p).tallies = s.tallies := rfl
@[simp] theorem State.dropJob_groups (s : State) (c p : Nat) : (s.dropJob c p).groups = s.groups := rfl
@[simp] theorem State.dropJob_tallyDump (s : State) (c p : Nat) : (s.dropJob c p).tallyDump = s.tallyDump := rfl
@[simp] theorem State.dropJob_mem (s : State) (c p : Nat) : (s.dropJob c p).mem = s.mem := rfl
@[simp] theorem State.dropJob_debt (s : State) (c p : Nat) : (s.dropJob c p).debt = s.debt := rfl
@[simp] theorem State.dropJob_ramp (s : State) (c p : Nat) : (s.dropJob c p).ramp = s.ramp := rfl
@[simp] theorem State.dropJob_lod (s : State) (c p : Nat) : (s.dropJob c p).lod = s.lod := rfl
@[simp] theorem State.dropJob_ldg (s : State) (c p : Nat) : (s.dropJob c p).ldg = s.ldg := rfl
@[simp] theorem State.dropJob_wan (s : State) (c p : Nat) : (s.dropJob c p).wan = s.wan := rfl
@[simp] theorem State.dropJob_hlt (s : State) (c p : Nat) : (s.dropJob c p).hlt = s.hlt := rfl
@[simp] theorem State.dropJob_spn (s : State) (c p : Nat) : (s.dropJob c p).spn = s.spn := rfl
@[simp] theorem State.dropJob_att (s : State) (c p : Nat) : (s.dropJob c p).att = s.att := rfl
@[simp] theorem State.dropJob_emb (s : State) (c p : Nat) : (s.dropJob c p).emb = s.emb := rfl
@[simp] theorem State.dropJob_fld (s : State) (c p : Nat) : (s.dropJob c p).fld = s.fld := rfl
@[simp] theorem State.dropJob_lnk (s : State) (c p : Nat) : (s.dropJob c p).lnk = s.lnk := rfl
@[simp] theorem State.dropJob_pwr (s : State) (c p : Nat) : (s.dropJob c p).pwr = s.pwr := rfl
@[simp] theorem State.dropJob_prt (s : State) (c p : Nat) : (s.dropJob c p).prt = s.prt := rfl
@[simp] theorem State.dropJob_tlg (s : State) (c p : Nat) : (s.dropJob c p).tlg = s.tlg := rfl
@[simp] theorem State.dropJob_sent (s : State) (c p : Nat) : (s.dropJob c p).sent = s.sent := rfl

@[simp] theorem State.pokeRaw_pending (s : State) (l a : Nat) (bs : List Byte) : (s.pokeRaw l a bs).pending = s.pending := rfl
@[simp] theorem State.pokeRaw_now (s : State) (l a : Nat) (bs : List Byte) : (s.pokeRaw l a bs).now = s.now := rfl
@[simp] theorem State.pokeRaw_free (s : State) (l a : Nat) (bs : List Byte) : (s.pokeRaw l a bs).free = s.free := rfl
@[simp] theorem State.pokeRaw_variant (s : State) (l a : Nat) (bs : List Byte) : (s.pokeRaw l a bs).variant = s.variant := rfl
@[simp] theorem State.pokeRaw_regs (s : State) (l a : Nat) (bs : List Byte) : (s.pokeRaw l a bs).regs = s.regs := rfl
@[simp] theorem State.pokeRaw_hif (s : State) (l a : Nat) (bs : List Byte) : (s.pokeRaw l a bs).hif = s.hif := rfl
@[simp] theorem State.pokeRaw_cores (s : State) (l a : Nat) (bs : List Byte) : (s.pokeRaw l a bs).cores = s.cores := rfl
@[simp] theorem State.pokeRaw_lfsrs (s : State) (l a : Nat) (bs : List Byte) : (s.pokeRaw l a bs).lfsrs = s.lfsrs := rfl
@[simp] theorem State.pokeRaw_coreStore (s : State) (l a : Nat) (bs : List Byte) : (s.pokeRaw l a bs).coreStore = s.coreStore := rfl
@[simp] theorem State.pokeRaw_csBad (s : State) (l a : Nat) (bs : List Byte) : (s.pokeRaw l a bs).csBad = s.csBad := rfl
@[simp] theorem State.pokeRaw_pad (s : State) (l a : Nat) (bs : List Byte) : (s.pokeRaw l a bs).pad = s.pad := rfl
@[simp] theorem State.pokeRaw_tallies (s : State) (l a : Nat) (bs : List Byte) : (s.pokeRaw l a bs).tallies = s.tallies := rfl
@[simp] theorem State.pokeRaw_groups (s : State) (l a : Nat) (bs : List Byte) : (s.pokeRaw l a bs).groups = s.groups := rfl
@[simp] theorem State.pokeRaw_tallyDump (s : State) (l a : Nat) (bs : List Byte) : (s.pokeRaw l a bs).tallyDump = s.tallyDump := rfl
@[simp] theorem State.pokeRaw_debt (s : State) (l a : Nat) (bs : List Byte) : (s.pokeRaw l a bs).debt = s.debt := rfl
@[simp] theorem State.pokeRaw_ramp (s : State) (l a : Nat) (bs : List Byte) : (s.pokeRaw l a bs).ramp = s.ramp := rfl
@[simp] theorem State.pokeRaw_lod (s : State) (l a : Nat) (bs : List Byte) : (s.pokeRaw l a bs).lod = s.lod := rfl
@[simp] theorem State.pokeRaw_ldg (s : State) (l a : Nat) (bs : List Byte) : (s.pokeRaw l a bs).ldg = s.ldg := rfl
@[simp] theorem State.pokeRaw_wan (s : State) (l a : Nat) (bs : List Byte) : (s.pokeRaw l a bs).wan = s.wan := rfl
@[simp] theorem State.pokeRaw_hlt (s : State) (l a : Nat) (bs : List Byte) : (s.pokeRaw l a bs).hlt = s.hlt := rfl
@[simp] theorem State.pokeRaw_spn (s : State) (l a : Nat) (bs : List Byte) : (s.pokeRaw l a bs).spn = s.spn := rfl
@[simp] theorem State.pokeRaw_att (s : State) (l a : Nat) (bs : List Byte) : (s.pokeRaw l a bs).att = s.att := rfl
@[simp] theorem State.pokeRaw_emb (s : State) (l a : Nat) (bs : List Byte) : (s.pokeRaw l a bs).emb = s.emb := rfl
@[simp] theorem State.pokeRaw_fld (s : State) (l a : Nat) (bs : List Byte) : (s.pokeRaw l a bs).fld = s.fld := rfl
@[simp] theorem State.pokeRaw_lnk (s : State) (l a : Nat) (bs : List Byte) : (s.pokeRaw l a bs).lnk = s.lnk := rfl
@[simp] theorem State.pokeRaw_pwr (s : State) (l a : Nat) (bs : List Byte) : (s.pokeRaw l a bs).pwr = s.pwr := rfl
@[simp] theorem State.pokeRaw_prt (s : State) (l a : Nat) (bs : List Byte) : (s.pokeRaw l a bs).prt = s.prt := rfl
@[simp] theorem State.pokeRaw_tlg (s : State) (l a : Nat) (bs : List Byte) : (s.pokeRaw l a bs).tlg = s.tlg := rfl
@[simp] theorem State.pokeRaw_sent (s : State) (l a : Nat) (bs : List Byte) : (s.pokeRaw l a bs).sent = s.sent := rfl

@[simp] theorem State.touch_pending (s : State) (l a n : Nat) (w : Bool) : (s.touch l a n w).pending = s.pending := rfl
@[simp] theorem State.touch_now (s : State) (l a n : Nat) (w : Bool) : (s.touch l a n w).now = s.now := rfl
@[simp] theorem State.touch_free (s : State) (l a n : Nat) (w : Bool) : (s.touch l a n w).free = s.free := rfl
@[simp] theorem State.touch_variant (s : State) (l a n : Nat) (w : Bool) : (s.touch l a n w).variant = s.variant := rfl
@[simp] theorem State.touch_regs (s : State) (l a n : Nat) (w : Bool) : (s.touch l a n w).regs = s.regs := rfl
@[simp] theorem State.touch_hif (s : State) (l a n : Nat) (w : Bool) : (s.touch l a n w).hif = s.hif := rfl
@[simp] theorem State.touch_cores (s : State) (l a n : Nat) (w : Bool) : (s.touch l a n w).cores = s.cores := rfl
@[simp] theorem State.touch_lfsrs (s : State) (l a n : Nat) (w : Bool) : (s.touch l a n w).lfsrs = s.lfsrs := rfl
@[simp] theorem State.touch_coreStore (s : State) (l a n : Nat) (w : Bool) : (s.touch l a n w).coreStore = s.coreStore := rfl
@[simp] theorem State.touch_csBad (s : State) (l a n : Nat) (w : Bool) : (s.touch l a n w).csBad = s.csBad := rfl
@[simp] theorem State.touch_pad (s : State) (l a n : Nat) (w : Bool) : (s.touch l a n w).pad = s.pad := rfl
@[simp] theorem State.touch_tallies (s : State) (l a n : Nat) (w : Bool) : (s.touch l a n w).tallies = s.tallies := rfl
@[simp] theorem State.touch_groups (s : State) (l a n : Nat) (w : Bool) : (s.touch l a n w).groups = s.groups := rfl
@[simp] theorem State.touch_tallyDump (s : State) (l a n : Nat) (w : Bool) : (s.touch l a n w).tallyDump = s.tallyDump := rfl
@[simp] theorem State.touch_debt (s : State) (l a n : Nat) (w : Bool) : (s.touch l a n w).debt = s.debt := rfl
@[simp] theorem State.touch_ramp (s : State) (l a n : Nat) (w : Bool) : (s.touch l a n w).ramp = s.ramp := rfl
@[simp] theorem State.touch_lod (s : State) (l a n : Nat) (w : Bool) : (s.touch l a n w).lod = s.lod := rfl
@[simp] theorem State.touch_ldg (s : State) (l a n : Nat) (w : Bool) : (s.touch l a n w).ldg = s.ldg := rfl
@[simp] theorem State.touch_wan (s : State) (l a n : Nat) (w : Bool) : (s.touch l a n w).wan = s.wan := rfl
@[simp] theorem State.touch_hlt (s : State) (l a n : Nat) (w : Bool) : (s.touch l a n w).hlt = s.hlt := rfl
@[simp] theorem State.touch_spn (s : State) (l a n : Nat) (w : Bool) : (s.touch l a n w).spn = s.spn := rfl
@[simp] theorem State.touch_att (s : State) (l a n : Nat) (w : Bool) : (s.touch l a n w).att = s.att := rfl
@[simp] theorem State.touch_emb (s : State) (l a n : Nat) (w : Bool) : (s.touch l a n w).emb = s.emb := rfl
@[simp] theorem State.touch_fld (s : State) (l a n : Nat) (w : Bool) : (s.touch l a n w).fld = s.fld := rfl
@[simp] theorem State.touch_lnk (s : State) (l a n : Nat) (w : Bool) : (s.touch l a n w).lnk = s.lnk := rfl
@[simp] theorem State.touch_pwr (s : State) (l a n : Nat) (w : Bool) : (s.touch l a n w).pwr = s.pwr := rfl
@[simp] theorem State.touch_prt (s : State) (l a n : Nat) (w : Bool) : (s.touch l a n w).prt = s.prt := rfl
@[simp] theorem State.touch_tlg (s : State) (l a n : Nat) (w : Bool) : (s.touch l a n w).tlg = s.tlg := rfl
@[simp] theorem State.touch_sent (s : State) (l a n : Nat) (w : Bool) : (s.touch l a n w).sent = s.sent := rfl

@[simp] theorem State.poke_pending (s : State) (l a : Nat) (bs : List Byte) : (s.poke l a bs).pending = s.pending := rfl
@[simp] theorem State.poke_now (s : State) (l a : Nat) (bs : List Byte) : (s.poke l a bs).now = s.now := rfl
@[simp] theorem State.poke_free (s : State) (l a : Nat) (bs : List Byte) : (s.poke l a bs).free = s.free := rfl
@[simp] theorem State.poke_variant (s : State) (l a : Nat) (bs : List Byte) : (s.poke l a bs).variant = s.variant := rfl
@[simp] theorem State.poke_regs (s : State) (l a : Nat) (bs : List Byte) : (s.poke l a bs).regs = s.regs := rfl
@[simp] theorem State.poke_hif (s : State) (l a : Nat) (bs : List Byte) : (s.poke l a bs).hif = s.hif := rfl
@[simp] theorem State.poke_cores (s : State) (l a : Nat) (bs : List Byte) : (s.poke l a bs).cores = s.cores := rfl
@[simp] theorem State.poke_lfsrs (s : State) (l a : Nat) (bs : List Byte) : (s.poke l a bs).lfsrs = s.lfsrs := rfl
@[simp] theorem State.poke_coreStore (s : State) (l a : Nat) (bs : List Byte) : (s.poke l a bs).coreStore = s.coreStore := rfl
@[simp] theorem State.poke_csBad (s : State) (l a : Nat) (bs : List Byte) : (s.poke l a bs).csBad = s.csBad := rfl
@[simp] theorem State.poke_pad (s : State) (l a : Nat) (bs : List Byte) : (s.poke l a bs).pad = s.pad := rfl
@[simp] theorem State.poke_tallies (s : State) (l a : Nat) (bs : List Byte) : (s.poke l a bs).tallies = s.tallies := rfl
@[simp] theorem State.poke_groups (s : State) (l a : Nat) (bs : List Byte) : (s.poke l a bs).groups = s.groups := rfl
@[simp] theorem State.poke_tallyDump (s : State) (l a : Nat) (bs : List Byte) : (s.poke l a bs).tallyDump = s.tallyDump := rfl
@[simp] theorem State.poke_debt (s : State) (l a : Nat) (bs : List Byte) : (s.poke l a bs).debt = s.debt := rfl
@[simp] theorem State.poke_ramp (s : State) (l a : Nat) (bs : List Byte) : (s.poke l a bs).ramp = s.ramp := rfl
@[simp] theorem State.poke_lod (s : State) (l a : Nat) (bs : List Byte) : (s.poke l a bs).lod = s.lod := rfl
@[simp] theorem State.poke_ldg (s : State) (l a : Nat) (bs : List Byte) : (s.poke l a bs).ldg = s.ldg := rfl
@[simp] theorem State.poke_wan (s : State) (l a : Nat) (bs : List Byte) : (s.poke l a bs).wan = s.wan := rfl
@[simp] theorem State.poke_hlt (s : State) (l a : Nat) (bs : List Byte) : (s.poke l a bs).hlt = s.hlt := rfl
@[simp] theorem State.poke_spn (s : State) (l a : Nat) (bs : List Byte) : (s.poke l a bs).spn = s.spn := rfl
@[simp] theorem State.poke_att (s : State) (l a : Nat) (bs : List Byte) : (s.poke l a bs).att = s.att := rfl
@[simp] theorem State.poke_emb (s : State) (l a : Nat) (bs : List Byte) : (s.poke l a bs).emb = s.emb := rfl
@[simp] theorem State.poke_fld (s : State) (l a : Nat) (bs : List Byte) : (s.poke l a bs).fld = s.fld := rfl
@[simp] theorem State.poke_lnk (s : State) (l a : Nat) (bs : List Byte) : (s.poke l a bs).lnk = s.lnk := rfl
@[simp] theorem State.poke_pwr (s : State) (l a : Nat) (bs : List Byte) : (s.poke l a bs).pwr = s.pwr := rfl
@[simp] theorem State.poke_prt (s : State) (l a : Nat) (bs : List Byte) : (s.poke l a bs).prt = s.prt := rfl
@[simp] theorem State.poke_tlg (s : State) (l a : Nat) (bs : List Byte) : (s.poke l a bs).tlg = s.tlg := rfl
@[simp] theorem State.poke_sent (s : State) (l a : Nat) (bs : List Byte) : (s.poke l a bs).sent = s.sent := rfl

@[simp] theorem State.release_pending (s : State) (t f : Nat) : (s.release t f).pending = s.pending := rfl
@[simp] theorem State.release_now (s : State) (t f : Nat) : (s.release t f).now = s.now := rfl
@[simp] theorem State.release_free (s : State) (t f : Nat) : (s.release t f).free = s.free := rfl
@[simp] theorem State.release_variant (s : State) (t f : Nat) : (s.release t f).variant = s.variant := rfl
@[simp] theorem State.release_regs (s : State) (t f : Nat) : (s.release t f).regs = s.regs := rfl
@[simp] theorem State.release_hif (s : State) (t f : Nat) : (s.release t f).hif = s.hif := rfl
@[simp] theorem State.release_cores (s : State) (t f : Nat) : (s.release t f).cores = s.cores := rfl
@[simp] theorem State.release_lfsrs (s : State) (t f : Nat) : (s.release t f).lfsrs = s.lfsrs := rfl
@[simp] theorem State.release_coreStore (s : State) (t f : Nat) : (s.release t f).coreStore = s.coreStore := rfl
@[simp] theorem State.release_csBad (s : State) (t f : Nat) : (s.release t f).csBad = s.csBad := rfl
@[simp] theorem State.release_pad (s : State) (t f : Nat) : (s.release t f).pad = s.pad := rfl
@[simp] theorem State.release_tallies (s : State) (t f : Nat) : (s.release t f).tallies = s.tallies := rfl
@[simp] theorem State.release_groups (s : State) (t f : Nat) : (s.release t f).groups = s.groups := rfl
@[simp] theorem State.release_tallyDump (s : State) (t f : Nat) : (s.release t f).tallyDump = s.tallyDump := rfl
@[simp] theorem State.release_debt (s : State) (t f : Nat) : (s.release t f).debt = s.debt := rfl
@[simp] theorem State.release_ramp (s : State) (t f : Nat) : (s.release t f).ramp = s.ramp := rfl
@[simp] theorem State.release_lod (s : State) (t f : Nat) : (s.release t f).lod = s.lod := rfl
@[simp] theorem State.release_ldg (s : State) (t f : Nat) : (s.release t f).ldg = s.ldg := rfl
@[simp] theorem State.release_wan (s : State) (t f : Nat) : (s.release t f).wan = s.wan := rfl
@[simp] theorem State.release_hlt (s : State) (t f : Nat) : (s.release t f).hlt = s.hlt := rfl
@[simp] theorem State.release_spn (s : State) (t f : Nat) : (s.release t f).spn = s.spn := rfl
@[simp] theorem State.release_att (s : State) (t f : Nat) : (s.release t f).att = s.att := rfl
@[simp] theorem State.release_emb (s : State) (t f : Nat) : (s.release t f).emb = s.emb := rfl
@[simp] theorem State.release_fld (s : State) (t f : Nat) : (s.release t f).fld = s.fld := rfl
@[simp] theorem State.release_lnk (s : State) (t f : Nat) : (s.release t f).lnk = s.lnk := rfl
@[simp] theorem State.release_pwr (s : State) (t f : Nat) : (s.release t f).pwr = s.pwr := rfl
@[simp] theorem State.release_prt (s : State) (t f : Nat) : (s.release t f).prt = s.prt := rfl
@[simp] theorem State.release_tlg (s : State) (t f : Nat) : (s.release t f).tlg = s.tlg := rfl
@[simp] theorem State.release_sent (s : State) (t f : Nat) : (s.release t f).sent = s.sent := rfl

@[simp] theorem State.scramble_pending (s : State) (l a n : Nat) : (s.scramble l a n).pending = s.pending := rfl
@[simp] theorem State.scramble_now (s : State) (l a n : Nat) : (s.scramble l a n).now = s.now := rfl
@[simp] theorem State.scramble_variant (s : State) (l a n : Nat) : (s.scramble l a n).variant = s.variant := rfl
@[simp] theorem State.scramble_regs (s : State) (l a n : Nat) : (s.scramble l a n).regs = s.regs := rfl
@[simp] theorem State.scramble_hif (s : State) (l a n : Nat) : (s.scramble l a n).hif = s.hif := rfl
@[simp] theorem State.scramble_cores (s : State) (l a n : Nat) : (s.scramble l a n).cores = s.cores := rfl
@[simp] theorem State.scramble_lfsrs (s : State) (l a n : Nat) : (s.scramble l a n).lfsrs = s.lfsrs := rfl
@[simp] theorem State.scramble_coreStore (s : State) (l a n : Nat) : (s.scramble l a n).coreStore = s.coreStore := rfl
@[simp] theorem State.scramble_csBad (s : State) (l a n : Nat) : (s.scramble l a n).csBad = s.csBad := rfl
@[simp] theorem State.scramble_pad (s : State) (l a n : Nat) : (s.scramble l a n).pad = s.pad := rfl
@[simp] theorem State.scramble_tallies (s : State) (l a n : Nat) : (s.scramble l a n).tallies = s.tallies := rfl
@[simp] theorem State.scramble_groups (s : State) (l a n : Nat) : (s.scramble l a n).groups = s.groups := rfl
@[simp] theorem State.scramble_tallyDump (s : State) (l a n : Nat) : (s.scramble l a n).tallyDump = s.tallyDump := rfl
@[simp] theorem State.scramble_debt (s : State) (l a n : Nat) : (s.scramble l a n).debt = s.debt := rfl
@[simp] theorem State.scramble_ramp (s : State) (l a n : Nat) : (s.scramble l a n).ramp = s.ramp := rfl
@[simp] theorem State.scramble_lod (s : State) (l a n : Nat) : (s.scramble l a n).lod = s.lod := rfl
@[simp] theorem State.scramble_ldg (s : State) (l a n : Nat) : (s.scramble l a n).ldg = s.ldg := rfl
@[simp] theorem State.scramble_wan (s : State) (l a n : Nat) : (s.scramble l a n).wan = s.wan := rfl
@[simp] theorem State.scramble_hlt (s : State) (l a n : Nat) : (s.scramble l a n).hlt = s.hlt := rfl
@[simp] theorem State.scramble_spn (s : State) (l a n : Nat) : (s.scramble l a n).spn = s.spn := rfl
@[simp] theorem State.scramble_att (s : State) (l a n : Nat) : (s.scramble l a n).att = s.att := rfl
@[simp] theorem State.scramble_emb (s : State) (l a n : Nat) : (s.scramble l a n).emb = s.emb := rfl
@[simp] theorem State.scramble_fld (s : State) (l a n : Nat) : (s.scramble l a n).fld = s.fld := rfl
@[simp] theorem State.scramble_lnk (s : State) (l a n : Nat) : (s.scramble l a n).lnk = s.lnk := rfl
@[simp] theorem State.scramble_pwr (s : State) (l a n : Nat) : (s.scramble l a n).pwr = s.pwr := rfl
@[simp] theorem State.scramble_prt (s : State) (l a n : Nat) : (s.scramble l a n).prt = s.prt := rfl
@[simp] theorem State.scramble_tlg (s : State) (l a n : Nat) : (s.scramble l a n).tlg = s.tlg := rfl
@[simp] theorem State.scramble_sent (s : State) (l a n : Nat) : (s.scramble l a n).sent = s.sent := rfl

@[simp] theorem State.pokeRaw_pages (s : State) (l a : Nat) (bs : List Byte) : (s.pokeRaw l a bs).mem.pages = s.mem.pages := rfl
@[simp] theorem State.touch_bytes (s : State) (l a n : Nat) (w : Bool) : (s.touch l a n w).mem.bytes = s.mem.bytes := rfl
@[simp] theorem State.touch_poison (s : State) (l a n : Nat) (w : Bool) : (s.touch l a n w).mem.poison = s.mem.poison := rfl

/-! ## Registers -/

/-- A field written is read back, cut to its width. -/
theorem State.rd_wr_self {s : State} {f : Fld} {v i j : Nat} (h : s.Inv) : (s.wr f v i j).rd f i j = v % 2 ^ f.width :=
  Tbl.get_set_rising _ h.regs

/-- A write leaves every other key alone. -/
theorem State.rd_wr_other {s : State} {f g : Fld} {v i j k l : Nat} (h : s.Inv) (d : g.key k l ≠ f.key i j) :
    (s.wr f v i j).rd g k l = s.rd g k l :=
  Tbl.get_set_apart _ _ d h.regs

/-- A write of registers keeps the canonical forms. -/
theorem State.Inv.wr {s : State} {f : Fld} {v i j : Nat} (h : s.Inv) : (s.wr f v i j).Inv :=
  ⟨h.bytes, h.store, h.pad, h.host, Tbl.rising_set h.regs, h.cores⟩

/-! ## Cores -/

/-- A core replaced is read back. -/
theorem State.core_setCore_self {s : State} {c : Nat} {k : Core} (h : s.Inv) : (s.setCore c k).core c = k :=
  Tbl.get_set_rising _ h.cores

/-- Replacing a core leaves every other core alone. -/
theorem State.core_setCore_other {s : State} {c d : Nat} {k : Core} (h : s.Inv) (n : d ≠ c) : (s.setCore c k).core d = s.core d :=
  Tbl.get_set_apart _ _ n h.cores

/-- Replacing a core keeps the canonical forms. -/
theorem State.Inv.setCore {s : State} {c : Nat} {k : Core} (h : s.Inv) : (s.setCore c k).Inv :=
  ⟨h.bytes, h.store, h.pad, h.host, h.regs, Tbl.rising_set h.cores⟩

/-- Changing a core keeps the canonical forms. -/
theorem State.Inv.modCore {s : State} {c : Nat} {f : Core → Core} (h : s.Inv) : (s.modCore c f).Inv := h.setCore

/-- A core changed is read back changed. -/
theorem State.core_modCore_self {s : State} {c : Nat} {f : Core → Core} (h : s.Inv) : (s.modCore c f).core c = f (s.core c) :=
  State.core_setCore_self h

/-- Changing a core leaves every other core alone. -/
theorem State.core_modCore_other {s : State} {c d : Nat} {f : Core → Core} (h : s.Inv) (n : d ≠ c) :
    (s.modCore c f).core d = s.core d :=
  State.core_setCore_other h n

/-- A job put in a place is found there. -/
theorem State.job_setJob_self {s : State} {c p : Nat} {j : Job} (h : s.Inv) : (s.setJob c p j).job c p = some j := by
  unfold State.job State.setJob
  rw [State.core_modCore_self h]
  exact Tbl.find_put_self p j _

/-- Every other place keeps its job. -/
theorem State.job_setJob_other {s : State} {c p d q : Nat} {j : Job} (h : s.Inv) (n : d ≠ c ∨ q ≠ p) :
    (s.setJob c p j).job d q = s.job d q := by
  unfold State.job State.setJob
  by_cases e : d = c
  · subst e
    rw [State.core_modCore_self h]
    exact Tbl.find_put_other j (n.resolve_left (fun x => x rfl)) _
  · rw [State.core_modCore_other h e]

/-! ## The ledger -/

/-- An entry put is found. -/
@[simp] theorem State.entry_setEntry (s : State) (i : Nat) (e : Entry) : (s.setEntry i e).entry i = some e := Tbl.find_put_self _ _ _

/-- Every other entry stays. -/
theorem State.entry_setEntry_other (s : State) {i k : Nat} (e : Entry) (n : k ≠ i) : (s.setEntry i e).entry k = s.entry k :=
  Tbl.find_put_other _ n _

/-- What a handle names is an entry. -/
theorem State.entry_of_named {s : State} {h i : Nat} {e : Entry} (n : s.named h = some (i, e)) : s.entry i = some e := by
  unfold State.named at n
  split at n
  · split at n <;> simp_all
  · simp at n

/-- A member record put is found. -/
@[simp] theorem State.find_setMember (s : State) (k : Nat) (r : Member) : Tbl.find k (s.setMember k r).ldg.members = some r :=
  Tbl.find_put_self _ _ _

/-! ## Lodge memory -/

/-- Bytes outside a write read as before. -/
theorem State.pokeRaw_other {s : State} {l a k : Nat} {bs : List Byte} (h : s.Inv)
    (n : k < memKey l a ∨ memKey l a + bs.length ≤ k) : Tbl.get 0 k (s.pokeRaw l a bs).mem.bytes = Tbl.get 0 k s.mem.bytes :=
  Tbl.get_setRun_other _ _ _ h.bytes n

/-- Bytes written are read back. -/
theorem State.peek_pokeRaw {s : State} {l a : Nat} {bs : List Byte} (h : s.Inv) : (s.pokeRaw l a bs).peek l a bs.length = bs := by
  unfold State.peek State.pokeRaw
  exact Tbl.getRun_setRun 0 _ _ _ h.bytes

/-! ## Host memory -/

/-- Bytes of host memory outside a write read as before. -/
theorem State.hostWrite_other {s : State} {a k : Nat} {bs : List Byte} (h : s.Inv) (n : k < a ∨ a + bs.length ≤ k) :
    Tbl.get 0 k (s.hostWrite a bs).hif.mem = Tbl.get 0 k s.hif.mem :=
  Tbl.get_setRun_other _ _ _ h.host n

end Sys2Proof.Machine
end

