-- ==== Sys2Proof/Machine/Xts.lean ====
section
/-!
DEFINITION. What the cells of T2 and T3 hold for a lodge that encrypts (R198): AES-256 of FIPS 197 and XTS of IEEE 1619, the tweak of a 64-byte
unit, and the unit as it stands in its tier.
-/

namespace Sys2Proof.Machine

/-! ## AES-256 -/

/-- Multiplication by x in the field of AES. -/
def aesDouble (a : Nat) : Nat := if a < 128 then 2 * a else (2 * a) ^^^ 0x11B

/-- A product in the field of AES, over the `n` low bits of `b`. -/
def aesMul (a b : Nat) : Nat → Nat
  | 0 => 0
  | n + 1 => (if b % 2 = 1 then a else 0) ^^^ aesMul (aesDouble a) (b / 2) n

/-- The inverse of a byte, 0 for 0: its power 254. -/
def aesInv (a : Nat) : Nat :=
  let m (x y : Nat) := aesMul x y 8
  let a2 := m a a
  let a4 := m a2 a2
  let a8 := m a4 a4
  let a16 := m a8 a8
  let a32 := m a16 a16
  let a64 := m a32 a32
  m (m (m a2 a4) (m a8 a16)) (m (m a32 a64) (m a64 a64))

/-- The substitution of a byte. -/
def aesSub (a : Nat) : Nat :=
  let b := aesInv a
  let rot (n : Nat) := (b * 2 ^ n + b / 2 ^ (8 - n)) % 256
  b ^^^ rot 1 ^^^ rot 2 ^^^ rot 3 ^^^ rot 4 ^^^ 0x63

/-- Two equally long lists of bytes, added. -/
def xorBytes (a b : List Nat) : List Nat := List.zipWith (· ^^^ ·) a b

/-- The key schedule: word `i` from the words before it, latest first; `n` words more. -/
def aesKeyGo : Nat → Nat → Nat → List (List Nat) → List (List Nat)
  | 0, _, _, ws => ws
  | n + 1, i, rc, ws =>
    let p := ws.headD []
    let t :=
      if i % 8 = 0 then
        match (p.drop 1 ++ p.take 1).map aesSub with
        | [] => []
        | a :: r => (a ^^^ rc) :: r
      else if i % 8 = 4 then p.map aesSub
      else p
    aesKeyGo n (i + 1) (if i % 8 = 0 then aesDouble rc else rc) (xorBytes t (ws.getD 7 []) :: ws)

/-- The round keys of a 32-byte key, 16 bytes each. -/
def aesKeys (key : List Nat) : List (List Nat) :=
  (chunks 4 (aesKeyGo 52 8 1 (chunks 4 key).reverse).reverse).map List.flatten

/-- The rows of the state move to the left by their number. -/
def aesShift (s : List Nat) : List Nat := (natsFrom 0 16).map fun i => s.getD ((i + 4 * (i % 4)) % 16) 0

/-- One column mixed. -/
def aesColumn (c : List Nat) : List Nat :=
  let x (i : Nat) := c.getD (i % 4) 0
  (natsFrom 0 4).map fun i => aesDouble (x i) ^^^ (aesDouble (x (i + 1)) ^^^ x (i + 1)) ^^^ x (i + 2) ^^^ x (i + 3)

/-- The rounds after the first key, the last without mixing. -/
def aesRounds : List (List Nat) → List Nat → List Nat
  | [], s => s
  | [k], s => xorBytes (aesShift (s.map aesSub)) k
  | k :: r, s => aesRounds r (xorBytes ((chunks 4 (aesShift (s.map aesSub))).flatMap aesColumn) k)

/-- A 16-byte block under a 32-byte key. -/
def aes256 (key block : List Nat) : List Nat :=
  match aesKeys key with
  | [] => block
  | k :: r => aesRounds r (xorBytes block k)

/-! ## XTS -/

/-- The tweak of the next block: multiplied by x in the field of 2^128, the first byte lowest. -/
def xtsNext (t : List Nat) : List Nat :=
  let n := t.foldr (fun b n => b + 256 * n) 0
  let d := 2 * n % 2 ^ 128 ^^^ (if 2 ^ 127 ≤ n then 0x87 else 0)
  (natsFrom 0 16).map fun i => d / 256 ^ i % 256

/-- Blocks under key 1, each whitened by its tweak. -/
def xtsBlocks (key : List Nat) : List Nat → List (List Nat) → List Nat
  | _, [] => []
  | t, b :: r => xorBytes (aes256 key (xorBytes b t)) t ++ xtsBlocks key (xtsNext t) r

/-- A data unit under the two keys, key 1 first (R198, R483). -/
def xtsEncrypt (keys : List Nat) (tweak : Nat) (unit : List Nat) : List Nat :=
  xtsBlocks (keys.take 32) (aes256 (keys.drop 32) ((natsFrom 0 16).map fun i => tweak / 256 ^ i % 256)) (chunks 16 unit)

/-- The tweak of a 64-byte unit: the tier code, then frame × 32,768 + unit index (R198). -/
def unitTweak (tier frame unit : Nat) : Nat := tier + 256 * (frame * 32768 + unit)

/-! ## The cells (R198) -/

/-- A unit of a lodge as a frame of T2 or T3 holds it: encrypted under the lodge's keys while it has them. -/
def State.sealed (s : State) (l tier frame unit : Nat) (bs : List Byte) : List Byte :=
  match Tbl.find l s.tlg.keys with
  | some ks =>
    if s.rd Reg.memLodgeCfgEncrypt l = 1 ∧ tier ≠ 1 then
      (xtsEncrypt (ks.map (·.toNat)) (unitTweak tier frame unit) (bs.map (·.toNat))).map fun b => BitVec.ofNat 8 b
    else bs
  | none => bs

/-- What the cells hold of the aligned 64-byte unit of a lodge address: its page's frame holds it sealed, under the tweak of that frame; after a
migration it stands sealed anew under the tweak of the new one (R181). -/
def State.unitCells (s : State) (l addr : Nat) : Option (List Byte) :=
  (s.page l addr).map fun p =>
    s.sealed l p.tier p.frame (addr % 2 ^ 21 / 64) (s.peek l (addr / 64 * 64) 64)

/-- What the cells hold of a unit of a replica: sealed under the keys of the reader's lodge. -/
def State.replicaCells (s : State) (r : Replica) (unit : Nat) : List Byte :=
  s.sealed r.lodge 2 r.frame unit (Tbl.getRun 0 (64 * unit) 64 r.bytes)

end Sys2Proof.Machine
end

