-- ==== Sys2Proof/WellFormed.lean ====
section
/-!
DEFINITION. The bounds the spec puts on a command's operands. Ill-formed commands still have a meaning (fields are cut or the
refusal of the spec is given): the check says which commands the spec's encodings can spell.
-/

namespace Sys2Proof

/-- A message the span level can carry: widths of word 0, seven words of 64 bits, at most 2^20 flits of 256 bytes (R161, R347). -/
def Msg.wf (m : Msg) : Bool :=
  decide (m.kind < 2 ^ 8) && decide (m.src < 2 ^ 24) && decide (m.tenant < 2 ^ 24) && decide (m.w.length ≤ 7) &&
  m.w.all (fun x => decide (x < 2 ^ 64)) && decide (m.body.length + 64 ≤ 2 ^ 28)

/-- An operand row of a row word: 15 bits (R118). -/
def rowOk (r : Nat) : Bool := decide (r < 2 ^ 15)

/-- Every operand is within its field. -/
def Instr.wf : Instr → Bool
  | .rowCopy _ _ _ d _ a | .rowNot _ _ _ d _ a => rowOk d && rowOk a
  | .init0 _ _ _ d | .init1 _ _ _ d => rowOk d
  | .rowAnd _ _ _ d _ a _ b | .rowOr _ _ _ d _ a _ b | .rowXor _ _ _ d _ a _ b => rowOk d && rowOk a && rowOk b
  | .ld _ _ _ _ i | .st _ _ _ _ i | .topk _ _ _ i | .bcast _ _ i | .loop _ i => decide (i < 2 ^ 32)
  | .prefill m | .prefillAck m | .prefillDone m | .prefillCancel m | .pageOp m | .pageRsp m | .groupCheck m | .groupCheckRsp m
  | .groupStep m | .groupNode m | .groupStepAck m | .groupMap m | .groupMapAck m | .attReq m | .attRsp m | .wainBlock m
  | .blockAck m | .blockNak m | .handoverReq m | .fence m | .fenceAck m | .handoverRsp m | .layerAck m | .pull m | .embReq m
  | .embRsp m | .embUpd m | .embUpdRsp m | .spanFwd _ m | .spRead m | .spReadRsp m | .spWrite m | .spAck m | .spAtomic m
  | .spCopy m | .spInval m | .spRepublish m | .masterBeat m => m.wf
  | .descriptorFetch _ ws _ => decide (ws.length ≤ 8) && ws.all (fun x => decide (x < 2 ^ 64))
  | .registerWrite _ o _ | .readClear _ o | .lowHalfRead _ o => decide (o < 2 ^ 26) && decide (o % 4 = 0)
  | _ => true

end Sys2Proof
end

