-- ==== Sys2Proof/Tests/Slice0.lean ====
section
/-!
SUPPORT. Tests: the WellFormed checks, worked examples of the spec, and for every statement a state and operands that meet its
hypotheses.
-/

namespace Sys2Proof.Tests

set_option Elab.async false

open Sys2Proof.Machine

/-! ## Small states -/

/-- Stage 4, powered, lodge 0 ACTIVE and bound to tenant 7, device 5, its first two pages mapped in T1. -/
def base : State :=
  let s : State := { State.reset with
    now := 1000
    pwr := { State.reset.pwr with rails := 2, switch := true }
    lod := { State.reset.lod with tenants := [(7, 0)] }
    mem := { State.reset.mem with pages := [(0, ⟨1, 0, 1, false, 0, 3, 4, 0, none, false⟩), (1, ⟨1, 1, 1, false, 0, 0, 0, 0, none, false⟩)] } }
  ((s.wr Reg.glbStageStage 4).wr Reg.lodStateState 1 0).wr Reg.spnIdDevice 5

/-- A descriptor of a class and opcode with these words 1 to 7. -/
def cmd (klass op : Nat) (ws : List Nat := []) : Cmd :=
  ⟨(1 + klass * 16 + op * 256) :: ws, 0, false, 0, 0, 1, [0], 0, 0, 0, 0, 0, false⟩

/-- A job in a state of its place. -/
def job (x : Cmd) (st : JobSt := .run) : Job := { Job.fresh x 0 with st := st, reserved := true, record := false }

/-- The base state with a job in a place of core 2. -/
def withJob (p : Nat) (j : Job) (s : State := base) : State := s.setJob 2 p j

/-- What Running asks, as one evaluation. -/
def runs (s : State) (c p k o : Nat) (j : Job) : Bool :=
  decide (s.job c p = some j ∧ j.st = .run ∧ j.waiting = [] ∧ j.status = 0 ∧ j.cmd.klass = k ∧ j.cmd.op = o)
theorem running_of {s : State} {c p k o : Nat} {j : Job} (h : runs s c p k o j = true) : Running s c p k o j :=
  let h := of_decide_eq_true h
  ⟨h.1, h.2.1, h.2.2.1, h.2.2.2.1, h.2.2.2.2.1, h.2.2.2.2.2⟩

/-- The invariant, from six evaluations. -/
theorem inv_of {s : State} (h : Memory.wf s.mem.bytes = true ∧ Memory.wf s.coreStore = true ∧ Memory.wf s.pad.bytes = true ∧
    Memory.wf s.hif.mem = true ∧ Tbl.rising s.regs = true ∧ Tbl.rising s.cores = true) : s.Inv :=
  ⟨h.1, h.2.1, h.2.2.1, h.2.2.2.1, h.2.2.2.2.1, h.2.2.2.2.2⟩

theorem base_inv : base.Inv := inv_of (by decide)

theorem settled_of {v : VecUnit} (h : Tbl.rising v.regs = true ∧ v.stores = [] ∧ v.loads = [] ∧ v.badTernary = 0 ∧ v.fault = 0) : v.Settled :=
  ⟨h.1, h.2.1, h.2.2.1, h.2.2.2.1, h.2.2.2.2⟩

/-- A message of tenant 7 from device 6. -/
def msg7 (kind : Nat) (w : List Nat := []) (body : List Byte := []) : Msg := ⟨kind, 6, 7, w, body⟩
/-- A request out, for a command of core 2. -/
def pend (kind place : Nat) (c : Option Cmd) : Pend := ⟨kind, 0, 6, 0, 2, place, c, 0, 0, 0, 0, false, msg7 0x61, none⟩
/-- MEM_MAP, MEM_UNMAP or MEM_HARVEST of one page at page 3, or at page 1. -/
def mapCmd (op page : Nat) : Cmd := cmd 3 op [page * 2 ^ 21, 1 + 1 * 2 ^ 28]

/-- The bytes of an operand table at address 256: addresses and roles, rows of 64 bytes. -/
def tabBytes (es : List (Nat × Nat)) : List Byte :=
  es.flatMap fun e => leBytes 8 e.1 ++ leBytes 8 0 ++ leBytes 8 (64 + e.2 * 2 ^ 32) ++ leBytes 8 64

/-- The base state with such a table in lodge memory. -/
def withTab (es : List (Nat × Nat)) : State := { base with mem := { base.mem with bytes := Tbl.setRun 0 256 (tabBytes es) [] } }

/-- Bytes at addresses of lodge 0. -/
def poked (s : State) (ws : List (Nat × Nat)) : State :=
  { s with mem := { s.mem with bytes := ws.foldl (fun m w => Tbl.setRun 0 w.1 (leBytes 8 w.2) m) s.mem.bytes } }
/-- Pool 0 at page 1: KV8, one layer, one head of 64; its record at 8192, a page list at 4096, one sequence at 2048. -/
def attBase (es : List (Nat × Nat)) (len na nq : Nat) : State :=
  (((poked (withTab es) [(8192, 1 + 7 * 2 ^ 48 + 1 * 2 ^ 56), (8200, 1 + 1 * 2 ^ 8 + 64 * 2 ^ 16 + 0x3F800000 * 2 ^ 32), (8208, 2 ^ 21),
    (8216, 1), (4096, 5), (2048, 4096), (2056, 5), (2064, 1 + len * 2 ^ 32), (2072, na + nq * 2 ^ 16)]).wr Reg.attPoolAddr 128 0).wr
    Reg.attPoolEnEnable 1 0).wr Reg.attCtrlEnable 1
/-- An attention command of M, N, K. -/
def attCmd (op entries m n k : Nat) : Cmd := cmd 3 op [256, m + n * 2 ^ 32, k + entries * 2 ^ 44, 0xFFFF0000, 0, 0, 0]

/-! ## WellFormed: one ill-formed command for each check -/

/-- A message whose kind is too wide. -/
def wideMsg : Msg := ⟨256, 1, 0, [], []⟩

theorem test_wf_row2 : (Instr.rowCopy 0 0 0 (2 ^ 15) 0 0).wf = false ∧ (Instr.rowNot 0 0 0 0 0 (2 ^ 15)).wf = false := by decide
theorem test_wf_row1 : (Instr.init0 0 0 0 (2 ^ 15)).wf = false ∧ (Instr.init1 0 0 0 (2 ^ 15 - 1)).wf = true := by decide
theorem test_wf_row3 : (Instr.rowAnd 0 0 0 0 0 0 0 (2 ^ 15)).wf = false ∧ (Instr.rowXor 0 0 0 0 0 0 0 7).wf = true := by decide
theorem test_wf_imm : (Instr.loop 0 (2 ^ 32)).wf = false ∧ (Instr.bcast 0 0 (2 ^ 32 - 1)).wf = true := by decide
theorem test_wf_msg : (Instr.spRead wideMsg).wf = false ∧ (Instr.spRead ⟨0x61, 1, 0, [], []⟩).wf = true := by decide
theorem test_wf_descriptor : (Instr.descriptorFetch 0 [0, 0, 0, 0, 0, 0, 0, 0, 0] false).wf = false ∧
    (Instr.descriptorFetch 0 [2 ^ 64] false).wf = false := by decide
theorem test_wf_offset : (Instr.registerWrite .host 6 0).wf = false ∧ (Instr.readClear .porter (2 ^ 26)).wf = false := by decide

/-! ## Hypotheses met: the whole block -/

theorem meets_StepRunsFront : ({ base with pending := [.refill, .beatLoss] } : State).pending = .refill :: [.beatLoss] ∧ base.pending = [] := by
  decide
theorem meets_EveryStepKeepsInv : base.Inv ∧ ∃ t, step base = .next t := ⟨base_inv, base.tick, rfl⟩
theorem meets_RegisterFields : base.Inv ∧ Reg.glbStageStage.key 0 0 ≠ Reg.spnIdDevice.key 0 0 := ⟨base_inv, by decide⟩
theorem meets_LodgeMemory : base.Inv ∧ memKey 0 64 + [(1 : Byte), 2].length ≤ memKey 0 66 ∧ memKey 0 63 < memKey 0 64 := ⟨base_inv, by decide⟩
theorem meets_AcceptedDrafts : acceptedOf [3, 5, 9] [3, 5, 8, 1] = 2 := by decide
theorem meets_WeightedGrants : Tbl.rising (α := Int) [] = true ∧ [2, 5].Pairwise (· < ·) ∧ [2, 5] ≠ [] := by decide
theorem meets_MinMaxRules : 0x7F800000 < (0xFFC00001 : F32).toNat % 2 ^ 31 ∧ (0 < (0x807FFFFF : F32).toNat % 2 ^ 31 ∧
    (0x807FFFFF : F32).toNat % 2 ^ 31 < 2 ^ 23) := by decide
theorem meets_ScoresAge : base.Inv ∧ (211 : Nat) < 212 ∧ ∃ t, exec .scoreUpdate base = .next t := ⟨base_inv, by decide, _, rfl⟩
theorem meets_ModuleResetKeeps : base.powered = true := by decide
theorem meets_ReplyFramesCheck : (List.replicate 4 (0 : Byte)).length < 1024 := by decide
theorem meets_ResetSequence : base.Inv ∧ base.reached .host = true ∧ base.reached .porter = true ∧
    (∃ t, ({ base with pwr := { base.pwr with key := some 0 } } : State).pwr.key = some t ∧ 1000 - t ≤ 1000000) ∧ base.pwr.key = none :=
  ⟨base_inv, by decide, by decide, ⟨0, by decide⟩, by decide⟩
theorem meets_CapWrites : base.Inv ∧ (350 ≤ 700 ∧ 700 ≤ base.highest ∧ 700 % 25 = 0) ∧ ¬ (350 ≤ 725 ∧ 725 ≤ base.highest ∧ 725 % 25 = 0) ∧
    ¬ (350 ≤ 349) := ⟨base_inv, by decide⟩
theorem meets_PpsEdges : base.Inv ∧ 100 ≤ 100 ∧ base.prt.pps = none ∧ ¬ (100 ≤ 99) ∧
    ({ base with now := 500000000, prt := { base.prt with pps := some 0 } } : State).prt.pps = some 0 := ⟨base_inv, by decide⟩

/-! ## Hypotheses met: vector, compute and near-bank commands -/

/-- VectorLaneOps, VectorFunctions and VectorControl. -/
theorem meets_VectorLaneOps : base.Inv ∧ (base.core 2).vec.Settled := ⟨base_inv, settled_of (by decide)⟩
/-- A vector unit inside a LOOP. -/
def looped : State := base.modCore 2 fun k => { k with vec := { VecUnit.fresh 4 0 with loops := [⟨1, 2, 0⟩] } }
theorem meets_VectorRowOps : looped.Inv ∧ (looped.core 2).vec.Settled ∧ (looped.core 2).vec.depth < 4 ∧
    (looped.core 2).vec.loops = ⟨1, 2, 0⟩ :: [] ∧ (1 ≤ 8 ∧ 8 ≤ 8) ∧ (1 ≤ 65535 ∧ 65535 ≤ 65535) :=
  ⟨inv_of (by decide), settled_of (by decide), by decide⟩

/-- A VECTOR command with an input and an output entry. -/
def vecJob : Job := { job (cmd 2 2) with optab := [⟨64, 0, 64, 0, 0, false, 64, 0⟩, ⟨128, 0, 64, 3, 0, false, 64, 0⟩] }
/-- Its state, rows of four lanes. -/
def vecState : State := (withJob 0 vecJob).modCore 2 fun k => { k with vec := VecUnit.fresh 4 0 }
/-- VectorLoadStore, the load. -/
theorem meets_VectorLoad : vecState.Inv ∧ (vecState.core 2).vec.Settled ∧ vecState.job 2 0 = some vecJob ∧
    Fmt.ofCode 0 = some .fp32 ∧ vecJob.optab[0]? = some ⟨64, 0, 64, 0, 0, false, 64, 0⟩ ∧
    vecState.indexStatus 2 0 vecJob.optab 4 (vecState.core 2).vec.row = St.ok ∧
    vecState.rowStatus 2 0 ⟨64, 0, 64, 0, 0, false, 64, 0⟩ .fp32 (vecState.rowIndex 2 0 vecJob.optab 4 (vecState.core 2).vec.row) 0 4 = St.ok ∧
    ((indexReads vecJob.optab 4 (vecState.core 2).vec.row ++ rowReads ⟨64, 0, 64, 0, 0, false, 64, 0⟩ .fp32
      (vecState.rowIndex 2 0 vecJob.optab 4 (vecState.core 2).vec.row) 0 4).all fun x => !vecState.heldIn 0 x.1 x.2) = true :=
  ⟨inv_of (by decide), settled_of (by decide), by decide⟩
/-- VectorLoadStore, the store. -/
theorem meets_VectorStore : vecJob.optab[1]? = some ⟨128, 0, 64, 3, 0, false, 64, 0⟩ ∧ stFormat .fp32 = true ∧
    vecState.indexStatus 2 0 vecJob.optab 5 (vecState.core 2).vec.row = St.ok ∧
    (let e : OpEnt := ⟨128, 0, 64, 3, 0, false, 64, 0⟩
     let r := vecState.rowIndex 2 0 vecJob.optab 5 (vecState.core 2).vec.row
     ((indexReads vecJob.optab 5 (vecState.core 2).vec.row).all fun x => !vecState.heldIn 0 x.1 x.2) = true ∧
     vecState.outStatus 2 0 e .fp32 r 0 4 (rowStores e .fp32 r 0 (encodeRow .fp32 ((vecState.core 2).vec.lanes 0)).val) = St.ok) := by decide

/-- X = 1.0, W = 2.0 and C, one element each. -/
def tab3 : State :=
  let s := withTab [(1024, 0), (2048, 1), (3072, 3)]
  { s with mem := { s.mem with bytes := Tbl.setRun 0 2048 (leBytes 4 0x40000000) (Tbl.setRun 0 1024 (leBytes 4 0x3F800000) s.mem.bytes) } }
/-- A command of M = N = K = 1 over that table, FP32 throughout. -/
def one (klass op : Nat) (param : Nat := 0) : Cmd := cmd klass op [256, 1 + 2 ^ 32, 1 + 3 * 2 ^ 44, 0xFFFF0000, 0, 0, param]
/-- A job of that command in a place of core 2. -/
def oneJob (klass op : Nat) (st : JobSt := .run) : Job := { job (one klass op) st with optab := tab3.optab (one klass op) }

/-- Core 2 without shadow checks, whose tiles are free values. -/
def still : State := tab3.wr Reg.cmpShadowCfgEnable 0 2
theorem meets_ComputeRuns : (withJob 0 (oneJob 2 1) still).Inv ∧
    ([1, 2, 3, 4, 5].all fun op =>
      let j := oneJob 2 op
      let s := withJob 0 j still
      let u := s.beginCompute 2 j
      let k : Job := { j with optab := u.optab j.cmd }
      decide (s.job 2 0 = some j ∧ j.st = .run ∧ j.waiting = [] ∧ j.status = 0 ∧ j.cmd.klass = 2 ∧ j.cmd.op = op) &&
        (op == 2 || op == 3 || op == 4 || op == 5 || (u.matmul 2 k).fault == 0) && u.csBad == [] &&
        (op != 2 || (s.vector 2 { j with optab := s.optab j.cmd }).fault == 0) &&
        (op != 3 || (u.convert 2 k).fault == 0) && (op != 4 || (u.copyRows 2 k).fault == 0)) = true :=
  ⟨inv_of (by decide +kernel), by decide +kernel⟩

theorem meets_NearBankRuns : (withJob 1 (oneJob 3 0x20) tab3).Inv ∧
    ([0x20, 0x21, 0x22].all fun op =>
      let j := oneJob 3 op
      let s := withJob 1 j tab3
      decide (s.job 2 (nearPlace 0) = some j ∧ j.st = .run ∧ j.waiting = [] ∧ j.status = 0 ∧ j.cmd.klass = 3 ∧ j.cmd.op = op) &&
        !s.suspended j && s.csBad == [] && (op != 0x20 || (s.matvec 2 j).fault == 0) && (op != 0x21 || (s.eltwiseRun 2 j).fault == 0) &&
        (op != 0x22 || (s.normsum 2 j).fault == 0)) = true :=
  ⟨inv_of (by decide +kernel), by decide +kernel⟩

/-- A row program over one window of eight pages: NOT of stripe 0 of row 0 into stripe 1 of row 7, then END. -/
def rowTab : State :=
  let s := withTab [(1024, 0), (2048, 6)]
  { s with mem := { s.mem with bytes := Tbl.setRun 0 2048 (leBytes 8 (7 + 1 * 2 ^ 4 + 7 * 2 ^ 9) ++ leBytes 8 8) s.mem.bytes } }
/-- Its command. -/
def rowCmd : Cmd := cmd 3 0x28 [256, 0, 2 * 2 ^ 44, 2, 0, 0, 0]
/-- Its job. -/
def rowJob : Job := { job rowCmd with optab := rowTab.optab rowCmd, pins := [0] }
/-- NearBankRuns and RowWords: a program. -/
theorem meets_RowProgram :
    let s := withJob 1 rowJob rowTab
    s.Inv ∧ s.job 2 (nearPlace 0) = some rowJob ∧ rowJob.st = .run ∧ rowJob.cmd.klass = 3 ∧ rowJob.cmd.op = 0x28 ∧
      s.suspended rowJob = false ∧ rowJob.waiting = [] ∧ rowJob.status = 0 ∧ (s.stacksOf rowJob.pins).length ≤ 1 ∧
      (s.windowPages 0 rowJob.optab).length = 8 ∧
      s.rowProg rowCmd rowJob.optab = [⟨7, 1, 7, 0, 0, 0, 0⟩, ⟨8, 0, 0, 0, 0, 0, 0⟩] := ⟨inv_of (by decide +kernel), by decide +kernel⟩
theorem meets_RowWords :
    let s := withJob 1 rowJob rowTab
    ([⟨1, 31, 7, 0, 7, 0, 0⟩, ⟨2, 31, 7, 0, 0, 0, 0⟩, ⟨3, 0, 0, 0, 0, 0, 0⟩, ⟨4, 1, 7, 31, 0, 2, 7⟩, ⟨5, 1, 7, 31, 0, 2, 7⟩, ⟨6, 1, 7, 31, 0, 2, 7⟩,
      ⟨7, 0, 0, 31, 7, 0, 0⟩] : List RowWord).all (fun w => !w.bad 8 && s.rowFault rowJob (s.windowPages 0 rowJob.optab) w == St.ok) = true := by
  decide +kernel
/-- A job in WAIT whose X does not need room. -/
def waitJob (op : Nat) : Job := oneJob 3 op .wait
theorem meets_NearBankStarts :
    [0x20, 0x21].all (fun op =>
      let s := withJob 1 (waitJob op) tab3
      decide (s.job 2 (nearPlace 0) = some (waitJob op)) && decide ((waitJob op).st = .wait) && s.waitMet (waitJob op).cmd &&
        s.pinsReady (waitJob op) && s.actFits (waitJob op)) = true := by decide +kernel
theorem meets_RefreshAndRamp :
    let busy := withJob 1 { rowJob with pins := [0] } rowTab
    base.stackBusy 0 = false ∧ busy.stackBusy 0 = true ∧ base.channelBusy 0 63 = false ∧ busy.channelBusy 0 0 = true ∧ Tbl.get 0 0 base.ramp = 0 ∧
      Tbl.get 0 0 busy.debt < busy.rd Reg.nbuRefreshMaxPostpone ∧
      busy.rd Reg.nbuRefreshMaxPostpone ≤ Tbl.get 0 0 ({ busy with debt := [(0, 8)] } : State).debt ∧ Tbl.get 0 0 busy.ramp < 8 ∧
      0 < Tbl.get 0 0 ({ base with ramp := [(0, 8)] } : State).ramp ∧
      8 ≤ Tbl.get 0 0 ({ busy with ramp := [(0, 8)] } : State).ramp := by decide +kernel
theorem meets_NearBankThermal : base.Inv ∧ (1023 : Nat) < 2 ^ Reg.nbuTempTemp.width := ⟨base_inv, by decide +kernel⟩

/-! ## Hypotheses met: memory -/

/-- A near-memory command: DST 4096, SRC_A 8192, 64 bytes, SRC_B 16384. -/
def memCmd (op : Nat) : Cmd := cmd 3 op [4096, 8192, if op = 0x13 then 1 + 1 * 2 ^ 24 else 64, 0xFFFF0000, 0, 0, if op = 0x13 then 64 else 16384]
theorem meets_NearMemoryWork : base.Inv ∧ [0x10, 0x11, 0x12, 0x13].all (fun op =>
      let j := job (memCmd op)
      let s := withJob 1 j
      decide (s.job 2 (nearPlace 0) = some j ∧ j.cmd.klass = 3 ∧ j.cmd.op = op) &&
        !s.suspended { j with pins := j.cmd.mKeys } &&
        (j.cmd.mReads.all fun r => s.readStatus 0 r.1 r.2 == St.ok) && s.accessStatus 0 j.cmd.mWrite.1 j.cmd.mWrite.2 == St.ok) = true :=
  ⟨base_inv, by decide +kernel⟩
/-- A page on its way from T1 to frame 9 of T2. -/
def moving (chunk : Nat) : State := { base with mem := { base.mem with migr := [(1, ⟨2, 9, chunk, none, none⟩)] } }
theorem meets_Migration : Tbl.find (pageKey 0 1) (moving 31).mem.migr = some ⟨2, 9, 31, none, none⟩ ∧ (31 : Nat) < 32 ∧
    Tbl.find (pageKey 0 1) (moving 32).mem.migr = some ⟨2, 9, 32, none, none⟩ ∧ (moving 32).heldInPlace 1 = false ∧
    (Tbl.find (pageKey 0 1) (moving 32).mem.pages).isSome = true := by decide +kernel

/-- MapUnmapHarvest: MEM_MAP. -/
theorem meets_MapOne :
    let j := job (mapCmd 1 3)
    let s := ((((withJob 1 j).wr Reg.memLimFrames 100 0 0).wr Reg.memResFrames 100 0 0).wr Reg.nbuSelftestPass 255)
    s.Inv ∧ s.job 2 (nearPlace 0) = some j ∧ j.direct = [] ∧ j.cmd.op = 1 ∧ j.cmd.done = false ∧
      (∀ q ∈ j.cmd.mRange, Tbl.find (pageKey 0 q) s.mem.pages = none) ∧ j.cmd.mRange = [3] :=
  ⟨inv_of (by decide +kernel), by decide +kernel⟩
/-- MapUnmapHarvest: the frame it obtains, MEM_UNMAP. -/
theorem meets_MapOrUnmap :
    let r := ((base.wr Reg.memLimFrames 100 0 0).wr Reg.memResFrames 100 0 0).wr Reg.nbuSelftestPass 255
    let s := withJob 1 (job (mapCmd 1 3)) r
    s.backing 0 (s.mapOrder (mapCmd 1 3)) = some (1, 2) ∧ (s.mapPages (mapCmd 1 3) (mapCmd 1 3).mRange).2 = St.ok ∧
      (mapCmd 2 1).mRange = [1] ∧ base.pinned (pageKey 0 1) = false ∧
      (withJob 1 { rowJob with pins := [1] }).pinned (pageKey 0 1) = true := by decide +kernel
/-- A harvest of entry 1 of slot 2, whose table has three entries. -/
def hvState : State := (base.wr Reg.memCtrlHarvestEn 1).wr Reg.memHvCfgEntries 3 2
/-- MapUnmapHarvest: MEM_HARVEST. -/
theorem meets_Harvest : (mapCmd 5 0).op = 5 ∧ hvState.on Reg.memCtrlHarvestEn = true ∧ hvState.rd Reg.memHvCfgEntries 2 ≠ 0 ∧
    4 ≤ hvState.stage ∧ Tbl.get 0 2 ({ hvState.mem with hvCheck := [(2, 1)] } : Mem).hvCheck = 1 ∧
    ({ job (cmd 3 5 [0, 1 + 2 * 2 ^ 16]) with direct := [] } : Job).cmd.fld 2 16 3 = 2 ∧
    (base.wr Reg.memCtrlHarvestEn 0).on Reg.memCtrlHarvestEn = false := by
  decide +kernel
theorem meets_Trays : ({ base with mem := { base.mem with trays := [⟨1, 2, 0, 512, true, false⟩] } } : State).Inv ∧
    (([⟨1, 2, 0, 512, true, false⟩] : List Tray).any fun t => t.port == 1 && t.idx == 2 && !t.lost) = true ∧
    (State.reset.mem.trays.any fun t => t.port == 1 && t.idx == 2 && !t.lost) = false ∧ State.reset.stage ≠ 4 :=
  ⟨inv_of (by decide +kernel), by decide +kernel⟩

/-! ## Hypotheses met: attention -/

/-- The checks that ATTN and KV_APPEND pass before they ask. -/
def asks (s : State) (x : Cmd) : Bool :=
  let j := job x
  let s := withJob 1 j s
  let k := { j with optab := s.optab x }
  let u := s.setJob 2 1 k
  match (s.pool 0 0).1 with
  | none => false
  | some pool =>
    let qs := s.seqs x k.optab
    let l := u.attPlanCmd 2 1 k pool
    (s.pendsOf 2 1).isEmpty && !s.hasTodo 2 1 && qs.all (fun q => q.dev == s.self) &&
      qs.all (fun q => q.visible == 0 || s.readStatus 0 q.off (8 * listLen q.visible) == St.ok) && s.tablesStatus 0 pool x.attLayer == St.ok &&
      !u.wideEntry 2 1 x qs && l.all (fun e => e.2.1 == s.self) && s.wan.quiet == [] && !l.isEmpty &&
      s.readStatus 0 1024 128 == St.ok && s.readStatus 0 1536 pool.appendBytes == St.ok && s.readStatus 0 1792 4 == St.ok
/-- One query row over one position; one position to append. -/
def attnState : State := attBase [(1024, 0), (1280, 3), (2048, 6)] 1 0 1
def appendState : State := attBase [(1536, 1), (1792, 4), (2048, 6)] 0 1 0
theorem meets_AttentionIssues : (withJob 1 (job (attCmd 0x30 3 1 1 0)) attnState).Inv ∧ asks attnState (attCmd 0x30 3 1 1 0) = true ∧
    asks appendState (attCmd 0x31 3 1 0 1) = true := ⟨inv_of (by decide +kernel), by decide +kernel⟩
/-- PREFIX_MATCH of 65 tokens and one candidate: page 0 of this device. -/
def prefixState : State := poked (attBase [(1024, 4), (2048, 6), (3072, 3)] 0 0 0) [(2048, 5)]
theorem meets_PrefixMatches :
    let j := job (attCmd 0x32 3 65 1 0)
    let s := withJob 1 j prefixState
    s.Inv ∧ s.job 2 (nearPlace 0) = some j ∧ j.cmd.op = 0x32 ∧ (s.pool 0 0).1.isSome = true ∧
      (s.optab j.cmd).map (fun e => (e.addr, e.role)) = [(1024, 4), (2048, 6), (3072, 3)] ∧ s.readStatus 0 1024 260 = St.ok ∧
      s.readStatus 0 2048 8 = St.ok ∧ s.accessStatus 0 3072 4 = St.ok ∧ s.pendsOf 2 1 = [] ∧ s.allAnswered 2 1 = true ∧
      bits 0 24 (s.peekNat 0 2048 8) = s.self := ⟨inv_of (by decide +kernel), by decide +kernel⟩
theorem meets_AttentionMessages :
    let r := msg7 0x69 [0, 0, 0, 0, 0, 0, 0]
    let u := (attnState.wr Reg.lodPersonaPersona 1).count Reg.attReqInCount
    let o := { attnState with spn := { attnState.spn with out := [(3, pend 9 1 (some (attCmd 0x30 3 1 1 0)))] } }
    u.att.queue.length < 512 ∧ u.att.held = [] ∧ r.src ≠ u.self ∧ base.att.held = [] ∧ r.src ≠ base.self ∧ u.attGate r = St.ok ∧
      u.tenantLodge r.tenant = some 0 ∧ (base.count Reg.attReqInCount).attGate r ≠ St.ok ∧
      512 ≤ ({ base.att with queue := List.replicate 512 ⟨r, 0, [], none⟩ } : Att).queue.length ∧
      Tbl.find 3 o.spn.out = some (pend 9 1 (some (attCmd 0x30 3 1 1 0))) ∧ o.owner (pend 9 1 (some (attCmd 0x30 3 1 1 0))) = none ∧
      (withJob 1 (job (attCmd 0x30 3 1 1 0)) o).owner (pend 9 1 (some (attCmd 0x30 3 1 1 0))) = some (job (attCmd 0x30 3 1 1 0)) := by
  decide +kernel

/-! ## Hypotheses met: the span -/

/-- A SPAN command: FAR offset and device, LOCAL, length, arrival. -/
def spCmd (op off dev loc len : Nat) (arr : Nat := 0) (w3 : Nat := loc) : Cmd :=
  cmd 6 op [off, dev, w3, 0xFFFF0000, 0, 0, len + arr * 2 ^ 44]
/-- It runs in Wain place 0 of core 2. -/
def spRuns (s : State) (op off dev loc len : Nat) (arr : Nat := 0) (w3 : Nat := loc) : Bool :=
  let j := job (spCmd op off dev loc len arr w3)
  runs (withJob (wainPlace 0) j s) 2 (wainPlace 0) 6 op j && (j.result == 0)
theorem meets_SpanCommands :
    let s := base
    let a := { base with spn := { base.spn with arr := [(3, ⟨0, 7⟩)] } }
    (s.accessStatus 0 1024 64 = St.ok ∧ s.accessStatus 0 (1024 + 16) 8 = St.ok ∧ (s.wr Reg.spnArrQuota 4 0).arrUsed 0 < (s.wr Reg.spnArrQuota 4 0).rd Reg.spnArrQuota 0 ∧
      spRuns (s.wr Reg.spnArrQuota 4 0) 7 0 5 0 0 0 0 = true ∧ (s.wr Reg.spnArrQuota 4 0).freeArrival = some 0 ∧
      a.arrBound 0 3 = true ∧ a.arrWaited 3 = false) ∧
    (spRuns s 1 64 5 1024 64 = true ∧ s.kvSpanOk 0 s.self 64 64 false = true ∧ s.readStatus 0 64 64 = St.ok) ∧
    (spRuns s 1 64 6 1024 64 = true ∧ (spCmd 1 64 6 1024 64).farDev ≠ s.self ∧ (spCmd 1 64 6 1024 64).wantReplica = false) ∧
    (spRuns s 2 64 6 1024 64 = true ∧ s.readStatus 0 1024 64 = St.ok) ∧
    (spRuns s 3 64 5 1024 8 = true ∧ s.pendsOf 2 (wainPlace 0) = [] ∧ s.readStatus 0 1024 16 = St.ok ∧ s.storeStatus 0 s.self 64 8 = St.ok ∧
      s.readStatus 0 64 8 = St.ok ∧ s.dirIn 0 (64 / 128 * 128) 128 = []) ∧
    spRuns s 5 0 6 0 128 = true ∧
    (spRuns a 6 0 5 0 0 3 7 = true ∧ (spCmd 6 0 5 0 0 3 7).arrival = 3 ∧ waitMet 7 7 = true ∧ waitMet 7 8 = false ∧
      spRuns a 6 0 5 0 0 3 8 = true) ∧
    (spRuns s 7 0 5 0 0 0 0 = true ∧ s.freeArrival = some 0) ∧ spRuns a 7 0 5 0 0 3 1 = true ∧ spRuns a 7 0 5 0 0 3 2 = true ∧
    (spCmd 7 0 5 0 0 3 2).fld 3 0 2 = 2 ∧
    (spRuns s 4 64 6 1024 (2 ^ 17) = true ∧ (pieces (2 ^ 17)).length = 2 ∧ s.readStatus 0 1024 (2 ^ 17) = St.ok) ∧
    spRuns s 4 64 6 1024 64 = true ∧ (pieces 64).length = 1 := by decide +kernel

theorem meets_HomeRequests :
    let a := { base with spn := { base.spn with arr := [(3, ⟨0, 7⟩)] } }
    base.spn.homeq = [] ∧ base.tenantLodge 7 = some 0 ∧ base.homeGate (msg7 0x61 [9, 64, 128]) = St.ok ∧ base.attrAt 0 64 = 0 ∧ base.heldIn 0 64 128 = false ∧
      base.homeGate (msg7 0x63 [9, 64, 4] [1, 2, 3, 4]) = St.ok ∧ base.dirIn 0 64 4 = [] ∧
      base.homeGate (msg7 0x65 [9, 64, 1, 2]) = St.ok ∧ base.dirIn 0 (64 / 128 * 128) 128 = [] ∧
      a.homeGate (msg7 0x66 [9, 64, 4 + 2 ^ 32 + 2 ^ 33 + 3 * 2 ^ 34] [1, 2, 3, 4]) = St.ok ∧
      bitAt 32 ((msg7 0x66 [9, 64, 4 + 2 ^ 32 + 2 ^ 33 + 3 * 2 ^ 34]).word 3) = true ∧ (msg7 0x63 [9, 64, 4]).word 2 = 64 ∧
      (msg7 0x63 [9, 64, 4]).len = 4 := by decide +kernel

theorem meets_CopiesRemoved :
    let o (p : Pend) (s : State) : State := { s with spn := { s.spn with out := [(3, p)] } }
    let j := job (mapCmd 4 0)
    base.assigned = true ∧ bitAt 32 ((msg7 0x68 [0, 128, 256]).word 1) = false ∧ (msg7 0x68 [0, 128, 256]).fld 3 0 40 ≠ 0 ∧
      Tbl.find 3 (o (pend 6 9 none) base).spn.out = some (pend 6 9 none) ∧ ((o (pend 6 9 none) base).closeTag 3).job 2 9 = none ∧
      (o (pend 6 9 none) base).owner (pend 6 9 none) = none ∧
      (withJob 1 j (o (pend 5 1 (some j.cmd)) base)).owner (pend 5 1 (some j.cmd)) = some j ∧ j.cmd.klass = 3 ∧
      [(lineKey 0 (128 * 4), [3])].find? (·.1 == lineKey 0 (128 * 4)) = some (lineKey 0 (128 * 4), [3]) := by decide +kernel

theorem meets_PageAttributes :
    let ja := { job (mapCmd 3 0) with result := 1 }
    let jr := job (mapCmd 4 0)
    let r := ({ base with spn := { base.spn with repl := [⟨0, 6, 1, 40, 3, true, 32, []⟩] } } : State).wr Reg.hltScoreCfgScrubMs 1
    runs (withJob 1 ja) 2 1 3 3 ja = true ∧ (withJob 1 ja).allAnswered 2 1 = true ∧ runs (withJob 1 jr) 2 1 3 4 jr = true ∧
      jr.result = 0 ∧ jr.cmd.done = false ∧ (withJob 1 jr).writesPending jr.cmd = false ∧ (withJob 1 jr).mappedIn jr.cmd = [pageKey 0 0] ∧
      (Tbl.find (pageKey 0 0) base.mem.pages).isSome = true ∧ (3 : Nat) + 1 < 2 ^ 32 ∧ Tbl.find (pageKey 0 0) base.spn.holders = none ∧
      base.spn.todo = [] ∧ r.rd Reg.hltScoreCfgScrubMs ≠ 0 ∧ r.spn.repl.filter (·.valid) = r.spn.repl ∧
      ({ base.mem with zeroing := [(1, 8)] } : Mem).zeroing.contains (1, 8) = true := by decide +kernel

/-! ## Hypotheses met: Tallies -/

/-- A TALLY command next on core 0: word 1 and word 2. -/
def tyCmd (op w1 : Nat) (w2 : Nat := 0) : Cmd := cmd 5 op [w1, w2]
def tyState (x : Cmd) : State :=
  (({ base with tallies := [(4, ⟨0, 0, 0, 9, false, 0⟩), (5, ⟨0, 0, 0, 1, false, 0⟩)] } : State).wr Reg.tlyQuotaQuota 4 0).setCore 0 { Core.reset with queue := [x] }
/-- Its checks pass. -/
def tyOk (op w1 : Nat) (w2 : Nat := 0) : Bool :=
  let x := tyCmd op w1 w2
  let s := tyState x
  s.nextTally 0 op == some x && s.hasRoom (s.cqOf x.ring) 1 && s.tallyVerdict 0 x == St.ok && x.op == op
theorem meets_TallyCommands : tyOk 1 0 = true ∧ (tyState (tyCmd 1 0)).freeTally = some 0 ∧ tyOk 2 4 = true ∧
    tyOk 3 (1 + 2 ^ 32) = true ∧ (tyCmd 3 (1 + 2 ^ 32)).tDisband = true ∧ tyOk 3 (1 + 15 * 16 + 2 ^ 16) = true ∧
    (tyCmd 3 (1 + 15 * 16 + 2 ^ 16)).tDisband = false ∧ tyOk 5 (4 + 2 * 2 ^ 16) 64 = true ∧
    (tyState (tyCmd 5 (4 + 2 * 2 ^ 16) 64)).accessStatus 0 64 16 = St.ok := by decide +kernel
/-- A group of core 0 that TALLY_RECKON names. -/
def reckonState : State := { tyState (tyCmd 4 1) with groups := [(1, ⟨0, 15, 1, 0⟩)] }
/-- TallyCommands: TALLY_RECKON. -/
theorem meets_TallyReckon : reckonState.nextTally 0 4 = some (tyCmd 4 1) ∧ reckonState.tallyVerdict 0 (tyCmd 4 1) = St.ok := by decide +kernel
theorem meets_WaitsAndDumps :
    let j := { job (spCmd 1 0 0 0 0) .wait with abuf := 0 }
    let k := { j with cmd := { j.cmd with words := j.cmd.words.set 4 (4 * 2 ^ 16 + 10 * 2 ^ 32) } }
    let t : State := { base with tallies := [(4, ⟨0, 0, 0, 9, false, 0⟩)] }
    (withJob 0 j t).job 2 0 = some j ∧ j.st = .wait ∧ t.waitMet j.cmd = true ∧ t.pinsReady j = true ∧ t.actFits j = true ∧
      (withJob 0 k t).job 2 0 = some k ∧ k.st = .wait ∧ t.waitMet k.cmd = false ∧ (t.wr Reg.tlyCtrlWdEn 1).on Reg.tlyCtrlWdEn = true ∧
      base.on Reg.tlyDumpCmdBusy = false := by decide +kernel

/-! ## Hypotheses met: the ledger -/

/-- Persona 2; model slots 2 and 3 serve lodge 0; ring 1 takes its step records. -/
def ldgState : State :=
  ((((((((((base.wr Reg.ldgCtrlEnable 1).wr Reg.lodPersonaPersona 2).wr Reg.ldgModelCfgValid 1 2).wr Reg.ldgModelCfgValid 1 3).wr
    Reg.ldgModelCfgNsteer 4 2).wr Reg.ldgLiveryCapCap 1 2).wr Reg.hifRingCfgEnable 1 1).wr Reg.hifRingCfgType 2 1).wr
    Reg.ldgModelHomeHome 6 2).wr Reg.lodPersonaDrain 0)
/-- A request of model slot 2. -/
def req0 : Req := ⟨0, true, false, 0, 2, 3, 0, 1, 7, 0, 0, 0, 10, 20, 0, 0, 0, 64, 0, 0, 0, 0⟩
/-- An entry of that request in a state. -/
def entry0 (st : Nat) : Entry :=
  { req := req0, st := st, path := 1, fallback := false, cancel := false, groupLog2 := 0, group := [5, 6], gen := 1, reason := 0, genLen := 0,
    kvList := (5, 4096), draftList := (5, 0), steps := 0, emitted := 0, displaced := 0, shared := 0, predicted := 0, since := 0, drafts := [],
    emptyAttn := false, lastToken := 0, pages := ([], []), waitGroup := [], agreed := [], failed := none, runs := [],
    cand := [], pageOps := [], waitStep := [], waitMap := [], red := Reduce.idle, offered := none, busy := [], prompt := none,
    layers := [], doneLayers := none, lastOut := false, admitCmd := none }
/-- The state with an entry in slot 3; its handle is 65539. -/
def withEntry (e : Entry) (s : State := ldgState) : State := { s with ldg := { s.ldg with entries := [(3, e)] } }
/-- The state with a LEDGER descriptor at the head of the queue. -/
def queued (x : Cmd) (s : State := ldgState) : State := { s with hif := { s.hif with ledgerQ := [x] } }
/-- Its common hypotheses. -/
def ldgOk (op : Nat) (x : Cmd) (s : State) : Bool :=
  s.nextLedger op == some x && !x.done && s.hasRoom (s.cqOf x.ring) 1
/-- ADMIT without a livery, PROMPT_LEN 10, MAX_LEN 20, and the one-word commands on a handle. -/
def admitCmd : Cmd :=
  { cmd 1 1 with words := [1 + 16 + 256 + 2 ^ 18, 64, 10 + 20 * 2 ^ 32, 100 + 2 ^ 56, 7 + 2 * 2 ^ 56, 0, 3 * 2 ^ 32, 0] }
def handleCmd (op : Nat) (w2 : Nat := 0) : Cmd := cmd 1 op [65539, w2]
def liveryCmd (op : Nat) : Cmd := cmd 1 op [2, if op = 5 then 64 else 0]
/-- LedgerCommands: ADMIT. -/
theorem meets_LedgerAdmit : ldgOk 1 admitCmd (queued admitCmd) = true ∧
    ({ queued admitCmd with hif := { ldgState.hif with ledgerQ := [] } } : State).admitVerdict admitCmd = St.ok ∧
    (queued admitCmd).nextFree.isSome = true ∧ admitCmd.lLog2 = 0 := by decide +kernel
theorem meets_LedgerCommands :
    let s (op st : Nat) (w2 : Nat) := queued (handleCmd op w2) (withEntry (entry0 st))
    let ok (op st w2 : Nat) : Bool := ldgOk op (handleCmd op w2) (s op st w2) && ledgerVerdict (handleCmd op w2) == St.ok &&
      (s op st w2).mine 0 (handleCmd op w2).lHandle == some (3, entry0 st)
    ok 2 6 0 = true ∧ ok 2 5 0 = true ∧ ok 3 6 64 = true ∧ ok 4 9 0 = true ∧ (handleCmd 3 64).w 2 % 64 = 0 ∧
      (s 3 6 64).accessStatus 0 64 256 = St.ok := by decide +kernel
/-- LedgerCommands: a refused ADMIT, cancels of a request that ends, that is cancelled already or whose prompt is elsewhere, stale handles and
the release of an ORPHANED entry. -/
theorem meets_LedgerRefusals :
    let s (op : Nat) (e : Entry) := queued (handleCmd op) (withEntry e)
    let ok (op : Nat) (e : Entry) : Bool := ldgOk op (handleCmd op) (s op e) && ledgerVerdict (handleCmd op) == St.ok &&
      (s op e).mine 0 (handleCmd op).lHandle == some (3, e)
    ldgOk 1 (cmd 1 1) (queued (cmd 1 1)) = true ∧ (queued (cmd 1 1)).admitVerdict (cmd 1 1) ≠ St.ok ∧
      ok 2 (entry0 7) = true ∧ ok 2 { entry0 6 with cancel := true } = true ∧ ok 2 { entry0 3 with prompt := some 6 } = true ∧
      [2, 3, 4].all (fun op => ldgOk op (handleCmd op) (queued (handleCmd op)) &&
        ((queued (handleCmd op)).mine 0 (handleCmd op).lHandle).isNone) = true ∧
      ok 4 (entry0 10) = true ∧ (s 4 (entry0 10)).lodge 0 = 1 := by decide +kernel
/-- LedgerCommands: liveries. -/
theorem meets_Liveries :
    let v := queued (liveryCmd 5)
    ldgOk 5 (liveryCmd 5) v = true ∧ v.liveryVerdict (liveryCmd 5) = St.ok ∧ v.readStatus 0 64 256 = St.ok ∧
      v.accessStatus 0 (v.rd Reg.ldgLiveryAddr 2 * 8192) 256 = St.ok ∧
      ldgOk 6 (liveryCmd 6) (queued (liveryCmd 6)) = true ∧ (queued (liveryCmd 6)).liveryVerdict (liveryCmd 6) = St.ok := by decide +kernel

/-- A message of device 6 about the entry. -/
def msgH (kind : Nat) (w2 : Nat := 0) (w3 : Nat := 0) (w4 : Nat := 0) : Msg := msg7 kind [65539, w2, w3, w4]
theorem meets_ExpressGroups :
    let e1 := { entry0 1 with waitGroup := [6] }
    let mb : Member := ⟨7, 2, 3, 0, 1, 96, 65536, (10, 20), 0, 0, [], false, false, false, Reduce.idle⟩
    let sm := { ldgState with ldg := { ldgState.ldg with members := [(farKey 6 65539, mb)] } }
    ldgState.groupVerdict (msgH 0x28 (2 + 3 * 2 ^ 8 + 2 ^ 16)) = St.ok ∧
      ((withEntry e1).named 65539 = some (3, e1) ∧ member 6 = 6 ∧ (msgH 0x29).src = ldgState.memberDev 6 ∧ (msgH 0x29).fld 1 32 8 = St.ok) ∧
      bitAt 37 ((msgH 0x22 (2 ^ 37)).word 2) = true ∧
      ((withEntry (entry0 6)).named 65539 = some (3, entry0 6) ∧ (entry0 6).group.contains 6 = true) ∧
      (({ entry0 6 with waitStep := [6] } : Entry).waitStep.contains 6 = true ∧ (msgH 0x25).fld 2 0 8 = St.ok) ∧
      (sm.named 65539 = none ∧ (sm.ldg.members.find? fun r => r.1 % 2 ^ 32 == 65539 && bitAt 6 r.2.members) = some (farKey 6 65539, mb)) ∧
      ((entry0 6).waitStep ++ (entry0 6).red.missing 5 [5, 6] = [] ∧
        ({ entry0 6 with waitStep := [6] } : Entry).waitStep ++ (entry0 6).red.missing 5 [5, 6] = [6]) ∧
      Tbl.find (farKey 6 65539) ldgState.ldg.members = none ∧ Tbl.find (farKey 6 65539) sm.ldg.members = some mb ∧
      bitAt (member sm.self) ((msgH 0x26).word 2) = false ∧ (withEntry e1).entry 3 = some e1 := by decide +kernel
/-- ExpressGroups: refusals, answers that leave others due, a step of a member, messages that name nothing, and a silent member. -/
theorem meets_GroupAnswers :
    let e1 := { entry0 1 with waitGroup := [6] }
    let e2 := { entry0 1 with waitGroup := [6, 7] }
    let no := msg7 0x29 [65539 + St.badLivery * 2 ^ 32]
    let red : Reduce := { Reduce.idle with todo := [(0, 1, none)], own := some [] }
    let mb : Member := ⟨7, 2, 3, 0, 1, 96, 65536, (10, 20), 0, 0, [], false, true, true, red⟩
    let sm := { ldgState with ldg := { ldgState.ldg with members := [(farKey 6 65539, mb)] } }
    ldgState.groupVerdict (msgH 0x28) ≠ St.ok ∧ no.fld 1 32 8 ≠ St.ok ∧ (withEntry e1).named (no.fld 1 0 32) = some (3, e1) ∧
      ({ e1 with failed := some (5, St.badLivery) } : Entry).failed = some (5, St.badLivery) ∧
      (withEntry e2).named 65539 = some (3, e2) ∧ e2.waitGroup.contains 6 = true ∧ e2.waitGroup.filter (· != 6) ≠ [] ∧
      bitAt 37 ((msgH 0x22).word 2) = false ∧ Tbl.find (farKey 6 65539) sm.ldg.members = some mb ∧
      ldgState.named 65539 = none ∧ ldgState.ldg.members.find? (fun r => r.1 % 2 ^ 32 == 65539 && bitAt 6 r.2.members) = none ∧
      (msgH 0x25 5).fld 2 0 8 ≠ St.ok ∧ bitAt (member sm.self) ((msgH 0x26 (2 ^ 5)).word 2) = true ∧
      sm.ldg.members[0]? = some (farKey 6 65539, mb) ∧ mb.red.missing (member sm.self) mb.group = [6] ∧ sm.tenantLodge mb.tenant = some 0 := by
  decide +kernel
theorem meets_PrefillPaths :
    let p := ldgState.wr Reg.lodPersonaPersona 1
    let m := msgH 0x20
    let e2 := { entry0 2 with offered := some 6 }
    let e3 := { entry0 3 with path := 2, prompt := some 6 }
    let e7 := { entry0 7 with pageOps := [(6, 0, 1, 1), (6, 1, 1, 1)] }
    let sub : Sub := ⟨m, 0, 2, 3, true, 0, [], [], false, 0, 0, none⟩
    (p.rd Reg.lodPersonaPersona = 1 ∧ p.on Reg.lodPersonaDrain = false ∧ p.tenantLodge m.tenant = some 0 ∧
      p.keySlot 0 (m.fld 3 0 48) = some 2 ∧ p.keySlot 0 (m.fld 4 0 48) = some 2 ∧ m.fld 2 32 2 ≠ 1) ∧
      (withEntry e2).named 65539 = some (3, e2) ∧ (withEntry e3).named 65539 = some (3, e3) ∧ m.src = p.memberDev 6 ∧ m.fld 1 32 8 = St.ok ∧
      ({ p with ldg := { p.ldg with subs := [(farKey 6 65539, sub)] } } : State).sub (farKey 6 65539) = some sub ∧
      (p.lodge 0 = 1 ∧ (msgH 0x2A (2 ^ 32) 0 (2 ^ 8)).fld 4 8 2 = 1 ∧ (msgH 0x2A (2 ^ 32) 0 (2 ^ 8)).fld 2 32 32 ≠ 0) ∧
      ((msgH 0x2A).fld 4 8 2 = 0 ∧ (msgH 0x2A).fld 2 0 32 = 0 ∧ 2 ≤ ldgState.rd Reg.lodPersonaPersona ∧
        ldgState.on Reg.lodPersonaDrain = false ∧ ldgState.tenantLodge (msgH 0x2A).tenant = some 0 ∧ ldgState.lodge 0 = 1) ∧
      ((withEntry e7).named 65539 = some (3, e7) ∧ e7.pageOps.find? (·.1 == 6) = some (6, 0, 1, 1) ∧ e7.pageOps.erase (6, 0, 1, 1) ≠ []) ∧
      ((withEntry (entry0 4)).named 65539 = some (3, entry0 4) ∧ (msgH 0x43).src = ldgState.rd Reg.ldgModelHomeHome 2) ∧
      (ldgState.ldg.subs = [] ∧ ldgState.wan.fences = []) := by decide +kernel
/-- PrefillPaths: what a Prompt device, a ledger and a home refuse, and the answers that come out of turn. -/
theorem meets_PrefillRefusals :
    let p := ldgState.wr Reg.lodPersonaPersona 1
    let m := msgH 0x20
    let main := msgH 0x20 (2 ^ 32)
    let e2 := { entry0 2 with offered := some 6 }
    let e3 := { entry0 3 with prompt := some 6 }
    let e7 := { entry0 7 with pageOps := [(6, 0, 1, 1)] }
    let answer (st : Nat) := msg7 0x21 [65539 + st * 2 ^ 32]
    let op (n : Nat) (first : Nat := 0) (count : Nat := 0) := msgH 0x24 (first + count * 2 ^ 32) 0 (n * 2 ^ 8)
    ldgState.rd Reg.lodPersonaPersona ≠ 1 ∧ p.rd Reg.lodPersonaPersona = 1 ∧ p.on Reg.lodPersonaDrain = false ∧
      ({ p with lod := { p.lod with tenants := [] } } : State).tenantLodge m.tenant = none ∧
      p.keySlot 0 ((msgH 0x20 0 5).fld 3 0 48) = none ∧ main.fld 2 32 2 = 1 ∧ p.keySlot 0 (main.fld 3 0 48) = some 2 ∧
      (p.wr Reg.ldgModelHomeHome 0xFFFFFF 2).rd Reg.ldgModelHomeHome 2 = 0xFFFFFF ∧
      ((withEntry e2).named 65539 = some (3, e2) ∧ (answer St.busy).fld 1 32 8 ≠ St.ok ∧ (answer St.busy).fld 1 32 8 ≠ St.noPages) ∧
      ((withEntry e3).named 65539 = some (3, e3) ∧ e3.path = 1 ∧ (answer St.ok).fld 1 32 8 = St.ok ∧
        (answer St.memUncorr).fld 1 32 8 = St.memUncorr ∧ (answer St.cancelled).fld 1 32 8 = St.cancelled) ∧
      ldgState.sub (farKey 6 65539) = none ∧ ldgState.named 65539 = none ∧
      ((op 0 64).fld 4 8 2 = 0 ∧ (op 0 64).fld 2 0 32 ≠ 0 ∧ 2 ≤ ldgState.rd Reg.lodPersonaPersona ∧ p.rd Reg.lodPersonaPersona < 2) ∧
      ((op 3).fld 4 8 2 = 3 ∧ (op 1).fld 4 8 2 = 1 ∧ (op 1).fld 2 32 32 = 0 ∧ ldgState.lodge 0 ≠ 4 ∧ ldgState.lodge 0 ≠ 5 ∧
        (ldgState.wr Reg.lodStateState 4 0).lodge 0 = 4) ∧
      ((withEntry e7).named 65539 = some (3, e7) ∧ e7.pageOps = [(6, 0, 1, 1)]) ∧
      ((answer St.spanTimeout).fld 1 32 8 = St.spanTimeout ∧ (answer St.notOwner).fld 1 32 8 ≠ St.ok ∧
        (answer St.notOwner).fld 1 32 8 ≠ St.spanTimeout) := by decide +kernel
theorem meets_StepRecords :
    let r : StepRec := ⟨1, [[], []], [], 0⟩
    let x : Slot := { Slot.idle with running := true, recs := [r] }
    let s := ({ ldgState with ldg := { ldgState.ldg with slots := [(2, x)] } } : State).setCore 0
      { Core.reset with queue := [{ cmd 2 1 with sched := true, slot := 2 }] }
    let live := (s.wr Reg.hifRingStatusState 1 1).wr Reg.hifRingCfgSizeLog2 4 1
    let full := (s.wr Reg.hifRingStatusState 1 1).wr Reg.hifRingCfgSizeLog2 0 1
    s.stepBusy 2 = true ∧ s.slotOf 2 = x ∧ (live.cqLive 1 = true ∧ live.hasRoom 1 2 = true ∧ live.earlierRec r = false) ∧
      (full.cqLive 1 = true ∧ full.hasRoom 1 2 = false ∧ full.stepBusy 2 = true ∧ full.slotOf 2 = x) := by decide +kernel
/-- LedgerCommands: an idle slot, and a step of no sequence at its boundary. -/
theorem meets_StepBoundary :
    let s := { ldgState with ldg := { ldgState.ldg with slots := [(2, { Slot.idle with running := true })] } }
    let t := s.endStep 2
    let v := t.flushRecs 2 (t.slotOf 2).recs.length
    (ldgState.stepBusy 2 = false ∧ ldgState.hlt.held.contains 2 = false ∧ ldgState.guests 2 = [] ∧ ldgState.slotOf 2 = Slot.idle) ∧
      s.active (s.rd Reg.ldgModelCfgLodge 2) = true ∧ s.guests 2 = [] ∧ (s.slotOf 2).recs = [] ∧ s.atBoundary 2 = true ∧
      (t.slotOf 2).running = false ∧ (t.slotOf 2).shrink = none ∧ (v.slotOf 2).recs = [] ∧ (v.slotOf 2).running = false := by decide +kernel

/-! ## Hypotheses met: Wain, answers, embeddings -/

theorem meets_WainStreams :
    let mv := job (cmd 4 1 [64, 1024, 5 + 5 * 2 ^ 24, 0xFFFF0000, 0, 0, 64])
    let pk := job (cmd 4 2 [0, 4096, 5, 0xFFFF0000, 0, 0, 1 * 2 ^ 48])
    let s := base.wr Reg.wanCtrlEnable 1
    let blk := msg7 0x40 [0, 64, 1024] (List.replicate 64 9)
    let x : Stream := ⟨2, 9, none, 6, 4, 7, 0, some 0, false, none, [(64, 0, 64)], 1, [(0, 0)]⟩
    let t := { s with wan := { s.wan with streams := [(4, x)] } }
    let w := { s with wan := { s.wan with streams := [(4, { x with engine := none })] } }
    let full := { s with wan := { s.wan with recvs := (natsFrom 0 112).map fun i => (i, 2 + i % 14) } }
    (runs (withJob 9 mv) 2 9 4 1 mv = true ∧ mv.cmd.wSrcDev = s.self ∧ mv.cmd.wDstDev = s.self ∧ s.readStatus 0 64 64 = St.ok ∧
      s.accessStatus 0 1024 64 = St.ok ∧ mv.cmd.wLen = 64) ∧
    (runs (withJob 9 pk) 2 9 4 2 pk = true ∧ pk.cmd.fld 3 0 24 = s.self ∧ s.readStatus 0 4096 8 = St.ok) ∧
    (blockDamaged blk = false ∧ decodePayload false 0 64 blk.body = some blk.body ∧ s.tenantLodge 7 = some 0 ∧
      s.on Reg.wanCtrlEnable = true ∧ blk.word 3 % 64 = 0 ∧ s.accessStatus 0 1024 64 = St.ok ∧ s.dirIn 0 1024 64 = [] ∧ s.pullOf blk = none ∧
      s.lodge 0 = 1 ∧ Tbl.find (recvKey blk) s.wan.recvs = none ∧ s.freeEngine = some 2 ∧ full.freeEngine = none ∧ full.pullOf blk = none ∧
      ({ s with lod := { s.lod with maxTok := [(0, 1)] } } : State).mayTake 0 1024 = true ∧ s.mayTake 0 1024 = false) ∧
    (blockDamaged (msg7 0x40 [0, 63, 1024]) = true) ∧
    (t.streamOf (msg7 0x41 [4]) = some (4, x) ∧ x.open_.filter (·.1 != (msg7 0x41 [4]).fld 1 32 32) = [] ∧ x.total ≤ x.next) ∧
    ((t.bump Reg.wanNakRxCount).streamOf (msg7 0x42 [4, 1]) = some (4, x) ∧ x.open_.find? (·.1 == 0) = some (0, 0) ∧
      0 < t.rd Reg.wanCfgResendMax ∧ t.streamLive x = true ∧ (t.sendBlock x 0 true).2 = St.ok) ∧
    Tbl.find 4 w.wan.streams = some { x with engine := none } ∧ s.readStatus 0 ((msg7 0x46 [64, 0, 64]).word 1) 64 = St.ok := by decide +kernel

theorem meets_Handover :
    let s := (poked (attBase [] 0 0 0) [(2 ^ 21, ownerWord 6 65539)]).wr Reg.wanCtrlEnable 1
    let m := msg7 0x42 [65539, 4096, 2 * 2 ^ 32]
    let h : Hand := ⟨m, 0, 0, [], [0], true, [], none⟩
    let g : Hand := ⟨m, 0, 0, [], [0], false, [], none⟩
    (s.tenantLodge m.tenant = some 0 ∧ s.on Reg.wanCtrlEnable = true ∧ s.lodge 0 = 1 ∧ m.fld 3 0 32 + m.fld 3 32 32 ≤ 32768) ∧
    h.msg.fld 1 0 32 = 65539 ∧ (msg7 0x45 [65539 + 6 * 2 ^ 32]).fld 1 32 24 = 6 ∧
    (({ s with wan := { s.wan with hands := [(farKey 6 65539, g)] } } : State).wan.hands.find? fun h => h.2.msg.fld 1 0 32 == 65539 &&
      !h.2.fenced && h.2.reading == []) = some (farKey 6 65539, g) ∧
    (s.mem.dir = [] ∧ (s.pool 0 (h.msg.fld 1 56 3)).2 = St.ok ∧ (match (s.pool 0 0).1 with
      | some p => s.hdrStatus 0 p 0 == St.ok && s.hdr 0 p 0 0 == ownerWord 6 65539
      | none => false) = true) := by decide +kernel

/-- WainStreams: moves to and from another device, a push whose list is there, a block and a PULL of no lodge. -/
theorem meets_WainCarriers :
    let out := job (cmd 4 1 [64, 1024, 5 + 6 * 2 ^ 24, 0xFFFF0000, 0, 0, 64])
    let back := job (cmd 4 1 [64, 1024, 6 + 5 * 2 ^ 24, 0xFFFF0000, 0, 0, 64])
    let pk := job (cmd 4 2 [0, 4096, 6, 0xFFFF0000, 0, 0, 1 * 2 ^ 48])
    let s := base
    let none7 := { base with lod := { base.lod with tenants := [] } }
    let blk := msg7 0x40 [0, 64, 1024] (List.replicate 64 9)
    (runs (withJob 9 out s) 2 9 4 1 out = true ∧ out.cmd.wSrcDev = s.self ∧ out.cmd.wDstDev ≠ s.self ∧ out.result = 0) ∧
    (runs (withJob 9 back s) 2 9 4 1 back = true ∧ back.cmd.wSrcDev ≠ s.self) ∧
    (runs (withJob 9 pk s) 2 9 4 2 pk = true ∧ pk.cmd.fld 3 0 24 ≠ s.self) ∧ s.noRoute 0 6 = false ∧
    (blockDamaged blk = false ∧ (decodePayload (bitAt 12 blk.kind) (blk.fld 2 20 20) (blk.fld 2 0 17) blk.body).isSome = true ∧
      none7.tenantLodge 7 = none) := by decide +kernel

/-- Handover: what ends one at once, what makes it wait, and pages that move or do not. -/
theorem meets_HandoverEnds :
    let s := (poked (attBase [] 0 0 0) [(2 ^ 21, ownerWord 5 65539)]).wr Reg.wanCtrlEnable 1
    let m := msg7 0x43 [65539 + 5 * 2 ^ 32, 4096, 2 * 2 ^ 32]
    let h : Hand := ⟨m, 0, 0, [], [0], true, [], none⟩
    let w : Hand := ⟨m, 0, 0, [], [0], false, [], none⟩
    let t := { s with wan := { s.wan with hands := [(farKey 6 65539, h)] } }
    let far := poked s [(2 ^ 21, ownerWord 9 65539)]
    ({ s with lod := { s.lod with tenants := [] } } : State).tenantLodge 7 = none ∧ (base.wr Reg.wanCtrlEnable 0).on Reg.wanCtrlEnable = false ∧
      (32768 < (msg7 0x43 [65539, 4096, 32769 * 2 ^ 32]).fld 3 0 32 + (msg7 0x43 [65539, 4096, 32769 * 2 ^ 32]).fld 3 32 32) ∧
      (s.wan.hands.find? fun h => h.2.msg.fld 1 0 32 == 65539 && h.2.msg.fld 1 32 24 == 6 && !h.2.fenced && h.2.reading == []) = none ∧
      Tbl.find (farKey 6 65539) t.wan.hands = some h ∧ t.handWaits h = false ∧ t.handWaits w = true ∧
      (match t.pool 0 (h.msg.fld 1 56 3) with
        | (some p, _) => t.hdrStatus 0 p 0 == St.ok && t.movesOwner h p 0 && !far.movesOwner h p 0 && ((t.newOwner h p).recallPages h p).2 == []
        | _ => false) = true ∧ s.wan.hands = [] := by decide +kernel

/-- Scratchpads: writes of two masters to bank 1 and a read of the same word, and addresses in and above the windows. -/
theorem meets_Scratchpads :
    let x : PadReq := ⟨1, true, 0x8000, [7], [true]⟩
    let y : PadReq := ⟨4, true, 0x48040, [9], [true]⟩
    let r : PadReq := ⟨2, false, 0x8001, [], []⟩
    Memory.wf State.reset.pad.bytes = true ∧ padWindow x.addr = some (.plain, 0x8000) ∧ padWindow y.addr = some (.set, 0x8040) ∧
      bankOf x.at_ = bankOf y.at_ ∧ x.master = homeMaster (bankOf x.at_) ∧ y.master ≠ x.master ∧ x.at_ / 64 = r.at_ / 64 ∧
      0xBFFFF < (0xC0000 : Nat) ∧ (base.core 2).spLodge ≠ some 0 := by decide +kernel
/-- R73: the read of a word that is written in its cycle returns what was written, its other bytes as before. -/
theorem test_padSameCycle :
    let x : PadReq := ⟨1, true, 0x8000, [7, 8], [true, false]⟩
    let r : PadReq := ⟨2, false, 0x8001, [], []⟩
    ((State.reset.pad.cycle 0 0 [r, x]).2.2.map fun q => q.2.take 2) = [[7, 0]] := by decide +kernel

theorem meets_Replies :
    let j := job (spCmd 1 64 6 1024 64)
    let o (kind : Nat) : State := withJob 9 j { base with spn := { base.spn with out := [(3, pend kind 9 (some j.cmd))] } }
    let r := msg7 0x62 [3]
    let a := (o 9).keepReply 3 (msg7 0x6A [3])
    Tbl.find r.tag base.spn.out = none ∧ r.tag = 3 ∧ r.status = St.ok ∧ (o 0).owner (pend 0 9 (some j.cmd)) = some j ∧
      (o 1).owner (pend 1 9 (some j.cmd)) = some j ∧ ((((o 1).bump Reg.spnTimeoutCntCount).setBit Reg.spnErrBits 0).pendsOf 2 9).all (fun e => e.2.kind == 1) = true ∧
      ((o 1).spn.todo.all fun e => e.kind == 1) = true ∧ (o 2).owner (pend 2 9 (some j.cmd)) = some j ∧ (o 9).owner (pend 9 9 (some j.cmd)) = some j ∧ (msg7 0x6A [3]).fld 1 40 8 = St.ok ∧
      (a.job 2 9).isSome = true ∧ a.allAnswered 2 9 = true := by decide +kernel

/-- Table 0: four rows of 32, this device its one home; one lookup of row 2, one update of row 0 to version 1. -/
def embState : State :=
  ((poked base [(8192, 4 + 32 * 2 ^ 32 + 2 ^ 48 + 2 ^ 63), (8200, 9), (8208, 16384), (8216, 32768), (8224, 4096), (8232, 12288), (8240, 64),
    (12288, 5), (20480, 2 ^ 32), (24576, 2), (28672, 8 * 2 ^ 32), (28696, 36864)]).wr Reg.embTblAddr 128 0).wr Reg.embCtrlEnable 1
/-- An EMBED command of one bag or one update. -/
def embCmd (op : Nat) : Cmd := cmd 8 op [if op = 3 then 28672 else 24576, 0, 20480 + 2 ^ 48, 0xFFFF0000, 0, 0, 40960]
theorem meets_EmbedCommands :
    let e : ETable := ⟨4, 32, 1, 9, 16384, 32768, 4096, [5], 0, true⟩
    let u (op : Nat) : State := withJob 1 (job (embCmd op)) embState
    embState.table 0 0 = (some e, St.ok) ∧ [1, 2, 3].all (fun op => runs (u op) 2 (nearPlace 0) 8 op (job (embCmd op)) &&
      (u op).embRead (embCmd op) == St.ok && (u op).noRoute 0 5 == false) = true ∧ (u 1).accessStatus 0 40960 128 = St.ok ∧
      (u 1).embIdx (embCmd 1) = [(0, 0, 2, 0x3F800000)] ∧ 4 ≤ base.stage ∧ State.reset.stage < 4 ∧ rowFmt (bits 32 4 ((u 3).updRec (embCmd 3) 0 0)) ≠ none ∧
      (u 3).readStatus 0 ((u 3).updRec (embCmd 3) 0 3) 128 = St.ok := by decide +kernel
theorem meets_EmbedMessages :
    let e : ETable := ⟨4, 32, 1, 9, 16384, 32768, 4096, [5], 0, true⟩
    let s := embState.wr Reg.lodPersonaPersona 1
    let upd := msg7 0x52 [0, 9, 1] (leBytes 4 0 ++ [8, 0, 0, 0] ++ leBytes 4 0 ++ leBytes 4 1 ++ List.replicate 144 0)
    let j := job (embCmd 1)
    let o (kind : Nat) : State := withJob 1 j { base with spn := { base.spn with out := [(3, pend kind 1 (some j.cmd))] } }
    let w : EmbWork := ⟨upd, 0, 0, 0, 0, none⟩
    let rq := msg7 0x50 [0, 9, 1 + 2 ^ 16] (leBytes 4 1 ++ leBytes 4 0 ++ leBytes 4 9 ++ leBytes 4 0)
    (s.emb.held = [] ∧ (s.embTry ⟨rq, 0, 0, 0, 0, none⟩).2.1.isSome = true ∧
      ((poked s [(16384, 8)]).embTry ⟨msg7 0x50 [0, 9, 1 + 2 ^ 16] (leBytes 8 1 ++ leBytes 8 0), 0, 0, 0, 0, none⟩).2.1 = none) ∧ s.emb.queue = [] ∧ s.embGate (msg7 0x50 [0, 9, 1]) = St.ok ∧ s.tenantLodge 7 = some 0 ∧ s.embGate upd = St.ok ∧
      (s.table 0 (upd.fld 1 32 8)).1 = some e ∧ upd.fld 3 0 16 ≠ 0 ∧ s.updRow 0 e upd 0 = 0 ∧
      (([w] : List EmbWork).find? fun w => w.msg.kind == 0x52) = some w ∧
      [10, 11].all (fun k => (o k).owner (pend k 1 (some j.cmd)) == some j &&
        (((o k).keepReply 3 (msg7 0x51 [3])).job 2 1).isSome && ((o k).keepReply 3 (msg7 0x51 [3])).allAnswered 2 1) = true ∧
      (msg7 0x51 [3]).fld 1 32 8 = St.ok := by decide +kernel

/-! ## Hypotheses met: ends of commands, cores, rings -/

theorem meets_CommandEnds :
    let j := job (cmd 2 5) .fence
    let k := job (cmd 2 5) .kill
    let later := job { cmd 2 5 with seq := 1 } .fence
    let two := withJob 9 (job (cmd 4 1)) (withJob 0 later)
    ((withJob 0 j).job 2 0 = some j ∧ ((withJob 0 j).core 2).inOrder j.cmd 0 = true ∧ (withJob 0 j).directLost j = false ∧
      (withJob 0 j).mem.dir = []) ∧
    (two.job 2 0 = some later ∧ (two.core 2).inOrder later.cmd 0 = false) ∧
    ((withJob 0 k).job 2 0 = some k ∧ (withJob 0 k).farOpen 2 0 k.cmd = false ∧ (withJob 0 k).fieldOpen 2 0 k.cmd = false ∧
      (withJob 0 k).wan.streams = [] ∧ (withJob 0 k).wan.pulls = []) ∧ ¬(j.cmd.klass = 6 ∧ j.cmd.op = 6) := by decide +kernel
/-- CommandEnds: a DIRECT output on a lost tray, one whose line another device holds, and an access still open. -/
theorem meets_CommandWaits :
    let j : Job := { job (cmd 3 0x10 [0, 0, 0, 0xFFFF0000]) .fence with direct := [(0, [9])] }
    let k := job (cmd 3 0x10) .kill
    let away := { base with mem := { base.mem with pages := [(0, ⟨3, 0, 3, false, 0, 0, 0, 0, none, false⟩)] } }
    let held := { base with mem := { base.mem with dir := [(lineKey 0 0, ⟨[6], [], false, 0⟩)] } }
    let out := { base with spn := { base.spn with out := [(3, pend 1 1 (some k.cmd))] } }
    (withJob 1 j).job 2 1 = some j ∧ ((withJob 1 j).core 2).inOrder j.cmd 1 = true ∧ (withJob 1 j away).directLost j = true ∧
      (withJob 1 j held).directLost j = false ∧ ((withJob 1 j held).invalWritten 2 1 j).2 ≠ [] ∧
      ((withJob 1 j).invalWritten 2 1 j).2 = [] ∧ (withJob 1 k out).farOpen 2 1 k.cmd = true ∧ k.st ≠ .run ∧ k.st ≠ .fence := by
  decide +kernel
theorem meets_ShadowsAndCores :
    let h : Shadow := ⟨3, 9, 0, 0, 0⟩
    ((base.setCore 2 { Core.reset with shadows := [h] }).core 2).shadows = [h] ∧ (2 ^ 32 - 1) % 2 ^ 32 ≠ 0 ∧ (2 ^ 32) % 2 ^ 32 = 0 ∧
      base.coreBusy 2 = false ∧ (159 : Nat) < 160 ∧ (base.core 159).quarantined = false ∧ base.hif.rings = [] ∧
      (withJob 0 (job { cmd 2 5 with words := [1 + 2 * 16 + 5 * 256 + 2 * 2 ^ 32] })).coreBusy 2 = true := by decide +kernel

/-- Ring 2: an active submit ring of 16 records; ring 3: an active completion ring, its completion ring. -/
def ringState : State :=
  (((((((base.wr Reg.hifRingCfgEnable 1 2).wr Reg.hifRingStatusState 1 2).wr Reg.hifRingCfgSizeLog2 4 2).wr Reg.hifRingCfgCq 3 2).wr
    Reg.hifRingCfgEnable 1 3).wr Reg.hifRingStatusState 1 3).wr Reg.hifRingCfgType 1 3).wr Reg.hifRingCfgSizeLog2 4 3
theorem meets_Rings :
    let mk := ringState.modRing 2 fun x => { x with mark := true, hostIdx := 1 }
    let n := cmd 0 1
    let b := cmd 0 2
    ringState.ringActive 2 = true ∧ base.ringActive 2 = false ∧ (mk.ring 2).mark = true ∧ mk.ringActive 2 = true ∧ mk.hostUp = true ∧
      mk.rd Reg.hifRingCfgType 2 = 0 ∧ (16 + 2 ^ 32 - mk.devIdx 2) % 2 ^ 32 ≤ mk.ringSize 2 ∧ mk.ringSize 2 < (17 + 2 ^ 32 - mk.devIdx 2) % 2 ^ 32 ∧
      (ringState.wr Reg.hifCtrlPollUs 1).rd Reg.hifCtrlPollUs ≠ 0 ∧ ringState.rd Reg.hifRingCfgType 3 = 1 ∧ ringState.ringActive 3 = true ∧
      (ringState.devIdx 3 + 2 ^ 32 - 0) % 2 ^ 32 ≤ ringState.ringSize 3 ∧ mk.paused = false ∧ mk.fetchTurn.2 = some 2 ∧
      base.rd Reg.hifRingCfgEnable 2 = 0 ∧ (base.wr Reg.hifRingCfgType 1 3).enableRefused 3 = false ∧
      (base.wr Reg.hifRingCfgType 1 3).rd Reg.hifRingCfgEnable 3 = 0 ∧ base.enableRefused 2 = true ∧
      ringState.rd Reg.hifRingCfgEnable 2 = 1 ∧ ringState.disableRefused 2 = false ∧
      (ringState.rd Reg.hifRingCfgEnable 3 = 1 ∧ ringState.disableRefused 3 = true ∧ ringState.rd Reg.hifRingCfgType 3 ≠ 0) ∧
      (let t := ringState.wr Reg.hifRingCfgEnable 0 2
       t.rd Reg.hifRingCfgEnable 3 = 1 ∧ t.disableRefused 3 = false ∧ t.rd Reg.hifRingCfgType 3 ≠ 0) ∧
      ({ base with hif := { base.hif with adminQ := [n] } } : State).nextAdmin 1 = some n ∧ adminReserved n = false ∧
      ({ base with hif := { base.hif with adminQ := [b] } } : State).nextAdmin 2 = some b ∧ adminReserved b = false := by decide +kernel
theorem meets_HostLossAndResets : base.on Reg.hifStatusHostLost = false ∧
    (let due (s : State) : List Cmd := s.hif.rings.flatMap fun e => e.2.waiting.map (·.1)
     due (ringState.modRing 2 fun x => { x with mark := true }) = [] ∧
     due (ringState.modRing 2 fun x => { x with waiting := [(cmd 2 5, 0, 0, 0, 0)] }) ≠ []) ∧
    ((base.modRing 2 fun x => { x with irqPend := 1 }).ring 2).irqPend ≠ 0 ∧
    (base.wr Reg.hifRingCfgVector 3 2).rd Reg.hifRingCfgVector 2 ≠ 0 := by decide +kernel

/-! ## Hypotheses met: lodges, the master, links -/

theorem meets_LodgeOperations :
    let st (v : Nat) : State := base.wr Reg.lodStateState v 0
    let u := base.wr Reg.lodCmdArgTenant 9
    let w := base.wr Reg.lodCmdArgTenant 7
    base.on Reg.lodCmdStatusBusy = false ∧ (2 ≤ base.stage ∧ (natsFrom 0 16).find? (fun i => base.lodge i == 0) = some 1) ∧
      (base.lodge 0 = 1 ∧ base.ringBound 0 = false ∧ base.hasEntries 0 = false) ∧ ((st 5).lodge 0 = 5 ∧ (st 5).ringBound 0 = false) ∧
      (st 2).lodge 0 = 2 ∧ (u.on Reg.lodCmdStatusBusy = false ∧ u.lodge 0 = 1 ∧ u.rd Reg.lodCmdArgTenant = 9 ∧ u.tenantLodge 9 = none) ∧
      (w.tenantLodge 7 = some 0 ∧ w.tenantUsed 0 7 = false ∧ w.rd Reg.lodCmdArgTenant = 7) ∧
      (base.wr Reg.lodCmdStatusBusy 1).on Reg.lodCmdStatusBusy = true ∧ ¬ ((st 2).lodge 0 = 1 ∨ (st 2).lodge 0 = 5) ∧
      (ringState.lodge 0 = 1 ∧ ringState.ringBound 0 = true) ∧ ¬ (base.lodge 0 = 2 ∨ base.lodge 0 = 5) ∧ State.reset.stage < 2 ∧
      ({ base.lod with op := some (7, 0, St.ok, 4) } : Lod).op = some (7, 0, St.ok, 4) := by decide +kernel
theorem meets_LodgeScheduling :
    let t (mx mn : Int) : State := { base with lod := { base.lod with maxTok := [(0, mx)], minTok := [(0, mn)] } }
    ((base.wr Reg.lodStateState 4 0).lodge 0 = 4 ∧ (base.jobs.any fun j => j.2.2.cmd.lodge == 0) = false) ∧
      base.on Reg.lodPersonaPersonaBusy = false ∧ base.drained = true ∧ (withJob 0 (job (cmd 2 5))).drained = false ∧
      ({ base.lod with newPersona := some 2 } : Lod).newPersona = some 2 ∧ 0 < (t 1 0).maxTok 0 0 ∧
      (let free (r : Nat × Nat) : Bool := decide (16 ≤ r.1) && decide (Tbl.get 0 0 base.lod.devUsed + r.2 ≤ base.pathCap 0 / 64)
       ([(0, 64), (16, 9)] : List (Nat × Nat)).find? free = some (16, 9) ∧ ([(0, 64)] : List (Nat × Nat)).find? free = none) ∧
      (t 1 1).grantSet 0 [0] = ([0], true) ∧
      (t 1 0).grantSet 0 [0] = ([0], false) ∧ (wrrGrant (t 1 1).lod.pathCur 0 (fun l => (t 1 1).rd Reg.lodCfgWeight l) [0]).2 = some 0 := by
  decide +kernel
/-- Port 3 UP in span mode. -/
def upState : State := base.wr Reg.lnkStatusState 2 3
theorem meets_SpanMaster :
    let m (dst hops : Nat) : Msg := ⟨0x6B, 6, 0, [dst + hops * 2 ^ 24], []⟩
    let r := base.wr Reg.spnRoutePorts 8 6
    let ms := base.wr Reg.spnStatusMaster 1
    let g := base.wr Reg.spnLeaseValue 2000
    let i := ({ base with spn := { base.spn with beat := some (6, 900) } } : State).wr Reg.spnStatusIsolated 1
    (m 5 0).fld 1 0 24 = base.self ∧ (m 6 63).fld 1 0 24 ≠ base.self ∧ (m 6 63).fld 1 24 6 = 63 ∧ (m 6 62).fld 1 24 6 ≠ 63 ∧
      r.routePort 8 6 = some 3 ∧ base.spn.beat = none ∧ base.assigned = true ∧ ms.master = true ∧
      (g.leaseClock < g.rd Reg.spnLeaseValue ∧ g.master = false) ∧ (i.isolated = true ∧ i.recent 900 = true) ∧ base.isolated = false := by
  decide +kernel
theorem meets_LinkReceive :
    let d := upState.modLport 3 fun p => { p with discarding := true }
    let w := upState.modLport 3 fun p => { p with since := 1, unacked := [⟨7, false, true, true, [], 0⟩] }
    let u := upState.countCorr 3 0 0
    upState.spanUp 3 = true ∧ d.spanUp 3 = true ∧ (d.lport 3).discarding = true ∧ (2048 ≤ seqDiff 0 2048 ∧ seqDiff 0 1 ≥ 2048 ∧ seqDiff 2047 0 < 2048) ∧
      (upState.lport 3).discarding = false ∧ (w.lport 3).since ≠ 0 ∧ (w.lport 3).unacked ≠ [] ∧
      (upState.linkState 3 = 2 ∧ u.spanUp 3 = true ∧ (u.lport 3).discarding = false ∧ (u.lport 3).skip = 0) ∧
      (placeFlit (u.lport 3).rxBulk true (flitData [1])).isSome = true := by decide +kernel
theorem meets_LinkTraining :
    let st (k ph : Nat) : State := (base.wr Reg.lnkStatusState k 3).wr Reg.lnkStatusPhase ph 3
    let fresh : State := (State.reset.wr Reg.lnkStatusState 1 3).wr Reg.lnkStatusPhase 2 3
    let h := (st 1 2).modLport 3 fun p => { p with hello := some false }
    (fresh.exchanging 3 = true ∧ fresh.rd Reg.lnkCtrlMode 3 = 0 ∧ agreedVersion 2 = 1 ∧ fresh.assigned = false ∧ (fresh.lport 3).peer = none) ∧
      (st 1 0).linkState 3 = 1 ∧ (st 1 0).rd Reg.lnkStatusPhase 3 = 0 ∧ (st 3 1).linkState 3 = 3 ∧ (st 3 1).rd Reg.lnkStatusPhase 3 = 1 ∧
      (h.rd Reg.lnkStatusPhase 3 = 2 ∧ (h.lport 3).hello.isSome = true) ∧ (st 4 0).linkState 3 = 4 ∧ (st 5 0).linkState 3 = 5 ∧
      upState.linkState 3 = 2 ∧ upState.rd Reg.lnkCtrlMode 3 = 0 ∧
      ((natsFrom 0 256).all fun r => base.rd Reg.hifRingCfgEnable r == 0) = true ∧ base.spn.out = [] ∧ base.spn.todo = [] ∧
      (2 ^ 18 - 1 : Nat) < 2 ^ 18 := by decide +kernel
theorem meets_LinkSlotsAndTime :
    let due := upState.modLport 3 fun p => { p with due := [⟨4, 0, 0, 0⟩] }
    let rep := upState.modLport 3 fun p => { p with replay := 1, unacked := [⟨7, false, true, true, [], 0⟩] }
    let v := upState.wr Reg.lnkStimeStatusValid 1
    (due.linkState 3 = 2 ∧ (due.lport 3).due ≠ []) ∧ ((rep.lport 3).due = [] ∧ (rep.lport 3).nakDue = false ∧ (rep.lport 3).ackDue = false ∧
      (rep.lport 3).replay ≠ 0) ∧ ((upState.lport 3).replay = 0 ∧ (upState.lport 3).txBulk = none ∧ (upState.lport 3).txExpr = none ∧ upState.sent = []) ∧
      upState.spanUp 3 = true ∧ upState.on Reg.lnkStimeStatusSource = false ∧
      (upState.modLport 3 fun p => { p with hops := some 0 }).followed = some 3 ∧ v.spanValid = true ∧ v.hopsOut ≤ 63 ∧
      v.on Reg.lnkStimeStatusSource = false := by decide +kernel

/-! ## Hypotheses met: the field -/

/-- Connection 0 of lodge 0 on port 0, tenant 7, far connection 9. -/
def conn0 : Conn :=
  { lodge := 0, mac := 2, port := 0, tc := 1, ip := 77, tenant := 7, peer := 9, udp := 0, rate := 100, burst := 100, window := 8, dev := 70, error := false,
    tx := 5, rx := 3, queue := [], sent := [], again := none, sixteen := 0, tries := 0, naked := false, credit := 8000, tLast := 1000, parked := none,
    compl := 0, rxMsg := [], rxWait := [], rxTags := [], rxDone := none, change := none }
/-- Field port 0 UP, with a connection. -/
def fldState (c : Conn) : State :=
  ((((({ base with fld := { base.fld with conns := [(0, c)] }, lod := { base.lod with maxTok := [(5, 100000)], minTok := [(5, 100000)] } } : State).wr
    Reg.lnkCtrlMode 1 4).wr Reg.lnkStatusState 2 4).wr Reg.fldCtrlEnable 1).wr Reg.fldConnQuotaQuota 4 0).wr Reg.fldRetryRetryMax 3
/-- A FIELD command on connection 0 in Wain place 0. -/
def fldCmd (op : Nat) : Cmd := cmd 7 op [64, 0, 1024, 0xFFFF0000, 0, 0, 64]
theorem meets_FieldCommands :
    let t : State := { fldState conn0 with lod := { (fldState conn0).lod with tenants := [(7, 0)] } }
    let s := t.pokeRaw 0 1024 (leBytes 24 0 ++ leBytes 8 7 ++ leBytes 8 (4096 * 2 ^ 16 + 2 ^ 40) ++ leBytes 24 0)
    [1, 2, 3, 4, 5].all (fun op => runs (withJob 9 (job (fldCmd op)) s) 2 (wainPlace 0) 7 op (job (fldCmd op)) && !(fldCmd op).done) = true ∧
      s.readStatus 0 1024 64 = St.ok ∧ s.freeConn = some 1 ∧ s.connsFull 0 = false ∧ s.notOwn 0 0 = false ∧ s.connBusy 0 2 9 = false ∧
      s.inError 0 = false ∧ s.accessStatus 0 1024 64 = St.ok ∧ s.tenantLodge (s.ctxConn (fldCmd 1)).tenant = some 0 ∧
      s.ctxBad (fldCmd 1) = false := by decide +kernel
/-- A packet for connection 0. -/
def fin (psn : Nat) (payload : List Byte := []) : FIn :=
  ⟨0, 9, 7, 77, psn, true, true, false, 0, 0, 4, 64, 64, payload⟩
theorem meets_FieldPackets :
    let s := fldState conn0
    let rd : FPkt := ⟨2, 4, 2, true, true, false, 2, 9, some (fldCmd 5), 64, 1024, 2000, none, 0, false, []⟩
    let t := withJob 9 (job (fldCmd 5)) (fldState { conn0 with sent := [rd] })
    let far : FIn := { fin 3 with tenant := 8 }
    let pay := fin 3 (leBytes 8 (0x61 + 7 * 2 ^ 40) ++ List.replicate 56 0)
    s.fieldUp 0 = true ∧ s.on Reg.fldCtrlEnable = true ∧ s.acceptOn far false = none ∧ s.acceptOn (fin 3) false = some conn0 ∧
      psnDiff 3 conn0.rx = 0 ∧ (0 < psnDiff 4 conn0.rx ∧ psnDiff 4 conn0.rx < 2 ^ 31 ∧ conn0.naked = false) ∧ (fin 3).syndrome = 0 ∧
      (({ conn0 with sent := [rd] } : Conn).sent.find? (fun r => r.kind == 2 && decide (psnDiff 4 r.psn < r.count)) = some rd ∧
        psnDiff 4 rd.psn = rd.got ∧ rd.got + 1 < rd.count ∧ t.fieldOwner 2 9 rd.cmd = some (job (fldCmd 5))) ∧
      (s.acceptOn pay true = some conn0 ∧ pay.first = true ∧ pay.last = true ∧ pay.ackReq = false) := by decide +kernel
/-- The state whose packets the port chooses from, as FieldSending builds it. -/
def chosen (s : State) : State :=
  let a : State := { s with fld := { s.fld with conns := s.fld.conns.map fun e => (e.1, if e.2.port == 0 then e.2.changed s.now else e.2) } }
  let b := a.countStalls 0
  let d : State := { b with fld := { b.fld with conns := b.fld.conns.map fun e =>
    (e.1, if e.2.port == 0 && (b.headOf e.2).isSome then e.2.settled b.now else e.2) } }
  d.refreshTags 0 none
theorem meets_FieldSending :
    let f : FPkt := ⟨1, 4, 1, true, true, true, 2, 9, some (fldCmd 4), 64, 1024, 64, none, 0, false, []⟩
    let item : FItem := ⟨5, 160, 15, none, 0, 0, 64, none, 0, 0, List.replicate 64 1, false⟩
    let s := fldState { conn0 with sent := [f] }
    let c := (fldState conn0).modFport 0 fun p => { p with ctl := [⟨0, 0, 3, 0, 0, 0, 0⟩] }
    let d := fldState { conn0 with queue := [item] }
    (s.conn 0 = some { conn0 with sent := [f] } ∧ conn0.error = false ∧ conn0.tries < s.rd Reg.fldRetryRetryMax ∧
      ¬ (3 < s.rd Reg.fldRetryRetryMax)) ∧ s.fieldUp 0 = true ∧ ((chosen c).firstCtl 0).isSome = true ∧
      ((chosen d).firstCtl 0 = none ∧ ((chosen d).chooseData 0).isSome = true) ∧ (chosen (fldState conn0)).firstCtl 0 = none ∧
      (chosen (fldState conn0)).chooseData 0 = none := by decide +kernel
theorem meets_GatesAndFieldTime :
    let s := fldState conn0
    let g := (s.wr Reg.fldGclCtrlPending 1 0).wr Reg.fldTimeStatusValid 1
    let t := ((s.wr Reg.fldPtpCfgPtpEn 1).wr Reg.fldPtpCfgPorts 1).wr Reg.fldPtpCfgDomain 3
    ((s.modFport 0 fun f => { f with operLen := 2 }).fport 0).operLen ≠ 0 ∧ s.on Reg.fldGclCtrlPending 0 = false ∧ s.adminBad 0 = false ∧
      g.on Reg.fldGclCtrlPending 0 = true ∧ g.fieldValid = true ∧ t.ptpOn 0 3 = true ∧ t.fieldTime = 1000 ∧ t.fld.delay = 0 ∧
      ((100 : Int) ≤ (1000 : Int) - 900 ∧ (1000 : Int) - 900 ≤ 1000) ∧
      ({ s.fld with sync := some (1, 2), reqAt := some 3 } : Field).reqAt = some 3 := by decide +kernel

/-! ## Hypotheses met: health, power, registers, Porter -/

/-- The state at another bring-up stage. -/
def at_ (n : Nat) : State := base.wr Reg.glbStageStage n
/-- EventLogAndScores and CoresSlotsAndVerify. -/
theorem meets_HealthCommands :
    let h : State := { base with hlt := { base.hlt with held := [2], portq := List.replicate 32 ⟨0, 0, 0, 0, 1, 0, 0, 0⟩ },
                                 ldg := { base.ldg with slots := [(2, { Slot.idle with running := true })] } }
    let v := (base.wr Reg.hltVerifyEntries 1).wr Reg.hltVerifyAddrAddr 64
    (base.wr Reg.hltCtrlLogEn 0).on Reg.hltCtrlLogEn = false ∧ 32 ≤ h.hlt.portq.length ∧ ((at_ 3).stage = 3 ∧ (2 : Nat) ∉ (at_ 3).pwr.tested) ∧
      (2 ∈ h.hlt.held ∧ (h.slotOf 2).running = true) ∧ (let u := (base.wr Reg.hltShrinkMember 6).wr Reg.hltShrinkSlot 2; u.shrinking 2 = false ∧ member u.self ≠ 6) ∧
      (base.on Reg.hltVerifyBusy = false ∧ v.verifyRows.isSome = true ∧ ((v.wr Reg.hltVerifyBusy 1).on Reg.hltVerifyBusy = true)) := by
  decide +kernel
/-- PowerOnAndResets and PowerDowns. -/
theorem meets_PowerOnAndOff :
    let off := { base with pwr := { base.pwr with rails := 0 } }
    off.powered = false ∧ off.pwr.waitOn = false ∧ off.pwr.mrstDue = false ∧ base.powered = true ∧
      ({ base.pwr with refHeld := true } : Pwr).refHeld = true ∧ (base.reading 5 1023).powered = true ∧ 105 * 4 ≤ (1023 : Nat) := by decide +kernel
/-- `verifyBank b = 0` is a check of free values (the image and its signature): no state decides it. -/
theorem meets_BringUp :
    (at_ 0).stage = 0 ∧ (at_ 0).powered = true ∧ (at_ 0).pwr.refHeld = false ∧ (at_ 0).on Reg.tlgStatusBootFail = false ∧
      ((at_ 1).stage = 1 ∧ 28 ≤ popcount 32 (2 ^ 28 - 1)) ∧ ((at_ 2).stage = 2 ∧ 3 ≤ (at_ 2).rd Reg.rveBringupStopAt) ∧
      ((({ at_ 3 with pwr := { base.pwr with tested := natsFrom 0 160 } } : State).paused) = true ∧ (at_ 3).allIdle = true) := by decide +kernel
/-- CapsAndPower, SensorsAndPps and EncryptionKeys. -/
theorem meets_PowerAndSensors :
    let l := (base.wr Reg.rveCapCapW 400).wr Reg.rveLimitTableDuty 20
    let hot (n : Nat) : State := { base with pwr := { base.pwr with hot := [n] } }
    ((base.core 2).queue = [] ∧ (base.core 2).places = []) ∧ (l.rd Reg.rveCapCapW < 401 ∧ 8 < l.rd Reg.rveLimitTableDuty) ∧
      (base.reading 0 1023).rd Reg.rveThermThrottleC * 4 ≤ 1023 ∧
      0 < ((base.reading 0 0).rd Reg.rveThermThrottleC - (base.reading 0 0).rd Reg.rveThermHystC) * 4 ∧
      ((5 : Nat) ∉ (base.reading 5 380).pwr.hot ∧ 95 * 4 ≤ 380 ∧ (5 : Nat) ∈ ((hot 5).reading 5 380).pwr.hot ∧ (359 : Nat) < (95 - 5) * 4) ∧
      base.holdsOuter 0 = false ∧ base.on Reg.memLodgeCfgEncrypt 0 = false ∧ (base.wr Reg.memLodgeCfgEncrypt 1 0).on Reg.memLodgeCfgEncrypt 0 = true ∧
      (base.wr Reg.memLodgeCfgEncrypt 1 0).tlg.debug = false ∧
      ({ base with mem := { base.mem with pages := [(0, ⟨2, 0, 1, false, 0, 0, 0, 0, none, false⟩)] } } : State).holdsOuter 0 = true := by
  decide +kernel
/-- The offset of a register in BAR0. -/
def offOf (f : Fld) (i : Nat := 0) : Nat := f.key i 0 / 32 * 4
/-- RegisterWrites, WritesStayInTheirRegister and RegisterReads. -/
theorem meets_RegisterAccesses :
    let t := offOf Reg.spnTimingLossUs
    let w := offOf Reg.lodCfgWeight
    let c := offOf Reg.rveCapCapW
    let r := offOf Reg.nbuRowstepCount
    base.reached .host = true ∧ base.reached .porter = true ∧
      (t % 4 = 0 ∧ t < 2 ^ 26 ∧ portWrites .host t = true ∧ msixWord t = none ∧ (special.all fun e => (e.1.hit t).isNone) = true ∧
        base.outOfRange t (10 + 100 * 2 ^ 16) = false ∧ base.breaks (base.store t (10 + 100 * 2 ^ 16)) t = false) ∧
      ((special.all fun e => (e.1.hit w).isNone) = true ∧ portWrites .host w = true ∧ msixWord w = none ∧ base.outOfRange w 0 = true) ∧
      (portWrites .host 0x840000 = true ∧ msixWord 0x840000 = some 0) ∧
      (portWrites .host c = true ∧ msixWord c = none ∧ (special.findSome? fun e => (e.1.hit c).map fun q => q.1) = some 0) ∧
      portWrites .porter 0x3FFFFFC = false ∧
      (r + 4 < 2 ^ 26 ∧ r % 4 = 0 ∧ portReads .host r = true ∧ isLow r = true ∧ isHigh (r + 4) = true ∧ portReads .host (r + 4) = true) ∧
      (portReads .host t = true ∧ isLow t = false) := by decide +kernel
theorem meets_PorterFrames :
    let u := (base.wr Reg.prtCtrlUartEn 1).wr Reg.prtUartMode 1
    (base.portOn .smbus = true ∧ base.portOn .spi = true ∧ u.portOn .uart = true ∧ base.porterLive = true) ∧
      ((base.shiftOut .smbus).writeRun (offOf Reg.spnTimingLossUs) [10 + 100 * 2 ^ 16]).stage ≠ 0 ∧
      offOf Reg.spnTimingLossUs % 4 = 0 ∧ offOf Reg.spnTimingLossUs + 4 ≤ 2 ^ 26 ∧ 2 ^ 25 - 4 + 4 * 1 ≤ 2 ^ 25 := by decide +kernel
theorem meets_PorterPower :
    let off := { base with pwr := { base.pwr with rails := 1, waitOn := true } }
    let hot := { off with pwr := { off.pwr with temps := [(5, 1000)] } }
    (base.powered = true ∧ base.drained = true ∧ (withJob 0 (job (cmd 2 5))).drained = false ∧ (withJob 0 (job (cmd 2 5))).powered = true) ∧
      (off.powered = false ∧ off.coolEnough = true ∧ off.porterLive = true ∧ off.portOn .smbus = true) ∧
      (hot.powered = false ∧ hot.coolEnough = false ∧ hot.porterLive = true) := by decide +kernel
theorem meets_PorterTransports :
    let u := (base.wr Reg.prtCtrlUartEn 1).wr Reg.prtUartMode 1
    base.listens .smbus = true ∧ base.listens .spi = true ∧ u.listens .uart = true ∧ u.on Reg.prtCtrlUartEn = true ∧ u.porterLive = true ∧
      (57 % 8 ≠ 0 ∧ 48 % 8 = 0 ∧ 48 < 56 ∧ 64 % 8 = 0 ∧ 56 ≤ 64 ∧ 8 * 7 < 64) := by decide +kernel

/-! ## Worked examples of the spec -/

/-- "MXFP4 encoding of one block": 5.3, −0.8, 2.5, 7.9 and zeros. -/
theorem test_mxfp4_block : let r := encodeRow .mxfp4 ([0x40A9999A, 0xBF4CCCCD, 0x40200000, 0x40FCCCCD] ++ List.replicate 28 0)
    r.val = ([0xA7, 0x74] ++ List.replicate 14 0, [0x7F]) := by decide +kernel
/-- "KV4 append of one block": 1.9, −0.6, 0.703125, 0.14. -/
theorem test_kv4_block : (encodeRow .kv4 ([0x3FF33333, 0xBF19999A, 0x3F340000, 0x3E0F5C29] ++ List.replicate 28 0)).val =
    ([0xE7, 0x02] ++ List.replicate 14 0, [0x29]) := by decide +kernel
/-- "One result from every group size": partials 2^24, 1, 1, 1 give 16,777,218. -/
theorem test_tree_order : (contract 256 fun i =>
    rd32 (if i = 0 then 0x4B800000 else if i = 4 ∨ i = 8 ∨ i = 12 then 0x3F800000 else 0)).val = 0x4B800001 := by decide +kernel
/-- "One coded block": the table, 70 bits and the block they decode to. -/
def codedBody : List Byte :=
  [1, 0, 0, 0, 0, 0, 0, 0, 0x30] ++ List.replicate 50 0 ++ [0x20] ++ List.replicate 60 0 ++ [3] ++ List.replicate 7 0 ++ [0x64, 0xE4] ++
    List.replicate 14 0
theorem test_coded_block : decodePayload true 70 64 codedBody =
    some ([0, 0, 0x77, 0, 0x11, 0, 0, 0x77, 0, 0xF0, 0, 0] ++ List.replicate 52 0) := by decide +kernel
/-- The same with bit 3 of the first code byte inverted: the decoded length is wrong. -/
theorem test_damaged_block : decodePayload true 70 64 (codedBody.set 128 0x6C) = none := by decide +kernel
/-- Adding the partials of the ranking bag in home order: −1.125, 12.5, 1.5 (R262). -/
theorem test_bag_order : ((add32 0xBF900000 0x41480000).bind fun x => add32 x 0x3FC00000).val = 0x414E0000 := by decide +kernel
/-- The wait of R303 passes the wrap of the count. -/
theorem test_wait_wraps : waitMet 3 0xFFFFFFFE = true ∧ waitMet 0xFFFFFFFE 3 = false := by decide
/-- CAP_W 450: TABLE_DUTY 40 and RATE 41. -/
theorem test_cap_450 : (base.capWrite 450).rd Reg.rveLimitTableDuty = 40 ∧ (base.capWrite 450).pwr.target = (40, 41) := by decide +kernel

/-! ## The cipher of T2 and T3 (R198) -/

/-- AES-256 on the example of FIPS 197, appendix C.3. -/
theorem test_aes256 : aes256 (natsFrom 0 32) ((natsFrom 0 16).map (· * 17)) =
    [0x8E, 0xA2, 0xB7, 0xCA, 0x51, 0x67, 0x45, 0xBF, 0xEA, 0xFC, 0x49, 0x90, 0x4B, 0x49, 0x60, 0x89] := by decide +kernel
/-- The keys of vector 10 of IEEE 1619. -/
def xtsKeys : List Nat :=
  [0x27, 0x18, 0x28, 0x18, 0x28, 0x45, 0x90, 0x45, 0x23, 0x53, 0x60, 0x28, 0x74, 0x71, 0x35, 0x26, 0x62, 0x49, 0x77, 0x57, 0x24,
   0x70, 0x93, 0x69, 0x99, 0x59, 0x57, 0x49, 0x66, 0x96, 0x76, 0x27, 0x31, 0x41, 0x59, 0x26, 0x53, 0x58, 0x97, 0x93, 0x23, 0x84,
   0x62, 0x64, 0x33, 0x83, 0x27, 0x95, 0x02, 0x88, 0x41, 0x97, 0x16, 0x93, 0x99, 0x37, 0x51, 0x05, 0x82, 0x09, 0x74, 0x94, 0x45, 0x92]
/-- XTS-AES-256 on the first two blocks of that vector: data unit 0xFF, bytes 0 to 31. -/
theorem test_xts : xtsEncrypt xtsKeys 0xFF (natsFrom 0 32) =
    [0x1C, 0x3B, 0x3A, 0x10, 0x2F, 0x77, 0x03, 0x86, 0xE4, 0x83, 0x6C, 0x99, 0xE3, 0x70, 0xCF, 0x9B, 0xEA, 0x00, 0x80, 0x3F, 0x5E,
     0x48, 0x23, 0x57, 0xA4, 0xAE, 0x12, 0xD4, 0x14, 0xA3, 0xE6, 0x3B] := by decide +kernel

end Sys2Proof.Tests
end

section
/-!
PROOFS. The statements of 00_scope.md: what every step keeps, the state after reset, the fields of registers, the round-robin grants and the
accesses to BAR0.
-/

namespace Sys2Proof.Machine

/-! ## Steps -/

/-- A step with no command waiting is a tick. -/
theorem step_of_empty {s : State} (h : s.pending = []) : step s = .next s.tick := by
  simp only [step, h]

/-- A step with a command waiting is exec of it on the queue's rest. -/
theorem step_of_front {s : State} {c : Instr} {r : List Instr} (h : s.pending = c :: r) :
    step s = exec c { s with pending := r } := by
  simp only [step, h]

/-- The canonical forms say nothing of the queue. -/
theorem State.Inv.setPending {s : State} (h : s.Inv) (q : List Instr) : ({ s with pending := q } : State).Inv :=
  ⟨h.bytes, h.store, h.pad, h.host, h.regs, h.cores⟩

/-- A step keeps all that an operation keeps, from the state whose queue has lost its front. -/
theorem step_keeps {s t : State} (e : step s = .next t) : Keeps { s with pending := s.pending.tail } t := by
  cases hq : s.pending with
  | nil =>
    rw [step_of_empty hq, Host.Outcome.next.injEq] at e
    subst e
    exact State.tick_keeps ⟨hq, rfl, rfl, fun i => i.setPending s.pending⟩
  | cons c r =>
    rw [step_of_front hq] at e
    exact exec_keeps e

/-- Settles O3: every command and the tick of an empty queue keep the canonical forms. -/
theorem everyStepKeepsInv : Obligations.EveryStepKeepsInv := by
  unfold Obligations.EveryStepKeepsInv
  intro s t hs e
  have k := step_keeps e
  exact ⟨k.inv (hs.setPending _), k.pending, k.variant, k.debug⟩

/-! ## The state after reset -/

/-- No field has been written after reset (R14). -/
@[simp] theorem State.reset_rd (f : Fld) (i j : Nat) : State.reset.rd f i j = f.reset i := rfl

/-- Every byte of lodge memory reads zero after reset. -/
theorem State.reset_peek (l a n : Nat) : (State.reset.peek l a n).all (· == 0) = true := by
  have hz : State.reset.peek l a n = (natsFrom (memKey l a) n).map fun _ => (0 : Byte) := rfl
  rw [hz, List.all_map, List.all_eq_true]
  exact fun _ _ => rfl

/-- The state after reset is in canonical form: every table is empty. -/
theorem State.reset_inv : State.reset.Inv := ⟨rfl, rfl, rfl, rfl, rfl, rfl⟩

/-- Settles O4: every table is empty after reset, so a field reads its reset value and a byte reads zero. -/
theorem resetState : Obligations.ResetState := by
  unfold Obligations.ResetState
  refine ⟨State.reset_inv, rfl, rfl, rfl, State.reset_rd, fun c => rfl, fun l => ?_, rfl, fun c p => rfl, fun l => rfl, State.reset_peek⟩
  exact Nat.add_comm l 1

/-! ## Register fields (R10, R13) -/

/-- The sum that saturates is the lesser of the sum and the maximum. -/
theorem satAdd_eq_min (m a b : Nat) : satAdd m a b = min m (a + b) := by
  unfold satAdd
  split <;> omega

/-- A counter that saturates stops at its maximum. -/
theorem State.rd_bump_self {s : State} {f : Fld} {v i j : Nat} (h : s.Inv) :
    (s.bump f v i j).rd f i j = min (2 ^ f.width - 1) (s.rd f i j + v) := by
  have hpos : 0 < 2 ^ f.width := Nat.two_pow_pos _
  rw [State.bump, State.rd_wr_self h, satAdd_eq_min]
  exact Nat.mod_eq_of_lt (by omega)

/-- A free-running counter wraps at its width. -/
theorem State.rd_count_self {s : State} {f : Fld} {v i j : Nat} (h : s.Inv) :
    (s.count f v i j).rd f i j = (s.rd f i j + v) % 2 ^ f.width :=
  State.rd_wr_self h

/-- `t` is `s` but for registers, and those only at the keys `K`; registers in canonical form stay so. -/
structure RegsWithin (K : Nat → Prop) (s t : State) : Prop where
  /-- everything that is no register stays -/
  rest : t = { s with regs := t.regs }
  /-- the keys still rise -/
  rising : Tbl.rising s.regs = true → Tbl.rising t.regs = true
  /-- every other register stays -/
  frame : Tbl.rising s.regs = true → ∀ d k, ¬ K k → Tbl.get d k t.regs = Tbl.get d k s.regs

namespace RegsWithin

variable {K : Nat → Prop} {s t u : State}

theorem refl (s : State) : RegsWithin K s s := ⟨rfl, id, fun _ _ _ _ => rfl⟩

theorem trans (h : RegsWithin K s t) (g : RegsWithin K t u) : RegsWithin K s u where
  rest := by rw [g.rest, h.rest]
  rising i := g.rising (h.rising i)
  frame i d k n := (g.frame (h.rising i) d k n).trans (h.frame i d k n)

theorem wr (s : State) {f : Fld} {i j : Nat} (v : Nat) (hk : K (f.key i j)) : RegsWithin K s (s.wr f v i j) where
  rest := rfl
  rising := Tbl.rising_set
  frame i d _ n := Tbl.get_set_apart _ d (fun e => n (e ▸ hk)) i

theorem foldl {α : Type} {f : State → α → State} {l : List α} (hf : ∀ u, ∀ a ∈ l, RegsWithin K u (f u a)) :
    RegsWithin K s (l.foldl f s) := by
  induction l generalizing s with
  | nil => exact refl s
  | cons a r ih =>
    exact (hf s a List.mem_cons_self).trans (ih fun u b hb => hf u b (List.mem_cons_of_mem a hb))

end RegsWithin

/-- A plain write touches only the fields of its register. -/
theorem State.store_within (s : State) (off v : Nat) :
    RegsWithin (fun k => ∃ e ∈ regFields off, k = e.1.key e.2.1 e.2.2) s (s.store off v) := by
  unfold State.store
  refine RegsWithin.foldl fun u e he => ?_
  cases hty : e.1.ty with
  | rw | w1c => exact RegsWithin.wr u _ ⟨e, he, rfl⟩
  | ro | wo | rc | dv => exact RegsWithin.refl u

/-- Settles O5: a register file in canonical form reads back what was written, and a write stays at its key. -/
theorem registerFields : Obligations.RegisterFields := by
  unfold Obligations.RegisterFields
  refine ⟨fun s f g v i j a b hs => ⟨State.rd_wr_self hs, State.rd_bump_self hs, State.rd_count_self hs, fun hne => ?_⟩,
    fun s off v hs => ?_⟩
  · exact ⟨State.rd_wr_other hs hne, State.rd_wr_other hs hne, State.rd_wr_other hs hne⟩
  · have hw := State.store_within s off v
    refine ⟨hw.rest, fun d k hk => hw.frame hs.regs d k ?_⟩
    rintro ⟨e, he, rfl⟩
    exact hk e he rfl

/-! ## The round-robin grants (R504) -/

/-- The counts of the smooth weighted round-robin after each requester's weight is added. -/
def wrrRaise (cur : Tbl Int) (base : Nat) (weight : Nat → Nat) (reqs : List Nat) : Tbl Int :=
  reqs.foldl (fun (c : Tbl Int) i => Tbl.set 0 (base + i) (Tbl.get 0 (base + i) c + (weight i : Int)) c) cur

section
variable {cur : Tbl Int} {base : Nat} {weight : Nat → Nat}

theorem wrrRaise_rising (h : Tbl.rising cur = true) (reqs : List Nat) : Tbl.rising (wrrRaise cur base weight reqs) = true := by
  induction reqs generalizing cur with
  | nil => exact h
  | cons i r ih => exact ih (Tbl.rising_set h)

/-- Who does not request keeps its count. -/
theorem get_wrrRaise_other (h : Tbl.rising cur = true) {reqs : List Nat} {k : Nat} (hk : ∀ i ∈ reqs, k ≠ base + i) :
    Tbl.get 0 k (wrrRaise cur base weight reqs) = Tbl.get 0 k cur := by
  induction reqs generalizing cur with
  | nil => rfl
  | cons i r ih =>
    rw [List.forall_mem_cons] at hk
    exact (ih (Tbl.rising_set h) hk.2).trans (Tbl.get_set_apart 0 0 hk.1 h)

/-- A requester's count rises by its weight. -/
theorem get_wrrRaise_self (h : Tbl.rising cur = true) {reqs : List Nat} (hn : reqs.Nodup) {i : Nat} (hi : i ∈ reqs) :
    Tbl.get 0 (base + i) (wrrRaise cur base weight reqs) = Tbl.get 0 (base + i) cur + weight i := by
  induction reqs generalizing cur with
  | nil => exact absurd hi List.not_mem_nil
  | cons a r ih =>
    obtain ⟨ha, hr⟩ := List.nodup_cons.1 hn
    have hs := Tbl.rising_set (d := 0) (k := base + a) (v := Tbl.get 0 (base + a) cur + (weight a : Int)) h
    rcases List.mem_cons.1 hi with rfl | hir
    · refine (get_wrrRaise_other hs fun b hb e => ha ?_).trans (Tbl.get_set_rising 0 h)
      rwa [Nat.add_left_cancel e]
    · refine (ih hs hr hir).trans ?_
      rw [Tbl.get_set_apart 0 0 (fun e => ha (by rwa [← Nat.add_left_cancel e])) h]

/-- The first maximum of the counts over `w` and the list after it. -/
def wrrBest (count : Nat → Int) : Nat → List Nat → Nat
  | w, [] => w
  | w, i :: r => wrrBest count (if count w < count i then i else w) r

/-- Keeping the larger of two, the earlier on a tie, finds the first maximum. -/
theorem foldl_match_eq_wrrBest (count : Nat → Int) (w : Nat) (l : List Nat) :
    l.foldl (fun (b : Option Nat) i =>
      match b with
      | none => some i
      | some j => if count j < count i then some i else some j) (some w) = some (wrrBest count w l) := by
  induction l generalizing w with
  | nil => rfl
  | cons i r ih =>
    rw [List.foldl_cons, wrrBest, ← ih, apply_ite some]

/-- The first maximum over a list in ascending order: no count is larger, and a count as large has no lower index. -/
theorem wrrBest_of_ascending {count : Nat → Int} {w : Nat} {l : List Nat} (hs : (w :: l).Pairwise (· < ·)) :
    wrrBest count w l ∈ w :: l ∧
      ∀ i ∈ w :: l, count i < count (wrrBest count w l) ∨ (count i = count (wrrBest count w l) ∧ wrrBest count w l ≤ i) := by
  induction l generalizing w with
  | nil =>
    refine ⟨List.mem_cons_self, fun i hi => .inr ?_⟩
    rw [List.mem_singleton.1 hi]
    exact ⟨rfl, Nat.le_refl w⟩
  | cons a r ih =>
    obtain ⟨hw, har⟩ := List.pairwise_cons.1 hs
    obtain ⟨hwa, hwr⟩ := List.forall_mem_cons.1 hw
    rw [wrrBest]
    by_cases hlt : count w < count a
    · rw [if_pos hlt]
      obtain ⟨hmem, hbest⟩ := ih har
      have ha := hbest a List.mem_cons_self
      exact ⟨List.mem_cons_of_mem w hmem, List.forall_mem_cons.2 ⟨by omega, hbest⟩⟩
    · rw [if_neg hlt]
      obtain ⟨hmem, hbest⟩ := ih (List.pairwise_cons.2 ⟨hwr, (List.pairwise_cons.1 har).2⟩)
      obtain ⟨hbw, hbr⟩ := List.forall_mem_cons.1 hbest
      refine ⟨?_, List.forall_mem_cons.2 ⟨hbw, List.forall_mem_cons.2 ⟨by omega, hbr⟩⟩⟩
      rcases List.mem_cons.1 hmem with e | hr
      · exact List.mem_cons.2 (.inl e)
      · exact List.mem_cons_of_mem w (List.mem_cons_of_mem a hr)

/-- The winner is the first requester with the largest raised count, and pays the sum of the weights. -/
theorem wrrGrant_cons (i : Nat) (r : List Nat) :
    wrrGrant cur base weight (i :: r) =
      let raised := wrrRaise cur base weight (i :: r)
      let w := wrrBest (fun j => Tbl.get 0 (base + j) raised) i r
      (Tbl.set 0 (base + w) (Tbl.get 0 (base + w) raised - (((i :: r).map weight).sum : Int)) raised, some w) := by
  have hbest := foldl_match_eq_wrrBest (fun j => Tbl.get 0 (base + j) (wrrRaise cur base weight (i :: r))) i r
  dsimp only [wrrGrant]
  split
  next e => exact absurd (hbest.symm.trans e) (Option.some_ne_none _)
  next v e =>
    obtain rfl := Option.some.inj (hbest.symm.trans e)
    rw [List.sum_eq_foldl]
    rfl

end

/-- The head of a list in ascending order is its least. -/
theorem head_le_of_ascending {w : Nat} {r : List Nat} (hs : (w :: r).Pairwise (· < ·)) : ∀ i ∈ w :: r, w ≤ i :=
  List.forall_mem_cons.2 ⟨Nat.le_refl w, fun _ hi => Nat.le_of_lt (List.rel_of_pairwise_cons hs hi)⟩

/-- The pick of a list in ascending order: the first at or after the pointer, or the first of all when every one lies before it. -/
theorem rrPick_of_ascending {ptr : Nat} {reqs : List Nat} (hs : reqs.Pairwise (· < ·)) (hne : reqs ≠ []) :
    ∃ w ∈ reqs, rrPick ptr reqs = some w ∧
      ((ptr ≤ w ∧ ∀ i ∈ reqs, ptr ≤ i → w ≤ i) ∨ ((∀ i ∈ reqs, i < ptr) ∧ ∀ i ∈ reqs, w ≤ i)) := by
  cases hf : reqs.find? (fun i => decide (ptr ≤ i)) with
  | some w =>
    have hpick : rrPick ptr reqs = some w := by simp only [rrPick, hf]
    obtain ⟨hw, before, after, rfl, hbefore⟩ := List.find?_eq_some_iff_append.1 hf
    refine ⟨w, List.mem_append_right before List.mem_cons_self, hpick, .inl ⟨of_decide_eq_true hw, fun i hi hp => ?_⟩⟩
    rcases List.mem_append.1 hi with hi | hi
    · exact absurd hp (by simpa only [Bool.not_eq_true', decide_eq_false_iff_not] using hbefore i hi)
    · exact head_le_of_ascending (List.pairwise_append.1 hs).2.1 i hi
  | none =>
    obtain ⟨w, r, rfl⟩ := List.exists_cons_of_ne_nil hne
    have hpick : rrPick ptr (w :: r) = some w := by simp only [rrPick, hf, List.head?_cons]
    have hall : ∀ i ∈ w :: r, i < ptr := fun i hi =>
      Nat.lt_of_not_le fun hp => List.find?_eq_none.1 hf i hi (decide_eq_true hp)
    exact ⟨w, List.mem_cons_self, hpick, .inr ⟨hall, head_le_of_ascending hs⟩⟩

/-- Settles O7: the winner is the first maximum of the raised counts, and only the requesters' counts are touched. -/
theorem weightedGrants : Obligations.WeightedGrants := by
  unfold Obligations.WeightedGrants
  intro cur base ptr weight reqs hcur hs hne g up
  have hup : ∀ i ∈ reqs, Tbl.get 0 (base + i) (wrrRaise cur base weight reqs) = up i := fun i hi =>
    get_wrrRaise_self hcur (hs.imp Nat.ne_of_lt) hi
  have hrise := wrrRaise_rising (base := base) (weight := weight) hcur reqs
  obtain ⟨w, hg, hmem, hbest⟩ : ∃ w,
      g = (Tbl.set 0 (base + w) (Tbl.get 0 (base + w) (wrrRaise cur base weight reqs) - ((reqs.map weight).sum : Int))
        (wrrRaise cur base weight reqs), some w) ∧ w ∈ reqs ∧ ∀ i ∈ reqs, up i < up w ∨ (up i = up w ∧ w ≤ i) := by
    obtain ⟨a, r, rfl⟩ := List.exists_cons_of_ne_nil hne
    obtain ⟨hmem, hbest⟩ := wrrBest_of_ascending (count := fun j => Tbl.get 0 (base + j) (wrrRaise cur base weight (a :: r))) hs
    refine ⟨_, wrrGrant_cons a r, hmem, fun i hi => ?_⟩
    rw [← hup i hi, ← hup _ hmem]
    exact hbest i hi
  refine ⟨⟨w, hmem, by rw [hg], hbest, fun i hi => ?_⟩, fun k hk => ?_, rrPick_of_ascending hs hne⟩
  · rw [hg]
    split
    next e =>
      subst e
      rw [Tbl.get_set_rising 0 hrise, hup i hi]
    next e =>
      rw [Tbl.get_set_apart 0 0 (by omega) hrise, hup i hi, Int.sub_zero]
  · rw [hg, Tbl.get_set_apart 0 0 (hk w hmem) hrise]
    exact get_wrrRaise_other hcur hk

/-! ## Accesses to BAR0: writes (R10, R12, R46, R325) -/

theorem exec_registerWrite (p : BusPort) (off : Nat) (w : Word32) (s : State) :
    exec (.registerWrite p off w) s = .next (s.busStore p off w.toNat).choices := rfl

theorem exec_readClear (p : BusPort) (off : Nat) (s : State) : exec (.readClear p off) s = .next (s.busLoad p off) := rfl

theorem exec_lowHalfRead (p : BusPort) (off : Nat) (s : State) : exec (.lowHalfRead p off) s = .next (s.busLoad p off) := rfl

theorem exec_bar0BadAccess (write : Bool) (off size : Nat) (s : State) :
    exec (.bar0BadAccess write off size) s = .next (s.badSize write off size) := rfl

section
variable {s : State} {p : BusPort} {off v : Nat}

/-- The access goes on: its port reaches the device and its offset lies in BAR0. -/
theorem State.reached_inside (hr : s.reached p = true) (ho : off < 2 ^ 26) :
    ¬ (!s.reached p || decide (2 ^ 26 ≤ off)) = true := by
  rw [hr, decide_eq_false (Nat.not_le.2 ho)]
  exact Bool.false_ne_true

/-- An aligned write inside BAR0 by a port that reaches the device goes to the register. -/
theorem State.busStore_of_aligned (hr : s.reached p = true) (ho : off < 2 ^ 26) (ha : off % 4 = 0) :
    s.busStore p off v = s.busWrite p off v := by
  rw [State.busStore, if_neg (State.reached_inside hr ho), if_neg (fun h => h ha)]

/-- A misaligned write of the host is a bad access. -/
theorem State.busStore_of_misaligned (hr : s.reached .host = true) (ho : off < 2 ^ 26) (ha : off % 4 ≠ 0) :
    s.busStore .host off v = s.badAccess := by
  rw [State.busStore, if_neg (State.reached_inside hr ho), if_pos ha, if_pos rfl]

theorem State.busWrite_of_granted (h : portWrites p off = true) : s.busWrite p off v = s.regWrite off v :=
  if_pos h

/-- A write denied to the host is counted by the host interface. -/
theorem State.busWrite_of_host_denied (h : portWrites .host off = false) : s.busWrite .host off v = s.discard :=
  if_neg (h ▸ Bool.false_ne_true)

/-- A write denied to Porter is counted by Porter. -/
theorem State.busWrite_of_porter_denied (h : portWrites .porter off = false) :
    s.busWrite .porter off v = s.bump Reg.prtRefusedCount :=
  if_neg (h ▸ Bool.false_ne_true)

theorem State.regWrite_msix {k : Nat} (h : msixWord off = some k) : s.regWrite off v = s.msixWrite k v := by
  simp only [State.regWrite, h]

/-- A register whose write is an action has its own effect. -/
theorem State.regWrite_special {f : State → Nat → Nat → Nat → State} {i : Nat} (hm : msixWord off = none)
    (h : (special.findSome? fun e => (e.1.hit off).map fun q => (e.2, q.1)) = some (f, i)) : s.regWrite off v = f s off i v := by
  simp only [State.regWrite, hm, h]

/-- A plain register takes its bits unless a range or a rule refuses them. -/
theorem State.regWrite_plain (hm : msixWord off = none) (hsp : ∀ e ∈ special, e.1.hit off = none) :
    s.regWrite off v =
      if s.outOfRange off v then s.discard
      else if s.breaks (s.store off v) off then s.refuseWrite off else (s.store off v).afterWrite off v := by
  have hnone : (special.findSome? fun e => (e.1.hit off).map fun q => (e.2, q.1)) = none :=
    List.findSome?_eq_none_iff.2 fun e he => by rw [hsp e he, Option.map_none]
  simp only [State.regWrite, hm, hnone]

/-- A write that its port may make has the effect of its register. -/
theorem exec_registerWrite_granted {w : Word32} (hr : s.reached p = true) (ho : off < 2 ^ 26) (ha : off % 4 = 0)
    (hp : portWrites p off = true) : exec (.registerWrite p off w) s = .next (s.regWrite off w.toNat).choices := by
  rw [exec_registerWrite, State.busStore_of_aligned hr ho ha, State.busWrite_of_granted hp]

/-- An access of another size or alignment is counted; a read gives zero. -/
theorem State.badSize_of_bad {size : Nat} (hr : s.reached .host = true) (hb : ¬ (size = 4 ∧ off % 4 = 0)) (write : Bool) :
    s.badSize write off size =
      if write then s.badAccess else { s.badAccess with hif := { s.badAccess.hif with lastRead := 0 } } := by
  have hc : ¬ (!s.reached .host || (size == 4 && off % 4 == 0)) = true := by
    simp only [hr, Bool.not_true, Bool.false_or, Bool.and_eq_true, beq_iff_eq]
    exact hb
  rw [State.badSize, if_neg hc]

end

/-! ## Accesses to BAR0: reads (R10, R12) -/

/-- The registers after the read-clear fields of the register at `off` are cleared. -/
def rcCleared (off : Nat) (r : Tbl Nat) : Tbl Nat :=
  ((regFields off).filter fun e => e.1.ty == .rc).foldl (fun (r : Tbl Nat) e =>
    Tbl.set (e.1.reset e.2.1) (e.1.key e.2.1 e.2.2) 0 r) r

/-- The state whose port latch is loaded by a read of a low half. -/
def State.latched (s : State) (p : BusPort) (off : Nat) : State :=
  if isLow off then s.setLatch p (off, s.regValue (off + 4)) else s

/-- Writing zeros to fields changes registers alone. -/
theorem foldl_wr_zero (l : List (Fld × Nat × Nat)) (s : State) :
    l.foldl (fun (s : State) e => s.wr e.1 0 e.2.1 e.2.2) s =
      { s with regs := l.foldl (fun (r : Tbl Nat) e => Tbl.set (e.1.reset e.2.1) (e.1.key e.2.1 e.2.2) 0 r) s.regs } := by
  induction l generalizing s with
  | nil => rfl
  | cons e r ih =>
    rw [List.foldl_cons, List.foldl_cons, ih]
    simp only [State.wr, Nat.zero_mod]

theorem State.clearRc_eq (s : State) (off : Nat) : s.clearRc off = { s with regs := rcCleared off s.regs } :=
  foldl_wr_zero _ s

section
variable {s : State} {p q : BusPort} {off : Nat}

theorem State.latch_setLatch_self (x : Nat × Nat) : (s.setLatch p x).latch p = some x := by
  cases p <;> rfl

theorem State.latch_setLatch_other (x : Nat × Nat) (h : q ≠ p) : (s.setLatch p x).latch q = s.latch q := by
  cases p with
  | host => simp only [State.latch, State.setLatch, if_neg h]
  | porter =>
    cases q with
    | host => rfl
    | porter => exact absurd rfl h

/-- Loading a latch changes the host interface alone. -/
theorem State.setLatch_eq (x : Nat × Nat) : s.setLatch p x = { s with hif := (s.setLatch p x).hif } := by
  cases p <;> rfl

theorem State.setLatch_mem (x : Nat × Nat) : (s.setLatch p x).hif.mem = s.hif.mem := by
  cases p <;> rfl

theorem State.latched_of_low (h : isLow off = true) : s.latched p off = s.setLatch p (off, s.regValue (off + 4)) :=
  if_pos h

theorem State.latched_of_not_low (h : isLow off = false) : s.latched p off = s :=
  if_neg (h ▸ Bool.false_ne_true)

theorem State.latched_eq : s.latched p off = { s with hif := (s.latched p off).hif } := by
  cases h : isLow off with
  | false => rw [State.latched_of_not_low h]
  | true => rw [State.latched_of_low h, ← State.setLatch_eq]

theorem State.latched_mem : (s.latched p off).hif.mem = s.hif.mem := by
  cases h : isLow off with
  | false => rw [State.latched_of_not_low h]
  | true => rw [State.latched_of_low h, State.setLatch_mem]

theorem State.latch_latched_other (hq : q ≠ p) : (s.latched p off).latch q = s.latch q := by
  cases h : isLow off with
  | false => rw [State.latched_of_not_low h]
  | true => rw [State.latched_of_low h, State.latch_setLatch_other _ hq]

theorem State.regRead_fst : (s.regRead p off).1 = { s with regs := rcCleared off s.regs, hif := (s.latched p off).hif } := by
  have h : (s.regRead p off).1 = (s.latched p off).clearRc off := rfl
  rw [h, State.clearRc_eq, State.latched_eq]

/-- A port that has read no low half reads the register. -/
theorem State.regRead_snd_of_no_latch (h : s.latch p = none) : (s.regRead p off).2 = s.regValue off := by
  simp only [State.regRead, h, ite_self]

/-- A port reads its latch at the high half of the low half it has read, and the register everywhere else. -/
theorem State.regRead_snd_of_latch {b h : Nat} (hl : s.latch p = some (b, h)) :
    (s.regRead p off).2 = if isHigh off ∧ b + 4 = off then h else s.regValue off := by
  simp only [State.regRead, hl]
  cases isHigh off with
  | false => rw [if_neg Bool.false_ne_true, if_neg fun h => Bool.false_ne_true h.1]
  | true => simp only [if_true, true_and]

/-- What an aligned read inside BAR0 leaves, by a port that reaches the device and may read there. -/
theorem State.busLoad_of_readable (hr : s.reached p = true) (ho : off < 2 ^ 26) (ha : off % 4 = 0) (hp : portReads p off = true) :
    s.busLoad p off =
      { s with regs := rcCleared off s.regs
               hif := { (s.latched p off).hif with lastRead := BitVec.ofNat 32 (s.regRead p off).2 } } := by
  rw [State.busLoad, if_neg (State.reached_inside hr ho), if_neg (fun h => h ha), State.busRead, if_pos hp]
  dsimp only
  rw [State.regRead_fst]

end

/-- Settles O44: a write goes the way of its register's kind, a read leaves the latch and the cleared fields. -/
theorem registerAccesses : Obligations.RegisterAccesses := by
  unfold Obligations.RegisterAccesses
  refine ⟨fun s p off w ho hr =>
    ⟨fun ha hp => ⟨fun hm hsp => ⟨fun hin hok => ?_, fun hout => ?_⟩, fun k hk => ?_, fun f i hm hf => ?_⟩,
      fun ha hp => ?_, fun ha hh => ?_, fun size hr' hb => ?_⟩, fun s p off ho ha hr hp => ?_⟩
  · rw [exec_registerWrite_granted hr ho ha hp, State.regWrite_plain hm hsp]
    simp only [hin, hok, Bool.false_eq_true, if_false]
  · rw [exec_registerWrite_granted hr ho ha hp, State.regWrite_plain hm hsp, if_pos hout]
  · rw [exec_registerWrite_granted hr ho ha hp, State.regWrite_msix hk]
  · rw [exec_registerWrite_granted hr ho ha hp, State.regWrite_special hm hf]
  · rw [exec_registerWrite, State.busStore_of_aligned hr ho ha]
    cases p with
    | host => rw [State.busWrite_of_host_denied hp]
    | porter => rw [State.busWrite_of_porter_denied hp]
  · subst hh
    rw [exec_registerWrite, State.busStore_of_misaligned hr ho ha]
  · simp only [exec_bar0BadAccess, State.badSize_of_bad hr' hb, if_true, Bool.false_eq_true, if_false, and_self]
  · intro other seen cleared
    have hlow : off < 2 ^ 26 := by omega
    have hload := State.busLoad_of_readable hr hlow ha hp
    have hother : other ≠ p := by cases p <;> exact BusPort.noConfusion
    have hlatch (q : BusPort) : (s.busLoad p off).latch q = (s.latched p off).latch q := by rw [hload]; rfl
    refine ⟨s.busLoad p off, exec_readClear p off s, exec_lowHalfRead p off s, ?_, ?_, ?_, ?_, fun hl => ?_, fun hl => ⟨?_, ?_⟩⟩
    · rw [hload]
      dsimp only [seen]
      split
      next b h hl => rw [State.regRead_snd_of_latch hl]
      next hl => rw [State.regRead_snd_of_no_latch hl]
    · rw [hload]
      rfl
    · rw [hload]
      exact State.latched_mem
    · rw [hlatch, State.latch_latched_other hother]
    · rw [hlatch, State.latched_of_not_low hl]
    · rw [hlatch, State.latched_of_low hl, State.latch_setLatch_self]
    · intro u hu hru hpu hhigh
      have hul : u.latch p = some (off, s.regValue (off + 4)) := by
        rw [hu, hlatch, State.latched_of_low hl, State.latch_setLatch_self]
      refine ⟨u.busLoad p (off + 4), exec_readClear p (off + 4) u, ?_⟩
      rw [State.busLoad_of_readable hru ho (by omega) hpu, State.regRead_snd_of_latch hul, if_pos ⟨hhigh, rfl⟩]

end Sys2Proof.Machine
end

section
/-!
PROOFS. The statements of 02_number_formats.md: minimum and maximum in the vector unit and across a row.
-/

namespace Sys2Proof.Machine

/-! ## Reading an operand and rounding a result, in any format (R50) -/

section
variable {f : FpFmt} {w : Nat}

theorem ieeeNum_of_nan (h : f.infCode < w % 2 ^ f.signBit) : ieeeNum f w = .nan := by
  rw [ieeeNum, if_neg (by omega), if_pos h]

theorem ieeeNum_of_small (hinf : 2 ^ (f.prec - 1) ≤ f.infCode) (h : w % 2 ^ f.signBit < 2 ^ (f.prec - 1)) :
    ieeeNum f w = .fin (bitAt f.signBit w) (w % 2 ^ f.signBit) f.emin := by
  rw [ieeeNum, if_neg (by omega), if_neg (by omega), if_pos h]

theorem readNum_of_subnormal (hf : f.flush = true) (hpos : 0 < w % 2 ^ f.signBit) (hlt : w % 2 ^ f.signBit < 2 ^ (f.prec - 1)) :
    readNum f w = ⟨.fin (bitAt f.signBit w) 0 0, flagFlushed⟩ := by
  simp only [readNum, hf, hpos, hlt, decide_true, Bool.and_self, if_true]

theorem readNum_of_not_subnormal (h : ¬ (0 < w % 2 ^ f.signBit ∧ w % 2 ^ f.signBit < 2 ^ (f.prec - 1))) :
    readNum f w = ⟨ieeeNum f w, flagIf (ieeeNum f w).isNan flagInvalid⟩ := by
  rw [readNum, if_neg]
  simp only [Bool.and_eq_true, decide_eq_true_eq]
  exact fun ⟨⟨_, hpos⟩, hlt⟩ => h ⟨hpos, hlt⟩

theorem readNum_of_nan (hinf : 2 ^ (f.prec - 1) ≤ f.infCode) (h : f.infCode < w % 2 ^ f.signBit) :
    readNum f w = ⟨.nan, flagInvalid⟩ := by
  rw [readNum_of_not_subnormal (by omega), ieeeNum_of_nan h]
  rfl

theorem readNum_of_zero (hinf : 2 ^ (f.prec - 1) ≤ f.infCode) (h : w % 2 ^ f.signBit = 0) :
    readNum f w = ⟨.fin (bitAt f.signBit w) 0 f.emin, 0⟩ := by
  rw [readNum_of_not_subnormal (by omega), ieeeNum_of_small hinf (by rw [h]; exact Nat.two_pow_pos _), h]
  rfl

/-- The sign bit leaves the magnitude below it as it is. -/
theorem add_sign_mod {c n : Nat} (h : c < 2 ^ n) (s : Bool) : (c + if s then 2 ^ n else 0) % 2 ^ n = c := by
  cases s with
  | true => rw [if_pos rfl, Nat.add_mod_right, Nat.mod_eq_of_lt h]
  | false => exact Nat.mod_eq_of_lt h

/-- The flush leaves no subnormal result. -/
theorem roundNum_not_subnormal (hf : f.flush = true) (hinf : 2 ^ (f.prec - 1) ≤ f.infCode) (hsign : f.infCode < 2 ^ f.signBit)
    (hnan : 2 ^ (f.prec - 1) ≤ f.nanCode % 2 ^ f.signBit) (v : Num) :
    (roundNum f v).val % 2 ^ f.signBit = 0 ∨ 2 ^ (f.prec - 1) ≤ (roundNum f v).val % 2 ^ f.signBit := by
  match v with
  | .nan => exact .inr hnan
  | .inf s => exact .inr ((add_sign_mod hsign s).symm ▸ hinf)
  | .fin s m e =>
    rw [roundNum]
    split
    · exact .inr ((add_sign_mod hsign s).symm ▸ hinf)
    · next hfin =>
      split
      · cases s with
        | true => exact .inl (Nat.mod_self _)
        | false => exact .inl (Nat.zero_mod _)
      · next hsub =>
        rw [add_sign_mod (by omega)]
        simp only [hf, Bool.true_and, Bool.and_eq_true, decide_eq_true_eq] at hsub
        omega

end

/-! ## FP32 words -/

/-- The word encodes a NaN. -/
def IsNan32 (x : F32) : Prop := 0x7F800000 < x.toNat % 2 ^ 31

/-- The word encodes a nonzero subnormal. -/
def IsSubnormal32 (x : F32) : Prop := 0 < x.toNat % 2 ^ 31 ∧ x.toNat % 2 ^ 31 < 2 ^ 23

/-- The zero with the sign of the word. -/
def signedZero32 (x : F32) : F32 := x &&& 0x80000000#32

/-- The canonical NaN of R50. -/
def canonicalNan32 : F32 := 0x7FC00000#32

theorem canonicalNan32_isNan : IsNan32 canonicalNan32 := by
  unfold IsNan32
  decide

theorem rd32_of_nan {x : F32} (h : IsNan32 x) : rd32 x = ⟨.nan, flagInvalid⟩ :=
  readNum_of_nan (by decide) h

theorem rd32_of_subnormal {x : F32} (h : IsSubnormal32 x) : rd32 x = ⟨.fin (bitAt 31 x.toNat) 0 0, flagFlushed⟩ :=
  readNum_of_subnormal rfl h.1 h.2

theorem bitAt_eq_testBit (i x : Nat) : bitAt i x = x.testBit i := Nat.testBit_eq_decide_div_mod_eq.symm

theorem signedZero32_toNat (x : F32) : (signedZero32 x).toNat = x.toNat &&& 2 ^ 31 := BitVec.toNat_and x _

theorem signedZero32_magnitude (x : F32) : (signedZero32 x).toNat % 2 ^ 31 = 0 := by
  rw [signedZero32_toNat, Nat.and_mod_two_pow, Nat.mod_self, Nat.and_zero]

theorem signedZero32_sign (x : F32) : bitAt 31 (signedZero32 x).toNat = bitAt 31 x.toNat := by
  rw [signedZero32_toNat, bitAt_eq_testBit, bitAt_eq_testBit, Nat.testBit_and, Nat.testBit_two_pow_self, Bool.and_true]

theorem rd32_signedZero32 (x : F32) : rd32 (signedZero32 x) = ⟨.fin (bitAt 31 x.toNat) 0 (-149), 0⟩ := by
  rw [← signedZero32_sign]
  exact readNum_of_zero (by decide) (signedZero32_magnitude x)

theorem rnd32_nan_val : (rnd32 .nan).val = canonicalNan32 := rfl

theorem rnd32_not_subnormal (v : Num) : ¬ IsSubnormal32 (rnd32 v).val := by
  rintro ⟨hpos, hlt⟩
  have hval : (rnd32 v).val.toNat % 2 ^ 31 = (roundNum fmt32 v).val % 2 ^ 31 := by
    rw [rnd32, Fl.map, BitVec.toNat_ofNat, Nat.mod_mod_of_dvd _ (by decide)]
  have hround : (roundNum fmt32 v).val % 2 ^ 31 = 0 ∨ 2 ^ 23 ≤ (roundNum fmt32 v).val % 2 ^ 31 :=
    roundNum_not_subnormal rfl (by decide) (by decide) (by decide) v
  omega

/-! ## The exponent of an exact zero carries no value -/

/-- The same value, a zero written with exponent 0. -/
def Num.canonZero : Num → Num
  | .fin s m e => .fin s m (if m = 0 then 0 else e)
  | v => v

theorem Num.canonZero_zero (s : Bool) (e : Int) : (Num.fin s 0 e).canonZero = .fin s 0 0 := rfl

theorem Num.canonZero_of_ne_zero {m : Nat} (h : m ≠ 0) (s : Bool) (e : Int) : (Num.fin s m e).canonZero = .fin s m e := by
  rw [canonZero, if_neg h]

theorem Num.canonZero_neg (v : Num) : v.canonZero.neg = v.neg.canonZero := by
  cases v <;> rfl

/-- Rounding sees no exponent of a zero. -/
theorem rnd32_canonZero (v : Num) : rnd32 v.canonZero = rnd32 v := by
  match v with
  | .nan => rfl
  | .inf _ => rfl
  | .fin s m e =>
    by_cases hm : m = 0
    · subst hm
      simp only [Num.canonZero_zero, rnd32, roundNum, roundCode, if_true]
    · rw [Num.canonZero_of_ne_zero hm]

theorem signedAt_zero (s : Bool) (e lo : Int) : signedAt s 0 e lo = 0 := by
  rw [signedAt, Nat.zero_mul]
  cases s <;> rfl

section
variable {m : Nat} {e lo : Int}

theorem signedAt_magnitude_pos_iff : 0 < m * 2 ^ (e - lo).toNat ↔ 0 < m :=
  Nat.mul_pos_iff_of_pos_right (Nat.two_pow_pos _)

theorem signedAt_pos_iff (s : Bool) : 0 < signedAt s m e lo ↔ s = false ∧ 0 < m := by
  rw [signedAt, ← signedAt_magnitude_pos_iff (e := e) (lo := lo)]
  generalize m * 2 ^ (e - lo).toNat = v
  cases s with
  | false => simp only [Bool.false_eq_true, if_false, true_and]; omega
  | true => simp only [if_true, Bool.true_eq_false, false_and, iff_false]; omega

theorem signedAt_neg_iff (s : Bool) : signedAt s m e lo < 0 ↔ s = true ∧ 0 < m := by
  rw [signedAt, ← signedAt_magnitude_pos_iff (e := e) (lo := lo)]
  generalize m * 2 ^ (e - lo).toNat = v
  cases s with
  | false => simp only [Bool.false_eq_true, if_false, false_and, iff_false]; omega
  | true => simp only [if_true, true_and]; omega

end

/-- Comparison sees no exponent of a zero: against a zero only the sign of the other value counts. -/
theorem Num.lt_canonZero (a b : Num) : a.canonZero.lt b.canonZero = a.lt b := by
  match a, b with
  | .nan, _ => rfl
  | .inf _, .nan => rfl
  | .inf _, .inf _ => rfl
  | .inf _, .fin _ _ _ => rfl
  | .fin _ _ _, .nan => rfl
  | .fin _ _ _, .inf _ => rfl
  | .fin s m e, .fin t n g =>
    by_cases hm : m = 0
    · subst hm
      simp only [canonZero, lt, signedAt_zero, signedAt_pos_iff]
    · by_cases hn : n = 0
      · subst hn
        simp only [canonZero, lt, signedAt_zero, signedAt_neg_iff]
      · rw [canonZero_of_ne_zero hm, canonZero_of_ne_zero hn]

/-! ## The larger and the smaller of two values (R52) -/

theorem Num.max_nan_left (b : Num) : Num.nan.max b = .nan := by cases b <;> rfl

theorem Num.max_nan_right (a : Num) : a.max .nan = .nan := by cases a <;> rfl

theorem Num.max_fin (s t : Bool) (m n : Nat) (e g : Int) :
    (Num.fin s m e).max (.fin t n g) =
      if (Num.fin s m e).lt (.fin t n g) then .fin t n g else if (Num.fin t n g).lt (.fin s m e) then .fin s m e
      else if s then .fin t n g else .fin s m e := by
  cases s <;> rfl

/-- The larger value is one of the two, chosen by a comparison and a sign. -/
theorem Num.max_canonZero (a b : Num) : a.canonZero.max b.canonZero = (a.max b).canonZero := by
  match a, b with
  | .nan, b => rw [max_nan_left]; exact max_nan_left _
  | .inf _, .nan => rfl
  | .fin _ _ _, .nan => rfl
  | .inf s, .inf t => cases s <;> cases t <;> rfl
  | .inf s, .fin _ _ _ => cases s <;> rfl
  | .fin _ _ _, .inf t => cases t <;> rfl
  | .fin s m e, .fin t n g =>
    have hab := lt_canonZero (.fin s m e) (.fin t n g)
    have hba := lt_canonZero (.fin t n g) (.fin s m e)
    rw [max_fin, apply_ite canonZero, apply_ite canonZero, apply_ite canonZero, ← hab, ← hba]
    exact max_fin ..

theorem Num.min_canonZero (a b : Num) : a.canonZero.min b.canonZero = (a.min b).canonZero := by
  rw [Num.min, Num.min, canonZero_neg, canonZero_neg, max_canonZero, canonZero_neg]

theorem Num.min_nan_left (b : Num) : Num.nan.min b = .nan := by rw [Num.min, neg, max_nan_left, neg]

theorem Num.min_nan_right (a : Num) : a.min .nan = .nan := by
  rw [Num.min]
  exact congrArg neg (max_nan_right a.neg)

/-! ## MAX and MIN of two words (R52) -/

theorem rnd32_max_canonZero (a b : Num) : rnd32 (a.canonZero.max b.canonZero) = rnd32 (a.max b) := by
  rw [Num.max_canonZero, rnd32_canonZero]

theorem rnd32_min_canonZero (a b : Num) : rnd32 (a.canonZero.min b.canonZero) = rnd32 (a.min b) := by
  rw [Num.min_canonZero, rnd32_canonZero]

section
variable {g : Num → Num → Fl F32} (hg : ∀ a b, g a.canonZero b.canonZero = g a b) {x y : F32}
include hg

/-- A subnormal first operand counts as the zero of its sign, and FLUSHED says so. -/
theorem bin32_of_subnormal_left (h : IsSubnormal32 x) : bin32 g x y = (bin32 g (signedZero32 x) y).mark flagFlushed := by
  have hz : g (.fin (bitAt 31 x.toNat) 0 0) (rd32 y).val = g (.fin (bitAt 31 x.toNat) 0 (-149)) (rd32 y).val := by
    rw [← hg, ← hg (.fin _ 0 (-149)), Num.canonZero_zero, Num.canonZero_zero]
  simp only [bin32, Fl.bind, Fl.mark, rd32_of_subnormal h, rd32_signedZero32, hz, BitVec.ofNat_eq_ofNat, BitVec.zero_or, BitVec.or_comm]

/-- A subnormal second operand counts as the zero of its sign, and FLUSHED says so. -/
theorem bin32_of_subnormal_right (h : IsSubnormal32 y) : bin32 g x y = (bin32 g x (signedZero32 y)).mark flagFlushed := by
  have hz : g (rd32 x).val (.fin (bitAt 31 y.toNat) 0 0) = g (rd32 x).val (.fin (bitAt 31 y.toNat) 0 (-149)) := by
    rw [← hg, ← hg _ (.fin _ 0 (-149)), Num.canonZero_zero, Num.canonZero_zero]
  simp only [bin32, Fl.bind, Fl.mark, rd32_of_subnormal h, rd32_signedZero32, hz, BitVec.ofNat_eq_ofNat, BitVec.zero_or, BitVec.or_assoc,
    BitVec.or_comm flagFlushed]

end

theorem max32_val (x y : F32) : (max32 x y).val = (rnd32 ((rd32 x).val.max (rd32 y).val)).val := rfl

theorem min32_val (x y : F32) : (min32 x y).val = (rnd32 ((rd32 x).val.min (rd32 y).val)).val := rfl

theorem max32_val_of_nan {x y : F32} (h : IsNan32 x ∨ IsNan32 y) : (max32 x y).val = canonicalNan32 := by
  rw [max32_val]
  rcases h with h | h
  · rw [rd32_of_nan h, Num.max_nan_left, rnd32_nan_val]
  · rw [rd32_of_nan h, Num.max_nan_right, rnd32_nan_val]

theorem min32_val_of_nan {x y : F32} (h : IsNan32 x ∨ IsNan32 y) : (min32 x y).val = canonicalNan32 := by
  rw [min32_val]
  rcases h with h | h
  · rw [rd32_of_nan h, Num.min_nan_left, rnd32_nan_val]
  · rw [rd32_of_nan h, Num.min_nan_right, rnd32_nan_val]

theorem max32_not_subnormal (x y : F32) : ¬ IsSubnormal32 (max32 x y).val := rnd32_not_subnormal _

theorem min32_not_subnormal (x y : F32) : ¬ IsSubnormal32 (min32 x y).val := rnd32_not_subnormal _

/-! ## FLUSHED along a computation (R63) -/

/-- A flag once set stays set. -/
theorem flag_or_left {a f : Flags} (h : a &&& f = f) (b : Flags) : (a ||| b) &&& f = f := by
  rw [BitVec.and_or_distrib_right, h]
  ext i
  simp

theorem flag_or_right {b f : Flags} (h : b &&& f = f) (a : Flags) : (a ||| b) &&& f = f := by
  rw [BitVec.or_comm]
  exact flag_or_left h a

/-- The computation set FLUSHED. -/
def Fl.Flushed {α : Type} (x : Fl α) : Prop := x.fl &&& flagFlushed = flagFlushed

section
variable {α β : Type} {x : Fl α} {k : α → Fl β}

theorem Fl.flushed_mark : (x.mark flagFlushed).Flushed := flag_or_right BitVec.and_self x.fl

theorem Fl.Flushed.bind (h : x.Flushed) : (x.bind k).Flushed := flag_or_left h (k x.val).fl

theorem Fl.Flushed.bind_right (h : (k x.val).Flushed) : (x.bind k).Flushed := flag_or_right h x.fl

end

theorem max32_flushed {x y : F32} (h : IsSubnormal32 x ∨ IsSubnormal32 y) : (max32 x y).Flushed := by
  rcases h with h | h
  · rw [max32, bin32_of_subnormal_left rnd32_max_canonZero h]
    exact Fl.flushed_mark
  · rw [max32, bin32_of_subnormal_right rnd32_max_canonZero h]
    exact Fl.flushed_mark

/-! ## RMAX across a row (R52, R78) -/

theorem fold_max32_val_of_nan {y : F32} {r : List F32} (h : y = canonicalNan32 ∨ ∃ x ∈ r, IsNan32 x) :
    (Fl.fold max32 y r).val = canonicalNan32 := by
  induction r generalizing y with
  | nil => exact h.resolve_right (by rintro ⟨x, hx, -⟩; exact List.not_mem_nil hx)
  | cons a r ih =>
    refine ih ?_
    rcases h with rfl | ⟨x, hx, hn⟩
    · exact .inl (max32_val_of_nan (.inl canonicalNan32_isNan))
    · rcases List.mem_cons.1 hx with rfl | hr
      · exact .inl (max32_val_of_nan (.inr hn))
      · exact .inr ⟨x, hr, hn⟩

theorem fold_max32_flushed {y : F32} {r : List F32} (h : ∃ x ∈ r, IsSubnormal32 x) : (Fl.fold max32 y r).Flushed := by
  induction r generalizing y with
  | nil => simp at h
  | cons a r ih =>
    obtain ⟨x, hx, hs⟩ := h
    rcases List.mem_cons.1 hx with rfl | hr
    · exact (max32_flushed (.inr hs)).bind
    · exact Fl.Flushed.bind_right (ih ⟨x, hr, hs⟩)

theorem fold_max32_not_subnormal {y : F32} (hy : ¬ IsSubnormal32 y) (r : List F32) : ¬ IsSubnormal32 (Fl.fold max32 y r).val := by
  induction r generalizing y with
  | nil => exact hy
  | cons a r ih => exact ih (max32_not_subnormal y a)

theorem rmax_val_of_nan {xs : List F32} (h : ∃ x ∈ xs, IsNan32 x) : (rmax xs).val = canonicalNan32 := by
  obtain ⟨n, hn, hnan⟩ := h
  cases xs with
  | nil => simp at hn
  | cons x r =>
    refine fold_max32_val_of_nan ?_
    rcases List.mem_cons.1 hn with rfl | hr
    · exact .inl (max32_val_of_nan (.inl hnan))
    · exact .inr ⟨n, hr, hnan⟩

theorem rmax_flushed {xs : List F32} (h : ∃ x ∈ xs, IsSubnormal32 x) : (rmax xs).Flushed := by
  obtain ⟨n, hn, hsub⟩ := h
  cases xs with
  | nil => simp at hn
  | cons x r =>
    rcases List.mem_cons.1 hn with rfl | hr
    · exact (max32_flushed (.inl hsub)).bind
    · exact Fl.Flushed.bind_right (fold_max32_flushed ⟨n, hr, hsub⟩)

theorem rmax_not_subnormal (xs : List F32) : ¬ IsSubnormal32 (rmax xs).val := by
  cases xs with
  | nil => exact fun h => absurd h.1 (by decide)
  | cons x r => exact fold_max32_not_subnormal (max32_not_subnormal x x) r

/-- Settles O8: a NaN operand decides the result, a subnormal reads as the zero of its sign, and what is rounded to FP32 is never
subnormal; RMAX is MAX folded along the row. -/
theorem minMaxRules : Obligations.MinMaxRules := by
  unfold Obligations.MinMaxRules
  refine ⟨fun x y h => ⟨max32_val_of_nan h, min32_val_of_nan h⟩, rfl, rfl, rfl, rfl, fun x y => ⟨fun h => ?_, fun h => ?_⟩,
    fun x y => ⟨max32_not_subnormal x y, min32_not_subnormal x y⟩, fun xs _ h => rmax_val_of_nan h, fun xs h => rmax_flushed h,
    rmax_not_subnormal, rfl, rfl⟩
  · exact ⟨bin32_of_subnormal_left rnd32_max_canonZero h, bin32_of_subnormal_left rnd32_min_canonZero h⟩
  · exact ⟨bin32_of_subnormal_right rnd32_max_canonZero h, bin32_of_subnormal_right rnd32_min_canonZero h⟩

end Sys2Proof.Machine
end

section
/-!
PROOFS. The statements of 04_near_bank_units.md: the row words, and the starts, refresh, ramp and temperature of the near-bank units.
-/

namespace Sys2Proof.Machine

/-! ## What a row word does to the state (R119) -/

/-- Counting reads changes the access counts of pages alone. -/
theorem State.touchReads_eq (s : State) (l : Nat) (r : List (Nat × Nat)) :
    s.touchReads l r = { s with mem := { s.mem with pages := (s.touchReads l r).mem.pages } } := by
  induction r generalizing s with
  | nil => rfl
  | cons x r ih => exact ih (s.touch l x.1 x.2 false)

@[simp] theorem State.touchReads_regs (s : State) (l : Nat) (r : List (Nat × Nat)) : (s.touchReads l r).regs = s.regs := by
  rw [State.touchReads_eq]

@[simp] theorem State.touchReads_cores (s : State) (l : Nat) (r : List (Nat × Nat)) : (s.touchReads l r).cores = s.cores := by
  rw [State.touchReads_eq]

@[simp] theorem State.touchReads_coreStore (s : State) (l : Nat) (r : List (Nat × Nat)) :
    (s.touchReads l r).coreStore = s.coreStore := by rw [State.touchReads_eq]

@[simp] theorem State.touchReads_hif (s : State) (l : Nat) (r : List (Nat × Nat)) : (s.touchReads l r).hif = s.hif := by
  rw [State.touchReads_eq]

@[simp] theorem State.touchReads_bytes (s : State) (l : Nat) (r : List (Nat × Nat)) :
    (s.touchReads l r).mem.bytes = s.mem.bytes := by rw [State.touchReads_eq]

/-- Free bytes put in a range leave every byte outside it. -/
theorem State.scramble_other {s : State} {l a n k : Nat} (h : s.Inv) (hk : k < memKey l a ∨ memKey l a + n ≤ k) :
    Tbl.get 0 k (s.scramble l a n).mem.bytes = Tbl.get 0 k s.mem.bytes := by
  have hlen : (s.freeBytes n).length = n := by rw [State.freeBytes, List.length_map, Tbl.length_natsFrom]
  exact State.pokeRaw_other (bs := s.freeBytes n) h (by rwa [hlen])

/-- Free bytes put in a range keep the canonical forms. -/
theorem State.Inv.scramble {s : State} {l a n : Nat} (h : s.Inv) : (s.scramble l a n).Inv :=
  (State.scramble_keeps (Keeps.refl s)).inv h

/-- The job found in a place depends on the cores alone. -/
theorem State.job_of_cores {s t : State} (h : t.cores = s.cores) (c p : Nat) : t.job c p = s.job c p := by
  rw [State.job, State.job, State.core, State.core, h]

/-- A field read depends on the registers alone. -/
theorem State.rd_of_regs {s t : State} (h : t.regs = s.regs) (f : Fld) (i j : Nat) : t.rd f i j = s.rd f i j := by
  rw [State.rd, State.rd, h]

/-- A row program runs in a place, in no suspended stack. -/
structure RowProgRuns (s : State) (c p : Nat) (j : Job) : Prop where
  found : s.job c p = some j
  klass : j.cmd.klass = 3
  op : j.cmd.op = 0x28
  run : j.st = .run
  awake : s.suspended j = false

/-- What a row word does besides its job and its output: the ramp, 64 row steps, the reads counted. -/
def State.rowReading (s : State) (j : Job) (w : RowWord) : State :=
  ((s.rampUp j).count Reg.nbuRowstepCount 64).touchReads j.cmd.lodge (rowReadsOf (s.windowPages j.cmd.lodge j.optab) [w])

section
variable {s : State} {j : Job} {w : RowWord}

theorem State.rowReading_keeps : Keeps s (s.rowReading j w) := by
  unfold State.rowReading
  exact State.touchReads_keeps (State.count_keeps (State.rampUp_keeps (Keeps.refl s)))

@[simp] theorem State.rowReading_cores : (s.rowReading j w).cores = s.cores := State.touchReads_cores _ _ _

@[simp] theorem State.rowReading_coreStore : (s.rowReading j w).coreStore = s.coreStore := State.touchReads_coreStore _ _ _

@[simp] theorem State.rowReading_hif : (s.rowReading j w).hif = s.hif := State.touchReads_hif _ _ _

@[simp] theorem State.rowReading_bytes : (s.rowReading j w).mem.bytes = s.mem.bytes := State.touchReads_bytes _ _ _

@[simp] theorem State.rowReading_regs : (s.rowReading j w).regs = (s.count Reg.nbuRowstepCount 64).regs := State.touchReads_regs _ _ _

theorem State.rowReading_inv (hs : s.Inv) : (s.rowReading j w).Inv := State.rowReading_keeps.inv hs

/-- What a row word does besides its job: its reading, and free bytes in the `n` bytes of a stripe it names as D, which is written when the
command commits. -/
def State.rowTraffic (s : State) (j : Job) (w : RowWord) (n : Nat) : State :=
  if (RowWord.uses w.op).1 then
    (s.rowReading j w).scramble j.cmd.lodge (stripeAddr (s.windowPages j.cmd.lodge j.optab) w.bd w.rd) n
  else s.rowReading j w

variable {n : Nat}

theorem State.rowTraffic_inv (hs : s.Inv) : (s.rowTraffic j w n).Inv := by
  unfold State.rowTraffic
  split
  · exact (State.rowReading_inv hs).scramble
  · exact State.rowReading_inv hs

@[simp] theorem State.rowTraffic_cores : (s.rowTraffic j w n).cores = s.cores := by
  unfold State.rowTraffic
  split <;> simp only [State.scramble_cores, State.rowReading_cores]

@[simp] theorem State.rowTraffic_coreStore : (s.rowTraffic j w n).coreStore = s.coreStore := by
  unfold State.rowTraffic
  split <;> simp only [State.scramble_coreStore, State.rowReading_coreStore]

@[simp] theorem State.rowTraffic_hif : (s.rowTraffic j w n).hif = s.hif := by
  unfold State.rowTraffic
  split <;> simp only [State.scramble_hif, State.rowReading_hif]

@[simp] theorem State.rowTraffic_regs : (s.rowTraffic j w n).regs = (s.count Reg.nbuRowstepCount 64).regs := by
  unfold State.rowTraffic
  split <;> simp only [State.scramble_regs, State.rowReading_regs]

/-- The row steps of a word: one in each of the 64 channels. -/
theorem State.rd_rowTraffic (hs : s.Inv) :
    (s.rowTraffic j w n).rd Reg.nbuRowstepCount = (s.rd Reg.nbuRowstepCount + 64) % 2 ^ Reg.nbuRowstepCount.width :=
  (State.rd_of_regs State.rowTraffic_regs _ _ _).trans (State.rd_count_self hs)

/-- Memory outside stripe D keeps its bytes. -/
theorem State.rowTraffic_other (hs : s.Inv) {d k : Nat}
    (hd : memKey j.cmd.lodge (stripeAddr (s.windowPages j.cmd.lodge j.optab) w.bd w.rd) = d) (hk : k < d ∨ d + n ≤ k) :
    Tbl.get 0 k (s.rowTraffic j w n).mem.bytes = Tbl.get 0 k s.mem.bytes := by
  subst hd
  unfold State.rowTraffic
  split
  · rw [State.scramble_other (State.rowReading_inv hs) hk, State.rowReading_bytes]
  · rw [State.rowReading_bytes]

end

section
variable {s : State} {c p : Nat} {j : Job} {w : RowWord}

/-- A good word that meets no fault ends the program or takes its step. -/
theorem RowProgRuns.rowIssue_eq (hr : RowProgRuns s c p j) (hb : w.bad (s.windowPages j.cmd.lodge j.optab).length = false)
    (hf : s.rowFault j (s.windowPages j.cmd.lodge j.optab) w = St.ok) :
    s.rowIssue c p w =
      if w.op = 8 then (s.setJob c p { j with st := .fence, since := s.now }).payDebt
      else (s.rowTraffic j w stripe).setJob c p (s.rowStep (s.windowPages j.cmd.lodge j.optab) j w) := by
  have hgo : j.cmd.klass = 3 ∧ j.cmd.op = 0x28 ∧ j.st = .run ∧ (!s.suspended j) = true :=
    ⟨hr.klass, hr.op, hr.run, by rw [hr.awake]; rfl⟩
  simp only [State.rowIssue, hr.found, if_pos hgo, hb, hf, ne_eq, not_true_eq_false, if_false, Bool.false_eq_true]
  rfl

/-- A word that does not end the program leaves its step with the job; memory keeps its bytes outside the stripe it names as D. -/
theorem RowProgRuns.rowIssue_steps (hi : s.Inv) (hr : RowProgRuns s c p j) {k : Job} {d : Nat}
    (hb : w.bad (s.windowPages j.cmd.lodge j.optab).length = false)
    (hf : s.rowFault j (s.windowPages j.cmd.lodge j.optab) w = St.ok) (hop : w.op ≠ 8)
    (hd : stripeAddr (s.windowPages j.cmd.lodge j.optab) w.bd w.rd = d)
    (hk : s.rowStep (s.windowPages j.cmd.lodge j.optab) j w = k) :
    let t := s.rowIssue c p w
    t.job c p = some k ∧ (∀ a q, a ≠ c ∨ q ≠ p → t.job a q = s.job a q) ∧ t.coreStore = s.coreStore ∧ t.hif = s.hif ∧
      (∀ x, x < memKey j.cmd.lodge d ∨ memKey j.cmd.lodge d + stripe ≤ x → Tbl.get 0 x t.mem.bytes = Tbl.get 0 x s.mem.bytes) ∧
      t.rd Reg.nbuRowstepCount = (s.rd Reg.nbuRowstepCount + 64) % 2 ^ Reg.nbuRowstepCount.width := by
  have hu : (s.rowTraffic j w stripe).Inv := State.rowTraffic_inv hi
  rw [hr.rowIssue_eq hb hf, if_neg hop, hk]
  exact ⟨State.job_setJob_self hu,
    fun a q h => (State.job_setJob_other hu h).trans (State.job_of_cores State.rowTraffic_cores a q),
    State.rowTraffic_coreStore, State.rowTraffic_hif, fun x hx => State.rowTraffic_other hi (congrArg _ hd) hx,
    State.rd_rowTraffic hi⟩

/-- NOP touches no job, memory or core store. -/
theorem RowProgRuns.rowIssue_nop (hi : s.Inv) (hr : RowProgRuns s c p j) :
    let t := s.rowIssue c p ⟨0, 0, 0, 0, 0, 0, 0⟩
    t.job c p = some j ∧ (∀ a q, a ≠ c ∨ q ≠ p → t.job a q = s.job a q) ∧ t.mem = s.mem ∧ t.coreStore = s.coreStore ∧
      t.hif = s.hif := by
  have ht : s.rowIssue c p ⟨0, 0, 0, 0, 0, 0, 0⟩ = (s.rowReading j ⟨0, 0, 0, 0, 0, 0, 0⟩).setJob c p j := hr.rowIssue_eq rfl rfl
  have hu : (s.rowReading j ⟨0, 0, 0, 0, 0, 0, 0⟩).Inv := State.rowReading_inv hi
  rw [ht]
  exact ⟨State.job_setJob_self hu,
    fun a q h => (State.job_setJob_other hu h).trans (State.job_of_cores State.rowReading_cores a q), rfl, rfl, rfl⟩

/-- END takes the program to FENCE. -/
theorem RowProgRuns.rowIssue_end (hi : s.Inv) (hr : RowProgRuns s c p j) :
    let t := s.rowIssue c p ⟨8, 0, 0, 0, 0, 0, 0⟩
    t.job c p = some { j with st := .fence, since := s.now } ∧ (∀ a q, a ≠ c ∨ q ≠ p → t.job a q = s.job a q) ∧
      t.coreStore = s.coreStore ∧ t.hif = s.hif := by
  have ht : s.rowIssue c p ⟨8, 0, 0, 0, 0, 0, 0⟩ = (s.setJob c p { j with st := .fence, since := s.now }).payDebt :=
    hr.rowIssue_eq rfl rfl
  rw [ht]
  exact ⟨State.job_setJob_self hi, fun a q h => State.job_setJob_other hi h, rfl, rfl⟩

end

/-- Settles O21: each word is issued for the program in its place; what it writes is its step of the job, the rest is the traffic. -/
theorem rowWords : Obligations.RowWords := by
  unfold Obligations.RowWords
  intro s core place bd ba bb rd ra rb j hi hfound hklass hop hrun hawake p pages n d a b puts ok
  have hr : RowProgRuns s core p j := ⟨hfound, hklass, hop, hrun, hawake⟩
  have writes (i : Instr) (w : RowWord) (bs : List Byte) (hexec : exec i s = .next (s.rowIssue core p w)) (h8 : w.op ≠ 8)
      (hd : stripeAddr pages w.bd w.rd = d) (hstep : s.rowStep pages j w = { j with direct := putStripe d bs j.direct }) (hok : ok w) :
      puts i bs :=
    ⟨_, hexec, hr.rowIssue_steps hi hok.1 hok.2 h8 hd hstep⟩
  exact ⟨⟨_, rfl, hr.rowIssue_nop hi⟩,
    writes _ _ _ rfl (by simp) rfl rfl,
    writes _ _ _ rfl (by simp) rfl rfl,
    writes _ _ _ rfl (by simp) rfl rfl,
    writes _ _ _ rfl (by simp) rfl rfl,
    writes _ _ _ rfl (by simp) rfl rfl,
    writes _ _ _ rfl (by simp) rfl rfl,
    writes _ _ _ rfl (by simp) rfl rfl,
    ⟨_, rfl, hr.rowIssue_end hi⟩⟩

/-! ## Starts (R105, R110) -/

/-- A command whose wait is met, whose pages are resident and whose X has room goes to RUN. -/
theorem State.toRun_of_ready {s : State} {c p : Nat} {j : Job} (hj : s.job c p = some j) (hst : j.st = .wait)
    (hw : s.waitMet j.cmd = true) (hp : s.pinsReady j = true) (hf : s.actFits j = true) :
    s.toRun c p = s.setJob c p { j with
      st := .run, since := s.now, abuf := if j.cmd.klass = 3 ∧ j.cmd.op = 0x20 then actBytes j.cmd.fM j.cmd.fK else 0 } := by
  simp only [State.toRun, hj, if_pos (show j.st = .wait ∧ s.waitMet j.cmd ∧ s.pinsReady j ∧ s.actFits j from ⟨hst, hw, hp, hf⟩)]

/-! ## Refresh (R124, R125) -/

section
variable {s : State} {st ch : Nat}

/-- In a channel without near-bank work a refresh is taken at once. -/
theorem State.refreshDue_of_idle (h : s.channelBusy st ch = false) :
    s.refreshDue st ch = { s with debt := Tbl.set 0 (st * 64 + ch) 0 s.debt } := by
  simp only [State.refreshDue, h, Bool.not_false, if_true]

/-- Below MAX_POSTPONE a refresh is added to the debt. -/
theorem State.refreshDue_of_postponed (h : s.channelBusy st ch = true)
    (hd : Tbl.get 0 (st * 64 + ch) s.debt < s.rd Reg.nbuRefreshMaxPostpone) :
    s.refreshDue st ch = { s with debt := Tbl.set 0 (st * 64 + ch) (Tbl.get 0 (st * 64 + ch) s.debt + 1) s.debt } := by
  simp only [State.refreshDue, h, Bool.not_true, Bool.false_eq_true, if_false, ge_iff_le, if_neg (Nat.not_le.2 hd)]

/-- From MAX_POSTPONE on the whole debt is paid in a suspension. -/
theorem State.refreshDue_of_suspended (h : s.channelBusy st ch = true)
    (hd : s.rd Reg.nbuRefreshMaxPostpone ≤ Tbl.get 0 (st * 64 + ch) s.debt) :
    s.refreshDue st ch = ({ s with debt := Tbl.set 0 (st * 64 + ch) 0 s.debt } : State).bump Reg.nbuSuspCntRefresh := by
  simp only [State.refreshDue, h, Bool.not_true, Bool.false_eq_true, if_false, ge_iff_le, if_pos hd]

/-! ## The ramp (R128) -/

/-- A group joins while the stack works. -/
theorem State.rampStep_of_joining (h : s.stackBusy st = true) (hg : Tbl.get 0 st s.ramp < 8) :
    s.rampStep st = { s with ramp := Tbl.set 0 st (Tbl.get 0 st s.ramp + 1) s.ramp } := by
  simp only [State.rampStep, h, if_true, if_pos hg]

theorem State.rampStep_of_joined (h : s.stackBusy st = true) (hg : 8 ≤ Tbl.get 0 st s.ramp) : s.rampStep st = s := by
  simp only [State.rampStep, h, if_true, if_neg (Nat.not_lt.2 hg)]

theorem State.rampStep_of_left (h : s.stackBusy st = false) (hg : Tbl.get 0 st s.ramp = 0) : s.rampStep st = s := by
  simp only [State.rampStep, h, Bool.false_eq_true, if_false, if_pos hg]

/-- A group leaves while the stack is idle; the channels that wait execute NOP row steps of a free number. -/
theorem State.rampStep_of_leaving (h : s.stackBusy st = false) (hg : 0 < Tbl.get 0 st s.ramp) :
    s.rampStep st = ((({ s with ramp := Tbl.set 0 st (Tbl.get 0 st s.ramp - 1) s.ramp } : State).count Reg.nbuRowstepCount
      (Config.freeNat s.free)).useFree 1) := by
  simp only [State.rampStep, h, Bool.false_eq_true, if_false, if_neg (Nat.ne_of_gt hg)]

end

/-! ## Bits of a field -/

/-- Setting a bit leaves it set. -/
theorem bitAt_or_two_pow (k x : Nat) : bitAt k (x ||| 2 ^ k) = true := by
  rw [bitAt_eq_testBit, Nat.testBit_or, Nat.testBit_two_pow_self, Bool.or_true]

/-- A set bit taken away is clear. -/
theorem bitAt_sub_two_pow {k x : Nat} (h : bitAt k x = true) : bitAt k (x - 2 ^ k) = false := by
  have hdiv : (x - 2 ^ k) / 2 ^ k = x / 2 ^ k - 1 := by simpa using Nat.sub_mul_div x (2 ^ k) 1
  simp only [bitAt, beq_iff_eq, hdiv, beq_eq_false_iff_ne] at h ⊢
  omega

/-- A bit inside a width survives the cut to the width. -/
theorem bitAt_mod_two_pow {k n : Nat} (h : k < n) (x : Nat) : bitAt k (x % 2 ^ n) = bitAt k x := by
  rw [bitAt_eq_testBit, bitAt_eq_testBit, Nat.testBit_mod_two_pow, decide_eq_true h, Bool.true_and]

/-- Bit `k` of a field made `b`. -/
def State.putBit (s : State) (f : Fld) (k : Nat) (b : Bool) : State := if b then s.setBit f k else s.clrBit f k

theorem State.putBit_within (s : State) (f : Fld) (k : Nat) (b : Bool) :
    RegsWithin (fun i => i = f.key 0 0) s (s.putBit f k b) := by
  cases b with
  | true => exact RegsWithin.wr s _ rfl
  | false =>
    show RegsWithin _ s (s.clrBit f k)
    unfold State.clrBit
    split
    · exact RegsWithin.wr s _ rfl
    · exact RegsWithin.refl s

theorem State.bitAt_putBit {s : State} {f : Fld} {k : Nat} (hs : s.Inv) (hk : k < f.width) (b : Bool) :
    bitAt k ((s.putBit f k b).rd f) = b := by
  cases b with
  | true =>
    show bitAt k ((s.wr f (s.rd f ||| 2 ^ k)).rd f) = true
    rw [State.rd_wr_self hs, bitAt_mod_two_pow hk, bitAt_or_two_pow]
  | false =>
    show bitAt k ((s.clrBit f k).rd f) = false
    unfold State.clrBit
    split
    next h => rw [State.rd_wr_self hs, bitAt_mod_two_pow hk, bitAt_sub_two_pow h]
    next h => exact Bool.eq_false_iff.2 h

/-! ## Changes of registers within keys -/

namespace RegsWithin

variable {K L : Nat → Prop} {s t : State}

/-- Registers changed within keys keep the canonical forms. -/
theorem inv (h : RegsWithin K s t) (hs : s.Inv) : t.Inv := by
  rw [h.rest]
  exact ⟨hs.bytes, hs.store, hs.pad, hs.host, h.rising hs.regs, hs.cores⟩

/-- A field whose key is not among them reads as before. -/
theorem rd (h : RegsWithin K s t) (hs : s.Inv) {f : Fld} {i j : Nat} (hk : ¬ K (f.key i j)) : t.rd f i j = s.rd f i j :=
  h.frame hs.regs _ _ hk

theorem mono (h : RegsWithin K s t) (hKL : ∀ k, K k → L k) : RegsWithin L s t :=
  ⟨h.rest, h.rising, fun hs d k hk => h.frame hs d k fun e => hk (hKL k e)⟩

end RegsWithin

/-! ## Temperature (R126) -/

/-- A limit is in force from its threshold on and stays so until the temperature has fallen by the hysteresis. -/
def inForce (limit hyst temp : Nat) (was : Bool) : Bool := decide (limit ≤ temp) || (was && decide (limit ≤ temp + hyst))

/-- The registers that follow the temperature of a stack alone: TEMP, PEAK and HOT. -/
def State.latchTemp (s : State) (st t : Nat) : State :=
  let s := s.wr Reg.nbuTempTemp t st
  (if s.rd Reg.nbuTempPeak st < t then s.wr Reg.nbuTempPeak t st else s).putBit Reg.nbuStatusHot st (decide (340 < t))

/-- The limit of THROTTLE_C. -/
def State.throttles (s : State) (st t : Nat) : Bool :=
  inForce (s.rd Reg.nbuThermThrottleC * 4) (s.rd Reg.nbuThermHystC * 4) t (bitAt st (s.rd Reg.nbuStatusThrottled))

/-- The limit of SUSPEND_C. -/
def State.suspends (s : State) (st t : Nat) : Bool :=
  inForce (s.rd Reg.nbuThermSuspendC * 4) (s.rd Reg.nbuThermHystC * 4) t (bitAt st (s.rd Reg.nbuStatusSuspended))

/-- THROTTLED and SUSPENDED follow their limits. -/
def State.limitTemp (s : State) (st t : Nat) : State :=
  (s.putBit Reg.nbuStatusThrottled st (s.throttles st t)).putBit Reg.nbuStatusSuspended st (s.suspends st t)

/-- The keys of TEMP, PEAK and HOT of a stack. -/
def latchKey (st k : Nat) : Prop := k = Reg.nbuTempTemp.key st 0 ∨ k = Reg.nbuTempPeak.key st 0 ∨ k = Reg.nbuStatusHot.key 0 0

/-- The keys in which a suspension is counted and reported. -/
def suspKey (k : Nat) : Prop := k = Reg.nbuSuspCntThermal.key 0 0 ∨ k = Reg.nbuErrBits.key 0 0

/-- The keys that change after the latch. -/
def limitKey (k : Nat) : Prop := k = Reg.nbuStatusThrottled.key 0 0 ∨ k = Reg.nbuStatusSuspended.key 0 0 ∨ suspKey k

/-- TEMP of one stack shares no key with TEMP, PEAK and HOT of another. -/
theorem not_latchKey_temp {st u : Nat} (h : u ≠ st) : ¬ latchKey st (Reg.nbuTempTemp.key u 0) := by
  simp only [latchKey, Fld.key, Reg.nbuTempTemp, Reg.nbuTempPeak, Reg.nbuStatusHot]
  omega

/-- The other bits of NBU_STATUS and the limits of NBU_THERM lie below every NBU_TEMP and outside HOT. -/
theorem not_latchKey_of_lt {st k : Nat} (h : k < 8 * 0x01800040) (hk : k ≠ Reg.nbuStatusHot.key 0 0) : ¬ latchKey st k := by
  simp only [latchKey, Fld.key, Reg.nbuTempTemp, Reg.nbuTempPeak, Reg.nbuStatusHot] at hk ⊢
  omega

/-- No NBU_TEMP of the eight stacks is among the keys that change after the latch. -/
theorem not_limitKey_temp (st : Fin 8) : ¬ limitKey (Reg.nbuTempTemp.key st 0) := by
  simp only [limitKey, suspKey, Fld.key, Reg.nbuTempTemp, Reg.nbuStatusThrottled, Reg.nbuStatusSuspended, Reg.nbuSuspCntThermal,
    Reg.nbuErrBits]
  omega

theorem not_limitKey_hot : ¬ limitKey (Reg.nbuStatusHot.key 0 0) := by
  unfold limitKey suspKey
  decide

theorem not_suspKey_throttled : ¬ suspKey (Reg.nbuStatusThrottled.key 0 0) := by
  unfold suspKey
  decide

theorem not_suspKey_suspended : ¬ suspKey (Reg.nbuStatusSuspended.key 0 0) := by
  unfold suspKey
  decide

theorem State.latchTemp_within (s : State) (st t : Nat) : RegsWithin (latchKey st) s (s.latchTemp st t) := by
  have htemp : RegsWithin (latchKey st) s (s.wr Reg.nbuTempTemp t st) := RegsWithin.wr s t (.inl rfl)
  have hhot (u : State) : RegsWithin (latchKey st) u (u.putBit Reg.nbuStatusHot st (decide (340 < t))) :=
    (u.putBit_within _ _ _).mono fun _ h => .inr (.inr h)
  unfold State.latchTemp
  dsimp only
  split
  · exact (htemp.trans (RegsWithin.wr _ t (.inr (.inl rfl)))).trans (hhot _)
  · exact htemp.trans (hhot _)

/-- The temperature is latched. -/
theorem State.rd_latchTemp {s : State} {st t : Nat} (hs : s.Inv) (ht : t < 2 ^ Reg.nbuTempTemp.width) :
    (s.latchTemp st t).rd Reg.nbuTempTemp st = t := by
  have hw : (s.wr Reg.nbuTempTemp t st).rd Reg.nbuTempTemp st = t := (State.rd_wr_self hs).trans (Nat.mod_eq_of_lt ht)
  have hpeak : Reg.nbuTempTemp.key st 0 ≠ Reg.nbuTempPeak.key st 0 := by
    simp only [Fld.key, Reg.nbuTempTemp, Reg.nbuTempPeak]
    omega
  have hhot : Reg.nbuTempTemp.key st 0 ≠ Reg.nbuStatusHot.key 0 0 := by
    simp only [Fld.key, Reg.nbuTempTemp, Reg.nbuStatusHot]
    omega
  unfold State.latchTemp
  dsimp only
  split
  · rw [(State.putBit_within _ _ _ _).rd hs.wr.wr hhot, State.rd_wr_other hs.wr hpeak, hw]
  · rw [(State.putBit_within _ _ _ _).rd hs.wr hhot, hw]

/-- HOT follows 85 °C. -/
theorem State.hot_latchTemp {s : State} {t : Nat} (hs : s.Inv) (st : Fin 8) :
    bitAt st ((s.latchTemp st t).rd Reg.nbuStatusHot) = decide (340 < t) := by
  unfold State.latchTemp
  dsimp only
  split
  · exact State.bitAt_putBit hs.wr.wr st.isLt _
  · exact State.bitAt_putBit hs.wr st.isLt _

/-- The limits do not depend on what is latched. -/
theorem State.throttles_latchTemp {s : State} {st t : Nat} (hs : s.Inv) : (s.latchTemp st t).throttles st t = s.throttles st t := by
  have hw := s.latchTemp_within st t
  rw [State.throttles, hw.rd hs (not_latchKey_of_lt (by decide) (by decide)),
    hw.rd hs (not_latchKey_of_lt (by decide) (by decide)), hw.rd hs (not_latchKey_of_lt (by decide) (by decide)), State.throttles]

theorem State.suspends_latchTemp {s : State} {st t : Nat} (hs : s.Inv) : (s.latchTemp st t).suspends st t = s.suspends st t := by
  have hw := s.latchTemp_within st t
  rw [State.suspends, hw.rd hs (not_latchKey_of_lt (by decide) (by decide)),
    hw.rd hs (not_latchKey_of_lt (by decide) (by decide)), hw.rd hs (not_latchKey_of_lt (by decide) (by decide)), State.suspends]

theorem State.limitTemp_within (s : State) (st t : Nat) : RegsWithin limitKey s (s.limitTemp st t) :=
  ((s.putBit_within _ _ _).mono fun _ h => .inl h).trans ((State.putBit_within _ _ _ _).mono fun _ h => .inr (.inl h))

/-- THROTTLED and SUSPENDED after the limits. -/
theorem State.status_limitTemp {s : State} {t : Nat} (hs : s.Inv) (st : Fin 8) :
    bitAt st ((s.limitTemp st t).rd Reg.nbuStatusThrottled) = s.throttles st t ∧
      bitAt st ((s.limitTemp st t).rd Reg.nbuStatusSuspended) = s.suspends st t := by
  have hv : (s.putBit Reg.nbuStatusThrottled st (s.throttles st t)).Inv := (s.putBit_within _ _ _).inv hs
  refine ⟨?_, State.bitAt_putBit hv st.isLt _⟩
  rw [State.limitTemp, (State.putBit_within _ _ _ _).rd hv (by decide), State.bitAt_putBit hs st.isLt]

/-- A temperature is latched and its limits follow; a new suspension is counted, reported, and pays the debt. -/
theorem State.nbThermal_eq (s : State) (st t : Nat) : ∃ u d,
    RegsWithin suspKey ((s.latchTemp st t).limitTemp st t) u ∧ s.nbThermal st t = { u with debt := d } := by
  let v := (s.latchTemp st t).limitTemp st t
  have h : s.nbThermal st t =
      if (s.latchTemp st t).suspends st t && !bitAt st ((s.latchTemp st t).rd Reg.nbuStatusSuspended) then
        ((v.bump Reg.nbuSuspCntThermal).setBit Reg.nbuErrBits 2).payDebt
      else v := rfl
  split at h
  · exact ⟨_, _, (RegsWithin.wr v _ (.inl rfl)).trans (RegsWithin.wr _ _ (.inr rfl)), h⟩
  · exact ⟨v, v.debt, RegsWithin.refl v, h⟩

/-- A base-die temperature is latched for its stack alone, and the stack is hot, throttled and suspended by its limits. -/
theorem State.nbThermal_latches {s : State} {temp : Nat} (hs : s.Inv) (stack : Fin 8) (ht : temp < 2 ^ Reg.nbuTempTemp.width) :
    let t := s.nbThermal stack temp
    t = { s with regs := t.regs, debt := t.debt } ∧ t.rd Reg.nbuTempTemp stack = temp ∧
      bitAt stack (t.rd Reg.nbuStatusHot) = decide (340 < temp) ∧
      bitAt stack (t.rd Reg.nbuStatusThrottled) = s.throttles stack temp ∧
      bitAt stack (t.rd Reg.nbuStatusSuspended) = s.suspends stack temp ∧
      ∀ v : Fin 8, v ≠ stack → t.rd Reg.nbuTempTemp v = s.rd Reg.nbuTempTemp v := by
  obtain ⟨u, d, hsusp, heq⟩ := s.nbThermal_eq stack temp
  have hlatch := s.latchTemp_within stack temp
  have hl := hlatch.inv hs
  have hlimit := State.limitTemp_within (s.latchTemp stack temp) stack temp
  have hx := hlimit.inv hl
  have hafter : RegsWithin limitKey (s.latchTemp stack temp) u := hlimit.trans (hsusp.mono fun _ h => .inr (.inr h))
  obtain ⟨hthr, hsus⟩ := State.status_limitTemp (t := temp) hl stack
  have hrd (f : Fld) (i : Nat) : (s.nbThermal stack temp).rd f i = u.rd f i := State.rd_of_regs (by rw [heq]) f i 0
  simp only [hrd]
  refine ⟨by rw [heq, hafter.rest, hlatch.rest], ?_, ?_, ?_, ?_, fun v hv => ?_⟩
  · rw [hafter.rd hl (not_limitKey_temp stack), State.rd_latchTemp hs ht]
  · rw [hafter.rd hl not_limitKey_hot, State.hot_latchTemp hs]
  · rw [hsusp.rd hx not_suspKey_throttled, hthr, State.throttles_latchTemp hs]
  · rw [hsusp.rd hx not_suspKey_suspended, hsus, State.suspends_latchTemp hs]
  · rw [hafter.rd hl (not_limitKey_temp v), hlatch.rd hs (not_latchKey_temp (Fin.val_ne_of_ne hv))]

/-- Settles O22: one equation for each way a start, a refresh or a ramp goes; a temperature is latched and then held against the
limits, which share no key with it. -/
theorem nearBankTiming : Obligations.NearBankTiming := by
  unfold Obligations.NearBankTiming
  refine ⟨fun s core place j hj hst hw hp hf => ?_, fun s stack channel => ?_, fun s stack temp hs ht => ?_⟩
  · have hrun := State.toRun_of_ready hj hst hw hp hf
    exact ⟨congrArg _ hrun, congrArg _ hrun⟩
  · exact ⟨fun h => congrArg _ (State.refreshDue_of_idle h), fun h hd => congrArg _ (State.refreshDue_of_postponed h hd),
      fun h hd => congrArg _ (State.refreshDue_of_suspended h hd), fun h hg => congrArg _ (State.rampStep_of_joining h hg),
      fun h hg => congrArg _ (State.rampStep_of_joined h hg), fun h hg => congrArg _ (State.rampStep_of_left h hg),
      fun h hg => ⟨_, congrArg _ (State.rampStep_of_leaving h hg)⟩⟩
  · exact ⟨_, rfl, State.nbThermal_latches hs stack ht⟩

end Sys2Proof.Machine
end

section
/-!
PROOFS. The statements of 05_attention_and_kv.md: the requests that ATTN and KV_APPEND send, PREFIX_MATCH, and the messages and time-outs of
attention.
-/

namespace Sys2Proof.Machine

/-! ## A command's row in RUN (R89) -/

/-- The row of a running command is its work. -/
theorem Running.runSlot {s : State} {c p klass op : Nat} {j : Job} (h : Running s c p klass op j) (checks : State → Cmd → Checks)
    (run : State → Job → State) : s.runSlot c p klass op checks run = run s j := by
  simp only [State.runSlot, h.here, h.st, if_pos (show j.cmd.klass = klass ∧ j.cmd.op = op from ⟨h.klass, h.op⟩),
    if_pos (show j.waiting = [] ∧ j.status = 0 from ⟨h.waiting, h.status⟩)]

theorem exec_attn {s : State} {core : Fin 160} {place : Fin 8} {j : Job} (h : Running s core (nearPlace place) 3 0x30 j) :
    exec (.attn core place) s = .next (s.attRun core (nearPlace place) j).choices :=
  congrArg _ (congrArg State.choices (h.runSlot _ _))

theorem exec_kvAppend {s : State} {core : Fin 160} {place : Fin 8} {j : Job} (h : Running s core (nearPlace place) 3 0x31 j) :
    exec (.kvAppend core place) s = .next (s.attRun core (nearPlace place) j).choices :=
  congrArg _ (congrArg State.choices (h.runSlot _ _))

theorem exec_prefixMatch {s : State} {core : Fin 160} {place : Fin 8} {j : Job} (h : Running s core (nearPlace place) 3 0x32 j) :
    exec (.prefixMatch core place) s = .next (s.prefixRun core (nearPlace place) j).choices :=
  congrArg _ (congrArg State.choices (h.runSlot _ _))

/-! ## Lists of statuses and of numbers -/

/-- No status of a list is bad exactly when each is OK. -/
theorem firstBad_eq_ok_iff {l : List Nat} : firstBad l = St.ok ↔ ∀ x ∈ l, x = St.ok := by
  induction l with
  | nil => exact iff_of_true rfl fun _ h => absurd h List.not_mem_nil
  | cons a r ih =>
    rw [firstBad, List.forall_mem_cons, ← ih]
    by_cases ha : a = St.ok
    · rw [if_neg (Classical.not_not.2 ha), and_iff_right ha]
    · rw [if_pos ha, iff_false_left ha]
      exact fun h => ha h.1

theorem lt_of_mem_natsFrom {n i : Nat} (h : i ∈ natsFrom 0 n) : i < n := by
  obtain ⟨k, hk, rfl⟩ := List.getElem_of_mem h
  rw [Tbl.getElem_natsFrom, Nat.zero_add]
  exact (Tbl.length_natsFrom 0 n).symm ▸ hk

/-! ## The requests of a command whose job is put back (R89) -/

section
variable {s : State} {c p : Nat} {j k : Job}

/-- Putting back a job with the same command in the same state leaves every request its command. -/
theorem State.owner_setJob_isSome (hs : s.Inv) (hj : s.job c p = some j) (hc : k.cmd = j.cmd) (hst : k.st = j.st) (e : Pend) :
    ((s.setJob c p k).owner e).isSome = (s.owner e).isSome := by
  rw [State.owner, State.owner]
  by_cases h : e.core = c ∧ e.place = p
  · obtain ⟨rfl, rfl⟩ := h
    rw [State.job_setJob_self hs, hj, Option.bind_some, Option.bind_some, hc, hst]
    split <;> rfl
  · rw [State.job_setJob_other hs (Classical.not_and_iff_not_or_not.1 h)]

theorem State.pendsOf_setJob (hs : s.Inv) (hj : s.job c p = some j) (hc : k.cmd = j.cmd) (hst : k.st = j.st) (d q : Nat) :
    (s.setJob c p k).pendsOf d q = s.pendsOf d q := by
  simp only [State.pendsOf, State.setJob_spn, State.owner_setJob_isSome hs hj hc hst]

theorem State.hasTodo_setJob (hs : s.Inv) (hj : s.job c p = some j) (hc : k.cmd = j.cmd) (hst : k.st = j.st) (d q : Nat) :
    (s.setJob c p k).hasTodo d q = s.hasTodo d q := by
  simp only [State.hasTodo, State.setJob_spn, State.owner_setJob_isSome hs hj hc hst]

end

/-! ## Counting the entries skipped (R146) -/

/-- The count of entries skipped is one register. -/
theorem State.countSkips_within (s : State) (c p : Nat) (j : Job) (pool : Pool) :
    RegsWithin (fun k => k = Reg.attSkipCount.key 0 0) s (s.countSkips c p j pool) := by
  unfold State.countSkips
  split
  · exact RegsWithin.refl s
  · exact RegsWithin.wr s _ rfl

/-- Only ATTN reads pages that it may skip. -/
theorem State.countSkips_of_not_attn {s : State} {c p : Nat} {j : Job} {pool : Pool} (h : j.cmd.op ≠ 0x30) :
    s.countSkips c p j pool = s :=
  if_pos h

/-- Which devices can be reached depends on the connections, the ID, the members and the routes. -/
theorem State.reaches_congr {s t : State} (hf : t.fld = s.fld) (hi : t.rd Reg.spnIdDevice = s.rd Reg.spnIdDevice)
    (hm : t.rd Reg.spnMembersValue = s.rd Reg.spnMembersValue)
    (hr : ∀ d, t.rd Reg.spnRoutePorts (member d) = s.rd Reg.spnRoutePorts (member d)) (l dst : Nat) :
    t.reaches l dst = s.reaches l dst := by
  have hself : t.self = s.self := hi
  have hroute : t.routePort 0 dst = s.routePort 0 dst := by rw [State.routePort, State.routePort, hself, hr]
  simp only [State.reaches, State.reachable, State.beyond, State.noRoute, State.fieldConn, hself, hroute, hf, hm]

theorem State.reaches_countSkips {s : State} (hs : s.Inv) (c p : Nat) (j : Job) (pool : Pool) (l dst : Nat) :
    (s.countSkips c p j pool).reaches l dst = s.reaches l dst := by
  have hw := s.countSkips_within c p j pool
  refine State.reaches_congr (by rw [hw.rest]) (hw.rd hs (by decide)) (hw.rd hs (by decide)) (fun d => hw.rd hs ?_) l dst
  simp only [Fld.key, Reg.attSkipCount, Reg.spnRoutePorts]
  omega

@[simp] theorem State.countSkips_wan (s : State) (c p : Nat) (j : Job) (pool : Pool) : (s.countSkips c p j pool).wan = s.wan := by
  rw [(s.countSkips_within c p j pool).rest]

theorem State.self_countSkips {s : State} (hs : s.Inv) (c p : Nat) (j : Job) (pool : Pool) :
    (s.countSkips c p j pool).self = s.self :=
  (s.countSkips_within c p j pool).rd hs (by decide)

/-! ## ATTN and KV_APPEND (R146, R152, R159, R162) -/

/-- The job `j` with its operand table read. -/
def State.tabled (s : State) (j : Job) : Job := { j with optab := s.optab j.cmd }

/-- The requests that an attention command sends once its job holds the operand table. -/
def State.attSends (s : State) (c p : Nat) (j : Job) (pool : Pool) : List (Nat × Nat × Msg) :=
  (s.setJob c p (s.tabled j)).attPlanCmd c p (s.tabled j) pool

/-- Every read that an attention command makes itself succeeds: page lists at this device, tables, query rows, append rows, tokens. -/
structure AttReadable (s : State) (j : Job) (pool : Pool) : Prop where
  /-- the page lists (R140) -/
  lists : ∀ q ∈ s.seqs j.cmd (s.tabled j).optab, q.visible ≠ 0 → s.readStatus j.cmd.lodge q.off (8 * listLen q.visible) = St.ok
  /-- ROPE and WINDOW -/
  tables : s.tablesStatus j.cmd.lodge pool j.cmd.attLayer = St.ok
  /-- query rows -/
  queries : ∀ e, roleOf 0 (s.tabled j).optab = some e → ∀ r, r < j.cmd.fN →
    s.readStatus j.cmd.lodge (e.addr + r * e.stride) (pool.hq * pool.d * 2) = St.ok
  /-- append rows -/
  appends : ∀ e, roleOf 1 (s.tabled j).optab = some e → ∀ r, r < j.cmd.fK →
    s.readStatus j.cmd.lodge (e.addr + r * e.stride) pool.appendBytes = St.ok
  /-- tokens -/
  tokens : ∀ e, roleOf 4 (s.tabled j).optab = some e → s.readStatus j.cmd.lodge e.addr (4 * j.cmd.fK) = St.ok

/-- An attention command in place `p` of core `c` has asked for nothing yet, and nothing keeps it from sending its requests. -/
structure AttReady (s : State) (c p : Nat) (j : Job) (pool : Pool) : Prop extends AttReadable s j pool where
  /-- canonical forms -/
  inv : s.Inv
  /-- the command stands there -/
  here : s.job c p = some j
  /-- its pool is enabled and well formed (R137) -/
  found : (s.pool j.cmd.lodge j.cmd.attPool).1 = some pool
  /-- no request of it is out -/
  unasked : s.pendsOf c p = []
  /-- none of it waits for room -/
  noTodo : s.hasTodo c p = false
  /-- every page list lies at this device -/
  home : ∀ q ∈ s.seqs j.cmd (s.tabled j).optab, q.dev = s.self
  /-- no list entry is wider than a page number -/
  narrow : (s.setJob c p (s.tabled j)).wideEntry c p j.cmd (s.seqs j.cmd (s.tabled j).optab) = false
  /-- every home can be reached (R371) -/
  reach : ∀ e ∈ s.attSends c p j pool, e.2.1 = s.self ∨ s.reaches j.cmd.lodge e.2.1 = true
  /-- no handle that rows are appended to has been fenced -/
  unfenced : ∀ e ∈ s.attSends c p j pool, e.2.2.fld 3 0 16 ≠ 0 → (e.2.1, e.2.2.fld 2 0 32) ∉ s.wan.quiet
  /-- there is something to send -/
  sends : s.attSends c p j pool ≠ []

namespace AttReady

variable {s : State} {c p : Nat} {j : Job} {pool : Pool}

/-- No page list lies at another device. -/
theorem noFarList (h : AttReady s c p j pool) :
    ((natsFrom 0 (s.seqs j.cmd (s.tabled j).optab).length).zip (s.seqs j.cmd (s.tabled j).optab)).filter
      (fun e => e.2.dev != s.self && e.2.visible != 0) = [] := by
  refine List.filter_eq_nil_iff.2 fun e he => ?_
  rw [h.home e.2 (List.of_mem_zip he).2, bne_self_eq_false, Bool.false_and]
  exact Bool.false_ne_true

/-- Every request can go out. -/
theorem allReached (h : AttReady s c p j pool) :
    let u := (s.setJob c p (s.tabled j)).countSkips c p (s.tabled j) pool
    (s.attSends c p j pool).any (fun e => e.2.1 != u.self && !u.reaches j.cmd.lodge e.2.1) = false := by
  intro u
  have hu : (s.setJob c p (s.tabled j)).Inv := h.inv.modCore
  refine List.any_eq_false.2 fun e he => ?_
  rw [State.self_countSkips hu, State.reaches_countSkips hu, Bool.and_eq_true, bne_iff_ne, Bool.not_eq_true']
  rintro ⟨hne, hno⟩
  rcases h.reach e he with hself | hreach
  · exact hne hself
  · exact absurd (hreach.symm.trans hno) Bool.noConfusion

/-- No request appends to a handle that has been fenced. -/
theorem noneFenced (h : AttReady s c p j pool) :
    let u := (s.setJob c p (s.tabled j)).countSkips c p (s.tabled j) pool
    (s.attSends c p j pool).any (fun e => e.2.2.fld 3 0 16 != 0 && u.wan.quiet.contains (e.2.1, e.2.2.fld 2 0 32)) = false := by
  intro u
  have hwan : u.wan = s.wan := State.countSkips_wan _ c p _ pool
  refine List.any_eq_false.2 fun e he => ?_
  rw [hwan, Bool.and_eq_true, bne_iff_ne, List.contains_iff_mem]
  exact fun ⟨hna, hq⟩ => h.unfenced e he hna hq

/-- The run of a command that is ready: entries skipped are counted, and the requests go out. -/
theorem attRun_eq (h : AttReady s c p j pool) :
    s.attRun c p j = (((s.setJob c p (s.tabled j)).countSkips c p (s.tabled j) pool).dropReplies c p).attIssue c p (s.tabled j)
      (s.attSends c p j pool) := by
  have hpends : (s.setJob c p (s.tabled j)).pendsOf c p = [] :=
    (State.pendsOf_setJob (k := s.tabled j) h.inv h.here rfl rfl c p).trans h.unasked
  have htodo : (s.setJob c p (s.tabled j)).hasTodo c p = false :=
    (State.hasTodo_setJob (k := s.tabled j) h.inv h.here rfl rfl c p).trans h.noTodo
  have hnone (f : Nat × Pend → Bool) : ((s.setJob c p (s.tabled j)).pendsOf c p).any f = false := by
    rw [hpends]
    rfl
  have hfar : (s.setJob c p (s.tabled j)).farStatus c p = St.ok := by
    rw [State.farStatus, hpends]
    rfl
  unfold State.attRun
  simp only [h.found]
  refine (if_neg ?asked).trans <| (if_neg ?far).trans <| (if_neg ?answered).trans <| (if_neg ?farOk).trans <| (if_neg ?wide).trans <|
    (if_neg ?reads).trans <| (if_neg ?reach).trans <| (if_neg ?fenced).trans ?_
  case asked => exact Bool.eq_false_iff.1 (Bool.or_eq_false_iff.2 ⟨hnone _, htodo⟩)
  case far => exact fun hlists => hlists.1 h.noFarList
  case answered => exact Bool.eq_false_iff.1 (hnone _)
  case farOk => exact Classical.not_not.2 hfar
  case wide => exact Bool.eq_false_iff.1 h.narrow
  case reads =>
    refine Classical.not_not.2 (firstBad_eq_ok_iff.2 ?_)
    simp only [List.forall_mem_append, List.forall_mem_singleton]
    refine ⟨⟨⟨⟨List.forall_mem_map.2 fun q hq => ?_, h.tables⟩, ?_⟩, ?_⟩, ?_⟩
    · split
      next hv => exact h.lists q hq hv.2
      next => rfl
    · split
      next e he => exact List.forall_mem_map.2 fun r hr => h.queries e he r (lt_of_mem_natsFrom hr)
      next => exact List.forall_mem_nil _
    · split
      next e he => exact List.forall_mem_map.2 fun r hr => h.appends e he r (lt_of_mem_natsFrom hr)
      next => exact List.forall_mem_nil _
    · split
      next e he => exact List.forall_mem_singleton.2 (h.tokens e he)
      next => exact List.forall_mem_nil _
  case reach => exact Bool.eq_false_iff.1 h.allReached
  case fenced => exact Bool.eq_false_iff.1 h.noneFenced
  split
  next => exact if_neg fun hnone => h.sends hnone.1
  next => rfl

end AttReady

/-- Settles O27: what the statement supposes lets every check of the run pass, and the requests of both commands go out alike. -/
theorem attentionIssues : Obligations.AttentionIssues := by
  unfold Obligations.AttentionIssues
  intro s core place j pool hs hj hst hw hstatus hk hpool c p k u qs l hpends htodo hhome hlists htables hq ha ht hwide hreach
    hquiet hl
  have hready : AttReady s c p j pool :=
    { lists := hlists, tables := htables, queries := hq, appends := ha, tokens := ht, inv := hs, here := hj, found := hpool,
      unasked := hpends, noTodo := htodo, home := hhome, narrow := hwide, reach := hreach, unfenced := hquiet, sends := hl }
  refine ⟨fun hop => ?_, fun hop => ?_⟩
  · rw [exec_attn ⟨hj, hst, hw, hstatus, hk, hop⟩, hready.attRun_eq]
    rfl
  · have hne : (s.tabled j).cmd.op ≠ 0x30 := by rw [State.tabled, hop]; decide
    rw [exec_kvAppend ⟨hj, hst, hw, hstatus, hk, hop⟩, hready.attRun_eq, State.countSkips_of_not_attn hne]
    rfl

/-! ## The end of a run (R81, R82, R89) -/

/-- The ranges of DIRECT outputs made undefined, one after another (R82). -/
def State.scrambleAll (s : State) (l : Nat) (ws : List (Nat × List Byte)) : State :=
  ws.foldl (fun s w => s.scramble l w.1 w.2.length) s

/-- Ranges made undefined change lodge memory and the counter of free values alone. -/
theorem State.scrambleAll_eq (s : State) (l : Nat) (ws : List (Nat × List Byte)) :
    s.scrambleAll l ws = { s with mem := (s.scrambleAll l ws).mem, free := (s.scrambleAll l ws).free } := by
  induction ws generalizing s with
  | nil => rfl
  | cons w r ih => exact ih (s.scramble l w.1 w.2.length)

/-- A byte outside every range made undefined stays. -/
theorem State.scrambleAll_other {s : State} {l k : Nat} {ws : List (Nat × List Byte)} (hs : s.Inv)
    (hk : ∀ w ∈ ws, k < memKey l w.1 ∨ memKey l w.1 + w.2.length ≤ k) :
    Tbl.get 0 k (s.scrambleAll l ws).mem.bytes = Tbl.get 0 k s.mem.bytes := by
  induction ws generalizing s with
  | nil => rfl
  | cons w r ih =>
    obtain ⟨hw, hr⟩ := List.forall_mem_cons.1 hk
    exact (ih hs.scramble hr).trans (State.scramble_other hs hw)

theorem State.Inv.scrambleAll {s : State} (hs : s.Inv) (l : Nat) (ws : List (Nat × List Byte)) : (s.scrambleAll l ws).Inv :=
  (Keeps.foldl (Keeps.refl s) fun _ _ h => State.scramble_keeps h).inv hs

theorem State.toFence_eq (s : State) (c p : Nat) (j : Job) :
    s.toFence c p j =
      (s.scrambleAll j.cmd.lodge j.direct).setJob c p { j with st := .fence, since := (s.scrambleAll j.cmd.lodge j.direct).now } :=
  rfl

/-- A job that goes to FENCE stands there; every other place, the core stores and host memory stay, and so does lodge memory outside its DIRECT
ranges. -/
theorem State.toFence_spec {s : State} (hs : s.Inv) (c p : Nat) (j : Job) :
    let t := s.toFence c p j
    t.job c p = some { j with st := .fence, since := s.now } ∧ (∀ d q, d ≠ c ∨ q ≠ p → t.job d q = s.job d q) ∧
      t.coreStore = s.coreStore ∧ t.hif = s.hif ∧
      ∀ k, (∀ w ∈ j.direct, k < memKey j.cmd.lodge w.1 ∨ memKey j.cmd.lodge w.1 + w.2.length ≤ k) →
        Tbl.get 0 k t.mem.bytes = Tbl.get 0 k s.mem.bytes := by
  have hu := hs.scrambleAll j.cmd.lodge j.direct
  have heq := s.scrambleAll_eq j.cmd.lodge j.direct
  rw [State.toFence_eq]
  refine ⟨?_, fun d q h => (State.job_setJob_other hu h).trans (State.job_of_cores (by rw [heq]) d q), ?_, ?_,
    fun k hk => State.scrambleAll_other hs hk⟩
  · rw [State.job_setJob_self hu, heq]
  · rw [State.setJob_coreStore, heq]
  · rw [State.setJob_hif, heq]

/-- The staged pages depend on the cores and their stores alone. -/
theorem State.stagedOf_congr {s t : State} (hc : t.cores = s.cores) (hst : t.coreStore = s.coreStore) (c l : Nat) (w : List Store) :
    t.stagedOf c l w = s.stagedOf c l w := by
  have hread (off n : Nat) : t.csRead c l off n = s.csRead c l off n := by
    simp only [State.csRead, State.core, hc, hst]
  simp only [State.stagedOf, hread]

/-- A run that meets no fault and whose staged pages can be copied ends in FENCE. -/
theorem fences_of_endRun {s : State} {i : Instr} {c p : Nat} {j : Job} {r : RunOut} (hs : s.Inv)
    (hexec : exec i s = .next (s.endRun c p j r).choices) (hfault : r.fault = St.ok)
    (hstage : s.stageStatus c j.cmd.lodge r.stores = St.ok) : Fences s i c p j r.stores r.flags 0 := by
  let v := (s.touchReads j.cmd.lodge r.reads).bump Reg.cmpFmtExcCount r.bad c
  have hv : v.Inv := (State.bump_keeps (State.touchReads_keeps (Keeps.refl s))).inv hs
  have hcores : v.cores = s.cores := State.touchReads_cores s _ _
  have hstore : v.coreStore = s.coreStore := State.touchReads_coreStore s _ _
  have hnow : v.now = s.now := by
    show (s.touchReads j.cmd.lodge r.reads).now = s.now
    rw [State.touchReads_eq]
  have hbad : firstBad [r.fault, s.stageStatus c j.cmd.lodge r.stores] = St.ok :=
    firstBad_eq_ok_iff.2 (by simp [hfault, hstage])
  have hend : s.endRun c p j r = v.outputs c p j r.stores r.flags 0 := if_neg (Classical.not_not.2 hbad)
  obtain ⟨hjob, hplaces, hcs, hhif, hbytes⟩ := State.toFence_spec hv c p
    { j with direct := directOf r.stores, staged := v.stagedOf c j.cmd.lodge r.stores, flags := r.flags, result := 0 }
  refine ⟨v.outputs c p j r.stores r.flags 0, hend ▸ hexec, ?_, fun d q h => (hplaces d q h).trans (State.job_of_cores hcores d q),
    hcs.trans hstore, hhif.trans (State.touchReads_hif s _ _), fun k hk => (hbytes k hk).trans ?_⟩
  · rw [← State.stagedOf_congr hcores hstore, ← hnow]
    exact hjob
  · exact congrArg (Tbl.get 0 k) (State.touchReads_bytes s _ _)

/-- A run whose stores are all DIRECT copies no page. -/
theorem State.stageStatus_of_direct {s : State} {c l : Nat} {w : List Store} (h : ∀ x ∈ w, x.space = 0) :
    s.stageStatus c l w = St.ok := by
  have hnone : stagedBytes w = [] := by
    rw [stagedBytes, List.filter_eq_nil_iff.2 fun x hx => by rw [h x hx]; decide]
    rfl
  rw [State.stageStatus, hnone]
  exact (ite_congr rfl (fun _ => rfl) fun _ => rfl).trans (ite_self _)

/-! ## PREFIX_MATCH (R155) -/

/-- The count of leading matches depends on the compares of the listed candidates alone. -/
theorem matchCount_congr {f g : Nat → Nat → Nat × Nat → CandAns} {l : List (Nat × Nat)}
    (h : ∀ e ∈ l, ∀ i parent, f i parent e = g i parent e) (i parent : Nat) : matchCount f i parent l = matchCount g i parent l := by
  induction l generalizing i parent with
  | nil => rfl
  | cons e r ih =>
    obtain ⟨he, hr⟩ := List.forall_mem_cons.1 h
    rw [matchCount, matchCount, he, ih hr]

/-- The candidates of a PREFIX_MATCH with candidate list `ev`: home and page. -/
def State.candsOf (s : State) (x : Cmd) (ev : OpEnt) : List (Nat × Nat) :=
  (natsFrom 0 x.fN).map fun i =>
    (bits 0 24 (s.peekNat x.lodge (ev.addr + 8 * i) 8), bits 24 40 (s.peekNat x.lodge (ev.addr + 8 * i) 8))

/-- The prompt tokens that candidate `i` is compared with, from the token list `eg`. -/
def State.tokensAt (s : State) (x : Cmd) (eg : OpEnt) (i : Nat) : List Byte :=
  s.peek x.lodge (eg.addr + 256 * i) (min 256 (4 * x.fM - 256 * i))

/-- The leading matches among the candidates, and the status that ended the compare. -/
def State.leadingMatches (s : State) (x : Cmd) (pool : Pool) (eg ev : OpEnt) : Nat × Nat :=
  matchCount (s.candAt x.lodge pool x.attLivery (s.tokensAt x eg)) 0 noParent (s.candsOf x ev)

/-- Candidates of this device are compared here. -/
theorem State.leadingMatches_of_here {s : State} {x : Cmd} {ev : OpEnt} (h : ∀ e ∈ s.candsOf x ev, e.1 = s.self) (pool : Pool)
    (eg : OpEnt) :
    s.leadingMatches x pool eg ev =
      matchCount (fun i parent e => s.candHere x.lodge pool x.attLivery parent e.2 (s.tokensAt x eg i)) 0 noParent (s.candsOf x ev) :=
  matchCount_congr (fun e he _ _ => if_pos (h e he)) 0 noParent

/-- The run of a PREFIX_MATCH that can read its lists, with candidates of this device only, writes the count of leading matches. -/
theorem State.prefixRun_eq {s : State} {j : Job} {pool : Pool} {eg ev ec : OpEnt}
    (hpool : (s.pool j.cmd.lodge j.cmd.attPool).1 = some pool) (hg : roleOf 4 (s.tabled j).optab = some eg)
    (hv : roleOf 6 (s.tabled j).optab = some ev) (hc : roleOf 3 (s.tabled j).optab = some ec)
    (hread : firstBad [s.readStatus j.cmd.lodge eg.addr (4 * j.cmd.fM), s.readStatus j.cmd.lodge ev.addr (8 * j.cmd.fN),
      s.accessStatus j.cmd.lodge ec.addr 4] = St.ok)
    (hhere : ∀ e ∈ s.candsOf j.cmd ev, e.1 = s.self) (hok : (s.leadingMatches j.cmd pool eg ev).2 = St.ok) (c p : Nat) :
    ∃ reads, s.prefixRun c p j = s.endRun c p (s.tabled j)
      ⟨[⟨0, ec.addr, leBytes 4 (min (s.leadingMatches j.cmd pool eg ev).1 ((j.cmd.fM - 1) / 64))⟩], 0, 0, reads, 0⟩ := by
  have hall : (s.candsOf j.cmd ev).all (fun e => e.1 == s.self) = true := List.all_eq_true.2 fun e he => beq_iff_eq.2 (hhere e he)
  have hany : (s.candsOf j.cmd ev).any (fun e => e.1 != s.self && !s.reaches j.cmd.lodge e.1) = false :=
    List.any_eq_false.2 fun e he => by rw [hhere e he, bne_self_eq_false, Bool.false_and]; exact Bool.false_ne_true
  simp only [State.tabled] at hg hv hc
  simp only [State.candsOf] at hall hany
  unfold State.prefixRun
  simp only [hpool, hg, hv, hc, hread, hany, hall, ne_eq, not_true_eq_false, if_false, if_true, Bool.false_eq_true]
  exact ⟨_, if_neg (Classical.not_not.2 hok)⟩

/-! ## Requests of other devices (R160, R161, R164) -/

/-- A request is offered to the home queue without its hint words. -/
theorem exec_attReq (s : State) (m : Msg) : exec (.attReq m) s = .next (s.attOffer { m with w := m.w.take 7 }).choices := rfl

/-- A full home queue holds a request back. -/
theorem State.attOffer_of_full {s : State} {m : Msg} (h : 512 ≤ s.att.queue.length) :
    s.attOffer m = { s with att := { s.att with held := s.att.held ++ [m] } } :=
  if_pos (.inl h)

/-- A home queue with room and nothing held back takes a request. -/
theorem State.attOffer_of_room {s : State} {m : Msg} (h : s.att.queue.length < 512) (hheld : s.att.held = []) :
    s.attOffer m = s.attTake m :=
  if_neg (not_or.2 ⟨Nat.not_le.2 h, Classical.not_not.2 hheld⟩)

/-- A request of another device that passes its gate is accepted for the lodge of its tenant. -/
theorem State.attTake_of_passed {s : State} {m : Msg} {l : Nat} (hsrc : m.src ≠ s.self)
    (hgate : (s.count Reg.attReqInCount).attGate m = St.ok) (hl : (s.count Reg.attReqInCount).tenantLodge m.tenant = some l) :
    s.attTake m = (s.count Reg.attReqInCount).attAccept l m := by
  refine (if_neg hsrc).trans ((if_neg (Classical.not_not.2 hgate)).trans ?_)
  simp only [hl]

/-- A request of another device that its gate stops is answered with the gate's status. -/
theorem State.attTake_of_stopped {s : State} {m : Msg} (hsrc : m.src ≠ s.self)
    (hgate : (s.count Reg.attReqInCount).attGate m ≠ St.ok) :
    let u := s.count Reg.attReqInCount
    s.attTake m = (u.attReject (u.attGate m)).send 8 ((u.tenantLodge m.tenant).getD 16) m.src
      (attRsp u.self m (u.attGate m) [] []) :=
  (if_neg hsrc).trans (if_pos hgate)

/-! ## Time-outs (R160) -/

/-- Bytes of an output row of an ATTN: C or, with role 7, AUXOUT. -/
def State.attOutBytes (s : State) (j : Job) (e : OpEnt) : Nat :=
  match (s.pool j.cmd.lodge j.cmd.attPool).1 with
  | some p => if e.role = 7 then p.auxBytes else p.hq * p.d * (if j.cmd.fmtC = 0 then 4 else 2)
  | none => 0

/-- Every output row of an attention command is poisoned. -/
def State.poisonOutputs (s : State) (j : Job) : State :=
  (j.optab.filter fun e => e.role == 3 || e.role == 7).foldl (fun s e =>
    (natsFrom 0 j.cmd.fN).foldl (fun s r => s.poisonRange j.cmd.lodge (e.addr + r * e.stride) (s.attOutBytes j e)) s) s

/-- The count and the flag of an attention time-out. -/
def State.noteAttTimeout (s : State) : State := (s.bump Reg.attTimeoutCntCount).setBit Reg.attErrBits 3

section
variable {s : State} {tag : Nat} {pd : Pend} (hfind : Tbl.find tag s.spn.out = some pd) (hkind : pd.kind = 9) (hreply : pd.reply = none)
include hfind hkind hreply

/-- A request whose command is gone is forgotten at its time-out. -/
theorem State.attTimeout_of_gone (hgone : s.noteAttTimeout.owner pd = none) : s.attTimeout tag = s.noteAttTimeout.closeTag tag := by
  have hout : ¬ (pd.kind ≠ 9 ∨ pd.reply.isSome = true) := by simp [hkind, hreply]
  simp only [State.attTimeout, hfind, if_neg hout]
  unfold State.noteAttTimeout at hgone
  simp only [hgone]
  rfl

/-- The time-out of a request whose command is there poisons the outputs and orphans the command. -/
theorem State.attTimeout_of_owned {j : Job} (howned : s.noteAttTimeout.owner pd = some j) :
    s.attTimeout tag =
      (((s.noteAttTimeout.poisonOutputs j).closeTag tag).orphanCmd pd.core pd.place pd.dst).dropReplies pd.core pd.place := by
  have hout : ¬ (pd.kind ≠ 9 ∨ pd.reply.isSome = true) := by simp [hkind, hreply]
  simp only [State.attTimeout, hfind, if_neg hout]
  unfold State.noteAttTimeout at howned
  simp only [howned]
  rfl

end

theorem exec_attTimeout (s : State) (tag : Nat) : exec (.attTimeout tag) s = .next (s.attTimeout tag).choices := rfl

/-- Settles O28: a PREFIX_MATCH ends its run with one DIRECT store; a request and a time-out go by the cases of the queue, the gate and the
command. -/
theorem attentionMessages : Obligations.AttentionMessages := by
  unfold Obligations.AttentionMessages
  refine ⟨fun s core place j pool eg ev ec hs hj hst hw hstatus hk hop => ?_, fun s m tag l pd => ⟨fun hroom hheld hsrc hgate hl => ?_,
    fun hroom hheld hsrc hgate => ?_, fun hfull => ?_, fun hfind hkind hreply => ⟨fun hgone => ?_, fun j howned => ?_⟩⟩⟩
  · intro c p x k hpool hg hv hc hrg hrv hrc _ _ cands hhere tok n hok
    have hn : s.leadingMatches x pool eg ev = n := State.leadingMatches_of_here hhere pool eg
    have hread := firstBad_eq_ok_iff.2 (List.forall_mem_cons.2 ⟨hrg, List.forall_mem_cons.2 ⟨hrv, List.forall_mem_singleton.2 hrc⟩⟩)
    obtain ⟨reads, hrun⟩ := State.prefixRun_eq hpool hg hv hc hread hhere (hn ▸ hok) c p
    have hexec := exec_prefixMatch ⟨hj, hst, hw, hstatus, hk, hop⟩
    rw [hrun, hn] at hexec
    exact fences_of_endRun hs hexec rfl (State.stageStatus_of_direct (List.forall_mem_singleton.2 rfl))
  · rw [exec_attReq, State.attOffer_of_room hroom hheld, State.attTake_of_passed (m := { m with w := m.w.take 7 }) hsrc hgate hl]
  · rw [exec_attReq, State.attOffer_of_room hroom hheld, State.attTake_of_stopped (m := { m with w := m.w.take 7 }) hsrc hgate]
  · rw [exec_attReq, State.attOffer_of_full hfull]
  · rw [exec_attTimeout, State.attTimeout_of_gone hfind hkind hreply hgone]
    rfl
  · rw [exec_attTimeout, State.attTimeout_of_owned hfind hkind hreply howned]
    rfl

end Sys2Proof.Machine
end

section
/-!
PROOFS. The statements of 06_memory_tiers.md: the bytes of lodge memory, near-memory commands and page migration, MEM_MAP, MEM_UNMAP and
MEM_HARVEST, tray devices and encryption keys.
-/

namespace Sys2Proof.Tbl

/-- A map of a table's values is found mapped. -/
theorem find_map {α β : Type} (f : α → β) (k : Nat) (t : Tbl α) : find k (t.map fun e => (e.1, f e.2)) = (find k t).map f := by
  induction t with
  | nil => rfl
  | cons e r ih =>
    simp only [List.map_cons, find, ih]
    split
    · rfl
    · split <;> rfl

/-- A key that no entry has reads as the default. -/
theorem get_of_not_mem {α : Type} (d : α) {k : Nat} {t : Tbl α} (h : ∀ e ∈ t, e.1 ≠ k) : get d k t = d := by
  induction t with
  | nil => rfl
  | cons e r ih =>
    obtain ⟨he, hr⟩ := List.forall_mem_cons.1 h
    rw [get, if_neg he, ih hr, ite_self]

/-- A range removed reads as the default. -/
theorem get_clear_inside {α : Type} (d : α) {lo hi k : Nat} (t : Tbl α) (hlo : lo ≤ k) (hhi : k < hi) : get d k (clear lo hi t) = d := by
  refine get_of_not_mem d fun e he hk => ?_
  have hout := (List.mem_filter.1 he).2
  simp only [hk, hlo, hhi, decide_true, Bool.and_self, Bool.not_true, Bool.false_eq_true] at hout

end Sys2Proof.Tbl

namespace Sys2Proof.Machine

/-! ## Lodge memory (R170, R186) -/

/-- Settles O6: a write is one run of bytes in the table of lodge memory, and counting it touches no byte. -/
theorem lodgeMemory : Obligations.LodgeMemory := by
  unfold Obligations.LodgeMemory
  intro s l a bs hs
  have hbytes : (s.poke l a bs).mem.bytes = (s.pokeRaw l a bs).mem.bytes := State.touch_bytes _ l a bs.length true
  refine ⟨?_, (State.poke_keeps (Keeps.refl s)).inv hs, fun m b h => ?_, State.poke_coreStore s l a bs, State.poke_regs s l a bs,
    State.poke_hif s l a bs⟩
  · rw [State.peek, hbytes]
    exact State.peek_pokeRaw hs
  · show [Tbl.get 0 (memKey m b) (s.poke l a bs).mem.bytes] = [Tbl.get 0 (memKey m b) s.mem.bytes]
    rw [hbytes, State.pokeRaw_other hs h]

/-! ## Moving pages leaves their bytes (R176 to R184) -/

/-- From `s` to `t` migrations have been started, and nothing else has happened. -/
def StartsMigr (s t : State) : Prop := t = { s with mem := { s.mem with migr := t.mem.migr } }

/-- From `s` to `t` pages, frames and waiting moves may differ; no byte does, and nothing outside memory. -/
structure MovesPages (s t : State) : Prop where
  /-- everything outside memory -/
  rest : t = { s with mem := t.mem }
  /-- the bytes of memory -/
  bytes : t.mem.bytes = s.mem.bytes

theorem StartsMigr.refl (s : State) : StartsMigr s s := rfl

theorem StartsMigr.trans {s t u : State} (h : StartsMigr s t) (g : StartsMigr t u) : StartsMigr s u := by
  unfold StartsMigr at g h ⊢
  rw [g, h]

theorem StartsMigr.moves {s t : State} (h : StartsMigr s t) : MovesPages s t := by
  unfold StartsMigr at h
  exact ⟨by rw [h], by rw [h]⟩

theorem MovesPages.refl (s : State) : MovesPages s s := ⟨rfl, rfl⟩

theorem MovesPages.trans {s t u : State} (h : MovesPages s t) (g : MovesPages t u) : MovesPages s u :=
  ⟨by rw [g.rest, h.rest], g.bytes.trans h.bytes⟩

theorem MovesPages.setMem {s : State} {m : Mem} (h : m.bytes = s.mem.bytes) : MovesPages s { s with mem := m } := ⟨rfl, h⟩

theorem MovesPages.ite {s t u : State} {c : Prop} [Decidable c] (h : MovesPages s t) (g : MovesPages s u) :
    MovesPages s (if c then t else u) := by
  split
  · exact h
  · exact g

theorem MovesPages.now {s t : State} (h : MovesPages s t) : t.now = s.now := by rw [h.rest]

/-- Moving pages keeps the canonical forms. -/
theorem MovesPages.inv {s t : State} (h : MovesPages s t) (hs : s.Inv) : t.Inv := by
  rw [h.rest]
  exact ⟨h.bytes ▸ hs.bytes, hs.store, hs.pad, hs.host, hs.regs, hs.cores⟩

section
variable (s : State)

theorem State.startMigr_starts (k tier frame : Nat) (hv next : Option Nat) : StartsMigr s (s.startMigr k tier frame hv next) := rfl

theorem State.promote_starts : StartsMigr s s.promote := by
  unfold State.promote
  dsimp only
  split
  · split
    · exact .refl s
    · split
      · exact s.startMigr_starts ..
      · split
        · exact .refl s
        · split
          · split
            · exact s.startMigr_starts ..
            · exact .refl s
          · exact .refl s
  · exact .refl s

theorem State.shrinkT1_starts : StartsMigr s s.shrinkT1 := by
  refine List.foldlRecOn (motive := StartsMigr s) _ _ (.refl s) fun u hu l _ => hu.trans ?_
  dsimp only
  split
  · split
    · exact u.startMigr_starts ..
    · exact .refl u
  · exact .refl u

theorem State.startPins_starts : StartsMigr s s.startPins := by
  refine List.foldlRecOn (motive := StartsMigr s) _ _ (.refl s) fun u hu k _ => hu.trans ?_
  split
  · split
    · exact u.startMigr_starts ..
    · exact .refl u
  · exact .refl u

theorem State.startPrefetch_moves : MovesPages s s.startPrefetch := by
  refine MovesPages.trans (List.foldlRecOn (motive := fun a : State × List (Nat × Nat) => MovesPages s a.1) _ _ (.refl s)
    fun a ha e _ => ha.trans ?_) (.setMem rfl)
  dsimp only
  split
  · exact .refl _
  · split
    · split
      · exact (State.startMigr_starts ..).moves
      · exact .refl _
    · exact .refl _

theorem State.demoteHarvest_moves (k : Nat) : MovesPages s (s.demoteHarvest k) := by
  unfold State.demoteHarvest
  split
  · split
    · exact .setMem rfl
    · exact .refl s
  · exact .refl s

theorem State.startDemotes_moves : MovesPages s s.startDemotes := by
  refine List.foldlRecOn (motive := MovesPages s) _ _ (.refl s) fun u hu k _ => hu.trans ?_
  split
  · refine MovesPages.trans ?_ (State.demoteHarvest_moves _ k)
    exact .setMem rfl
  · exact .refl u

theorem State.releaseHarvest_moves (k : Nat) (p : Page) : MovesPages s (s.releaseHarvest k p) := by
  unfold State.releaseHarvest
  split
  · exact .refl s
  · split
    · split
      · exact s.demoteHarvest_moves k
      · exact .setMem rfl
    · exact .ite (.setMem rfl) (.setMem rfl)

theorem State.releaseHarvests_moves (ks : List Nat) : MovesPages s (s.releaseHarvests ks) := by
  induction ks generalizing s with
  | nil => exact .refl s
  | cons k r ih =>
    refine MovesPages.trans ?_ (ih _)
    split
    · exact .setMem rfl
    · split
      · exact s.releaseHarvest_moves k _
      · exact .refl s

theorem State.releaseLeft_moves : MovesPages s s.releaseLeft := by
  refine MovesPages.trans ?_ (State.releaseHarvests_moves _ _)
  exact .setMem rfl

theorem State.startAwaited_moves : MovesPages s s.startAwaited := by
  refine List.foldlRecOn (motive := MovesPages s) _ _ (.refl s) fun u hu k _ => hu.trans ?_
  split
  · exact .setMem rfl
  · split
    · split
      · exact .setMem rfl
      · exact .refl u
    · split
      · exact .refl u
      · exact .setMem rfl

theorem State.prefetchEntry_moves (slot e : Nat) : MovesPages s (s.prefetchEntry slot e) := .setMem rfl

theorem State.touchReads_moves (l : Nat) (r : List (Nat × Nat)) : MovesPages s (s.touchReads l r) :=
  ⟨by rw [State.touchReads_eq], State.touchReads_bytes s l r⟩

/-! ## The device time while pages move -/

theorem State.embPromote_now (k : Nat) : (s.embPromote k).now = s.now := by
  unfold State.embPromote
  split
  · rfl
  · split <;> rfl

theorem State.startProm_now : s.startProm.now = s.now := by
  refine List.foldlRecOn (motive := fun u : State => u.now = s.now) _ _ rfl fun u hu k _ => Eq.trans ?_ hu
  split
  · exact State.embPromote_now _ k
  · rfl

theorem State.idleEngine_now : s.idleEngine.now = s.now := by
  unfold State.idleEngine State.retryMoves
  rw [(State.promote_starts _).moves.now, (State.shrinkT1_starts _).moves.now, (State.startAwaited_moves _).now, State.startProm_now,
    (State.startPrefetch_moves _).now, (State.releaseLeft_moves _).now, (State.startDemotes_moves _).now, s.startPins_starts.moves.now]

end

/-! ## Near-memory commands (R192, R194, R195) -/

/-- As `fences_of_endRun`, for a run that begins once registers and the ramp have changed. -/
theorem fences_of_endRun_at {s u : State} {i : Instr} {c p : Nat} {j : Job} {r : RunOut} (hu : u.Inv)
    (hrest : u = { s with regs := u.regs, ramp := u.ramp }) (hexec : exec i s = .next (u.endRun c p j r).choices)
    (hfault : r.fault = St.ok) (hstage : u.stageStatus c j.cmd.lodge r.stores = St.ok) : Fences s i c p j r.stores r.flags 0 := by
  let v := (u.touchReads j.cmd.lodge r.reads).bump Reg.cmpFmtExcCount r.bad c
  have hv : v.Inv := (State.bump_keeps (State.touchReads_keeps (Keeps.refl u))).inv hu
  have hvcores : v.cores = s.cores := (State.touchReads_cores u _ _).trans (by rw [hrest])
  have hvstore : v.coreStore = s.coreStore := (State.touchReads_coreStore u _ _).trans (by rw [hrest])
  have hvnow : v.now = s.now := (u.touchReads_moves _ _).now.trans (by rw [hrest])
  have hvhif : v.hif = s.hif := (State.touchReads_hif u _ _).trans (by rw [hrest])
  have hvbytes : v.mem.bytes = s.mem.bytes := (State.touchReads_bytes u _ _).trans (by rw [hrest])
  have hend : u.endRun c p j r = v.outputs c p j r.stores r.flags 0 :=
    if_neg (Classical.not_not.2 (firstBad_eq_ok_iff.2 (by simp [hfault, hstage])))
  obtain ⟨hjob, hplaces, hcs, hh, hb⟩ := State.toFence_spec hv c p
    { j with direct := directOf r.stores, staged := v.stagedOf c j.cmd.lodge r.stores, flags := r.flags, result := 0 }
  refine ⟨v.outputs c p j r.stores r.flags 0, hend ▸ hexec, ?_, fun d q h => (hplaces d q h).trans (State.job_of_cores hvcores d q),
    hcs.trans hvstore, hh.trans hvhif, fun k hk => (hb k hk).trans (congrArg _ hvbytes)⟩
  rw [← State.stagedOf_congr hvcores hvstore, ← hvnow]
  exact hjob

/-- The row of a running MEMORY command is its work on the job with its pages pinned. -/
theorem Running.runMem {s : State} {c p op : Nat} {j : Job} (h : Running s c p 3 op j) (run : State → Job → State) :
    s.runMem c p op run = run s j.pinWhere :=
  h.runSlot _ _

theorem Job.pinWhere_of_work {j : Job} (h : 0x10 ≤ j.cmd.op) (hlt : j.cmd.op < 0x20) : j.pinWhere = { j with pins := j.cmd.mKeys } :=
  if_pos ⟨h, hlt⟩

theorem Job.pinWhere_of_lt {j : Job} (h : j.cmd.op < 0x10) : j.pinWhere = j :=
  if_neg fun hop => Nat.not_le.2 h hop.1

/-- What a near-memory command does besides its reads and its output: row steps are counted and its stacks are at work. -/
def State.memWorking (s : State) (k : Job) : State := (s.count Reg.nbuRowstepCount (s.fillSteps k.cmd)).rampUp k

theorem State.memWorking_inv {s : State} (hs : s.Inv) (k : Job) : (s.memWorking k).Inv :=
  (State.rampUp_keeps (State.count_keeps (Keeps.refl s))).inv hs

/-- The run of a near-memory command: its result stored at DST. -/
def State.memOut (s : State) (x : Cmd) : RunOut := ⟨[⟨0, x.mDst, (s.memResult x).val⟩], (s.memResult x).fl, 0, x.mReads, 0⟩

/-- The run of a near-memory command in no suspended stack whose ranges are good. -/
theorem State.memWork_eq {s : State} {c p : Nat} {k : Job} (hawake : s.suspended k = false)
    (hreads : ∀ r ∈ k.cmd.mReads, s.readStatus k.cmd.lodge r.1 r.2 = St.ok)
    (hwrite : s.accessStatus k.cmd.lodge k.cmd.mWrite.1 k.cmd.mWrite.2 = St.ok) :
    s.memWork c p k = (s.memWorking k).endRun c p k (s.memOut k.cmd) := by
  have hst : firstBad ((k.cmd.mReads.map fun r => s.readStatus k.cmd.lodge r.1 r.2) ++
      [s.accessStatus k.cmd.lodge k.cmd.mWrite.1 k.cmd.mWrite.2]) = St.ok := by
    rw [firstBad_eq_ok_iff, List.forall_mem_append, List.forall_mem_map, List.forall_mem_singleton]
    exact ⟨hreads, hwrite⟩
  simp only [State.memWork, hawake, hst, Bool.false_eq_true, if_false, ne_eq, not_true_eq_false]
  rfl

/-- A near-memory command in RUN whose row does its work ends in FENCE with its result at DST. -/
theorem fences_of_memWork {s : State} {i : Instr} {c p : Nat} {k : Job} (hs : s.Inv) (hexec : exec i s = .next (s.memWork c p k).choices)
    (hawake : s.suspended k = false) (hreads : ∀ r ∈ k.cmd.mReads, s.readStatus k.cmd.lodge r.1 r.2 = St.ok)
    (hwrite : s.accessStatus k.cmd.lodge k.cmd.mWrite.1 k.cmd.mWrite.2 = St.ok) :
    Fences s i c p k [⟨0, k.cmd.mDst, (s.memResult k.cmd).val⟩] (s.memResult k.cmd).fl 0 := by
  rw [State.memWork_eq hawake hreads hwrite] at hexec
  have hdirect : ∀ w ∈ (s.memOut k.cmd).stores, w.space = 0 := List.forall_mem_singleton.2 rfl
  exact fences_of_endRun_at (r := s.memOut k.cmd) (State.memWorking_inv hs k) rfl hexec rfl
    (State.stageStatus_of_direct hdirect)

section
variable {s : State} {x : Cmd}

theorem State.memResult_fill (h : x.op = 0x10) : s.memResult x = ⟨fillBytes x.mSrcA x.mLen, 0⟩ := by
  simp only [State.memResult, h, if_true]
  rfl

theorem State.memResult_copy (h : x.op = 0x11) : s.memResult x = ⟨s.peek x.lodge x.mSrcA x.mLen, 0⟩ := by
  simp only [State.memResult, h]
  rfl

theorem State.memResult_compare (h : x.op = 0x12) :
    s.memResult x = ⟨leBytes 8 (firstDiff 0 (s.peek x.lodge x.mSrcA x.mLen) (s.peek x.lodge x.mSrcB x.mLen)), 0⟩ := by
  simp only [State.memResult, h]
  rfl

theorem State.memResult_reduce (h : x.op = 0x13) :
    s.memResult x = ((s.redVals x).bind fun l => encodeRow (if x.mFmtC = 0 then .fp32 else .bf16) l).map (·.1) := by
  simp only [State.memResult, h]
  rfl

end

/-! ## Epochs, chunks and cutover (R177, R179, R181) -/

/-- The counts of every page halved (R177). -/
def State.halved (s : State) : State :=
  { s with mem := { s.mem with pages := s.mem.pages.map fun (e : Nat × Page) => (e.1, { e.2 with count := e.2.count / 2 }) } }

/-- An epoch halves the counts and then only starts migrations. -/
theorem State.epochEnd_starts (s : State) : StartsMigr s.halved s.epochEnd :=
  (State.shrinkT1_starts _).trans (State.promote_starts _)

/-- Beyond the counts of pages an epoch changes migrations alone. -/
theorem StartsMigr.eq_of_halved {s t : State} (h : StartsMigr s.halved t) :
    t = { s with mem := { s.mem with pages := t.mem.pages, migr := t.mem.migr } } := by
  unfold StartsMigr at h
  rw [h]
  rfl

section
variable {s : State} {k : Nat} {m : Migr} {q : Page} (hm : Tbl.find k s.mem.migr = some m) (hq : Tbl.find k s.mem.pages = some q)
include hm hq

theorem State.migChunk_of_more (h : m.chunk < 32) :
    let u := (s.chargePath (q.tier - 1) (keyLodge k) 65536).chargePath (m.tier - 1) (keyLodge k) 65536
    s.migChunk k false = { u with mem := { u.mem with migr := Tbl.put k { m with chunk := m.chunk + 1 } u.mem.migr } } := by
  simp only [State.migChunk, hm, hq, Bool.false_eq_true, if_false, if_pos h]

theorem State.cutoverStep_of_copied (h : m.chunk = 32) (hfree : s.heldInPlace k = false) :
    s.cutoverStep k = (s.cutover k m q).idleEngine := by
  simp only [State.cutoverStep, hm, hq, h, hfree, Bool.not_false, and_self, if_true]

end

/-- After the page table entry has switched, a cutover leaves the pages and their bytes. -/
theorem State.cutover_mem (s : State) (k : Nat) (m : Migr) (p : Page) :
    (s.cutover k m p).mem.pages = Tbl.put k { p with
        tier := m.tier, frame := m.frame, dirty := false, harvest := m.harvest.map fun h => (h, p.tier, p.frame) } s.mem.pages ∧
      (s.cutover k m p).mem.bytes = s.mem.bytes := by
  unfold State.cutover State.awaitFrame
  dsimp only
  split
  · split <;> exact ⟨rfl, rfl⟩
  · split
    · split <;> exact ⟨rfl, rfl⟩
    · split <;> exact ⟨rfl, rfl⟩

theorem exec_cutover (s : State) (lodge : Fin 16) (page : Nat) :
    exec (.cutover lodge page) s = .next (s.cutoverStep (pageKey lodge page)).attWake.choices := rfl

/-- Settles O23: the four near-memory commands end one run with one DIRECT store; an epoch, a chunk and a cutover each change their tables
alone. -/
theorem memoryWork : Obligations.MemoryWork := by
  unfold Obligations.MemoryWork
  refine ⟨fun s core place j hs hj hst hw hstatus hk => ?_, fun s lodge page m q => ?_⟩
  · intro x k hawake hreads hwrite
    have fences (i : Instr) (op : Nat) (hop : x.op = op) (hlo : 0x10 ≤ op) (hhi : op < 0x20)
        (hexec : exec i s = .next (s.runMem core (nearPlace place) op fun s j => s.memWork core (nearPlace place) j).choices) :
        Fences s i core (nearPlace place) k [⟨0, x.mDst, (s.memResult x).val⟩] (s.memResult x).fl 0 := by
      have hrun : Running s core (nearPlace place) 3 op j := ⟨hj, hst, hw, hstatus, hk, hop⟩
      rw [hrun.runMem, Job.pinWhere_of_work (hop ▸ hlo) (hop ▸ hhi)] at hexec
      exact fences_of_memWork hs hexec hawake hreads hwrite
    refine ⟨fun hop => ?_, fun hop => ?_, fun hop => ?_, fun hop => ?_⟩
    · have h := fences (.memFill core place) _ hop (by decide) (by decide) rfl
      rwa [State.memResult_fill hop] at h
    · have h := fences (.memCopy core place) _ hop (by decide) (by decide) rfl
      rwa [State.memResult_copy hop] at h
    · have h := fences (.memCompare core place) _ hop (by decide) (by decide) rfl
      rwa [State.memResult_compare hop] at h
    · have h := fences (.memReduce core place) _ hop (by decide) (by decide) rfl
      rwa [State.memResult_reduce hop] at h
  · intro k
    refine ⟨⟨s.epochEnd, rfl, fun i p hp => ?_, ?_⟩, fun hm hq => ⟨fun hc => ?_, fun hc hfree => ⟨?_, ?_, ?_⟩⟩⟩
    · have hpages : s.epochEnd.mem.pages = s.halved.mem.pages := by rw [s.epochEnd_starts]
      rw [hpages]
      exact (Tbl.find_map (fun p : Page => { p with count := p.count / 2 }) i s.mem.pages).trans (by rw [hp, Option.map_some])
    · exact s.epochEnd_starts.eq_of_halved
    · exact congrArg (fun t : State => Host.Outcome.next t.choices) (State.migChunk_of_more hm hq hc)
    · rw [exec_cutover, State.cutoverStep_of_copied hm hq hc hfree]
    · rw [(s.cutover_mem k m q).1, Tbl.find_put_self]
    · exact (s.cutover_mem k m q).2

/-! ## What an event changes (R428 to R434) -/

/-- From `s` to `t` an event has been reported: only registers with keys `K`, the host interface and the health block may differ. -/
structure Reports (K : Nat → Prop) (s t : State) : Prop where
  /-- everything else -/
  rest : t = { s with regs := t.regs, hif := t.hif, hlt := t.hlt }
  /-- registers -/
  within : RegsWithin K s { s with regs := t.regs }

namespace Reports

variable {K : Nat → Prop} {s t u : State}

theorem refl (s : State) : Reports K s s := ⟨rfl, RegsWithin.refl s⟩

theorem trans (h : Reports K s t) (g : Reports K t u) : Reports K s u where
  rest := by rw [g.rest, h.rest]
  within := ⟨rfl, fun i => g.within.rising (h.within.rising i),
    fun i d k n => (g.within.frame (h.within.rising i) d k n).trans (h.within.frame i d k n)⟩

/-- A state whose registers are the same. -/
theorem of_regs (hrest : t = { s with regs := t.regs, hif := t.hif, hlt := t.hlt }) (h : t.regs = s.regs) : Reports K s t :=
  ⟨hrest, by rw [h]; exact RegsWithin.refl s⟩

theorem wr (s : State) {f : Fld} {i j : Nat} (v : Nat) (hk : K (f.key i j)) : Reports K s (s.wr f v i j) :=
  ⟨rfl, RegsWithin.wr s v hk⟩

theorem ite {c : Prop} [Decidable c] (h : Reports K s t) (g : Reports K s u) : Reports K s (if c then t else u) := by
  split
  · exact h
  · exact g

/-- A field whose key is not among them reads as before. -/
theorem rd (h : Reports K s t) (hs : s.Inv) {f : Fld} {i j : Nat} (hk : ¬ K (f.key i j)) : t.rd f i j = s.rd f i j :=
  h.within.frame hs.regs _ _ hk

theorem mono {L : Nat → Prop} (h : Reports K s t) (hKL : ∀ k, K k → L k) : Reports L s t :=
  ⟨h.rest, h.within.mono hKL⟩

theorem now (h : Reports K s t) : t.now = s.now := by rw [h.rest]

theorem mem (h : Reports K s t) : t.mem = s.mem := by rw [h.rest]

theorem cores (h : Reports K s t) : t.cores = s.cores := by rw [h.rest]

end Reports

/-- The key of the log's record count. -/
def logKey (k : Nat) : Prop := k = Reg.hltLogProdCount.key 0 0

/-- The keys of the health block's registers, which lie above those of every other block named here. -/
def healthKey (k : Nat) : Prop := Reg.hltCtrlLogEn.key 0 0 ≤ k

theorem healthKey_of_logKey {k : Nat} (h : logKey k) : healthKey k := by
  unfold logKey at h
  rw [h]
  unfold healthKey
  decide

section
variable (s : State)

theorem State.fire_reports (v : Nat) : Reports logKey s (s.fire v) :=
  .ite (.of_regs rfl rfl) (.of_regs rfl rfl)

theorem State.toPorter_reports (e : Ev) : Reports logKey s (s.toPorter e) :=
  .ite (.of_regs rfl rfl) (.of_regs rfl rfl)

theorem State.logWrite_reports (e : Ev) : Reports logKey s (s.logWrite e) := by
  have hwrite (a : Nat) (bs : List Byte) : Reports logKey s ((s.hostWrite a bs).count Reg.hltLogProdCount) :=
    Reports.trans (t := s.hostWrite a bs) (.of_regs rfl rfl) (.wr (K := logKey) _ _ rfl)
  exact (hwrite _ _).trans (.ite (.refl _) (State.fire_reports ..))

theorem State.logAlarms_reports (n : Nat) : Reports logKey s (s.logAlarms n) := by
  induction n generalizing s with
  | zero => exact .refl s
  | succ n ih =>
    unfold State.logAlarms
    split
    · exact .refl s
    · refine .ite (Reports.trans ?_ ((State.logWrite_reports _ _).trans (ih _))) (.refl s)
      exact .of_regs rfl rfl

theorem State.trace_reports (t lodge part w2 w3 : Nat) : Reports healthKey s (s.trace t lodge part w2 w3) := by
  have hraised : Reports healthKey s (s.notForwarded 2) := .of_regs rfl rfl
  refine .ite (hraised.trans (.ite ((State.logWrite_reports _ _).mono fun _ => healthKey_of_logKey) (.wr _ _ ?_))) (.refl s)
  unfold healthKey
  decide

/-- The registers of an alarm: its count, its time and detail, and ALARM (R431). -/
def State.alarmRegs (t w2 : Nat) : State :=
  (((s.bump Reg.hltAlarmCntCount 1 t).wr Reg.hltAlarmTimeTime s.now t).wr Reg.hltAlarmDetDetail w2 t).wr Reg.hltStatusAlarm 1

theorem State.alarmRegs_reports (t w2 : Nat) : Reports healthKey s (s.alarmRegs t w2) := by
  have hkey (f : Fld) (i : Nat) (h : Reg.hltCtrlLogEn.key 0 0 ≤ f.key 0 0) : healthKey (f.key i 0) := by
    simp only [healthKey, Fld.key] at h ⊢
    omega
  exact ((((Reports.wr _ _ (hkey _ _ (by decide))).trans (.wr _ _ (hkey _ _ (by decide)))).trans
    (.wr _ _ (hkey _ _ (by decide)))).trans (.wr _ _ (hkey _ _ (by decide))))

/-- Once its registers are written, an alarm is only forwarded and logged. -/
theorem State.alarm_reports_after (t lodge part w2 w3 : Nat) : Reports logKey (s.alarmRegs t w2) (s.alarm t lodge part w2 w3) := by
  unfold State.alarm
  refine Reports.trans ?_ ((State.toPorter_reports _ _).trans (State.logAlarms_reports _ _))
  exact .of_regs rfl rfl

theorem State.alarm_reports (t lodge part w2 w3 : Nat) : Reports healthKey s (s.alarm t lodge part w2 w3) :=
  (s.alarmRegs_reports t w2).trans ((s.alarm_reports_after ..).mono fun _ => healthKey_of_logKey)

/-- An alarm leaves ALARM set. -/
theorem State.rd_alarm_status (hs : s.Inv) (t lodge part w2 w3 : Nat) : (s.alarm t lodge part w2 w3).rd Reg.hltStatusAlarm = 1 := by
  have hbase : (((s.bump Reg.hltAlarmCntCount 1 t).wr Reg.hltAlarmTimeTime s.now t).wr Reg.hltAlarmDetDetail w2 t).Inv := hs.wr.wr.wr
  rw [(s.alarm_reports_after ..).rd hbase.wr (by unfold logKey; decide)]
  exact State.rd_wr_self hbase

end

/-! ## MEM_MAP and MEM_UNMAP (R173, R174) -/

section
variable {s : State}

/-- A command with no DIRECT output goes to FENCE with memory as it is. -/
theorem State.toFence_of_no_direct {c p : Nat} {j : Job} (h : j.direct = []) :
    s.toFence c p j = s.setJob c p { j with st := .fence, since := s.now } := by
  simp only [State.toFence, h, List.foldl_nil]

theorem State.mapPages_now (x : Cmd) (ps : List Nat) : (s.mapPages x ps).1.now = s.now := by
  induction ps generalizing s with
  | nil => rfl
  | cons p r ih =>
    unfold State.mapPages
    split
    · rfl
    · split
      · rfl
      · exact ih

/-- One page is mapped into the frame found for it. -/
theorem State.mapPages_one {x : Cmd} {q t f : Nat} (hb : s.backing x.lodge (s.mapOrder x) = some (t, f))
    (hkey : t = 1 ∨ s.noKey x.lodge = false) :
    s.mapPages x [q] =
      ({ s.dropPageBytes x.lodge q with mem := { (s.dropPageBytes x.lodge q).mem with
        pages := Tbl.put (pageKey x.lodge q) ⟨t, f, x.mTier, x.mLock, x.mAttr, 0, 0, 0, none, false⟩ s.mem.pages } }, St.ok) := by
  have hgo : ¬ (t ≠ 1 ∧ s.noKey x.lodge = true) := by
    rintro ⟨ht, hn⟩
    exact hkey.elim ht fun h => Bool.false_ne_true (h.symm.trans hn)
  simp only [State.mapPages, hb, if_neg hgo]
  rfl

theorem State.abortMigr_now (s : State) (k cause : Nat) : (s.abortMigr k cause).now = s.now := by
  unfold State.abortMigr
  split
  · rfl
  · exact (State.trace_reports _ _ _ _ _ _).now

@[simp] theorem State.dropPageBytes_now (s : State) (l p : Nat) : (s.dropPageBytes l p).now = s.now := rfl

theorem State.unmapPage_now (l p : Nat) : (s.unmapPage l p).now = s.now := by
  unfold State.unmapPage
  dsimp only
  split
  · rfl
  · split <;> simp only [State.release_now, State.dropPageBytes_now, State.abortMigr_now]

theorem State.unmapPages_now (l : Nat) (ps : List Nat) : (ps.foldl (fun s q => s.unmapPage l q) s).now = s.now :=
  List.foldlRecOn (motive := fun u : State => u.now = s.now) _ _ rfl fun _ hu q _ => (State.unmapPage_now l q).trans hu

variable {c p : Nat} {j : Job}

/-- A MEM_MAP whose pages are all unmapped and can all be backed maps them. -/
theorem State.memMap_of_mapped (hdirect : j.direct = []) (hdone : j.cmd.done = false)
    (hfree : ∀ q ∈ j.cmd.mRange, Tbl.find (pageKey j.cmd.lodge q) s.mem.pages = none) (hok : (s.mapPages j.cmd j.cmd.mRange).2 = St.ok) :
    s.memMap c p j = (s.mapPages j.cmd j.cmd.mRange).1.setJob c p
      { j with cmd := { j.cmd with done := true }, st := .fence, since := s.now } := by
  have hany : (j.cmd.mRange.any fun q => (Tbl.find (pageKey j.cmd.lodge q) s.mem.pages).isSome) = false :=
    List.any_eq_false.2 fun q hq => by rw [hfree q hq]; exact Bool.false_ne_true
  simp only [State.memMap, hdone, hany, hok, Bool.false_eq_true, if_false, ne_eq, not_true_eq_false]
  rw [State.toFence_of_no_direct (j := { j with cmd := { j.cmd with done := true } }) hdirect, State.mapPages_now]

theorem State.memUnmap_of_unpinned (h : ∀ q ∈ j.cmd.mRange, s.pinned (pageKey j.cmd.lodge q) = false) :
    s.memUnmap c p j = ((j.cmd.mRange.foldl (fun s q => s.unmapPage j.cmd.lodge q) s).idleEngine).toFence c p j :=
  if_neg (Bool.eq_false_iff.1 (List.any_eq_false.2 fun q hq => Bool.eq_false_iff.1 (h q hq)))

theorem State.memUnmap_of_pinned (h : ∃ q ∈ j.cmd.mRange, s.pinned (pageKey j.cmd.lodge q) = true) :
    s.memUnmap c p j = s.setJob c p j :=
  if_pos (List.any_eq_true.2 h)

/-! ## MEM_HARVEST (R183) -/

/-- Without harvest, a table or stage 4 there is nothing to do. -/
theorem State.memHarvest_of_off (h : s.on Reg.memCtrlHarvestEn = false ∨ s.rd Reg.memHvCfgEntries (j.cmd.fld 2 16 3) = 0 ∨ s.stage < 4) :
    s.memHarvest c p j = s.toFence c p j := by
  refine if_pos ?_
  rw [Bool.or_eq_true, Bool.or_eq_true, Bool.not_eq_true', beq_iff_eq, decide_eq_true_eq, or_assoc]
  exact h

theorem State.hvWindow_moves (u : State) (keep : Nat → Bool) : MovesPages u (u.hvWindow keep) := .setMem rfl

/-- Once the position is written, the window moves by passed pages released and entries ahead prefetched. -/
theorem State.hvAdvance_moves (slot e chk l : Nat) (reads : List (Nat × Nat)) (keep : Nat → Bool) (passed ahead : List Nat) :
    MovesPages (s.wr Reg.memHvPosEntry e slot) (ahead.foldl (fun s e => s.prefetchEntry slot e)
      (((((s.hvChecked slot chk).wr Reg.memHvPosEntry e slot).touchReads l reads).hvWindow keep).releaseHarvests passed)).startPrefetch := by
  have hpos : MovesPages (s.wr Reg.memHvPosEntry e slot) ((s.hvChecked slot chk).wr Reg.memHvPosEntry e slot) := .setMem rfl
  have hread := hpos.trans (State.touchReads_moves _ l reads)
  have hreleased := (hread.trans (State.hvWindow_moves _ keep)).trans (State.releaseHarvests_moves _ passed)
  refine MovesPages.trans (List.foldlRecOn _ _ hreleased fun u hu k _ => ?_) (State.startPrefetch_moves _)
  exact hu.trans (u.prefetchEntry_moves slot k)

/-- With a table found good, the position is written and then only pages move until the command goes to FENCE. -/
theorem State.memHarvest_moves (hon : s.on Reg.memCtrlHarvestEn = true) (hn : s.rd Reg.memHvCfgEntries (j.cmd.fld 2 16 3) ≠ 0)
    (hstage : 4 ≤ s.stage) (hgood : Tbl.get 0 (j.cmd.fld 2 16 3) s.mem.hvCheck = 1) :
    ∃ t, MovesPages (s.wr Reg.memHvPosEntry (j.cmd.fld 2 0 16 % s.rd Reg.memHvCfgEntries (j.cmd.fld 2 16 3)) (j.cmd.fld 2 16 3)) t ∧
      s.memHarvest c p j = t.toFence c p j := by
  have hgo : (!s.on Reg.memCtrlHarvestEn || s.rd Reg.memHvCfgEntries (j.cmd.fld 2 16 3) == 0 || decide (s.stage < 4)) = false := by
    simp [hon, hn, hstage]
  unfold State.memHarvest
  simp only [hgo, hgood, Bool.false_eq_true, if_false, Nat.one_ne_zero, false_and, Nat.reduceEqDiff]
  refine ⟨_, ?_, rfl⟩
  exact State.hvAdvance_moves ..

end

/-- A command that pins no page for its work runs on its job as it stands. -/
theorem Running.runMem_of_lt {s : State} {c p op : Nat} {j : Job} (h : Running s c p 3 op j) (hop : op < 0x10)
    (run : State → Job → State) : s.runMem c p op run = run s j := by
  rw [h.runMem, Job.pinWhere_of_lt (h.op ▸ hop)]

theorem exec_memMap {s : State} {core : Fin 160} {place : Fin 8} {j : Job} (h : Running s core (nearPlace place) 3 1 j) :
    exec (.memMap core place) s = .next (s.memMap core (nearPlace place) j).choices :=
  congrArg (fun t : State => Host.Outcome.next t.choices) (h.runMem_of_lt (by decide) _)

theorem exec_memUnmap {s : State} {core : Fin 160} {place : Fin 8} {j : Job} (h : Running s core (nearPlace place) 3 2 j) :
    exec (.memUnmap core place) s = .next (s.memUnmap core (nearPlace place) j).choices :=
  congrArg (fun t : State => Host.Outcome.next t.choices) (h.runMem_of_lt (by decide) _)

theorem exec_memHarvest {s : State} {core : Fin 160} {place : Fin 8} {j : Job} (h : Running s core (nearPlace place) 3 5 j) :
    exec (.memHarvest core place) s = .next (s.memHarvest core (nearPlace place) j).choices :=
  congrArg (fun t : State => Host.Outcome.next t.choices) (h.runMem_of_lt (by decide) _)

/-- Settles O24: each command is one case of its work, and with no DIRECT output its way to FENCE leaves memory as the work left it. -/
theorem mapUnmapHarvest : Obligations.MapUnmapHarvest := by
  unfold Obligations.MapUnmapHarvest
  intro s core place j hs hj hst hw hstatus hk hdirect p x
  have running (op : Nat) (hop : x.op = op) : Running s core p 3 op j := ⟨hj, hst, hw, hstatus, hk, hop⟩
  refine ⟨fun hop hdone hfree hok => ?_, fun q t f hone hb hkey => ?_, fun hop hfree => ?_, fun hop hpin => ?_, fun hop => ?_⟩
  · rw [exec_memMap (running 1 hop), State.memMap_of_mapped hdirect hdone hfree hok]
  · rw [hone, State.mapPages_one hb hkey]
    exact ⟨rfl, rfl, fun i hi => Tbl.get_clear_inside 0 _ (Nat.le_add_right _ _) (Nat.add_lt_add_left hi _)⟩
  · rw [exec_memUnmap (running 2 hop), State.memUnmap_of_unpinned hfree, State.toFence_of_no_direct hdirect, State.idleEngine_now,
      State.unmapPages_now]
  · rw [exec_memUnmap (running 2 hop), State.memUnmap_of_pinned hpin]
  · intro slot n
    refine ⟨fun hoff => ?_, fun hon hn hstage hgood => ?_⟩
    · rw [exec_memHarvest (running 5 hop), State.memHarvest_of_off hoff, State.toFence_of_no_direct hdirect]
    · obtain ⟨u, hu, heq⟩ := State.memHarvest_moves (c := core) (p := p) hon hn hstage hgood
      rw [State.toFence_of_no_direct hdirect, hu.now, State.wr_now] at heq
      have hregs : u.rd Reg.memHvPosEntry slot = _ := State.rd_of_regs (by rw [hu.rest]) _ _ _
      refine ⟨_, (exec_memHarvest (running 5 hop)).trans (by rw [heq]), State.job_setJob_self (hu.inv hs.wr), hregs.trans (State.rd_wr_self hs),
        hu.bytes, ?_, ?_⟩
      · rw [State.setJob_hif, hu.rest, State.wr_hif]
      · rw [State.setJob_coreStore, hu.rest, State.wr_coreStore]

/-! ## Tray devices (R197) -/

/-- The keys of the MEM_TRAY registers of the four ports. -/
def trayKey (k : Nat) : Prop := Reg.memTrayUp.key 0 0 ≤ k ∧ k < Reg.memTrayUp.key 4 0

/-- The devices with index `idx` on a port marked lost. -/
def State.markLost (s : State) (port idx : Nat) : State :=
  { s with mem := { s.mem with trays := s.mem.trays.map fun (u : Tray) =>
    if u.port = port ∧ u.idx = idx then { u with lost := true } else u } }

section
variable {s : State}

/-- A field of MEM_TRAY has its key among them at every port. -/
theorem trayKey_of_port {f : Fld} (port : Fin 4)
    (h : f.s1 = Reg.memTrayUp.s1 ∧ Reg.memTrayUp.key 0 0 ≤ f.key 0 0 ∧ f.key 0 0 < Reg.memTrayUp.key 1 0) : trayKey (f.key port 0) := by
  obtain ⟨hs1, hlo, hhi⟩ := h
  simp only [trayKey, Fld.key, hs1, Reg.memTrayUp] at hlo hhi ⊢
  omega

theorem State.trayRegs_within (s : State) (port : Fin 4) : RegsWithin trayKey s (s.trayRegs port) :=
  ((RegsWithin.wr _ _ (trayKey_of_port port (by decide))).trans (.wr _ _ (trayKey_of_port port (by decide)))).trans
    (.wr _ _ (trayKey_of_port port (by decide)))

/-- LOST of a port is set once a device there is marked lost. -/
theorem State.rd_trayRegs_lost (hs : s.Inv) {port : Nat} (h : (s.mem.trays.any fun t => t.port == port && t.lost) = true) :
    (s.trayRegs port).rd Reg.memTrayLost port = 1 := by
  unfold State.trayRegs
  dsimp only
  rw [State.flag, State.rd_wr_self hs.wr.wr]
  simp only [State.wr_mem, h, if_true]
  rfl

theorem State.any_lost_markLost {port idx : Nat} (h : (s.mem.trays.any fun t => t.port == port && t.idx == idx && !t.lost) = true) :
    ((s.markLost port idx).mem.trays.any fun t => t.port == port && t.lost) = true := by
  obtain ⟨u, hu, hport⟩ := List.any_eq_true.1 h
  simp only [Bool.and_eq_true, beq_iff_eq] at hport
  refine List.any_eq_true.2 ⟨{ u with lost := true }, List.mem_map.2 ⟨u, hu, if_pos hport.1⟩, ?_⟩
  simp only [hport.1.1, beq_self_eq_true, Bool.and_self]

theorem State.trayLost_of_present {port idx : Nat}
    (h : (s.mem.trays.any fun t => t.port == port && t.idx == idx && !t.lost) = true) :
    s.trayLost port idx = (((s.markLost port idx).trayRegs port).setBit Reg.memErrBits 3).alarm 0x01 0xF 0xFF (port + idx * 4) 0 :=
  if_pos h

/-- A device that is there is lost: it is marked, its port and the error register say so, and the alarm is raised. -/
theorem State.trayLost_spec (hs : s.Inv) {port : Fin 4} {device : Fin 16}
    (h : (s.mem.trays.any fun t => t.port == port && t.idx == device && !t.lost) = true) :
    let t := s.trayLost port device
    t.mem = (s.markLost port device).mem ∧ bitAt 3 (t.rd Reg.memErrBits) = true ∧ t.rd Reg.memTrayLost port = 1 ∧
      t.rd Reg.hltStatusAlarm = 1 ∧ t.cores = s.cores := by
  have hmarked : (s.markLost port device).Inv := ⟨hs.bytes, hs.store, hs.pad, hs.host, hs.regs, hs.cores⟩
  have htray := (s.markLost port device).trayRegs_within port
  have hregs : ((s.markLost port device).trayRegs port).Inv := htray.inv hmarked
  have herr : (((s.markLost port device).trayRegs port).setBit Reg.memErrBits 3).Inv := hregs.wr
  have halarm := (((s.markLost port device).trayRegs port).setBit Reg.memErrBits 3).alarm_reports 0x01 0xF 0xFF (port + device * 4) 0
  have hlostKey : ¬ healthKey (Reg.memTrayLost.key port 0) ∧ Reg.memTrayLost.key port 0 ≠ Reg.memErrBits.key 0 0 := by
    simp only [healthKey, Fld.key, Reg.memTrayLost, Reg.memErrBits, Reg.hltCtrlLogEn]
    omega
  rw [State.trayLost_of_present h]
  refine ⟨?_, ?_, ?_, State.rd_alarm_status _ herr _ _ _ _ _, ?_⟩
  · rw [halarm.mem, State.setBit_mem, htray.rest]
  · rw [halarm.rd herr (by unfold healthKey; decide)]
    exact State.bitAt_putBit hregs (f := Reg.memErrBits) (by decide) true
  · rw [halarm.rd herr hlostKey.1]
    exact (State.rd_wr_other hregs hlostKey.2).trans (State.rd_trayRegs_lost hmarked (State.any_lost_markLost h))
  · rw [halarm.cores, State.setBit_cores, htray.rest]
    rfl

/-- A device added to a port, its frames after those of the others (R197). -/
def State.listTray (s : State) (port idx gib : Nat) : State :=
  { s with mem := { s.mem with trays := s.mem.trays ++
    [⟨port, idx, s.mem.trays.foldl (fun n t => max n (t.base + t.frames)) 0, gib * 512, false, false⟩] } }

/-- The registers of the link of a tray port. -/
def State.linkUp (s : State) (port speed width : Nat) : State :=
  ((s.wr Reg.memTrayUp 1 port).wr Reg.memTraySpeed speed port).wr Reg.memTrayWidth width port

theorem State.linkUp_within (s : State) (port : Fin 4) (speed width : Nat) : RegsWithin trayKey s (s.linkUp port speed width) :=
  ((RegsWithin.wr _ _ (trayKey_of_port port (by decide))).trans (.wr _ _ (trayKey_of_port port (by decide)))).trans
    (.wr _ _ (trayKey_of_port port (by decide)))

theorem State.Inv.listTray (hs : s.Inv) (port idx gib : Nat) : (s.listTray port idx gib).Inv :=
  ⟨hs.bytes, hs.store, hs.pad, hs.host, hs.regs, hs.cores⟩

/-- The link of a port reads as it came up. -/
theorem State.rd_linkUp (hs : s.Inv) (port speed width : Fin 4) :
    let t := s.linkUp port speed width
    t.rd Reg.memTrayUp port = 1 ∧ t.rd Reg.memTraySpeed port = speed ∧ t.rd Reg.memTrayWidth port = width := by
  have hlt (v : Fin 4) : v.val % 2 ^ 2 = v := Nat.mod_eq_of_lt v.isLt
  have hkeys : Reg.memTrayUp.key port 0 ≠ Reg.memTraySpeed.key port 0 ∧ Reg.memTrayUp.key port 0 ≠ Reg.memTrayWidth.key port 0 ∧
      Reg.memTraySpeed.key port 0 ≠ Reg.memTrayWidth.key port 0 := by
    simp only [Fld.key, Reg.memTrayUp, Reg.memTraySpeed, Reg.memTrayWidth]
    omega
  obtain ⟨hspeed, hwidth, hboth⟩ := hkeys
  refine ⟨?_, ?_, (State.rd_wr_self hs.wr.wr).trans (hlt width)⟩
  · exact ((State.rd_wr_other hs.wr.wr hwidth).trans (State.rd_wr_other hs.wr hspeed)).trans (State.rd_wr_self hs)
  · exact ((State.rd_wr_other hs.wr.wr hboth).trans (State.rd_wr_self hs.wr)).trans (hlt speed)

/-- Outside stage 4 an added device is listed and waits to be enumerated. -/
theorem State.hotAdd_of_waiting (hs : s.Inv) (port : Fin 4) {idx : Nat} (gib speed width : Nat)
    (h : (s.mem.trays.any fun t => t.port == port && t.idx == idx && !t.lost) = false) (hstage : s.stage ≠ 4) :
    s.hotAdd port idx gib speed width = (s.listTray port idx gib).linkUp port speed width := by
  have hkeep : ((s.listTray port idx gib).linkUp port speed width).stage = s.stage :=
    (State.linkUp_within _ port speed width).rd (hs.listTray ..) (f := Reg.glbStageStage) (by unfold trayKey; decide)
  exact (if_neg (Bool.eq_false_iff.1 h)).trans (if_neg (hkeep ▸ hstage))

end

/-! ## Encryption keys (R198, R199, R483) -/

section
variable {s : State} {l : Nat}

theorem State.encryptWrite_of_held {on : Bool} (hheld : s.holdsOuter l = true) (h : s.on Reg.memLodgeCfgEncrypt l ≠ on) :
    s.encryptWrite l on = s.discard.setBit Reg.memErrBits 6 := by
  simp only [State.encryptWrite, beq_eq_false_iff_ne.2 h, hheld, if_true, Bool.false_eq_true, if_false]

theorem State.encryptWrite_on (hfree : s.holdsOuter l = false) (h : s.on Reg.memLodgeCfgEncrypt l = false) :
    s.encryptWrite l true = s.wr Reg.memLodgeCfgEncrypt 1 l := by
  simp only [State.encryptWrite, h, hfree]
  rfl

theorem State.encryptWrite_off (hfree : s.holdsOuter l = false) (h : s.on Reg.memLodgeCfgEncrypt l = true) :
    s.encryptWrite l false = ((s.wr Reg.memLodgeCfgEncrypt 0 l).dropKey l).wr Reg.memLodgeCfgKeyReady 0 l := by
  simp only [State.encryptWrite, h, hfree]
  rfl

/-- The state with keys of free bytes installed for a lodge. -/
def State.withKeys (s : State) (l : Nat) : State :=
  ({ s with tlg := { s.tlg with keys := Tbl.put l (s.freeBytes 64) s.tlg.keys } } : State).useFree 64

theorem State.keyInstall_of_encrypted (h : s.on Reg.memLodgeCfgEncrypt l = true) (hdebug : s.tlg.debug = false) :
    s.keyInstall l = (s.withKeys l).wr Reg.memLodgeCfgKeyReady 1 l := by
  have hgo : (s.on Reg.memLodgeCfgEncrypt l && !s.tlg.debug) = true := by rw [h, hdebug]; rfl
  exact if_pos hgo

/-- A value other than the reset value is read back from any register table. -/
theorem State.rd_wr_self_of_ne {f : Fld} {v i j : Nat} (h : v % 2 ^ f.width ≠ f.reset i) : (s.wr f v i j).rd f i j = v % 2 ^ f.width := by
  rw [State.rd, State.wr, Tbl.set, if_neg h]
  exact Tbl.get_put_self _ _ _ _

end

/-- Settles O25: a lost device is an alarm after its registers, an added one waits outside stage 4; a write of ENCRYPT has three outcomes and
keys are free bytes. -/
theorem traysAndKeys : Obligations.TraysAndKeys := by
  unfold Obligations.TraysAndKeys
  refine ⟨fun s port device gib speed width hs => ⟨fun hhere => ?_, fun hnone hstage => ?_⟩,
    fun s l => ⟨fun hfree hoff => ?_, fun hfree hon => ?_, fun on hheld hne => ?_, fun hon hdebug => ?_⟩⟩
  · exact ⟨_, rfl, rfl, State.trayLost_spec hs hhere⟩
  · have hlink := (s.listTray port device gib).linkUp_within port speed width
    obtain ⟨hup, hspeed, hwidth⟩ := State.rd_linkUp (hs.listTray port device gib) port speed width
    refine ⟨_, congrArg Host.Outcome.next (State.hotAdd_of_waiting hs port gib speed width hnone hstage), hup, hspeed, hwidth, ?_⟩
    exact hlink.rest
  · exact congrArg _ (State.encryptWrite_on hfree hoff)
  · exact congrArg _ (State.encryptWrite_off hfree hon)
  · exact congrArg _ (State.encryptWrite_of_held hheld hne)
  · refine ⟨s.keyInstall l, rfl, ?_⟩
    rw [State.keyInstall_of_encrypted hon hdebug]
    exact ⟨rfl, State.rd_wr_self_of_ne Nat.one_ne_zero, s.freeBytes 64, (List.length_map _).trans (Tbl.length_natsFrom _ _), rfl⟩

end Sys2Proof.Machine
end

section
/-!
PROOFS. The statements of 07_guest_ledger.md: the drafts a step accepts, LEDGER descriptors and step records, express groups, and the long paths
of a prefill.
-/

namespace Sys2Proof.Machine

/-! ## Accepted drafts (R214) -/

theorem acceptedOf_cons_self (q : Nat) (qs ts : List Nat) : acceptedOf (q :: qs) (q :: ts) = acceptedOf qs ts + 1 :=
  (if_pos rfl).trans (Nat.add_comm _ _)

theorem acceptedOf_cons_of_ne {q t : Nat} (h : q ≠ t) (qs ts : List Nat) : acceptedOf (q :: qs) (t :: ts) = 0 := if_neg h

theorem acceptedOf_le : ∀ drafts tokens : List Nat,
    acceptedOf drafts tokens ≤ drafts.length ∧ acceptedOf drafts tokens ≤ tokens.length
  | [], _ => ⟨Nat.zero_le _, Nat.zero_le _⟩
  | _ :: _, [] => ⟨Nat.zero_le _, Nat.zero_le _⟩
  | q :: qs, t :: ts => by
    obtain ⟨hd, ht⟩ := acceptedOf_le qs ts
    by_cases h : q = t
    · rw [h, acceptedOf_cons_self]
      exact ⟨Nat.succ_le_succ hd, Nat.succ_le_succ ht⟩
    · rw [acceptedOf_cons_of_ne h]
      exact ⟨Nat.zero_le _, Nat.zero_le _⟩

/-- Every accepted draft is the token selected before it. -/
theorem getElem?_eq_of_lt_acceptedOf : ∀ {drafts tokens : List Nat} {i : Nat}, i < acceptedOf drafts tokens → drafts[i]? = tokens[i]?
  | [], _, _, h => absurd h (Nat.not_lt_zero _)
  | _ :: _, [], _, h => absurd h (Nat.not_lt_zero _)
  | q :: qs, t :: ts, i, h => by
    by_cases hqt : q = t
    · rw [hqt, acceptedOf_cons_self] at h
      cases i with
      | zero => rw [hqt, List.getElem?_cons_zero, List.getElem?_cons_zero]
      | succ i =>
        rw [List.getElem?_cons_succ, List.getElem?_cons_succ]
        exact getElem?_eq_of_lt_acceptedOf (Nat.lt_of_succ_lt_succ h)
    · exact absurd h (acceptedOf_cons_of_ne hqt qs ts ▸ Nat.not_lt_zero i)

/-- No longer run of drafts agrees with the tokens. -/
theorem le_acceptedOf : ∀ {drafts tokens : List Nat} {b : Nat}, b ≤ drafts.length → b ≤ tokens.length →
    (∀ i, i < b → drafts[i]? = tokens[i]?) → b ≤ acceptedOf drafts tokens
  | [], _, _, hd, _, _ => hd
  | _ :: _, [], _, _, ht, _ => Nat.le_trans ht (Nat.zero_le _)
  | _ :: _, _ :: _, 0, _, _, _ => Nat.zero_le _
  | q :: qs, t :: ts, b + 1, hd, ht, h => by
    have hqt : q = t := Option.some.inj (h 0 (Nat.succ_pos b))
    rw [hqt, acceptedOf_cons_self]
    exact Nat.succ_le_succ (le_acceptedOf (Nat.le_of_succ_le_succ hd) (Nat.le_of_succ_le_succ ht)
      fun i hi => h (i + 1) (Nat.succ_lt_succ hi))

/-- Settles O9: by induction on the drafts and the tokens together. -/
theorem acceptedDrafts : Obligations.AcceptedDrafts := by
  unfold Obligations.AcceptedDrafts
  intro drafts tokens a
  obtain ⟨hdrafts, htokens⟩ := acceptedOf_le drafts tokens
  exact ⟨hdrafts, htokens, fun i hi => getElem?_eq_of_lt_acceptedOf hi, fun b hd ht h => le_acceptedOf hd ht h⟩

/-! ## Rows of the ledger -/

/-- A row that ends in the choices of a state ends in those of an equal one. -/
theorem next_choices_congr {s t : State} (h : s = t) : (.next s.choices : Out) = .next t.choices := by rw [h]

/-! ## LEDGER descriptors (R206 to R208, R222, R229) -/

/-- The state without the descriptor at the head of the LEDGER queue. -/
def State.popLedger (s : State) : State := { s with hif := { s.hif with ledgerQ := s.hif.ledgerQ.drop 1 } }

/-- The descriptor at the head whose record has room leaves the queue and runs. -/
theorem State.runLedger_of_room {s : State} {op : Nat} {q : Cmd} (hq : s.nextLedger op = some q)
    (hroom : s.hasRoom (s.cqOf q.ring) 1 = true) (k : State → Cmd → State) :
    s.runLedger op k = k s.popLedger { q with done := false } := by
  simp only [State.runLedger, hq, State.withRoom, hroom, Bool.or_true, Bool.true_or, if_true]
  rfl

section
variable {s : State} {x : Cmd} {i : Nat} {e : Entry}

theorem State.ledgerAdmit_of_ok (hok : s.admitVerdict x = St.ok) (hfree : s.nextFree = some i) : s.ledgerAdmit x = s.admitStart i x := by
  simp only [State.ledgerAdmit, hfree, hok, if_true]

/-- An ADMIT that fails a check is counted as rejected, whether or not an entry is FREE. -/
theorem State.ledgerAdmit_of_refused (hbad : s.admitVerdict x ≠ St.ok) :
    s.ledgerAdmit x = (s.ledgerDone x (s.admitVerdict x) 0).bump Reg.ldgRejectCntCount := by
  cases hfree : s.nextFree with
  | none => simp only [State.ledgerAdmit, hfree]
  | some i => simp only [State.ledgerAdmit, hfree, if_neg hbad]

theorem State.groupDone_of_agreed (he : s.entry i = some e) (hst : e.st = 1) (hwait : e.waitGroup = []) (hfailed : e.failed = none) :
    s.groupDone i = s.admitPath i := by
  simp [State.groupDone, he, hst, hwait, hfailed]

theorem State.groupDone_of_failed {d st : Nat} (he : s.entry i = some e) (hst : e.st = 1) (hwait : e.waitGroup = [])
    (hfailed : e.failed = some (d, st)) : s.groupDone i = s.admitFail i st := by
  simp [State.groupDone, he, hst, hwait, hfailed]

theorem State.groupDone_of_waiting (he : s.entry i = some e) (hwait : e.waitGroup ≠ []) : s.groupDone i = s := by
  simp [State.groupDone, he, hwait]

/-- A request of one device asks no other: its entry goes straight to its path. -/
theorem State.admitStart_of_alone (hlog : x.lLog2 = 0) :
    s.admitStart i x = (((s.takeSlot i).reserve (s.cqOf x.ring)).setEntry i
      (((s.takeSlot i).reserve (s.cqOf x.ring)).newEntry i x)).admitPath i := by
  have hgroup : groupOf x.lFirst x.lLog2 = [] := if_pos hlog
  unfold State.admitStart
  simp only [State.newEntry, hgroup, List.filter_nil, List.foldl_nil]
  exact State.groupDone_of_agreed (State.entry_setEntry ..) rfl rfl rfl

/-! ### Cancels (R42, R222) -/

theorem State.cancel_of_late (h : 7 ≤ e.st ∨ e.cancel = true) : s.cancel i e = (s, true) := if_pos h

theorem State.cancel_of_queued (hst : e.st = 5) (hc : e.cancel = false) : s.cancel i e = (s.endOutside i 3, false) := by
  simp [State.cancel, hst, hc]

theorem State.cancel_of_prefilling {a : Nat} (hst : e.st = 3) (hc : e.cancel = false) (hp : e.prompt = some a) :
    s.cancel i e = ((s.setEntry i { e with cancel := true }).lsend e.req.lodge (s.memberDev a) 0x23 e.req.tenant [handleOf i e], false) := by
  have hearly : ¬ (7 ≤ e.st ∨ e.cancel = true) := by simp [hst, hc]
  have hprefills : ¬ (e.st = 2 ∨ e.st = 5) := by omega
  simp only [State.cancel, if_neg hearly, if_neg hprefills, hp, if_pos hst]
  rfl

theorem State.cancel_of_running (hst : e.st = 6) (hc : e.cancel = false) (hp : e.prompt = none) :
    s.cancel i e = (s.setEntry i { e with cancel := true }, false) := by
  simp [State.cancel, hst, hc, hp]

section
variable (hv : ledgerVerdict x = St.ok)
include hv

theorem State.ledgerCancel_of_stale (hm : s.mine x.lodge x.lHandle = none) : s.ledgerCancel x = s.ledgerDone x St.staleHandle 0 := by
  simp [State.ledgerCancel, hv, hm]

/-- A cancel of a request that is ending, or cancelled already, answers 1. -/
theorem State.ledgerCancel_of_late (hm : s.mine x.lodge x.lHandle = some (i, e)) (hst : e.st ≠ 1) (hlate : 7 ≤ e.st ∨ e.cancel = true) :
    s.ledgerCancel x = s.ledgerDone x St.ok 1 := by
  simp [State.ledgerCancel, hv, hm, hst, State.cancel_of_late hlate]

/-- A cancel that comes in time completes with its effect and answers 0. -/
theorem State.ledgerCancel_of_effect (hm : s.mine x.lodge x.lHandle = some (i, e)) (hst : e.st ≠ 1) {t : State}
    (hc : s.cancel i e = (t, false)) : s.ledgerCancel x = t.ledgerDone x St.ok 0 := by
  simp [State.ledgerCancel, hv, hm, hst, hc]

/-! ### Queries and releases (R206, R229) -/

theorem State.ledgerQuery_of_stale (ha : x.w 2 % 64 = 0) (hm : s.mine x.lodge x.lHandle = none) :
    s.ledgerQuery x = s.ledgerDone x St.staleHandle 0 := by
  simp [State.ledgerQuery, hv, ha, hm]

theorem State.ledgerQuery_of_mine (ha : x.w 2 % 64 = 0) (hm : s.mine x.lodge x.lHandle = some (i, e))
    (hacc : s.accessStatus x.lodge (x.w 2) 256 = St.ok) :
    s.ledgerQuery x =
      (s.pokeHome x.lodge (x.w 2) ((entryWords i e).flatMap (leBytes 8) ++ List.replicate 128 0)).ledgerDone x St.ok e.st := by
  simp only [State.ledgerQuery, hv, ha, hm, hacc, ne_eq, not_true_eq_false, if_false]

theorem State.ledgerRelease_of_stale (hm : s.mine x.lodge x.lHandle = none) : s.ledgerRelease x = s.ledgerDone x St.staleHandle 0 := by
  simp [State.ledgerRelease, hv, hm]

/-- A FAULTED entry, or an ORPHANED one whose lodge is torn down, is released. -/
theorem State.ledgerRelease_of_mine (hm : s.mine x.lodge x.lHandle = some (i, e))
    (hst : e.st = 9 ∨ (e.st = 10 ∧ s.lodge x.lodge ≠ 3 ∧ s.lodge x.lodge ≠ 4)) :
    s.ledgerRelease x = (((((s.endGroup i e e.agreed).releaseAll i false).modSlot e.req.model fun k =>
        { k with batch := k.batch.filter (· != i), pass := k.pass.filter (· != i), firsts := k.firsts.filter (· != i),
                 ended := k.ended.filter (· != i) }).freeEntry i true).ledgerDone x St.ok 0) := by
  have hended : ¬ (e.st ≠ 9 ∧ e.st ≠ 10) := by omega
  have hdown : ¬ (e.st = 10 ∧ (s.lodge x.lodge = 3 ∨ s.lodge x.lodge = 4)) := by omega
  simp only [State.ledgerRelease, hv, hm, hended, hdown, ne_eq, not_true_eq_false, if_false]

end

/-! ### Liveries (R228) -/

theorem State.liveryLoad_of_ok (hv : s.liveryVerdict x = St.ok)
    (hr : s.readStatus x.lodge (x.w 2) (64 * s.rd Reg.ldgModelCfgNsteer x.vSlot) = St.ok)
    (hw : s.accessStatus x.lodge (s.rd Reg.ldgLiveryAddr x.vSlot * 8192 + 8192 * x.vLivery)
      (64 * s.rd Reg.ldgModelCfgNsteer x.vSlot) = St.ok) :
    let n := 64 * s.rd Reg.ldgModelCfgNsteer x.vSlot
    let v := (s.pokeHome x.lodge (s.rd Reg.ldgLiveryAddr x.vSlot * 8192 + 8192 * x.vLivery) (s.peek x.lodge (x.w 2) n)).touch x.lodge
      (x.w 2) n false
    s.liveryLoad x = ({ v with ldg := { v.ldg with
      liveries := sortDedup (liveryKey x.vSlot x.vLivery :: v.ldg.liveries) } } : State).ledgerDone x St.ok 0 := by
  have hboth : firstBad [s.readStatus x.lodge (x.w 2) (64 * s.rd Reg.ldgModelCfgNsteer x.vSlot), s.accessStatus x.lodge
      (s.rd Reg.ldgLiveryAddr x.vSlot * 8192 + 8192 * x.vLivery) (64 * s.rd Reg.ldgModelCfgNsteer x.vSlot)] = St.ok :=
    firstBad_eq_ok_iff.2 (List.forall_mem_cons.2 ⟨hr, List.forall_mem_singleton.2 hw⟩)
  simp only [State.liveryLoad, hv, hboth, ne_eq, not_true_eq_false, if_false]

theorem State.liveryDrop_of_ok (hv : s.liveryVerdict x = St.ok) :
    s.liveryDrop x = ({ s with ldg := { s.ldg with
      liveries := s.ldg.liveries.filter (· != liveryKey x.vSlot x.vLivery) } } : State).ledgerDone x St.ok 0 :=
  if_neg (Decidable.not_not.2 hv)

end

/-! ## The record of a step (R221) -/

theorem State.slotOf_setSlot_of_ne {s : State} {k : Nat} {x : Slot} (h : x ≠ Slot.idle) : (s.setSlot k x).slotOf k = x := by
  simp only [State.slotOf, State.setSlot, Tbl.set, if_neg h]
  exact Tbl.get_put_self _ _ _ _

theorem Slot.ne_idle_of_running {x : Slot} (h : x.running = true) : x ≠ Slot.idle := by
  rintro rfl
  exact Bool.false_ne_true h

theorem State.running_slotOf_setSlot {s : State} {k : Nat} {x : Slot} (h : x.running = true) : ((s.setSlot k x).slotOf k).running = true := by
  rw [State.slotOf_setSlot_of_ne (Slot.ne_idle_of_running h), h]

@[simp] theorem State.fire_ldg (s : State) (v : Nat) : (s.fire v).ldg = s.ldg := by
  unfold State.fire
  split <;> rfl

@[simp] theorem State.countIrq_ldg (s : State) (r : Nat) : (s.countIrq r).ldg = s.ldg := by
  unfold State.countIrq
  dsimp only
  split
  · split
    · rfl
    · exact State.fire_ldg _ _
  · rfl

theorem State.foldl_hostWrite_ldg {α : Type} (addr : α → Nat) (bytes : α → List Byte) (l : List α) (s : State) :
    (l.foldl (fun s e => s.hostWrite (addr e) (bytes e)) s).ldg = s.ldg :=
  List.foldlRecOn l _ (motive := fun t : State => t.ldg = s.ldg) rfl fun _ h _ _ => h

/-- A record goes to host memory and its ring; the ledger stays. -/
@[simp] theorem State.writeStepRec_ldg (s : State) (r : StepRec) : (s.writeStepRec r).ldg = s.ldg := by
  unfold State.writeStepRec
  dsimp only
  split
  all_goals
    simp only [State.countIrq_ldg, State.writeDevIdx, State.hostWord_ldg, State.count_ldg]
    rw [State.foldl_hostWrite_ldg, State.foldl_hostWrite_ldg]

section
variable {s : State} {k : Nat} {r : StepRec}

theorem State.flushRecs_of_written (hrecs : (s.slotOf k).recs = [r]) (hlasts : r.lasts = []) (hlive : s.cqLive r.ring = true)
    (hroom : s.hasRoom r.ring r.units.length = true) (hfirst : s.earlierRec r = false) :
    s.flushRecs k 1 = (s.setSlot k { s.slotOf k with recs := [], stalled := false }).writeStepRec r := by
  simp [State.flushRecs, hrecs, hlasts, hlive, hroom, hfirst]

theorem State.flushRecs_of_full {rest : List StepRec} (hrecs : (s.slotOf k).recs = r :: rest) (hlive : s.cqLive r.ring = true)
    (hfull : s.hasRoom r.ring r.units.length = false ∨ s.earlierRec r = true) (hnew : (s.slotOf k).stalled = false) (n : Nat) :
    s.flushRecs k (n + 1) =
      ((s.setSlot k { s.slotOf k with stalled := true }).bump Reg.ldgRingStallCount).setBit Reg.ldgErrBits 2 := by
  have hwait : (s.hasRoom r.ring r.units.length && !s.earlierRec r) = false := by
    rcases hfull with h | h <;> simp [h]
  simp [State.flushRecs, hrecs, hlive, hwait, hnew]

/-! ## The boundary of a slot (R214 to R221) -/

theorem State.slotBoundary_of_no_prefill (h : (s.slotOf k).prefill = none) : s.slotBoundary k = s.stepRecordWrite k := by
  simp [State.slotBoundary, h]

theorem State.endFaulted_of_none (h : (s.ldg.entries.filter fun e => e.2.req.model == k && decide (9 ≤ e.2.st) && e.2.agreed != []) = []) :
    s.endFaulted k = s := by
  rw [State.endFaulted, h, List.foldl_nil]

theorem State.memberAcks_of_no_guests (h : s.guests k = []) : s.memberAcks k = s := by
  rw [State.memberAcks, h, List.filter_nil, List.foldl_nil]

theorem State.dropStep_of_busy (h : s.stepBusy k = true) : s.dropStep k = s := by simp [State.dropStep, h]

theorem State.dropStep_of_active (h : s.active (s.rd Reg.ldgModelCfgLodge k) = true) : s.dropStep k = s := by simp [State.dropStep, h]

theorem State.dropStep_of_idle (h : (s.slotOf k).running = false) : s.dropStep k = s := by simp [State.dropStep, h]

/-- What a slot does with its records written: the next step starts unless one runs. -/
def State.goOn (s : State) (k : Nat) : State :=
  if (s.slotOf k).recs = [] then (if (s.slotOf k).running then s else s.reoffer k).startStep k else s

theorem State.goOn_of_running (h : (s.slotOf k).running = true) : s.goOn k = s := by
  simp [State.goOn, State.startStep, h]

theorem State.goOn_of_idle (hrecs : (s.slotOf k).recs = []) (h : (s.slotOf k).running = false) : s.goOn k = (s.reoffer k).startStep k := by
  simp [State.goOn, hrecs, h]

/-- What follows at a slot once its boundary is passed, where no shrink is due: its records, then the next step. -/
def State.flushAndGoOn (s : State) (k : Nat) : State := (s.flushRecs k (s.slotOf k).recs.length).goOn k

/-- A slot of no fault, no member to answer for and no shrink that may take effect: the boundary, the records, the next step. -/
theorem State.stepRecordWrite_eq {t : State} (hfault : s.endFaulted k = s) (hdrop : s.dropStep k = s)
    (hacks : s.stepBusy k = true ∨ s.guests k = []) (hend : (if (s.slotOf k).recs == [] && s.atBoundary k then s.endStep k else s) = t)
    (hshrink : (t.slotOf k).running = true ∨ (t.slotOf k).shrink = none) : s.stepRecordWrite k = t.flushAndGoOn k := by
  have hanswered : (if s.stepBusy k || s.hlt.held.contains k then s else s.memberAcks k) = s := by
    rcases hacks with h | h
    · simp [h]
    · rw [State.memberAcks_of_no_guests h, ite_self]
  have hkept : (!(t.slotOf k).running && (t.slotOf k).shrink.isSome && (t.slotOf k).recs == []) = false := by
    rcases hshrink with h | h <;> simp [h]
  simp only [State.stepRecordWrite, hfault, hdrop, hanswered, hend, hkept, Bool.false_eq_true, if_false]
  rfl

/-- A step with a record that waits and commands under way meets no boundary. -/
theorem State.stepRecordWrite_of_busy (hfault : s.endFaulted k = s) (hbusy : s.stepBusy k = true) (hrun : (s.slotOf k).running = true)
    (hrecs : (s.slotOf k).recs = [r]) : s.stepRecordWrite k = (s.flushRecs k 1).goOn k := by
  have h := State.stepRecordWrite_eq hfault (State.dropStep_of_busy hbusy) (.inl hbusy) (t := s) (by simp [hrecs]) (.inl hrun)
  rwa [State.flushAndGoOn, hrecs] at h

theorem State.stepRecordWrite_of_idle (hfault : s.endFaulted k = s) (hguests : s.guests k = []) (hrun : (s.slotOf k).running = false)
    (hrecs : (s.slotOf k).recs = []) (hshrink : (s.slotOf k).shrink = none) : s.stepRecordWrite k = (s.reoffer k).startStep k := by
  have hno : s.atBoundary k = false := by simp [State.atBoundary, hrun]
  rw [State.stepRecordWrite_eq hfault (State.dropStep_of_idle hrun) (.inr hguests) (t := s) (by simp [hno]) (.inr hshrink),
    State.flushAndGoOn, hrecs]
  exact State.goOn_of_idle hrecs hrun

/-- At its boundary a step ends; with its records written the next one starts. -/
theorem State.stepRecordWrite_of_boundary (hfault : s.endFaulted k = s) (hactive : s.active (s.rd Reg.ldgModelCfgLodge k) = true)
    (hguests : s.guests k = []) (hrecs : (s.slotOf k).recs = []) (hb : s.atBoundary k = true) {v : State}
    (hv : (s.endStep k).flushRecs k ((s.endStep k).slotOf k).recs.length = v) (hshrink : ((s.endStep k).slotOf k).shrink = none)
    (hwritten : (v.slotOf k).recs = []) (hrun : (v.slotOf k).running = false) : s.stepRecordWrite k = (v.reoffer k).startStep k := by
  rw [State.stepRecordWrite_eq hfault (State.dropStep_of_active hactive) (.inr hguests) (t := s.endStep k) (by simp [hrecs, hb])
    (.inr hshrink), State.flushAndGoOn, hv]
  exact State.goOn_of_idle hwritten hrun

end

/-- Settles O34: each LEDGER descriptor is one case of its run on the queue without it; a slot's boundary is one case of `stepRecordWrite_eq`. -/
theorem ledgerCommands : Obligations.LedgerCommands := by
  unfold Obligations.LedgerCommands
  refine ⟨?_, ?_⟩
  · intro s op q hq hroom x u
    have runs {k : State → Cmd → State} {t : State} (h : k u x = t) :
        (.next (s.runLedger op k).choices : Out) = .next t.choices :=
      next_choices_congr ((State.runLedger_of_room hq hroom k).trans h)
    refine ⟨?admission, ?refused, ?late, ?prompt, ?stale, ?running, ?queued, ?query, ?release, ?load, ?drop⟩
    case admission =>
      rintro i rfl hv hfree
      exact ⟨runs (State.ledgerAdmit_of_ok hv hfree), State.admitStart_of_alone⟩
    case refused =>
      rintro rfl hv
      exact runs (State.ledgerAdmit_of_refused hv)
    case late =>
      rintro i e rfl hv hm hlate hst
      exact runs (State.ledgerCancel_of_late hv hm hst hlate)
    case prompt =>
      rintro i e a rfl hv hm hst hc hp
      exact runs (State.ledgerCancel_of_effect hv hm (by omega) (State.cancel_of_prefilling hst hc hp))
    case stale =>
      intro _ hv hm ha
      refine ⟨?_, ?_, ?_⟩
      · rintro rfl
        exact runs (State.ledgerCancel_of_stale hv hm)
      · rintro rfl
        exact runs (State.ledgerQuery_of_stale hv (ha rfl) hm)
      · rintro rfl
        exact runs (State.ledgerRelease_of_stale hv hm)
    case running =>
      rintro i e rfl hv hm hst hc hp
      exact runs (State.ledgerCancel_of_effect hv hm (by omega) (State.cancel_of_running hst hc hp))
    case queued =>
      rintro i e rfl hv hm hst hc
      exact runs (State.ledgerCancel_of_effect hv hm (by omega) (State.cancel_of_queued hst hc))
    case query =>
      rintro i e rfl hv hm ha hacc
      exact runs (State.ledgerQuery_of_mine hv ha hm hacc)
    case release =>
      rintro i e rfl hv hm hst
      exact runs (State.ledgerRelease_of_mine hv hm hst)
    case load =>
      rintro rfl hv n dst hr hw
      exact runs (State.liveryLoad_of_ok hv hr hw)
    case drop =>
      rintro rfl hv
      exact runs (State.liveryDrop_of_ok hv)
  · intro s slot r k x hprefill hfaulted
    have hfault : s.endFaulted k = s := State.endFaulted_of_none hfaulted
    have writes {t : State} (h : s.stepRecordWrite k = t) : exec (.stepRecordWrite slot) s = .next t.choices :=
      next_choices_congr ((State.slotBoundary_of_no_prefill hprefill).trans h)
    refine ⟨fun hbusy hrun hrecs hlasts hlive hroom hfirst => ?_, fun hbusy hrun hrecs hlive hfull hnew => ?_,
      fun hbusy _ hguests hrecs hrun hshrink => ?_, fun hactive hguests hrecs hb => ?_⟩
    · refine writes ((State.stepRecordWrite_of_busy hfault hbusy hrun hrecs).trans ?_)
      rw [State.flushRecs_of_written hrecs hlasts hlive hroom hfirst]
      refine State.goOn_of_running ?_
      rw [State.slotOf, State.writeStepRec_ldg]
      exact State.running_slotOf_setSlot hrun
    · refine writes ((State.stepRecordWrite_of_busy hfault hbusy hrun hrecs).trans ?_)
      rw [State.flushRecs_of_full hrecs hlive hfull hnew]
      refine State.goOn_of_running ?_
      exact State.running_slotOf_setSlot hrun
    · exact writes (State.stepRecordWrite_of_idle hfault hguests hrun hrecs hshrink)
    · intro t v _ hshrink hwritten hidle
      exact writes (State.stepRecordWrite_of_boundary hfault hactive hguests hrecs hb rfl hshrink hwritten hidle)

/-! ## Express groups at the leader (R208, R218, R443) -/

/-- An entry with the answer of member `d` to its GROUP_CHECK: the member agrees, or the refusal of the lowest member stands. -/
def Entry.noted (e : Entry) (d st : Nat) : Entry :=
  let e := { e with waitGroup := e.waitGroup.filter (· != d) }
  if st = St.ok then { e with agreed := e.agreed ++ [d] }
  else { e with failed := match e.failed with | some (f, x) => if f < d then some (f, x) else some (d, st) | none => some (d, st) }

section
variable {e : Entry} {d st : Nat}

theorem Entry.noted_of_ok (h : st = St.ok) :
    e.noted d st = { e with waitGroup := e.waitGroup.filter (· != d), agreed := e.agreed ++ [d] } := if_pos h

theorem Entry.noted_of_refusal (h : st ≠ St.ok) (hf : e.failed = none) :
    e.noted d st = { e with waitGroup := e.waitGroup.filter (· != d), failed := some (d, st) } := by
  simp only [Entry.noted, if_neg h, hf]

theorem filter_ne_of_singleton {l : List Nat} (h : l = [d]) : l.filter (· != d) = [] := by
  simp [h]

end

section
variable {s : State} {m : Msg} {i : Nat} {e : Entry}

theorem State.groupRspIn_of_awaited (hn : s.named (m.fld 1 0 32) = some (i, e)) (hd : e.waitGroup.contains (member m.src) = true)
    (hsrc : m.src = s.memberDev (member m.src)) :
    s.groupRspIn m = (s.setEntry i (e.noted (member m.src) (m.fld 1 32 8))).groupDone i := by
  have hgo : (!e.waitGroup.contains (member m.src) || m.src != s.memberDev (member m.src)) = false := by
    rw [hd, ← hsrc, bne_self_eq_false]
    rfl
  simp only [State.groupRspIn, hn, hgo, Bool.false_eq_true, if_false]
  rfl

theorem State.groupRspIn_of_unnamed (hn : s.named (m.fld 1 0 32) = none) : s.groupRspIn m = s := by
  simp only [State.groupRspIn, hn]

theorem State.groupAckIn_of_ok (hn : s.named (m.fld 1 0 32) = some (i, e)) (hd : e.waitStep.contains (member m.src) = true)
    (hst : m.fld 2 0 8 = St.ok) :
    s.groupAckIn m = s.setEntry i { e with waitStep := e.waitStep.filter (· != member m.src) } := by
  simp only [State.groupAckIn, hn, hd, hst, Bool.not_true, Bool.false_eq_true, if_false, if_true]

theorem State.groupAckIn_of_fault (hn : s.named (m.fld 1 0 32) = some (i, e)) (hd : e.waitStep.contains (member m.src) = true)
    (hst : m.fld 2 0 8 ≠ St.ok) :
    s.groupAckIn m = (s.setEntry i { e with waitStep := e.waitStep.filter (· != member m.src) }).faultLodge e.req.lodge (m.fld 2 0 8) 3
      0xFF 0xFF e.req.tag := by
  simp only [State.groupAckIn, hn, hd, hst, Bool.not_true, Bool.false_eq_true, if_false]

theorem State.groupAckIn_of_unnamed (hn : s.named (m.fld 1 0 32) = none) : s.groupAckIn m = s := by
  simp only [State.groupAckIn, hn]

theorem State.groupMapAckIn_of_named (hn : s.named (m.fld 1 0 32) = some (i, e)) :
    s.groupMapAckIn m = s.setEntry i { e with waitMap := e.waitMap.filter (· != member m.src) } := by
  simp only [State.groupMapAckIn, hn]

theorem State.groupMapAckIn_of_unnamed (hn : s.named (m.fld 1 0 32) = none) : s.groupMapAckIn m = s := by
  simp only [State.groupMapAckIn, hn]

theorem State.groupCheckTimeout_of_awaited {a : Nat} {r : List Nat} (he : s.entry i = some e) (hw : e.waitGroup = a :: r)
    (hst : e.st = 1) : s.groupCheckTimeout i = (s.admitFail i St.spanTimeout).orphanEntry e (s.memberDev a) := by
  simp only [State.groupCheckTimeout, he, hw, hst, if_true]

/-- The first of the members that an entry waits for is taken for dead. -/
theorem State.groupTimeout_of_awaited {wait : Entry → List Nat} {a : Nat} {r : List Nat} (he : s.entry i = some e)
    (hw : wait e = a :: r) (hst : e.st < 8) : s.groupTimeout i wait = s.orphanEntry e (s.memberDev a) := by
  simp only [State.groupTimeout, he, hw, if_neg (Nat.not_le.2 hst)]

/-- The node that a GROUP_NODE carries. -/
def nodeSent (m : Msg) : Nat × Nat × Nat × List Byte := (m.fld 1 32 32, m.fld 2 0 16, member m.src, m.body.take (4 * m.fld 3 0 32))

theorem State.groupNodeIn_of_running (hn : s.named (m.fld 1 0 32) = some (i, e)) (hst : e.st = 6)
    (hd : e.group.contains (member m.src) = true) : s.groupNodeIn m = s.nodeAtEntry i (member m.src) e (nodeSent m) := by
  have hhere : ((s.named (m.fld 1 0 32)).filter fun e => e.2.st == 6 && e.2.group.contains (member m.src)) = some (i, e) := by
    rw [hn, Option.filter_some, if_pos (by rw [hst, hd]; rfl)]
  simp only [State.groupNodeIn, hhere]
  rfl

/-! ## Express groups at a member (R218, R443) -/

theorem State.groupNodeIn_of_member {k : Nat} {r : Member} (hn : s.named (m.fld 1 0 32) = none)
    (hr : s.ldg.members.find? (fun r => r.1 % 2 ^ 32 == m.fld 1 0 32 && bitAt (member m.src) r.2.members) = some (k, r)) :
    s.groupNodeIn m = (s.setMember k { r with red := r.red.add (nodeSent m) }).reduceMember k (r.red.todo.length + 1) := by
  simp only [State.groupNodeIn, hn, Option.filter_none, hr]
  rfl

theorem State.groupNodeIn_of_unnamed (hn : s.named (m.fld 1 0 32) = none)
    (hr : s.ldg.members.find? (fun r => r.1 % 2 ^ 32 == m.fld 1 0 32 && bitAt (member m.src) r.2.members) = none) : s.groupNodeIn m = s := by
  simp only [State.groupNodeIn, hn, Option.filter_none, hr]

/-- The member record that a GROUP_CHECK asks for. -/
def checkedMember (m : Msg) : Member :=
  { tenant := m.tenant, slot := m.fld 2 0 3, fb := m.fld 2 8 3, index := m.fld 1 35 6, log2 := m.fld 1 32 3, members := m.word 6,
    livery := if bitAt 16 (m.word 2) then 65536 else m.fld 2 32 16, lens := (m.fld 5 0 32, m.fld 5 32 32), step := 0, pos := 0, tokens := [],
    fallback := false, stepping := false, joined := false, red := Reduce.idle }

theorem State.groupCheckIn_of_ok (hok : s.groupVerdict m = St.ok) :
    s.groupCheckIn m = (s.setMember (farKey m.src (m.fld 1 0 32)) (checkedMember m)).answer m 0x29 [m.fld 1 0 32] [] := by
  simp only [State.groupCheckIn, hok, if_true]
  rfl

theorem State.groupCheckIn_of_refused (hbad : s.groupVerdict m ≠ St.ok) :
    s.groupCheckIn m = s.answer m 0x29 [m.fld 1 0 32 + s.groupVerdict m * 2 ^ 32] [] := by
  simp only [State.groupCheckIn, if_neg hbad]

/-- The step that a GROUP_STEP sets, in a member's record. -/
def steppedMember (m : Msg) (r : Member) : Member :=
  { r with step := m.fld 1 32 32, pos := m.fld 2 0 32, tokens := (natsFrom 0 (m.fld 2 32 4)).map fun n => m.fld (3 + n / 2) (32 * (n % 2)) 32,
           fallback := bitAt 36 (m.word 2), stepping := true, joined := false }

theorem State.groupStepIn_of_end (h : bitAt 37 (m.word 2) = true) :
    s.groupStepIn m = { s with ldg := { s.ldg with members := Tbl.del (farKey m.src (m.fld 1 0 32)) s.ldg.members } } := if_pos h

theorem State.groupStepIn_of_step (h : bitAt 37 (m.word 2) = false) :
    s.groupStepIn m = { s with ldg := { s.ldg with members := Tbl.adjust (farKey m.src (m.fld 1 0 32)) (steppedMember m) s.ldg.members } } := by
  simp only [State.groupStepIn, h, Bool.false_eq_true, if_false]
  rfl

theorem State.groupMapIn_of_unknown (hr : Tbl.find (farKey m.src (m.fld 1 0 32)) s.ldg.members = none) :
    s.groupMapIn m = s.answer m 0x27 [m.fld 1 0 32 + St.staleHandle * 2 ^ 32] [] := by
  simp only [State.groupMapIn, hr]

section
variable {r : Member} (hr : Tbl.find (farKey m.src (m.fld 1 0 32)) s.ldg.members = some r)
include hr

theorem State.groupMapIn_of_removed (hme : bitAt (member s.self) (m.word 2) = false) :
    s.groupMapIn m = ({ s with ldg := { s.ldg with members := Tbl.del (farKey m.src (m.fld 1 0 32)) s.ldg.members } } : State).answer m 0x27
      [m.fld 1 0 32] [] := by
  simp only [State.groupMapIn, hr, hme, Bool.false_eq_true, if_false]

theorem State.groupMapIn_of_kept (hme : bitAt (member s.self) (m.word 2) = true) :
    s.groupMapIn m = (s.setMember (farKey m.src (m.fld 1 0 32)) { r with
      log2 := m.fld 1 32 3, members := m.word 2, index := ((bitList 64 (m.word 2)).filter (· < member s.self)).length }).answer m 0x27
      [m.fld 1 0 32] [] := by
  simp only [State.groupMapIn, hr, hme, if_true]
  rfl

end

/-- A member that misses a node of the reduction under way takes the first that owes one for dead. -/
theorem State.memberTimeout_of_missing {k l a : Nat} {x : Member} {r : List Nat} (hx : s.ldg.members[i]? = some (k, x))
    (hj : x.joined = true) (hmiss : x.red.missing (member s.self) x.group = a :: r) (hl : s.tenantLodge x.tenant = some l) :
    s.memberTimeout i = s.orphanLodge l St.spanTimeout 3 0xFF 0xFF 0 x.tenant (s.memberDev a) := by
  simp only [State.memberTimeout, hx, hj, if_true, hmiss, hl]

theorem State.groupSilent_of_entry (h : i < 65536) :
    s.groupSilent i = s.groupTimeout i fun e => e.waitStep ++ e.red.missing (member s.self) e.group := if_pos h

theorem State.groupSilent_of_member (s : State) (i : Nat) : s.groupSilent (65536 + i) = s.memberTimeout i := by
  rw [State.groupSilent, if_neg (Nat.not_lt.2 (Nat.le_add_right _ _)), Nat.add_sub_cancel_left]

end

/-- Settles O35: a message is one case of its handler; what an answer lets go on follows from the entry that was put. -/
theorem expressGroups : Obligations.ExpressGroups := by
  unfold Obligations.ExpressGroups
  intro s m i e h d
  have hfirst {a : Nat} {l r : List Nat} (hl : l = a :: r) : l.contains a = true := by rw [hl, List.contains_cons, beq_self_eq_true]; rfl
  refine ⟨?checked, ?refused, ?lastAgreed, ?lastRefused, ?notLast, ?ended, ?stepped, ?nothing, ?nodeHere, ?nodeMember, ?acked, ?faulted,
    ?mapUnknown, ?mapRemoved, ?mapKept, ?mapAcked, ?checkTimeout, ?stepTimeout, ?memberTimeout, ?mapTimeout⟩
  case checked => exact fun hok => next_choices_congr (State.groupCheckIn_of_ok hok)
  case refused => exact fun hbad => next_choices_congr (State.groupCheckIn_of_refused hbad)
  case lastAgreed =>
    intro hn hw hsrc hok hst hf
    refine next_choices_congr ((State.groupRspIn_of_awaited hn (hfirst hw) hsrc).trans ?_)
    rw [Entry.noted_of_ok hok, filter_ne_of_singleton hw]
    exact State.groupDone_of_agreed (State.entry_setEntry ..) hst rfl hf
  case lastRefused =>
    intro hn hw hsrc hst
    refine ⟨fun hbad hf => ?_, fun f st hok hf => ?_⟩
    · refine next_choices_congr ((State.groupRspIn_of_awaited hn (hfirst hw) hsrc).trans ?_)
      rw [Entry.noted_of_refusal hbad hf, filter_ne_of_singleton hw]
      exact State.groupDone_of_failed (State.entry_setEntry ..) hst rfl rfl
    · refine next_choices_congr ((State.groupRspIn_of_awaited hn (hfirst hw) hsrc).trans ?_)
      rw [Entry.noted_of_ok hok, filter_ne_of_singleton hw]
      exact State.groupDone_of_failed (State.entry_setEntry ..) hst rfl hf
  case notLast =>
    intro hn hd hsrc hrest
    refine ⟨fun hok => ?_, fun hbad hf => ?_⟩
    · refine next_choices_congr ((State.groupRspIn_of_awaited hn hd hsrc).trans ?_)
      rw [Entry.noted_of_ok hok]
      exact State.groupDone_of_waiting (State.entry_setEntry ..) hrest
    · refine next_choices_congr ((State.groupRspIn_of_awaited hn hd hsrc).trans ?_)
      rw [Entry.noted_of_refusal hbad hf]
      exact State.groupDone_of_waiting (State.entry_setEntry ..) hrest
  case ended => exact fun hend => next_choices_congr (State.groupStepIn_of_end hend)
  case stepped =>
    intro r hstep hr x
    refine ⟨_, next_choices_congr (State.groupStepIn_of_step hstep), rfl, Tbl.find_adjust_self hr, fun k hk => Tbl.find_adjust_other hk⟩
  case nothing =>
    intro hn hr
    exact ⟨next_choices_congr (State.groupRspIn_of_unnamed hn), next_choices_congr (State.groupNodeIn_of_unnamed hn hr),
      next_choices_congr (State.groupAckIn_of_unnamed hn), next_choices_congr (State.groupMapAckIn_of_unnamed hn)⟩
  case nodeHere => exact fun hn hst hd => next_choices_congr (State.groupNodeIn_of_running hn hst hd)
  case nodeMember => exact fun hn k r hr => next_choices_congr (State.groupNodeIn_of_member hn hr)
  case acked => exact fun hn hd hok => next_choices_congr (State.groupAckIn_of_ok hn hd hok)
  case faulted => exact fun hn hd hbad => next_choices_congr (State.groupAckIn_of_fault hn hd hbad)
  case mapUnknown => exact fun hr => next_choices_congr (State.groupMapIn_of_unknown hr)
  case mapRemoved => exact fun r hr hme => next_choices_congr (State.groupMapIn_of_removed hr hme)
  case mapKept => exact fun r hr hme => next_choices_congr (State.groupMapIn_of_kept hr hme)
  case mapAcked => exact fun hn => next_choices_congr (State.groupMapAckIn_of_named hn)
  case checkTimeout => exact fun a r he hw hst => next_choices_congr (State.groupCheckTimeout_of_awaited he hw hst)
  case stepTimeout =>
    exact fun a r hi he hw hst =>
      next_choices_congr ((State.groupSilent_of_entry hi).trans (State.groupTimeout_of_awaited he hw hst))
  case memberTimeout =>
    exact fun k x l a r hx hj hmiss hl =>
      next_choices_congr ((State.groupSilent_of_member s i).trans (State.memberTimeout_of_missing hx hj hmiss hl))
  case mapTimeout => exact fun a r he hw hst => next_choices_congr (State.groupTimeout_of_awaited he hw hst)

/-! ## The ledger's side of a prefill (R205, R211, R222, R250) -/

/-- The tokens that a Prompt device reports queued are noted. -/
def State.noteQueued (s : State) (d n : Nat) : State :=
  { s with ldg := { s.ldg with queuedTokens := Tbl.set 0 d n s.ldg.queuedTokens } }

section
variable {s : State} {m : Msg} {i : Nat} {e : Entry}

/-- The Prompt device asked last takes the request, or is passed over until the next round of offers. -/
theorem State.prefillAckIn_of_asked (hn : s.named (m.fld 1 0 32) = some (i, e)) (hst : e.st = 2) (ho : e.offered = some (member m.src))
    (hsrc : m.src = s.memberDev (member m.src)) (hpush : ¬ (m.fld 1 32 8 = St.noPages ∧ e.path = 1)) :
    let t := s.noteQueued (member m.src) (m.fld 1 40 24)
    s.prefillAckIn m =
      if m.fld 1 32 8 = St.ok then (t.setEntry i { e with offered := none, prompt := some (member m.src), busy := [] }).toSt i 3
      else (t.setEntry i { e with offered := none, busy := e.busy ++ [member m.src] }).offer i := by
  have hasked : ¬ (e.st ≠ 2 ∨ e.offered ≠ some (member m.src) ∨ m.src ≠ s.memberDev (member m.src)) := by simp [hst, ho, ← hsrc]
  simp only [State.prefillAckIn, hn, if_neg hasked, if_neg hpush]
  rfl

/-- The state after PREFILL_DONE has brought the first token of entry `i` with the layers it pushed. -/
def State.prefilled (s : State) (i : Nat) (e : Entry) (layers tok : Nat) : State :=
  ((s.setEntry i { e with doneLayers := some layers }).firstToken i tok).modSlot e.req.model fun x => { x with firsts := x.firsts ++ [i] }

/-- PREFILL_DONE of the Prompt device that has the request: its first token, and the handover on the main path; or a fault, or its end. -/
theorem State.prefillDoneIn_of_due (hn : s.named (m.fld 1 0 32) = some (i, e)) (hst : e.st = 3) (hpath : e.path ≠ 0)
    (hp : e.prompt = some (member m.src)) (hsrc : m.src = s.memberDev (member m.src)) :
    let t := s.prefilled i e (m.fld 2 32 8) (m.fld 2 0 32)
    s.prefillDoneIn m =
      if m.fld 1 32 8 = St.ok then
        if e.path = 1 then
          (t.toSt i 4).lsend e.req.lodge (t.rd Reg.ldgModelHomeHome e.req.model) 0x43 e.req.tenant
            [handleOf i e + m.src * 2 ^ 32 + (t.toSt i 4).kvPoolOf e * 2 ^ 56, e.kvList.2, e.shared + (e.first - e.shared) * 2 ^ 32]
        else t.pushSettle i
      else if m.fld 1 32 8 = St.memUncorr then s.faultLodge e.req.lodge (m.fld 1 32 8) 3 0xFF 0xFF e.req.tag
      else s.endOutside i (if m.fld 1 32 8 = St.cancelled && e.cancel then 3 else 4) := by
  have hdue : ¬ (e.st ≠ 3 ∨ e.path = 0 ∨ e.prompt ≠ some (member m.src) ∨ m.src ≠ s.memberDev (member m.src)) := by
    simp [hst, hpath, hp, ← hsrc]
  simp only [State.prefillDoneIn, hn, if_neg hdue]
  rfl

theorem State.prefillAckIn_of_unnamed (hn : s.named (m.fld 1 0 32) = none) : s.prefillAckIn m = s := by
  simp only [State.prefillAckIn, hn]

theorem State.prefillDoneIn_of_unnamed (hn : s.named (m.fld 1 0 32) = none) : s.prefillDoneIn m = s := by
  simp only [State.prefillDoneIn, hn]

theorem State.prefillTimeout_of_silent {a : Nat} (he : s.entry i = some e) (hp : e.prompt = some a) (hst : e.st = 3) (hpath : e.path ≠ 0)
    (hdone : e.doneLayers = none) : s.prefillTimeout i = (s.setBit Reg.ldgErrBits 0).orphanEntry e (s.memberDev a) := by
  have hsilent : e.st = 3 ∧ e.path ≠ 0 ∧ e.doneLayers = none := ⟨hst, hpath, hdone⟩
  simp only [State.prefillTimeout, he, hp, if_pos hsilent]

theorem State.layerAckIn_of_prefilling (hn : s.named (m.fld 1 0 32) = some (i, e)) (hst : e.st = 3) (hpath : e.path ≠ 0) :
    s.layerAckIn m = (s.setEntry i { e with layers := sortDedup ((m.fld 1 32 8 + 256 * m.fld 1 40 1) :: e.layers) }).pushSettle i := by
  have hdue : ¬ (e.st ≠ 3 ∨ e.path = 0) := by simp [hst, hpath]
  simp only [State.layerAckIn, hn, if_neg hdue]

theorem State.layerAckIn_of_unnamed (hn : s.named (m.fld 1 0 32) = none) : s.layerAckIn m = s.bump Reg.wanStaleCount := by
  simp only [State.layerAckIn, hn]

/-! ## The ledger's end of a handover (R205, R248) -/

theorem State.handoverRspIn_of_unnamed (hn : s.named (m.fld 1 0 32) = none) : s.handoverRspIn m = s.bump Reg.wanStaleCount := by
  simp only [State.handoverRspIn, hn]

theorem State.enterGen_of_uncancelled (he : s.entry i = some e) (hc : e.cancel = false) : s.enterGen i = s.toSt i 5 := by
  simp [State.enterGen, he, hc]

/-- HOME's answer to a handover: the pages handed over enter the entry's list and the entry is ready for a batch; or HOME is dead, or a fault. -/
theorem State.handoverRspIn_of_due (hn : s.named (m.fld 1 0 32) = some (i, e)) (hst : e.st = 4)
    (hsrc : m.src = s.rd Reg.ldgModelHomeHome e.req.model) :
    let ws := s.listWords e.req.lodge e.kvList.2 e.shared (e.first - e.shared)
    let t := ((natsFrom e.shared ws.length).zip ws).foldl (fun t x => Tbl.put x.1 x.2 t) e.pages.1
    s.handoverRspIn m =
      if m.fld 1 32 8 = St.ok then (s.setEntry i { e with pages := (t, e.pages.2) }).enterGen i
      else if m.fld 1 32 8 = St.spanTimeout then s.orphanEntry e m.src
      else s.faultLodge e.req.lodge (m.fld 1 32 8) 3 0xFF 0xFF e.req.tag := by
  have hdue : ¬ (e.st ≠ 4 ∨ m.src ≠ s.rd Reg.ldgModelHomeHome e.req.model) := by simp [hst, ← hsrc]
  simp only [State.handoverRspIn, hn, if_neg hdue]

theorem State.handoverTimeout_of_awaited {h : Nat} (hn : s.named h = some (i, e)) (hst : e.st = 4) :
    s.handoverTimeout h = (s.setBit Reg.wanErrBits 2).orphanEntry e (s.rd Reg.ldgModelHomeHome e.req.model) := by
  simp only [State.handoverTimeout, hn, if_pos hst]

/-! ## The answers to an entry's page operations (R209, R222) -/

theorem State.allocMore_of_ending (he : s.entry i = some e) (hst : 7 ≤ e.st) : s.allocMore i = s := by
  simp only [State.allocMore, he, if_pos (Or.inl hst)]

/-- A RELEASE of a request that is ending is answered: it is DONE once no answer is due. -/
theorem State.pageRspIn_of_released {a n : Nat} (hn : s.named (m.fld 1 0 32) = some (i, e))
    (ho : e.pageOps.find? (·.1 == m.src) = some (m.src, a, n, 1)) (hst : e.st = 7) :
    let t := s.setEntry i { e with pageOps := e.pageOps.erase (m.src, a, n, 1) }
    s.pageRspIn m = if e.pageOps.erase (m.src, a, n, 1) = [] then t.toDone i else t := by
  have hanswered : s.answered e (m.src, a, n, 1) m.src (m.fld 1 32 8) = { e with pageOps := e.pageOps.erase (m.src, a, n, 1) } := by
    simp [State.answered]
  have hkept : (s.setEntry i { e with pageOps := e.pageOps.erase (m.src, a, n, 1) }).allocMore i = _ :=
    State.allocMore_of_ending (State.entry_setEntry ..) (Nat.le_of_eq hst.symm)
  have hadmitted : e.st ≠ 1 := by omega
  simp only [State.pageRspIn, hn, ho, hanswered, hkept, if_neg hadmitted, Nat.one_ne_zero, false_and, and_false, if_false]
  simp only [hst, true_and]

/-! ## Page operations at their home (R211, R296, R297) -/

theorem State.pageOpIn_of_no_lodge (hl : s.tenantLodge m.tenant = none) : s.pageOpIn m = s.pageRsp m St.noLodge := by
  simp only [State.pageOpIn, hl]

section
variable {l : Nat} (hl : s.tenantLodge m.tenant = some l)
include hl

theorem State.pageOpIn_of_stopped (hs : s.lodge l = 4 ∨ s.lodge l = 5) : s.pageOpIn m = s.pageRsp m St.notReady := by
  simp only [State.pageOpIn, hl, if_pos hs]

variable (hs : ¬ (s.lodge l = 4 ∨ s.lodge l = 5))
include hs

theorem State.pageOpIn_of_alloc_refused (hop : m.fld 4 8 2 = 0) (hp : s.rd Reg.lodPersonaPersona < 2 ∨ s.on Reg.lodPersonaDrain = true) :
    s.pageOpIn m = s.pageRsp m St.noPages := by
  simp only [State.pageOpIn, hl, if_neg hs, if_pos hop, if_pos hp]

/-- An ALLOC is served at once from the first entry of a list on; from a later one the page before it is read first. -/
theorem State.pageOpIn_of_alloc (hop : m.fld 4 8 2 = 0) (hp : 2 ≤ s.rd Reg.lodPersonaPersona) (hd : s.on Reg.lodPersonaDrain = false) :
    s.pageOpIn m = if m.fld 2 0 32 = 0 then s.homeAlloc l m noParent else s.listRead l m (m.fld 2 0 32 - 1) 1 := by
  have hserves : ¬ (s.rd Reg.lodPersonaPersona < 2 ∨ s.on Reg.lodPersonaDrain = true) :=
    not_or.2 ⟨Nat.not_lt.2 hp, Bool.eq_false_iff.1 hd⟩
  simp only [State.pageOpIn, hl, if_neg hs, if_pos hop, if_neg hserves]

theorem State.pageOpIn_of_unknown (hop : m.fld 4 8 2 = 3) : s.pageOpIn m = s.pageRsp m St.badOperand := by
  simp [State.pageOpIn, hl, if_neg hs, hop]

/-- A RELEASE or SHARE_ADD reads the part of the list that it names; one of no entry is answered at once. -/
theorem State.pageOpIn_of_listed (h0 : m.fld 4 8 2 ≠ 0) (h3 : m.fld 4 8 2 ≠ 3) :
    s.pageOpIn m = if m.fld 2 32 32 = 0 then s.pageRsp m St.ok else s.listRead l m (m.fld 2 0 32) (m.fld 2 32 32) := by
  simp only [State.pageOpIn, hl, if_neg hs, if_neg h0, if_neg h3]

end

/-! ## The Prompt device (R211, R222, R243, R244) -/

theorem State.prefillIn_of_busy (h : s.rd Reg.lodPersonaPersona ≠ 1 ∨ s.on Reg.lodPersonaDrain = true) :
    s.prefillIn m = s.ackPrefill m St.busy := if_pos h

section
variable (hserves : ¬ (s.rd Reg.lodPersonaPersona ≠ 1 ∨ s.on Reg.lodPersonaDrain = true))
include hserves

theorem State.prefillIn_of_no_lodge (hl : s.tenantLodge m.tenant = none) : s.prefillIn m = s.ackPrefill m St.modelMismatch := by
  simp only [State.prefillIn, if_neg hserves, hl]

variable {l : Nat} (hl : s.tenantLodge m.tenant = some l)
include hl

theorem State.prefillIn_of_no_slot (h : s.keySlot l (m.fld 3 0 48) = none ∨ s.keySlot l (m.fld 4 0 48) = none) :
    s.prefillIn m = s.ackPrefill m St.modelMismatch := by
  simp only [State.prefillIn, if_neg hserves, hl]
  rcases h with h | h <;> simp [h]

variable {k fb : Nat} (hk : s.keySlot l (m.fld 3 0 48) = some k) (hfb : s.keySlot l (m.fld 4 0 48) = some fb)
include hk hfb

theorem State.prefillIn_of_push (hpath : m.fld 2 32 2 ≠ 1) :
    s.prefillIn m = ((s.takeSub (farKey m.src (m.fld 1 0 32)) ⟨m, l, k, fb, true, 0, [], [], false, s.ldg.orders, 0, none⟩).ackPrefill m
      St.ok).startPrefill k := by
  simp only [State.prefillIn, if_neg hserves, hl, hk, hfb, if_pos hpath]

theorem State.prefillIn_of_no_home (hpath : m.fld 2 32 2 = 1) (hhome : s.rd Reg.ldgModelHomeHome k = 0xFFFFFF) :
    s.prefillIn m = s.ackPrefill m St.noPages := by
  simp only [State.prefillIn, if_neg hserves, hl, hk, hfb, if_neg (Decidable.not_not.2 hpath), if_pos hhome]

end

theorem State.prefillCancelIn_of_sub {x : Sub} (hx : s.sub (farKey m.src (m.fld 1 0 32)) = some x) :
    s.prefillCancelIn m = (s.setSub (farKey m.src (m.fld 1 0 32)) { x with cancel := true }).settlePrompt := by
  simp only [State.prefillCancelIn, hx]

theorem State.prefillCancelIn_of_none (hx : s.sub (farKey m.src (m.fld 1 0 32)) = none) : s.prefillCancelIn m = s := by
  simp only [State.prefillCancelIn, hx]

theorem State.fenceWaits_of_no_subs (h : s.ldg.subs = []) (m : Msg) : s.fenceWaits m = false := by
  rw [State.fenceWaits, h, List.any_nil, Bool.false_and]

/-- With no prefill and no other fence, a FENCE is answered at once and its handle is quiet. -/
theorem State.fenceIn_of_idle (hsubs : s.ldg.subs = []) (hfences : s.wan.fences = []) :
    s.fenceIn m = ({ s with wan := { s.wan with quiet := s.wan.quiet ++ [(m.src, m.fld 1 0 32)] } } : State).answer m 0x45
      [m.fld 1 0 32] [] := by
  have hgo : ({ s with wan := { s.wan with fences := [m] } } : State).fenceWaits m = false := State.fenceWaits_of_no_subs hsubs m
  simp [State.fenceIn, State.settlePrompt, State.keepFences, hsubs, hfences, hgo]

end

/-- Settles O36: each message, answer and time-out is one case of its handler. -/
theorem prefillPaths : Obligations.PrefillPaths := by
  unfold Obligations.PrefillPaths
  intro s m i e h d
  have serves (hp : s.rd Reg.lodPersonaPersona = 1) (hd : s.on Reg.lodPersonaDrain = false) :
      ¬ (s.rd Reg.lodPersonaPersona ≠ 1 ∨ s.on Reg.lodPersonaDrain = true) := by simp [hp, hd]
  have runs {l : Nat} (hl : s.lodge l = 1) : ¬ (s.lodge l = 4 ∨ s.lodge l = 5) := by omega
  refine ⟨?accepted, ?busy, ?refused, ?taken, ?passed, ?push, ?done, ?cancelled, ?unknownCancel, ?silent, ?listed, ?alloc, ?allocLater,
    ?noLodge, ?opRefused, ?answerDue, ?lastAnswer, ?layer, ?unnamed, ?handedOver, ?handoverFailed, ?handoverSilent, ?fence⟩
  case accepted => exact fun l k fb hp hd hl hk hfb hpath => next_choices_congr (State.prefillIn_of_push (serves hp hd) hl hk hfb hpath)
  case busy => exact fun hbusy => next_choices_congr (State.prefillIn_of_busy hbusy)
  case refused =>
    exact fun hp hd => ⟨fun hl => next_choices_congr (State.prefillIn_of_no_lodge (serves hp hd) hl), fun l hl =>
      ⟨fun hno => next_choices_congr (State.prefillIn_of_no_slot (serves hp hd) hl hno), fun k fb hk hfb hpath hhome =>
        next_choices_congr (State.prefillIn_of_no_home (serves hp hd) hl hk hfb hpath hhome)⟩⟩
  case taken =>
    intro hn hst ho hsrc hok
    have hpush : ¬ (m.fld 1 32 8 = St.noPages ∧ e.path = 1) := fun hno => absurd (hok.symm.trans hno.1) (by decide)
    exact next_choices_congr ((State.prefillAckIn_of_asked hn hst ho hsrc hpush).trans (if_pos hok))
  case passed =>
    exact fun hn hst ho hsrc hbad hpath =>
      next_choices_congr ((State.prefillAckIn_of_asked hn hst ho hsrc (Decidable.not_and_iff_not_or_not.2 hpath)).trans (if_neg hbad))
  case push =>
    intro hn hst hpath hp hsrc hok
    refine next_choices_congr ((State.prefillDoneIn_of_due hn hst (by omega) hp hsrc).trans ?_)
    rw [if_pos hok, if_neg (by omega)]
    rfl
  case done =>
    intro hn hst hp hsrc
    refine ⟨fun hpath hok => ?_, fun hpath hfault => ?_, fun hpath hbad hfault => ?_⟩
    · refine next_choices_congr ((State.prefillDoneIn_of_due hn hst (by omega) hp hsrc).trans ?_)
      rw [if_pos hok, if_pos hpath]
      rfl
    · have hbad : m.fld 1 32 8 ≠ St.ok := hfault ▸ by decide
      refine next_choices_congr ((State.prefillDoneIn_of_due hn hst hpath hp hsrc).trans ?_)
      rw [if_neg hbad, if_pos hfault, hfault]
    · refine next_choices_congr ((State.prefillDoneIn_of_due hn hst hpath hp hsrc).trans ?_)
      rw [if_neg hbad, if_neg hfault]
  case cancelled => exact fun x hx => next_choices_congr (State.prefillCancelIn_of_sub hx)
  case unknownCancel => exact fun hx => next_choices_congr (State.prefillCancelIn_of_none hx)
  case silent => exact fun a he hp hst hpath hdone => next_choices_congr (State.prefillTimeout_of_silent he hp hst hpath hdone)
  case listed =>
    exact fun l hl hs h0 h3 hcount => next_choices_congr ((State.pageOpIn_of_listed hl (runs hs) h0 h3).trans (if_neg hcount))
  case alloc =>
    exact fun l hl hs hop hfirst hp hd => next_choices_congr ((State.pageOpIn_of_alloc hl (runs hs) hop hp hd).trans (if_pos hfirst))
  case allocLater =>
    exact fun l hl hs hop hfirst hp hd => next_choices_congr ((State.pageOpIn_of_alloc hl (runs hs) hop hp hd).trans (if_neg hfirst))
  case noLodge => exact fun hl => next_choices_congr (State.pageOpIn_of_no_lodge hl)
  case opRefused =>
    intro l hl
    refine ⟨fun hs => next_choices_congr (State.pageOpIn_of_stopped hl hs), fun h4 h5 => ?_⟩
    have hs : ¬ (s.lodge l = 4 ∨ s.lodge l = 5) := not_or.2 ⟨h4, h5⟩
    refine ⟨fun hop hp => ?_, fun hop => ?_, fun hop hcount => ?_⟩
    · exact next_choices_congr (State.pageOpIn_of_alloc_refused hl hs hop hp)
    · exact next_choices_congr (State.pageOpIn_of_unknown hl hs hop)
    · exact next_choices_congr ((State.pageOpIn_of_listed hl hs (by omega) (by omega)).trans (if_pos hcount))
  case answerDue => exact fun a n hn ho hrest hst => next_choices_congr ((State.pageRspIn_of_released hn ho hst).trans (if_neg hrest))
  case lastAnswer =>
    intro a n hn hops hst
    have hfind : e.pageOps.find? (·.1 == m.src) = some (m.src, a, n, 1) := by simp [hops]
    have hnone : e.pageOps.erase (m.src, a, n, 1) = [] := by simp [hops]
    rw [← hnone]
    exact next_choices_congr ((State.pageRspIn_of_released hn hfind hst).trans (if_pos hnone))
  case layer => exact fun hn hst hpath => next_choices_congr (State.layerAckIn_of_prefilling hn hst hpath)
  case unnamed =>
    exact fun hn => ⟨next_choices_congr (State.layerAckIn_of_unnamed hn), next_choices_congr (State.handoverRspIn_of_unnamed hn),
      next_choices_congr (State.prefillAckIn_of_unnamed hn), next_choices_congr (State.prefillDoneIn_of_unnamed hn)⟩
  case handedOver =>
    intro hn hst hsrc hok hc
    refine next_choices_congr ((State.handoverRspIn_of_due hn hst hsrc).trans ((if_pos hok).trans ?_))
    exact State.enterGen_of_uncancelled (State.entry_setEntry ..) hc
  case handoverFailed =>
    intro hn hst hsrc
    refine ⟨fun hlost => ?_, fun hbad hlost => ?_⟩
    · have hbad : m.fld 1 32 8 ≠ St.ok := hlost ▸ by decide
      exact next_choices_congr ((State.handoverRspIn_of_due hn hst hsrc).trans ((if_neg hbad).trans (if_pos hlost)))
    · exact next_choices_congr ((State.handoverRspIn_of_due hn hst hsrc).trans ((if_neg hbad).trans (if_neg hlost)))
  case handoverSilent => exact fun hn hst => next_choices_congr (State.handoverTimeout_of_awaited hn hst)
  case fence => exact fun hsubs hfences => next_choices_congr (State.fenceIn_of_idle hsubs hfences)

end Sys2Proof.Machine
end

section
/-!
PROOFS. The statements of 08_wain_state_movement.md: moves, pushes, blocks and streams, and the handover of ownership.
-/

namespace Sys2Proof.Machine

/-! ## WAIN_MOVE (R252) -/

theorem exec_wainMove {s : State} {core : Fin 160} {place : Fin 4} {j : Job} (h : Running s core (wainPlace place) 4 1 j) :
    exec (.wainMove core place) s = .next ((s.setJob core (wainPlace place) j).wainMove core (wainPlace place) j).choices :=
  congrArg _ (congrArg State.choices (h.runSlot _ _))

section
variable {s : State} {c p : Nat} {j : Job} (hr : j.result = 0)
include hr

theorem State.wainMove_of_here (hsrc : j.cmd.wSrcDev = s.self) (hdst : j.cmd.wDstDev = s.self)
    (hread : s.readStatus j.cmd.lodge (j.cmd.w 1) j.cmd.wLen = St.ok)
    (hwrite : s.accessStatus j.cmd.lodge (j.cmd.w 2) j.cmd.wLen = St.ok) :
    s.wainMove c p j = (s.touch j.cmd.lodge (j.cmd.w 1) j.cmd.wLen false).toFence c p
      { j with direct := [(j.cmd.w 2, s.peek j.cmd.lodge (j.cmd.w 1) j.cmd.wLen)] } := by
  have hok : firstBad [s.readStatus j.cmd.lodge (j.cmd.w 1) j.cmd.wLen, s.accessStatus j.cmd.lodge (j.cmd.w 2) j.cmd.wLen] = St.ok :=
    firstBad_eq_ok_iff.2 (by simp [hread, hwrite])
  exact (if_neg (Decidable.not_not.2 hr)).trans <| (if_pos ⟨hsrc, hdst⟩).trans <| if_neg (Decidable.not_not.2 hok)

theorem State.wainMove_of_sent (hsrc : j.cmd.wSrcDev = s.self) (hdst : j.cmd.wDstDev ≠ s.self)
    (hroute : s.noRoute j.cmd.lodge j.cmd.wDstDev = false) :
    s.wainMove c p j = (s.setJob c p { j with result := 1 }).takeId.1.openStream s.wan.nextId
      { core := c, place := p, cmd := some j.cmd, dst := j.cmd.wDstDev, id := s.wan.nextId, tenant := j.cmd.wTenant, lodge := j.cmd.lodge,
        engine := none, compress := j.cmd.wCompress, kv := none, segs := [(j.cmd.w 1, j.cmd.w 2, j.cmd.wLen)], next := 0, open_ := [] } := by
  have hroute : ¬ s.noRoute j.cmd.lodge (if j.cmd.wSrcDev = s.self then j.cmd.wDstDev else j.cmd.wSrcDev) = true := by
    rw [if_pos hsrc, hroute]
    exact Bool.false_ne_true
  exact (if_neg (Decidable.not_not.2 hr)).trans <| (if_neg fun h => hdst h.2).trans <| (if_neg hroute).trans <| if_pos hsrc

theorem State.wainMove_of_pulled (hsrc : j.cmd.wSrcDev ≠ s.self) (hroute : s.noRoute j.cmd.lodge j.cmd.wSrcDev = false) :
    s.wainMove c p j = (s.setJob c p { j with result := 1 }).takeId.1.sendPull s.wan.nextId
      { core := c, place := p, cmd := j.cmd, dev := j.cmd.wSrcDev, engine := none, got := [] } := by
  have hroute : ¬ s.noRoute j.cmd.lodge (if j.cmd.wSrcDev = s.self then j.cmd.wDstDev else j.cmd.wSrcDev) = true := by
    rw [if_neg hsrc, hroute]
    exact Bool.false_ne_true
  exact (if_neg (Decidable.not_not.2 hr)).trans <| (if_neg fun h => hsrc h.1).trans <| (if_neg hroute).trans <| if_neg hsrc

end

/-! ## WAIN_PUSH_KV (R250) -/

theorem exec_wainPushKv {s : State} {core : Fin 160} {place : Fin 4} {j : Job} (h : Running s core (wainPlace place) 4 2 j) :
    exec (.wainPushKv core place) s = .next ((s.setJob core (wainPlace place) j).wainPush core (wainPlace place) j).choices :=
  congrArg _ (congrArg State.choices (h.runSlot _ _))

section
variable {s : State} {c p : Nat} {j : Job} (hr : j.result = 0)
include hr

theorem State.wainPush_of_far_list (hdev : j.cmd.fld 3 0 24 ≠ s.self) (hroute : s.noRoute j.cmd.lodge (j.cmd.fld 3 0 24) = false) :
    s.wainPush c p j = (pieces (8 * j.cmd.wCount)).foldl (fun s (o, n) =>
      s.issue { kind := 19, engine := 8, dst := j.cmd.fld 3 0 24, lodge := j.cmd.lodge, core := c, place := p, cmd := some j.cmd, addr := 0,
                off := j.cmd.w 2 + 8 * j.cmd.wFirst + o, len := n, aux := o, stale := false,
                msg := mkMsg 0x61 s.self j.cmd.wTenant [0, j.cmd.w 2 + 8 * j.cmd.wFirst + o, n] [], reply := none })
      (s.setJob c p { j with result := 1 }) :=
  (if_neg (Decidable.not_not.2 hr)).trans <| (if_neg hdev).trans <| if_neg (Bool.eq_false_iff.1 hroute)

theorem State.wainPush_of_own_list (hdev : j.cmd.fld 3 0 24 = s.self)
    (hread : s.readStatus j.cmd.lodge (j.cmd.w 2 + 8 * j.cmd.wFirst) (8 * j.cmd.wCount) = St.ok) :
    s.wainPush c p j = (s.setJob c p { j with result := 1 }).pushGo c p { j with result := 1 }
      (s.listWords j.cmd.lodge (j.cmd.w 2) j.cmd.wFirst j.cmd.wCount) :=
  (if_neg (Decidable.not_not.2 hr)).trans <| (if_pos hdev).trans <| if_neg (Decidable.not_not.2 hread)

end

/-! ## Blocks at the receiver (R240, R241, R289) -/

section
variable {s : State} {m : Msg} {l dst : Nat} {bs : List Byte}

/-- Where no copy is tracked none is recalled. -/
theorem State.invalTracked_of_untracked {n : Nat} (h : s.dirIn l dst n = []) (kind : Nat) (except : Option Nat) (c p : Nat) :
    s.invalTracked l dst n kind except c p = (s, []) := by
  rw [State.invalTracked, h]
  rfl

/-- A block to lines of which no copy is tracked is acknowledged at once. -/
theorem State.writeBlock_of_untracked (h : s.dirIn l dst bs.length = []) :
    s.writeBlock l dst m bs =
      (((s.chargePath (s.pathAt l dst) l bs.length).poke l dst bs).count Reg.wanBlkRxCount).ackBlock m := by
  have hdir : ((s.chargePath (s.pathAt l dst) l bs.length).poke l dst bs).dirIn l dst bs.length = [] := h
  rw [State.writeBlock, State.invalTracked_of_untracked hdir]
  exact if_pos rfl

/-- A stream that is received and has no engine yet takes a free one. -/
theorem State.placeBlock_of_engine {e : Nat} (htake : s.mayTake l dst = true) (hpull : s.pullOf m = none)
    (hrecv : Tbl.find (recvKey m) s.wan.recvs = none) (he : s.freeEngine = some e) :
    s.placeBlock l dst m bs = (s.putRecv (recvKey m) e).writeBlock l dst m bs := by
  simp only [State.placeBlock, htake, hpull, hrecv, he, Bool.not_true, Option.isSome_none, Bool.or_self, Bool.false_eq_true, if_false]

theorem State.placeBlock_of_waiting (hpull : s.pullOf m = none) (hrecv : Tbl.find (recvKey m) s.wan.recvs = none)
    (h : s.freeEngine = none ∨ s.mayTake l dst = false) : s.placeBlock l dst m bs = s.holdBlock m := by
  by_cases htake : s.mayTake l dst = true
  · have he : s.freeEngine = none := h.resolve_right fun hno => Bool.false_ne_true (hno.symm.trans htake)
    simp only [State.placeBlock, htake, hpull, hrecv, he, Bool.not_true, Option.isSome_none, Bool.or_self, Bool.false_eq_true, if_false]
  · exact if_pos (by simp [htake])

theorem State.blockIn_of_damaged (h : blockDamaged m = true) : s.blockIn m = s.nak m 1 0 := by
  simp only [State.blockIn, h, if_true]

variable (hwhole : blockDamaged m = false) (hbs : decodePayload (bitAt 12 m.kind) (m.fld 2 20 20) (m.fld 2 0 17) m.body = some bs)
include hwhole hbs

theorem State.blockIn_of_no_lodge (hl : s.tenantLodge m.tenant = none) : s.blockIn m = s.nak m 2 St.noLodge := by
  simp only [State.blockIn, hwhole, hbs, hl, Bool.false_eq_true, if_false]

/-- A block outside KV that an ACTIVE lodge can take goes to an engine. -/
theorem State.blockIn_of_passed (hl : s.tenantLodge m.tenant = some l) (hon : s.on Reg.wanCtrlEnable = true) (hactive : s.lodge l = 1)
    (hkv : bitAt 13 m.kind = false) (halign : m.word 3 % 64 = 0) (hwrite : s.accessStatus l (m.word 3) (m.fld 2 0 17) = St.ok) :
    s.blockIn m = s.placeBlock l (m.word 3) m bs := by
  have hdst : s.blockDst l false (m.word 3) (m.word 4) (m.word 5) (m.fld 2 0 17) = (m.word 3, St.ok) := by
    simp [State.blockDst, halign, hwrite]
  simp [State.blockIn, hwhole, hbs, hl, hon, hactive, hkv, hdst]

end

/-! ## Answers and time-outs at the sender (R234, R235, R241) -/

section
variable {s : State} {m : Msg} {k : Nat} {x : Stream}

/-- The acknowledgement of a stream's last block closes it. -/
theorem State.blockAckIn_of_last (hx : s.streamOf m = some (k, x)) (hopen : x.open_.filter (·.1 != m.fld 1 32 32) = [])
    (hall : x.total ≤ x.next) :
    s.blockAckIn m = (((s.setStream k { x with open_ := [] }).closeStream k).wainDone x.core x.place).settlePrompt := by
  simp only [State.blockAckIn, hx, hopen, true_and]
  exact if_pos hall

/-- A block refused for its damage, and not too often, is sent again. -/
theorem State.blockNakIn_of_damage {q n : Nat} (hx : (s.bump Reg.wanNakRxCount).streamOf m = some (k, x)) (hreason : m.fld 2 0 8 = 1)
    (hopen : x.open_.find? (·.1 == m.fld 1 32 32) = some (q, n)) (hn : n < (s.bump Reg.wanNakRxCount).rd Reg.wanCfgResendMax)
    (hlive : (s.bump Reg.wanNakRxCount).streamLive x = true) (hsent : ((s.bump Reg.wanNakRxCount).sendBlock x q true).2 = St.ok) :
    s.blockNakIn m = (((s.bump Reg.wanNakRxCount).sendBlock x q true).1.setStream k { x with
      open_ := x.open_.map fun b => if b.1 = q then (q, n + 1) else b }).bump Reg.wanResendCount := by
  simp only [State.blockNakIn, hx, hopen]
  exact (if_neg (hreason ▸ by decide)).trans <| (if_neg (Nat.not_le.2 hn)).trans <| (if_neg (by simp [hlive])).trans <|
    if_neg (Decidable.not_not.2 hsent)

theorem State.blockTimeout_of_stream (hx : Tbl.find k s.wan.streams = some x) (hopen : x.open_ ≠ []) :
    s.blockTimeout k = s.streamFail k x St.spanTimeout := by
  simp only [State.blockTimeout, hx, if_neg hopen]

/-! ## Streams that wait for an engine (R233) -/

theorem State.streamPlace_of_stream (hx : Tbl.find k s.wan.streams = some x) (hengine : x.engine = none) :
    s.streamPlace k = s.openStream k x := by
  simp only [State.streamPlace, hx, if_pos hengine]

/-- The one block that waits leaves the queue and is received anew. -/
theorem State.streamPlace_of_block (hstream : Tbl.find (recvKey m) s.wan.streams = none) (hpull : Tbl.find (recvKey m) s.wan.pulls = none)
    (hheld : s.wan.held = [m]) :
    s.streamPlace (recvKey m) = ({ s with wan := { s.wan with held := [] } } : State).blockIn m := by
  simp [State.streamPlace, State.takeHeld, hstream, hpull, hheld]

/-! ## PULL at its source (R252) -/

theorem State.pullIn_of_no_lodge (hl : s.tenantLodge m.tenant = none) : s.pullIn m = s.refusePull m St.noLodge := by
  simp only [State.pullIn, hl]

theorem State.pullIn_of_readable {l : Nat} (hl : s.tenantLodge m.tenant = some l) (hon : s.on Reg.wanCtrlEnable = true)
    (hread : s.readStatus l (m.word 1) (m.fld 3 0 40) = St.ok) :
    s.pullIn m = s.openStream ((m.src + 1) * 2 ^ 32 + m.fld 4 0 32)
      { core := 160, place := 15, cmd := none, dst := m.src, id := m.fld 4 0 32, tenant := m.tenant, lodge := l, engine := none,
        compress := bitAt 40 (m.word 3), kv := none, segs := [(m.word 1, m.word 2, m.fld 3 0 40)], next := 0, open_ := [] } := by
  simp [State.pullIn, hl, hon, hread]

end

/-- Settles O37: each command, block, answer and time-out is one case of its handler. -/
theorem wainStreams : Obligations.WainStreams := by
  unfold Obligations.WainStreams
  intro s core place j m c p y l u
  refine ⟨?moveHere, ⟨?moveOut, ?moveBack, ?pushFar⟩, ?pushHere, ?block, ?damaged, ?noLodge, ?lastAck, ?resend, ?silent, ?placeStream,
    ?placeBlock, ?pull, ?pullRefused⟩
  -- a command runs on `u`, the job put back, which reads as `s` does everywhere but in its core
  case moveHere =>
    exact fun h hr hsrc hdst hread hwrite => (exec_wainMove h).trans (next_choices_congr (State.wainMove_of_here hr hsrc hdst hread hwrite))
  case moveOut =>
    exact fun h hr hsrc hdst hroute => (exec_wainMove h).trans (next_choices_congr (State.wainMove_of_sent hr hsrc hdst hroute))
  case moveBack =>
    exact fun h hr hsrc hroute => (exec_wainMove h).trans (next_choices_congr (State.wainMove_of_pulled hr hsrc hroute))
  case pushFar =>
    exact fun h hr hdev hroute => (exec_wainPushKv h).trans (next_choices_congr (State.wainPush_of_far_list hr hdev hroute))
  case pushHere =>
    exact fun h hr hdev hread => (exec_wainPushKv h).trans (next_choices_congr (State.wainPush_of_own_list hr hdev hread))
  case block =>
    intro bs k hwhole hbs hl hon hkv halign hwrite hdir hpull hactive hrecv
    have hin : s.blockIn m = s.placeBlock k (m.word 3) m bs := State.blockIn_of_passed hwhole hbs hl hon hactive hkv halign hwrite
    refine ⟨fun e he htake => ?_, fun hwait => ?_⟩
    · have hdir : (s.putRecv (recvKey m) e).dirIn k (m.word 3) bs.length = [] := hdir
      refine next_choices_congr (hin.trans ?_)
      rw [State.placeBlock_of_engine htake hpull hrecv he, State.writeBlock_of_untracked hdir]
    · exact next_choices_congr (hin.trans (State.placeBlock_of_waiting hpull hrecv hwait))
  case damaged => exact fun h => next_choices_congr (State.blockIn_of_damaged h)
  case noLodge =>
    intro hwhole hpayload hl
    obtain ⟨bs, hbs⟩ := Option.isSome_iff_exists.1 hpayload
    exact next_choices_congr (State.blockIn_of_no_lodge hwhole hbs hl)
  case lastAck => exact fun k x hx hopen hall => next_choices_congr (State.blockAckIn_of_last hx hopen hall)
  case resend =>
    exact fun k x q n hx hreason hopen hn hlive hsent => next_choices_congr (State.blockNakIn_of_damage hx hreason hopen hn hlive hsent)
  case silent => exact fun k x hx hopen => next_choices_congr (State.blockTimeout_of_stream hx hopen)
  case placeStream => exact fun k x hx hengine => congrArg _ (State.streamPlace_of_stream hx hengine)
  case placeBlock => exact fun hstream hpull _ hheld => congrArg _ (State.streamPlace_of_block hstream hpull hheld)
  case pull => exact fun k hl hon hread => next_choices_congr (State.pullIn_of_readable hl hon hread)
  case pullRefused => exact fun hl => next_choices_congr (State.pullIn_of_no_lodge hl)

/-! ## HANDOVER_REQ at the home (R244) -/

section
variable {s : State} {m : Msg}

theorem State.handoverReqIn_of_no_lodge (hl : s.tenantLodge m.tenant = none) :
    s.handoverReqIn m = s.endHand (farKey m.src (m.fld 1 0 32)) ⟨m, 0, s.handEngine, [], [], false, [], none⟩ St.noLodge 0 := by
  simp only [State.handoverReqIn, hl, if_true, Option.getD_none]

variable {l : Nat} (hl : s.tenantLodge m.tenant = some l)
include hl

theorem State.handoverReqIn_of_stopped (h : s.on Reg.wanCtrlEnable = false ∨ s.lodge l = 4 ∨ s.lodge l = 5) :
    s.handoverReqIn m = s.endHand (farKey m.src (m.fld 1 0 32)) ⟨m, l, s.handEngine, [], [], false, [], none⟩ St.notReady 0 := by
  have hstop : (!s.on Reg.wanCtrlEnable || s.lodge l == 4 || s.lodge l == 5) = true := by simpa [or_assoc] using h
  simp only [State.handoverReqIn, hl, Option.getD_some, hstop, reduceCtorEq, if_false, if_true]

variable (hon : s.on Reg.wanCtrlEnable = true) (h4 : s.lodge l ≠ 4) (h5 : s.lodge l ≠ 5)
include hon h4 h5

theorem State.handoverReqIn_of_long (hlong : 32768 < m.fld 3 0 32 + m.fld 3 32 32) :
    s.handoverReqIn m = s.endHand (farKey m.src (m.fld 1 0 32)) ⟨m, l, s.handEngine, [], [], false, [], none⟩ St.badPagelist 0 := by
  simp [State.handoverReqIn, hl, hon, h4, h5, hlong]

/-- A handover that can be taken waits for the reads of its list; one that has none asks for the fence at once. -/
theorem State.handoverReqIn_of_taken (hfits : m.fld 3 0 32 + m.fld 3 32 32 ≤ 32768) :
    s.handoverReqIn m =
      if (s.handReads l m).2 = [] then
        ((s.handReads l m).1.setHand (farKey m.src (m.fld 1 0 32)) ⟨m, l, s.handEngine, [], [], false, [], none⟩).sendFence
          ⟨m, l, s.handEngine, [], [], false, [], none⟩
      else (s.handReads l m).1.setHand (farKey m.src (m.fld 1 0 32))
        ⟨m, l, s.handEngine, (s.handReads l m).2, [], false, [], none⟩ := by
  simp [State.handoverReqIn, hl, hon, h4, h5, Nat.not_lt.2 hfits]

end

/-! ## The fence and the change of ownership (R244, R245) -/

section
variable {s : State} {m : Msg} {k : Nat} {h : Hand}

theorem State.fenceAckIn_of_awaited {g : Hand} (hg : (s.wan.hands.find? fun h => h.2.msg.fld 1 0 32 == m.fld 1 0 32 &&
      h.2.msg.fld 1 32 24 == m.src && !h.2.fenced && h.2.reading == []) = some (k, g)) :
    s.fenceAckIn m = s.setHand k { g with fenced := true, earlier := s.acceptedFrom m.src } := by
  simp only [State.fenceAckIn, hg]

theorem State.fenceAckIn_of_unknown (hg : (s.wan.hands.find? fun h => h.2.msg.fld 1 0 32 == m.fld 1 0 32 &&
      h.2.msg.fld 1 32 24 == m.src && !h.2.fenced && h.2.reading == []) = none) : s.fenceAckIn m = s := by
  simp only [State.fenceAckIn, hg]

theorem State.ownershipChange_of_none (hh : Tbl.find k s.wan.hands = none) : s.ownershipChange k = s := by
  simp only [State.ownershipChange, hh]

theorem State.fenceTimeout_of_none (hh : Tbl.find k s.wan.hands = none) : s.fenceTimeout k = s := by
  simp only [State.fenceTimeout, hh]

theorem State.fenceTimeout_of_unfenced (hh : Tbl.find k s.wan.hands = some h) (hfence : h.fenced = false) (hread : h.reading = []) :
    s.fenceTimeout k = s.endHand k h St.spanTimeout 0 := by
  simp [State.fenceTimeout, hh, hfence, hread]

theorem State.ownershipChange_of_waiting (hh : Tbl.find k s.wan.hands = some h) (hwait : s.handWaits h = true) :
    s.ownershipChange k = s := by
  simp only [State.ownershipChange, hh, if_pos hwait]

variable {pool : Pool}

theorem State.ownershipChange_of_pool {st : Nat} (hh : Tbl.find k s.wan.hands = some h) (hwait : s.handWaits h = false)
    (hpool : s.pool h.lodge (h.msg.fld 1 56 3) = (some pool, st)) : s.ownershipChange k = s.moveOwner k h pool := by
  simp only [State.ownershipChange, hh, hwait, hpool, Bool.false_eq_true, if_false]

/-- Every page changes its owner, or none does. -/
theorem State.moveOwner_of_readable (hhdr : ∀ n ∈ h.pages, s.hdrStatus h.lodge pool n = St.ok) :
    s.moveOwner k h pool =
      if h.pages.all (s.movesOwner h pool) = true then
        ((s.newOwner h pool).recallPages h pool).1.ownerMoved k h ((s.newOwner h pool).recallPages h pool).2
      else s.endHand k h St.notOwner 0 := by
  have hok : firstBad (h.pages.map fun n => s.hdrStatus h.lodge pool n) = St.ok := firstBad_eq_ok_iff.2 (List.forall_mem_map.2 hhdr)
  refine (if_neg (Decidable.not_not.2 hok)).trans ?_
  cases h.pages.all (s.movesOwner h pool) <;> rfl

end

/-- Settles O38: each message and time-out of a handover is one case of its handler. -/
theorem handover : Obligations.Handover := by
  unfold Obligations.Handover
  intro s m dev handle h k
  refine ⟨?taken, ⟨?noLodge, ?refused⟩, ?fenced, ?unknownFence, ?waits, ?changes, ?silent, ?none⟩
  case taken =>
    intro l hl hon h4 h5 hfits n r g
    have htaken := State.handoverReqIn_of_taken hl hon h4 h5 hfits
    exact ⟨fun hr => next_choices_congr (htaken.trans (if_pos hr)), fun hr => next_choices_congr (htaken.trans (if_neg hr))⟩
  case noLodge => exact fun hl => next_choices_congr (State.handoverReqIn_of_no_lodge hl)
  case refused =>
    exact fun l hl => ⟨fun hstop => next_choices_congr (State.handoverReqIn_of_stopped hl hstop),
      fun hon h4 h5 hlong => next_choices_congr (State.handoverReqIn_of_long hl hon h4 h5 hlong)⟩
  case fenced => exact fun i g hg => next_choices_congr (State.fenceAckIn_of_awaited hg)
  case unknownFence => exact fun hg => next_choices_congr (State.fenceAckIn_of_unknown hg)
  case waits => exact fun hh hwait => next_choices_congr (State.ownershipChange_of_waiting hh hwait)
  case changes =>
    intro pool st hh hwait hpool hhdr r
    have hmoves := (State.ownershipChange_of_pool hh hwait hpool).trans (State.moveOwner_of_readable hhdr)
    refine ⟨fun hall => ?_, fun n hn hstay => ?stays⟩
    case stays =>
      exact next_choices_congr (hmoves.trans (if_neg fun hall => Bool.eq_false_iff.1 hstay (List.all_eq_true.1 hall n hn)))
    have hmoved := hmoves.trans (if_pos (List.all_eq_true.2 hall))
    exact ⟨fun hr => next_choices_congr (hmoved.trans (if_pos hr)), fun hr => next_choices_congr (hmoved.trans (if_neg hr))⟩
  case silent => exact fun hh hfence hread => next_choices_congr (State.fenceTimeout_of_unfenced hh hfence hread)
  case none => exact fun hh => ⟨next_choices_congr (State.ownershipChange_of_none hh), next_choices_congr (State.fenceTimeout_of_none hh)⟩

end Sys2Proof.Machine
end

section
/-!
PROOFS. The statements of 09_embeddings.md: EMBED commands in RUN, and embedding messages at the home and at the requester.
-/

namespace Sys2Proof.Machine

/-! ## EMB_LOOKUP and EMB_PREFETCH (R261, R264) -/

section
variable {s : State} {core : Fin 160} {place : Fin 8} {j : Job}

theorem exec_embLookup (h : Running s core (nearPlace place) 8 1 j) :
    exec (.embLookup core place) s = .next ((s.setJob core (nearPlace place) j).embLookup core (nearPlace place) j).choices :=
  congrArg _ (congrArg State.choices (h.runSlot _ _))

theorem exec_embPrefetch (h : Running s core (nearPlace place) 8 2 j) :
    exec (.embPrefetch core place) s = .next ((s.setJob core (nearPlace place) j).embLookup core (nearPlace place) j).choices :=
  congrArg _ (congrArg State.choices (h.runSlot _ _))

theorem exec_embUpdate (h : Running s core (nearPlace place) 8 3 j) :
    exec (.embUpdate core place) s = .next ((s.setJob core (nearPlace place) j).embUpdate core (nearPlace place) j).choices :=
  congrArg _ (congrArg State.choices (h.runSlot _ _))

end

/-- The messages of a command in the order they go out: those to other devices, then this device's own. -/
def State.ownLast (s : State) (parts : List (Nat × Nat × Msg)) : List (Nat × Nat × Msg) :=
  (parts.filter fun q => q.2.1 != s.self) ++ parts.filter fun q => q.2.1 == s.self

/-- A lookup or prefetch that has read its arrays and now awaits its homes. -/
def State.lookupRead (s : State) (c p : Nat) (j : Job) : State :=
  (s.touchReads j.cmd.lodge ([(j.cmd.eBag, 4 * (j.cmd.eCount + 1)), (j.cmd.eIdx, 4 * (s.embIdx j.cmd).length)] ++
    (if j.cmd.eWeighted then [(j.cmd.eWgt, 4 * (s.embIdx j.cmd).length)] else []))).setJob c p { j with result := 1 }

/-- One EMB_REQ for each home that has an index of `ix`, in the order of the table's homes. -/
def State.lookupParts (s : State) (x : Cmd) (e : ETable) (ix : List (Nat × Nat × Nat × Nat)) : List (Nat × Nat × Msg) :=
  (natsFrom 0 e.h).filterMap fun h =>
    let part := ix.filter fun q => q.2.2.1 % e.h == h
    if part = [] then none else some (h, e.homes.getD h 0, s.embReqMsg x e part)

section
variable {s : State} {c p : Nat} {j : Job} {e : ETable}

/-- What a lookup reads and what it marks leave the device its ID. -/
theorem State.self_lookupRead : (s.lookupRead c p j).self = s.self :=
  State.rd_of_regs (State.touchReads_regs s _ _) Reg.spnIdDevice 0 0

variable (hr : j.result = 0) (he : (s.table j.cmd.lodge j.cmd.eTable).1 = some e)
include hr he

/-- Below stage 4 a prefetch has no effect (R264). -/
theorem State.embLookup_of_early_prefetch (hop : j.cmd.op = 2) (hstage : s.stage < 4) : s.embLookup c p j = s.toFence c p j := by
  simp only [State.embLookup, hr, he, ne_eq, not_true_eq_false, if_false, if_pos (And.intro hop hstage)]

/-- A lookup or prefetch whose reads and indices are good sends its messages. -/
theorem State.embLookup_of_good {order : List (Nat × Nat × Msg)} (hstage : j.cmd.op = 2 → 4 ≤ s.stage)
    (hread : s.embRead j.cmd = St.ok)
    (hout : j.cmd.op = 1 →
      s.accessStatus j.cmd.lodge j.cmd.eOut (j.cmd.eCount * e.d * (if j.cmd.eFmt = 0 then 4 else 2)) = St.ok)
    (hrows : ∀ q ∈ s.embIdx j.cmd, q.2.2.1 < e.rows)
    (horder : order = s.ownLast ((s.lookupRead c p j).lookupParts j.cmd e (s.embIdx j.cmd))) (hsome : order ≠ [])
    (hroute : ∀ q ∈ order, (s.lookupRead c p j).noRoute j.cmd.lodge q.2.1 = false) :
    s.embLookup c p j = (s.lookupRead c p j).embSendAll c p j.cmd 10 order := by
  have hon : ¬ (j.cmd.op = 2 ∧ s.stage < 4) := fun h => Nat.not_lt.2 (hstage h.1) h.2
  have hok : firstBad [s.embRead j.cmd, if j.cmd.op = 1 then
      s.accessStatus j.cmd.lodge j.cmd.eOut (j.cmd.eCount * e.d * (if j.cmd.eFmt = 0 then 4 else 2)) else St.ok] = St.ok := by
    refine firstBad_eq_ok_iff.2 (List.forall_mem_cons.2 ⟨hread, List.forall_mem_singleton.2 ?_⟩)
    split
    next h => exact hout h
    next => rfl
  have hnone : (s.embIdx j.cmd).find? (fun i => decide (e.rows ≤ i.2.2.1)) = none :=
    List.find?_eq_none.2 fun q hq => by simpa using hrows q hq
  have hroutes : ¬ (order.any fun q => (s.lookupRead c p j).noRoute j.cmd.lodge q.2.1) = true :=
    Bool.eq_false_iff.1 (List.any_eq_false.2 fun q hq => Bool.eq_false_iff.1 (hroute q hq))
  have hown : order = (s.lookupRead c p j).ownLast ((s.lookupRead c p j).lookupParts j.cmd e (s.embIdx j.cmd)) := by
    rw [horder, State.ownLast, State.ownLast, State.self_lookupRead]
  subst hown
  simp only [State.embLookup, he, hnone]
  refine (if_neg (Decidable.not_not.2 hr)).trans <| (if_neg hon).trans <| (if_neg (Decidable.not_not.2 hok)).trans <|
    (if_neg hroutes).trans ?_
  split
  · exact if_neg fun h => hsome h.1
  · rfl

end

/-! ## EMB_UPDATE (R265) -/

/-- The bytes of row `i` of an update list. -/
def State.updBytes (s : State) (x : Cmd) (e : ETable) (i : Nat) : Nat :=
  match rowFmt (bits 32 4 (s.updRec x i 0)) with
  | some f => f.bytesOf e.d
  | none => 0

/-- Row `i` of an EMB_UPD: its record with the local row number, then its padded data. -/
def State.updRowBody (s : State) (x : Cmd) (e : ETable) (i : Nat) : List Byte :=
  leBytes 8 (s.updRec x i 0 / 2 ^ 32 * 2 ^ 32 + bits 0 32 (s.updRec x i 0) / e.h) ++ leBytes 8 (s.updRec x i 1) ++
    leBytes 8 (s.updRec x i 2) ++ leBytes 8 0 ++ s.peek x.lodge (s.updRec x i 3) (s.updBytes x e i) ++
    List.replicate (ceilDiv (s.updBytes x e i) 64 * 64 - s.updBytes x e i) 0

/-- One EMB_UPD for each home that has a row of the list, in the order of the table's homes. -/
def State.updateParts (s : State) (x : Cmd) (e : ETable) : List (Nat × Nat × Msg) :=
  (natsFrom 0 e.h).filterMap fun h =>
    let mine := (natsFrom 0 x.eCount).filter fun i => bits 0 32 (s.updRec x i 0) % e.h == h
    if mine = [] then none
    else some (h, e.homes.getD h 0,
      mkMsg 0x52 s.self (s.tenantFor x.lodge) [x.eTable * 2 ^ 32, e.key, mine.length] (mine.flatMap (s.updRowBody x e)))

/-- An update whose list and rows can be read sends its messages. -/
theorem State.embUpdate_of_good {s : State} {c p : Nat} {j : Job} {e : ETable} (hr : j.result = 0)
    (he : (s.table j.cmd.lodge j.cmd.eTable).1 = some e) (hread : s.embRead j.cmd = St.ok)
    (hrows : ∀ i, i < j.cmd.eCount → s.readStatus j.cmd.lodge (s.updRec j.cmd i 3) (s.updBytes j.cmd e i) = St.ok)
    (hroute : ∀ q ∈ s.ownLast (s.updateParts j.cmd e), s.noRoute j.cmd.lodge q.2.1 = false) :
    s.embUpdate c p j =
      (s.setJob c p { j with result := 1 }).embSendAll c p j.cmd 11 (s.ownLast (s.updateParts j.cmd e)) := by
  have hok : firstBad (s.embRead j.cmd :: (natsFrom 0 j.cmd.eCount).map fun i =>
      s.readStatus j.cmd.lodge (s.updRec j.cmd i 3) (s.updBytes j.cmd e i)) = St.ok :=
    firstBad_eq_ok_iff.2 (List.forall_mem_cons.2 ⟨hread, List.forall_mem_map.2 fun i hi => hrows i (lt_of_mem_natsFrom hi)⟩)
  have hroutes : ¬ ((s.ownLast (s.updateParts j.cmd e)).any fun q => s.noRoute j.cmd.lodge q.2.1) = true :=
    Bool.eq_false_iff.1 (List.any_eq_false.2 fun q hq => Bool.eq_false_iff.1 (hroute q hq))
  simp only [State.embUpdate, he]
  exact (if_neg (Decidable.not_not.2 hr)).trans <| (if_neg (Decidable.not_not.2 hok)).trans <| if_neg hroutes

/-- Settles O39: a command whose reads are good sends what its homes are to do, and a prefetch below stage 4 has no effect. -/
theorem embedCommands : Obligations.EmbedCommands := by
  unfold Obligations.EmbedCommands
  intro s core place j e c p x u hr hs
  have he : (u.table x.lodge x.eTable).1 = some e := hs
  refine ⟨?lookup, ?early, ?update⟩
  case lookup =>
    intro i op hi hrun hread hout hrows ix v parts order hsome hroute
    have hstage : j.cmd.op = 2 → 4 ≤ u.stage := fun hop => by
      rcases hi with ⟨_, hone⟩ | ⟨_, _, hstage⟩
      · exact absurd (hone.symm.trans (hrun.op.symm.trans hop)) (by decide)
      · exact hstage
    have hsent : u.embLookup c p j = v.embSendAll c p x 10 order :=
      State.embLookup_of_good hr he hstage hread (fun hop => hout (hrun.op.symm.trans hop)) hrows rfl hsome hroute
    rcases hi with ⟨rfl, rfl⟩ | ⟨rfl, rfl, _⟩
    · exact (exec_embLookup hrun).trans (next_choices_congr hsent)
    · exact (exec_embPrefetch hrun).trans (next_choices_congr hsent)
  case early =>
    exact fun hrun hstage => (exec_embPrefetch hrun).trans (next_choices_congr (State.embLookup_of_early_prefetch hr he hrun.op hstage))
  case update =>
    intro hrun hread bytes hrows v parts order hroute
    have hsent : u.embUpdate c p j = v.embSendAll c p x 11 order := State.embUpdate_of_good hr he hread hrows hroute
    exact (exec_embUpdate hrun).trans (next_choices_congr hsent)

/-! ## The home's queue (R263, R265, R271) -/

section
variable {s : State} {m : Msg} {l : Nat} {e : ETable} {w : EmbWork}

/-- A home queue of 512 messages holds the next back (R272). -/
theorem State.embAccept_of_full (h : 512 ≤ s.emb.queue.length) (m : Msg) :
    s.embAccept m = { s with emb := { s.emb with held := s.emb.held ++ [m] } } :=
  if_pos (Or.inl h)

/-- A message that passes the gate of an idle home is looked at at once. -/
theorem State.embAccept_of_idle (hq : s.emb.queue = []) (hheld : s.emb.held = []) (hgate : s.embGate m = St.ok)
    (hl : s.tenantLodge m.tenant = some l) : s.embAccept m = s.embDrain [⟨m, l, 0, 0, 0, none⟩] [] := by
  have hroom : ¬ (512 ≤ s.emb.queue.length ∨ s.emb.held ≠ []) := by simp [hq, hheld]
  have hempty : ({ s with emb := { s.emb with queue := [] } } : State) = s := by rw [← hq]
  refine (if_neg hroom).trans ((if_neg (Decidable.not_not.2 hgate)).trans ?_)
  simp only [State.embGo, hq, List.nil_append, hl, Option.getD_some, hempty]

/-- An EMB_REQ that is served is answered and leaves the queue. -/
theorem State.embDrain_of_served {v : State} {w' : EmbWork} {r : Msg} (hk : w.msg.kind = 0x50)
    (h : s.embTry w = (v, some r, w')) :
    let t := v.embDeliver w.lodge w.msg.src r
    s.embDrain [w] [] = { t with emb := { t.emb with queue := [] } } := by
  simp only [State.embDrain, List.any_nil, Bool.false_eq_true, if_false, hk, if_true, h]

/-- An EMB_REQ that waits for a grant or a suspended stack stays in the queue. -/
theorem State.embDrain_of_waiting {v : State} {w' : EmbWork} (hk : w.msg.kind = 0x50) (h : s.embTry w = (v, none, w')) :
    s.embDrain [w] [] = { v with emb := { v.emb with queue := [w'] } } := by
  simp only [State.embDrain, List.any_nil, Bool.false_eq_true, if_false, hk, if_true, h, List.nil_append]

/-- An update stops at a row that is to be applied. -/
theorem State.updPass_of_row_due (hmore : w.next < w.msg.fld 3 0 16) (hrow : s.updRow w.lodge e w.msg w.next = 0) (n : Nat) :
    s.updPass e (n + 1) w = (w, none) :=
  (if_neg (Nat.not_le.2 hmore)).trans (if_pos hrow)

/-- An EMB_UPD whose next row is to be applied stays in the queue. -/
theorem State.embDrain_of_row_due (hk : w.msg.kind = 0x52) (he : (s.table w.lodge (w.msg.fld 1 32 8)).1 = some e)
    (hmore : w.next < w.msg.fld 3 0 16) (hrow : s.updRow w.lodge e w.msg w.next = 0) :
    s.embDrain [w] [] = { s with emb := { s.emb with queue := [w] } } := by
  have hlookup : w.msg.kind ≠ 0x50 := by rw [hk]; decide
  simp only [State.embDrain, List.any_nil, Bool.false_eq_true, if_false, hlookup, he, State.updPass_of_row_due hmore hrow,
    Nat.sub_self, if_true, List.nil_append]

/-- ROW_FLIP applies the next row of the oldest update and looks at the queue again. -/
theorem State.rowFlip_of_row_due (hw : (s.emb.queue.find? fun w => w.msg.kind == 0x52) = some w)
    (he : (s.table w.lodge (w.msg.fld 1 32 8)).1 = some e) (hrow : s.updRow w.lodge e w.msg w.next = 0) :
    let u := s.flipRow w.lodge e w.msg w.next
    s.rowFlip = (({ u with emb := { u.emb with queue := u.emb.queue.map fun v =>
      if v = w then { v with next := v.next + 1, applied := v.applied + 1 } else v } } : State).embPump) := by
  simp only [State.rowFlip, hw, he]
  exact if_neg (Decidable.not_not.2 hrow)

end

/-! ## Answers at the requester (R261, R263) -/

/-- The command a request belongs to depends on the cores alone. -/
theorem State.owner_of_cores {s t : State} (h : t.cores = s.cores) (pd : Pend) : t.owner pd = s.owner pd := by
  rw [State.owner, State.owner, State.job_of_cores h]

/-- An unanswered request of an EMBED command passes the check that answers and time-outs begin with. -/
theorem Pend.embed_unanswered {pd : Pend} (hk : pd.kind = 10 ∨ pd.kind = 11) (hreply : pd.reply = none) :
    ¬ ((pd.kind ≠ 10 ∧ pd.kind ≠ 11) ∨ pd.reply.isSome = true) := by
  rw [hreply]
  rintro (⟨h10, h11⟩ | h)
  · exact hk.elim h10 h11
  · exact Bool.noConfusion h

section
variable {s : State} {tag : Nat} {pd : Pend} {j : Job} (hpd : Tbl.find tag s.spn.out = some pd) (hk : pd.kind = 10 ∨ pd.kind = 11)
  (hreply : pd.reply = none) (ho : s.owner pd = some j)
include hpd hk hreply ho

/-- The last answer of a command finishes it. -/
theorem State.embReply_of_last {m : Msg} {k : Job} (hst : m.fld 1 32 8 = St.ok ∨ m.fld 1 32 8 = St.badIndex)
    (hjob : (s.keepReply tag m).job pd.core pd.place = some k) (hall : (s.keepReply tag m).allAnswered pd.core pd.place = true) :
    s.embReply tag m = (s.keepReply tag m).embFinish pd.core pd.place k := by
  have hgood : ¬ (m.fld 1 32 8 ≠ St.ok ∧ m.fld 1 32 8 ≠ St.badIndex) := fun h => hst.elim h.1 h.2
  simp only [State.embReply, hpd, ho]
  refine (if_neg (Pend.embed_unanswered hk hreply)).trans ((if_neg hgood).trans ?_)
  simp only [hjob, hall, if_true]

/-- A request without an answer is counted, and orphans the lodge context of its command. -/
theorem State.embTimeout_of_unanswered :
    let u := (s.bump Reg.embTimeoutCntCount).setBit Reg.embErrBits 2
    s.embTimeout tag = ((u.closeTag tag).orphanCmd pd.core pd.place pd.dst).dropReplies pd.core pd.place := by
  intro u
  have hu : u.owner pd = some j := (State.owner_of_cores rfl pd).trans ho
  simp only [State.embTimeout, hpd]
  refine (if_neg (Pend.embed_unanswered hk hreply)).trans ?_
  simp only [u, hu]

end

/-- Settles O40: each message, ROW_FLIP and the time-out are one case of their handlers. -/
theorem embedMessages : Obligations.EmbedMessages := by
  unfold Obligations.EmbedMessages
  intro s m tag l pd j
  refine ⟨?request, ?full, ?update, ?flip, ?last, ?silent⟩
  case request =>
    intro v a w hq hheld hgate hl htry
    have hoffer := State.embAccept_of_idle hq hheld hgate hl
    refine ⟨?served, ?waits⟩
    case served =>
      rintro r rfl t
      exact next_choices_congr (hoffer.trans (State.embDrain_of_served rfl htry))
    case waits =>
      rintro rfl
      exact next_choices_congr (hoffer.trans (State.embDrain_of_waiting rfl htry))
  case full => exact fun h => next_choices_congr (State.embAccept_of_full h _)
  case update =>
    intro e hq hheld hgate hl he hrows hrow
    exact next_choices_congr ((State.embAccept_of_idle hq hheld hgate hl).trans
      (State.embDrain_of_row_due rfl he (Nat.pos_of_ne_zero hrows) hrow))
  case flip => exact fun w e hw he hrow => congrArg _ (State.rowFlip_of_row_due hw he hrow)
  case last =>
    intro k kind hkind hpd hk hreply ho hst u hjob hall
    have hfinish := State.embReply_of_last hpd (hk ▸ hkind) hreply ho hst hjob hall
    rcases hkind with rfl | rfl
    · exact next_choices_congr hfinish
    · exact next_choices_congr hfinish
  case silent => exact fun hpd hk hreply ho => next_choices_congr (State.embTimeout_of_unanswered hpd hk hreply ho)

end Sys2Proof.Machine
end

section
/-!
PROOFS. The statements of 10_lodges_and_scheduling.md: the operations of LOD_CMD, and drain, personas, refills and path grants.
-/

namespace Sys2Proof.Machine

/-! ## LOD_CMD (R276) -/

/-- An operation of LOD_CMD has had its effect: BUSY is set, and its STATUS waits for LOD_CMD_DONE. -/
def State.opPending (s : State) (op l status count : Nat) : State :=
  { s.wr Reg.lodCmdStatusBusy 1 with lod := { s.lod with op := some (op, l, status, count) } }

section
variable {s t : State} {op n k status count : Nat}

theorem State.lodCmd_of_idle {run : State → State × Nat × Nat × Nat} (hidle : s.on Reg.lodCmdStatusBusy = false)
    (hrun : run s = (t, k, status, count)) :
    s.lodCmd op n run = t.opPending op (if k = 16 then n else k) status count := by
  simp only [State.lodCmd, hidle, hrun, Bool.false_eq_true, if_false, State.opPending]

theorem State.lodCmd_of_busy {run : State → State × Nat × Nat × Nat} (hbusy : s.on Reg.lodCmdStatusBusy = true) :
    s.lodCmd op n run = s.discard.setBit Reg.lodErrBits 3 := if_pos hbusy

theorem State.lodOp_of_idle {run : State → State × Nat} (hidle : s.on Reg.lodCmdStatusBusy = false) (hrun : run s = (t, status)) :
    s.lodOp op n run = t.opPending op (n % 16) status 0 :=
  (State.lodCmd_of_idle (k := 16) hidle rfl).trans (by rw [hrun]; rfl)

theorem State.lodOp_of_idle_of_lt {run : State → State × Nat} (hn : n < 16) (hidle : s.on Reg.lodCmdStatusBusy = false)
    (hrun : run s = (t, status)) : s.lodOp op n run = t.opPending op n status 0 := by
  rw [State.lodOp_of_idle hidle hrun, Nat.mod_eq_of_lt hn]

theorem State.lodCmdDone_of_pending (hop : s.lod.op = some (op, k, status, count)) :
    s.lodCmdDone =
      let u : State := { s with lod := { s.lod with op := none } }
      let v := ((u.wr Reg.lodCmdStatusBusy 0).wr Reg.lodCmdStatusStatus status).wr Reg.lodCmdStatusLodge k
      if op = 7 ∧ status = St.ok then v.wr Reg.lodCmdResultCount count else v := by
  simp only [State.lodCmdDone, hop]

end

/-! ## The check that the operations share (R276) -/

section
variable {s : State} {l t status : Nat} {states : List Nat}

theorem State.lodAllowed_of_mem (hl : l < 16) (h : s.lodge l ∈ states) : s.lodAllowed l states = St.ok :=
  (if_neg (Nat.not_le.2 hl)).trans (if_pos (List.contains_iff_mem.2 h))

theorem State.lodAllowed_of_large (hl : 16 ≤ l) : s.lodAllowed l states = St.outOfRange := if_pos hl

theorem State.lodAllowed_of_not_mem (hl : l < 16) (h : s.lodge l ∉ states) : s.lodAllowed l states = St.badOperand :=
  (if_neg (Nat.not_le.2 hl)).trans (if_neg fun hc => h (List.contains_iff_mem.1 hc))

/-! ## CREATE and DESTROY (R276, R278) -/

theorem State.create_of_early (hstage : s.stage < 2) : s.create = (s, 0, St.notReady, 0) := if_pos hstage

theorem State.create_of_absent (hstage : 2 ≤ s.stage) (habsent : (natsFrom 0 16).find? (fun i => s.lodge i == 0) = some l) :
    s.create = ((s.resetLodgeRegs l).wr Reg.lodStateState 1 l, l, St.ok, 0) := by
  simp only [State.create, Nat.not_lt.2 hstage, if_false, habsent]

theorem State.destroy_of_refused (h : s.lodAllowed l [1, 5] = status) (hst : status ≠ St.ok) : s.destroy l = (s, status) := by
  subst h
  exact if_pos hst

theorem State.destroy_of_used (h : s.lodAllowed l [1, 5] = St.ok) (hused : s.ringBound l = true ∨ s.hasEntries l = true) :
    s.destroy l = (s, St.busy) :=
  (if_neg (Decidable.not_not.2 h)).trans (if_pos (Bool.or_eq_true_iff.2 hused))

theorem State.destroy_of_unused (h : s.lodAllowed l [1, 5] = St.ok) (hring : s.ringBound l = false) (hent : s.hasEntries l = false) :
    s.destroy l = (s.destroyLodge l, St.ok) :=
  (if_neg (Decidable.not_not.2 h)).trans (if_neg (Bool.eq_false_iff.1 (Bool.or_eq_false_iff.2 ⟨hring, hent⟩)))

/-! ## BIND and UNBIND (R277) -/

theorem State.bind_of_unbound (h : s.lodAllowed l [1, 2, 3, 5] = St.ok) (ht : t < 2 ^ 16) (hfree : s.tenantLodge t = none) :
    s.bind l t = ({ s with lod := { s.lod with tenants := Tbl.put t l s.lod.tenants } }, St.ok) := by
  simp only [State.bind, hfree]
  exact (if_neg (Decidable.not_not.2 h)).trans (if_neg (Nat.not_le.2 ht))

theorem State.unbind_of_unused (h : s.lodAllowed l [1, 2, 3, 4, 5] = St.ok) (ht : t < 2 ^ 16) (hbound : s.tenantLodge t = some l)
    (hidle : s.tenantUsed l t = false) :
    s.unbind l t = ({ s with lod := { s.lod with tenants := Tbl.del t s.lod.tenants } }, St.ok) :=
  (if_neg (Decidable.not_not.2 h)).trans <| (if_neg (Nat.not_le.2 ht)).trans <|
    (if_neg (Decidable.not_not.2 hbound)).trans (if_neg (Bool.eq_false_iff.1 hidle))

/-! ## RESET, TEARDOWN and CLIENT_DUMP (R281, R282, R295) -/

theorem State.resetLodge_of_refused (h : s.lodAllowed l [2, 5] = status) (hst : status ≠ St.ok) : s.resetLodge l = (s, status) := by
  subst h
  exact if_pos hst

theorem State.resetLodge_of_idle (h : s.lodAllowed l [2, 5] = St.ok) (hent : s.hasEntries l = false) :
    s.resetLodge l = ((s.resetLodge l).1, St.ok) := by
  refine Prod.ext rfl ?_
  simp only [State.resetLodge, h, hent, ne_eq, not_true_eq_false, Bool.false_eq_true, if_false]

theorem State.teardown_of_refused (h : s.lodAllowed l [1, 2, 3] = status) (hst : status ≠ St.ok) : s.teardown l = (s, status) := by
  subst h
  exact if_pos hst

/-- A lodge that is not ACTIVE is torn down without a fault of its own. -/
theorem State.teardown_of_inactive (h : s.lodAllowed l [1, 2, 3] = St.ok) (hst : s.lodge l ≠ 1) :
    s.teardown l =
      (((((((s.wr Reg.lodStateState 4 l).refuseHome l St.notReady).closeStreams l).closeConns l).dropPins l).freeKv l).homeRun, St.ok) := by
  simp only [State.teardown, h, hst, ne_eq, not_true_eq_false, if_false]

theorem State.clientDump_of_refused {clear free : Bool} (h : s.lodAllowed l [1, 2, 3, 4, 5] = status) (hst : status ≠ St.ok) :
    s.clientDump l clear free = (s, status, 0) := by
  subst h
  exact if_pos hst

theorem State.clientDump_of_allowed {clear free : Bool} (h : s.lodAllowed l [1, 2, 3, 4, 5] = St.ok) :
    s.clientDump l clear free = ((s.clientDump l clear free).1, St.ok, (s.clientDump l clear free).2.2) := by
  refine Prod.ext rfl (Prod.ext ?_ rfl)
  simp only [State.clientDump, h, ne_eq, not_true_eq_false, if_false]

end

theorem exec_clientDump_of_idle {s t : State} {n status count : Nat} {clear free : Bool} (hidle : s.on Reg.lodCmdStatusBusy = false)
    (hdump : s.clientDump n clear free = (t, status, count)) :
    exec (.clientDump n clear free) s = .next (t.opPending 7 (n % 16) status count) :=
  congrArg Host.Outcome.next ((State.lodCmd_of_idle (k := 16) hidle rfl).trans (by rw [hdump]; rfl))

/-- Settles O45: the operation that is started has the effect its checks allow, and leaves its STATUS for LOD_CMD_DONE. -/
theorem lodgeOperations : Obligations.LodgeOperations := by
  unfold Obligations.LodgeOperations
  intro s l t put
  have hl := l.isLt
  refine ⟨fun hidle => ⟨?create, ?destroy, ?reset, ?teardown, ?dump, ?refusals⟩, ?tenant, ?busy, ?done⟩
  case create =>
    intro hstage habsent
    refine congrArg Host.Outcome.next ((State.lodCmd_of_idle hidle (State.create_of_absent hstage habsent)).trans ?_)
    rw [if_neg (Nat.ne_of_lt hl)]
    rfl
  case destroy =>
    intro hst hring hent
    have hok := State.lodAllowed_of_mem (states := [1, 5]) hl (by simpa using hst)
    exact next_choices_congr (State.lodOp_of_idle_of_lt hl hidle (State.destroy_of_unused hok hring hent))
  case reset =>
    intro hst hent
    have hok := State.lodAllowed_of_mem (states := [2, 5]) hl (by simpa using hst)
    exact next_choices_congr (State.lodOp_of_idle_of_lt hl hidle (State.resetLodge_of_idle hok hent))
  case teardown =>
    intro hst
    have hok := State.lodAllowed_of_mem (s := s) (states := [1, 2, 3]) hl (by simp [hst])
    exact next_choices_congr (State.lodOp_of_idle_of_lt hl hidle (State.teardown_of_inactive hok (by omega)))
  case dump =>
    intro clear free hst
    have hok := State.lodAllowed_of_mem (s := s) (states := [1, 2, 3, 4, 5]) hl (by simp [hst])
    rw [exec_clientDump_of_idle hidle (State.clientDump_of_allowed hok), Nat.mod_eq_of_lt hl]
    rfl
  case refusals =>
    intro no
    refine ⟨?large, ?destroyState, ?destroyUsed, ?resetState, ?early⟩
    case large =>
      intro n hn
      have hbad {states : List Nat} : s.lodAllowed n states = St.outOfRange := State.lodAllowed_of_large hn
      refine ⟨next_choices_congr (State.lodOp_of_idle hidle (State.destroy_of_refused hbad (by decide))),
        next_choices_congr (State.lodOp_of_idle hidle (State.resetLodge_of_refused hbad (by decide))),
        next_choices_congr (State.lodOp_of_idle hidle (State.teardown_of_refused hbad (by decide))), fun clear free => ?_⟩
      exact exec_clientDump_of_idle hidle (State.clientDump_of_refused hbad (by decide))
    case destroyState =>
      intro hst
      have hbad := State.lodAllowed_of_not_mem (states := [1, 5]) hl (by simpa using hst)
      exact next_choices_congr (State.lodOp_of_idle hidle (State.destroy_of_refused hbad (by decide)))
    case destroyUsed =>
      intro hst hused
      have hok := State.lodAllowed_of_mem (states := [1, 5]) hl (by simpa using hst)
      exact next_choices_congr (State.lodOp_of_idle hidle (State.destroy_of_used hok hused))
    case resetState =>
      intro hst
      have hbad := State.lodAllowed_of_not_mem (states := [2, 5]) hl (by simpa using hst)
      exact next_choices_congr (State.lodOp_of_idle hidle (State.resetLodge_of_refused hbad (by decide)))
    case early => exact fun hstage => congrArg Host.Outcome.next (State.lodCmd_of_idle hidle (State.create_of_early hstage))
  case tenant =>
    intro u hidle hst harg ht
    refine ⟨fun hfree => ?bind, fun hbound hunused => ?unbind⟩
    case bind =>
      have hok := State.lodAllowed_of_mem (s := u) (states := [1, 2, 3, 5]) hl (by simp [hst])
      refine congrArg Host.Outcome.next (State.lodOp_of_idle_of_lt hl hidle ?_)
      rw [harg, State.bind_of_unbound hok ht hfree]
    case unbind =>
      have hok := State.lodAllowed_of_mem (s := u) (states := [1, 2, 3, 4, 5]) hl (by simp [hst])
      refine congrArg Host.Outcome.next (State.lodOp_of_idle_of_lt hl hidle ?_)
      rw [harg, State.unbind_of_unused hok ht hbound hunused]
  case busy => exact fun hbusy => congrArg Host.Outcome.next (State.lodCmd_of_busy hbusy)
  case done => exact fun op status count hop => congrArg Host.Outcome.next (State.lodCmdDone_of_pending hop)

/-! ## Drain and personas (R281, R297, R298) -/

section
variable {s : State} {l : Nat}

theorem State.halt_of_torn_down (hst : s.lodge l = 4) (hjobs : (s.jobs.any fun j => j.2.2.cmd.lodge == l) = false) :
    s.halt l = s.wr Reg.lodStateState 5 l := if_pos ⟨hst, by rw [hjobs]; rfl⟩

theorem State.personaWrite_of_drained {q : Nat} (hidle : s.on Reg.lodPersonaPersonaBusy = false) (hdrained : s.drained = true) :
    s.personaWrite q = { s.wr Reg.lodPersonaPersonaBusy 1 with lod := { s.lod with newPersona := some (q % 4) } } :=
  if_neg (by simp [hidle, hdrained])

theorem State.personaWrite_of_undrained {q : Nat} (h : s.drained = false) : s.personaWrite q = s.discard :=
  if_pos (by simp [h])

theorem State.personaDone_of_new {q : Nat} (h : s.lod.newPersona = some q) :
    s.personaDone = { (s.wr Reg.lodPersonaPersona q).wr Reg.lodPersonaPersonaBusy 0 with lod := { s.lod with newPersona := none } } := by
  simp only [State.personaDone, h]

end

/-! ## Refills (R289) -/

section
variable {s : State} {p cap l : Nat}

/-- A lodge that waits on a path with no tokens left is counted (R289). -/
def State.throttled (s : State) (p l : Nat) : State :=
  if s.waitsOn l p && decide (s.maxTok l p ≤ 0) then s.bump Reg.lodThrottleCount 1 l p else s

@[simp] theorem State.throttled_lod : (s.throttled p l).lod = s.lod := by
  unfold State.throttled
  split <;> rfl

/-- The count of throttled microseconds is a register of its own, beside the shares and the burst. -/
theorem State.rd_throttled {f : Fld} (hs : s.Inv) (hf : f ∈ [Reg.lodMinShare, Reg.lodMaxShare, Reg.lodBurstKib]) :
    (s.throttled p l).rd f l p = s.rd f l p := by
  have hkey : f.key l p ≠ Reg.lodThrottleCount.key l p := by
    simp only [List.mem_cons, List.not_mem_nil, or_false] at hf
    rcases hf with rfl | rfl | rfl <;> simp [Fld.key, Reg.lodMinShare, Reg.lodMaxShare, Reg.lodBurstKib, Reg.lodThrottleCount]
  unfold State.throttled
  split
  · exact State.rd_wr_other hs hkey
  · rfl

theorem State.maxTok_throttled : (s.throttled p l).maxTok l p = s.maxTok l p :=
  congrArg (fun d : Lod => Tbl.get 0 (l * 8 + p) d.maxTok) State.throttled_lod

theorem State.minTok_throttled : (s.throttled p l).minTok l p = s.minTok l p :=
  congrArg (fun d : Lod => Tbl.get 0 (l * 8 + p) d.minTok) State.throttled_lod

theorem State.refillOne_regs : (s.refillOne p cap l).regs = (s.throttled p l).regs := rfl

theorem State.maxTok_refillOne (hs : s.Inv) :
    (s.refillOne p cap l).maxTok l p = min (s.maxTok l p + ((s.rd Reg.lodMaxShare l p * cap / 1024 : Nat) : Int))
      ((max (s.rd Reg.lodBurstKib l p * 1024) (s.rd Reg.lodMaxShare l p * cap / 1024) : Nat) : Int) := by
  rw [← State.rd_throttled hs (f := Reg.lodMaxShare) (by simp), ← State.rd_throttled hs (f := Reg.lodBurstKib) (by simp),
    ← State.maxTok_throttled (s := s)]
  exact Tbl.get_put_self 0 _ _ _

theorem State.minTok_refillOne (hs : s.Inv) :
    (s.refillOne p cap l).minTok l p = min (s.minTok l p + ((s.rd Reg.lodMinShare l p * cap / 1024 : Nat) : Int))
      ((max (s.rd Reg.lodBurstKib l p * 1024) (s.rd Reg.lodMaxShare l p * cap / 1024) : Nat) : Int) := by
  rw [← State.rd_throttled hs (f := Reg.lodMinShare) (by simp), ← State.rd_throttled hs (f := Reg.lodMaxShare) (by simp),
    ← State.rd_throttled hs (f := Reg.lodBurstKib) (by simp), ← State.minTok_throttled (s := s)]
  exact Tbl.get_put_self 0 _ _ _

/-- Once every path is filled, the forwarded traffic is moved on and the work that waited for a bucket is looked at again. -/
theorem State.refill_of_fillPath {t : State} (ht : (natsFrom 0 6).foldl (fun (s : State) p => s.fillPath p) s = t) :
    s.refill = ({ t with lnk := { t.lnk with fwd := [], fwdLast := t.lnk.fwd }, lod := { t.lod with devUsed := [] } } :
      State).attWake.embPump.retakeHeld.pumpConns.choices := by
  rw [State.refill, State.fillBuckets, ht]

end

/-! ## Path grants (R289, R291) -/

section
variable {s : State} {p : Nat} {reqs : List (Nat × Nat)}

theorem State.pathGrant_of_device {d : Nat × Nat} (hdev : reqs.find? (fun r => decide (16 ≤ r.1) && s.devRoom p r.2) = some d) :
    s.pathGrant p reqs = (s.devCharge p d.2).pathLeft p (reqs.erase d) := by
  simp only [State.pathGrant, hdev]

theorem State.pathGrant_of_lodge {r : Nat × Nat} {cur : Tbl Int} {g : List Nat × Bool}
    (hdev : reqs.find? (fun r => decide (16 ≤ r.1) && s.devRoom p r.2) = none)
    (hset : s.grantSet p (sortDedup ((reqs.filter fun r => decide (r.1 < 16)).map (·.1))) = g)
    (hturn : wrrGrant s.lod.pathCur (p * 16) (fun l => s.rd Reg.lodCfgWeight l) g.1 = (cur, some r.1))
    (hreq : reqs.find? (fun q => q.1 == r.1) = some r) :
    s.pathGrant p reqs =
      (({ s with lod := { s.lod with pathCur := cur } } : State).charge p r.1 r.2 g.2).pathLeft p (reqs.erase r) := by
  simp only [State.pathGrant, hdev, hset, hturn, Option.bind_some, hreq]

end

/-- Settles O46: each command is one case of its handler, and a refill adds a share of CAP to each bucket. -/
theorem lodgeScheduling : Obligations.LodgeScheduling := by
  unfold Obligations.LodgeScheduling
  intro s l path reqs p waiters wait
  refine ⟨?halts, rfl, rfl, ?persona, ?undrained, ?personaDone, ?refill, ?fills, ?device, ?lodge⟩
  case halts => exact fun hst hjobs => congrArg Host.Outcome.next (State.halt_of_torn_down hst hjobs)
  case persona => exact fun q hidle hdrained => congrArg Host.Outcome.next (State.personaWrite_of_drained hidle hdrained)
  case undrained => exact fun q h => congrArg Host.Outcome.next (State.personaWrite_of_undrained h)
  case personaDone => exact fun q h => congrArg Host.Outcome.next (State.personaDone_of_new h)
  case refill =>
    intro t
    have hpaths : (natsFrom 0 6).foldl (fun (s : State) p => s.fillPath p) s = t := rfl
    exact congrArg Host.Outcome.next (State.refill_of_fillPath hpaths)
  case fills =>
    intro cap up eb hs
    exact ⟨State.maxTok_refillOne hs, State.minTok_refillOne hs, State.refillOne_regs⟩
  case device => exact fun d hdev => congrArg Host.Outcome.next (State.pathGrant_of_device hdev)
  case lodge =>
    intro r cur hdev g hturn hreq
    exact congrArg Host.Outcome.next (State.pathGrant_of_lodge hdev rfl hturn hreq)

end Sys2Proof.Machine
end

section
/-!
PROOFS. The statements of 11_tallies.md: TALLY commands, the ends of waits, and the dump.
-/

namespace Sys2Proof.Machine

/-! ## The effect of a TALLY command (R305, R310, R311, R316) -/

section
variable {s : State} {x : Cmd}

theorem State.tallyRun_of_alloc {t : Nat} (hop : x.op = 1) (hfree : s.freeTally = some t) :
    s.tallyRun x = ({ s with tallies := Tbl.put t ⟨x.core, x.lodge, x.tGroup, 0, false, 0⟩ s.tallies }, t, St.ok) := by
  simp only [State.tallyRun, hop, if_true, hfree]

theorem State.tallyRun_of_free (hop : x.op = 2) :
    s.tallyRun x = ({ s with tallies := Tbl.del x.tTally s.tallies }, 0, St.ok) := by
  simp [State.tallyRun, hop]

theorem State.tallyRun_of_disband (hop : x.op = 3) (hd : x.tDisband = true) :
    s.tallyRun x = ({ s with groups := Tbl.del (x.core * 16 + x.tGroup) s.groups }, 0, St.ok) := by
  simp [State.tallyRun, hop, hd]

/-- A group that was not configured starts with the sum 0. -/
theorem State.tallyRun_of_new_group (hop : x.op = 3) (hd : x.tDisband = false)
    (hnew : Tbl.find (x.core * 16 + x.tGroup) s.groups = none) :
    s.tallyRun x =
      ({ s with groups := Tbl.put (x.core * 16 + x.tGroup) ⟨x.lodge, x.tSlot, x.tEvery, 0⟩ s.groups }, 0, St.ok) := by
  simp [State.tallyRun, hop, hd, hnew]

theorem State.tallyRun_of_reckon (hop : x.op = 4) :
    s.tallyRun x = ((s.reckon x.core x.tGroup).1, (s.reckon x.core x.tGroup).2 % 2 ^ 32, St.ok) := by
  simp [State.tallyRun, hop]

/-- The 8 bytes that TALLY_READ stores of a Tally: its COUNT and its logical count; zeros for a free one. -/
def State.tallyWord (s : State) (t : Nat) : List Byte :=
  match Tbl.find t s.tallies with
  | some y => leBytes 4 y.count ++ leBytes 4 (s.logical y)
  | none => leBytes 8 0

theorem State.tallyRun_of_read (hop : x.op = 5) (ha : s.accessStatus x.lodge (x.w 2) (8 * x.tCount) = St.ok) :
    s.tallyRun x = (s.pokeHome x.lodge (x.w 2) ((natsFrom x.tTally x.tCount).flatMap s.tallyWord), 0, St.ok) := by
  simp only [State.tallyRun, hop, ha, ne_eq, not_true_eq_false, Nat.reduceEqDiff, if_false]
  rfl

end

/-! ## One occurrence of a TALLY row (R316, R333) -/

section
variable {s t : State} {c op r : Nat} {x : Cmd}

/-- A TALLY command has left its core's queue, and its wait is recorded (R294). -/
def State.takeTally (s : State) (c : Nat) (x : Cmd) : State :=
  (s.modCore c fun k => { k with queue := dequeue x k.queue }).recordWait x.lodge x.clients (s.now - x.arrived)

theorem State.withRoom_of_room {mark k : State → State} (hroom : x.sched = true ∨ s.hasRoom (s.cqOf x.ring) 1 = true) :
    s.withRoom x mark k = k s := if_pos (by simp [hroom])

/-- A TALLY command whose checks pass leaves the queue, has its effect and completes with OK. -/
theorem State.tally_of_ok (hx : s.nextTally c op = some x) (hroom : x.sched = true ∨ s.hasRoom (s.cqOf x.ring) 1 = true)
    (hok : s.tallyVerdict c x = St.ok) (hrun : (s.takeTally c x).tallyRun x = (t, r, St.ok)) :
    s.tally c op = t.finish x x.core St.ok 0 r := by
  rw [State.takeTally] at hrun
  simp only [State.tally, hx, State.withRoom_of_room hroom, hok, ne_eq, not_true_eq_false, if_false, State.modCore_now, hrun]
  rfl

end

/-! ## The ends of waits, and the dump (R307, R315, R318, R319) -/

section
variable {s : State} {c p : Nat} {j : Job}

/-- A waiter that takes no activation room runs as it stands. -/
theorem State.toRun_of_roomless (hj : s.job c p = some j) (hst : j.st = .wait) (hw : s.waitMet j.cmd = true) (hp : s.pinsReady j = true)
    (hf : s.actFits j = true) (hpeak : j.cmd.klass ≠ 3 ∨ j.cmd.op ≠ 0x20) (ha : j.abuf = 0) :
    s.toRun c p = s.setJob c p { j with st := .run, since := s.now } := by
  have hno : ¬ (j.cmd.klass = 3 ∧ j.cmd.op = 0x20) := fun ⟨h3, h20⟩ => hpeak.elim (· h3) (· h20)
  rw [State.toRun_of_ready hj hst hw hp hf, if_neg hno, ← ha]

theorem State.spinTimeout_of_unmet (hj : s.job c p = some j) (hst : j.st = .wait) (hw : s.waitMet j.cmd = false)
    (hon : s.on Reg.tlyCtrlWdEn = true) :
    s.spinTimeout c p = ((s.bump Reg.tlySpinFaultCount).setBit Reg.tlyErrBits 2).endJob c p j St.spinTimeout := by
  simp [State.spinTimeout, hj, hst, hw, hon]

theorem State.tallyDumpStart_of_idle {all : Bool} {l : Nat} (hidle : s.on Reg.tlyDumpCmdBusy = false) :
    s.tallyDumpStart all l =
      { (s.hostWrite (s.rd Reg.tlyDumpAddr * 64) (s.dumpBytes all l)).wr Reg.tlyDumpCmdBusy 1 with
        tallyDump := some (s.dumpBytes all l).length } :=
  if_neg (Bool.eq_false_iff.1 hidle)

theorem State.tallyDumpEnd_of_started {n : Nat} (hn : s.tallyDump = some n) :
    s.tallyDumpEnd = { (s.wr Reg.tlyDumpCmdBusy 0).wr Reg.tlyDumpLenBytes n with tallyDump := none } := by
  simp only [State.tallyDumpEnd, hn]

end

/-- Settles O33: a TALLY command that passes its checks completes after its opcode's effect; waits and dumps are one case of their
handlers. -/
theorem tallyCommands : Obligations.TallyCommands := by
  unfold Obligations.TallyCommands
  refine ⟨?commands, ?waits⟩
  case commands =>
    intro s core op x hx hroom hok u g
    have runs {t : State} {r : Nat} (hrun : u.tallyRun x = (t, r, St.ok)) :
        (.next (s.tally core op).choices : Out) = .next (t.finish x x.core St.ok 0 r).choices :=
      next_choices_congr (State.tally_of_ok hx hroom hok hrun)
    refine ⟨?alloc, ?free, ?disband, ?group, ?reckon, ?read⟩
    case alloc =>
      rintro t rfl hop hfree
      exact runs (State.tallyRun_of_alloc hop hfree)
    case free =>
      rintro rfl hop
      exact runs (State.tallyRun_of_free hop)
    case disband =>
      rintro rfl hop hd
      exact runs (State.tallyRun_of_disband hop hd)
    case group =>
      rintro rfl hop hd hnew
      exact runs (State.tallyRun_of_new_group hop hd hnew)
    case reckon =>
      rintro rfl hop
      exact runs (State.tallyRun_of_reckon hop)
    case read =>
      rintro rfl hop ha word
      exact runs (State.tallyRun_of_read hop ha)
  case waits =>
    intro s core place j
    refine ⟨?met, ?unmet, ?start, ?done⟩
    case met =>
      exact fun hj hst hw hp hf hpeak ha => congrArg Host.Outcome.next (State.toRun_of_roomless hj hst hw hp hf hpeak ha)
    case unmet => exact fun hj hst hw hon => next_choices_congr (State.spinTimeout_of_unmet hj hst hw hon)
    case start => exact fun all l hidle => congrArg Host.Outcome.next (State.tallyDumpStart_of_idle hidle)
    case done => exact fun n hn => congrArg Host.Outcome.next (State.tallyDumpEnd_of_started hn)

end Sys2Proof.Machine
end

section
/-!
PROOFS. The statements of 00_scope.md and 01_architecture.md: a step runs the front command, and every command is answered.
-/

namespace Sys2Proof.Machine

/-- Settles O1: the two cases of the queue. -/
theorem stepRunsFront : Obligations.StepRunsFront := by
  unfold Obligations.StepRunsFront
  exact ⟨fun _ _ _ hq => step_of_front hq, fun _ hq => step_of_empty hq⟩

/-- Every command is answered by a next state: no handler faults or refuses. -/
theorem exec_goes (c : Instr) (s : State) : Goes (exec c s) := by
  cases c <;> exact ⟨_, rfl⟩

/-- Settles O2: every command is answered by a next state, which keeps the queue as every operation does. -/
theorem commandsAnswer : Obligations.CommandsAnswer := by
  unfold Obligations.CommandsAnswer
  intro c s
  obtain ⟨t, ht⟩ := exec_goes c s
  exact ⟨t, ht, (exec_keeps ht).pending⟩

/-- Equal states are the same answer. -/
theorem next_congr {s t : State} (h : s = t) : (.next s : Out) = .next t := by rw [h]

end Sys2Proof.Machine
end

section
/-!
PROOFS. The statements of 12_host_interface.md: rings and doorbells, host loss, resets of the host port, held interrupts.
-/

namespace Sys2Proof.Machine

/-! ## A write discarded (R46, R326) -/

/-- The registers of a write discarded. -/
def discardKey (k : Nat) : Prop := k = Reg.hifRegErrDiscard.key 0 0 ∨ k = Reg.hifDevCauseBits.key 0 0

section
variable {s : State}

/-- A vector that falls due changes no register. -/
theorem State.fire_reports_quiet (K : Nat → Prop) (v : Nat) : Reports K s (s.fire v) :=
  .ite (.of_regs rfl rfl) (.of_regs rfl rfl)

theorem State.discard_reports : Reports discardKey s s.discard :=
  ((Reports.wr s _ (.inl rfl)).trans (.wr _ _ (.inr rfl))).trans (State.fire_reports_quiet _ 0)

/-- A write discarded is counted. -/
theorem State.rd_discard (hs : s.Inv) :
    s.discard.rd Reg.hifRegErrDiscard = min (2 ^ Reg.hifRegErrDiscard.width - 1) (s.rd Reg.hifRegErrDiscard + 1) := by
  have hcounted : (s.bump Reg.hifRegErrDiscard).Inv := hs.wr
  have hfired := State.fire_reports_quiet (s := (s.bump Reg.hifRegErrDiscard).setBit Reg.hifDevCauseBits 2) (fun _ => False) 0
  calc s.discard.rd Reg.hifRegErrDiscard
    _ = ((s.bump Reg.hifRegErrDiscard).setBit Reg.hifDevCauseBits 2).rd Reg.hifRegErrDiscard := hfired.rd hcounted.wr id
    _ = (s.bump Reg.hifRegErrDiscard).rd Reg.hifRegErrDiscard := State.rd_wr_other hcounted (by decide)
    _ = _ := State.rd_bump_self hs

end

/-! ## Doorbell records (R329 to R333) -/

section
variable {s : State} {r idx : Nat}

/-- The record of a submit ring whose driver is not too far ahead gives HOST_IDX. -/
theorem State.doorbell_of_submit (htype : s.rd Reg.hifRingCfgType r = 0)
    (hroom : (idx % 2 ^ 32 + 2 ^ 32 - s.devIdx r) % 2 ^ 32 ≤ s.ringSize r) :
    s.doorbell r idx = s.modRing r fun x => { x with hostIdx := idx % 2 ^ 32 } := by
  have htype' : (s.modRing r fun x => { x with hostIdx := idx % 2 ^ 32 }).rd Reg.hifRingCfgType r = 0 := htype
  simp only [State.doorbell, htype, htype', if_true, if_neg (Nat.not_lt.2 hroom), Nat.zero_ne_one, if_false]

theorem State.doorbell_of_ahead (htype : s.rd Reg.hifRingCfgType r = 0)
    (hahead : s.ringSize r < (idx % 2 ^ 32 + 2 ^ 32 - s.devIdx r) % 2 ^ 32) : s.doorbell r idx = s.stopRing r 1 := by
  simp only [State.doorbell, htype, if_true, if_pos hahead]

/-- The record of a completion ring gives HOST_IDX, and what waits for room goes on. -/
theorem State.doorbell_of_completion (htype : s.rd Reg.hifRingCfgType r = 1)
    (hroom : (s.devIdx r + 2 ^ 32 - idx % 2 ^ 32) % 2 ^ 32 ≤ s.ringSize r) :
    s.doorbell r idx = (s.modRing r fun x => { x with hostIdx := idx % 2 ^ 32 }).roomFound r := by
  have htype' : (s.modRing r fun x => { x with hostIdx := idx % 2 ^ 32 }).rd Reg.hifRingCfgType r = 1 := htype
  simp only [State.doorbell, htype, htype', if_true, if_neg (Nat.not_lt.2 hroom), Nat.one_ne_zero, if_false]

/-- The mark of a ring is cleared as its record is read. -/
def State.unmarked (s : State) (r : Nat) : State := s.modRing r fun x => { x with mark := false }

section
variable (hactive : s.ringActive r = true) (hup : s.hostUp = true)
include hactive hup

theorem State.doorbellRead_of_marked (hmark : (s.ring r).mark = true) : s.doorbellRead r idx = (s.unmarked r).doorbell r idx :=
  if_pos (by rw [hmark, hactive, hup]; rfl)

theorem State.poll_of_on (hon : s.rd Reg.hifCtrlPollUs ≠ 0) : s.poll r idx = (s.unmarked r).doorbell r idx :=
  if_pos (by rw [hactive, hup, bne_iff_ne.2 hon]; rfl)

theorem State.roomPoll_of_completion (htype : s.rd Reg.hifRingCfgType r = 1) : s.roomPoll r idx = s.doorbell r idx :=
  if_pos (by rw [htype, hactive, hup]; rfl)

end

/-! ## Descriptor fetch (R331) -/

section
variable {l : Lod} {words : List Nat} (hup : s.hostUp = true) (hgo : s.paused = false) (hturn : s.fetchTurn = (l, some r))
include hup hgo hturn

theorem State.fetch_of_error : s.fetch r words true = s.stopRing r 3 := by
  simp [State.fetch, hup, hgo, hturn]

/-- The ring whose turn it is hands its descriptor on. -/
theorem State.fetch_of_turn :
    s.fetch r words false = ((((s.tookFetch l).modRing r fun k => { k with live := k.live ++ [s.hif.fetched] }).count Reg.hifRingIdxDevIdx 1
      r).writeDevIdx r).dispatch (s.fetched r words) := by
  simp only [State.fetch, hup, hgo, hturn, Bool.not_false, Bool.and_self, BEq.rfl, if_true, Bool.false_eq_true, if_false]
  rfl

end

/-! ## Ring set-up (R334) -/

theorem State.enableRing_of_allowed (hoff : s.rd Reg.hifRingCfgEnable r = 0) (hok : s.enableRefused r = false) :
    s.enableRing r = ((((s.wr Reg.hifRingCfgEnable 1 r).wr Reg.hifRingStatusState 1 r).wr Reg.hifRingStatusReason 0 r).wr
      Reg.hifRingIdxDevIdx 0 r).setRing r (s.ring r).closed := by
  simp only [State.enableRing, hoff, hok, Nat.zero_ne_one, Bool.false_eq_true, if_false]
  rfl

theorem State.enableRing_of_refused (hoff : s.rd Reg.hifRingCfgEnable r = 0) (hno : s.enableRefused r = true) :
    s.enableRing r = s.discard := by
  simp only [State.enableRing, hoff, hno, Nat.zero_ne_one, if_false, if_true]

section
variable (hon : s.rd Reg.hifRingCfgEnable r = 1)
include hon

theorem State.disableRing_of_refused (hno : s.disableRefused r = true) : s.disableRing r = s.discard := by
  simp only [State.disableRing, hon, hno, Nat.one_ne_zero, if_false, if_true]

/-- A submit ring reads DISABLED once every fetched descriptor has its record. -/
theorem State.disableRing_of_submit (hok : s.disableRefused r = false) (htype : s.rd Reg.hifRingCfgType r = 0) :
    s.disableRing r = (s.wr Reg.hifRingCfgEnable 0 r).settleRing r := by
  simp only [State.disableRing, hon, hok, htype, Nat.one_ne_zero, Bool.false_eq_true, if_false, if_true]

theorem State.disableRing_of_other (hok : s.disableRefused r = false) (htype : s.rd Reg.hifRingCfgType r ≠ 0) :
    s.disableRing r = ((s.wr Reg.hifRingCfgEnable 0 r).wr Reg.hifRingStatusState 0 r).wr Reg.hifRingStatusReason 0 r := by
  simp only [State.disableRing, hon, hok, htype, Nat.one_ne_zero, Bool.false_eq_true, if_false]

end

/-! ## ADMIN descriptors (R335, R336) -/

/-- An ADMIN descriptor with its reserved fields zero leaves the queue and runs. -/
theorem State.admin_of_next {op : Nat} {x : Cmd} {k : State → Cmd → State} (hx : s.nextAdmin op = some x) (hok : adminReserved x = false) :
    s.admin op k = k { s with hif := { s.hif with adminQ := dequeue x s.hif.adminQ } } x := by
  simp only [State.admin, hx, hok, Bool.false_eq_true, if_false]

end

/-- Settles O42: each row of the rings is one case of its handler. -/
theorem rings : Obligations.Rings := by
  unfold Obligations.Rings
  intro s ring idx r h close
  refine ⟨fun hactive => next_congr (if_pos ⟨rfl, rfl, hactive⟩), ?unwoken, ?read, ?ahead, ?poll, ?room, ?fetch,
    fun hoff hok => next_congr (State.enableRing_of_allowed hoff hok), fun hoff hno => next_congr (State.enableRing_of_refused hoff hno),
    fun hon hok htype => next_congr (State.disableRing_of_submit hon hok htype),
    fun hon hok htype => next_congr (State.disableRing_of_other hon hok htype),
    fun hon hno => next_congr (State.disableRing_of_refused hon hno),
    fun x hx hok => next_choices_congr (State.admin_of_next hx hok), fun x hx hok => next_choices_congr (State.admin_of_next hx hok)⟩
  case unwoken =>
    intro o n hbad
    refine next_congr (if_neg ?_)
    rintro ⟨ho, hn, hactive⟩
    rcases hbad with hidle | hne | hne
    · exact Bool.false_ne_true (hidle.symm.trans hactive)
    · exact hne ho
    · exact hne hn
  case read =>
    rintro hmark hactive hup ⟨htype, hroom⟩
    exact next_choices_congr ((State.doorbellRead_of_marked hactive hup hmark).trans
      (State.doorbell_of_submit (s := s.unmarked r) htype hroom))
  case ahead =>
    intro hmark hactive hup htype hahead
    exact next_choices_congr ((State.doorbellRead_of_marked hactive hup hmark).trans
      (State.doorbell_of_ahead (s := s.unmarked r) htype hahead))
  case poll =>
    rintro hon hactive hup ⟨htype, hroom⟩
    exact next_choices_congr ((State.poll_of_on hactive hup hon).trans (State.doorbell_of_submit (s := s.unmarked r) htype hroom))
  case room =>
    intro htype hactive hup hroom
    exact next_choices_congr ((State.roomPoll_of_completion hactive hup htype).trans (State.doorbell_of_completion htype hroom))
  case fetch =>
    intro words l hup hgo hturn
    exact ⟨next_choices_congr (State.fetch_of_error hup hgo hturn), next_choices_congr (State.fetch_of_turn hup hgo hturn)⟩

/-! ## Host loss and resets of the host port (R321 to R323) -/

section
variable {s : State}

theorem State.hostLost_of_up (h : s.on Reg.hifStatusHostLost = false) (r : Nat) :
    s.hostLost r =
      let u := ((s.modRing r fun x => { x with mark := false }).wr Reg.hifStatusHostLost 1).devCause 0
      let v := ((natsFrom 0 256).filter u.ringActive).foldl (fun (s : State) r => s.stopRing r 2) u
      ({ v with hif := { v.hif with halted := true } } : State).alarm 0x00 0xF 0xFF 0 0 :=
  if_neg (Bool.eq_false_iff.1 h)

/-- The commands whose records wait for room. -/
def State.recordsDue (s : State) : List Cmd := s.hif.rings.flatMap fun e => e.2.waiting.map (·.1)

/-- The host interface after a function-level reset, before the waiting records are dropped. -/
def State.flrCleared (s : State) : State :=
  { s with
    regs := s.regs.filter fun e => !flrReg e.1
    cores := s.cores.map fun e => (e.1, { e.2 with places := e.2.places.map fun p => (p.1, p.2.unreserved) })
    hif := { s.hif with rings := s.hif.rings.map fun e => (e.1, e.2.closed), msix := [], pba := [], halted := true, d3 := false } }

theorem State.length_recordsDue (s : State) :
    (s.hif.rings.map fun e => e.2.waiting.length).foldl (· + ·) 0 = s.recordsDue.length := by
  rw [← List.sum_eq_foldl, State.recordsDue, List.length_flatMap]
  simp only [List.length_map]

theorem State.flr_eq (s : State) :
    s.flr =
      let u := s.recordsDue.foldl (fun (u : State) x => u.unlive x) s.flrCleared
      if s.recordsDue.length = 0 then u else (u.bump Reg.hifCplDropCount s.recordsDue.length).devCause 3 := by
  rw [← State.length_recordsDue]
  rfl

/-- A reset with no record waiting drops none. -/
theorem State.flr_of_none (h : s.recordsDue = []) : s.flr = s.flrCleared := by
  simp [State.flr_eq, h]

theorem State.flr_of_due (h : s.recordsDue ≠ []) :
    s.flr = ((s.recordsDue.foldl (fun (u : State) x => u.unlive x) s.flrCleared).bump Reg.hifCplDropCount s.recordsDue.length).devCause 3 := by
  rw [State.flr_eq]
  exact if_neg (mt List.length_eq_zero_iff.1 h)

/-! ## Held interrupts (R340) -/

theorem State.holdFire_of_held {r : Nat} (hpend : (s.ring r).irqPend ≠ 0) (hv : s.rd Reg.hifRingCfgVector r ≠ 0) :
    s.holdFire r = (s.modRing r fun x => { x with irqPend := 0 }).fire (s.rd Reg.hifRingCfgVector r) :=
  (if_neg hpend).trans (if_neg hv)

end

/-- Settles O43: the rows of host loss and of resets are one case of their handlers. -/
theorem hostLossAndResets : Obligations.HostLossAndResets := by
  unfold Obligations.HostLossAndResets
  intro s ring on r
  refine ⟨fun h => next_congr (State.hostLost_of_up h r), rfl, rfl, ?reset, fun hpend hv => next_congr (State.holdFire_of_held hpend hv)⟩
  case reset =>
    intro t due u
    refine ⟨fun hnone => ?_, fun hdue => ?_⟩
    · have h := next_choices_congr (State.flr_of_none (s := s) hnone)
      exact ⟨h, h⟩
    · have h := next_choices_congr (State.flr_of_due (s := s) hdue)
      exact ⟨h, h⟩

end Sys2Proof.Machine
end

section
/-!
PROOFS. The statements of 13_chroit_links.md: what a port receives, training and retrain, flit slots and span time.
-/

namespace Sys2Proof.Machine

/-- Two changes of a port that agree on what it holds are the same change. -/
theorem State.modLport_congr {s : State} {n : Nat} {f g : LPort → LPort} (h : f (s.lport n) = g (s.lport n)) :
    s.modLport n f = s.modLport n g := by rw [State.modLport, h, State.modLport]

theorem State.spanUp_of_mode {s : State} {n : Nat} (hstate : s.linkState n = 2) (hmode : s.rd Reg.lnkCtrlMode n = 0) :
    s.spanUp n = true := by rw [State.spanUp, hstate, hmode]; rfl

/-! ## What a span port receives (R350 to R357) -/

section
variable {s : State} {n : Nat} (hup : s.spanUp n = true)
include hup

theorem State.ackFlit_of_up (seq bulk expr : Nat) : s.ackFlit n seq bulk expr = s.controlIn n seq bulk expr := if_pos hup

theorem State.nakFlit_of_up (seq bulk expr : Nat) : s.nakFlit n seq bulk expr =
    ((s.bump Reg.lnkNakRxCount 1 n).controlIn n seq bulk expr).startReplay n ((seq + 1) % 4096) := if_pos hup

/-- A receiver that discards takes a number that is not behind the one it expects. -/
theorem State.replayStart_of_ahead {next : Nat} (hdiscard : (s.lport n).discarding = true) (hahead : 2048 ≤ seqDiff (s.lport n).rx next) :
    s.replayStart n next = s.modLport n fun _ => { s.lport n with discarding := false, skip := 0, rx := next } :=
  (if_pos hup).trans (State.modLport_congr (by simp only [hdiscard, if_neg (Nat.not_lt.2 hahead), if_true]))

/-- What lies behind the number expected is skipped. -/
theorem State.replayStart_of_behind {next : Nat} (hbehind : seqDiff (s.lport n).rx next < 2048) :
    s.replayStart n next = s.modLport n fun _ => { s.lport n with discarding := false, skip := seqDiff (s.lport n).rx next } :=
  (if_pos hup).trans (State.modLport_congr (by simp only [hbehind, if_true]))

theorem State.badFlit_of_flit (htaking : (s.lport n).discarding = false) :
    s.badFlit n .flit = s.modLport n fun _ => { s.lport n with discarding := true, nakDue := true, skip := 0 } := by
  simp only [State.badFlit, hup, Bool.not_true, Bool.false_eq_true, if_false]
  exact State.modLport_congr (by simp only [htaking, Bool.false_eq_true, if_false])

theorem State.badFlit_of_control : s.badFlit n .control = (s.bump Reg.lnkCtlCrcCount 1 n).setBit Reg.lnkErrBits 4 n := by
  simp only [State.badFlit, hup, Bool.not_true, Bool.false_eq_true, if_false]

theorem State.ackTimer_of_since (hsince : (s.lport n).since ≠ 0) : s.ackTimer n = s.modLport n fun p => { p with ackDue := true } :=
  if_pos (by rw [hup, bne_iff_ne.2 hsince]; rfl)

theorem State.replayTimeout_of_unacked {f : Flit} {r : List Flit} (hfirst : (s.lport n).unacked = f :: r) :
    s.replayTimeout n = (s.count Reg.hltRetryValue 1 (200 + n)).startReplay n f.seq := by
  simp only [State.replayTimeout, hfirst, hup, if_true]

theorem State.nakRetry_of_discarding (hdiscard : (s.lport n).discarding = true) :
    s.nakRetry n = s.modLport n fun p => { p with nakDue := true } := if_pos (by rw [hup, hdiscard]; rfl)

end

/-- A bulk data flit in order that does not end its message joins it. -/
theorem State.dataFlit_of_open {s : State} {n cw sym : Nat} {first : Bool} {data bs : List Byte} (hstate : s.linkState n = 2)
    (hup : (s.countCorr n cw sym).spanUp n = true) (htaking : ((s.countCorr n cw sym).lport n).discarding = false)
    (hskip : ((s.countCorr n cw sym).lport n).skip = 0)
    (hplace : placeFlit ((s.countCorr n cw sym).lport n).rxBulk first (flitData data) = some bs) :
    s.dataFlit n false first false data cw sym = ((s.countCorr n cw sym).modLport n fun p =>
      { p with rx := (p.rx + 1) % 4096, since := p.since + 1,
               ackDue := ((s.countCorr n cw sym).lport n).ackDue ||
                 decide ((s.countCorr n cw sym).rd Reg.lnkReplayCfgAckFlits ≤ ((s.countCorr n cw sym).lport n).since + 1),
               freed := (p.freed.1 + 1, p.freed.2), rxBulk := some bs }).count Reg.lnkRxCount 1 n := by
  simp only [State.dataFlit, hstate, hup, htaking, hskip, hplace, Bool.not_true, Bool.false_eq_true, if_false, if_true, ne_eq,
    not_true_eq_false]
  exact congrArg (fun u : State => u.count Reg.lnkRxCount 1 n) (State.modLport_congr rfl)

/-- Settles O47: each message of the link layer has one case at a port that is UP. -/
theorem linkReceive : Obligations.LinkReceive := by
  unfold Obligations.LinkReceive
  intro s port q bulk expr n p mod hup
  refine ⟨next_congr (State.ackFlit_of_up hup q bulk expr), next_congr (State.nakFlit_of_up hup q bulk expr),
    fun hdiscard hahead => next_congr (State.replayStart_of_ahead hup hdiscard hahead),
    fun hbehind => next_congr (State.replayStart_of_behind hup hbehind),
    fun htaking => next_congr (State.badFlit_of_flit hup htaking), next_congr (State.badFlit_of_control hup),
    fun hsince => next_congr (State.ackTimer_of_since hup hsince),
    fun f r hfirst => next_congr (State.replayTimeout_of_unacked hup hfirst),
    fun hdiscard => next_congr (State.nakRetry_of_discarding hup hdiscard), ?dataFlit⟩
  case dataFlit =>
    intro first data cw sym u hstate hupNow htaking hskip bs hplace
    exact next_choices_congr (State.dataFlit_of_open hstate hupNow htaking hskip hplace)

/-! ## Training and retrain (R358 to R364, R370) -/

section
variable {s : State} {n : Nat}

/-- The fields of the peer that an agreed HELLO names. -/
def State.namePeer (s : State) (n dev peerPort version : Nat) : State :=
  (((s.wr Reg.lnkPeerDevice (dev % 2 ^ 24) n).wr Reg.lnkPeerPort peerPort n).wr Reg.lnkPeerValid 1 n).wr Reg.lnkStatusVersion version n

/-- The HELLO of a first peer, at a device that has no ID yet. -/
theorem State.helloIn_of_agreed {versions dev peerPort bulk expr next : Nat} {seen : Bool} (hexchange : s.exchanging n = true)
    (hmode : s.rd Reg.lnkCtrlMode n = 0) (hagreed : agreedVersion versions ≠ 0)
    (hassigned : (s.namePeer n dev peerPort (agreedVersion versions)).assigned = false) (hpeer : (s.lport n).peer = none) :
    s.helloIn n versions seen dev peerPort bulk expr next =
      ((s.namePeer n dev peerPort (agreedVersion versions)).modLport n fun p =>
        { p with hello := some seen, peerHello := (next % 4096, bulk % 2 ^ 16, expr % 2 ^ 16) }).settleExchange n := by
  have hpeer' : ((s.namePeer n dev peerPort (agreedVersion versions)).lport n).peer = none := hpeer
  simp only [State.namePeer] at hassigned hpeer'
  simp only [State.helloIn, State.namePeer, hexchange, hmode, hagreed, hassigned, hpeer', Bool.not_true, Bool.false_or, Bool.false_and,
    Bool.false_eq_true, if_false, Nat.reduceBEq]

section
variable (htraining : s.linkState n = 1 ∨ s.linkState n = 3)
include htraining

theorem State.phaseDone_of_training : s.phaseDone n =
    if s.rd Reg.lnkStatusPhase n = 0 then s.wr Reg.lnkStatusPhase 1 n
    else if s.rd Reg.lnkStatusPhase n = 1 then (if s.rd Reg.lnkCtrlMode n = 1 then s.portUp n else s.wr Reg.lnkStatusPhase 2 n)
    else if (s.lport n).hello.isSome then s.portUp n else s :=
  if_neg (by omega)

theorem State.phaseDone_of_signal (hphase : s.rd Reg.lnkStatusPhase n = 0) : s.phaseDone n = s.wr Reg.lnkStatusPhase 1 n :=
  (State.phaseDone_of_training htraining).trans (if_pos hphase)

theorem State.phaseDone_of_align (hphase : s.rd Reg.lnkStatusPhase n = 1) (hmode : s.rd Reg.lnkCtrlMode n = 0) :
    s.phaseDone n = s.wr Reg.lnkStatusPhase 2 n := by
  simp only [State.phaseDone_of_training htraining, hphase, hmode, Nat.one_ne_zero, Nat.zero_ne_one, if_true, if_false]

theorem State.phaseDone_of_exchange (hphase : 2 ≤ s.rd Reg.lnkStatusPhase n) (hhello : (s.lport n).hello.isSome = true) :
    s.phaseDone n = s.portUp n := by
  rw [State.phaseDone_of_training htraining, if_neg (by omega), if_neg (by omega), if_pos hhello]

end

theorem State.phaseLimit_of_training (hstate : s.linkState n = 1) :
    s.phaseLimit n = s.failAttempt n (s.rd Reg.lnkStatusPhase n + 1) := if_pos hstate

theorem State.trainingRetry_of_lost (hstate : s.linkState n = 4 ∨ s.linkState n = 5) : s.trainingRetry n = s.startTraining n :=
  if_pos hstate

theorem State.unplug_of_active (hlow : 1 ≤ s.linkState n) (hhigh : s.linkState n ≤ 3) : s.unplug n = s.portLost n 4 4 :=
  if_pos (by omega)

theorem State.retrainLimit_of_retraining (hstate : s.linkState n = 3) : s.retrainLimit n = s.startTraining n := if_pos hstate

/-- An UP span port enters RETRAIN with its cause, counts and traces it. -/
def State.enterRetrain (s : State) (n cause : Nat) : State :=
  let u := ((s.wr Reg.lnkStatusState 3 n).wr Reg.lnkStatusPhase 0 n).wr Reg.lnkStatusFail cause n
  let u := ((u.bump Reg.lnkRetrainCount 1 n).count Reg.hltRetrainValue 1 (200 + n)).setBit Reg.lnkErrBits 1 n
  u.trace 0x80 0xF (200 + n) (n + cause * 2 ^ 8) 0

/-- A span port that is UP sends RETRAIN_REQ first. -/
theorem State.fastRetrain_of_up (hstate : s.linkState n = 2) (hmode : s.rd Reg.lnkCtrlMode n = 0) (cause : Nat) :
    s.fastRetrain n cause = ((s.enterRetrain n cause).modLport n fun p =>
      { p with fast := true, hello := none, seenTx := false, replay := 0, ackDue := false, nakDue := false, run := 0, hops := none,
               due := [⟨6, cause, 0, 0⟩] }).checkRoute := by
  simp only [State.fastRetrain, hstate, hmode, ne_eq, not_true_eq_false, if_false, Nat.reduceBEq, Bool.false_eq_true]
  rfl

/-- A device ID within a span's numbers is taken while nothing is under way. -/
theorem State.assignId_of_idle {d : Nat} (hrings : ((natsFrom 0 256).all fun r => s.rd Reg.hifRingCfgEnable r == 0) = true)
    (hout : s.spn.out = []) (htodo : s.spn.todo = []) (hid : d < 2 ^ 18) : s.assignId d = (s.wr Reg.spnIdDevice d).retrainAll :=
  if_pos (by rw [hrings, hout, htodo, decide_eq_true hid]; rfl)

theorem State.assignId_of_large {d : Nat} (hid : 2 ^ 18 ≤ d) : s.assignId d = s.discard :=
  if_neg (by rw [decide_eq_false (Nat.not_lt.2 hid), Bool.and_false]; decide)

end

/-- Settles O48: each event of training has one case. -/
theorem linkTraining : Obligations.LinkTraining := by
  unfold Obligations.LinkTraining
  intro s port n ph
  refine ⟨?hello, fun htraining => ⟨?signal, ?align, ?exchange⟩, fun hstate => ?limit,
    fun hstate => next_congr (State.trainingRetry_of_lost hstate), fun hlow hhigh => next_congr (State.unplug_of_active hlow hhigh),
    fun hstate => next_congr (State.retrainLimit_of_retraining hstate), ?retrain, fun d hrings hout htodo => ⟨?taken, ?refused⟩⟩
  case hello =>
    intro versions seen dev peerPort bulk expr rmax next hexchange hmode hagreed u hassigned hpeer
    exact next_congr (State.helloIn_of_agreed hexchange hmode hagreed hassigned hpeer)
  case signal => exact fun hphase => next_congr (State.phaseDone_of_signal htraining hphase)
  case align => exact fun hphase hmode => next_congr (State.phaseDone_of_align htraining hphase hmode)
  case exchange => exact fun hphase hhello => next_congr (State.phaseDone_of_exchange htraining hphase hhello)
  case limit => exact next_congr (State.phaseLimit_of_training hstate)
  case retrain =>
    intro hstate hmode go
    have hgo (cause : Nat) : s.fastRetrain n cause = go cause := State.fastRetrain_of_up hstate hmode cause
    have hreq : (if s.spanUp n then s.fastRetrain n 10 else s) = go 10 := (if_pos (State.spanUp_of_mode hstate hmode)).trans (hgo 10)
    exact ⟨fun _ => next_congr hreq, next_congr (hgo 11), next_congr (hgo 9), next_congr (hgo 8)⟩
  case taken => exact fun hid => next_congr (State.assignId_of_idle hrings hout htodo hid)
  case refused => exact fun hid => next_congr (State.assignId_of_large hid)

/-! ## Flit slots (R349) -/

section
variable {s : State} {n : Nat}

/-- With no message queued a port begins none. -/
theorem State.chooseSent_of_empty (hsent : s.sent = []) (bulk : Bool) : s.chooseSent n bulk = (s, none) := by
  simp only [State.chooseSent, hsent, takeSent, Option.bind_fun_none]

theorem State.bulkWaits_of_empty (hmessage : (s.lport n).txBulk = none) (hsent : s.sent = []) : s.bulkWaits n = false := by
  simp only [State.bulkWaits, State.bulkNext, hmessage, State.nextSend, State.chooseSent_of_empty hsent, Option.map_none, Option.isSome_none]

theorem State.exprWaits_of_empty (hmessage : (s.lport n).txExpr = none) (hsent : s.sent = []) : s.exprWaits n = false := by
  simp only [State.exprWaits, State.exprNext, hmessage, State.nextSend, State.chooseSent_of_empty hsent, Option.map_none, Option.isSome_none]

/-- A data slot with nothing to send carries IDLE. -/
theorem State.dataSlot_of_empty (hbulk : (s.lport n).txBulk = none) (hexpr : (s.lport n).txExpr = none) (hsent : s.sent = []) :
    s.dataSlot n = s.sendIdle n := by
  simp only [State.dataSlot, State.bulkWaits_of_empty hbulk hsent, State.exprWaits_of_empty hexpr hsent, Bool.false_and, Bool.not_false,
    Bool.and_self, if_true]

/-- The order of a slot at a span port that is UP. -/
theorem State.flitSlot_of_up (hstate : s.linkState n = 2) (hmode : s.rd Reg.lnkCtrlMode n = 0) : s.flitSlot n =
    if (s.lport n).nakDue || (s.lport n).ackDue || (s.lport n).due != [] then s.sendControl n true
    else if (s.lport n).replay ≠ 0 then s.sendReplay n else s.dataSlot n := by
  simp only [State.flitSlot, hstate, hmode, Nat.zero_ne_one, Nat.reduceEqDiff, ne_eq, not_true_eq_false, not_false_eq_true, and_false,
    and_true, or_self, if_true, if_false]

/-- Nothing but data is due at a port. -/
def LPort.quiet (p : LPort) : Prop := p.due = [] ∧ p.nakDue = false ∧ p.ackDue = false

theorem LPort.quiet.no_control {p : LPort} (h : p.quiet) : ¬ (p.nakDue || p.ackDue || p.due != []) = true := by
  obtain ⟨hdue, hnak, hack⟩ := h
  rw [hdue, hnak, hack]
  decide

end

/-! ## Span time (R366, R367) -/

section
variable {s : State} {n : Nat} (hup : s.spanUp n = true)
include hup

theorem State.delayRsp_of_fits {t1 t2 t3 : Nat} (hlow : 0 ≤ (((s.now : Int) - t1) - ((t3 : Int) - t2)) / 2)
    (hhigh : (((s.now : Int) - t1) - ((t3 : Int) - t2)) / 2 < 65536) :
    s.delayRsp n t1 t2 t3 = s.wr Reg.lnkDelayDelayNs ((((s.now : Int) - t1) - ((t3 : Int) - t2)) / 2).toNat n :=
  (if_neg (by rw [hup]; decide)).trans (if_pos ⟨hlow, hhigh⟩)

/-- TIME from the port followed corrects span time. -/
theorem State.timeIn_of_followed {t hops : Nat} (hsource : s.on Reg.lnkStimeStatusSource = false)
    (hfollowed : (s.modLport n fun p => { p with hops := some hops }).followed = some n) :
    s.timeIn n t hops true = (((((s.modLport n fun p => { p with hops := some hops }).correctTime
      ((t + s.rd Reg.lnkDelayDelayNs n) % 2 ^ 64)).wr Reg.lnkStimeStatusValid 1).wr Reg.lnkStimeStatusHops hops).wr Reg.lnkStimeStatusPort
      n) :=
  (if_neg (by rw [hup, hsource]; decide)).trans (if_pos hfollowed)

end

theorem State.timeSend_of_valid {s : State} (hvalid : s.spanValid = true) (hhops : s.hopsOut ≤ 63) :
    s.timeSend = (s.portsUp 0).foldl (fun (s : State) n => s.ctlDue n ⟨3, 0, 0, 0⟩) s :=
  if_pos (by rw [hvalid, decide_eq_true hhops]; rfl)

/-- A device that is not the source loses span time. -/
theorem State.spanTimeLost_of_valid {s : State} (hvalid : s.spanValid = true) (hsource : s.on Reg.lnkStimeStatusSource = false) :
    s.spanTimeLost = ((natsFrom 0 8).foldl (fun (s : State) n => s.modLport n fun p => { p with hops := none })
      ((s.wr Reg.lnkStimeStatusValid 0).wr Reg.lnkStimeStatusSyncLost 1)).alarm 0x04 0xF 0xFF 0 0 :=
  if_pos (by rw [hvalid, hsource]; rfl)

/-- Settles O49: the order of a slot, and one case for each message of span time. -/
theorem linkSlotsAndTime : Obligations.LinkSlotsAndTime := by
  unfold Obligations.LinkSlotsAndTime
  intro s port n p
  refine ⟨fun hstate hmode => ⟨?control, ?replay, ?idle⟩, fun hup => ⟨?request, ?measure, ?response, ?time⟩, ?send, ?lost⟩
  case control =>
    intro hdue
    refine next_congr ((State.flitSlot_of_up hstate hmode).trans (if_pos ?_))
    rw [bne_iff_ne.2 hdue, Bool.or_true]
  case replay =>
    intro hdue hnak hack hreplay
    have hquiet : p.quiet := ⟨hdue, hnak, hack⟩
    exact next_congr ((State.flitSlot_of_up hstate hmode).trans ((if_neg hquiet.no_control).trans (if_pos hreplay)))
  case idle =>
    intro hdue hnak hack hreplay hbulk hexpr hsent
    have hquiet : p.quiet := ⟨hdue, hnak, hack⟩
    exact next_congr ((State.flitSlot_of_up hstate hmode).trans ((if_neg hquiet.no_control).trans
      ((if_neg (not_not.2 hreplay)).trans (State.dataSlot_of_empty hbulk hexpr hsent))))
  case request => exact fun t1 => next_congr (if_pos hup)
  case measure => exact next_congr (if_pos hup)
  case response =>
    intro t1 t2 t3 d hlow hhigh
    exact next_congr (State.delayRsp_of_fits hup hlow hhigh)
  case time =>
    intro t hops hsource u hfollowed
    exact next_congr (State.timeIn_of_followed hup hsource hfollowed)
  case send => exact fun hvalid hhops => next_congr (State.timeSend_of_valid hvalid hhops)
  case lost => exact fun hvalid hsource => next_congr (State.spanTimeLost_of_valid hvalid hsource)

end Sys2Proof.Machine
end

section
/-!
PROOFS. The statements of 14_span_memory.md: copies removed, SPAN commands, requests at their home, answers, the master and isolation.
-/

namespace Sys2Proof.Machine

/-! ## Forwarding (R374) -/

section
variable {s : State} {m : Msg}

theorem State.forward_of_here (hdst : m.fld 1 0 24 = s.self) : s.forward m = s.deliver (Msg.ofBytes m.body) := if_pos hdst

section
variable (hdst : m.fld 1 0 24 ≠ s.self)
include hdst

theorem State.forward_of_hops (hhops : m.fld 1 24 6 = 63) : s.forward m = (s.bump Reg.spnFwdDropCount).setBit Reg.spnErrBits 3 :=
  (if_neg hdst).trans (if_pos hhops)

/-- A forwarded message with one hop more. -/
def hopped (m : Msg) (a : Nat) (r : List Nat) : Msg := { m with w := (a + 2 ^ 24) :: r }

/-- A message for another member goes on by its route. -/
theorem State.forward_of_route {a p : Nat} {r : List Nat} (hhops : m.fld 1 24 6 ≠ 63) (hw : m.w = a :: r)
    (hroute : s.routePort 8 (m.fld 1 0 24) = some p) :
    s.forward m = { s.count Reg.spnFwdCount (hopped m a r).bytes.length with
      sent := s.sent ++ [⟨m.fld 1 0 24, some p, atBulk (Msg.ofBytes m.body).kind (hopped m a r), 17, hopped m a r⟩]
      lnk := { s.lnk with fwd := Tbl.set 0 p (Tbl.get 0 p s.lnk.fwd + (hopped m a r).bytes.length) s.lnk.fwd } } := by
  simp only [State.forward, if_neg hdst, if_neg hhops, hw, hroute]
  rfl

end

/-! ## Beats and leases (R376, R377) -/

/-- The first beat names the master. -/
theorem State.beatIn_of_first {src : Nat} (hbeat : s.spn.beat = none) :
    s.beatIn src = ({ s.wr Reg.spnStatusMasterDev src with spn := { s.spn with beat := some (src, s.now) } } : State).checkRoute := by
  simp only [State.beatIn, hbeat, Bool.false_eq_true, if_false, State.wr_now]

theorem State.beatLoss_of_assigned (hassigned : s.assigned = true) :
    s.beatLoss = ({ s with spn := { s.spn with beat := none } } : State).isolate 0 0 := if_pos hassigned

/-- The master's beats to every member. -/
def State.sendBeats (s : State) : State :=
  s.others.foldl (fun (t : State) d => t.send 8 16 d (mkMsg 0x69 t.self 0 [t.rd Reg.spnLeaseValue] [])) s

section
variable (hmaster : s.master = true)
include hmaster

theorem State.beatTimer_of_master : s.beatTimer = s.sendBeats.beatIn s.sendBeats.self := if_pos hmaster

/-- A master with neither of its duties. -/
def State.demoted (s : State) : State :=
  ((s.wr Reg.spnStatusMaster 0).wr Reg.lnkStimeStatusSource 0).setBit Reg.spnErrBits 2

theorem State.endMaster_of_master (revoked : Nat) :
    s.endMaster revoked = s.demoted.error 0x43 0xF 0xFF (s.demoted.rd Reg.spnLeaseValue) revoked := if_pos hmaster

end

/-- A lease later than this member's time makes it master. -/
theorem State.leaseWrite_of_later {until_ns : Nat}
    (hlater : (s.wr Reg.spnLeaseValue until_ns).leaseClock < (s.wr Reg.spnLeaseValue until_ns).rd Reg.spnLeaseValue)
    (hmember : (s.wr Reg.spnLeaseValue until_ns).master = false) :
    s.leaseWrite until_ns = (s.wr Reg.spnLeaseValue until_ns).becomeSource.wr Reg.spnStatusMaster 1 :=
  (if_pos hlater).trans (if_neg (Bool.not_eq_true _ ▸ hmember))

/-! ## REJOIN (R378) -/

/-- A recent beat ends the isolation, and what was held is released. -/
theorem State.rejoin_of_beat {d t : Nat} (hisolated : s.isolated = true) (hbeat : s.spn.beat = some (d, t)) (hrecent : s.recent t = true) :
    s.rejoin = s.spn.held.foldl (fun (u : State) h => u.releaseHeld h)
      { s.wr Reg.spnStatusIsolated 0 with spn := { s.spn with held := [] } } := by
  simp only [State.rejoin, hisolated, hbeat, hrecent, Bool.and_self, if_true]

theorem State.rejoin_of_joined (hisolated : s.isolated = false) : s.rejoin = s.discard := by
  simp only [State.rejoin, hisolated, Bool.false_and, Bool.false_eq_true, if_false]

end

/-- Settles O32: one case for each message and each event of the master and of isolation. -/
theorem spanMaster : Obligations.SpanMaster := by
  unfold Obligations.SpanMaster
  intro s port m n dst
  refine ⟨fun hdst => next_choices_congr (State.forward_of_here hdst), fun hdst hhops => next_choices_congr (State.forward_of_hops hdst hhops),
    ?forward, fun hbeat => next_congr (State.beatIn_of_first hbeat), fun hassigned => next_congr (State.beatLoss_of_assigned hassigned),
    fun hmaster => next_congr (State.beatTimer_of_master hmaster), ?leaseEnds, ?leaseGrant,
    fun d t hisolated hbeat hrecent => next_congr (State.rejoin_of_beat hisolated hbeat hrecent),
    fun hisolated => next_congr (State.rejoin_of_joined hisolated)⟩
  case forward =>
    intro a r p hdst hhops hw w u hroute
    exact next_choices_congr (State.forward_of_route hdst hhops hw hroute)
  case leaseEnds =>
    intro hmaster u
    exact ⟨next_congr (State.endMaster_of_master hmaster 0), next_congr (State.endMaster_of_master hmaster 1)⟩
  case leaseGrant =>
    intro u hlater hmember
    exact next_congr (State.leaseWrite_of_later hlater hmember)

/-! ## Answers (R379, R383, R390) -/

section
variable {s : State} {m : Msg} {tag : Nat} {pd : Pend}

theorem State.pendKind_of_find (hpend : Tbl.find tag s.spn.out = some pd) : s.pendKind tag = some pd.kind := congrArg _ hpend

/-- An answer that nothing awaits is counted. -/
theorem State.readReply_of_late (hnone : Tbl.find m.tag s.spn.out = none) : s.readReply m = s.bump Reg.spnLateCount := by
  have hkind : s.pendKind m.tag = none := congrArg _ hnone
  simp only [State.readReply, hkind, State.spReadRspIn, hnone]

theorem State.ackReply_of_late (hnone : Tbl.find m.tag s.spn.out = none) : s.ackReply m = s.bump Reg.spnLateCount := by
  have hkind : s.pendKind m.tag = none := congrArg _ hnone
  simp only [State.ackReply, hkind, State.spAckIn, hnone]

section
variable (hpend : Tbl.find m.tag s.spn.out = some pd) (hok : m.status = St.ok)
include hpend hok

/-- The data of a read go to the cache and to the command that asked. -/
theorem State.readReply_of_data {j : Job} (hkind : pd.kind = 0) (howner : s.owner pd = some j) :
    s.readReply m = ((((s.dropDiffering pd m).installLines pd (m.body.take pd.len)).addDirect pd.core pd.place pd.addr
      (m.body.take pd.len)).closeTag m.tag).spanNext pd := by
  have hnumber : s.pendKind m.tag = some 0 := (State.pendKind_of_find hpend).trans (congrArg some hkind)
  simp only [State.readReply, hnumber, State.spReadRspIn, hpend, hkind, howner, hok, Option.isSome_some, Bool.not_true, ne_eq,
    not_true_eq_false, Bool.false_eq_true, if_false, OfNat.zero_ne_ofNat]

/-- An acknowledgement of a command's request closes it. -/
theorem State.ackReply_of_request (hkind : pd.kind ≤ 3) :
    s.ackReply m = (if pd.kind = 2 && (s.owner pd).isSome then
      (s.closeTag m.tag).addDirect pd.core pd.place pd.addr (leBytes 8 (m.word 2)) else s.closeTag m.tag).spanNext pd := by
  have hother : s.pendKind m.tag ≠ some 16 := by
    rw [State.pendKind_of_find hpend]
    exact fun h => absurd (Option.some.inj h) (by omega)
  simp only [State.ackReply, State.spAckIn, hpend, hok, hkind, if_true, ne_eq, not_true_eq_false, if_false]

end

/-- No request of a command fetches data. -/
theorem noReads {l : List Pend} (hwrites : ∀ q ∈ l, q.kind = 1) : (l.filter fun q => q.kind == 0 || q.kind == 8) = [] :=
  List.filter_eq_nil_iff.2 fun q hq => by rw [hwrites q hq]; decide

/-- A write without answer is counted, and orphans the lodge context of its command. -/
theorem State.noReply_of_write {j : Job} (hpend : Tbl.find tag s.spn.out = some pd) (hkind : pd.kind = 1) (hreply : pd.reply = none)
    (howner : s.owner pd = some j)
    (hsent : ((s.countTimeout.pendsOf pd.core pd.place).all fun e => e.2.kind == 1) = true)
    (hwaiting : (s.spn.todo.all fun e => e.kind == 1) = true) :
    s.noReply tag = (s.countTimeout.closeTag tag).orphanCmd pd.core pd.place pd.dst := by
  have hcommand : s.noReply tag = s.spanTimeout tag := by
    simp only [State.noReply, hpend, hreply, hkind, Option.isSome_none, Bool.false_eq_true, if_false]
  have hreads : ((((s.countTimeout.pendsOf pd.core pd.place).map (·.2) ++ s.countTimeout.spn.todo.filter fun q =>
      q.core == pd.core && q.place == pd.place && (s.countTimeout.owner q).isSome)).filter fun q => q.kind == 0 || q.kind == 8) = [] := by
    refine noReads fun q hq => ?_
    obtain hq | hq := List.mem_append.1 hq
    · obtain ⟨e, he, rfl⟩ := List.mem_map.1 hq
      exact beq_iff_eq.1 (List.all_eq_true.1 hsent e he)
    · exact beq_iff_eq.1 (List.all_eq_true.1 hwaiting q (List.mem_of_mem_filter hq))
  simp only [State.countTimeout] at hreads
  simp only [hcommand, State.spanTimeout, hpend, hkind, hreply, howner, hreads, State.countTimeout, List.foldl_nil, Option.isSome_none,
    List.contains_cons, Nat.reduceBEq, Bool.or_true, Bool.true_or, Bool.not_true, Bool.or_self, Bool.false_eq_true, if_false,
    OfNat.one_ne_ofNat]

/-- A message keeps its first word when it is cut to seven. -/
theorem fld_one_take (m : Msg) (lo w : Nat) : ({ m with w := m.w.take 7 } : Msg).fld 1 lo w = m.fld 1 lo w := by
  simp only [Msg.fld, Msg.word, Nat.sub_self, List.getD_eq_getElem?_getD, List.getElem?_take_of_lt (by decide : 0 < 7)]

/-- The last answer of an attention command lets it finish. -/
theorem State.attReply_of_last {j k : Job} (hpend : Tbl.find tag s.spn.out = some pd) (hkind : pd.kind = 9) (hreply : pd.reply = none)
    (howner : s.owner pd = some j) (hok : m.fld 1 40 8 = St.ok) (hjob : (s.keepReply tag m).job pd.core pd.place = some k)
    (hall : (s.keepReply tag m).allAnswered pd.core pd.place = true) :
    s.attReply tag m = (s.keepReply tag m).attFinish pd.core pd.place k := by
  simp only [State.attReply, hpend, hkind, hreply, howner, hok, hjob, hall, Option.isSome_none, ne_eq, not_true_eq_false, Bool.false_eq_true,
    or_self, if_false, if_true]

end

/-- Settles O31: each answer has one case by the kind of the request it closes. -/
theorem replies : Obligations.Replies := by
  unfold Obligations.Replies
  intro s m tag pd j
  refine ⟨fun hnone => ⟨next_choices_congr (State.readReply_of_late hnone), next_choices_congr (State.ackReply_of_late hnone)⟩,
    fun hpend hkind howner hok => next_choices_congr (State.readReply_of_data hpend hok hkind howner), ?write, ?atomic, ?timeout, ?attention⟩
  case write =>
    intro hpend hkind hok
    refine next_choices_congr ((State.ackReply_of_request hpend hok (by omega)).trans (congrArg (fun u : State => u.spanNext pd) (if_neg ?_)))
    simp only [hkind, Nat.reduceEqDiff, decide_false, Bool.false_and, Bool.false_eq_true, not_false_eq_true]
  case atomic =>
    intro hpend hkind howner hok
    refine next_choices_congr ((State.ackReply_of_request hpend hok (by omega)).trans (congrArg (fun u : State => u.spanNext pd) (if_pos ?_)))
    simp only [hkind, howner, Option.isSome_some, decide_true, Bool.and_self]
  case timeout =>
    intro hpend hkind hreply howner u hsent hwaiting
    exact next_choices_congr (State.noReply_of_write hpend hkind hreply howner hsent hwaiting)
  case attention =>
    intro k hpend hkind hreply howner hok u hjob hall
    exact next_choices_congr (congrArg State.settlePrompt (State.attReply_of_last hpend hkind hreply howner
      ((fld_one_take m 40 8).trans hok) hjob hall))

/-! ## Requests at their home (R380 to R388) -/

/-- The device with these requests at its home. -/
def State.queueHome (s : State) (q : List HomeReq) : State := { s with spn := { s.spn with homeq := q } }

section
variable {s t u : State} {m : Msg} {l : Nat}

theorem State.queueHome_self (q : List HomeReq) (hq : s.spn.homeq = q) : s.queueHome q = s := by rw [← hq]; rfl

theorem State.homeGate_queueHome (q : List HomeReq) : (s.queueHome q).homeGate m = s.homeGate m := rfl

theorem State.heldIn_queueHome (q : List HomeReq) (a n : Nat) : (s.queueHome q).heldIn l a n = s.heldIn l a n := by
  have hattr (x : Nat) : (s.queueHome q).attrAt l x = s.attrAt l x := rfl
  simp only [State.heldIn, hattr]

/-- What a message that leaves does to the requests at the home: nothing. -/
theorem State.send_homeq (origin lodge dst : Nat) (x : Msg) : (s.send origin lodge dst x).spn.homeq = s.spn.homeq := by
  unfold State.send State.sendField
  split
  · split
    · split <;> rfl
    · rfl
  · rfl

theorem State.answer_homeq (kind : Nat) (w : List Nat) (body : List Byte) : (s.answer m kind w body).spn.homeq = s.spn.homeq :=
  State.send_homeq ..

/-- With no request at the home nothing moves. -/
theorem State.homePump_of_empty (hq : s.spn.homeq = []) (k : Nat) : s.homePump k = s := by
  cases k with
  | zero => rfl
  | succ k => simp only [State.homePump, hq, homeReady]

/-- A request that comes with nothing before it, and that nothing must be awaited for, is served at once. -/
theorem State.homeAccept_of_served (hq : s.spn.homeq = []) (htenant : s.tenantLodge m.tenant = some l) (hgate : s.homeGate m = St.ok)
    (hstart : ∀ q, (s.queueHome q).homeStart l m = (t.queueHome q, [])) (hidle : t.spn.homeq = []) (hend : t.homeEnd l m = u)
    (hdone : u.spn.homeq = []) : s.homeAccept m = u := by
  have hcame : s.homeAccept m = (s.queueHome [⟨m, l, false, []⟩]).homePump 4 := by
    simp only [State.homeAccept, htenant, hq, List.nil_append]
    rfl
  have hstarted : (s.queueHome [⟨m, l, false, []⟩]).homePump 4 = (t.queueHome [⟨m, l, true, []⟩]).homePump 3 := by
    have hqueue : (s.queueHome [⟨m, l, false, []⟩]).spn.homeq = [⟨m, l, false, []⟩] := rfl
    rw [State.homePump]
    simp only [hqueue, homeReady, List.any_nil, List.length_nil, List.getElem?_cons_zero, Bool.false_eq_true, if_false,
      State.homeGate_queueHome, hgate, ne_eq, not_true_eq_false, hstart]
    rfl
  have hended : (t.queueHome [⟨m, l, true, []⟩]).homePump 3 = ((t.queueHome []).homeEnd l m).homePump 2 := by
    have hqueue : (t.queueHome [⟨m, l, true, []⟩]).spn.homeq = [⟨m, l, true, []⟩] := rfl
    rw [State.homePump]
    simp only [hqueue, homeReady, List.length_nil, List.getElem?_cons_zero, if_true]
    rfl
  rw [hcame, hstarted, hended, State.queueHome_self [] hidle, hend, State.homePump_of_empty hdone]

/-! ### Each kind of request -/

/-- With no tracked copy of a range nothing is invalidated. -/
theorem State.invalTracked_of_empty {addr n kind core place : Nat} {except : Option Nat} (hdir : s.dirIn l addr n = []) :
    s.invalTracked l addr n kind except core place = (s, []) := by
  rw [State.invalTracked, hdir]
  rfl

theorem State.homeStart_of_read (hkind : m.kind = 0x61) (hheld : s.heldIn l (m.word 2) m.len = false) : s.homeStart l m = (s, []) := by
  have hatomic : m.kind ≠ 0x65 := by omega
  simp only [State.homeStart, homeRange, if_neg hatomic, if_pos hkind, hheld, Bool.false_and, Bool.false_eq_true, if_false]

theorem State.homeStart_of_atomic (hkind : m.kind = 0x65) (hdir : s.dirIn l (m.word 2 / 128 * 128) 128 = []) :
    s.homeStart l m = (s, []) := by
  simp only [State.homeStart, homeRange, hkind, if_true, Nat.reduceEqDiff, if_false, State.invalTracked_of_empty hdir]

/-- A write or a copy stores its body as it starts. -/
theorem State.homeStart_of_store (hkind : m.kind = 0x63 ∨ m.kind = 0x66) (hdir : s.dirIn l (m.word 2) m.len = []) :
    s.homeStart l m = (s.poke l (m.word 2) (m.body.take m.len), []) := by
  have hread : m.kind ≠ 0x61 := by omega
  have hatomic : m.kind ≠ 0x65 := by omega
  have hstored : (s.poke l (m.word 2) (m.body.take m.len)).dirIn l (m.word 2) m.len = [] := hdir
  simp only [State.homeStart, homeRange, if_neg hread, if_neg hatomic, State.invalTracked_of_empty hstored]

/-- The answer to a read of a page that is neither HELD nor REPLICABLE. -/
theorem State.homeEnd_of_read (hkind : m.kind = 0x61) (hattr : s.attrAt l (m.word 2) = 0) : s.homeEnd l m =
    (s.touch l (m.word 2) m.len false).answer m 0x62 [m.tag, match s.page l (m.word 2) with | some p => p.version | none => 0]
      (s.peek l (m.word 2) m.len) := by
  have hatomic : m.kind ≠ 0x65 := by omega
  simp only [State.homeEnd, State.readAnswer, homeRange, if_pos hkind, if_neg hatomic, hattr, Nat.reduceBEq, if_false, Bool.and_false,
    Bool.false_eq_true, OfNat.zero_ne_ofNat, Nat.zero_ne_one, Nat.add_zero]
  rfl

theorem State.homeEnd_of_atomic (hkind : m.kind = 0x65) : s.homeEnd l m =
    ((s.touch l (m.word 2) 8 false).pokeNat l (m.word 2) 8
      (atomicOp (m.fld 1 32 4) (s.peekNat l (m.word 2) 8) (m.word 3) (m.word 4))).spAck m St.ok (s.peekNat l (m.word 2) 8) := by
  simp only [State.homeEnd, hkind, if_true, Nat.reduceEqDiff, if_false]

theorem State.homeEnd_of_write (hkind : m.kind = 0x63) : s.homeEnd l m = s.spAck m St.ok 0 := by
  simp [State.homeEnd, hkind]

/-- The last chunk of a copy that names a counter counts an arrival. -/
theorem State.homeEnd_of_lastCopy (hkind : m.kind = 0x66) (hlast : bitAt 32 (m.word 3) = true) (harrival : bitAt 33 (m.word 3) = true) :
    s.homeEnd l m = (s.arrive (m.fld 3 34 12)).spAck m St.ok 0 := by
  simp [State.homeEnd, hkind, hlast, harrival]

section
variable (hq : s.spn.homeq = []) (htenant : s.tenantLodge m.tenant = some l) (hgate : s.homeGate m = St.ok)
include hq htenant hgate

theorem State.homeAccept_of_read (hkind : m.kind = 0x61) (hattr : s.attrAt l (m.word 2) = 0)
    (hheld : s.heldIn l (m.word 2) m.len = false) : s.homeAccept m =
    (s.touch l (m.word 2) m.len false).answer m 0x62 [m.tag, match s.page l (m.word 2) with | some p => p.version | none => 0]
      (s.peek l (m.word 2) m.len) :=
  State.homeAccept_of_served hq htenant hgate (fun q => State.homeStart_of_read hkind ((State.heldIn_queueHome q ..).trans hheld)) hq
    (State.homeEnd_of_read hkind hattr) ((State.answer_homeq ..).trans hq)

theorem State.homeAccept_of_atomic (hkind : m.kind = 0x65) (hdir : s.dirIn l (m.word 2 / 128 * 128) 128 = []) : s.homeAccept m =
    ((s.touch l (m.word 2) 8 false).pokeNat l (m.word 2) 8
      (atomicOp (m.fld 1 32 4) (s.peekNat l (m.word 2) 8) (m.word 3) (m.word 4))).spAck m St.ok (s.peekNat l (m.word 2) 8) :=
  State.homeAccept_of_served hq htenant hgate (fun q => State.homeStart_of_atomic (s := s.queueHome q) hkind hdir) hq
    (State.homeEnd_of_atomic hkind) ((State.answer_homeq ..).trans hq)

theorem State.homeAccept_of_write (hkind : m.kind = 0x63) (hdir : s.dirIn l (m.word 2) m.len = []) :
    s.homeAccept m = (s.poke l (m.word 2) (m.body.take m.len)).spAck m St.ok 0 :=
  State.homeAccept_of_served (t := s.poke l (m.word 2) (m.body.take m.len)) hq htenant hgate
    (fun q => State.homeStart_of_store (s := s.queueHome q) (.inl hkind) hdir) hq (State.homeEnd_of_write hkind)
    ((State.answer_homeq ..).trans hq)

theorem State.homeAccept_of_lastCopy (hkind : m.kind = 0x66) (hdir : s.dirIn l (m.word 2) m.len = [])
    (hlast : bitAt 32 (m.word 3) = true) (harrival : bitAt 33 (m.word 3) = true) :
    s.homeAccept m = ((s.poke l (m.word 2) (m.body.take m.len)).arrive (m.fld 3 34 12)).spAck m St.ok 0 :=
  State.homeAccept_of_served (t := s.poke l (m.word 2) (m.body.take m.len)) hq htenant hgate
    (fun q => State.homeStart_of_store (s := s.queueHome q) (.inr hkind) hdir) hq (State.homeEnd_of_lastCopy hkind hlast harrival)
    ((State.answer_homeq ..).trans hq)

end
end

/-- Settles O30: a request alone at its home starts, awaits nothing and ends at once. -/
theorem homeRequests : Obligations.HomeRequests := by
  unfold Obligations.HomeRequests
  intro s m l off n hq htenant
  exact ⟨fun hgate hattr hheld => next_choices_congr (State.homeAccept_of_read (m := { m with kind := 0x61 }) hq htenant hgate rfl hattr hheld),
    fun hgate hdir => next_choices_congr (State.homeAccept_of_write (m := { m with kind := 0x63 }) hq htenant hgate rfl hdir),
    fun hgate hdir => next_choices_congr (State.homeAccept_of_atomic (m := { m with kind := 0x65 }) hq htenant hgate rfl hdir),
    fun hgate hdir hlast harrival =>
      next_choices_congr (State.homeAccept_of_lastCopy (m := { m with kind := 0x66 }) hq htenant hgate rfl hdir hlast harrival)⟩

/-! ## A job put back (R89) -/

/-- A core that is not as at reset is kept in the table, whatever the table is. -/
theorem State.core_setCore_of_ne {s : State} {c : Nat} {k : Core} (h : k ≠ Core.reset) : (s.setCore c k).core c = k := by
  rw [State.core, State.setCore, Tbl.set, if_neg h, Tbl.get_put_self]

/-- The job put in a place stands there: a core with a job is not as at reset. -/
theorem State.job_setJob_same (s : State) (c p : Nat) (j : Job) : (s.setJob c p j).job c p = some j := by
  have hbusy : { s.core c with places := Tbl.put p j (s.core c).places } ≠ Core.reset := by
    intro h
    have hfound := congrArg (fun k : Core => Tbl.find p k.places) h
    rw [show Tbl.find p (Tbl.put p j (s.core c).places) = some j from Tbl.find_put_self p j _] at hfound
    exact nomatch hfound
  rw [State.job, State.setJob, State.modCore, State.core_setCore_of_ne hbusy]
  exact Tbl.find_put_self p j _

/-! ## What arrives to remove copies (R383, R385) -/

section
variable {s : State} {m : Msg} {tag : Nat} {pd : Pend}

theorem State.spInvalIn_of_range (hassigned : s.assigned = true) (hreplicas : bitAt 32 (m.word 1) = false) (hrange : m.fld 3 0 40 ≠ 0) :
    s.spInvalIn m = ((((s.dropLines m.src (m.word 2) (m.fld 3 0 40) none).1.staleReplicas m.src (m.word 2 / 2 ^ 21)
      ((m.word 2 + m.fld 3 0 40 - 1) / 2 ^ 21 + 1 - m.word 2 / 2 ^ 21) fun _ => true).bump Reg.spnInvalRxCount).spAck m St.ok 0) := by
  simp only [State.spInvalIn, hassigned, hreplicas, hrange, Bool.not_true, Bool.false_eq_true, or_self, if_false]

theorem State.spRepubIn_of_assigned (hassigned : s.assigned = true) :
    s.spRepubIn m = (s.staleReplicas m.src (m.word 2 / 2 ^ 21) (m.fld 3 0 26) fun r => r.version != m.fld 3 32 32).spAck m St.ok 0 :=
  if_neg (by rw [hassigned]; decide)

/-! ## Silent members (R188, R191, R385) -/

theorem State.spanNext_of_gone (hgone : s.job pd.core pd.place = none) : s.spanNext pd = s := by
  simp only [State.spanNext, hgone]

section
variable {kinds : List Nat} (hpend : Tbl.find tag s.spn.out = some pd) (hkind : kinds.contains pd.kind = true)
include hpend hkind

/-- A request of no command is closed. -/
theorem State.memberSilent_of_gone (howner : s.owner pd = none) (hgone : (s.closeTag tag).job pd.core pd.place = none) :
    s.memberSilent tag kinds = (s.closeTag tag).homeAcked tag := by
  simp only [State.memberSilent, hpend, hkind, howner, State.spanNext_of_gone hgone, Bool.not_true, Bool.false_eq_true, if_false]

/-- The silent member of a MEMORY command is noted in its status. -/
theorem State.memberSilent_of_memory {j : Job} (howner : s.owner pd = some j) (hclass : j.cmd.klass = 3) :
    s.memberSilent tag kinds =
      (((s.setJob pd.core pd.place { j with status := St.spanTimeout }).closeTag tag).spanNext pd).homeAcked tag := by
  simp only [State.memberSilent, hpend, hkind, howner, hclass, Bool.not_true, Bool.false_eq_true, if_false, if_true]

end

theorem State.recallTimeout_of_recall {key : Nat} {ts : List Nat} (hrecall : s.mem.recalls.find? (·.1 == key) = some (key, ts)) :
    s.recallTimeout key = ts.foldl (fun s t => (s.closeTag t).homeAcked t) ((s.setBit Reg.memErrBits 4).alarm 0x06 (key * 128 / 2 ^ 48) 0xFF
      ((ts.findSome? fun t => (Tbl.find t s.spn.out).map (·.dst)).getD 0) (key * 128 % 2 ^ 48)) := by
  simp only [State.recallTimeout, hrecall]

/-! ## SETATTR and REPUBLISH (R188, R189) -/

section
variable {c p : Nat} {j : Job}

/-- A command that awaits nothing has its answers when no request waits for room. -/
theorem State.allAnswered_of_idle (hjob : s.job c p = some j) (hwaiting : j.waiting = []) (htodo : s.spn.todo = []) :
    s.allAnswered c p = true := by
  simp only [State.allAnswered, hjob, hwaiting, State.hasTodo, htodo, List.any_nil]
  decide

/-- The members of a command have answered, and none was silent. -/
theorem State.memSettle_of_answered (hjob : s.job c p = some j) (hrun : j.st = .run) (hasked : j.result = 1)
    (hall : s.allAnswered c p = true) (hstatus : j.status = 0) :
    s.memSettle c p = (if j.cmd.op = 3 then s.applyAttr j.cmd else s).toFence c p { j with result := 0 } := by
  have hanswered : ¬ j.status = St.spanTimeout := by rw [hstatus]; decide
  simp only [State.memSettle, hjob, hrun, hasked, hall, and_self, if_true, State.memDone, if_neg hanswered]
  split <;> rfl

theorem State.memSetattr_of_answered (h : Running s c p 3 3 j) (hasked : j.result = 1) (hall : s.allAnswered c p = true) :
    s.memSetattr c p j = (s.applyAttr j.cmd).toFence c p { j with result := 0 } :=
  (if_pos hasked).trans ((State.memSettle_of_answered h.here h.st hasked hall h.status).trans
    (congrArg (fun t : State => t.toFence c p { j with result := 0 }) (if_pos h.op)))

/-- A page at its next VERSION, whose holders are forgotten. -/
def State.nextVersion (s : State) (k version : Nat) : State :=
  { s with
    mem := { s.mem with pages := Tbl.adjust k (fun r => { r with version := version }) s.mem.pages }
    spn := { s.spn with holders := Tbl.del k s.spn.holders } }

/-- A page that no member holds goes to its next VERSION at once. -/
theorem State.republish_of_unheld {k : Nat} {q : Page} (hpage : Tbl.find k s.mem.pages = some q) (hversion : q.version + 1 < 2 ^ 32)
    (hholders : Tbl.find k s.spn.holders = none) : s.republish c p j [k] = (s.nextVersion k (q.version + 1), []) := by
  have hnext : (q.version + 1) % 2 ^ 32 = q.version + 1 := Nat.mod_eq_of_lt hversion
  simp only [State.republish, List.foldl_cons, List.foldl_nil, hpage, hholders, hnext, Option.getD_none, Nat.add_one_ne_zero, if_false]
  rfl

/-- A job in RUN that has asked for its pages to be published. -/
def Job.republishing (j : Job) : Job := { j with result := 1, cmd := { j.cmd with done := true } }

theorem State.memRepublish_of_unheld {k : Nat} {q : Page} (h : Running s c p 3 4 j) (hfresh : j.result = 0) (hdone : j.cmd.done = false)
    (hwrites : s.writesPending j.cmd = false) (hrange : s.mappedIn j.cmd = [k]) (hpage : Tbl.find k s.mem.pages = some q)
    (hversion : q.version + 1 < 2 ^ 32) (hholders : Tbl.find k s.spn.holders = none) (htodo : s.spn.todo = []) :
    s.memRepublish c p j = ((s.setJob c p j.republishing).nextVersion k (q.version + 1)).toFence c p { j.republishing with result := 0 } := by
  have hpublished : (s.setJob c p j.republishing).republish c p j.republishing [k] =
    ((s.setJob c p j.republishing).nextVersion k (q.version + 1), []) := State.republish_of_unheld hpage hversion hholders
  have hjob : ((s.setJob c p j.republishing).nextVersion k (q.version + 1)).job c p = some j.republishing := State.job_setJob_same ..
  have hall : ((s.setJob c p j.republishing).nextVersion k (q.version + 1)).allAnswered c p = true :=
    State.allAnswered_of_idle hjob h.waiting htodo
  have hop : ¬ j.republishing.cmd.op = 3 := by rw [show j.republishing.cmd.op = 4 from h.op]; decide
  have hsettled := State.memSettle_of_answered hjob h.st rfl hall h.status
  rw [if_neg hop] at hsettled
  simp only [State.memRepublish, hfresh, hdone, hwrites, Nat.zero_ne_one, Bool.false_eq_true, if_false]
  calc _
    _ = (List.foldl (fun (s : State) t => s.awaitTag c p t) ((s.setJob c p j.republishing).republish c p j.republishing
          (s.mappedIn j.cmd)).1 ((s.setJob c p j.republishing).republish c p j.republishing (s.mappedIn j.cmd)).2).memSettle c p := rfl
    _ = _ := by rw [hrange, hpublished]; exact hsettled

end

/-! ## The scrubber and zeroed frames (R172, R449) -/

/-- The reads of a scrub of a replica. -/
def State.scrubReads (s : State) (r : Replica) : State :=
  (natsFrom 0 32).foldl (fun (s : State) i =>
    (s.ask { kind := 14, engine := 8, dst := r.dev, lodge := r.lodge, core := 160, place := 15, cmd := none, addr := 0,
             off := r.page * 2 ^ 21 + 65536 * i, len := 65536, aux := r.page, stale := false,
             msg := mkMsg 0x61 s.self (s.tenantFor r.lodge) [0, r.page * 2 ^ 21 + 65536 * i, 65536] [], reply := none }).1)
    { s with spn := { s.spn with scrub := r.frame } }

/-- The only valid replica is the next one to be scrubbed, wherever the scrubber stands. -/
theorem State.replicaScrub_of_single {r : Replica} (hon : s.rd Reg.hltScoreCfgScrubMs ≠ 0) (hvalid : s.spn.repl.filter (·.valid) = [r]) :
    s.replicaScrub = s.scrubReads r := by
  have hnext : (([r.frame]).find? fun x => decide (s.spn.scrub < x)).getD r.frame = r.frame := by
    rw [List.find?_cons]
    split <;> rfl
  have hframes : sortDedup ([r].map (·.frame)) = [r.frame] := rfl
  have hheld : [r].find? (fun x => x.frame == r.frame) = some r := List.find?_cons_of_pos (beq_self_eq_true r.frame)
  simp only [State.replicaScrub, hvalid, hon, hframes, List.headD_cons, hnext, hheld, List.cons_ne_self, or_self, if_false]
  rfl

theorem State.frameZeroed_of_zeroing {tier frame : Nat} (hzeroing : s.mem.zeroing.contains (tier, frame) = true) :
    s.frameZeroed tier frame = ({ s with mem := { s.mem with zeroing := s.mem.zeroing.erase (tier, frame) } } : State).idleEngine :=
  if_pos hzeroing

end

/-- Settles O26: each message, time-out and step that removes copies has one case. -/
theorem copiesRemoved : Obligations.CopiesRemoved := by
  unfold Obligations.CopiesRemoved
  refine ⟨fun s m tag pd => ⟨?inval, ?republish, ?ackTimeout, ?republishTimeout, ?recalled⟩, fun s core place j => ?commands⟩
  case inval =>
    intro hassigned hreplicas hrange off n
    exact next_choices_congr (State.spInvalIn_of_range hassigned hreplicas hrange)
  case republish => exact fun hassigned => next_choices_congr (State.spRepubIn_of_assigned hassigned)
  case ackTimeout =>
    intro hpend hkind hgone howner
    exact next_choices_congr (State.memberSilent_of_gone hpend (by rw [hkind]; decide) howner hgone)
  case republishTimeout =>
    intro j hpend hkind howner hclass
    exact next_choices_congr (State.memberSilent_of_memory hpend (by rw [hkind]; decide) howner hclass)
  case recalled =>
    intro l line ts hrecall dev key
    exact next_choices_congr (State.recallTimeout_of_recall hrecall)
  case commands =>
    intro c p
    refine ⟨?setattr, ?memRepublish, fun r hon hvalid => next_congr (State.replicaScrub_of_single hon hvalid),
      fun tier frame hzeroing => next_choices_congr (State.frameZeroed_of_zeroing hzeroing)⟩
    case setattr =>
      intro h hasked hall pages
      exact next_choices_congr ((h.runMem_of_lt (by decide) _).trans (State.memSetattr_of_answered h hasked hall))
    case memRepublish =>
      intro k q h hfresh hdone hwrites hrange hpage hversion hholders htodo j' u
      exact next_choices_congr ((h.runMem_of_lt (by decide) _).trans
        (State.memRepublish_of_unheld h hfresh hdone hwrites hrange hpage hversion hholders htodo))

/-! ## Two states with the same memory (R88, R141, R169) -/

/-- Where a page lies. -/
def Page.backing (q : Page) : Nat × Nat := (q.tier, q.frame)

/-- Nothing that a check of an access asks differs: access counts alone may. -/
structure SameMemory (s t : State) : Prop where
  /-- registers -/
  regs : t.regs = s.regs
  /-- bytes -/
  bytes : t.mem.bytes = s.mem.bytes
  /-- poisoned units -/
  poison : t.mem.poison = s.mem.poison
  /-- tray devices -/
  trays : t.mem.trays = s.mem.trays
  /-- where pages lie -/
  backing : ∀ k, (Tbl.find k t.mem.pages).map Page.backing = (Tbl.find k s.mem.pages).map Page.backing

/-- The page of a key is lost with its device. -/
def State.lostAt (s : State) (k : Nat) : Bool := match Tbl.find k s.mem.pages with | some q => s.pageLost q | none => false

theorem State.accessStatus_eq (s : State) (l a n : Nat) : s.accessStatus l a n =
    if !s.translates l a n then St.addrFault else if (pagesOf a n).any (fun p => s.lostAt (pageKey l p)) then St.trayLost else St.ok := rfl

/-- A change of one page that leaves it where it lies leaves every page where it lies. -/
theorem backing_adjust {f : Page → Page} (hf : ∀ q, (f q).backing = q.backing) (i k : Nat) :
    ∀ t : Tbl Page, (Tbl.find k (Tbl.adjust i f t)).map Page.backing = (Tbl.find k t).map Page.backing
  | [] => rfl
  | (j, q) :: r => by
    simp only [Tbl.adjust]
    by_cases hj : j = i
    · simp only [if_pos hj, Tbl.find]
      split
      · exact congrArg some (hf q)
      · rfl
    · simp only [if_neg hj, Tbl.find, apply_ite (Option.map Page.backing), backing_adjust hf i k r]

/-- An access counted leaves memory as it is. -/
theorem State.sameMemory_touch (s : State) (l a n : Nat) (w : Bool) : SameMemory s (s.touch l a n w) where
  regs := rfl
  bytes := rfl
  poison := rfl
  trays := rfl
  backing k := by
    suffices h : ∀ (ps : List Nat) (t : Tbl Page), (Tbl.find k (ps.foldl (fun t p =>
        Tbl.adjust (pageKey l p) (·.access (ceilDiv (min (a + n) ((p + 1) * 2 ^ 21) - max a (p * 2 ^ 21)) 64) w) t) t)).map Page.backing =
        (Tbl.find k t).map Page.backing from h (pagesOf a n) s.mem.pages
    intro ps
    induction ps with
    | nil => exact fun t => rfl
    | cons p r ih => exact fun t => (ih _).trans (backing_adjust (f := (·.access _ w)) (fun q => rfl) _ k t)

namespace SameMemory

variable {s t : State} (h : SameMemory s t)
include h

theorem rd (f : Fld) (i j : Nat) : t.rd f i j = s.rd f i j := State.rd_of_regs h.regs f i j

theorem self : t.self = s.self := h.rd ..

theorem peekNat (l a n : Nat) : t.peekNat l a n = s.peekNat l a n := by rw [State.peekNat, State.peek, h.bytes]; rfl

theorem mapped (k : Nat) : (Tbl.find k t.mem.pages).isSome = (Tbl.find k s.mem.pages).isSome := by
  rw [← Option.isSome_map, h.backing, Option.isSome_map]

theorem pageLost {p q : Page} (hq : q.backing = p.backing) : t.pageLost q = s.pageLost p := by
  obtain ⟨htier, hframe⟩ := Prod.mk.inj hq
  rw [State.pageLost, State.pageLost, State.trayOf, State.trayOf, h.trays, htier, hframe]

theorem lostAt (k : Nat) : t.lostAt k = s.lostAt k := by
  have hk := h.backing k
  rw [State.lostAt, State.lostAt]
  cases ht : Tbl.find k t.mem.pages with
  | none =>
    rw [ht, Option.map_none, eq_comm, Option.map_eq_none_iff] at hk
    rw [hk]
  | some q =>
    rw [ht, Option.map_some, eq_comm, Option.map_eq_some_iff] at hk
    obtain ⟨p, hp, hpq⟩ := hk
    rw [hp]
    exact h.pageLost hpq.symm

theorem translates (l a n : Nat) : t.translates l a n = s.translates l a n := by
  simp only [State.translates, h.mapped]

theorem accessStatus (l a n : Nat) : t.accessStatus l a n = s.accessStatus l a n := by
  rw [State.accessStatus_eq, State.accessStatus_eq, h.translates]
  simp only [h.lostAt]

theorem readStatus (l a n : Nat) : t.readStatus l a n = s.readStatus l a n := by
  simp only [State.readStatus, h.accessStatus, State.poisoned, h.poison]

theorem poolRecAddr (l i : Nat) : t.poolRecAddr l i = s.poolRecAddr l i := by rw [State.poolRecAddr, h.rd, State.poolRecAddr]

theorem poolRaw (l i : Nat) : t.poolRaw l i = s.poolRaw l i := by
  simp only [State.poolRaw, h.poolRecAddr, h.peekNat]

theorem poolReserved (l i : Nat) : t.poolReserved l i = s.poolReserved l i := by
  simp only [State.poolReserved, h.poolRecAddr, h.peekNat]

theorem pool (l i : Nat) : t.pool l i = s.pool l i := by
  rw [State.pool, h.rd, h.readStatus, h.poolRecAddr, h.poolRaw, h.poolReserved]
  rfl

theorem hdr (l : Nat) (p : Pool) (n i : Nat) : t.hdr l p n i = s.hdr l p n i := h.peekNat ..

theorem kvAt (l a : Nat) : t.kvAt l a = s.kvAt l a := by
  simp only [State.kvAt, h.pool]

theorem kvSpanOk (l dev a n : Nat) (store : Bool) : t.kvSpanOk l dev a n store = s.kvSpanOk l dev a n store := by
  simp only [State.kvSpanOk, h.kvAt, State.share, State.ownerDev, h.hdr]
  rfl

theorem storeStatus (l dev a n : Nat) : t.storeStatus l dev a n = s.storeStatus l dev a n := by
  rw [State.storeStatus, h.kvSpanOk, h.accessStatus, State.storeStatus]

end SameMemory
/-! ## SPAN commands in RUN (R379, R382 to R389) -/

section
variable {s : State} {c p : Nat} {j : Job}

/-- A read of this device's own memory takes the bytes. -/
theorem State.spanRead_of_own (hfresh : j.result = 0) (hlocal : s.accessStatus j.cmd.lodge j.cmd.local_ j.cmd.spLen = St.ok)
    (hown : j.cmd.farDev = s.self) (hpool : s.kvSpanOk j.cmd.lodge s.self j.cmd.farOff j.cmd.spLen false = true)
    (hread : s.readStatus j.cmd.lodge j.cmd.farOff j.cmd.spLen = St.ok) : s.spanRead c p j =
    (s.touch j.cmd.lodge j.cmd.farOff j.cmd.spLen false).toFence c p
      { j with direct := [(j.cmd.local_, s.peek j.cmd.lodge j.cmd.farOff j.cmd.spLen)] } := by
  simp only [State.spanRead, hfresh, hlocal, hown, hpool, hread, ne_eq, not_true_eq_false, if_false, if_true]

/-- A read beyond this device takes what is cached and asks for the rest. -/
theorem State.spanRead_of_far (hfresh : j.result = 0) (hlocal : s.accessStatus j.cmd.lodge j.cmd.local_ j.cmd.spLen = St.ok)
    (hfar : j.cmd.farDev ≠ s.self) (hreplica : j.cmd.wantReplica = false) : s.spanRead c p j =
    ((s.setJob c p { j with direct := [], result := 1 }).readPlain c p j j.cmd.farOff j.cmd.spLen j.cmd.local_).spanDone c p := by
  simp only [State.spanRead, hfresh, hlocal, if_neg hfar, hreplica, ne_eq, not_true_eq_false, if_false, Bool.false_eq_true]

/-- A write beyond this device goes out in pieces. -/
theorem State.spanWrite_of_far (hfresh : j.result = 0) (hfar : j.cmd.farDev ≠ s.self)
    (hread : s.readStatus j.cmd.lodge j.cmd.local_ j.cmd.spLen = St.ok) : s.spanWrite c p j =
    ((pieces j.cmd.spLen).foldl (fun (u : State) (e : Nat × Nat) =>
      u.issue (u.spanPend c p j 1 0x63 0 (j.cmd.farOff + e.1) e.2 0 [0, j.cmd.farOff + e.1, e.2]
        (((s.peek j.cmd.lodge j.cmd.local_ j.cmd.spLen).drop e.1).take e.2)))
      (((s.touch j.cmd.lodge j.cmd.local_ j.cmd.spLen false).dropLines j.cmd.farDev j.cmd.farOff j.cmd.spLen none).1.setJob c p
        { j with result := 1 })).spanDone c p := by
  have hfar' : ¬ j.cmd.farDev = (s.touch j.cmd.lodge j.cmd.local_ j.cmd.spLen false).self := hfar
  simp only [State.spanWrite, hfresh, hread, if_neg hfar', ne_eq, not_true_eq_false, if_false]
  rfl

/-- An atomic on this device's own memory, whose line has no tracked copy, is done at once. -/
theorem State.spanAtomic_of_own (hwaiting : j.waiting = []) (hpends : s.pendsOf c p = []) (hown : j.cmd.farDev = s.self)
    (hoperands : s.readStatus j.cmd.lodge j.cmd.local_ 16 = St.ok) (hresult : s.accessStatus j.cmd.lodge (j.cmd.local_ + 16) 8 = St.ok)
    (hstore : s.storeStatus j.cmd.lodge s.self j.cmd.farOff 8 = St.ok) (hread : s.readStatus j.cmd.lodge j.cmd.farOff 8 = St.ok)
    (hdir : s.dirIn j.cmd.lodge (j.cmd.farOff / 128 * 128) 128 = []) : s.spanAtomic c p j =
    ((((s.touch j.cmd.lodge j.cmd.local_ 16 false).setJob c p j).touch j.cmd.lodge j.cmd.farOff 8 false).pokeNat j.cmd.lodge j.cmd.farOff 8
      (atomicOp j.cmd.aop (s.peekNat j.cmd.lodge j.cmd.farOff 8) (s.peekNat j.cmd.lodge j.cmd.local_ 8)
        (s.peekNat j.cmd.lodge (j.cmd.local_ + 8) 8))).toFence c p
      { j with direct := [(j.cmd.local_ + 16, leBytes 8 (s.peekNat j.cmd.lodge j.cmd.farOff 8))] } := by
  have hsame := s.sameMemory_touch j.cmd.lodge j.cmd.local_ 16 false
  have hoperandsOk : firstBad [s.readStatus j.cmd.lodge j.cmd.local_ 16, s.accessStatus j.cmd.lodge (j.cmd.local_ + 16) 8] = St.ok :=
    firstBad_eq_ok_iff.2 (List.forall_mem_cons.2 ⟨hoperands, List.forall_mem_singleton.2 hresult⟩)
  have htargetOk : firstBad [s.storeStatus j.cmd.lodge s.self j.cmd.farOff 8, s.readStatus j.cmd.lodge j.cmd.farOff 8] = St.ok :=
    firstBad_eq_ok_iff.2 (List.forall_mem_cons.2 ⟨hstore, List.forall_mem_singleton.2 hread⟩)
  have hdir' : ((s.touch j.cmd.lodge j.cmd.local_ 16 false).setJob c p j).dirIn j.cmd.lodge (j.cmd.farOff / 128 * 128) 128 = [] := hdir
  have hallowed : ¬ St.ok = St.notOwner := by decide
  simp only [State.spanAtomic, hpends, hwaiting, hoperandsOk, if_pos hown, hsame.storeStatus, hsame.readStatus, hsame.self, htargetOk,
    hallowed, State.invalTracked_of_empty hdir', bne_self_eq_false, Bool.or_self, Bool.false_eq_true, ne_eq, not_true_eq_false, if_false]
  rfl

/-- A copy beyond this device: all its chunks but the last, or the last at once where it is the only one. -/
theorem State.spanCopy_of_far (hfresh : j.result = 0) (hfar : j.cmd.farDev ≠ s.self)
    (hread : s.readStatus j.cmd.lodge j.cmd.local_ j.cmd.spLen = St.ok) : s.spanCopy c p j =
    if (pieces j.cmd.spLen).length = 1 then
      (((s.touch j.cmd.lodge j.cmd.local_ j.cmd.spLen false).dropLines j.cmd.farDev j.cmd.farOff j.cmd.spLen none).1.setJob c p
        { j with result := 1 }).copyLast c p { j with result := 1 }
    else
      ((pieces j.cmd.spLen).take ((pieces j.cmd.spLen).length - 1)).foldl (fun (u : State) (e : Nat × Nat) =>
        u.issue (u.copyPend c p j false e.1 e.2 (u.peek j.cmd.lodge (j.cmd.local_ + e.1) e.2)))
        (((s.touch j.cmd.lodge j.cmd.local_ j.cmd.spLen false).dropLines j.cmd.farDev j.cmd.farOff j.cmd.spLen none).1.setJob c p
          { j with result := 1 }) := by
  have hfar' : ¬ j.cmd.farDev = (s.touch j.cmd.lodge j.cmd.local_ j.cmd.spLen false).self := hfar
  simp only [State.spanCopy, hfresh, hread, if_neg hfar', ne_eq, not_true_eq_false, if_false]

/-! ### Arrival counters (R387, R389) -/

section
variable {a : Arrival} (harrival : Tbl.find j.cmd.arrival s.spn.arr = some a)
include harrival

theorem State.arrivalWait_of_met (hmet : Machine.waitMet a.count (j.cmd.fld 3 0 32) = true) : s.arrivalWait c p j = s.toFence c p j := by
  simp only [State.arrivalWait, harrival, hmet, if_true]

theorem State.arrivalWait_of_unmet (hunmet : Machine.waitMet a.count (j.cmd.fld 3 0 32) = false) : s.arrivalWait c p j = s.setJob c p j := by
  simp only [State.arrivalWait, harrival, hunmet, Bool.false_eq_true, if_false]

end

/-- A counter is bound to the lodge that asks, within its quota. -/
theorem State.arrivalCtl_of_bind {i : Nat} (hop : j.cmd.fld 3 0 2 = 0) (hquota : s.arrUsed j.cmd.lodge < s.rd Reg.spnArrQuota j.cmd.lodge)
    (hfree : s.freeArrival = some i) : s.arrivalCtl c p j =
    ({ s with spn := { s.spn with arr := Tbl.put i ⟨j.cmd.lodge, 0⟩ s.spn.arr } } : State).toFence c p { j with result := i } := by
  simp only [State.arrivalCtl, hop, if_true, if_neg (Nat.not_le.2 hquota), hfree]

section
variable (hbound : s.arrBound j.cmd.lodge j.cmd.arrival = true)
include hbound

theorem State.arrivalCtl_of_free (hop : j.cmd.fld 3 0 2 = 1) (hwaited : s.arrWaited j.cmd.arrival = false) : s.arrivalCtl c p j =
    ({ s with spn := { s.spn with arr := Tbl.del j.cmd.arrival s.spn.arr } } : State).toFence c p j := by
  simp only [State.arrivalCtl, hop, hbound, hwaited, Nat.one_ne_zero, Bool.not_true, Bool.false_eq_true, and_false, if_false, if_true]

theorem State.arrivalCtl_of_set (hop : 2 ≤ j.cmd.fld 3 0 2) : s.arrivalCtl c p j =
    ({ s with spn := { s.spn with arr := Tbl.adjust j.cmd.arrival (fun k => { k with count := j.cmd.fld 3 32 32 }) s.spn.arr } } :
      State).toFence c p j := by
  have hbind : ¬ j.cmd.fld 3 0 2 = 0 := by omega
  have hfree : ¬ j.cmd.fld 3 0 2 = 1 := by omega
  simp only [State.arrivalCtl, hbind, hfree, hbound, Bool.not_true, Bool.false_eq_true, false_and, if_false]

end
end

/-- Settles O29: each command in RUN is one case of its work. -/
theorem spanCommands : Obligations.SpanCommands := by
  unfold Obligations.SpanCommands
  intro s core place j c p x l
  have hwork (op : Nat) (run : State → Job → State) (h : Running s c p 6 op j) : s.runSpan c p op run = run s j := h.runSlot _ run
  refine ⟨?readOwn, ?readFar, ?write, ?atomic, ?inval, ?met, ?unmet, ?bind, ?free, ?set, ?copy⟩
  case readOwn =>
    intro h hfresh hlocal hown hpool hread
    exact next_choices_congr ((hwork _ _ h).trans (State.spanRead_of_own hfresh hlocal hown hpool hread))
  case readFar =>
    intro h hfresh hlocal hfar hreplica
    exact next_choices_congr ((hwork _ _ h).trans (State.spanRead_of_far hfresh hlocal hfar hreplica))
  case write =>
    intro h hfresh hfar hread data
    exact next_choices_congr ((hwork _ _ h).trans (State.spanWrite_of_far hfresh hfar hread))
  case atomic =>
    intro h hpends hown hoperands hresult hstore hread hdir old
    exact next_choices_congr ((hwork _ _ h).trans
      (State.spanAtomic_of_own h.waiting hpends hown hoperands hresult hstore hread hdir))
  case inval => exact fun h => next_choices_congr (hwork _ _ h)
  case met => exact fun a h harrival hmet => next_choices_congr ((hwork _ _ h).trans (State.arrivalWait_of_met harrival hmet))
  case unmet => exact fun a h harrival hunmet => next_choices_congr ((hwork _ _ h).trans (State.arrivalWait_of_unmet harrival hunmet))
  case bind => exact fun i h hop hquota hfree => next_choices_congr ((hwork _ _ h).trans (State.arrivalCtl_of_bind hop hquota hfree))
  case free => exact fun h hop hbound hwaited => next_choices_congr ((hwork _ _ h).trans (State.arrivalCtl_of_free hbound hop hwaited))
  case set => exact fun h hop hbound => next_choices_congr ((hwork _ _ h).trans (State.arrivalCtl_of_set hbound hop))
  case copy =>
    intro h hfresh hfar hread u ps
    exact next_choices_congr ((hwork _ _ h).trans (State.spanCopy_of_far hfresh hfar hread))

end Sys2Proof.Machine
end

section
/-!
PROOFS. The statements of 15_field_rdma_and_shaping.md: FIELD commands, packets, the sender, gate lists and field time.
-/

namespace Sys2Proof.Machine

/-! ## FIELD commands in RUN (R403, R404, R412, R416) -/

section
variable {s : State} {c p : Nat} {j : Job}

theorem State.connOpen_of_free {k : Nat} (hread : s.readStatus j.cmd.lodge j.cmd.local_ 64 = St.ok) (hfree : s.freeConn = some k)
    (htenant : s.tenantLodge (s.ctxConn j.cmd).tenant = some j.cmd.lodge) (hctx : s.ctxBad j.cmd = false)
    (hroom : s.connsFull j.cmd.lodge = false) : s.connOpen c p j =
    ((s.putConn k (s.ctxConn j.cmd)).touch j.cmd.lodge j.cmd.local_ 64 false).toFence c p { j with result := k } := by
  simp only [State.connOpen, hread, hfree, htenant, hctx, hroom, ne_eq, not_true_eq_false, Bool.false_eq_true, if_false]

theorem State.connClose_of_idle (hown : s.notOwn j.cmd.lodge j.cmd.farConn = false) (hidle : s.connBusy j.cmd.farConn c p = false) :
    s.connClose c p j = ({ s with fld := { s.fld with conns := Tbl.del j.cmd.farConn s.fld.conns } } : State).toFence c p j := by
  simp only [State.connClose, hown, hidle, Bool.false_and, Bool.false_eq_true, if_false]

section
variable (hown : s.notOwn j.cmd.lodge j.cmd.farConn = false) (hready : s.inError j.cmd.farConn = false)
include hown hready

theorem State.connModify_of_ready (hread : s.readStatus j.cmd.lodge j.cmd.local_ 64 = St.ok) (hctx : s.ctxBad j.cmd = false) :
    s.connModify c p j = ((s.modConn j.cmd.farConn fun q =>
      { q with change := some ((s.ctxConn j.cmd).rate, (s.ctxConn j.cmd).burst, (s.ctxConn j.cmd).tc) }).touch j.cmd.lodge j.cmd.local_ 64
        false).toFence c p j := by
  simp only [State.connModify, hread, hown, hready, hctx, ne_eq, not_true_eq_false, Bool.false_eq_true, if_false]

/-- The item of a WRITE or a READ in the send queue. -/
def Job.fieldItem (j : Job) (c p kind : Nat) (arr : Option Nat) : FItem :=
  { kind := kind, core := c, place := p, cmd := some { j.cmd with done := true }, addr := j.cmd.farOff, local_ := j.cmd.local_,
    len := j.cmd.spLen, arr := arr, psn := 0, next := 0, body := [], held := false }

section
variable (hfresh : j.cmd.done = false)
include hfresh

/-- A WRITE joins the send queue of its connection, with its arrival counter where it names one. -/
theorem State.connQueue_of_write (hread : s.readStatus j.cmd.lodge j.cmd.local_ j.cmd.spLen = St.ok) : s.connQueue c p j true =
    ((s.touch j.cmd.lodge j.cmd.local_ j.cmd.spLen false).setJob c p
      { j with cmd := { j.cmd with done := true }, result := ceilDiv j.cmd.spLen s.payloadMax }).modConn j.cmd.farConn fun q =>
        { q with queue := q.queue ++ [j.fieldItem c p 1 (if bitAt 2 j.cmd.flags then some j.cmd.arrival else none)] } := by
  simp only [State.connQueue, hfresh, hown, hready, hread, Bool.true_and, ne_eq, not_true_eq_false, Bool.false_eq_true, if_false, if_true]
  rfl

theorem State.connQueue_of_read (haccess : s.accessStatus j.cmd.lodge j.cmd.local_ j.cmd.spLen = St.ok) : s.connQueue c p j false =
    (s.setJob c p { j with cmd := { j.cmd with done := true }, result := 0 }).modConn j.cmd.farConn fun q =>
      { q with queue := q.queue ++ [j.fieldItem c p 2 none] } := by
  simp only [State.connQueue, hfresh, hown, hready, haccess, Bool.false_and, ne_eq, not_true_eq_false, Bool.false_eq_true, if_false]
  rfl

end
end
end

/-- Settles O50: each command in RUN is one case of its work. -/
theorem fieldCommands : Obligations.FieldCommands := by
  unfold Obligations.FieldCommands
  intro s core place j k c p x
  have hwork (op : Nat) (run : State → Job → State) (h : Running s c p 7 op j) : s.runField c p op run = run s j := h.runSlot _ run
  refine ⟨?opened, ?closed, ?modified, fun hfresh hown hready => ⟨?write, ?read⟩⟩
  case opened =>
    intro h hread hfree htenant hctx hroom
    exact next_choices_congr ((hwork _ _ h).trans (State.connOpen_of_free hread hfree htenant hctx hroom))
  case closed => exact fun h hown hidle => next_choices_congr ((hwork _ _ h).trans (State.connClose_of_idle hown hidle))
  case modified =>
    intro h hread hown hready hctx
    exact next_choices_congr ((hwork _ _ h).trans (State.connModify_of_ready hown hready hread hctx))
  case write =>
    exact fun h hread => next_choices_congr ((hwork _ _ h).trans (State.connQueue_of_write hown hready hfresh hread))
  case read =>
    exact fun h haccess => next_choices_congr ((hwork _ _ h).trans (State.connQueue_of_read hown hready hfresh haccess))

/-! ## Packets that a port receives (R400 to R402, R405, R408 to R412) -/

section
variable {s u : State} {port k : Nat} {p : FIn} {c : Conn} {isMsg : Bool} {f : State → Conn → State}

section
variable (hup : s.fieldUp port = true) (hon : s.on Reg.fldCtrlEnable = true)
include hup hon

theorem State.packetIn_of_dropped (hdropped : s.acceptOn p isMsg = none) :
    s.packetIn port p isMsg f = (s.bump Reg.fldTenantDropCount 1 port).setBit Reg.fldErrBits 0 := by
  simp only [State.packetIn, hup, hon, hdropped, Bool.not_true, Bool.or_self, Bool.false_eq_true, if_false]

theorem State.packetIn_of_accepted (haccepted : s.acceptOn p isMsg = some c) :
    s.packetIn port p isMsg f = f (s.count Reg.fldRxPktCount 1 port) c := by
  simp only [State.packetIn, hup, hon, haccepted, Bool.not_true, Bool.or_self, Bool.false_eq_true, if_false]

end

section
variable {count : Nat} {expected late : State → State}

theorem State.inOrder_of_expected (hpsn : psnDiff p.psn c.rx = 0) :
    u.inOrder k c p count expected late = expected (u.modConn k fun c => { c with rx := (c.rx + count) % 2 ^ 32, naked := false }) :=
  if_pos hpsn

/-- A gap is answered by one NAK. -/
theorem State.inOrder_of_gap (hpast : 0 < psnDiff p.psn c.rx) (hahead : psnDiff p.psn c.rx < 2 ^ 31) (hfirst : c.naked = false) :
    u.inOrder k c p count expected late =
      ((u.fieldCtl k 1 (c.rx + 2 ^ 32 - 1) 1 0).bump Reg.fldNakTxCount).modConn k fun c => { c with naked := true } := by
  simp only [State.inOrder, if_neg (Nat.pos_iff_ne_zero.1 hpast), if_neg (Nat.not_le.2 hahead), hfirst, Bool.false_eq_true, if_false]

end

/-- A response in order, not the read's last, goes to its command. -/
theorem State.rspIn_of_next {d : Conn} {r : FPkt} {j : Job} (hconn : u.conn k = some d)
    (hread : d.sent.find? (fun r => r.kind == 2 && decide (psnDiff p.psn r.psn < r.count)) = some r) (hnext : psnDiff p.psn r.psn = r.got)
    (hmore : r.got + 1 < r.count) (howner : u.fieldOwner r.core r.place r.cmd = some j) : u.rspIn k p =
    (u.addDirect r.core r.place (r.local_ + r.got * u.payloadMax)
      (p.payload.take (min u.payloadMax (r.len - r.got * u.payloadMax)))).modConn k fun c =>
        ({ c with tries := 0, sent := c.sent.map fun x => if x = r then { r with got := r.got + 1, asked := false } else x } : Conn).tidy := by
  simp only [State.rspIn, hconn, hread, hnext, howner, Nat.lt_irrefl, Nat.ne_of_lt hmore, false_and, Option.isSome_some, if_true, if_false]

/-- A port that takes a packet counts it. -/
def State.tookPacket (s : State) (port : Nat) : State := s.count Reg.fldRxPktCount 1 port

section
variable (hup : s.fieldUp port = true) (hon : s.on Reg.fldCtrlEnable = true) (hpsn : psnDiff p.psn c.rx = 0)
include hup hon hpsn

/-- A read asked in order takes as many PSNs as it has responses. -/
theorem State.reqIn_of_expected (haccepted : s.acceptOn p false = some c) : s.reqIn port p =
    ((s.tookPacket port).modConn p.dstConn fun c =>
      { c with rx := (c.rx + ceilDiv (bits 0 40 p.w1) (s.tookPacket port).payloadMax) % 2 ^ 32, naked := false }).waitRx p.dstConn false p := by
  simp only [State.reqIn, State.packetIn_of_accepted hup hon haccepted, State.inOrder_of_expected hpsn, State.tookPacket]

/-- A message in one packet is delivered at once. -/
theorem State.msgIn_of_single (haccepted : s.acceptOn p true = some c) (hfirst : p.first = true) (hlast : p.last = true)
    (hquiet : p.ackReq = false) : s.msgIn port p =
    (((s.tookPacket port).modConn p.dstConn fun c => { c with rx := (c.rx + 1) % 2 ^ 32, naked := false }).modConn p.dstConn fun c =>
      { c with rxMsg := [] }).arriveMsg (Msg.ofBytes p.payload) := by
  simp only [State.msgIn, State.packetIn_of_accepted hup hon haccepted, State.inOrder_of_expected hpsn, State.tookPacket, hfirst, hlast,
    hquiet, if_true, Bool.false_eq_true, if_false, List.nil_append]

end
end

/-- Settles O51: a packet accepted has one case by its PSN, and a message one by its place. -/
theorem fieldPackets : Obligations.FieldPackets := by
  unfold Obligations.FieldPackets
  intro s port p c k u hup
  refine ⟨next_congr (if_pos hup), fun mac ip => next_congr (if_pos hup),
    fun hon hdropped => next_choices_congr (State.packetIn_of_dropped hup hon hdropped), fun hon haccepted => ?accepted, ?message⟩
  case accepted =>
    have htaken (f : State → Conn → State) : s.packetIn port p false f = f u c := State.packetIn_of_accepted hup hon haccepted
    refine ⟨fun hpsn => ⟨?write, ?readReq⟩, ?gap, ?ack, ?response⟩
    case write => exact next_choices_congr ((htaken _).trans (State.inOrder_of_expected hpsn))
    case readReq => exact next_choices_congr (State.reqIn_of_expected hup hon hpsn haccepted)
    case gap => exact fun hpast hahead hfirst => next_choices_congr ((htaken _).trans (State.inOrder_of_gap hpast hahead hfirst))
    case ack => exact fun hsyndrome => next_choices_congr ((htaken _).trans (if_pos hsyndrome))
    case response =>
      intro d r j hconn hread hnext hmore howner
      exact next_choices_congr ((htaken _).trans (State.rspIn_of_next hconn hread hnext hmore howner))
  case message =>
    intro hon haccepted hpsn hfirst hlast hquiet
    exact next_choices_congr (State.msgIn_of_single hup hon hpsn haccepted hfirst hlast hquiet)

/-! ## The sender (R409, R414 to R416) -/

section
variable {s : State}

section
variable {k : Nat} {c : Conn} {f : FPkt} {r : List FPkt} (hconn : s.conn k = some c) (hsent : c.sent = f :: r)
  (hready : c.error = false)
include hconn hsent hready

theorem State.retryTimeout_of_sent : s.retryTimeout k = s.sendAgain k (f.psn + f.got) := by
  simp only [State.retryTimeout, hconn, hsent, hready, Bool.false_eq_true, if_false]

theorem State.retryTimeout_of_try (htry : c.tries < s.rd Reg.fldRetryRetryMax) : s.retryTimeout k =
    s.modConn k fun c => { c with again := some ((f.psn + f.got) % 2 ^ 32), tries := c.tries + 1 } := by
  simp only [State.retryTimeout_of_sent hconn hsent hready, State.sendAgain, hconn, if_neg (Nat.not_le.2 htry)]

theorem State.retryTimeout_of_spent (hspent : s.rd Reg.fldRetryRetryMax ≤ c.tries) : s.retryTimeout k = s.retriesOut k := by
  simp only [State.retryTimeout_of_sent hconn hsent hready, State.sendAgain, hconn, if_pos hspent]

end

/-! ### A packet boundary -/

/-- Changes of RATE, BURST and TC take effect on the connections of a port. -/
def State.ratesChanged (s : State) (p : Nat) : State :=
  { s with fld := { s.fld with conns := s.fld.conns.map fun e => (e.1, if e.2.port == p then e.2.changed s.now else e.2) } }

/-- Connections of a port with something to send have their credit, or are parked. -/
def State.creditsSettled (s : State) (p : Nat) : State :=
  { s with fld := { s.fld with conns := s.fld.conns.map fun e =>
    (e.1, if e.2.port == p && (s.headOf e.2).isSome then e.2.settled s.now else e.2) } }

/-- What a packet boundary does before it chooses. -/
def State.boundary (s : State) (p : Nat) : State := (((s.ratesChanged p).countStalls p).creditsSettled p).refreshTags p none

/-- The control packet chosen goes first, then the data packet chosen. -/
def State.sendChosen (s : State) (p : Nat) : State :=
  match s.firstCtl p with
  | some x => s.sendCtl p x
  | none =>
    match s.chooseData p with
    | some (k, c, h, g) => s.startData p k c h g
    | none => s

theorem State.packetBoundary_of_up {p : Nat} (hup : s.fieldUp p = true) : s.packetBoundary p = (s.boundary p).sendChosen p :=
  if_neg (by rw [hup]; decide)

section
variable {p : Nat}

theorem State.sendChosen_of_control {x : FCtl} (hctl : s.firstCtl p = some x) : s.sendChosen p = s.sendCtl p x := by
  simp only [State.sendChosen, hctl]

section
variable (hctl : s.firstCtl p = none)
include hctl

theorem State.sendChosen_of_data {k : Nat} {c : Conn} {h : FHead} {g : Bool} (hdata : s.chooseData p = some (k, c, h, g)) :
    s.sendChosen p = s.startData p k c h g := by
  simp only [State.sendChosen, hctl, hdata]

theorem State.sendChosen_of_nothing (hdata : s.chooseData p = none) : s.sendChosen p = s := by
  simp only [State.sendChosen, hctl, hdata]

end
end
end

/-- Settles O52: a retry by its count, and a packet boundary by what it chooses. -/
theorem fieldSending : Obligations.FieldSending := by
  unfold Obligations.FieldSending
  intro s port k c f r p
  refine ⟨fun hconn hsent hready => ⟨fun htry => ?again, fun hspent => ?spent⟩, fun hup => ?boundary, fun slot => rfl⟩
  case again => exact next_choices_congr (State.retryTimeout_of_try hconn hsent hready htry)
  case spent => exact next_choices_congr (State.retryTimeout_of_spent hconn hsent hready hspent)
  case boundary =>
    intro a b d t
    have hsent : s.packetBoundary p = t.sendChosen p := State.packetBoundary_of_up hup
    exact ⟨fun x hctl => next_choices_congr (hsent.trans (State.sendChosen_of_control hctl)),
      fun i q h g hctl hdata => next_choices_congr (hsent.trans (State.sendChosen_of_data hctl hdata)),
      fun hctl hdata => next_choices_congr (hsent.trans (State.sendChosen_of_nothing hctl hdata))⟩

/-! ## Gate lists (R417 to R419) -/

section
variable {s : State} {p : Nat}

theorem State.nextGate_of_list (hlist : (s.fport p).operLen ≠ 0) : s.nextGate p =
    s.wr Reg.fldGclCtrlEntry (if (s.fport p).operLen ≤ s.rd Reg.fldGclCtrlEntry p + 1 ∨ s.rd Reg.fldGclOcycleValue p ≤
      ((natsFrom 0 (s.rd Reg.fldGclCtrlEntry p + 1)).map fun i => s.rd Reg.fldGclOperIntervalNs p i).foldl (· + ·) 0
      then 0 else s.rd Reg.fldGclCtrlEntry p + 1) p := if_neg hlist

theorem State.armList_of_pending (hpending : s.on Reg.fldGclCtrlPending p = true) : s.armList p = s.discard := if_pos hpending

/-- A good admin list waits for its takeover. -/
theorem State.armList_of_good (hpending : s.on Reg.fldGclCtrlPending p = false) (hgood : s.adminBad p = false) : s.armList p =
    (s.wr Reg.fldGclCtrlPending 1 p).modFport p fun f =>
      { f with takeover := if s.fieldValid then some (s.takeoverTime p) else none } := by
  simp only [State.armList, hpending, hgood, Bool.false_eq_true, if_false]

/-- The admin list becomes the operational one. -/
def State.copyList (s : State) (p : Nat) : State :=
  let a := (natsFrom 0 256).foldl (fun (s : State) e =>
    (s.wr Reg.fldGclOperGates (s.rd Reg.fldGclAdminGates p e) p e).wr Reg.fldGclOperIntervalNs (s.rd Reg.fldGclAdminIntervalNs p e) p e) s
  (a.wr Reg.fldGclOcycleValue (a.rd Reg.fldGclAcycleValue p) p).wr Reg.fldGclObaseValue (a.rd Reg.fldGclAbaseValue p) p

theorem State.takeOver_of_pending (hpending : s.on Reg.fldGclCtrlPending p = true) (hvalid : s.fieldValid = true) : s.takeOver p =
    (((s.copyList p).wr Reg.fldGclCtrlPending 0 p).wr Reg.fldGclCtrlEntry 0 p).modFport p fun f =>
      { f with operLen := s.rd Reg.fldGclCtrlAdminLen p, takeover := none } := if_pos (by rw [hpending, hvalid]; rfl)

end

/-! ## Field time (R420, R421) -/

section
variable {s : State} {p dom : Nat}

/-- Field time and its state after a Sync sent at `t`: far off it steps, else it slews, and the sixteenth near one makes it valid. -/
def State.synced (s : State) (t : Nat) : State :=
  let off : Int := (s.fieldTime : Int) - (t : Int) - s.fld.delay
  let far := off < -1000 ∨ 1000 < off
  let good := if -100 < off ∧ off < 100 then min 16 (s.fld.good + 1) else 0
  let u := s.wr Reg.fldTimeStatusOffsetNs (sat16 off)
  let v : State := { u with fld := { u.fld with
    offset := if far then u.fld.offset - off else u.fld.offset
    slew := if far then 0 else -off
    good := good
    sync := some (t, if far then ((s.fieldTime : Int) - off).toNat else s.fieldTime) } }
  if good = 16 ∧ v.fieldValid = false then (v.wr Reg.fldTimeStatusValid 1).rearm else v

section
variable (hon : s.ptpOn p dom = true)
include hon

/-- A Sync sets the clock, and asks for the path delay. -/
theorem State.ptpSync_of_on (t : Nat) : s.ptpSync p dom t = (s.synced t).modFport p fun f =>
    { f with ctl := if f.ctl.any fun x => x.kind == 3 then f.ctl else f.ctl ++ [⟨3, 0, 0, 0, 0, 0, 0⟩] } := by
  have hfar (x : Int) : (decide (1000 < x) || decide (x < -1000)) = true ↔ x < -1000 ∨ 1000 < x := by
    rw [Bool.or_eq_true, decide_eq_true_iff, decide_eq_true_iff, or_comm]
  have hnear (x : Int) : (decide (-100 < x) && decide (x < 100)) = true ↔ -100 < x ∧ x < 100 := by
    rw [Bool.and_eq_true, decide_eq_true_iff, decide_eq_true_iff]
  simp only [State.ptpSync, hon, Bool.not_true, Bool.false_eq_true, if_false, hfar, hnear, Bool.not_eq_true', State.synced]

theorem State.ptpDelay_of_asked {t t1 t2 t3 : Nat} (hsync : s.fld.sync = some (t1, t2)) (hasked : s.fld.reqAt = some t3) :
    s.ptpDelay p dom t = { s with fld := { s.fld with delay := (((t2 : Int) - t1) + ((t : Int) - t3)) / 2, reqAt := none } } := by
  simp only [State.ptpDelay, hon, hsync, hasked, Bool.not_true, Bool.false_eq_true, if_false]

end

/-- Field time that was valid is lost, and no list is taken over. -/
theorem State.ptpLost_of_valid (hvalid : s.fieldValid = true) : s.ptpLost =
    ((natsFrom 0 4).foldl (fun (s : State) p => s.modFport p fun f => { f with takeover := none })
      { (s.wr Reg.fldTimeStatusValid 0).wr Reg.fldTimeStatusSyncLost 1 with fld := { s.fld with good := 0 } }).alarm 0x05 0xF 0xFF 0 0 :=
  if_pos hvalid

end

/-- Settles O53: each event of a gate list and of field time has one case. -/
theorem gatesAndFieldTime : Obligations.GatesAndFieldTime := by
  unfold Obligations.GatesAndFieldTime
  intro s port dom t p
  refine ⟨?next, ?armed, fun hpending => next_congr (State.armList_of_pending hpending), ?taken, fun hon => ⟨?sync, ?delay⟩, ?lost⟩
  case next =>
    intro hlist e start
    exact next_congr (State.nextGate_of_list hlist)
  case armed =>
    intro hpending hgood u
    exact next_congr (State.armList_of_good hpending hgood)
  case taken =>
    intro hpending hvalid a b
    exact next_congr (State.takeOver_of_pending hpending hvalid)
  case sync => exact next_congr (State.ptpSync_of_on hon t)
  case delay => exact fun t1 t2 t3 hsync hasked => next_congr (State.ptpDelay_of_asked hon hsync hasked)
  case lost =>
    intro hvalid u v
    exact next_congr (State.ptpLost_of_valid hvalid)

end Sys2Proof.Machine
end

section
/-!
PROOFS. The statements of 16_health_and_faults.md: the update of scores, the event log, self-tests, held slots, shrinking, HLT_VERIFY and
device faults.
-/

namespace Sys2Proof.Tbl

/-- A smaller key removed changes no value, in whatever order the keys stand. -/
theorem get_del_of_lt {α : Type} (d : α) {i k : Nat} (h : k < i) : ∀ t : Tbl α, get d i (del k t) = get d i t
  | [] => rfl
  | (j, w) :: r => by
    rw [del]
    split
    next hj => rw [get, if_neg (by omega), if_neg (by omega)]
    next => rw [get, get, get_del_of_lt d h r]

/-- A smaller key written changes no value, in whatever order the keys stand. -/
theorem get_set_of_lt {α : Type} [DecidableEq α] (d e : α) {i k : Nat} {v : α} (h : k < i) (t : Tbl α) :
    get d i (set e k v t) = get d i t := by
  unfold set
  split
  · exact get_del_of_lt d h t
  · exact get_put_other d v (Nat.ne_of_gt h) t

end Sys2Proof.Tbl

namespace Sys2Proof.Machine

/-! ## The update of scores (R436) -/

/-- The registers that the events of a score update write (R431 to R433). -/
def eventKey (k : Nat) : Prop := k < Reg.hltScoreValue.key 0 0

theorem not_eventKey_score (i : Nat) : ¬ eventKey (Reg.hltScoreValue.key i 0) := by
  simp only [eventKey, Fld.key]
  omega

section
variable {s : State} {i j : Nat}

/-- The next score of a part reads its own counters, the weights of its kind, and its own bases. -/
theorem State.nextScore_congr {t : State} (hregs : ∀ f : Fld, ∀ k, f.key k 0 ≠ Reg.hltScoreValue.key j 0 → t.rd f k = s.rd f k)
    (hbase : ∀ c, Tbl.get 0 (4 * i + c) t.hlt.base = Tbl.get 0 (4 * i + c) s.hlt.base) (hij : i ≠ j) : t.nextScore i = s.nextScore i := by
  have hkind : partKind i ≤ 4 := by
    unfold partKind
    repeat' split
    all_goals omega
  have hinc (c now : Nat) : t.increase i c now = s.increase i c now := by rw [State.increase, State.increase, hbase]
  unfold State.nextScore
  simp only [hinc]
  rw [hregs Reg.hltScoreValue i ?_, hregs Reg.hltKwDecayLog2 (partKind i) ?_, hregs Reg.hltKwWCorr (partKind i) ?_,
    hregs Reg.hltCorrValue i ?_, hregs Reg.hltKwWRetry (partKind i) ?_, hregs Reg.hltRetryValue i ?_,
    hregs Reg.hltKwWRetrain (partKind i) ?_, hregs Reg.hltRetrainValue i ?_]
  all_goals
    simp only [Fld.key, Reg.hltScoreValue, Reg.hltKwDecayLog2, Reg.hltKwWCorr, Reg.hltCorrValue, Reg.hltKwWRetry, Reg.hltRetryValue,
      Reg.hltKwWRetrain, Reg.hltRetrainValue]
    omega

theorem State.scorePart_regs (s : State) (i : Nat) : (s.scorePart i).regs = (s.wr Reg.hltScoreValue (s.nextScore i) i).regs := rfl

/-- A part's own update is its next score. -/
theorem State.rd_scorePart_self (hs : s.Inv) : (s.scorePart i).rd Reg.hltScoreValue i = s.nextScore i := by
  have hlt : s.nextScore i < 2 ^ Reg.hltScoreValue.width := (Nat.min_le_left _ _).trans_lt (by decide)
  rw [State.rd_of_regs (s.scorePart_regs i), State.rd_wr_self hs, Nat.mod_eq_of_lt hlt]

/-- Only the score of its part is a register that an update writes. -/
theorem State.rd_scorePart_other (hs : s.Inv) {f : Fld} {k : Nat} (h : f.key k 0 ≠ Reg.hltScoreValue.key j 0) :
    (s.scorePart j).rd f k = s.rd f k := by
  rw [State.rd_of_regs (s.scorePart_regs j), State.rd_wr_other hs h]

theorem scoreKey_ne (h : i ≠ j) : Reg.hltScoreValue.key i 0 ≠ Reg.hltScoreValue.key j 0 := by
  simp only [Fld.key, Reg.hltScoreValue]
  omega

/-- The update of an earlier part leaves the next score of a later one. -/
theorem State.nextScore_scorePart (hs : s.Inv) (h : j < i) : (s.scorePart j).nextScore i = s.nextScore i := by
  refine State.nextScore_congr (fun f k hk => State.rd_scorePart_other hs hk) (fun c => ?_) (Nat.ne_of_gt h)
  unfold State.scorePart
  dsimp only
  rw [Tbl.get_set_of_lt 0 0 (by omega), Tbl.get_set_of_lt 0 0 (by omega), Tbl.get_set_of_lt 0 0 (by omega)]

/-- The updates of other parts leave a score. -/
theorem State.rd_scoreParts_of_not_mem {l : List Nat} (hs : s.Inv) (hi : i ∉ l) :
    (l.foldl (fun (s : State) i => s.scorePart i) s).rd Reg.hltScoreValue i = s.rd Reg.hltScoreValue i := by
  induction l generalizing s with
  | nil => rfl
  | cons a r ih =>
    obtain ⟨ha, hr⟩ := not_or.1 (mt List.mem_cons.2 hi)
    rw [List.foldl_cons, ih ((State.scorePart_keeps (Keeps.refl s)).inv hs) hr, State.rd_scorePart_other hs (scoreKey_ne ha)]

/-- Parts updated in ascending order each take the score that follows from the state before. -/
theorem State.rd_scoreParts {l : List Nat} (hs : s.Inv) (hl : l.Pairwise (· < ·)) (hi : i ∈ l) :
    (l.foldl (fun (s : State) i => s.scorePart i) s).rd Reg.hltScoreValue i = s.nextScore i := by
  induction l generalizing s with
  | nil => exact absurd hi List.not_mem_nil
  | cons a r ih =>
    obtain ⟨har, hr⟩ := List.pairwise_cons.1 hl
    have hstep : (s.scorePart a).Inv := (State.scorePart_keeps (Keeps.refl s)).inv hs
    rw [List.foldl_cons]
    rcases List.mem_cons.1 hi with rfl | hir
    · rw [State.rd_scoreParts_of_not_mem hstep fun h => Nat.lt_irrefl _ (har _ h), State.rd_scorePart_self hs]
    · rw [ih hstep hr hir, State.nextScore_scorePart hs (har i hir)]

theorem natsFrom_eq_range' (a n : Nat) : natsFrom a n = List.range' a n := by
  induction n generalizing a with
  | zero => rfl
  | succ n ih => rw [natsFrom, ih, List.range'_succ]

/-! ## The events of a score update (R433, R437) -/

theorem State.error_reports (s : State) (t lodge part w2 w3 : Nat) : Reports eventKey s (s.error t lodge part w2 w3) := by
  have hlog {u : State} (e : Ev) : Reports eventKey u (u.logWrite e) :=
    (State.logWrite_reports u e).mono fun k (h : k = _) => by subst h; unfold eventKey; decide
  have hport (e : Ev) : Reports eventKey s (s.toPorter e) :=
    (State.toPorter_reports s e).mono fun k (h : k = _) => by subst h; unfold eventKey; decide
  have hsources (u : State) (x : Tbl (Nat × Nat)) : Reports eventKey u { u with hlt := { u.hlt with sources := x } } := .of_regs rfl rfl
  refine .ite ((hport _).trans (.ite ((hsources _ _).trans (hlog _)) ((hsources _ _).trans (.wr _ _ ?_))))
    ((hsources _ _).trans (Reports.trans (.wr _ _ ?_) (.of_regs rfl rfl)))
  all_goals
    unfold eventKey
    decide

theorem State.alarmHealth_reports (s : State) (lodge part w2 w3 : Nat) : Reports eventKey s (s.alarm 0x07 lodge part w2 w3) := by
  have hafter : Reports eventKey (s.alarmRegs 0x07 w2) (s.alarm 0x07 lodge part w2 w3) :=
    (s.alarm_reports_after ..).mono fun k (h : k = _) => by subst h; unfold eventKey; decide
  have hkey (f : Fld) (i : Nat) (h : f.key i 0 < Reg.hltScoreValue.key 0 0) : eventKey (f.key i 0) := h
  exact ((((Reports.wr _ _ (hkey _ _ (by decide))).trans (.wr _ _ (hkey _ _ (by decide)))).trans
    (.wr _ _ (hkey _ _ (by decide)))).trans (.wr _ _ (hkey _ _ (by decide)))).trans hafter

theorem State.alarmPart_reports (s : State) (i : Nat) : Reports eventKey s (s.alarmPart i) := by
  unfold State.alarmPart
  dsimp only
  refine Reports.trans ?_ (.ite (State.alarmHealth_reports ..) (.refl _))
  exact .of_regs rfl rfl

theorem State.warnPart_reports (s : State) (i : Nat) : Reports eventKey s (s.warnPart i) := by
  unfold State.warnPart
  dsimp only
  refine Reports.trans ?_ (.ite (State.error_reports ..) (.refl _))
  exact .of_regs rfl rfl

theorem Reports.foldl {K : Nat → Prop} {α : Type} {f : State → α → State} (hf : ∀ u a, Reports K u (f u a)) (l : List α) :
    Reports K s (l.foldl f s) :=
  List.foldlRecOn (motive := Reports K s) l f (.refl s) fun _ h a _ => h.trans (hf _ a)

/-- The events of an update leave the scores. -/
theorem State.rd_scoreUpdate (hs : s.Inv) (h : i < partCount) : s.scoreUpdate.rd Reg.hltScoreValue i = s.nextScore i := by
  let u := (natsFrom 0 partCount).foldl (fun (s : State) i => s.scorePart i) s
  have hu : u.Inv := (Keeps.foldl (Keeps.refl s) fun v a hv => State.scorePart_keeps hv).inv hs
  have hevents : Reports eventKey u s.scoreUpdate :=
    (Reports.foldl State.alarmPart_reports _).trans (Reports.foldl State.warnPart_reports _)
  rw [hevents.rd hu (not_eventKey_score i)]
  have hmem : i ∈ natsFrom 0 partCount := by
    rw [natsFrom_eq_range', List.mem_range'_1]
    omega
  have hrise : (natsFrom 0 partCount).Pairwise (· < ·) := by
    rw [natsFrom_eq_range']
    exact List.pairwise_lt_range'
  exact State.rd_scoreParts hs hrise hmem

end

/-- Settles O10: the parts are updated in ascending order, and their events write none of the scores. -/
theorem scoresAge : Obligations.ScoresAge := by
  unfold Obligations.ScoresAge
  intro s t i hs hi he
  obtain rfl := Host.Outcome.next.inj he
  exact State.rd_scoreUpdate hs hi

/-! ## The event log and Porter's summaries (R431, R434, R451) -/

section
variable {s : State}

theorem State.logEnable_of_off (h : s.on Reg.hltCtrlLogEn = false) :
    s.logEnable true = (((s.wr Reg.hltCtrlLogEn 1).wr Reg.hltLogProdCount 0).wr Reg.hltLogConsCount 0).logAlarms 64 :=
  if_pos (by rw [h]; rfl)

/-- A class raised and not forwarded: its two counts of a summary. -/
def Hlt.summaryCounts (h : Hlt) (k : Nat) : List Nat := [min 65535 (Tbl.get 0 k h.raised), min 65535 (Tbl.get 0 k h.unsent)]

theorem State.porterSummary_of_full (h : 32 ≤ s.hlt.portq.length) :
    s.porterSummary = { s with
      prt := { s.prt with
        summaries := s.prt.summaries ++ [s.hlt.summaryCounts 0 ++ s.hlt.summaryCounts 1 ++ s.hlt.summaryCounts 2] }
      hlt := { s.hlt with raised := [], unsent := [] } } :=
  if_neg (Nat.not_lt.2 h)

/-! ## Self-tests, held slots and shrinking (R438, R440, R442) -/

variable {c k m : Nat}

/-- A test of a core that ends at stage 3. -/
theorem State.selfTest_of_untested (hstage : s.stage = 3) (hnew : c ∉ s.pwr.tested) (pass : Bool) :
    s.selfTest c pass =
      let u : State := { s with pwr := { s.pwr with tested := sortDedup (c :: s.pwr.tested) } }
      if pass then u.wr Reg.hltCorePassPass 1 c else (u.wr Reg.hltCorePassPass 0 c).quarantine c 1 := by
  have hgo : ¬ (s.stage ≠ 3 ∨ s.pwr.tested.contains c = true) := by simp [hstage, hnew]
  refine (if_neg hgo).trans ?_
  cases pass <;> rfl

theorem bitList_two_pow (k : Fin 8) : bitList 8 (2 ^ k.val) = [k.val] := by
  revert k
  decide

/-- A held slot whose step runs: the step starts anew. -/
theorem State.resumeSlot_of_running (hheld : k ∈ s.hlt.held) (hrun : (s.slotOf k).running = true) :
    s.resumeSlot k = ((s.unheld k).modSlot k fun x => { x with started := s.now, nodeAt := [] }).restart k := by
  have hrun' : ((s.unheld k).slotOf k).running = true := hrun
  exact (if_pos (List.contains_iff_mem.2 hheld)).trans (congrArg (fun u : State => u.restart k) (if_pos hrun'))

theorem State.shrinkGo_of_follower
    (hnone : ((s.wr Reg.hltShrinkMember m).wr Reg.hltShrinkSlot k).shrinking k = false)
    (hother : member ((s.wr Reg.hltShrinkMember m).wr Reg.hltShrinkSlot k).self ≠ m) :
    s.shrinkGo k m = ((s.wr Reg.hltShrinkMember m).wr Reg.hltShrinkSlot k).modSlot k fun x => { x with shrink := some m } := by
  simp [State.shrinkGo, hnone, hother]

/-! ## HLT_VERIFY (R447) -/

variable {rows : List (Nat × Nat × List Byte)}

/-- HLT_VERIFY without the results of the run before. -/
def State.verifyCleared (s : State) : State :=
  ((s.wr Reg.hltVerifyErr 0).wr Reg.hltVerifyMismatch 0).wr Reg.hltVerifyFirstFirstBad 0

theorem State.verifyStart_of_rows (hidle : s.on Reg.hltVerifyBusy = false) (hrows : s.verifyCleared.verifyRows = some rows) :
    s.verifyStart = s.verifyCleared.wr Reg.hltVerifyBusy 1 := by
  rw [State.verifyCleared] at hrows
  simp only [State.verifyStart, hidle, hrows, Bool.false_eq_true, if_false]
  rfl

/-- A run over a good table compares every range. -/
theorem State.verifyDone_of_rows (hbusy : s.on Reg.hltVerifyBusy = true) (hrows : (s.wr Reg.hltVerifyBusy 0).verifyRows = some rows) :
    s.verifyDone =
      let u := s.wr Reg.hltVerifyBusy 0
      let bad := rows.zipIdx.filter fun e => u.rangeDiffers e.1
      (((bad.foldl (fun (t : State) e =>
        (t.bump Reg.hltCopyDiffCount).error 0x46 (u.rd Reg.hltVerifyLodge) 0xFF (e.2 * 2 ^ 32) e.1.1) u).wr Reg.hltVerifyMismatch
        (min 4095 bad.length)).wr Reg.hltVerifyFirstFirstBad ((bad.map Prod.snd).headD 0)).repairVerify (bad == []) := by
  simp only [State.verifyDone, hbusy, hrows, Bool.not_true, Bool.false_eq_true, if_false]
  generalize (rows.zipIdx.filter fun e => (s.wr Reg.hltVerifyBusy 0).rangeDiffers e.1) = bad
  cases bad <;> rfl

/-! ## Device faults (R450) -/

theorem State.deviceFault_of_resource {resource : Nat} (h : resource ≤ 5) (index : Nat) :
    s.deviceFault resource index =
      let src := faultSource resource
      let i := if resource = 3 ∨ resource = 4 then index % 8 else 0
      let u := (s.wr Reg.hltStatusDeviceFault 1).alarm 0x09 0xF 0xFF (resource + i * 2 ^ 8 + src * 2 ^ 16) 0
      ((natsFrom 0 16).filter fun l => u.lodge l == 1).foldl (fun (t : State) l =>
        t.faultLodge l (if src = 7 then St.lodgeFaulted else St.memUncorr) src 0 0 0) u :=
  if_neg (Nat.not_lt.2 h)

end

/-- Settles O54: the rows of the event log and of the scores are their handlers, the others one case of theirs. -/
theorem healthCommands : Obligations.HealthCommands := by
  unfold Obligations.HealthCommands
  refine ⟨fun s n => ⟨?logOn, rfl, rfl, ?summary, rfl⟩, fun s core slot m rows resource index => ?_⟩
  case logOn => exact fun h => next_congr (State.logEnable_of_off h)
  case summary => exact fun h => next_congr (State.porterSummary_of_full h)
  intro c
  refine ⟨?selfTest, ?resume, ?shrink, ?verify, ?verified, ?fault⟩
  case selfTest =>
    intro hstage hnew u
    exact ⟨next_choices_congr (State.selfTest_of_untested hstage hnew true), next_choices_congr (State.selfTest_of_untested hstage hnew false)⟩
  case resume =>
    intro hheld hrun
    refine next_choices_congr ?_
    rw [State.resumeSlots, bitList_two_pow]
    exact State.resumeSlot_of_running hheld hrun
  case shrink => exact fun hnone hother => next_congr (State.shrinkGo_of_follower hnone hother)
  case verify => exact fun hidle hrows => next_congr (State.verifyStart_of_rows hidle hrows)
  case verified => exact fun hbusy hrows => next_congr (State.verifyDone_of_rows hbusy hrows)
  case fault => exact fun h => next_choices_congr (State.deviceFault_of_resource h index)

end Sys2Proof.Machine
end

section
/-!
PROOFS. The statements of 17_clocks_power_bringup.md: the RVE_RESET sequence, the cap, power-up and power-down, bring-up, power and sensors.
-/

namespace Sys2Proof.Machine

/-! ## The RVE_RESET sequence (R456) -/

/-- The second value still counts: the first came within 1 ms. -/
def State.keyOpen (s : State) : Prop := ∃ t, s.pwr.key = some t ∧ s.now - t ≤ 1000000

section
variable {s : State} {v : Nat}

theorem State.resetKey_of_first : s.resetKey 0x5EED0001 = { s with pwr := { s.pwr with key := some s.now } } := rfl

theorem State.resetKey_of_second (hopen : s.keyOpen) : s.resetKey 0x5EED0002 = s.moduleReset 3 := by
  obtain ⟨t, hkey, ht⟩ := hopen
  simp [State.resetKey, hkey, ht]

theorem State.resetKey_of_other (hfirst : v ≠ 0x5EED0001) (hsecond : ¬ (v = 0x5EED0002 ∧ s.keyOpen)) :
    s.resetKey v = ({ s with pwr := { s.pwr with key := none } } : State).discard := by
  refine (if_neg hfirst).trans (if_neg fun h => hsecond ?_)
  obtain ⟨hv, hopen⟩ := Bool.and_eq_true_iff.1 h
  refine ⟨eq_of_beq hv, ?_⟩
  cases hkey : s.pwr.key with
  | none => simp [hkey] at hopen
  | some t => exact ⟨t, hkey, by simpa [hkey] using hopen⟩

/-- RVE_RESET is a register whose write is an action, of either port. -/
theorem exec_registerWrite_reset {p : BusPort} {w : Word32} (hr : s.reached p = true) :
    exec (.registerWrite p 0x00200044 w) s = .next (s.resetKey w.toNat).choices := by
  have hgranted : portWrites p 0x00200044 = true := by cases p <;> decide
  rw [exec_registerWrite_granted hr (by decide) (by decide) hgranted]
  exact next_choices_congr (State.regWrite_special (f := fun s _ _ v => s.resetKey v) (i := 0) (by decide) rfl)

end

/-- Settles O13: the three cases of the key, which the register takes from either port. -/
theorem resetSequence : Obligations.ResetSequence := by
  unfold Obligations.ResetSequence
  intro s v fresh off open_
  have hv (n : Word32) : v.toNat = n.toNat ↔ v = n := BitVec.toNat_inj
  refine ⟨?first, ?second, ?other, ?counted, fun p hr => exec_registerWrite_reset hr, rfl⟩
  case first =>
    rintro rfl
    exact next_congr State.resetKey_of_first
  case second =>
    rintro rfl hopen
    exact next_congr (State.resetKey_of_second hopen)
  case other =>
    intro hfirst hsecond
    refine next_congr (State.resetKey_of_other (fun h => hfirst ((hv _).1 h)) fun h => hsecond ?_)
    exact ⟨(hv 0x5EED0002#32).1 h.1, h.2⟩
  case counted =>
    intro hs
    exact State.rd_discard (s := off) ⟨hs.bytes, hs.store, hs.pad, hs.host, hs.regs, hs.cores⟩

/-! ## The cap (R461) -/

/-- A value that CAP_W takes: from 350 W to HIGHEST in steps of 25 W. -/
def State.capGood (s : State) (w : Nat) : Prop := 350 ≤ w ∧ w ≤ s.highest ∧ w % 25 = 0

/-- The registers that follow from the cap. -/
def capKey (k : Nat) : Prop := k = Reg.rveLimitTableDuty.key 0 0 ∨ k = Reg.rveLimitLoopSteps.key 0 0

section
variable {s : State} {w : Nat}

theorem State.capWrite_of_good (h : s.capGood w) : s.capWrite w = (s.wr Reg.rveCapCapW w).useCap := if_pos h

theorem State.capWrite_of_bad (h : ¬ s.capGood w) : s.capWrite w = s.discard.setBit Reg.rveErrBits 0 := if_neg h

theorem State.highest_le (s : State) : s.highest ≤ 700 := by
  unfold State.highest
  split <;> decide

theorem State.capGood.lt (h : s.capGood w) : w < 2 ^ Reg.rveCapCapW.width := by
  obtain ⟨_, hw, _⟩ := h
  exact (hw.trans s.highest_le).trans_lt (by decide)

/-- The table entry of a cap leaves every other register. -/
theorem State.rd_useCap {f : Fld} {i j : Nat} (hs : s.Inv) (hf : ¬ capKey (f.key i j)) : s.useCap.rd f i j = s.rd f i j := by
  unfold State.useCap
  refine (State.rd_wr_other ?_ fun h => hf (.inr h)).trans ?_
  · exact ⟨hs.bytes, hs.store, hs.pad, hs.host, Tbl.rising_set hs.regs, hs.cores⟩
  · exact State.rd_wr_other hs fun h => hf (.inl h)

theorem State.rd_capWrite_of_good (hs : s.Inv) (h : s.capGood w) : (s.capWrite w).rd Reg.rveCapCapW = w := by
  rw [State.capWrite_of_good h, State.rd_useCap hs.wr (by unfold capKey; decide), State.rd_wr_self hs]
  exact Nat.mod_eq_of_lt h.lt

/-- A cap refused stays, is marked and counted. -/
theorem State.rd_capWrite_of_bad (hs : s.Inv) (h : ¬ s.capGood w) :
    (s.capWrite w).rd Reg.rveCapCapW = s.rd Reg.rveCapCapW ∧ bitAt 0 ((s.capWrite w).rd Reg.rveErrBits) = true ∧
      (s.capWrite w).rd Reg.hifRegErrDiscard = min (2 ^ Reg.hifRegErrDiscard.width - 1) (s.rd Reg.hifRegErrDiscard + 1) := by
  have hd : s.discard.Inv := (State.discard_keeps (Keeps.refl s)).inv hs
  rw [State.capWrite_of_bad h]
  refine ⟨?_, ?_, ?_⟩
  · rw [State.setBit, State.rd_wr_other hd (by decide)]
    exact State.discard_reports.rd hs (by unfold discardKey; decide)
  · exact State.bitAt_putBit hd (by decide) true
  · rw [State.setBit, State.rd_wr_other hd (by decide)]
    exact State.rd_discard hs

/-- After all else has gone the cap is HIGHEST. -/
theorem State.rd_wiped_cap (s : State) : s.wiped.rd Reg.rveCapCapW = s.highest := by
  have hset : s.wiped.rd Reg.rveCapCapW = s.highest % 2 ^ Reg.rveCapCapW.width :=
    Tbl.get_set_rising _ (Tbl.rising_set (Tbl.rising_set (Tbl.rising_set rfl)))
  exact hset.trans (Nat.mod_eq_of_lt (s.highest_le.trans_lt (by decide)))

/-- Stage 0 begins: only the state of the reference and of the PLL is written. -/
theorem State.rd_stage0 {f : Fld} {i j : Nat} (hs : s.Inv) (href : f.key i j ≠ Reg.clkStatusRefOk.key 0 0)
    (hpll : f.key i j ≠ Reg.clkStatusSysLock.key 0 0) : s.stage0.rd f i j = s.rd f i j := by
  have hstart : ({ s with now := 0 } : State).Inv := ⟨hs.bytes, hs.store, hs.pad, hs.host, hs.regs, hs.cores⟩
  exact (State.rd_wr_other hstart.wr hpll).trans (State.rd_wr_other hstart href)

/-- What a module reset leaves in the cap (R461). -/
theorem State.rd_moduleReset_cap (hs : s.Inv) (cause : Nat) : (s.moduleReset cause).rd Reg.rveCapCapW = s.highest := by
  have hw : s.wiped.Inv := (State.wiped_keeps (Keeps.refl s)).inv hs
  rw [State.moduleReset, State.rd_stage0 hw.wr.wr (by decide) (by decide), State.rd_wr_other hw.wr (by decide),
    State.rd_wr_other hw (by decide), State.rd_wiped_cap]

end

/-- Settles O14: the cap is taken or left by its two cases, and a reset writes HIGHEST last. -/
theorem capWrites : Obligations.CapWrites := by
  unfold Obligations.CapWrites
  intro s w hs highest good
  refine ⟨rfl, fun hw => ?_, fun hw => ?_, State.rd_moduleReset_cap hs 4, rfl⟩
  · refine ⟨_, rfl, State.rd_capWrite_of_good hs hw, fun x hx => ⟨_, rfl, State.rd_capWrite_of_good ?_ ?_⟩⟩
    · exact (State.capWrite_keeps (Keeps.refl s)).inv hs
    · have hhigh : (s.capWrite w).highest = s.highest := by
        rw [State.highest, (State.capWrite_keeps (Keeps.refl s)).variant, State.highest]
      rw [State.capGood, hhigh]
      exact hx
  · exact ⟨_, rfl, State.rd_capWrite_of_bad hs hw⟩

/-! ## Power-up and module resets (R454, R455, R469, R492, R494) -/

section
variable {s : State}

theorem State.powerUp_of_off (hoff : s.powered = false) (hwait : s.pwr.waitOn = false) (hdue : s.pwr.mrstDue = false) :
    s.powerUp = (({ s with pwr := { s.pwr with rails := 2, switch := true } } : State).wiped.wr Reg.rveCauseLastReset 0).stage0 := by
  simp only [State.powerUp, hoff, hwait, hdue, Bool.or_self, Bool.false_eq_true, if_false]

theorem State.mrstPin_low_of_powered (hp : s.powered = true) :
    s.mrstPin true = ({ s with pwr := { s.pwr with mrst := true } } : State).moduleReset 1 := if_pos hp

theorem State.refLoss_of_powered (hp : s.powered = true) :
    s.refLoss = ({ (s.bump Reg.clkRefLossCount).moduleReset 5 with
      pwr := { ((s.bump Reg.clkRefLossCount).moduleReset 5).pwr with refHeld := true } } : State).stage0 := if_pos hp

theorem State.refBack_of_held (h : s.pwr.refHeld = true) : s.refBack = ({ s with pwr := { s.pwr with refHeld := false } } : State).stage0 :=
  if_pos h

/-! ## Power-down (R467 to R469, R494) -/

/-- What a power-down leaves of a powered module: the compute rails are off, the cause is LAST_OFF. -/
def State.offBy (s : State) (cause : Nat) : State :=
  { ({ s.wiped with pwr := { s.wiped.pwr with offAt := some s.now } } : State).wr Reg.rveCauseLastOff cause with
    pwr := { s.wiped.pwr with offAt := some s.now, rails := if cause = 6 then 0 else 1,
                              switch := s.pwr.switch && (cause == 4 || cause == 5),
                              waitOn := (cause == 4 || cause == 5 || s.pwr.waitOn) && cause != 6 } }

theorem opensSwitch_eq {cause : Nat} (h : cause ∈ [1, 2, 3, 4, 5, 6]) : (!opensSwitch cause) = (cause == 4 || cause == 5) := by
  revert cause
  decide

theorem State.powerDown_of_powered {cause : Nat} (hp : s.powered = true) (hc : cause ∈ [1, 2, 3, 4, 5, 6]) :
    s.powerDown cause = s.offBy cause := by
  have hrails : min s.wiped.pwr.rails 1 = 1 := by
    have h2 : s.wiped.pwr.rails = 2 := eq_of_beq hp
    rw [h2]
    rfl
  simp only [State.powerDown, hp, if_true, opensSwitch_eq hc, hrails, State.offBy]

theorem State.rd_offBy_cause (s : State) : (s.offBy 4).rd Reg.rveCauseLastOff = 4 := by
  have hregs : (s.offBy 4).regs = (({ s.wiped with pwr := { s.wiped.pwr with offAt := some s.now } } : State).wr Reg.rveCauseLastOff 4).regs := rfl
  rw [State.rd_of_regs hregs]
  exact State.rd_wr_self_of_ne (by decide)

theorem State.thermalTrip_of_hot {n t : Nat} (hn : n ≠ 7) (hp : (s.reading n t).powered = true) (ht : tripC n * 4 ≤ t) :
    s.thermalTrip n t = ((s.reading n t).offBy 4).wr Reg.rveCauseTripSensor n := by
  simp only [State.thermalTrip, hn, if_false, hp, ht, true_or, and_true, if_true, State.powerDown_of_powered hp (cause := 4) (by decide),
    State.rd_offBy_cause]

end

/-- Settles O55: power comes on, and every cause of a reset or of a power-down is one case of its handler. -/
theorem powerOnAndOff : Obligations.PowerOnAndOff := by
  unfold Obligations.PowerOnAndOff
  refine ⟨fun s => ⟨?on, ?resets, rfl, ?back⟩, fun s n t hp => ?down⟩
  case on =>
    intro hoff hwait hdue on
    have h := next_congr (State.powerUp_of_off hoff hwait hdue)
    exact ⟨h, h⟩
  case resets =>
    intro hp
    exact ⟨next_congr (State.mrstPin_low_of_powered hp), next_congr (if_pos hp),
      next_congr (State.refLoss_of_powered hp)⟩
  case back => exact fun h => next_congr (State.refBack_of_held h)
  case down =>
    intro off
    have down {cause : Nat} (hc : cause ∈ [1, 2, 3, 4, 5, 6]) : s.powerDown cause = off s cause := State.powerDown_of_powered hp hc
    refine ⟨next_congr (down (by decide)), next_congr (down (by decide)), ?_,
      next_congr (down (by decide)), rfl, fun hn hread ht => ?_⟩
    · exact congrArg (fun u : State => Host.Outcome.next (u.setBit Reg.rveErrBits 3)) (down (by decide))
    · exact next_congr (State.thermalTrip_of_hot hn hread ht)

/-! ## Bring-up (R457, R459, R460, R480, R481) -/

section
variable {s : State}

/-- The ROM has checked its own classes; verification comes next (R482). -/
def State.bootChecked (s : State) : State := s.wr Reg.tlgStatusClassesOk 1

/-- The ROM has extended measurements 0 to 3 (R480). -/
def State.bootMeasured (s : State) (b : Nat) : State :=
  (natsFrom 0 4).foldl (fun (t : State) k => t.extend k (sha384 (t.measured b k))) s

/-- What the ROM notes of the bank that it boots. -/
def State.bootNoted (s : State) (b : Nat) : State :=
  let v := Config.imageVersion b (s.bank b)
  { s with prt := { s.prt with booted := b }
           tlg := { s.tlg with version := v, fw := Config.imageFw b (s.bank b), rollback := max s.tlg.rollback v } }

theorem State.measuredBoot_of_good (hstage : s.stage = 0) (hp : s.powered = true) (href : s.pwr.refHeld = false)
    (hfail : s.on Reg.tlgStatusBootFail = false) (hgood : s.bootChecked.verifyBank (s.prt.next % 2) = 0) :
    s.measuredBoot =
      (((s.bootChecked.bootMeasured (s.prt.next % 2)).bootNoted (s.prt.next % 2)).wr Reg.tlgStatusBootOk 1).wr Reg.glbStageStage 1 := by
  have hgo : ¬ (s.stage ≠ 0 ∨ (!s.powered) = true ∨ s.pwr.refHeld = true ∨ s.on Reg.tlgStatusBootFail = true) := by
    simp [hstage, hp, href, hfail]
  rw [State.bootChecked] at hgood
  simp only [State.measuredBoot, if_neg hgo, State.wr_prt, hgood, if_true]
  rfl

theorem State.t2Trained_of_enough {channels : Nat} (hstage : s.stage = 1) (hn : 28 ≤ popcount 32 channels) (width : Nat) :
    s.t2Trained channels width =
      ((((((s.wr Reg.memT2ChT2ch channels).wr Reg.memT2OfferFrames (t2Offer channels)).wr Reg.glbStageStage 2).wr
        Reg.hifStatusSpeed 4).wr Reg.hifStatusWidth width).wr Reg.clkStatusSerdesLock 1).trainPorts :=
  (if_neg (not_not.2 hstage)).trans (if_neg (Nat.not_lt.2 hn))

theorem State.t1Trained_of_stage (hstage : s.stage = 2) (hstop : 3 ≤ s.rd Reg.rveBringupStopAt) (pass : Nat) :
    s.t1Trained pass =
      let u := ((s.wr Reg.nbuSelftestPass pass).wr Reg.nbuSelftestFail (255 - pass)).wr Reg.glbStageStage 3
      if pass = 255 then u else u.setBit Reg.nbuErrBits 0 :=
  if_pos ⟨hstage, hstop⟩

theorem State.clockChange_of_idle (hpaused : s.paused = true) (hidle : s.allIdle = true) (speed : Nat) :
    s.clockChange speed =
      (((((s.wr Reg.rveLimitDuty 8).wr Reg.clkStatusCoreDiv 4).wr Reg.glbStageStage 4).useCap).wr Reg.hifStatusSpeed
        speed).retrainSlow.enumerate :=
  if_pos (by rw [hpaused, hidle]; rfl)

end

/-- Settles O56: each step of bring-up is one case of its handler. -/
theorem bringUp : Obligations.BringUp := by
  unfold Obligations.BringUp
  intro s b channels v width pass speed
  refine ⟨?boot, ?t2, ?t1, ?clock, fun h2 h4 => next_congr (if_pos ⟨h2, h4⟩), fun h => next_congr (if_neg (by omega))⟩
  case boot =>
    rintro u hstage hp href hfail rfl hgood
    exact next_congr (State.measuredBoot_of_good hstage hp href hfail hgood)
  case t2 => exact fun hstage hn => next_congr (State.t2Trained_of_enough hstage hn width)
  case t1 => exact fun hstage hstop => next_choices_congr (State.t1Trained_of_stage hstage hstop pass)
  case clock => exact fun hpaused hidle => next_choices_congr (State.clockChange_of_idle hpaused hidle speed)

/-! ## DUTY and the power loop (R463 to R465) -/

section
variable {s : State}

/-- The readings of a power loop (R464). -/
def State.powerRead (s : State) (avg peak mv ma mj : Nat) : State :=
  let a := s.wr Reg.rvePowerAvgW (min avg 4095)
  let u := (((a.wr Reg.rvePowerPeakW (max (a.rd Reg.rvePowerPeakW) (min peak 4095))).wr Reg.rveInputMv (min mv 65535)).wr
    Reg.rveInputMa (min ma 65535)).count Reg.rveEnergyMj mj
  u.wr Reg.rveStatusInLimit (if 20000 < ma then 1 else 0)

/-- The DUTY of the power loop, the table's until the loop has lowered it. -/
def State.loopDuty (s : State) : Nat := s.pwr.loop.getD (s.rd Reg.rveLimitTableDuty)

/-- Over the cap the loop lowers its DUTY by 2, to a floor of 8. -/
theorem State.powerLoop_of_over {avg peak mv ma mj : Nat} (below held : Bool)
    (hover : (s.powerRead avg peak mv ma mj).rd Reg.rveCapCapW < avg) (hfloor : 8 < (s.powerRead avg peak mv ma mj).loopDuty) :
    s.powerLoop avg peak mv ma mj below held =
      let u := s.powerRead avg peak mv ma mj
      (({ u with pwr := { u.pwr with loop := some (max 8 (u.loopDuty - 2)) } } : State).bump Reg.rveLoopCntCount).wr
        Reg.rveLimitLoopSteps (u.rd Reg.rveLimitTableDuty - max 8 (u.loopDuty - 2)) := by
  have hne : ¬ (held = true ∧ (s.powerRead avg peak mv ma mj).loopDuty = 8 ∧
      (s.powerRead avg peak mv ma mj).rd Reg.rveCapCapW + 25 < avg) := fun ⟨_, h8, _⟩ => Nat.ne_of_gt hfloor h8
  simp only [State.loopDuty, State.powerRead] at hover hfloor hne ⊢
  simp only [State.powerLoop, State.flag, decide_eq_true_eq, hover, hfloor, hne, and_self, if_true, if_false]
  rfl

theorem State.gateCore_of_empty {c : Nat} (hq : (s.core c).queue = []) (hp : (s.core c).places = []) :
    s.gateCore c = { s with pwr := { s.pwr with gated := sortDedup (c :: s.pwr.gated) } } := if_pos ⟨hq, hp⟩

/-! ## Sensors (R124, R467) -/

variable {n t : Nat}

theorem State.throttleDie_of_hot (h : (s.reading n t).rd Reg.rveThermThrottleC * 4 ≤ t) :
    s.throttleDie n t = (s.reading n t).setBit Reg.rveStatusThrottled n := if_pos h

theorem State.throttleDie_of_cool
    (h : t < ((s.reading n t).rd Reg.rveThermThrottleC - (s.reading n t).rd Reg.rveThermHystC) * 4) :
    s.throttleDie n t = (s.reading n t).clrBit Reg.rveStatusThrottled n :=
  (if_neg (by omega)).trans (if_pos h)

theorem State.thermalRead_of_rise (hn : n ≠ 7) (ht : alarmC n * 4 ≤ t) (hnew : n ∉ (s.reading n t).pwr.hot) :
    s.thermalRead n t =
      (({ s.reading n t with pwr := { (s.reading n t).pwr with hot := sortDedup (n :: (s.reading n t).pwr.hot) } } : State).setBit
        Reg.rveErrBits 2).alarm 0x0A 0xF 0xFF (n + t * 2 ^ 8) 0 :=
  (if_neg hn).trans ((if_pos ht).trans (if_neg (by simpa using hnew)))

theorem State.thermalRead_of_hot (hn : n ≠ 7) (ht : alarmC n * 4 ≤ t) (hhot : n ∈ (s.reading n t).pwr.hot) :
    s.thermalRead n t = s.reading n t :=
  (if_neg hn).trans ((if_pos ht).trans (if_pos (List.contains_iff_mem.2 hhot)))

theorem State.thermalRead_of_cool (hn : n ≠ 7) (ht : t < (alarmC n - 5) * 4) :
    s.thermalRead n t =
      { s.reading n t with pwr := { (s.reading n t).pwr with hot := (s.reading n t).pwr.hot.filter (· != n) } } :=
  (if_neg hn).trans ((if_neg (by omega)).trans (if_pos ht))

end

/-- Settles O57: each row of power and of the sensors is one case of its handler, after the readings it takes. -/
theorem powerAndSensors : Obligations.PowerAndSensors := by
  unfold Obligations.PowerAndSensors
  refine ⟨fun s w avg peak mv ma mj below held core => ?power, fun s die n t stack => ?sensors⟩
  case power =>
    refine ⟨fun hlo hhi hstep => next_congr (State.capWrite_of_good ⟨hlo, hhi, hstep⟩),
      fun hbad => next_congr (State.capWrite_of_bad ?_), rfl, ?loop, fun hq hp => next_congr (State.gateCore_of_empty hq hp)⟩
    · rintro ⟨hlo, hhi, hstep⟩
      unfold State.highest at hhi
      omega
    case loop =>
      intro a u u' d hover hfloor _
      exact next_congr (State.powerLoop_of_over below held hover hfloor)
  case sensors =>
    refine ⟨⟨fun h => next_congr (State.throttleDie_of_hot h), fun h => next_congr (State.throttleDie_of_cool h)⟩, ?thermal, rfl, rfl⟩
    case thermal =>
      intro hn u limit
      exact ⟨fun ht hnew => next_congr (State.thermalRead_of_rise hn ht hnew), fun ht hhot => next_congr (State.thermalRead_of_hot hn ht hhot),
        fun ht => next_congr (State.thermalRead_of_cool hn ht)⟩

end Sys2Proof.Machine
end

section
/-!
PROOFS. The statements of 18_porter_and_tollgate.md: reply frames, PPS_IN, Porter's frames and transports.
-/

namespace Sys2Proof.Machine

/-! ## Reply frames (R473, R474) -/

theorem crc8Bit_lt {c : Nat} (h : c < 256) : crc8Bit c < 256 := by
  unfold crc8Bit
  split
  · exact Nat.xor_lt_two_pow (n := 8) (Nat.mod_lt _ (by decide)) (by decide)
  · omega

theorem crc8_lt (bs : List Byte) : crc8 bs < 256 := by
  refine List.foldlRecOn (motive := fun c => c < 256) bs _ (by decide) fun c hc b _ => ?_
  exact crc8Bit_lt <| crc8Bit_lt <| crc8Bit_lt <| crc8Bit_lt <| crc8Bit_lt <| crc8Bit_lt <| crc8Bit_lt <| crc8Bit_lt <|
    Nat.xor_lt_two_pow (n := 8) hc b.isLt

/-- Bytes followed by their own CRC-8 have the CRC-8 zero. -/
theorem crc8_append_self (bs : List Byte) : crc8 (bs ++ [byteOf (crc8 bs)]) = 0 := by
  have hbyte : (byteOf (crc8 bs)).toNat = crc8 bs := Nat.mod_eq_of_lt (crc8_lt bs)
  have hclear : Nat.xor (crc8 bs) (byteOf (crc8 bs)).toNat = 0 := by
    rw [hbyte]
    exact Nat.xor_self _
  rw [crc8, List.foldl_append, List.foldl_cons, List.foldl_nil, ← crc8, hclear]
  rfl

/-- Settles O12: the check byte clears the remainder, and COUNT is the third byte. -/
theorem replyFramesCheck : Obligations.ReplyFramesCheck := by
  unfold Obligations.ReplyFramesCheck
  intro tag status data
  refine ⟨crc8_append_self _, ?_, fun h => ?_⟩
  · simp [replyFrame]
  · exact Nat.mod_eq_of_lt (show data.length / 4 < 256 by omega)

/-! ## PPS_IN (R485) -/

/-- An edge of PPS_IN that counts: high for 100 ns, 500 ms after the last accepted. -/
def State.ppsGood (s : State) (high : Nat) : Prop := 100 ≤ high ∧ ∀ p, s.prt.pps = some p → 500000000 ≤ s.now - p

/-- The registers of an accepted edge (R485). -/
def State.ppsLatched (s : State) : State :=
  (((s.wr Reg.prtPpsTsNs s.now).wr Reg.prtPpsStNs s.spanTime).wr Reg.prtPpsFtNs s.fieldTime).count Reg.prtPpsCntCount

/-- The state after an accepted edge. -/
def State.ppsAccepted (s : State) : State := { s with regs := s.ppsLatched.regs, prt := { s.prt with pps := some s.now } }

theorem State.ppsAccepted_regs (s : State) : s.ppsAccepted.regs = s.ppsLatched.regs := rfl

section
variable {s : State} {high : Nat}

theorem State.ppsEdge_of_good (h : s.ppsGood high) : s.ppsEdge high = s.ppsAccepted := by
  obtain ⟨hlong, hlate⟩ := h
  unfold State.ppsEdge
  dsimp only
  rw [if_pos]
  · simp [State.ppsAccepted, State.ppsLatched]
  · refine Bool.and_eq_true_iff.2 ⟨decide_eq_true hlong, ?_⟩
    cases hp : s.prt.pps with
    | none => rfl
    | some t => exact decide_eq_true (hlate t hp)

theorem State.ppsEdge_of_other (h : ¬ s.ppsGood high) : s.ppsEdge high = s.bump Reg.prtPpsRejectCount := by
  refine if_neg fun hgo => h ?_
  obtain ⟨hlong, hlate⟩ := Bool.and_eq_true_iff.1 hgo
  refine ⟨of_decide_eq_true hlong, fun p hp => ?_⟩
  rw [hp] at hlate
  exact of_decide_eq_true hlate

theorem State.spanTime_congr {t : State} (hnow : t.now = s.now) (hlnk : t.lnk = s.lnk) : t.spanTime = s.spanTime := by
  rw [State.spanTime, State.spanTime, hnow, hlnk]

theorem State.fieldTime_congr {t : State} (hnow : t.now = s.now) (hfld : t.fld = s.fld) : t.fieldTime = s.fieldTime := by
  rw [State.fieldTime, State.fieldTime, hnow, hfld]

theorem State.spanTime_lt (s : State) : s.spanTime < 2 ^ 64 := by
  unfold State.spanTime
  have hlt : ((s.now : Int) + s.lnk.offset).emod (2 ^ 64) < 2 ^ 64 := Int.emod_lt_of_pos _ (by decide)
  omega

theorem State.fieldTime_lt (s : State) : s.fieldTime < 2 ^ 64 := by
  unfold State.fieldTime
  have hlt : ((s.now : Int) + s.fld.offset).emod (2 ^ 64) < 2 ^ 64 := Int.emod_lt_of_pos _ (by decide)
  omega

/-- An accepted edge leaves the three times and the raised count. -/
theorem State.rd_ppsAccepted (hs : s.Inv) :
    s.ppsAccepted.rd Reg.prtPpsTsNs = s.now % 2 ^ 64 ∧ s.ppsAccepted.rd Reg.prtPpsStNs = s.spanTime ∧
      s.ppsAccepted.rd Reg.prtPpsFtNs = s.fieldTime ∧
      s.ppsAccepted.rd Reg.prtPpsCntCount = (s.rd Reg.prtPpsCntCount + 1) % 2 ^ 32 ∧
      s.ppsAccepted.rd Reg.prtPpsRejectCount = s.rd Reg.prtPpsRejectCount := by
  simp only [State.rd_of_regs s.ppsAccepted_regs]
  have hcnt {f : Fld} (h : f.key 0 0 ≠ Reg.prtPpsCntCount.key 0 0) :
      s.ppsLatched.rd f = (((s.wr Reg.prtPpsTsNs s.now).wr Reg.prtPpsStNs s.spanTime).wr Reg.prtPpsFtNs s.fieldTime).rd f :=
    State.rd_wr_other hs.wr.wr.wr h
  refine ⟨?_, ?_, ?_, ?_, ?_⟩
  · rw [hcnt (by decide), State.rd_wr_other hs.wr.wr (by decide), State.rd_wr_other hs.wr (by decide), State.rd_wr_self hs]
    rfl
  · rw [hcnt (by decide), State.rd_wr_other hs.wr.wr (by decide), State.rd_wr_self hs.wr]
    exact Nat.mod_eq_of_lt s.spanTime_lt
  · rw [hcnt (by decide), State.rd_wr_self hs.wr.wr]
    exact Nat.mod_eq_of_lt s.fieldTime_lt
  · rw [State.ppsLatched, State.rd_count_self hs.wr.wr.wr, State.rd_wr_other hs.wr.wr (by decide),
      State.rd_wr_other hs.wr (by decide), State.rd_wr_other hs (by decide)]
    rfl
  · rw [hcnt (by decide), State.rd_wr_other hs.wr.wr (by decide), State.rd_wr_other hs.wr (by decide),
      State.rd_wr_other hs (by decide)]

end

/-- Settles O15: an edge is accepted or rejected, and either writes registers and the time of the last edge alone. -/
theorem ppsEdges : Obligations.PpsEdges := by
  unfold Obligations.PpsEdges
  intro s high hs good
  refine ⟨s.ppsEdge high, rfl, ?_⟩
  by_cases hgood : s.ppsGood high
  · rw [State.ppsEdge_of_good hgood]
    obtain ⟨hts, hst, hft, hcnt, hreject⟩ := State.rd_ppsAccepted hs
    exact ⟨rfl, State.spanTime_congr rfl rfl, State.fieldTime_congr rfl rfl, rfl,
      fun _ => ⟨hts, hst, hft, hcnt, hreject, rfl⟩, fun h => absurd hgood h⟩
  · rw [State.ppsEdge_of_other hgood]
    exact ⟨rfl, State.spanTime_congr rfl rfl, State.fieldTime_congr rfl rfl, rfl, fun h => absurd h hgood,
      fun _ => ⟨rfl, State.rd_bump_self hs⟩⟩

/-! ## Frames (R472 to R475) -/

section
variable {s : State} {t : FramePort} {tag arg count : Nat}

/-- What SPI shifts out is Porter's own. -/
theorem State.shiftOut_eq (s : State) (t : FramePort) : s.shiftOut t = { s with prt := (s.shiftOut t).prt } := by cases t <;> rfl

/-- A reply is Porter's own. -/
theorem State.reply_eq (s : State) (t : FramePort) (tag status : Nat) (data : List Byte) :
    s.reply t tag status data = { s with prt := (s.reply t tag status data).prt } := by cases t <;> rfl

theorem State.powered_shiftOut : (s.shiftOut t).powered = s.powered := by
  rw [State.shiftOut_eq]
  rfl

theorem State.powered_reply {status : Nat} {data : List Byte} : (s.reply t tag status data).powered = s.powered := by
  rw [State.reply_eq]
  rfl

theorem State.coolEnough_shiftOut : (s.shiftOut t).coolEnough = s.coolEnough := by
  rw [State.shiftOut_eq]
  rfl

/-- Whether the device is drained says nothing of Porter or of power. -/
theorem State.drained_setPrtPwr (s : State) (p : Prt) (w : Pwr) : ({ s with prt := p, pwr := w } : State).drained = s.drained := rfl

/-- A frame on a port that is on, while Porter is live. -/
theorem State.frame_of_live (hon : s.portOn t = true) (hlive : s.porterLive = true) (rom bad : Bool) (run : State → State) :
    s.frame t tag rom bad run = if bad then (s.shiftOut t).reply t tag St.badOperand else run (s.shiftOut t) := by
  simp only [State.frame, hon, hlive, Bool.not_true, Bool.false_eq_true, if_false, if_true]

theorem regArgsBad_eq_false (ha : arg % 4 = 0) (hpos : 0 < count) (hend : arg + 4 * count ≤ 2 ^ 26) (hmax : count ≤ 16) :
    regArgsBad arg count = false := by
  simp [regArgsBad]
  omega

section
variable (hon : s.portOn t = true) (hlive : s.porterLive = true)
include hon hlive

theorem State.frameFetch_of_zero : s.frameFetch t tag 0 0 = (s.shiftOut t).reply t tag St.ok := State.frame_of_live hon hlive ..

theorem State.frameFetch_of_bad (hbad : arg ≠ 0 ∨ count ≠ 0) : s.frameFetch t tag arg count = (s.shiftOut t).reply t tag St.badOperand :=
  (State.frame_of_live hon hlive ..).trans (if_pos (by simpa using hbad))

theorem State.frameRead_of_live (hargs : regArgsBad arg count = false) :
    s.frameRead t tag arg count = ((s.shiftOut t).readRun arg count).1.reply t tag St.ok ((s.shiftOut t).readRun arg count).2 := by
  simp only [State.frameRead, State.frame_of_live hon hlive, hargs, Bool.false_eq_true, if_false]

theorem State.frameWrite_of_live {data : List Nat} (hargs : regArgsBad arg count = false) (hlen : data.length = count)
    (hstage : ((s.shiftOut t).writeRun arg data).stage ≠ 0) :
    s.frameWrite t tag arg count data = ((s.shiftOut t).writeRun arg data).reply t tag St.ok := by
  simp [State.frameWrite, State.frame_of_live hon hlive, hargs, hlen, hstage]

theorem State.frameStage_of_live {data : List Nat} (ha : arg % 4 = 0) (hpos : 0 < count) (hend : arg + 4 * count ≤ 2 ^ 25)
    (hmax : count ≤ 64) (hlen : data.length = count) :
    s.frameStage t tag arg count data = ((s.shiftOut t).stageWords (arg / 4) data).reply t tag St.ok := by
  have hbad : (arg % 4 != 0 || count == 0 || decide (64 < count) || decide (2 ^ 25 < arg + 4 * count) || data.length != count) = false := by
    simp [ha, hlen]
    omega
  simp only [State.frameStage, State.frame_of_live hon hlive, hbad, Bool.false_eq_true, if_false]

theorem State.frameActivate_of_good (hgood : (s.shiftOut t).verifyBank (s.shiftOut t).staging = 0) :
    s.frameActivate t tag 0 0 =
      let w := (s.shiftOut t).wr Reg.prtFwVerify 0
      ({ w with prt := { w.prt with next := (s.shiftOut t).staging } } : State).reply t tag St.ok (leBytes 4 0) := by
  simp [State.frameActivate, State.frame_of_live hon hlive, hgood]

theorem State.frameActivate_of_bad (hbad : (s.shiftOut t).verifyBank (s.shiftOut t).staging ≠ 0) :
    s.frameActivate t tag 0 0 =
      ((s.shiftOut t).wr Reg.prtFwVerify ((s.shiftOut t).verifyBank (s.shiftOut t).staging)).reply t tag St.badOperand
        (leBytes 4 ((s.shiftOut t).verifyBank (s.shiftOut t).staging)) := by
  simp [State.frameActivate, State.frame_of_live hon hlive, hbad]

theorem State.frameEvents_of_live (hpos : 0 < count) (hmax : count ≤ 2) :
    s.frameEvents t tag 0 count = ((s.shiftOut t).takeEvents count).1.reply t tag St.ok ((s.shiftOut t).takeEvents count).2 := by
  have hbad : ((0 : Nat) != 0 || count == 0 || decide (2 < count)) = false := by
    simp
    omega
  simp only [State.frameEvents, State.frame_of_live hon hlive, hbad, Bool.false_eq_true, if_false]

/-! ## POWER and RESET (R455, R469) -/

/-- The reply is given before the power goes or the module is reset. -/
def State.replied (s : State) (t : FramePort) (tag : Nat) : State := (s.shiftOut t).reply t tag St.ok

end

theorem State.drained_replied : (s.replied t tag).drained = s.drained := by
  rw [State.replied, State.reply_eq, State.drained_setPrtPwr, State.shiftOut_eq, State.drained_setPrtPwr]

/-- An ordered power-off is noted. -/
def State.offOrdered (s : State) : State := { s with pwr := { s.pwr with offDue := true } }

theorem State.orderedOff_offOrdered : s.offOrdered.orderedOff =
    if s.drained then (s.offOrdered.powerDown 5).keepReplies s.offOrdered else s.offOrdered := by
  rw [State.orderedOff, State.offOrdered, State.drained_setPrtPwr]
  rfl

section
variable (hon : s.portOn t = true) (hlive : s.porterLive = true)
include hon hlive

theorem State.framePower_ordered (hp : s.powered = true) : s.framePower t tag 0 0 = (s.replied t tag).offOrdered.orderedOff := by
  simp [State.framePower, State.frame_of_live hon hlive, State.powered_reply, State.powered_shiftOut, hp, State.replied, State.offOrdered]

theorem State.framePower_forced (hp : s.powered = true) :
    s.framePower t tag 2 0 = ((s.replied t tag).powerDown 5).keepReplies (s.replied t tag) := by
  simp [State.framePower, State.frame_of_live hon hlive, State.powered_reply, State.powered_shiftOut, hp, State.replied]

theorem State.framePower_on_of_cool (hp : s.powered = false) (hcool : s.coolEnough = true) :
    s.framePower t tag 1 0 =
      ({ s.shiftOut t with pwr := { (s.shiftOut t).pwr with waitOn := false } } : State).reply t tag St.ok := by
  simp [State.framePower, State.frame_of_live hon hlive, State.powered_shiftOut, State.coolEnough_shiftOut, hp, hcool]

theorem State.framePower_on_of_hot (hp : s.powered = false) (hhot : s.coolEnough = false) :
    s.framePower t tag 1 0 = ((s.shiftOut t).bump Reg.prtRefusedCount).reply t tag St.busy := by
  simp [State.framePower, State.frame_of_live hon hlive, State.powered_shiftOut, State.coolEnough_shiftOut, hp, hhot]

theorem State.frameReset_of_powered (hp : s.powered = true) :
    s.frameReset t tag 0x5EED0001 0 = ((s.replied t tag).moduleReset 2).keepReplies (s.replied t tag) := by
  simp [State.frameReset, State.frame_of_live hon hlive, State.powered_reply, State.powered_shiftOut, hp, State.replied]

end

end

/-- Settles O58: a frame on a live port is its command's own effect on what SPI has shifted out. -/
theorem porterFrames : Obligations.PorterFrames := by
  unfold Obligations.PorterFrames
  refine ⟨fun s t tag arg count data hon hlive => ?frames, fun s t tag hon hlive => ?power⟩
  case frames =>
    intro u
    refine ⟨next_congr (State.frameFetch_of_zero hon hlive), fun hbad => next_congr (State.frameFetch_of_bad hon hlive hbad),
      fun ha hpos hend hmax => ?registers, fun ha hpos hend hmax hlen => next_congr (State.frameStage_of_live hon hlive ha hpos hend hmax hlen),
      ⟨fun hgood => ?good, fun hbad => next_congr (State.frameActivate_of_bad hon hlive hbad)⟩,
      fun hpos hmax => next_congr (State.frameEvents_of_live hon hlive hpos hmax)⟩
    case registers =>
      have hargs := regArgsBad_eq_false ha hpos hend hmax
      exact ⟨next_congr (State.frameRead_of_live hon hlive hargs),
        fun hlen hstage => next_choices_congr (State.frameWrite_of_live hon hlive hargs hlen hstage)⟩
    case good =>
      have hverify : u.verifyBank u.staging = 0 := hgood
      rw [hverify]
      exact next_congr (State.frameActivate_of_good hon hlive hgood)
  case power =>
    intro u r
    refine ⟨fun hp hbusy => ?waits, fun hp hdrained => ?drained, fun hp => next_congr (State.framePower_forced hon hlive hp),
      fun hp hcool => next_congr (State.framePower_on_of_cool hon hlive hp hcool),
      fun hp hhot => next_congr (State.framePower_on_of_hot hon hlive hp hhot), fun hp => next_congr (State.frameReset_of_powered hon hlive hp)⟩
    case waits =>
      refine next_congr ((State.framePower_ordered hon hlive hp).trans ?_)
      rw [State.orderedOff_offOrdered, State.drained_replied, hbusy]
      rfl
    case drained =>
      refine next_congr ((State.framePower_ordered hon hlive hp).trans ?_)
      rw [State.orderedOff_offOrdered, State.drained_replied, hdrained]
      rfl

/-! ## Transports (R476 to R479) -/

section
variable {s : State} {tag edges len : Nat}

/-- A frame with a bad CRC on a port on which a service listens is counted. -/
theorem State.badCrc_of_listens {t : FramePort} (h : s.listens t = true) :
    s.badCrc t tag =
      match t with
      | .smbus => ((s.shiftOut t).bump Reg.prtFrameErrCrc).reply t tag St.badReserved
      | _ => (s.shiftOut t).bump Reg.prtFrameErrCrc := by
  cases t <;> simp [State.badCrc, h]

theorem State.spiDiscard_of_partial (h : s.listens .spi = true) (hedges : edges % 8 ≠ 0) :
    s.spiDiscard edges len = (s.shiftOut .spi).bump Reg.prtFrameErrPartial :=
  (if_neg (by simp [h])).trans (if_pos hedges)

theorem State.spiDiscard_of_short (h : s.listens .spi = true) (hedges : edges % 8 = 0) (hshort : edges < 56 ∨ edges < 8 * len) :
    s.spiDiscard edges len = (s.shiftOut .spi).bump Reg.prtFrameErrShort :=
  (if_neg (by simp [h])).trans ((if_neg (not_not.2 hedges)).trans (if_pos hshort))

theorem State.spiDiscard_of_overlong (h : s.listens .spi = true) (hedges : edges % 8 = 0) (hmin : 56 ≤ edges) (hlong : 8 * len < edges) :
    s.spiDiscard edges len = ((s.shiftOut .spi).bump Reg.prtFrameErrOverlong).wr Reg.prtStatusOverlong 1 :=
  (if_neg (by simp [h])).trans ((if_neg (not_not.2 hedges)).trans ((if_neg (by omega)).trans (if_pos hlong)))

end

/-- Settles O59: each transport event is one case of its handler, and JTAG's registers are those of R484. -/
theorem porterTransports : Obligations.PorterTransports := by
  unfold Obligations.PorterTransports
  intro s tag edges len
  refine ⟨fun h => ⟨next_congr (State.badCrc_of_listens h), next_congr (if_pos h), next_congr (if_pos h)⟩,
    fun h => ⟨next_congr (State.badCrc_of_listens h), next_congr (if_pos h)⟩, ?spi,
    fun hon hlive => next_congr (if_pos (by rw [hon, hlive]; rfl)), rfl, rfl, rfl, rfl, rfl⟩
  case spi =>
    intro u h
    exact ⟨next_congr (State.badCrc_of_listens h), fun hedges => next_congr (State.spiDiscard_of_partial h hedges),
      fun hedges hshort => next_congr (State.spiDiscard_of_short h hedges hshort),
      fun hedges hmin hlong => next_congr (State.spiDiscard_of_overlong h hedges hmin hlong)⟩

end Sys2Proof.Machine
end

section
/-!
PROOFS. The statements of 02_compute.md on the tile scratchpads: what a window makes of a write, the grants of a bank's ports, and the zeroing
between lodges.
-/

namespace Sys2Proof.Tbl

/-- A filter leaves a key all of whose entries it keeps. -/
theorem get_filter_of_kept {α : Type} (d : α) {f : Nat × α → Bool} {k : Nat} (hk : ∀ v, f (k, v) = true) :
    ∀ {t : Tbl α}, rising t = true → get d k (t.filter f) = get d k t
  | [], _ => rfl
  | (j, v) :: r, h => by
    obtain ⟨habove, hr⟩ := rising_cons.1 h
    have ih := get_filter_of_kept d hk hr
    rw [List.filter_cons]
    split
    · simp only [get, ih]
    · have hj : j ≠ k := by
        rintro rfl
        exact absurd (hk v) (by assumption)
      rw [get, if_neg hj, ih]
      split
      · exact get_above d (by omega) habove
      · rfl

end Sys2Proof.Tbl

namespace Sys2Proof.Machine

/-! ## One access (R74) -/

section
variable {p : Pad} {c t : Nat} {q : PadReq} {w : PadWindow} {a : Nat}

theorem Pad.write_of_window (h : padWindow q.addr = some (w, a)) : p.write c t q =
    { p with bytes := Tbl.setRun 0 (padKey c t (a / 64 * 64)) (padMerge w (p.word c t a) q.data q.enable) p.bytes } := by
  simp only [Pad.write, h]

theorem PadReq.at_of_window (h : padWindow q.addr = some (w, a)) : q.at_ = a := by
  simp only [PadReq.at_, h]

theorem length_padMerge (w : PadWindow) (old data : List Byte) (enable : List Bool) : (padMerge w old data enable).length = 64 := by
  rw [padMerge, List.length_map, Tbl.length_natsFrom]

/-- A write leaves every byte outside its word. -/
theorem Pad.write_other (hp : Memory.wf p.bytes = true) (h : padWindow q.addr = some (w, a)) {k : Nat}
    (hk : k < padKey c t (a / 64 * 64) ∨ padKey c t (a / 64 * 64) + 64 ≤ k) :
    Tbl.get 0 k (p.write c t q).bytes = Tbl.get 0 k p.bytes := by
  rw [Pad.write_of_window h]
  exact Tbl.get_setRun_other _ _ _ hp (by rwa [length_padMerge])

/-- A write moves no port's turn. -/
theorem Pad.write_turns : (p.write c t q).readTurn = p.readTurn ∧ (p.write c t q).writeTurn = p.writeTurn := by
  unfold Pad.write
  split <;> exact ⟨rfl, rfl⟩

/-- What a write makes of the bytes depends on the bytes alone. -/
theorem Pad.write_bytes_congr {r : Pad} (h : r.bytes = p.bytes) : (r.write c t q).bytes = (p.write c t q).bytes := by
  unfold Pad.write
  split
  · exact h
  · simp only [Pad.word, h]

/-- Above 0xB_FFFF lies no window. -/
theorem padWindow_of_above {addr : Nat} (h : 0xBFFFF < addr) : padWindow addr = none := by
  unfold padWindow
  rw [if_neg (by omega), if_neg (by omega), if_neg (by omega)]

theorem padStatus_of_above {addr : Nat} (h : 0xBFFFF < addr) : padStatus addr = St.badOperand := by
  rw [padStatus, padWindow_of_above h]
  rfl

theorem Pad.write_of_above (h : 0xBFFFF < q.addr) : p.write c t q = p := by
  simp only [Pad.write, padWindow_of_above h]

end

/-! ## The ports of a bank (R72, R73) -/

section
variable {p : Pad} {c t b : Nat} {q : PadReq} {reqs : List PadReq} {turn : Nat} {write : Bool}

theorem portReqs_eq_nil_iff : portReqs write b reqs = [] ↔ ∀ q ∈ reqs, ¬ (q.write = write ∧ bankOf q.at_ = b) := by
  simp [portReqs, List.filter_eq_nil_iff]

theorem portPick_of_nil (h : portReqs write b reqs = []) : portPick turn write b reqs = none := by
  have hgrant : portGrant turn b [] = none := rfl
  simp only [portPick, h, List.map_nil, hgrant]

/-- The home master of a bank is granted first. -/
theorem portPick_of_home {rs : List PadReq} (hrs : portReqs write b reqs = rs) (hfind : rs.find? (fun x => x.master == b) = some q) :
    portPick turn write b reqs = some q := by
  have hmem : b ∈ rs.map (·.master) :=
    List.mem_map.2 ⟨q, List.mem_of_find?_eq_some hfind, eq_of_beq (List.find?_some (p := fun x : PadReq => x.master == b) hfind)⟩
  simp only [portPick, hrs, portGrant_home hmem, hfind]

/-- A master that asks alone is granted, home or not. -/
theorem portPick_of_single (h : portReqs write b reqs = [q]) : portPick turn write b reqs = some q := by
  have hgrant : portGrant turn b [q.master] = some q.master := by
    by_cases hb : b = q.master
    · rw [portGrant_home (List.mem_singleton.2 hb), hb]
    · have hno : [q.master].contains (homeMaster b) = false := by simpa [homeMaster] using hb
      obtain ⟨w, hw, hpick, -⟩ := rrPick_of_ascending (ptr := turn) (List.pairwise_singleton _ q.master) (List.cons_ne_nil _ _)
      rw [List.mem_singleton.1 hw] at hpick
      rw [portGrant, hno]
      exact hpick
  simp only [portPick, h, List.map_cons, List.map_nil, hgrant, List.find?_cons, beq_self_eq_true]

/-- A port at which nothing is asked for grants nothing. -/
theorem Pad.writePort_of_nil (h : portReqs true b reqs = []) : p.writePort c t b reqs = (p, reqs) := by
  simp only [Pad.writePort, portPick_of_nil h]

theorem Pad.readPort_of_nil (h : portReqs false b reqs = []) : p.readPort c t b reqs = (p, reqs, []) := by
  simp only [Pad.readPort, portPick_of_nil h]

end

/-! ## The ports of a tile in one cycle (R72, R73) -/

/-- A pass over a list in which one element acts and every other leaves what it finds. -/
theorem foldl_of_one_acts {α β : Type} {f : α → β → α} {a a' : α} {b : β} {l : List β} (hb : b ∈ l) (hn : l.Nodup) (hact : f a b = a')
    (hbefore : ∀ k ∈ l, k ≠ b → f a k = a) (hafter : ∀ k ∈ l, k ≠ b → f a' k = a') : l.foldl f a = a' := by
  have hidle (r : List β) (x : α) (h : ∀ k ∈ r, f x k = x) : r.foldl f x = x := by
    induction r with
    | nil => rfl
    | cons k r ih =>
      rw [List.foldl_cons, h k List.mem_cons_self]
      exact ih fun i hi => h i (List.mem_cons_of_mem k hi)
  obtain ⟨l₁, l₂, rfl⟩ := List.append_of_mem hb
  obtain ⟨h₁, h₂⟩ := not_or.1 (List.mem_append.not.1 (List.nodup_middle.1 hn).notMem)
  rw [List.foldl_append, hidle l₁ a fun k hk => hbefore k (List.mem_append_left _ hk) fun e => h₁ (e ▸ hk), List.foldl_cons, hact]
  exact hidle l₂ a' fun k hk => hafter k (List.mem_append_right _ (List.mem_cons_of_mem b hk)) fun e => h₂ (e ▸ hk)

theorem bankOf_mem (addr : Nat) : bankOf addr ∈ natsFrom 0 8 := by
  rw [natsFrom_eq_range', List.mem_range'_1]
  exact ⟨Nat.zero_le _, Nat.mod_lt _ (by decide)⟩

theorem nodup_natsFrom (a n : Nat) : (natsFrom a n).Nodup := by
  rw [natsFrom_eq_range']
  exact List.nodup_range'

theorem mem_of_mem_unwait {q x : PadReq} : ∀ {l : List PadReq}, x ∈ unwait q l → x ∈ l
  | [], h => h
  | y :: r, h => by
    unfold unwait at h
    split at h
    · exact List.mem_cons_of_mem y h
    · rcases List.mem_cons.1 h with rfl | hr
      · exact List.mem_cons_self
      · exact List.mem_cons_of_mem y (mem_of_mem_unwait hr)

/-- The write ports of a tile's banks, one after another. -/
def Pad.writePhase (p : Pad) (c t : Nat) (reqs : List PadReq) : Pad × List PadReq :=
  (natsFrom 0 8).foldl (fun (a : Pad × List PadReq) b => a.1.writePort c t b a.2) (p, reqs)

/-- And the read ports. -/
def Pad.readPhase (p : Pad) (c t : Nat) (reqs : List PadReq) : Pad × List PadReq × List (PadReq × List Byte) :=
  (natsFrom 0 8).foldl (fun (a : Pad × List PadReq × List (PadReq × List Byte)) b =>
    let r := a.1.readPort c t b a.2.1
    (r.1, r.2.1, a.2.2 ++ r.2.2)) (p, reqs, [])

theorem Pad.cycle_eq (p : Pad) (c t : Nat) (reqs : List PadReq) :
    p.cycle c t reqs = (p.writePhase c t reqs).1.readPhase c t (p.writePhase c t reqs).2 := rfl

section
variable {p : Pad} {c t b : Nat} {q : PadReq} {reqs : List PadReq}

/-- Where every write of a cycle asks for one bank, that bank's pick is made. -/
theorem Pad.writePhase_of_pick (hone : ∀ r ∈ reqs, r.write = true → bankOf r.at_ = bankOf q.at_)
    (hpick : portPick (Tbl.get 0 (bankKey c t (bankOf q.at_)) p.writeTurn) true (bankOf q.at_) reqs = some q) :
    (p.writePhase c t reqs).1.bytes = (p.write c t q).bytes ∧ (p.writePhase c t reqs).2 = unwait q reqs := by
  have hidle (l : List PadReq) (hl : ∀ r ∈ l, r ∈ reqs) (v : Pad) (k : Nat) (hk : k ≠ bankOf q.at_) : v.writePort c t k l = (v, l) :=
    Pad.writePort_of_nil (portReqs_eq_nil_iff.2 fun r hr h => hk (h.2.symm.trans (hone r (hl r hr) h.1)))
  have hact : p.writePort c t (bankOf q.at_) reqs = ({ p.write c t q with
      writeTurn := turnAfter (bankOf q.at_) q (bankKey c t (bankOf q.at_)) p.writeTurn }, unwait q reqs) := by
    simp only [Pad.writePort, hpick]
  rw [Pad.writePhase, foldl_of_one_acts (bankOf_mem q.at_) (nodup_natsFrom 0 8) hact
    (fun k _ hk => hidle _ (fun _ h => h) _ k hk) (fun k _ hk => hidle _ (fun _ h => mem_of_mem_unwait h) _ k hk)]
  exact ⟨rfl, rfl⟩

/-- Where no read is asked for, the read ports return nothing. -/
theorem Pad.readPhase_of_writes (h : ∀ r ∈ reqs, r.write = true) : p.readPhase c t reqs = (p, reqs, []) := by
  have hidle (k : Nat) : p.readPort c t k reqs = (p, reqs, []) :=
    Pad.readPort_of_nil (portReqs_eq_nil_iff.2 fun r hr hw => Bool.false_ne_true (hw.1.symm.trans (h r hr)))
  exact foldl_of_one_acts (b := 0) (by decide) (nodup_natsFrom 0 8) (by simp only [hidle, List.append_nil])
    (fun k _ _ => by simp only [hidle, List.append_nil]) (fun k _ _ => by simp only [hidle, List.append_nil])

/-- A read that asks alone is granted and returns its word. -/
theorem Pad.readPhase_of_single (h : q.write = false) :
    (p.readPhase c t [q]).1.bytes = p.bytes ∧ (p.readPhase c t [q]).2 = ([], [(q, p.word c t q.at_)]) := by
  have hpick (turn : Nat) : portPick turn false (bankOf q.at_) [q] = some q := portPick_of_single (by simp [portReqs, h])
  have hself : unwait q [q] = [] := if_pos rfl
  have hact : p.readPort c t (bankOf q.at_) [q] = ({ p with
      readTurn := turnAfter (bankOf q.at_) q (bankKey c t (bankOf q.at_)) p.readTurn }, [], [(q, p.word c t q.at_)]) := by
    simp only [Pad.readPort, hpick, hself]
  have hbefore (k : Nat) (hk : k ≠ bankOf q.at_) : p.readPort c t k [q] = (p, [q], []) :=
    Pad.readPort_of_nil (portReqs_eq_nil_iff.2 fun r hr hw => hk (by rw [← hw.2, List.mem_singleton.1 hr]))
  have hafter (v : Pad) (k : Nat) : v.readPort c t k [] = (v, [], []) := Pad.readPort_of_nil rfl
  rw [Pad.readPhase, foldl_of_one_acts (bankOf_mem q.at_) (nodup_natsFrom 0 8) (by simp only [hact, List.nil_append]; rfl)
    (fun k _ hk => by simp only [hbefore k hk, List.append_nil]) (fun k _ _ => by simp only [hafter, List.append_nil])]
  exact ⟨rfl, rfl⟩

/-- A cycle in which only writes are asked for, all of one bank, makes that bank's pick; the others wait. -/
theorem Pad.cycle_of_writes (hw : ∀ r ∈ reqs, r.write = true) (hone : ∀ r ∈ reqs, bankOf r.at_ = bankOf q.at_)
    (hpick : portPick (Tbl.get 0 (bankKey c t (bankOf q.at_)) p.writeTurn) true (bankOf q.at_) reqs = some q) :
    (p.cycle c t reqs).1.bytes = (p.write c t q).bytes ∧ (p.cycle c t reqs).2 = (unwait q reqs, []) := by
  obtain ⟨hbytes, hrest⟩ := Pad.writePhase_of_pick (fun r hr _ => hone r hr) hpick
  have hleft : ∀ r ∈ unwait q reqs, r.write = true := fun r hr => hw r (mem_of_mem_unwait hr)
  have hread := Pad.readPhase_of_writes (p := (p.writePhase c t reqs).1) (c := c) (t := t) hleft
  simp only [Pad.cycle_eq, hrest, hread, hbytes, and_self]

end

section
variable {p : Pad} {c t : Nat} {x y : PadReq}

/-- A write that asks alone takes place. -/
theorem Pad.cycle_of_single (hy : y.write = true) : (p.cycle c t [y]).1.bytes = (p.write c t y).bytes ∧ (p.cycle c t [y]).2 = ([], []) := by
  have hself : unwait y [y] = [] := if_pos rfl
  have hpick (turn : Nat) : portPick turn true (bankOf y.at_) [y] = some y := portPick_of_single (by simp [portReqs, hy])
  have h := Pad.cycle_of_writes (p := p) (c := c) (t := t) (List.forall_mem_singleton.2 hy) (List.forall_mem_singleton.2 rfl) (hpick _)
  rwa [hself] at h

section
variable (hx : x.write = true) (hy : y.write = true) (hbank : bankOf x.at_ = bankOf y.at_) (hhome : x.master = homeMaster (bankOf x.at_))
  (hne : y.master ≠ x.master)
include hx hy hbank hhome hne

/-- Of two masters that write in one bank the home master is granted; the other waits (R72). -/
theorem Pad.cycle_of_two_writes :
    (p.cycle c t [y, x]).1.bytes = (p.write c t x).bytes ∧ (p.cycle c t [y, x]).2 = ([y], []) := by
  have hrest : unwait x [y, x] = [y] := by
    rw [unwait, if_neg fun e : y = x => hne (e ▸ rfl), unwait, if_pos rfl]
  have hrs : portReqs true (bankOf x.at_) [y, x] = [y, x] := by simp [portReqs, hx, hy, hbank]
  have hfind : [y, x].find? (fun r => r.master == bankOf x.at_) = some x := by
    have hbx : x.master = bankOf x.at_ := hhome
    rw [← hbx, List.find?_cons_of_neg (by simpa using hne)]
    exact List.find?_cons_of_pos (beq_self_eq_true _)
  rw [← hrest]
  exact Pad.cycle_of_writes (by simp [hx, hy]) (by simp [hbank]) (portPick_of_home hrs hfind)

/-- Both writes take place, the home master's first. -/
theorem Pad.traffic_of_two_writes : (p.traffic c t [y, x]).bytes = ((p.write c t x).write c t y).bytes := by
  obtain ⟨hbytes, hwaits⟩ := Pad.cycle_of_two_writes (p := p) (c := c) (t := t) hx hy hbank hhome hne
  have htwo : p.traffic c t [y, x] = ((p.cycle c t [y, x]).1.cycle c t [y]).1 := by
    simp only [Pad.traffic, List.length_cons, List.length_nil, Pad.drain, List.cons_ne_nil, if_false, hwaits]
  rw [htwo, (Pad.cycle_of_single hy).1]
  exact Pad.write_bytes_congr hbytes

end

/-- A read that meets a write of its word in the same cycle returns the word as written (R73). -/
theorem Pad.cycle_of_write_and_read {w : PadWindow} {a : Nat} (hp : Memory.wf p.bytes = true) (hx : x.write = true) (hy : y.write = false)
    (hword : x.at_ / 64 = y.at_ / 64) (hw : padWindow x.addr = some (w, a)) :
    (p.cycle c t [y, x]).1.bytes = (p.write c t x).bytes ∧
      (p.cycle c t [y, x]).2 = ([], [(y, padMerge w (p.word c t x.at_) x.data x.enable)]) := by
  have hrest : unwait x [y, x] = [y] := by
    rw [unwait, if_neg fun e : y = x => Bool.false_ne_true (hy.symm.trans (e ▸ hx)), unwait, if_pos rfl]
  have hone : ∀ r ∈ [y, x], r.write = true → bankOf r.at_ = bankOf x.at_ := by simp [hy]
  obtain ⟨hbytes, hleft⟩ := Pad.writePhase_of_pick (p := p) (c := c) (t := t) hone (portPick_of_single (by simp [portReqs, hx, hy]))
  obtain ⟨hkept, hback⟩ := Pad.readPhase_of_single (p := (p.writePhase c t [y, x]).1) (c := c) (t := t) hy
  have hread : (p.writePhase c t [y, x]).1.word c t y.at_ = padMerge w (p.word c t x.at_) x.data x.enable := by
    rw [PadReq.at_of_window hw] at hword ⊢
    rw [← Pad.word_write hp hw, Pad.word, Pad.word, hbytes, hword]
  rw [Pad.cycle_eq, hleft, hrest]
  exact ⟨hkept.trans hbytes, hread ▸ hback⟩

end

/-! ## Zeroing between lodges (R75) -/

/-- Zeroing one core's scratchpads leaves those of the others. -/
theorem Pad.zero_other {p : Pad} {c k : Nat} (hp : Memory.wf p.bytes = true) (hk : k / 2 ^ 21 ≠ c) :
    Tbl.get 0 k (p.zero c).bytes = Tbl.get 0 k p.bytes :=
  Tbl.get_filter_of_kept (f := fun e => e.1 / 2 ^ 21 != c) 0 (fun _ => bne_iff_ne.2 hk) (Tbl.rising_of_wf 0 hp)

/-- A core's scratchpads pass to the lodge of a command: zeroed, unless its last one was of the same lodge. -/
def State.takeScratch (s : State) (c : Nat) (j : Job) : State :=
  let t := s.setCore c { s.core c with spLodge := some j.cmd.lodge }
  { t with pad := if (s.core c).spLodge = some j.cmd.lodge then s.pad else s.pad.zero c }

/-- A command begins with the scratchpads; a command whose tile commands may be checked then issues its shadows. -/
theorem State.beginCompute_eq (s : State) (c : Nat) (j : Job) : s.beginCompute c j =
    if s.on Reg.cmpShadowCfgEnable c && j.cmd.klass == 2 && j.cmd.op != 5 then
      (s.takeScratch c j).stepShadow c j (bitAt 18 (j.cmd.w 0)) (j.cmd.fld 2 0 32) (j.cmd.fld 2 32 32)
        (Config.tileCommands j.cmd.op (j.cmd.fld 2 0 32) (j.cmd.fld 2 32 32)) 0
    else s.takeScratch c j := rfl

theorem State.beginCompute_pad (s : State) (c : Nat) (j : Job) :
    (s.beginCompute c j).pad = if (s.core c).spLodge = some j.cmd.lodge then s.pad else s.pad.zero c := by
  rw [State.beginCompute_eq, apply_ite State.pad, State.stepShadow_pad, ite_self]
  rfl

/-- Settles O60: a write changes its word alone, the home master of a bank is granted first and the read port serves after the write port, and the
zeroing keeps the bytes of every other core. -/
theorem scratchpads : Obligations.Scratchpads := by
  unfold Obligations.Scratchpads
  refine ⟨fun p c t x y hp => ⟨fun w a hw => ?window, fun h => ⟨padStatus_of_above h, Pad.write_of_above h⟩, ?writes, ?read⟩,
    fun s c j => ⟨fun h => (State.beginCompute_pad s c j).trans (if_pos h), fun h hp k => ?zeroed⟩⟩
  case window =>
    exact ⟨Pad.word_write hp hw, Pad.write_turns.1, Pad.write_turns.2, fun k hk => Pad.write_other hp hw hk⟩
  case writes =>
    intro hx hy hbank hhome hne
    obtain ⟨hbytes, hwaits⟩ := Pad.cycle_of_two_writes (p := p) (c := c) (t := t) hx hy hbank hhome hne
    exact ⟨hbytes, hwaits, Pad.traffic_of_two_writes hx hy hbank hhome hne⟩
  case read =>
    intro w hx hy hword hw
    obtain ⟨⟨_, a⟩, hwin, rfl⟩ := Option.map_eq_some_iff.1 hw
    obtain ⟨hbytes, hret⟩ := Pad.cycle_of_write_and_read (c := c) (t := t) hp hx hy hword hwin
    exact ⟨hbytes, by rw [hret], by rw [hret]⟩
  case zeroed =>
    rw [State.beginCompute_pad, if_neg h]
    split
    case isTrue hk => exact Pad.zero_reads hk
    case isFalse hk => exact Pad.zero_other hp hk

end Sys2Proof.Machine
end

section
/-!
PROOFS. The statement of 02_compute.md on the ends of commands: the commit point, kills and the limit, shadow comparisons, quarantine and the core
map.
-/

namespace Sys2Proof.Machine

/-! ## The commit point (R83) -/

section
variable {s : State} {c p : Nat} {j : Job}

/-- With an empty directory nothing is invalidated. -/
theorem State.invalWritten_of_no_copies (hdir : s.mem.dir = []) : s.invalWritten c p j = (s, []) := by
  have hin (l a n : Nat) : s.dirIn l a n = [] := by
    rw [State.dirIn, hdir, List.filter_nil, ite_self]
  unfold State.invalWritten
  induction j.direct with
  | nil => rfl
  | cons d r ih => rw [List.foldl_cons, State.invalTracked_of_empty (hin ..)]; exact ih

variable (hjob : s.job c p = some j)
include hjob

/-- A command in FENCE that is due tells its outputs' other holders, unless an output is lost. -/
theorem State.commit_of_due (hst : j.st = .fence) (hwaiting : j.waiting = []) (horder : (s.core c).inOrder j.cmd p = true) :
    s.commit c p =
      if s.directLost j then (s.endJob c p j St.trayLost).afterPlace j.cmd
      else if (s.invalWritten c p j).2 = [] then
        (((((s.invalWritten c p j).1.commitJob c p j).dieCommit c p j).wainCommit j.cmd).afterPlace j.cmd)
      else (s.invalWritten c p j).1.setJob c p { j with waiting := (s.invalWritten c p j).2 } := by
  simp only [State.commit, hjob, if_pos (show j.st = .fence ∧ j.waiting = [] ∧ (s.core c).inOrder j.cmd p from ⟨hst, hwaiting, horder⟩)]

theorem State.commit_of_not_due (h : j.st ≠ .fence ∨ j.waiting ≠ [] ∨ (s.core c).inOrder j.cmd p = false) : s.commit c p = s := by
  have hno : ¬ (j.st = .fence ∧ j.waiting = [] ∧ (s.core c).inOrder j.cmd p = true) := by
    rintro ⟨hst, hwaiting, horder⟩
    rcases h with h | h | h
    · exact h hst
    · exact h hwaiting
    · exact Bool.false_ne_true (h.symm.trans horder)
  simp only [State.commit, hjob, if_neg hno]

/-! ## Kills and the limit (R90, R92) -/

theorem State.killEnd_of_open (h : j.st ≠ .kill ∨ s.farOpen c p j.cmd = true) : s.killEnd c p = s := by
  by_cases hst : j.st = .kill
  · simp [State.killEnd, hjob, hst, h.resolve_left (not_not.2 hst)]
  · simp only [State.killEnd, hjob, if_neg hst]

theorem State.killEnd_of_closed (hst : j.st = .kill) (hfar : s.farOpen c p j.cmd = false) (hfield : s.fieldOpen c p j.cmd = false)
    (hstreams : (s.wan.streams.any fun x => x.2.core == c && x.2.place == p && x.2.open_ != []) = false)
    (hpulls : (s.wan.pulls.any fun x => x.2.core == c && x.2.place == p && x.2.engine.isSome) = false) :
    s.killEnd c p = ((s.dropStreams c p).endKill c p j).afterPlace j.cmd := by
  simp only [State.killEnd, hjob, hst, hfar, hfield, hstreams, hpulls, Bool.or_self, Bool.false_eq_true, if_true, if_false]

theorem State.limit_of_idle (hrun : j.st ≠ .run) (hfence : j.st ≠ .fence) : s.limit c p = s := by
  simp [State.limit, hjob, hrun, hfence]

/-- The limit kills a command in RUN or FENCE that does not spin on a counter. -/
theorem State.limit_of_active (hst : j.st = .run ∨ j.st = .fence) (hspin : ¬ (j.cmd.klass = 6 ∧ j.cmd.op = 6)) :
    s.limit c p = ((((s.setJob c p (j.toKill false true St.cmdTimeout)).modCore c fun k => k.dropShadows j.cmd).count
      Reg.cmpKillCntCount 1 c).setBit Reg.cmpErrBits 0 c) := by
  have hspins : (j.st == .run && j.cmd.klass == 6 && j.cmd.op == 6) = false := by
    rw [Bool.and_assoc, Bool.and_eq_false_iff, ← Bool.not_eq_true, ← Bool.not_eq_true]
    exact Or.inr (by simpa using hspin)
  have hactive : (j.st == .run || j.st == .fence) = true := by simpa using hst
  simp only [State.limit, hjob, hspins, hactive, Bool.not_false, Bool.and_self, if_true]

end

/-! ## Shadows and the core map (R93 to R96, R439) -/

section
variable {s : State} {c : Nat}

theorem State.compareShadow_of_oldest {h : Shadow} {r : List Shadow} (hs : (s.core c).shadows = h :: r) (differs : Bool)
    (ta tb ma mb : Nat) : s.compareShadow c differs ta tb ma mb =
      if differs then ((s.modCore c fun k => { k with shadows := r }).count Reg.cmpShadowRunCount 1 c).mismatch c h ta tb ma mb
      else (s.modCore c fun k => { k with shadows := r }).count Reg.cmpShadowRunCount 1 c := by
  simp only [State.compareShadow, hs]

theorem State.abandonShadow_of_oldest {h : Shadow} {r : List Shadow} (hs : (s.core c).shadows = h :: r) :
    s.abandonShadow c = (s.modCore c fun k => { k with shadows := r }).bump Reg.cmpShadowSkipCount 1 c := by
  simp only [State.abandonShadow, hs]

theorem State.mapCore_of_idle {phys : Nat} (hidle : s.coreBusy c = false) (hphys : phys < 160) (hgood : (s.core phys).quarantined = false)
    (hrings : s.hif.rings = []) : s.mapCore c phys = s.wr Reg.hltCoreMapPhys phys c := by
  simp [State.mapCore, hidle, hphys, hgood, hrings]

theorem State.mapCore_of_busy {phys : Nat} (hbusy : s.coreBusy c = true) : s.mapCore c phys = s.discard := by
  simp [State.mapCore, hbusy]

end

/-- Settles O41: the ends of a command are the branches of its commit, its kill and its limit, taken by its state; the rows of a core are one case
each. -/
theorem commandEnds : Obligations.CommandEnds := by
  unfold Obligations.CommandEnds
  refine ⟨?jobs, ?cores⟩
  case jobs =>
    intro s core place j c p hjob
    refine ⟨fun hst hw ho hlost hdir => ?commits, fun hst hw ho hlost => ?lost, fun hst hw ho hlost => ?copies,
      fun h => next_choices_congr (State.commit_of_not_due hjob h), fun h => next_choices_congr (State.killEnd_of_open hjob h),
      fun hrun hfence => next_congr (State.limit_of_idle hjob hrun hfence),
      fun hst hfar hfield hstreams hpulls => next_choices_congr (State.killEnd_of_closed hjob hst hfar hfield hstreams hpulls),
      fun hst hspin => next_congr (State.limit_of_active hjob hst hspin)⟩
    case commits =>
      refine next_choices_congr ((State.commit_of_due hjob hst hw ho).trans ?_)
      rw [if_neg (by rw [hlost]; decide), State.invalWritten_of_no_copies hdir, if_pos rfl]
    case lost => exact next_choices_congr ((State.commit_of_due hjob hst hw ho).trans (if_pos hlost))
    case copies =>
      have hdue := (State.commit_of_due hjob hst hw ho).trans (if_neg (by rw [hlost]; decide))
      exact ⟨fun hnone => next_choices_congr (hdue.trans (if_pos hnone)), fun hsome => next_choices_congr (hdue.trans (if_neg hsome))⟩
  case cores =>
    intro s core ta tb ma mb phys h r c u
    exact ⟨fun hs => ⟨next_congr (State.compareShadow_of_oldest hs false ..), next_congr (State.compareShadow_of_oldest hs true ..),
        next_congr (State.abandonShadow_of_oldest hs)⟩,
      fun hseed => next_congr (if_neg hseed), fun hzero => next_congr (if_pos hzero), rfl,
      fun hidle hphys hgood hrings => next_congr (State.mapCore_of_idle hidle hphys hgood hrings),
      fun hbusy => next_congr (State.mapCore_of_busy hbusy)⟩

end Sys2Proof.Machine
end

section
/-!
PROOFS. Reads through the line caches of the compute dies (R186, R190): what they can change, and that a range without a HELD page changes memory's
bookkeeping alone.
-/

namespace Sys2Proof.Tbl

/-- What a change of one value keeps of it, it keeps of the value at every key. -/
theorem map_find_adjust {α β : Type} {f : α → α} {g : α → β} (hf : ∀ q, g (f q) = g q) (i k : Nat) :
    ∀ t : Tbl α, (find k (adjust i f t)).map g = (find k t).map g
  | [] => rfl
  | (j, q) :: r => by
    simp only [adjust]
    by_cases hj : j = i
    · simp only [if_pos hj, find]
      split
      · exact congrArg some (hf q)
      · rfl
    · simp only [if_neg hj, find, apply_ite (Option.map g), map_find_adjust hf i k r]

end Sys2Proof.Tbl

namespace Sys2Proof.Machine

/-! ## What a read through a line cache can change -/

/-- From `s` to `t` lines, directory entries and recalls may differ, with the messages a recall sends; no byte does, and nothing else. -/
structure ReadsLines (s t : State) : Prop where
  /-- everything but registers, memory and messages -/
  rest : t = { s with regs := t.regs, mem := t.mem, spn := t.spn, fld := t.fld, sent := t.sent }
  /-- the bytes of memory -/
  bytes : t.mem.bytes = s.mem.bytes

namespace ReadsLines

variable {s t u : State}

theorem refl (s : State) : ReadsLines s s := ⟨rfl, rfl⟩

theorem trans (h : ReadsLines s t) (g : ReadsLines t u) : ReadsLines s u :=
  ⟨by rw [g.rest, h.rest], g.bytes.trans h.bytes⟩

theorem of_moves (h : MovesPages s t) : ReadsLines s t := ⟨by rw [h.rest], h.bytes⟩

theorem foldl {α : Type} {f : State → α → State} (hf : ∀ u a, ReadsLines u (f u a)) (l : List α) (s : State) : ReadsLines s (l.foldl f s) := by
  induction l generalizing s with
  | nil => exact refl s
  | cons a r ih => exact (hf s a).trans (ih (f s a))

theorem foldlPair {α β : Type} {f : State × β → α → State × β} (hf : ∀ u a, ReadsLines u.1 (f u a).1) (l : List α) (p : State × β) :
    ReadsLines p.1 (l.foldl f p).1 := by
  induction l generalizing p with
  | nil => exact refl p.1
  | cons a r ih => exact (hf p a).trans (ih (f p a))

theorem cores (h : ReadsLines s t) : t.cores = s.cores := by rw [h.rest]

theorem coreStore (h : ReadsLines s t) : t.coreStore = s.coreStore := by rw [h.rest]

theorem hif (h : ReadsLines s t) : t.hif = s.hif := by rw [h.rest]

end ReadsLines

section
variable (s : State)

theorem State.putDie_moves (die key : Nat) : MovesPages s (s.putDie die key) := by
  unfold State.putDie
  dsimp only
  refine MovesPages.trans ?_ (.setMem rfl)
  split
  · exact .setMem rfl
  · exact .refl s

theorem State.send_readsLines (origin lodge dst : Nat) (m : Msg) : ReadsLines s (s.send origin lodge dst m) := by
  unfold State.send
  split
  · split
    · unfold State.sendField
      split <;> exact ⟨rfl, rfl⟩
    · exact .refl s
  · exact ⟨rfl, rfl⟩

theorem State.tell_readsLines (p : Pend) : ReadsLines s (s.tell p).1 :=
  ReadsLines.trans (t := s.putPend p) ⟨rfl, rfl⟩ (State.send_readsLines _ 8 p.lodge p.dst _)

theorem State.recallOldest_readsLines : ReadsLines s s.recallOldest.1 := by
  unfold State.recallOldest
  split
  · exact .refl s
  · refine ReadsLines.trans ?_ (.of_moves (.ite (.refl _) (.setMem rfl)))
    refine ReadsLines.trans ?_ (.foldlPair (fun u d => ?_) _ _)
    · exact ⟨rfl, rfl⟩
    · exact u.1.tell_readsLines _

theorem State.dirEntry_readsLines (key : Nat) (f : DirEnt → DirEnt) : ReadsLines s (s.dirEntry key f).1 := by
  have hput (u : State) : ReadsLines u (u.putDir key f) := ⟨rfl, rfl⟩
  unfold State.dirEntry
  split
  · exact hput s
  · exact s.recallOldest_readsLines.trans (hput _)

theorem State.dieLine_readsLines (die key : Nat) (write : Bool) : ReadsLines s (s.dieLine die key write) := by
  refine (ReadsLines.of_moves (s.putDie_moves die key)).trans ?_
  unfold State.dieLine
  dsimp only
  split
  · exact .refl _
  · exact State.dirEntry_readsLines _ key _

theorem State.dieReads_readsLines (c lodge : Nat) (rs : List (Nat × Nat)) : ReadsLines s (s.dieReads c lodge rs) :=
  .foldl (fun u k => u.dieLine_readsLines _ k false) _ s

end

/-! ## Lines outside HELD pages (R190) -/

section
variable {s t : State}

theorem State.putDie_pages (s : State) (die key : Nat) : (s.putDie die key).mem.pages = s.mem.pages := by
  unfold State.putDie
  dsimp only
  split <;> rfl

theorem State.lineHeld_of_pages (h : t.mem.pages = s.mem.pages) (key : Nat) : t.lineHeld key = s.lineHeld key := by
  rw [State.lineHeld, State.lineHeld, h]

/-- A line outside every HELD page takes its place in the cache, and the directory stays out of it. -/
theorem State.dieLine_of_unheld {die key : Nat} (h : s.lineHeld key = false) (write : Bool) :
    s.dieLine die key write = s.putDie die key := by
  rw [← State.lineHeld_of_pages (s.putDie_pages die key)] at h
  simp only [State.dieLine, h, Bool.not_false, if_true]

theorem State.dieReads_of_unheld {c l : Nat} {rs : List (Nat × Nat)}
    (h : ∀ r ∈ rs, ∀ k ∈ s.dieRange (dieOf c) l r.1 r.2, s.lineHeld k = false) : MovesPages s (s.dieReads c l rs) := by
  have hkeys : ∀ k ∈ rs.flatMap fun r => s.dieRange (dieOf c) l r.1 r.2, s.lineHeld k = false := by
    intro k hk
    obtain ⟨r, hr, hkr⟩ := List.mem_flatMap.1 hk
    exact h r hr k hkr
  unfold State.dieReads
  generalize rs.flatMap (fun r => s.dieRange (dieOf c) l r.1 r.2) = ks at hkeys
  clear h
  induction ks generalizing s with
  | nil => exact .refl s
  | cons k ks ih =>
    obtain ⟨hk, hks⟩ := List.forall_mem_cons.1 hkeys
    rw [List.foldl_cons, State.dieLine_of_unheld hk]
    exact (s.putDie_moves _ k).trans (ih fun i hi => (State.lineHeld_of_pages (s.putDie_pages _ k) i).trans (hks i hi))

end

section
variable {s : State}

theorem State.lineHeld_eq (s : State) (key : Nat) :
    s.lineHeld key = ((Tbl.find (key * 128 / 2 ^ 21) s.mem.pages).map (·.attr) == some 1) := by
  unfold State.lineHeld
  cases Tbl.find (key * 128 / 2 ^ 21) s.mem.pages <;> rfl

/-- Counting accesses changes no ATTR of a page. -/
theorem State.lineHeld_touch (s : State) (l a n : Nat) (w : Bool) (key : Nat) : (s.touch l a n w).lineHeld key = s.lineHeld key := by
  have hattr : ∀ (ps : List Nat) (t : Tbl Page), (Tbl.find (key * 128 / 2 ^ 21) (ps.foldl (fun t p =>
      Tbl.adjust (pageKey l p) (·.access (ceilDiv (min (a + n) ((p + 1) * 2 ^ 21) - max a (p * 2 ^ 21)) 64) w) t) t)).map (·.attr) =
      (Tbl.find (key * 128 / 2 ^ 21) t).map (·.attr) := by
    intro ps
    induction ps with
    | nil => exact fun t => rfl
    | cons p r ih =>
      intro t
      rw [List.foldl_cons, ih, Tbl.map_find_adjust]
      exact fun q => rfl
  rw [State.lineHeld_eq, State.lineHeld_eq]
  exact congrArg (· == some 1) (hattr (pagesOf a n) s.mem.pages)

theorem State.lineHeld_touchReads (s : State) (l : Nat) (rs : List (Nat × Nat)) (key : Nat) :
    (s.touchReads l rs).lineHeld key = s.lineHeld key := by
  induction rs generalizing s with
  | nil => rfl
  | cons r rs ih => exact (ih _).trans (s.lineHeld_touch l r.1 r.2 false key)

/-- A line of a lodge's own range lies in one of the pages the range touches. -/
theorem State.lineHeld_of_not_heldIn {t : State} {die l a n k : Nat} (hrange : a + n ≤ 2 ^ 48) (hheld : s.heldIn l a n = false)
    (hk : k ∈ t.dieRange die l a n) : s.lineHeld k = false := by
  have hpos : n ≠ 0 := by
    rintro rfl
    exact absurd hk List.not_mem_nil
  rw [State.dieRange, if_neg hpos, List.mem_filter, natsFrom_eq_range', List.mem_range'_1] at hk
  obtain ⟨⟨hlo, hhi⟩, -⟩ := hk
  simp only [lineKey, memKey] at hlo hhi
  obtain ⟨p, hp⟩ : ∃ p, k * 128 / 2 ^ 21 = pageKey l p := ⟨k * 128 / 2 ^ 21 - l * 2 ^ 27, by unfold pageKey; omega⟩
  unfold pageKey at hp
  have hmem : p ∈ pagesOf a n := by
    rw [pagesOf, if_neg hpos, natsFrom_eq_range', List.mem_range'_1]
    unfold pageOf
    omega
  have hattr : s.attrAt l (p * 2 ^ 21) ≠ 1 := fun h => by
    have := List.any_eq_false.1 hheld p hmem
    exact this (beq_iff_eq.2 h)
  have hpage : s.page l (p * 2 ^ 21) = Tbl.find (k * 128 / 2 ^ 21) s.mem.pages := by
    rw [State.page, if_pos (by omega), pageOf, Nat.mul_div_cancel _ (by decide), hp]
    rfl
  rw [State.attrAt, hpage] at hattr
  unfold State.lineHeld
  split
  · rename_i q hq
    rw [hq] at hattr
    exact beq_false_of_ne hattr
  · rfl

/-- Reads of a lodge's own ranges, none of them in a HELD page, leave everything but memory's bookkeeping. -/
theorem State.reads_moves {c l : Nat} {rs : List (Nat × Nat)} (hrange : ∀ r ∈ rs, r.1 + r.2 ≤ 2 ^ 48)
    (hheld : ∀ r ∈ rs, s.heldIn l r.1 r.2 = false) : MovesPages s ((s.touchReads l rs).dieReads c l rs) := by
  refine (State.touchReads_moves s l rs).trans (State.dieReads_of_unheld fun r hr k hk => ?_)
  rw [State.lineHeld_touchReads]
  exact State.lineHeld_of_not_heldIn (hrange r hr) (hheld r hr) hk

end

/-! ## Reads that meet no fault lie in a lodge's own range (R88, R170) -/

section
variable {s : State} {c l : Nat} {e : OpEnt} {t : List OpEnt} {f : Fmt} {r off n role m : Nat}

theorem State.range_of_readStatus {a : Nat} (h : s.readStatus l a n = St.ok) : a + n ≤ 2 ^ 48 := by
  by_contra hno
  have hnt : s.translates l a n = false := Bool.and_eq_false_iff.2 (Or.inl (decide_eq_false hno))
  have haccess : s.accessStatus l a n = St.addrFault := by simp [State.accessStatus, hnt]
  simp [State.readStatus, haccess, St.ok, St.addrFault] at h

/-- Reading device memory through an operand entry. -/
theorem State.range_of_opStatus {space a : Nat} (hspace : space ≠ 1) (h : s.opStatus c l space a n false = St.ok) : a + n ≤ 2 ^ 48 := by
  simp only [State.opStatus, if_neg hspace, Bool.false_eq_true, if_false] at h
  exact State.range_of_readStatus h

theorem rowReads_range (h : s.rowStatus c l e f r off n = St.ok) : ∀ x ∈ rowReads e f r off n, x.1 + x.2 ≤ 2 ^ 48 := by
  by_cases hspace : e.space = 1
  · rw [rowReads, if_pos hspace]
    exact fun x hx => absurd hx List.not_mem_nil
  unfold State.rowStatus at h
  dsimp only at h
  split at h
  · exact absurd h (by decide)
  split at h
  · exact absurd h (by assumption)
  case _ _ hrow =>
    rw [rowReads, if_neg hspace, List.forall_mem_cons]
    refine ⟨State.range_of_opStatus hspace (not_not.1 hrow), ?_⟩
    split at h
    case isTrue hblocked =>
      rw [if_pos hblocked, List.forall_mem_singleton]
      exact State.range_of_opStatus hspace h
    case isFalse hblocked =>
      rw [if_neg hblocked]
      split at h
      case isTrue hint =>
        rw [if_pos hint, List.forall_mem_singleton]
        exact State.range_of_opStatus hspace h
      case isFalse hint =>
        rw [if_neg hint]
        exact fun x hx => absurd hx List.not_mem_nil

theorem indexReads_range (h : s.indexStatus c l t role m = St.ok) : ∀ x ∈ indexReads t role m, x.1 + x.2 ≤ 2 ^ 48 := by
  cases hg : roleOf role t with
  | none =>
    simp only [indexReads, hg]
    exact fun x hx => absurd hx List.not_mem_nil
  | some g =>
    simp only [State.indexStatus, hg] at h
    simp only [indexReads, hg]
    split at h
    · exact absurd h (by decide)
    split
    case isTrue hspace =>
      rw [List.forall_mem_singleton]
      exact State.range_of_opStatus (by rw [hspace]; decide) h
    case isFalse => exact fun x hx => absurd hx List.not_mem_nil

end

end Sys2Proof.Machine
end

section
/-!
PROOFS. The statements of 02_compute.md on the vector instructions: the lane and row operations, the control of a program, loads and stores.
-/

namespace Sys2Proof.Machine

/-! ## One instruction issued (R78) -/

/-- A unit once the command has taken over what its last instruction stored, read and met. -/
def VecUnit.taken (v : VecUnit) : VecUnit := { v with stores := [], loads := [], badTernary := 0, fault := 0 }

theorem VecUnit.Settled.taken {v : VecUnit} (h : v.Settled) : v.taken = v := by
  cases v
  obtain ⟨-, rfl, rfl, rfl, rfl⟩ := h
  rfl

/-- Changing the vector unit of a core. -/
def State.setVec (s : State) (c : Nat) (u : VecUnit) : State := s.modCore c fun k => { k with vec := u }

/-- What the device does with the reads of an instruction: they are counted, go through the die's line cache, and their invalid codes are
counted (R59, R177, R190). -/
def State.vecReads (s : State) (c l : Nat) (u : VecUnit) : State :=
  ((s.touchReads l u.loads).dieReads c l u.loads).bump Reg.cmpFmtExcCount u.badTernary c

/-- The device once an instruction of lodge `l` has made its reads and its unit is ready for the next one. -/
def State.vecTaken (s : State) (c l : Nat) (u : VecUnit) : State := ((s.setVec c u).vecReads c l u).setVec c u.taken

/-- The command with the stores and flags of its instruction. -/
def State.vecJob (s : State) (c : Nat) (j : Job) (u : VecUnit) : Job :=
  { j with direct := j.direct ++ directOf u.outStores, flags := j.flags ||| u.flags,
           staged := (s.vecTaken c j.cmd.lodge u).stageMore c j.cmd.lodge j.staged u.outStores }

/-- What an instruction leaves when it meets no fault. -/
def State.vecDone (s : State) (c : Nat) (j : Job) (u : VecUnit) : State := (s.vecTaken c j.cmd.lodge u).setJob c 0 (s.vecJob c j u)

section
variable {s : State} {c : Nat} {u : VecUnit}

theorem State.Inv.setVec (hs : s.Inv) : (s.setVec c u).Inv := hs.modCore

theorem State.core_setVec_self (hs : s.Inv) : (s.setVec c u).core c = { s.core c with vec := u } := State.core_modCore_self hs

theorem State.core_setVec_other (hs : s.Inv) {d : Nat} (hd : d ≠ c) : (s.setVec c u).core d = s.core d := State.core_modCore_other hs hd

theorem State.job_setVec (hs : s.Inv) (d p : Nat) : (s.setVec c u).job d p = s.job d p := by
  unfold State.job
  by_cases h : d = c
  · rw [h, State.core_setVec_self hs]
  · rw [State.core_setVec_other hs h]

variable {i : VIns} (hexec : (s.core c).vec.exec s (s.vecEnv c) i = u)
include hexec

/-- A good instruction of the command in the compute slot that meets no fault. -/
theorem State.vecIssue_of_job {j : Job} (hs : s.Inv) (hj : s.job c 0 = some j) (hfmt : i.badFormat = false)
    (hgood : (s.core c).vec.badIns (s.vecEnv c) i = false) (hfault : u.fault = 0) : s.vecIssue c i = s.vecDone c j u := by
  have hvec : ((s.setVec c u).core c).vec = u := by rw [State.core_setVec_self hs]
  have hissue : s.vecIssue c i = (s.setVec c u).vecSettle c := by
    simp only [State.vecIssue, hj, hfmt, hgood, hexec, Bool.false_eq_true, if_false]
    rfl
  simp only [hissue, State.vecSettle, State.job_setVec hs, hj, hvec, hfault, ne_eq, not_true_eq_false, if_false]
  rfl

/-- With no command in the compute slot an instruction changes its unit alone. -/
theorem State.vecIssue_of_no_job (hj : s.job c 0 = none) : s.vecIssue c i = s.setVec c u := by
  simp only [State.vecIssue, hj, hexec]
  rfl

end

/-! ## What an instruction leaves alone -/

section
variable {s : State} {c : Nat} {u : VecUnit} {j : Job}

theorem State.vecReads_cores (s : State) (c l : Nat) (u : VecUnit) : (s.vecReads c l u).cores = s.cores :=
  (State.dieReads_readsLines _ c l u.loads).cores.trans (State.touchReads_cores s l u.loads)

theorem State.Inv.vecReads (hs : s.Inv) (l : Nat) : (s.vecReads c l u).Inv :=
  (State.bump_keeps (State.dieReads_keeps (State.touchReads_keeps (Keeps.refl s)))).inv hs

/-- A core depends on the table of cores alone. -/
theorem State.core_of_cores {s t : State} (h : t.cores = s.cores) (c : Nat) : t.core c = s.core c := by
  rw [State.core, State.core, h]

theorem State.vecTaken_inv (hs : s.Inv) (l : Nat) : (s.vecTaken c l u).Inv := (hs.setVec.vecReads l).setVec

theorem State.core_vecTaken_self (hs : s.Inv) (l : Nat) : (s.vecTaken c l u).core c = { s.core c with vec := u.taken } := by
  rw [State.vecTaken, State.core_setVec_self (hs.setVec.vecReads l), State.core_of_cores (State.vecReads_cores ..), State.core_setVec_self hs]

theorem State.core_vecTaken_other (hs : s.Inv) (l : Nat) {d : Nat} (hd : d ≠ c) : (s.vecTaken c l u).core d = s.core d := by
  rw [State.vecTaken, State.core_setVec_other (hs.setVec.vecReads l) hd, State.core_of_cores (State.vecReads_cores ..),
    State.core_setVec_other hs hd]

theorem State.core_vecDone_self (hs : s.Inv) :
    (s.vecDone c j u).core c = { s.core c with vec := u.taken, places := Tbl.put 0 (s.vecJob c j u) (s.core c).places } := by
  rw [State.vecDone, State.setJob, State.core_modCore_self (State.vecTaken_inv hs _), State.core_vecTaken_self hs]

theorem State.core_vecDone_other (hs : s.Inv) {d : Nat} (hd : d ≠ c) : (s.vecDone c j u).core d = s.core d := by
  rw [State.vecDone, State.setJob, State.core_modCore_other (State.vecTaken_inv hs _) hd, State.core_vecTaken_other hs _ hd]

theorem State.vec_vecDone (hs : s.Inv) : ((s.vecDone c j u).core c).vec = u.taken := by
  rw [State.core_vecDone_self hs]

theorem State.job_vecDone_self (hs : s.Inv) : (s.vecDone c j u).job c 0 = some (s.vecJob c j u) :=
  State.job_setJob_self (State.vecTaken_inv hs _)

theorem State.job_vecDone_other (hs : s.Inv) {p : Nat} (hp : p ≠ 0) : (s.vecDone c j u).job c p = s.job c p := by
  rw [State.job, State.core_vecDone_self hs]
  exact Tbl.find_put_other _ hp _

end

/-! ## Instructions that read and store nothing -/

section
variable {s : State} {c : Nat} {u : VecUnit}

/-- A counter raised by 0 holds what it held, within its width. -/
theorem State.rd_bump_zero {f : Fld} {k l : Nat} (hs : s.Inv) (h : s.rd f k l < 2 ^ f.width) : (s.bump f 0 k l).rd f k l = s.rd f k l := by
  rw [State.rd_bump_self hs]
  omega

/-- With no command, the new unit of a core is all that differs. -/
theorem State.vecOnly_setVec (hs : s.Inv) (hj : s.job c 0 = none) : VecOnly s (s.setVec c u) c where
  rest := rfl
  regs _ _ _ := rfl
  count _ := rfl
  cores _ hd := State.core_setVec_other hs hd
  here := by rw [State.core_setVec_self hs]
  places p _ := State.job_setVec hs c p
  job := by rw [State.job_setVec hs, hj]; rfl

/-- A settled unit leaves the registers and memory but for the count of invalid codes, which is written with what it held. -/
theorem State.vecTaken_of_settled (l : Nat) (hu : u.Settled) :
    s.vecTaken c l u = ((s.setVec c u).bump Reg.cmpFmtExcCount 0 c).setVec c u := by
  rw [State.vecTaken, State.vecReads, hu.taken, hu.loads, hu.codes]
  rfl

/-- A settled unit gives the command its flags alone. -/
theorem State.vecJob_of_settled (j : Job) (hu : u.Settled) : s.vecJob c j u = { j with flags := j.flags ||| u.flags } := by
  have hout : u.outStores = [] := by rw [VecUnit.outStores, hu.stores, List.map_nil]
  rw [State.vecJob, hout, show directOf [] = [] from rfl, List.append_nil]
  rfl

/-- With a settled unit, the unit and the flags of the command are all that differs. -/
theorem State.vecOnly_vecDone {j : Job} (hs : s.Inv) (hj : s.job c 0 = some j) (hu : u.Settled) : VecOnly s (s.vecDone c j u) c := by
  have hregs : (s.vecDone c j u).regs = ((s.setVec c u).bump Reg.cmpFmtExcCount 0 c).regs := by
    rw [State.vecDone, State.vecTaken_of_settled _ hu]
    rfl
  refine ⟨?rest, fun d k hk => ?regs, fun h => ?count, fun d hd => State.core_vecDone_other hs hd, ?here,
    fun p hp => State.job_vecDone_other hs hp, ?job⟩
  case rest => rw [State.vecDone, State.vecTaken_of_settled _ hu]; rfl
  case regs => rw [hregs]; exact Tbl.get_set_apart _ d hk hs.regs
  case count => exact (State.rd_of_regs hregs _ _ _).trans (State.rd_bump_zero (s := s.setVec c u) hs.setVec h)
  case here => rw [State.core_vecDone_self hs]
  case job => rw [State.job_vecDone_self hs, State.vecJob_of_settled j hu, State.vec_vecDone hs, hu.taken, hj]; rfl

/-- A good instruction that leaves its unit settled changes the unit, and its command collects the flags. -/
theorem State.vecIssue_only {i : VIns} (hs : s.Inv) (hfmt : i.badFormat = false) (hgood : (s.core c).vec.badIns (s.vecEnv c) i = false)
    (hexec : (s.core c).vec.exec s (s.vecEnv c) i = u) (hu : u.Settled) :
    VecOnly s (s.vecIssue c i) c ∧ ((s.vecIssue c i).core c).vec = u := by
  cases hj : s.job c 0 with
  | none =>
    rw [State.vecIssue_of_no_job hexec hj]
    exact ⟨State.vecOnly_setVec hs hj, by rw [State.core_setVec_self hs]⟩
  | some j =>
    rw [State.vecIssue_of_job hexec hs hj hfmt hgood hu.fault]
    exact ⟨State.vecOnly_vecDone hs hj hu, (State.vec_vecDone hs).trans hu.taken⟩

end

section
variable {v : VecUnit} (h : v.Settled)
include h

/-- A settled unit stays so when an instruction puts lanes in a register. -/
theorem VecUnit.Settled.put (r : Nat) (x : Fl (List F32)) : (v.put r x).Settled :=
  ⟨Tbl.rising_set h.regs, h.stores, h.loads, h.codes, h.fault⟩

theorem VecUnit.reg_put_self (r : Nat) (x : Fl (List F32)) : (v.put r x).reg r = x.val := Tbl.get_set_rising _ h.regs

theorem VecUnit.reg_put_other {r q : Nat} (x : Fl (List F32)) (hq : q ≠ r) : (v.put r x).reg q = v.reg q :=
  Tbl.get_set_apart _ _ hq h.regs

/-- A settled unit stays so when an instruction moves on or changes the open loops. -/
theorem VecUnit.Settled.goto (l : List LoopFrame) (n : Nat) : ({ v with loops := l, pc := n } : VecUnit).Settled :=
  ⟨h.regs, h.stores, h.loads, h.codes, h.fault⟩

end

/-- An instruction whose effect on the unit is to put lanes in a register. -/
theorem vecPuts_of_put {s : State} {core : Fin 160} {i : Instr} {w : VIns} {dst : Fin 32} {x : Fl (List F32)} (hs : s.Inv)
    (hv : (s.core core).vec.Settled) (hi : exec i s = .next (s.vecIssue core w)) (hfmt : w.badFormat = false)
    (hgood : (s.core core).vec.badIns (s.vecEnv core) w = false)
    (hput : (s.core core).vec.exec s (s.vecEnv core) w = (s.core core).vec.put dst x) : VecPuts s core i dst x := by
  obtain ⟨honly, hvec⟩ := State.vecIssue_only hs hfmt hgood hput (hv.put dst x)
  refine ⟨_, hi, honly, ?_⟩
  rw [hvec]
  exact ⟨VecUnit.reg_put_self hv dst x, fun r hr => VecUnit.reg_put_other hv x hr, rfl, rfl, rfl⟩

/-- Settles O16: each instruction word is good whatever its registers, and puts its row in its register. -/
theorem vectorLaneOps : Obligations.VectorLaneOps := by
  unfold Obligations.VectorLaneOps
  refine ⟨fun s core dst a b c hs hv => ?two, fun s core dst a hs hv => ?one⟩
  case two =>
    exact ⟨vecPuts_of_put hs hv rfl rfl rfl rfl, vecPuts_of_put hs hv rfl rfl rfl rfl, vecPuts_of_put hs hv rfl rfl rfl rfl,
      vecPuts_of_put hs hv rfl rfl rfl rfl, vecPuts_of_put hs hv rfl rfl rfl rfl, vecPuts_of_put hs hv rfl rfl rfl rfl⟩
  case one =>
    exact ⟨vecPuts_of_put hs hv rfl rfl rfl rfl, vecPuts_of_put hs hv rfl rfl rfl rfl, vecPuts_of_put hs hv rfl rfl rfl rfl,
      vecPuts_of_put hs hv rfl rfl rfl rfl, vecPuts_of_put hs hv rfl rfl rfl rfl, vecPuts_of_put hs hv rfl rfl rfl rfl,
      vecPuts_of_put hs hv rfl rfl rfl rfl⟩

/-! ## The control of a program (R78, R79) -/

/-- An instruction whose effect on the unit is on its open loops and its place in the program. -/
theorem vecMoves_of_goto {s : State} {core : Fin 160} {i : Instr} {w : VIns} {l : List LoopFrame} {n : Nat} (hs : s.Inv)
    (hv : (s.core core).vec.Settled) (hi : exec i s = .next (s.vecIssue core w)) (hfmt : w.badFormat = false)
    (hgood : (s.core core).vec.badIns (s.vecEnv core) w = false)
    (hexec : (s.core core).vec.exec s (s.vecEnv core) w = { (s.core core).vec with loops := l, pc := n }) :
    ∃ t : State, exec i s = .next t ∧ VecOnly s t core ∧ (t.core core).vec = { (s.core core).vec with loops := l, pc := n } :=
  ⟨_, hi, State.vecIssue_only hs hfmt hgood hexec (hv.goto l n)⟩

theorem VecUnit.badIns_topk {v : VecUnit} {env : VEnv} {dst a imm : Nat} (h1 : 1 ≤ imm) (h8 : imm ≤ 8) :
    v.badIns env ⟨0x14, dst, a, 0, 0, 0, 0, imm⟩ = false := by
  simp [VecUnit.badIns, VIns.check, VIns.bad, VIns.uses, h1, h8]

theorem VecUnit.badIns_loop {v : VecUnit} {env : VEnv} {imm : Nat} (h1 : 1 ≤ imm) (hmax : imm ≤ 65535) (hd : v.depth < 4) :
    v.badIns env ⟨0x16, 0, 0, 0, 0, 0, 0, imm⟩ = false := by
  simp [VecUnit.badIns, VIns.check, VIns.bad, VIns.uses, h1, hmax, hd]

theorem VecUnit.badIns_end {v : VecUnit} {env : VEnv} {f : LoopFrame} {r : List LoopFrame} (h : v.loops = f :: r) :
    v.badIns env ⟨0x17, 0, 0, 0, 0, 0, 0, 0⟩ = false := by
  simp [VecUnit.badIns, VIns.check, VIns.bad, VIns.uses, VecUnit.depth, h]

theorem VecUnit.loopEnd_of_open {v : VecUnit} {f : LoopFrame} {r : List LoopFrame} (h : v.loops = f :: r) :
    v.loopEnd = if f.idx + 1 < f.total then { v with loops := { f with idx := f.idx + 1 } :: r, pc := f.start }
      else { v with loops := r, pc := v.pc + 1 } := by
  simp only [VecUnit.loopEnd, h]

/-- Settles O17: each word over a row is good on every lane, and the words of control move the place in the program and its loop frames alone. -/
theorem vectorRowOps : Obligations.VectorRowOps := by
  unfold Obligations.VectorRowOps
  refine ⟨?rows, ?control⟩
  case rows =>
    intro s core dst a b c imm hs hv
    exact ⟨vecPuts_of_put hs hv rfl rfl rfl rfl, vecPuts_of_put hs hv rfl rfl rfl rfl, vecPuts_of_put hs hv rfl rfl rfl rfl,
      vecPuts_of_put hs hv rfl rfl rfl rfl,
      fun h1 h8 => vecPuts_of_put hs hv rfl rfl (VecUnit.badIns_topk h1 h8) rfl, vecPuts_of_put hs hv rfl rfl rfl rfl⟩
  case control =>
    intro s core imm f r hs hv v
    refine ⟨vecMoves_of_goto hs hv rfl rfl rfl rfl,
      fun h1 hmax hd => vecMoves_of_goto hs hv rfl rfl (VecUnit.badIns_loop h1 hmax hd) rfl, fun hopen => ?ends⟩
    case ends =>
      have hgood := VecUnit.badIns_end (env := s.vecEnv core) hopen
      have hend := VecUnit.loopEnd_of_open hopen
      split
      case isTrue h => exact vecMoves_of_goto hs hv rfl rfl hgood (hend.trans (if_pos h))
      case isFalse h => exact vecMoves_of_goto hs hv rfl rfl hgood (hend.trans (if_neg h))

end Sys2Proof.Machine
end

section

/-! PROOFS. LD and ST of the vector unit (R78, R502; O18). -/

namespace Sys2Proof.Machine

/-- A read of the core store depends on the core's page map and the core stores alone. -/
theorem State.csRead_congr {s t : State} {c : Nat} (hmap : (t.core c).pageMap = (s.core c).pageMap) (hst : t.coreStore = s.coreStore)
    (l off n : Nat) : t.csRead c l off n = s.csRead c l off n := by
  simp only [State.csRead, hmap, hst]

/-- From `s` to `t` cores, registers and the bookkeeping of memory may differ; no byte does, and nothing else. -/
structure ChangesCores (s t : State) : Prop where
  /-- everything but cores, registers and memory -/
  rest : t = { s with cores := t.cores, regs := t.regs, mem := t.mem }
  /-- the bytes of memory -/
  bytes : t.mem.bytes = s.mem.bytes

theorem ChangesCores.trans {s t u : State} (h : ChangesCores s t) (g : ChangesCores t u) : ChangesCores s u :=
  ⟨by rw [g.rest, h.rest], g.bytes.trans h.bytes⟩

theorem ChangesCores.of_moves {s t : State} (h : MovesPages s t) : ChangesCores s t := ⟨by rw [h.rest], h.bytes⟩

theorem State.setVec_changes (s : State) (c : Nat) (u : VecUnit) : ChangesCores s (s.setVec c u) := ⟨rfl, rfl⟩

theorem State.setJob_changes (s : State) (c p : Nat) (j : Job) : ChangesCores s (s.setJob c p j) := ⟨rfl, rfl⟩

theorem State.bump_changes (s : State) (f : Fld) (n i k : Nat) : ChangesCores s (s.bump f n i k) := ⟨rfl, rfl⟩

/-- A counter raised depends on the registers alone. -/
theorem State.bump_regs_congr {s t : State} (h : t.regs = s.regs) (f : Fld) (n i k : Nat) : (t.bump f n i k).regs = (s.bump f n i k).regs := by
  simp only [State.bump, State.wr, State.rd, h]

section
variable {s : State} {c : Nat} {u : VecUnit} {j : Job}

theorem State.vecTaken_coreStore (s : State) (c l : Nat) (u : VecUnit) : (s.vecTaken c l u).coreStore = s.coreStore :=
  (State.dieReads_readsLines _ c l u.loads).coreStore.trans (State.touchReads_coreStore (s.setVec c u) l u.loads)

/-- The command takes over the stores of its instruction as they would be staged before it. -/
theorem State.vecJob_eq (hs : s.Inv) : s.vecJob c j u =
    { j with direct := j.direct ++ directOf u.outStores, flags := j.flags ||| u.flags,
             staged := s.stageMore c j.cmd.lodge j.staged u.outStores } := by
  have hread (off n : Nat) : (s.vecTaken c j.cmd.lodge u).csRead c j.cmd.lodge off n = s.csRead c j.cmd.lodge off n :=
    State.csRead_congr (by rw [State.core_vecTaken_self hs]) (State.vecTaken_coreStore ..) _ off n
  simp only [State.vecJob, State.stageMore, hread]

/-- Whether a range meets a HELD page depends on memory alone. -/
theorem State.heldIn_of_mem {s t : State} (h : t.mem = s.mem) (l a n : Nat) : t.heldIn l a n = s.heldIn l a n := by
  have hattr (b : Nat) : t.attrAt l b = s.attrAt l b := by
    unfold State.attrAt State.page
    rw [h]
  unfold State.heldIn
  simp only [hattr]

section
variable (hrange : ∀ r ∈ u.loads, r.1 + r.2 ≤ 2 ^ 48) (hheld : ∀ r ∈ u.loads, s.heldIn j.cmd.lodge r.1 r.2 = false)
include hrange hheld

theorem State.setVec_reads_moves : MovesPages (s.setVec c u) (((s.setVec c u).touchReads j.cmd.lodge u.loads).dieReads c j.cmd.lodge u.loads) :=
  State.reads_moves hrange fun r hr => (State.heldIn_of_mem (s := s) (t := s.setVec c u) rfl ..).trans (hheld r hr)

/-- Reads that lie in the lodge's range and in no HELD page leave everything but the unit, its command, the count of invalid codes and the
bookkeeping of memory. -/
theorem State.vecDone_changes : ChangesCores s (s.vecDone c j u) :=
  ((((s.setVec_changes c u).trans (.of_moves (State.setVec_reads_moves hrange hheld))).trans (State.bump_changes ..)).trans
    (State.setVec_changes ..)).trans (State.setJob_changes ..)

theorem State.vecDone_regs : (s.vecDone c j u).regs = (s.bump Reg.cmpFmtExcCount u.badTernary c).regs := by
  have hmoves := State.setVec_reads_moves (c := c) hrange hheld
  exact State.bump_regs_congr (t := ((s.setVec c u).touchReads j.cmd.lodge u.loads).dieReads c j.cmd.lodge u.loads) (by rw [hmoves.rest]; rfl) ..

end

end

section
variable {s : State} {env : VEnv} {v : VecUnit} {f : Fmt} {e : OpEnt} {reg opnd fmt imm : Nat}

theorem State.vecEnv_of_job {c : Nat} {j : Job} (hj : s.job c 0 = some j) : s.vecEnv c = ⟨c, j.cmd.lodge, j.optab⟩ := by
  simp only [State.vecEnv, hj]

/-- The row that an access through entry `e` names: by way of GATHER (role 4) or SCATTER (role 5) where the entry has role `own` (R87). -/
def State.namedRow (s : State) (env : VEnv) (v : VecUnit) (e : OpEnt) (own role : Nat) : Nat :=
  if e.role = own then s.rowIndex env.core env.lodge env.tab role v.row else v.row

/-- The reading of the index that names it. -/
def VecUnit.namingReads (v : VecUnit) (env : VEnv) (e : OpEnt) (own role : Nat) : List (Nat × Nat) :=
  if e.role = own then indexReads env.tab role v.row else []

/-- The unit after a load through entry `e` in format `f`. -/
def VecUnit.loaded (v : VecUnit) (s : State) (env : VEnv) (e : OpEnt) (f : Fmt) (reg imm : Nat) : VecUnit :=
  let r := s.namedRow env v e 0 4
  let d := s.rowData env.core env.lodge e f r imm v.n
  { v.put reg (d.to32 f) with
    badTernary := v.badTernary + d.badTernary f
    loads := v.loads ++ v.namingReads env e 0 4 ++ rowReads e f r imm v.n }

/-- The stores of a register through entry `e` in format `f`. -/
def VecUnit.rowOut (v : VecUnit) (s : State) (env : VEnv) (e : OpEnt) (f : Fmt) (reg imm : Nat) : List Store :=
  rowStores e f (s.namedRow env v e 3 5) imm (encodeRow f (v.lanes reg)).val

/-- The unit after them. -/
def VecUnit.stored (v : VecUnit) (s : State) (env : VEnv) (e : OpEnt) (f : Fmt) (reg imm : Nat) : VecUnit :=
  { v with
    stores := v.stores ++ (v.rowOut s env e f reg imm).map fun x => (x.space, x.addr, x.bytes)
    flags := v.flags ||| (encodeRow f (v.lanes reg)).fl
    pc := v.pc + 1
    loads := v.loads ++ v.namingReads env e 3 5 }

/-- The index that names a row lies in the lodge's own range. -/
theorem VecUnit.namingReads_range {own role : Nat} (hi : e.role = own → s.indexStatus env.core env.lodge env.tab role v.row = St.ok) :
    ∀ x ∈ v.namingReads env e own role, x.1 + x.2 ≤ 2 ^ 48 := by
  unfold VecUnit.namingReads
  split
  · exact indexReads_range (hi ‹_›)
  · exact fun x hx => absurd hx List.not_mem_nil

section
variable (hv : v.Settled)
include hv

theorem VecUnit.loaded_taken : (v.loaded s env e f reg imm).taken =
    v.put reg ((s.rowData env.core env.lodge e f (s.namedRow env v e 0 4) imm v.n).to32 f) :=
  (hv.put reg _).taken

theorem VecUnit.loaded_loads : (v.loaded s env e f reg imm).loads =
    v.namingReads env e 0 4 ++ rowReads e f (s.namedRow env v e 0 4) imm v.n := by
  rw [VecUnit.loaded, hv.loads, List.nil_append]

theorem VecUnit.loaded_badTernary : (v.loaded s env e f reg imm).badTernary =
    (s.rowData env.core env.lodge e f (s.namedRow env v e 0 4) imm v.n).badTernary f := by
  rw [VecUnit.loaded, hv.codes, Nat.zero_add]

theorem VecUnit.loaded_outStores : (v.loaded s env e f reg imm).outStores = [] :=
  congrArg (List.map _) hv.stores

theorem VecUnit.stored_taken : (v.stored s env e f reg imm).taken =
    { v with flags := v.flags ||| (encodeRow f (v.lanes reg)).fl, pc := v.pc + 1 } := by
  have h : ({ v with flags := v.flags ||| (encodeRow f (v.lanes reg)).fl, pc := v.pc + 1 } : VecUnit).Settled :=
    ⟨hv.regs, hv.stores, hv.loads, hv.codes, hv.fault⟩
  exact h.taken

theorem VecUnit.stored_loads : (v.stored s env e f reg imm).loads = v.namingReads env e 3 5 := by
  rw [VecUnit.stored, hv.loads, List.nil_append]

theorem VecUnit.stored_outStores : (v.stored s env e f reg imm).outStores = v.rowOut s env e f reg imm := by
  rw [VecUnit.outStores, VecUnit.stored, hv.stores, List.nil_append, List.map_map]
  exact List.map_id _

end

variable (hf : Fmt.ofCode fmt = some f) (he : env.tab[opnd]? = some e)
include hf he

theorem VecUnit.badIns_ld (h3 : e.role ≠ 3) (h7 : e.role ≠ 7) (h4 : e.role ≠ 4) (h5 : e.role ≠ 5) :
    (⟨1, reg, 0, 0, 0, fmt, opnd, imm⟩ : VIns).badFormat = false ∧ v.badIns env ⟨1, reg, 0, 0, 0, fmt, opnd, imm⟩ = false := by
  simp [VIns.badFormat, hf, VecUnit.badIns, VIns.check, VIns.bad, VIns.uses, he, h3, h7, h4, h5]

theorem VecUnit.badIns_st (hfmt : stFormat f = true) (hrole : e.role = 3 ∨ e.role = 7) :
    (⟨2, reg, 0, 0, 0, fmt, opnd, imm⟩ : VIns).badFormat = false ∧ v.badIns env ⟨2, reg, 0, 0, 0, fmt, opnd, imm⟩ = false := by
  have hout : (e.role == 3 || e.role == 7) = true := by simpa using hrole
  simp [VIns.badFormat, hf, hfmt, VecUnit.badIns, VIns.check, VIns.bad, VIns.uses, he, hout]

/-- A load that meets no fault. -/
theorem VecUnit.load_of_ok (hi : e.role = 0 → s.indexStatus env.core env.lodge env.tab 4 v.row = St.ok)
    (hr : s.rowStatus env.core env.lodge e f (s.namedRow env v e 0 4) imm v.n = St.ok) :
    v.load s env reg fmt opnd imm = v.loaded s env e f reg imm := by
  have hok : firstBad [if e.role = 0 then s.indexStatus env.core env.lodge env.tab 4 v.row else St.ok,
      s.rowStatus env.core env.lodge e f (s.namedRow env v e 0 4) imm v.n] = St.ok := by
    rw [firstBad_eq_ok_iff, List.forall_mem_cons, List.forall_mem_singleton]
    exact ⟨ite_eq_right_iff.2 hi, hr⟩
  simp only [VecUnit.load, hf, he]
  exact if_neg (not_not.2 hok)

/-- A store that meets no fault. -/
theorem VecUnit.store_of_ok (hi : e.role = 3 → s.indexStatus env.core env.lodge env.tab 5 v.row = St.ok)
    (ho : s.outStatus env.core env.lodge e f (s.namedRow env v e 3 5) imm v.n (v.rowOut s env e f reg imm) = St.ok) :
    v.store s env reg fmt opnd imm = v.stored s env e f reg imm := by
  have hok : firstBad [if e.role = 3 then s.indexStatus env.core env.lodge env.tab 5 v.row else St.ok,
      s.outStatus env.core env.lodge e f (s.namedRow env v e 3 5) imm v.n (v.rowOut s env e f reg imm)] = St.ok := by
    rw [firstBad_eq_ok_iff, List.forall_mem_cons, List.forall_mem_singleton]
    exact ⟨ite_eq_right_iff.2 hi, ho⟩
  simp only [VecUnit.store, hf, he]
  exact if_neg (not_not.2 hok)

end

/-- Settles O18: a load puts its row in the register, a store gives the command its row; a read outside HELD pages changes memory's bookkeeping
alone. -/
theorem vectorLoadStore : Obligations.VectorLoadStore := by
  unfold Obligations.VectorLoadStore
  intro s core reg fmt opnd imm j f e hs hv hj hf he v
  let env : VEnv := ⟨core, j.cmd.lodge, j.optab⟩
  have henv : s.vecEnv core = env := State.vecEnv_of_job hj
  refine ⟨?load, ?store⟩
  case load =>
    intro h3 h7 h4 h5 r d hi hr hheld
    obtain ⟨hfmt, hgood⟩ := VecUnit.badIns_ld (v := v) (reg := reg) (env := env) (imm := imm) hf he h3 h7 h4 h5
    have hexec : v.exec s (s.vecEnv core) ⟨1, reg, 0, 0, 0, fmt, opnd, imm⟩ = v.loaded s env e f reg imm := by
      rw [henv]
      exact VecUnit.load_of_ok (env := env) hf he hi hr
    have hloads : (v.loaded s env e f reg imm).loads = v.namingReads env e 0 4 ++ rowReads e f r imm v.n := VecUnit.loaded_loads hv
    have hrange : ∀ x ∈ (v.loaded s env e f reg imm).loads, x.1 + x.2 ≤ 2 ^ 48 := by
      rw [hloads, List.forall_mem_append]
      exact ⟨VecUnit.namingReads_range (env := env) hi, rowReads_range hr⟩
    have hunheld : ∀ x ∈ (v.loaded s env e f reg imm).loads, s.heldIn j.cmd.lodge x.1 x.2 = false := by
      rw [hloads]
      exact hheld
    have hdone := State.vecIssue_of_job hexec hs hj hfmt (by rwa [henv]) hv.fault
    have hvec : ((s.vecDone core j (v.loaded s env e f reg imm)).core core).vec = v.put reg (d.to32 f) :=
      (State.vec_vecDone hs).trans (VecUnit.loaded_taken hv)
    have hchanges := State.vecDone_changes (c := core) hrange hunheld
    refine ⟨s.vecDone core j (v.loaded s env e f reg imm), next_congr hdone, ?_⟩
    rw [hvec]
    refine ⟨VecUnit.reg_put_self hv reg _, fun q hq => VecUnit.reg_put_other hv _ hq, rfl, rfl, ?count, ?job, hchanges.bytes, hchanges.rest,
      fun c hc => State.core_vecDone_other hs hc⟩
    case count =>
      rw [State.rd_of_regs (State.vecDone_regs hrange hunheld), VecUnit.loaded_badTernary hv]
      exact State.rd_wr_self hs
    case job =>
      rw [State.job_vecDone_self hs, State.vecJob_eq hs, VecUnit.loaded_outStores hv, show directOf [] = [] from rfl, List.append_nil]
      rfl
  case store =>
    intro hrole hfmtOk r sts hi ho hheld
    obtain ⟨hfmt, hgood⟩ := VecUnit.badIns_st (v := v) (reg := reg) (env := env) (imm := imm) hf he hfmtOk hrole
    have hexec : v.exec s (s.vecEnv core) ⟨2, reg, 0, 0, 0, fmt, opnd, imm⟩ = v.stored s env e f reg imm := by
      rw [henv]
      exact VecUnit.store_of_ok (env := env) hf he hi ho
    have hloads : (v.stored s env e f reg imm).loads = v.namingReads env e 3 5 := VecUnit.stored_loads hv
    have hrange : ∀ x ∈ (v.stored s env e f reg imm).loads, x.1 + x.2 ≤ 2 ^ 48 := by
      rw [hloads]
      exact VecUnit.namingReads_range (env := env) hi
    have hunheld : ∀ x ∈ (v.stored s env e f reg imm).loads, s.heldIn j.cmd.lodge x.1 x.2 = false := by
      rw [hloads]
      exact hheld
    have hdone := State.vecIssue_of_job hexec hs hj hfmt (by rwa [henv]) hv.fault
    have hvec := (State.vec_vecDone (c := core) (j := j) hs).trans
      (VecUnit.stored_taken (s := s) (env := env) (e := e) (f := f) (reg := reg) (imm := imm) hv)
    have hchanges := State.vecDone_changes (c := core) hrange hunheld
    refine ⟨s.vecDone core j (v.stored s env e f reg imm), next_congr hdone, ?job, hvec, hchanges.bytes, hchanges.rest,
      fun c hc => State.core_vecDone_other hs hc⟩
    case job =>
      rw [State.job_vecDone_self hs, State.vecJob_eq hs, VecUnit.stored_outStores hv]
      rfl

end Sys2Proof.Machine
end

section

/-! PROOFS. The compute commands in RUN (R75, R81, R86, R89; O19). -/

namespace Sys2Proof.Machine

/-! ## What the end of a command's work depends on -/

/-- Between `s` and `t` nothing has changed of what the end of a command's work at core `c` reads or answers for: the jobs, the core's page map,
core stores, host memory, the time and the bytes of lodge memory. -/
structure SameWork (c : Nat) (s t : State) : Prop where
  /-- every job -/
  jobs : ∀ d q, t.job d q = s.job d q
  /-- the core's page map -/
  pageMap : (t.core c).pageMap = (s.core c).pageMap
  /-- the core stores -/
  coreStore : t.coreStore = s.coreStore
  /-- the host interface -/
  hif : t.hif = s.hif
  /-- the time -/
  now : t.now = s.now
  /-- the bytes of memory -/
  bytes : t.mem.bytes = s.mem.bytes

namespace SameWork

variable {c : Nat} {s t u : State}

theorem refl (s : State) : SameWork c s s := ⟨fun _ _ => rfl, rfl, rfl, rfl, rfl, rfl⟩

theorem trans (h : SameWork c s t) (g : SameWork c t u) : SameWork c s u where
  jobs d q := (g.jobs d q).trans (h.jobs d q)
  pageMap := g.pageMap.trans h.pageMap
  coreStore := g.coreStore.trans h.coreStore
  hif := g.hif.trans h.hif
  now := g.now.trans h.now
  bytes := g.bytes.trans h.bytes

theorem of_cores (hcores : t.cores = s.cores) (hstore : t.coreStore = s.coreStore) (hhif : t.hif = s.hif) (hnow : t.now = s.now)
    (hbytes : t.mem.bytes = s.mem.bytes) : SameWork c s t :=
  ⟨State.job_of_cores hcores, congrArg Core.pageMap (State.core_of_cores hcores c), hstore, hhif, hnow, hbytes⟩

theorem of_moves (h : MovesPages s t) : SameWork c s t :=
  of_cores (by rw [h.rest]) (by rw [h.rest]) (by rw [h.rest]) h.now h.bytes

theorem of_readsLines (h : ReadsLines s t) : SameWork c s t :=
  of_cores h.cores h.coreStore h.hif (by rw [h.rest]) h.bytes

/-- A core whose places and page map stay. -/
theorem of_setCore (hs : s.Inv) {d : Nat} {k : Core} (hplaces : k.places = (s.core d).places) (hmap : k.pageMap = (s.core d).pageMap) :
    SameWork c s (s.setCore d k) where
  jobs e q := by
    unfold State.job
    by_cases h : e = d
    · rw [h, State.core_setCore_self hs, hplaces]
    · rw [State.core_setCore_other hs h]
  pageMap := by
    by_cases h : c = d
    · rw [h, State.core_setCore_self hs, hmap]
    · rw [State.core_setCore_other hs h]
  coreStore := rfl
  hif := rfl
  now := rfl
  bytes := rfl

theorem stagedOf (h : SameWork c s t) (l : Nat) (w : List Store) : t.stagedOf c l w = s.stagedOf c l w := by
  have hread (off n : Nat) : t.csRead c l off n = s.csRead c l off n := State.csRead_congr h.pageMap h.coreStore l off n
  simp only [State.stagedOf, hread]

/-- The outputs of a command, put out in a state that is as at its start for its work, end it in FENCE. -/
theorem fences {i : Instr} {p : Nat} {j : Job} {stores : List Store} {flags : Flags} {result : Nat} (h : SameWork c s u) (hu : u.Inv)
    (ht : SameWork c (u.outputs c p j stores flags result) t) (hexec : exec i s = .next t.choices) : Fences s i c p j stores flags result := by
  obtain ⟨hjob, hplaces, hstore, hhif, hbytes⟩ := State.toFence_spec hu c p
    { j with direct := directOf stores, staged := u.stagedOf c j.cmd.lodge stores, flags := flags, result := result }
  refine ⟨t, hexec, ?_, fun d q hd => (ht.jobs d q).trans ((hplaces d q hd).trans (h.jobs d q)), ht.coreStore.trans (hstore.trans h.coreStore),
    ht.hif.trans (hhif.trans h.hif), fun k hk => ?_⟩
  · rw [ht.jobs, ← h.stagedOf, ← h.now]
    exact hjob
  · rw [ht.bytes, ← h.bytes]
    exact hbytes k hk

end SameWork

/-! ## A compute command begins, runs and leaves its scratchpads (R75, R93) -/

section
variable {s : State} {c : Nat}

/-- One tile command's draw of the LFSR, with the shadow it may issue. -/
def State.drawShadow (s : State) (c : Nat) (j : Job) (all : Bool) (m n i : Nat) : State :=
  let x := lfsrStep (Tbl.get (c + 1) c s.lfsrs)
  let t := { s with lfsrs := Tbl.set (c + 1) c x s.lfsrs }
  if all || x % 2 ^ t.rd Reg.cmpShadowCfgRateLog2 c == 0 then
    if (t.core ((c + 40) % 160)).quarantined then t.bump Reg.cmpShadowSkipCount 1 c
    else t.modCore c fun q => { q with shadows := q.shadows ++ [⟨Config.tileOf j.cmd.op m n i, j.cmd.tag, j.cmd.lodge, j.cmd.ring, j.cmd.seq⟩] }
  else t

theorem State.stepShadow_succ (j : Job) (all : Bool) (m n k i : Nat) :
    s.stepShadow c j all m n (k + 1) i = (s.drawShadow c j all m n i).stepShadow c j all m n k (i + 1) := rfl

theorem State.drawShadow_sameWork (hs : s.Inv) (j : Job) (all : Bool) (m n i : Nat) :
    SameWork c s (s.drawShadow c j all m n i) ∧ (s.drawShadow c j all m n i).Inv := by
  let t : State := { s with lfsrs := Tbl.set (c + 1) c (lfsrStep (Tbl.get (c + 1) c s.lfsrs)) s.lfsrs }
  have ht : t.Inv := ⟨hs.bytes, hs.store, hs.pad, hs.host, hs.regs, hs.cores⟩
  have hdraw : SameWork c s t := .of_cores rfl rfl rfl rfl rfl
  unfold State.drawShadow
  dsimp only
  split
  · split
    · exact ⟨hdraw.trans (.of_cores rfl rfl rfl rfl rfl), (State.bump_keeps (Keeps.refl t)).inv ht⟩
    · exact ⟨hdraw.trans (.of_setCore ht rfl rfl), ht.modCore⟩
  · exact ⟨hdraw, ht⟩

theorem State.stepShadow_sameWork (hs : s.Inv) (j : Job) (all : Bool) (m n k i : Nat) : SameWork c s (s.stepShadow c j all m n k i) := by
  induction k generalizing s i with
  | zero => exact .refl s
  | succ k ih =>
    obtain ⟨hdraw, hinv⟩ := State.drawShadow_sameWork (c := c) hs j all m n i
    rw [State.stepShadow_succ]
    exact hdraw.trans (ih hinv _)

theorem State.takeScratch_inv (hs : s.Inv) (j : Job) : (s.takeScratch c j).Inv := by
  have hpad : Memory.wf (s.takeScratch c j).pad.bytes = true := by
    unfold State.takeScratch
    dsimp only
    split
    · exact hs.pad
    · exact Pad.zero_wf hs.pad
  exact ⟨hs.bytes, hs.store, hpad, hs.host, hs.regs, (hs.setCore (c := c)).cores⟩

/-- What begins a compute command touches nothing that its end reads. -/
theorem State.beginCompute_sameWork (hs : s.Inv) (j : Job) : SameWork c s (s.beginCompute c j) := by
  let t := s.setCore c { s.core c with spLodge := some j.cmd.lodge }
  have hcore : SameWork c s t := .of_setCore hs rfl rfl
  have htake : SameWork c s (s.takeScratch c j) := hcore.trans (.of_cores rfl rfl rfl rfl rfl)
  rw [State.beginCompute_eq]
  split
  · exact htake.trans (State.stepShadow_sameWork (State.takeScratch_inv hs j) ..)
  · exact htake

theorem State.leaveScratch_sameWork (s : State) (c : Nat) : SameWork c s (s.leaveScratch c) := .of_cores rfl rfl rfl rfl rfl

theorem State.keepVec_sameWork (hs : s.Inv) (v : VecUnit) : SameWork c s (s.keepVec c v) := .of_setCore hs rfl rfl

end

/-! ## A run that meets no fault -/

section
variable {s : State} {c : Nat} {j : Job}

/-- The end of a run that meets no fault and whose staged pages can be copied puts out its stores, once its reads are counted. -/
theorem State.endRun_of_ok {p : Nat} {r : RunOut} (hfault : r.fault = St.ok) (hstage : s.stageStatus c j.cmd.lodge r.stores = St.ok) :
    s.endRun c p j r = ((s.touchReads j.cmd.lodge r.reads).bump Reg.cmpFmtExcCount r.bad c).outputs c p j r.stores r.flags 0 :=
  if_neg (Classical.not_not.2 (firstBad_eq_ok_iff.2 (by simp [hfault, hstage])))

/-- The job of a compute command as its work finds it, its operand table read (R177). -/
def State.begun (s : State) (c : Nat) (j : Job) : Job := { j with optab := (s.beginCompute c j).optab j.cmd }

theorem State.runCompute_eq {body : State → Job → RunOut} {r : RunOut} (hbody : body (s.beginCompute c j) (s.begun c j) = r) :
    s.runCompute c j body = (((s.beginCompute c j).endRun c 0 (s.begun c j) { r with reads := j.cmd.tableReads ++ r.reads }).dieReads c
      j.cmd.lodge r.reads).leaveScratch c := by
  subst hbody
  rfl

/-- A compute command whose work `r` meets no fault puts out the stores of `r`; what follows its outputs changes nothing of its work. -/
theorem State.runCompute_outputs (hs : s.Inv) {body : State → Job → RunOut} {r : RunOut} (hbody : body (s.beginCompute c j) (s.begun c j) = r)
    (hfault : r.fault = St.ok) (hstage : (s.beginCompute c j).stageStatus c j.cmd.lodge r.stores = St.ok) :
    ∃ v : State, v.Inv ∧ SameWork c s v ∧ SameWork c (v.outputs c 0 (s.begun c j) r.stores r.flags 0) (s.runCompute c j body) := by
  have hbegin : SameWork c s (s.beginCompute c j) := State.beginCompute_sameWork hs j
  have hu : (s.beginCompute c j).Inv := (State.beginCompute_keeps (Keeps.refl s)).inv hs
  rw [State.runCompute_eq hbody]
  generalize s.beginCompute c j = u at hbegin hu hstage ⊢
  rw [State.endRun_of_ok (j := s.begun c j) (r := { r with reads := j.cmd.tableReads ++ r.reads }) hfault hstage]
  refine ⟨_, (State.bump_keeps (State.touchReads_keeps (Keeps.refl u))).inv hu, ?_,
    .trans (.of_readsLines (State.dieReads_readsLines ..)) (State.leaveScratch_sameWork _ c)⟩
  exact hbegin.trans (.trans (.of_moves (State.touchReads_moves u _ _)) (.of_cores rfl rfl rfl rfl rfl))

/-- A compute command in RUN, its row the run of a body that meets no fault. -/
theorem fences_of_runCompute (hs : s.Inv) {i : Instr} {body : State → Job → RunOut} (hexec : exec i s = .next (s.runCompute c j body).choices)
    (hfault : (body (s.beginCompute c j) (s.begun c j)).fault = St.ok)
    (hstage : (s.beginCompute c j).stageStatus c j.cmd.lodge (body (s.beginCompute c j) (s.begun c j)).stores = St.ok) :
    Fences s i c 0 (s.begun c j) (body (s.beginCompute c j) (s.begun c j)).stores (body (s.beginCompute c j) (s.begun c j)).flags 0 := by
  obtain ⟨v, hv, hwork, hleft⟩ := State.runCompute_outputs hs rfl hfault hstage
  exact hwork.fences hv hleft hexec

/-- And of a VECTOR program, whose unit is kept. -/
theorem fences_of_vector (hs : s.Inv) {i : Instr} {u : VecUnit} (hexec : exec i s = .next ((s.runCompute c j fun _ _ => u.out).keepVec c u).choices)
    (hfault : u.fault = St.ok) (hstage : (s.beginCompute c j).stageStatus c j.cmd.lodge u.outStores = St.ok) :
    Fences s i c 0 (s.begun c j) u.outStores u.flags 0 := by
  obtain ⟨v, hv, hwork, hleft⟩ := State.runCompute_outputs (r := u.out) (body := fun _ _ => u.out) hs rfl hfault hstage
  exact hwork.fences hv (hleft.trans (State.keepVec_sameWork ((State.runCompute_keeps (Keeps.refl s)).inv hs) u)) hexec

end

/-- Settles O19: the run of each opcode puts out the stores of its work, and neither what begins a command nor what follows its outputs touches
what the outputs read. -/
theorem computeRuns : Obligations.ComputeRuns := by
  intro s core j hs hj hst hwait hstatus hklass
  dsimp only
  have hrun {op : Nat} (hop : j.cmd.op = op) : Running s core 0 2 op j := ⟨hj, hst, hwait, hstatus, hklass, hop⟩
  refine ⟨fun hop hfault hstage => ?_, fun hop hfault hstage => ?_, fun hop hfault hstage => ?_, fun hop hfault hstage => ?_, fun hop => ?_⟩
  · exact fences_of_runCompute hs (body := fun s j => s.matmul core j) (next_choices_congr ((hrun hop).runSlot _ _)) hfault hstage
  · exact fences_of_vector hs (next_choices_congr ((hrun hop).runSlot _ _)) hfault hstage
  · exact fences_of_runCompute hs (body := fun s j => s.convert core j) (next_choices_congr ((hrun hop).runSlot _ _)) hfault hstage
  · exact fences_of_runCompute hs (body := fun s j => s.copyRows core j) (next_choices_congr ((hrun hop).runSlot _ _)) hfault hstage
  · exact fences_of_runCompute hs (body := fun _ _ => RunOut.none) (next_choices_congr ((hrun hop).runSlot _ _)) rfl
      (State.stageStatus_of_direct fun x hx => absurd hx List.not_mem_nil)

end Sys2Proof.Machine
end

section

/-! PROOFS. The near-bank commands in RUN (R89, R108, R112, R113, R117 to R119, R128; O20). -/

namespace Sys2Proof.Machine

/-! ## Work on stacks whose channel groups are in (R128) -/

section
variable {s : State} {j : Job}

theorem State.rampUp_inv (hs : s.Inv) (j : Job) : (s.rampUp j).Inv := (State.rampUp_keeps (Keeps.refl s)).inv hs

theorem State.matvec_rampUp (c : Nat) (k : Job) : (s.rampUp j).matvec c k = s.matvec c k := rfl

theorem State.eltwiseRun_rampUp (c : Nat) (k : Job) : (s.rampUp j).eltwiseRun c k = s.eltwiseRun c k := rfl

theorem State.normsum_rampUp (c : Nat) (k : Job) : (s.rampUp j).normsum c k = s.normsum c k := rfl

theorem State.rowRun_rampUp (pages : List Nat) (prog : List RowWord) (k : Job) : (s.rampUp j).rowRun pages prog k = s.rowRun pages prog k := by
  induction prog generalizing k with
  | nil => rfl
  | cons w r ih => exact ite_congr rfl (fun _ => rfl) fun _ => ih (s.rowStep pages k w)

theorem State.rowRunFault_rampUp (pages : List Nat) (prog : List RowWord) (k : Job) :
    (s.rampUp j).rowRunFault pages prog k = s.rowRunFault pages prog k := by
  induction prog generalizing k with
  | nil => rfl
  | cons w r ih => exact ite_congr rfl (fun _ => rfl) fun _ => ite_congr rfl (fun _ => rfl) fun _ => ih (s.rowStep pages k w)

end

/-! ## The run of a near-bank command (R89) -/

section
variable {s : State} {c p op : Nat} {j : Job}

/-- The row of a running near-bank command, none of whose stacks is suspended, is its work with its stacks' groups in. -/
theorem Running.runNear (h : Running s c p 3 op j) (hawake : s.suspended j = false) (run : State → Job → State) :
    s.runNear c p op run = run (s.rampUp j) j := by
  have hready : j.waiting = [] ∧ j.status = 0 ∧ !s.suspended j := ⟨h.waiting, h.status, by rw [hawake]; rfl⟩
  simp only [State.runNear, h.here, h.st, if_pos (show j.cmd.klass = 3 ∧ j.cmd.op = op from ⟨h.klass, h.op⟩), if_pos hready]

/-- A near-bank run that meets no fault and whose staged pages can be copied ends in FENCE. -/
theorem fences_of_endNear (hs : s.Inv) {i : Instr} {r : RunOut} {steps : Nat} (hexec : exec i s = .next ((s.rampUp j).endNear c p j r steps).choices)
    (hfault : r.fault = St.ok) (hstage : s.stageStatus c j.cmd.lodge r.stores = St.ok) : Fences s i c p j r.stores r.flags 0 := by
  have hnear : (s.rampUp j).endNear c p j r steps =
      ((s.rampUp j).count Reg.nbuRowstepCount steps).endRun c p j { r with reads := (j.cmd.optabAddr, 32 * j.cmd.optabCount) :: r.reads } :=
    congrArg (fun u : State => u.endRun c p j { r with reads := (j.cmd.optabAddr, 32 * j.cmd.optabCount) :: r.reads })
      (if_neg (by rw [hfault]; decide))
  have hworking : ((s.rampUp j).count Reg.nbuRowstepCount steps).Inv := (State.count_keeps (Keeps.refl _)).inv (State.rampUp_inv hs j)
  exact fences_of_endRun_at (r := { r with reads := (j.cmd.optabAddr, 32 * j.cmd.optabCount) :: r.reads }) hworking rfl (hnear ▸ hexec) hfault hstage

/-- A running near-bank command whose work does not read the ramp ends in FENCE with the outputs of that work. -/
theorem Running.fences_of_work (h : Running s c p 3 op j) (hs : s.Inv) (hawake : s.suspended j = false) {i : Instr}
    {work : State → Nat → Job → RunOut} {steps : Job → RunOut → Nat}
    (hexec : exec i s = .next (s.runNear c p op fun s j => s.endNear c p j (work s c j) (steps j (work s c j))).choices)
    (hramp : work (s.rampUp j) c j = work s c j) (hfault : (work s c j).fault = St.ok)
    (hstage : s.stageStatus c j.cmd.lodge (work s c j).stores = St.ok) : Fences s i c p j (work s c j).stores (work s c j).flags 0 := by
  rw [h.runNear hawake, hramp] at hexec
  exact fences_of_endNear hs hexec hfault hstage

end

/-! ## Row programs (R117 to R119) -/

section
variable {s : State} {c p : Nat} {j : Job}

theorem State.touchRows_moves (s : State) (l : Nat) (pages : List Nat) (ws : List RowWord) : MovesPages s (s.touchRows l pages ws) :=
  List.foldlRecOn (motive := MovesPages s) _ _ (State.touchReads_moves s l _) fun _ h _ _ => h.trans (.setMem rfl)

/-- The job of a row program that has run up to its END word. -/
def State.rowsRun (s : State) (j : Job) : Job :=
  s.rowRun (s.windowPages j.cmd.lodge j.optab) (s.rowProg j.cmd j.optab) { j with direct := [] }

/-- A row program in one stack that meets no fault enters FENCE with what its words wrote; the accesses before are counted alone. -/
theorem State.rowprog_of_ok (hs : s.Inv) (hstack : (s.stacksOf j.pins).length ≤ 1)
    (hfault : s.rowRunFault (s.windowPages j.cmd.lodge j.optab) (s.rowProg j.cmd j.optab) { j with direct := [] } = St.ok) :
    ∃ v : State, v.Inv ∧ SameWork c s v ∧ s.rowprog c p j = v.toFence c p (s.rowsRun j) := by
  let ws := s.rowsDone (s.windowPages j.cmd.lodge j.optab) (s.rowProg j.cmd j.optab) { j with direct := [] }
  let t := (s.touchReads j.cmd.lodge (j.optab.map fun e => (e.addr, e.len))).touchRows j.cmd.lodge (s.windowPages j.cmd.lodge j.optab) ws
  have ht : MovesPages s t := (State.touchReads_moves s _ _).trans (State.touchRows_moves ..)
  let u := t.count Reg.nbuRowstepCount (64 * ws.length)
  have hu : u.Inv := (State.count_keeps (Keeps.refl t)).inv (ht.inv hs)
  have hread : MovesPages u (u.touchReads j.cmd.lodge [(j.cmd.optabAddr, 64)]) := State.touchReads_moves ..
  have hcount : SameWork c t u := .of_cores rfl rfl rfl rfl rfl
  refine ⟨_, hread.inv hu, .trans (.of_moves ht) (hcount.trans (.of_moves hread)), ?_⟩
  simp only [State.rowprog, if_neg (Nat.not_lt.2 hstack), hfault, ne_eq, not_true_eq_false, if_false]
  rfl

end

/-- Settles O20: the ramp of its stacks changes nothing that the work of a command reads, and each work ends in FENCE with its outputs. -/
theorem nearBankRuns : Obligations.NearBankRuns := by
  intro s core place j hs hj hst hwait hstatus hklass hawake
  have hrun {op : Nat} (hop : j.cmd.op = op) : Running s core (nearPlace place) 3 op j := ⟨hj, hst, hwait, hstatus, hklass, hop⟩
  refine ⟨fun hop hfault hstage => ?_, fun hop hfault hstage => ?_, fun hop hfault hstage => ?_, fun hop => ?_⟩
  · exact (hrun hop).fences_of_work hs hawake (work := State.matvec) (steps := productSteps) rfl (State.matvec_rampUp ..) hfault hstage
  · exact (hrun hop).fences_of_work hs hawake (work := State.eltwiseRun) (steps := fun _ => rowSteps) rfl (State.eltwiseRun_rampUp ..) hfault hstage
  · exact (hrun hop).fences_of_work hs hawake (work := State.normsum) (steps := fun _ => rowSteps) rfl (State.normsum_rampUp ..) hfault hstage
  · intro pages prog hstack hfault
    rw [← State.rowRunFault_rampUp (j := j)] at hfault
    obtain ⟨v, hv, hwork, hend⟩ := State.rowprog_of_ok (c := core) (p := nearPlace place) (State.rampUp_inv hs j) hstack hfault
    have hrow : (s.rampUp j).rowsRun j = s.rowRun pages prog { j with direct := [] } := State.rowRun_rampUp ..
    rw [hrow] at hend
    obtain ⟨hjob, hplaces, hstore, hhif, -⟩ := State.toFence_spec hv core (nearPlace place) (s.rowRun pages prog { j with direct := [] })
    refine ⟨_, next_choices_congr (((hrun hop).runNear hawake _).trans hend), ?_, fun d q hd => (hplaces d q hd).trans (hwork.jobs d q),
      hstore.trans hwork.coreStore, hhif.trans hwork.hif⟩
    rw [hjob, hwork.now]
    rfl

end Sys2Proof.Machine
end
